-- ==== Sys2Proof/Word.lean ====
section
/-! DEFINITION. The word types of the Forcen: 32-bit register words, 64-bit values and bytes (R10, R38). -/

namespace Sys2Proof

/-- One register word, 32 bits (R38). -/
abbrev Word := BitVec 32

/-- One byte of device memory, of a message or of a record. -/
abbrev Byte := BitVec 8

/-- One of the partitions P0 to P3 (R28). -/
abbrev Part := Fin 4

/-- One of the queues Q0 to Q63 of a partition (R28). -/
abbrev QueueId := Fin 64

/-- One of the matrix arrays, vector engines, slices, stacks or quadrants 0 to 7 (R13). -/
abbrev Quad := Fin 8

/-- One of the ten link ports, numbered as in R268. -/
abbrev PortId := Fin 10

/-- One of the Euton ports E0 to E3. -/
abbrev EPort := Fin 4

/-- One of the six peer ports X+, X−, Y+, Y−, Z+, Z−, numbered as in R268. -/
abbrev PeerPort := Fin 6

/-- One of the 64 parallel groups (R323). -/
abbrev GroupId := Fin 64

end Sys2Proof
end

