-- ==== Sys2Proof/Syntax.lean ====
section
/-! DEFINITION. The commands the Forcen takes: one constructor of `Instr` per row of spec/opcode_table.json, with the
operands the spec's chapters give it. A message that arrives carries its fields; the end of a timer names the unit whose
timer ended; a measurement carries what was read. -/

namespace Sys2Proof

/-- Who makes a register access: a partition through its Euton ports, or the management core (R41). -/
inductive Requester where
  | part (p : Part)
  | mgc
  deriving DecidableEq, Repr

/-- A register view: the global window, or the view of a partition (R29, R50). -/
inductive View where
  | glob
  | part (p : Part)
  deriving DecidableEq, Repr

/-- A torus coordinate, physical or logical (R310, R312). -/
structure Coord where
  x : Nat
  y : Nat
  z : Nat
  deriving DecidableEq, Repr, Inhabited

/-- The routing header of a routed peer message (R321). -/
structure RouteHdr where
  mtype : Nat
  route : Nat
  group : Nat
  dst   : Coord
  src   : Coord
  epoch : Nat
  deriving DecidableEq, Repr, Inhabited

/-- The 16-byte collective header (R347). -/
structure ColHdr where
  tid     : Nat
  step    : Nat
  first   : Nat
  nblk    : Nat
  dim     : Nat
  dirNeg  : Bool
  want1   : Bool
  attempt : Nat
  oparg   : Nat
  deriving DecidableEq, Repr, Inhabited

/-- One AGREE record of a block (R333). -/
structure AgreeRec where
  exp   : Nat
  score : Nat
  scale : Nat
  deriving DecidableEq, Repr, Inhabited

/-- One GR16 block: 64 mantissas, exponent, block residue and block index (R334). -/
structure GrBlock where
  m   : List Int
  exp : Nat
  res : Nat
  idx : Nat
  deriving DecidableEq, Repr, Inhabited

/-- A control message of the collective engine on VC0: a token or STEP_ABORT (R350). -/
structure CtlMsg where
  group   : Nat
  rank    : Nat
  epoch   : Nat
  step    : Nat
  reason  : Nat
  dirPrev : Bool
  attempt : Nat
  deriving DecidableEq, Repr, Inhabited

/-- A DEAD_NOTICE (R316). -/
structure DeadMsg where
  hops   : Nat
  coord  : Coord
  boot   : Nat
  serial : Nat
  deriving DecidableEq, Repr, Inhabited

/-- The 16-byte recovery header (R370). -/
structure RecHdr where
  rid    : Nat
  step   : Nat
  sender : Coord
  group  : Nat
  epoch  : Nat
  deriving DecidableEq, Repr, Inhabited

/-- One group record of a CENSUS (R370). A step of 0xFFFF_FFFF means none (R359). -/
structure CensusRec where
  group     : Nat
  arDone    : Bool
  updated   : Nat
  prot      : Nat
  wstep     : Nat
  flash     : Nat
  store     : Nat
  committed : Nat
  epoch     : Nat
  local0    : Nat
  local1    : Nat
  ward0     : Nat
  ward1     : Nat
  gx        : Nat
  gy        : Nat
  gz        : Nat
  gctrl     : Nat
  deriving DecidableEq, Repr, Inhabited

/-- One action record of a PLAN (R370); `action` is encoded as in `RCV_STATE`. -/
structure PlanAct where
  coord   : Coord
  action  : Nat
  replica : Bool
  rebuild : Bool
  wardOf  : Coord
  deriving DecidableEq, Repr, Inhabited

/-- An identity record received in IDENTIFY (R282); `valid` says that its CRC is correct. -/
structure Identity where
  version : Nat
  role    : Nat
  port    : Nat
  gen     : Nat
  laneEn  : Nat
  slot    : Nat
  feed    : Nat
  serial  : Nat
  boot    : Nat
  valid   : Bool
  deriving DecidableEq, Repr, Inhabited

/-- A flit as received (R272): header word, 244 payload bytes, CRC, and whether its FEC codeword was correctable. -/
structure Flit where
  header  : BitVec 64
  payload : List Byte
  crc     : BitVec 32
  fecOk   : Bool
  deriving DecidableEq, Repr, Inhabited

/-- What a receiver has measured of a lane over 1 ms (R284): whether it holds lock, the corrected symbols, the vertical eye margin. -/
structure LaneMeas where
  lock   : Bool
  symErr : Nat
  eyeMv  : Nat
  deriving DecidableEq, Repr, Inhabited

/-- The lanes of a port (R268). -/
def portLanes (p : PortId) : Nat := if p.val < 6 then 8 else 4

/-- An on-chip memory defect that BIST found (R403, R404). -/
inductive SramDefect where
  | bank (slice : Quad) (bank : Nat)
  | laneGroup (engine : Quad) (group : Nat)
  | cacheRows (engine : Quad) (beyondSpares : Bool)
  | macroRows (which : Nat) (beyondSpares : Bool)
  deriving DecidableEq, Repr

/-- A physical row of a stack that a test, a read or scrub reported (R155, R156, R169), with the page it holds. -/
structure RowHit where
  pseudo : Nat
  bank   : Nat
  row    : Nat
  addr   : Nat
  deriving DecidableEq, Repr, Inhabited

/-- A bank of a stack (R155): its pseudo-channel and its number there. -/
structure BankPlace where
  pseudo : Nat
  bank   : Nat
  deriving DecidableEq, Repr, Inhabited

/-- A 64-byte word of HBM that has failed (R157): an address in it, how many of its 36 symbols are in error, and whether the scrub pass reaches
it after it failed; where it does not, the next read finds the error. -/
structure ScrubHit where
  addr    : Nat
  symbols : Nat
  seen    : Bool
  deriving DecidableEq, Repr, Inhabited

/-- What one AVSBus round read of one rail (R380): rail 0 to 7 VDD_ARR, 8 VDD_SOC. -/
structure AvsRail where
  rail     : Fin 9
  answered : Bool
  vstep    : Nat
  deriving DecidableEq, Repr

/-- The measurements that a budget epoch closes with (R20, R383, R384, R387). Lists are indexed by rail (0 to 8), by
partition or by die; an absent entry reads zero. -/
structure EpochMeas where
  hsRate   : List Nat
  tj       : List Nat
  totalW   : Nat
  linkW    : Nat
  memW     : Nat
  railW    : List Nat
  partW    : List Nat
  partIdle : List Nat
  sysUj    : Nat
  deriving DecidableEq, Repr, Inhabited

/-- The transaction a host's bad message carried (R294, R295). -/
structure TxnHdr where
  ttype : Nat
  tag   : Nat
  len   : Nat
  addr  : Nat
  deriving DecidableEq, Repr, Inhabited

/-- The operand fields of one vector instruction (R247); `imm` is IMM as a 24-bit number. -/
structure VFields where
  dst  : Nat
  sa   : Nat
  sb   : Nat
  sc   : Nat
  mask : Nat
  mz   : Bool
  ty   : Nat
  pb   : Bool
  imm  : Nat
  deriving DecidableEq, Repr, Inhabited

/-- A command that a queue of a partition has started, named by the slot count of its first slot (R56). -/
structure CmdRef where
  part  : Part
  queue : QueueId
  slot  : Nat
  deriving DecidableEq, Repr

/-- One command of spec/opcode_table.json per constructor; each carries the row's rule and its operands. -/
inductive Instr where
  /-- COLD_RESET (R40). -/
  | coldReset (feed slot : Nat)
  /-- WARM_RESET (R463). -/
  | warmReset (byBoard : Bool)
  /-- ROM (R398). -/
  | rom
  /-- FABRIC (R398). -/
  | fabric
  /-- SRAM (R403). -/
  | sram (defects : List SramDefect)
  /-- HBM_TRAIN (R398). -/
  | hbmTrain (failedTwice : List Quad)
  /-- QUALIFY (R400). -/
  | qualify (failing : List Nat)
  /-- LINKS (R398). -/
  | links
  /-- LINK_WAIT_EXPIRY (R413). -/
  | linkWaitExpiry
  /-- COMPUTE (R405). -/
  | compute (facets : List (Quad × Nat)) (lanes : List (Quad × Nat))
  /-- TOPOLOGY (R413). -/
  | topology
  /-- PARTITION_RESET (R307). -/
  | partitionReset (r : Requester) (p : Part)
  /-- REG_WRITE (R48). -/
  | regWrite (r : Requester) (addr : Nat) (v : Word)
  /-- ACCESS_ERR (R38). -/
  | accessErr (r : Requester) (addr width : Nat) (isWrite : Bool)
  /-- LO_READ_LATCH (R41). -/
  | loReadLatch (r : Requester) (addr : Nat)
  /-- LO_WRITE_STAGE (R42). -/
  | loWriteStage (r : Requester) (addr : Nat) (v : Word)
  /-- HI_WRITE_COMMIT (R42). -/
  | hiWriteCommit (r : Requester) (addr : Nat) (v : Word)
  /-- SQ_CLEAR (R47). -/
  | sqClear (r : Requester) (addr : Nat) (v : Word)
  /-- CMD_QN_TAIL_WRITE (R57). -/
  | cmdQnTailWrite (p : Part) (q : QueueId) (t : Word)
  /-- QUEUE_ABORT (R78). -/
  | queueAbort (p : Part) (q : QueueId)
  /-- QUEUE_CTRL_WRITE (R58). -/
  | queueCtrlWrite (p : Part) (q : QueueId) (v : Word)
  /-- CMD_LOCK_ADD (R66). -/
  | cmdLockAdd (p : Part) (k : Fin 4096) (v : Word)
  /-- CMD_LOCK_SET (R67). -/
  | cmdLockSet (p : Part) (k : Fin 4096) (v : Word)
  /-- COMMAND_START (R71). -/
  | commandStart (p : Part) (q : QueueId)
  /-- CMD_WAIT_EXPIRED (R59). -/
  | cmdWaitExpired (p : Part) (q : QueueId)
  /-- ENERGY_ADMISSION (R385). -/
  | energyAdmission (p : Part) (q : QueueId)
  /-- COMMAND_COMPLETE (R70). -/
  | commandComplete (c : CmdRef) (energyUj : Nat)
  /-- NOP (R62). -/
  | nop (c : CmdRef)
  /-- LOCK_SET (R67). -/
  | lockSet (c : CmdRef)
  /-- COPY (R141). -/
  | copy (c : CmdRef)
  /-- PREFETCH (R142). -/
  | prefetch (c : CmdRef)
  /-- SCHEDULE_ENTRY_START (R144). -/
  | scheduleEntryStart (c : CmdRef)
  /-- PROMOTION_COMPLETE (R139). -/
  | promotionComplete (p : Part) (obj : Nat)
  /-- REFETCH_SOURCE_TIMEOUT (R148). -/
  | refetchSourceTimeout (p : Part) (obj : Nat)
  /-- TIER_SPACE_STALL (R146). -/
  | tierSpaceStall (p : Part) (obj : Nat)
  /-- EVICT (R145). -/
  | evict (c : CmdRef)
  /-- DEFERRED_EVICTION (R145). -/
  | deferredEviction (p : Part) (obj : Nat)
  /-- EVICTION_COMPLETE (R139). -/
  | evictionComplete (p : Part) (obj : Nat)
  /-- TIER_OBJT_LOAD (R130). -/
  | tierObjtLoad (p : Part)
  /-- TIER_OBJ_SYNC (R130). -/
  | tierObjSync (p : Part) (obj : Nat)
  /-- TIER_REPAIR (R151). -/
  | tierRepair (p : Part) (obj : Nat)
  /-- MATMUL (R175). -/
  | matmul (c : CmdRef)
  /-- EWMUL (R189). -/
  | ewmul (c : CmdRef)
  /-- TILE_ISSUE (R184). -/
  | tileIssue (c : CmdRef) (array : Quad) (piece region : Nat)
  /-- TILE_COMMIT (R185). -/
  | tileCommit (array : Quad) (piece : Nat)
  /-- TILE_FAULT (R192). -/
  | tileFault (array : Quad) (piece facet cause : Nat)
  /-- HANDSHAKE_STALL (R191). -/
  | handshakeStall (array : Quad) (piece facet : Nat)
  /-- VPROG (R244). -/
  | vprog (c : CmdRef)
  /-- REDUCE (R259). -/
  | reduce (c : CmdRef)
  /-- UPDATE (R264). -/
  | update (c : CmdRef)
  /-- VEC_NOP (R247). -/
  | vecNop (e : Quad) (f : VFields)
  /-- ADD (R247). -/
  | vAdd (e : Quad) (f : VFields)
  /-- SUB (R247). -/
  | vSub (e : Quad) (f : VFields)
  /-- MUL (R247). -/
  | vMul (e : Quad) (f : VFields)
  /-- FMA (R247). -/
  | vFma (e : Quad) (f : VFields)
  /-- MIN (R247). -/
  | vMin (e : Quad) (f : VFields)
  /-- MAX (R247). -/
  | vMax (e : Quad) (f : VFields)
  /-- AND (R247). -/
  | vAnd (e : Quad) (f : VFields)
  /-- OR (R247). -/
  | vOr (e : Quad) (f : VFields)
  /-- XOR (R247). -/
  | vXor (e : Quad) (f : VFields)
  /-- ANDN (R247). -/
  | vAndn (e : Quad) (f : VFields)
  /-- SHL (R247). -/
  | vShl (e : Quad) (f : VFields)
  /-- SHR (R247). -/
  | vShr (e : Quad) (f : VFields)
  /-- SAR (R247). -/
  | vSar (e : Quad) (f : VFields)
  /-- RSHR (R247). -/
  | vRshr (e : Quad) (f : VFields)
  /-- CEQ (R247). -/
  | vCeq (e : Quad) (f : VFields)
  /-- CNE (R247). -/
  | vCne (e : Quad) (f : VFields)
  /-- CLT (R247). -/
  | vClt (e : Quad) (f : VFields)
  /-- CLE (R247). -/
  | vCle (e : Quad) (f : VFields)
  /-- SEL (R247). -/
  | vSel (e : Quad) (f : VFields)
  /-- MAND (R247). -/
  | vMand (e : Quad) (f : VFields)
  /-- MOR (R247). -/
  | vMor (e : Quad) (f : VFields)
  /-- MNOT (R247). -/
  | vMnot (e : Quad) (f : VFields)
  /-- CVT (R247). -/
  | vCvt (e : Quad) (f : VFields)
  /-- EXP2 (R261). -/
  | vExp2 (e : Quad) (f : VFields)
  /-- LOG2 (R261). -/
  | vLog2 (e : Quad) (f : VFields)
  /-- RCP (R261). -/
  | vRcp (e : Quad) (f : VFields)
  /-- RSQRT (R261). -/
  | vRsqrt (e : Quad) (f : VFields)
  /-- TANH (R261). -/
  | vTanh (e : Quad) (f : VFields)
  /-- SIGM (R261). -/
  | vSigm (e : Quad) (f : VFields)
  /-- PERM (R252). -/
  | vPerm (e : Quad) (f : VFields)
  /-- TRANS (R252). -/
  | vTrans (e : Quad) (f : VFields)
  /-- ACT (R260). -/
  | vAct (e : Quad) (f : VFields)
  /-- DACT (R225). -/
  | vDact (e : Quad) (f : VFields)
  /-- TLD (R248). -/
  | vTld (e : Quad) (f : VFields)
  /-- TST (R248). -/
  | vTst (e : Quad) (f : VFields)
  /-- CLD (R254). -/
  | vCld (e : Quad) (f : VFields)
  /-- CST (R254). -/
  | vCst (e : Quad) (f : VFields)
  /-- GATHER (R254). -/
  | vGather (e : Quad) (f : VFields)
  /-- RED (R256). -/
  | vRed (e : Quad) (f : VFields)
  /-- RGET (R256). -/
  | vRget (e : Quad) (f : VFields)
  /-- RCLR (R247). -/
  | vRclr (e : Quad) (f : VFields)
  /-- PASS (R255). -/
  | vPass (e : Quad) (f : VFields)
  /-- STREAM (R81). -/
  | stream (c : CmdRef)
  /-- STREAM_CLOSED (R84). -/
  | streamClosed (str : Fin 1024)
  /-- BARGE (R86). -/
  | barge (port : EPort) (bytes : List Byte)
  /-- REWIND_TIMEOUT (R87). -/
  | rewindTimeout (str : Fin 1024)
  /-- HALT_ACK (R91). -/
  | haltAck (port : EPort) (str offset : Nat)
  /-- ING_ACK_LATE (R91). -/
  | ingAckLate (str : Fin 1024)
  /-- ADAPTER_INFO (R304). -/
  | adapterInfo (port : EPort) (ddrGib flashGib : Nat) (secondCopy : Bool)
  /-- DECODE (R98). -/
  | decode (c : CmdRef)
  /-- DECODE_SPAN_READY (R99). -/
  | decodeSpanReady (c : CmdRef) (engine : Fin 32)
  /-- DEC_STARVED (R99). -/
  | decStarved (c : CmdRef)
  /-- DECODE_COMPLETE (R103). -/
  | decodeComplete (c : CmdRef)
  /-- CONDITION_SAMPLE (R112). -/
  | conditionSample (buf : Fin 64) (engine : Quad)
  /-- SAMPLE_LAND (R118). -/
  | sampleLand (buf : Fin 64)
  /-- FEED (R123). -/
  | feed (c : CmdRef)
  /-- FEED_WINDOW_READY (R124). -/
  | feedWindowReady (c : CmdRef)
  /-- ALLREDUCE (R329). -/
  | allreduce (c : CmdRef)
  /-- AGREE (R333). -/
  | agree (h : RouteHdr) (ch : ColHdr) (recs : List AgreeRec)
  /-- PARTIAL (R336). -/
  | partialSum (h : RouteHdr) (ch : ColHdr) (blocks : List GrBlock)
  /-- RESULT (R341). -/
  | result (h : RouteHdr) (ch : ColHdr) (blocks : List GrBlock)
  /-- SIGNS (R345). -/
  | signs (h : RouteHdr) (ch : ColHdr) (signs : List (BitVec 64))
  /-- COMMIT (R352). -/
  | commit (c : CmdRef)
  /-- TOKEN_READY (R352). -/
  | tokenReady (port : PeerPort) (m : CtlMsg)
  /-- TOKEN_COMMIT (R353). -/
  | tokenCommit (port : PeerPort) (m : CtlMsg)
  /-- STEP_ABORT (R351). -/
  | stepAbort (port : PeerPort) (m : CtlMsg)
  /-- COL_WATCHDOG (R349). -/
  | colWatchdog (g : GroupId)
  /-- SNAPSHOT (R361). -/
  | snapshot (c : CmdRef)
  /-- RESTORE (R373). -/
  | restore (c : CmdRef)
  /-- LEDGER (R231). -/
  | ledger (c : CmdRef)
  /-- DIGEST (R446). -/
  | digest (c : CmdRef)
  /-- LEDGER_ENABLE (R471). -/
  | ledgerEnable (p : Part)
  /-- REG_RD (R297). -/
  | regRd (port : EPort) (tag : Nat) (addr len : Nat)
  /-- REG_WR (R297). -/
  | regWr (port : EPort) (tag : Nat) (addr len : Nat) (v : Word)
  /-- DMA_WR (R297). -/
  | dmaWr (port : EPort) (tag : Nat) (addr : Nat) (data : List Byte)
  /-- DMA_RD (R297). -/
  | dmaRd (port : EPort) (tag : Nat) (addr len : Nat)
  /-- DOORBELL (R297). -/
  | doorbell (port : EPort) (tag : Nat) (code index : Nat) (v : Word)
  /-- BAD_TXN (R294). -/
  | badTxn (port : EPort) (vc : Nat) (h : TxnHdr)
  /-- T2_CPL (R299). -/
  | t2Cpl (port : EPort) (tag status : Nat) (poison : BitVec 16) (data : List Byte)
  /-- SNAP_CPL (R300). -/
  | snapCpl (port : EPort) (tag status : Nat) (data : List Byte)
  /-- DATA_FLIT (R278). -/
  | dataFlit (port : PortId) (f : Flit)
  /-- IDLE_FLIT (R280). -/
  | idleFlit (port : PortId) (f : Flit)
  /-- NAK (R276). -/
  | nak (port : PortId) (f : Flit)
  /-- NAK_REPEAT (R276). -/
  | nakRepeat (port : PortId)
  /-- REPLAY (R277). -/
  | replay (port : PortId)
  /-- RETRAIN_REQ (R284). -/
  | retrainReq (port : PortId) (first : Flit) (rest : List Flit)
  /-- FAIL_RX (R289). -/
  | failRx (port : PortId) (first second third : Flit)
  /-- LNK_FAIL_CMD_WRITE (R288). -/
  | lnkFailCmdWrite (v : Word)
  /-- LANE_FAIL (R284). -/
  | laneFail (port : PortId) (lanes : List LaneMeas)
  /-- DETECT (R282). -/
  | detect (port : PortId) (lanes : Nat)
  /-- IDENTIFY (R282). -/
  | identify (port : PortId) (rec : Identity)
  /-- IDENTIFY_TIMEOUT (R282). -/
  | identifyTimeout (port : PortId)
  /-- EQUALISE (R282). -/
  | equalise (port : PortId)
  /-- VERIFY (R283). -/
  | verify (port : PortId) (passing : Nat)
  /-- ALIGN (R285). -/
  | align (port : PortId)
  /-- RETRAIN_TIMEOUT (R285). -/
  | retrainTimeout (port : PortId)
  /-- LOSS_OF_SIGNAL (R286). -/
  | lossOfSignal (port : PortId)
  /-- HOLDOFF_EXPIRY (R287). -/
  | holdoffExpiry (port : PortId)
  /-- LINK_RETRAIN (R285). -/
  | linkRetrain (port : PortId)
  /-- LINK_ENABLE_WRITE (R282). -/
  | linkEnableWrite (port : PortId) (v : Word)
  /-- MESSAGE_FORWARD (R322). -/
  | messageForward (h : RouteHdr) (vc : Nat) (flits : List (List Byte))
  /-- DEAD_NOTICE (R314). -/
  | deadNotice (port : PeerPort) (m : DeadMsg)
  /-- PER_REMAP_L_WRITE (R313). -/
  | perRemapLWrite (i : GroupId) (v : Word)
  /-- PER_REMAP_P_WRITE (R313). -/
  | perRemapPWrite (i : GroupId) (v : Word)
  /-- PER_DEAD_REMOVE (R315). -/
  | perDeadRemove (i : GroupId)
  /-- PER_GRP_WRITE (R324). -/
  | perGrpWrite (r : Requester) (g : GroupId) (word : Fin 4) (v : Word)
  /-- TIER_PEER_READ (R148). -/
  | tierPeerRead (h : RouteHdr) (tag addr len : Nat)
  /-- TIER_PEER_DATA (R148). -/
  | tierPeerData (h : RouteHdr) (tag status : Nat) (data : List Byte)
  /-- PROTECT (R363). -/
  | protect (h : RouteHdr) (r : RecHdr) (offset : Nat) (last : Bool) (data : List Byte)
  /-- PROTECT_ACK (R363). -/
  | protectAck (h : RouteHdr) (r : RecHdr) (bytes : Nat) (ok : Bool)
  /-- DIGEST_MSG (R364). -/
  | digestMsg (h : RouteHdr) (r : RecHdr) (crc : BitVec 64)
  /-- HELLO (R367). -/
  | hello (h : RouteHdr) (r : RecHdr) (kind feed : Nat) (allowSame : Bool)
  /-- RCV_PAIRING_WRITE (R367). -/
  | rcvPairingWrite (p : Part) (ward : Bool) (v : Word)
  /-- RCV_GO (R369). -/
  | rcvGo (p : Part) (rid : Word)
  /-- CENSUS (R371). -/
  | census (h : RouteHdr) (r : RecHdr) (spare : Bool) (ward : Coord) (recs : List CensusRec)
  /-- CENSUS_TIMEOUT (R375). -/
  | censusTimeout (p : Part)
  /-- PLAN (R371). -/
  | plan (h : RouteHdr) (r : RecHdr) (rstep epoch : Nat) (flash store : Bool) (acts : List PlanAct)
  /-- FETCH (R373). -/
  | fetch (h : RouteHdr) (r : RecHdr) (source bytes offset : Nat)
  /-- FETCH_DATA (R373). -/
  | fetchData (h : RouteHdr) (r : RecHdr) (offset status : Nat) (data : List Byte)
  /-- DONE (R374). -/
  | done (h : RouteHdr) (r : RecHdr) (prot action : Nat)
  /-- RESUME (R374). -/
  | resume (h : RouteHdr) (r : RecHdr) (rstep epoch : Nat)
  /-- BUDGET_EPOCH_END (R383). -/
  | budgetEpochEnd (m : EpochMeas)
  /-- AVS_ROUND (R380). -/
  | avsRound (bus : Fin 2) (rails : List AvsRail)
  /-- RAIL_CURRENT_READ (R380). -/
  | railCurrentRead (current : List Nat)
  /-- PMBUS_ALERT (R389). -/
  | pmbusAlert
  /-- PMBUS_ALERT_RELEASE (R389). -/
  | pmbusAlertRelease
  /-- PWR_FAIL (R396). -/
  | pwrFail
  /-- PWR_FAIL_RELEASE (R396). -/
  | pwrFailRelease
  /-- THERMTRIP (R393). -/
  | thermtrip (q : Quad)
  /-- PWR_UV (R382). -/
  | pwrUv (rail : Fin 9) (mv : Nat)
  /-- DIE_TEMP_SAMPLE (R392). -/
  | dieTempSample (temps : List Nat)
  /-- COOLANT_REPORT (R395). -/
  | coolantReport (r : Requester) (v : Word)
  /-- COOLANT_STALE (R395). -/
  | coolantStale
  /-- HBM_TEMP_SAMPLE (R166). -/
  | hbmTempSample (stack : Quad) (temp : Nat)
  /-- REGULATOR_WINDOW (R160). -/
  | regulatorWindow (stack : Quad)
  /-- REFRESH (R161). -/
  | refresh (stack : Quad) (bank : BankPlace) (postpone : Bool)
  /-- CALIBRATION (R161). -/
  | calibration (stack : Quad) (domain : Fin 4)
  /-- SCRUB (R161). -/
  | scrub (stack : Quad) (hits : List ScrubHit) (late : Bool)
  /-- HBM_MARGIN_START (R168). -/
  | hbmMarginStart (r : Requester) (v : Word)
  /-- EVR_FLUSH_TIMER (R438). -/
  | evrFlushTimer
  /-- EVR_FLUSH (R474). -/
  | evrFlush
  /-- EVR_ADVANCE (R440). -/
  | evrAdvance (view : View)
  /-- EVR_ANCHOR (R436). -/
  | evrAnchor (p : Part) (hi : Word)
  /-- EVR_CLEAR (R441). -/
  | evrClear (r : Requester) (v : Word)
  /-- CHK_SCAN (R444). -/
  | chkScan (u : Fin 4)
  /-- CHK_APPEND (R444). -/
  | chkAppend (u : Fin 4)
  /-- CHK_CHECK_STRIP (R444). -/
  | chkCheckStrip (u : Fin 4)
  /-- CHK_DONE (R444). -/
  | chkDone (u : Fin 4)
  /-- SEC_STAGE (R420). -/
  | secStage (r : Requester) (v : Word)
  /-- STAGE_DONE (R420). -/
  | stageDone
  /-- SETTINGS_SAVE (R425). -/
  | settingsSave
  /-- SEC_SVN_COMMIT (R422). -/
  | secSvnCommit (r : Requester) (v : Word)
  /-- ATTEST_GO (R430). -/
  | attestGo (view : View)
  /-- REPORT_SIGNED (R430). -/
  | reportSigned
  /-- I3C_SET_ADDRESS (R459). -/
  | i3cSetAddress (offset : Word)
  /-- I3C_WRITE (R459). -/
  | i3cWrite (offset v : Word)
  /-- I3C_READ (R459). -/
  | i3cRead (bytes : Nat)
  /-- GLB_REFCLK_LOSS (R456). -/
  | glbRefclkLoss (clk : Fin 4)
  /-- GLB_JTAG_TAKEOVER (R460). -/
  | glbJtagTakeover (code : Nat)
  /-- PORST_N_ASSERT (R458). -/
  | porstNAssert
  /-- HBM_MARGIN_SWEEP_END (R168). -/
  | hbmMarginSweepEnd (results : List (Nat × Nat))
  /-- ENTDAA (R459). -/
  | entdaa (dynAddr : BitVec 7)
  deriving DecidableEq, Repr

end Sys2Proof
end

