-- ==== Sys2Proof/Decode.lean ====
section
/-! DEFINITION. The command that a word spells. The Forcen is modelled as a block: its commands arrive as messages, register accesses and
events, and spec/opcode_table.json gives none of its rows any bits, so no word spells a command. -/

namespace Sys2Proof

/-- The command that an `nbits`-bit word spells by the bits of the opcode table: no row has bits. [DESIGN CHOICE, log 11] -/
def decodeTableWord (_nbits _w : Nat) : Option Instr := none

end Sys2Proof
end

