-- ==== Sys2Proof/Machine/Bits.lean ====
section
/-! DEFINITION. Bit fields, little-endian bytes (R10) and the check values of R442. -/

namespace Sys2Proof.Machine

/-- Bits [hi:lo] of a number. -/
def bitsOf (n hi lo : Nat) : Nat := n / 2 ^ lo % 2 ^ (hi + 1 - lo)

/-- One bit of a number. -/
def bitOf (n i : Nat) : Bool := n / 2 ^ i % 2 == 1

/-- A Boolean as a bit. -/
def b2n (b : Bool) : Nat := if b then 1 else 0

/-- Bits [hi:lo] of a register word. -/
def wGet (w : Word) (hi lo : Nat) : Nat := bitsOf w.toNat hi lo

/-- A register word with bits [hi:lo] replaced. -/
def wSet (w : Word) (hi lo v : Nat) : Word :=
  BitVec.ofNat 32 (w.toNat - bitsOf w.toNat hi lo * 2 ^ lo + v % 2 ^ (hi + 1 - lo) * 2 ^ lo)

/-- The mask of bits [hi:lo]. -/
def wMask (hi lo : Nat) : Word := BitVec.ofNat 32 ((2 ^ (hi + 1 - lo) - 1) * 2 ^ lo)

/-- Little-endian value of bytes (R10). -/
def leNat : List Byte → Nat
  | [] => 0
  | b :: t => b.toNat + 256 * leNat t

/-- `n` little-endian bytes of a value (R10). -/
def leBytes : Nat → Nat → List Byte
  | 0, _ => []
  | n + 1, v => BitVec.ofNat 8 v :: leBytes n (v / 256)

/-- The value of `n` bytes at offset `o` of a byte string. -/
def fieldAt (l : List Byte) (o n : Nat) : Nat := leNat ((l.drop o).take n)

/-- Two's complement reading of the low `w` bits. -/
def toSigned (w n : Nat) : Int :=
  let m := n % 2 ^ w
  if m < 2 ^ (w - 1) then (m : Int) else (m : Int) - 2 ^ w

/-- Two's complement encoding in `w` bits. -/
def ofSigned (w : Nat) (i : Int) : Nat := (i % (2 ^ w : Int)).toNat

/-- Round up to a multiple. -/
def ceilTo (n m : Nat) : Nat := (n + m - 1) / m * m

/-- Ceiling division. -/
def ceilDiv (n m : Nat) : Nat := (n + m - 1) / m

/-- Population count of the low `w` bits. -/
def popcount : Nat → Nat → Nat
  | 0, _ => 0
  | w + 1, n => n % 2 + popcount w (n / 2)

/-- The set bits below `w`, ascending. -/
def setBits (w n : Nat) : List Nat := (List.range w).filter (fun i => bitOf n i)

/-- One bit step of a reflected CRC. -/
def crcRefStep (poly c : Nat) : Nat := if c % 2 = 1 then (c / 2) ^^^ poly else c / 2

/-- One byte step of a reflected CRC, whose polynomial is given bit-reversed. -/
def crcRefByte (poly c : Nat) (b : Byte) : Nat :=
  (List.range 8).foldl (fun x _ => crcRefStep poly x) (c ^^^ b.toNat)

/-- CRC-32C continued from a finished value (R442, R443): RUN holds the value with the final XOR applied. -/
def crc32cFrom (run : Nat) (l : List Byte) : Nat :=
  (l.foldl (crcRefByte 0x82F63B78) (run ^^^ 0xFFFFFFFF)) ^^^ 0xFFFFFFFF

/-- CRC-32C of a byte string (R86, R442). -/
def crc32c (l : List Byte) : Nat := crc32cFrom 0 l

/-- CRC-64 with the ECMA-182 polynomial, reflected, continued from a finished value (R442, R443). -/
def crc64From (run : Nat) (l : List Byte) : Nat :=
  (l.foldl (crcRefByte 0xC96C5795D7870F42) (run ^^^ 0xFFFFFFFFFFFFFFFF)) ^^^ 0xFFFFFFFFFFFFFFFF

/-- CRC-64 of a byte string (R442). -/
def crc64 (l : List Byte) : Nat := crc64From 0 l

/-- One bit step of CRC-16/T10-DIF. -/
def crc16Step (c : Nat) : Nat := if c ≥ 0x8000 then (c * 2 % 65536) ^^^ 0x8BB7 else c * 2

/-- CRC-16/T10-DIF continued from a value (R442, R443). -/
def crc16From (run : Nat) (l : List Byte) : Nat :=
  l.foldl (fun c b => (List.range 8).foldl (fun x _ => crc16Step x) (c ^^^ (b.toNat * 256))) run

/-- The check value of POLY over bytes, continued from RUN (R442). -/
def checkValue (poly run : Nat) (l : List Byte) : Nat :=
  match poly with
  | 0 => crc32cFrom run l
  | 1 => crc64From run l
  | _ => crc16From run l

/-- The stored width in bytes of POLY (R442). -/
def checkWidth (poly : Nat) : Nat := match poly with | 0 => 4 | 1 => 8 | _ => 2

/-- The check value in its stored order (R442): CRC-16 is most significant byte first. -/
def checkBytes (poly v : Nat) : List Byte :=
  match poly with
  | 0 => leBytes 4 v
  | 1 => leBytes 8 v
  | _ => (leBytes 2 v).reverse

/-- Update one element of a list. -/
def listSet {α : Type} (l : List α) (i : Nat) (x : α) : List α := l.set i x

/-- Pad a byte string with zeros to `n` bytes. -/
def padTo (n : Nat) (l : List Byte) : List Byte := l ++ List.replicate (n - l.length) 0

/-- Cut a byte string into pieces of `n` bytes; `fuel` bounds the number of pieces. -/
def chunksOf {α : Type} (n : Nat) : Nat → List α → List (List α)
  | 0, _ => []
  | _, [] => []
  | fuel + 1, l => l.take n :: chunksOf n fuel (l.drop n)

end Sys2Proof.Machine
end

