-- ==== Sys2Proof/Machine/Float.lean ====
section
/-! DEFINITION. Number formats (R198 to R220): exact values, the floating-point layouts, conversions with their classes (R208,
R473), FP32 arithmetic rounded to nearest even (R209, R210), stochastic rounding and its generator (R213, R214), and the
Sillefold Reference Order (R216). -/

namespace Sys2Proof.Machine

/-! ## Values -/

/-- A value: a NaN, an infinity, or (−1)^neg × m × 2^e exactly, zero keeping its sign. -/
inductive FVal where
  | nan
  | inf (neg : Bool)
  | fin (neg : Bool) (m : Nat) (e : Int)
  deriving DecidableEq, Repr, Inhabited

/-- A floating-point layout (R198): exponent and mantissa bits, bias, and its special codes: 0 infinities and NaNs as IEEE 754,
1 E4M3 with one NaN code, 2 none. -/
structure FFmt where
  eb   : Nat
  mb   : Nat
  bias : Nat
  kind : Nat
  deriving DecidableEq, Repr

/-- The layouts of R198 by DTYPE; MX DTYPEs give their element format. -/
def ffmt : Nat → Option FFmt
  | 0x01 => some ⟨8, 23, 127, 0⟩
  | 0x02 => some ⟨8, 7, 127, 0⟩
  | 0x03 => some ⟨5, 10, 15, 0⟩
  | 0x04 | 0x06 => some ⟨4, 3, 7, 1⟩
  | 0x05 | 0x07 => some ⟨5, 2, 15, 0⟩
  | 0x08 => some ⟨3, 2, 3, 2⟩
  | 0x09 => some ⟨2, 3, 1, 2⟩
  | 0x0A => some ⟨2, 1, 1, 2⟩
  | _ => none

/-- FP32. -/
def f32Fmt : FFmt := ⟨8, 23, 127, 0⟩

/-- BF16. -/
def bf16Fmt : FFmt := ⟨8, 7, 127, 0⟩

/-- The exponent of the least unit of a layout. -/
def FFmt.emin (f : FFmt) : Int := 1 - (f.bias : Int) - (f.mb : Int)

/-- The magnitude code of the largest finite value (R198). -/
def FFmt.maxCode (f : FFmt) : Nat :=
  match f.kind with
  | 0 => (2 ^ f.eb - 1) * 2 ^ f.mb - 1
  | 1 => 2 ^ (f.eb + f.mb) - 2
  | _ => 2 ^ (f.eb + f.mb) - 1

/-- The value of a code (R198, R199: no flush). -/
def FFmt.decode (f : FFmt) (c : Nat) : FVal :=
  let neg := bitOf c (f.eb + f.mb)
  let mag := c % 2 ^ (f.eb + f.mb)
  if f.maxCode < mag then (if f.kind = 0 ∧ mag % 2 ^ f.mb = 0 then .inf neg else .nan)
  else
    let e := mag / 2 ^ f.mb
    let m := mag % 2 ^ f.mb
    if e = 0 then .fin neg m f.emin else .fin neg (2 ^ f.mb + m) (f.emin + (e : Int) - 1)

/-- The magnitude code of a value sig × 2^exp on the layout's grid; codes go on past the largest finite one. -/
def FFmt.codeOf (f : FFmt) (sig : Nat) (exp : Int) : Nat :=
  if sig < 2 ^ f.mb then sig
  else
    let (sig, exp) := if sig = 2 ^ (f.mb + 1) then (sig / 2, exp + 1) else (sig, exp)
    (exp - f.emin + 1).toNat * 2 ^ f.mb + (sig - 2 ^ f.mb)

/-- Divide by 2^k, to the nearest, ties to even. -/
def rneShift (m k : Nat) : Nat :=
  let q := m / 2 ^ k
  let r := m % 2 ^ k
  if k = 0 then m else if 2 ^ (k - 1) < r || (r == 2 ^ (k - 1) && q % 2 == 1) then q + 1 else q

/-- The exponent of the unit on which a value is rounded: `mb + 1` significant bits, not below `emin`. -/
def gridExp (mb : Nat) (emin : Int) (m : Nat) (e : Int) : Int := max ((Nat.log2 m : Int) + e - (mb : Int)) emin

/-- Round to nearest even on a grid of `mb + 1` significant bits, not below `emin`. -/
def roundGrid (mb : Nat) (emin : Int) (m : Nat) (e : Int) : Nat × Int :=
  let q := gridExp mb emin m e
  if q ≤ e then (m * 2 ^ (e - q).toNat, q) else (rneShift m (q - e).toNat, q)

/-- The magnitude code nearest to a finite value, exponent unbounded above. -/
def FFmt.nearest (f : FFmt) (m : Nat) (e : Int) : Nat :=
  if m = 0 then 0 else
    let (s, x) := roundGrid f.mb f.emin m e
    f.codeOf s x

/-- The sign bit of a code. -/
def FFmt.signed (f : FFmt) (neg : Bool) (mag : Nat) : Nat := b2n neg * 2 ^ (f.eb + f.mb) + mag

/-- The canonical NaN (R199). -/
def FFmt.nanCode (f : FFmt) : Nat :=
  if f.kind = 0 ∧ f.mb ≠ 2 then (2 ^ f.eb - 1) * 2 ^ f.mb + 2 ^ (f.mb - 1) else 2 ^ (f.eb + f.mb) - 1

/-- Convert to a layout with saturation `sat` for the FP8 formats; FP6 and FP4 elements are limited (R208). -/
def FFmt.encode (f : FFmt) (sat : Bool) (v : FVal) : Nat :=
  let over_ (neg : Bool) : Nat :=
    if f.kind = 2 ∨ (f.eb + f.mb = 7 ∧ sat = true) then f.signed neg f.maxCode
    else if f.kind = 1 then f.nanCode
    else f.signed neg (f.maxCode + 1)
  match v with
  | .nan => if f.kind = 2 then 0 else f.nanCode
  | .inf neg => over_ neg
  | .fin neg m e => let c := f.nearest m e; if f.maxCode < c then over_ neg else f.signed neg c

/-- Whether a finite value is beyond the largest finite value of a layout (R208). -/
def FFmt.beyond (f : FFmt) (v : FVal) : Bool :=
  match v with | .fin _ m e => f.maxCode < f.nearest m e | _ => false

/-! ## Integers -/

/-- The integer nearest to a finite value, ties to even, with its sign. -/
def nearestInt (neg : Bool) (m : Nat) (e : Int) : Int :=
  let a := if 0 ≤ e then m * 2 ^ e.toNat else rneShift m (-e).toNat
  if neg then -(a : Int) else a

/-- The value of an integer times 2^e. -/
def ofInt (i : Int) (e : Int) : FVal := .fin (decide (i < 0)) i.natAbs e

/-- Width of an integer DTYPE (R200). -/
def intWidth : Nat → Option Nat
  | 0x0C => some 8
  | 0x0D => some 4
  | 0x0E => some 16
  | 0x0F => some 32
  | _ => none

/-- Limit an integer to a signed width. -/
def satInt (w : Nat) (i : Int) : Int := max (-(2 ^ (w - 1) : Int)) (min (2 ^ (w - 1) - 1) i)

/-! ## DTYPEs -/

/-- Bits of an element (R198, R200, R201). -/
def dtBits : Nat → Nat
  | 0x01 | 0x0F => 32
  | 0x02 | 0x03 | 0x0E => 16
  | 0x08 | 0x09 => 6
  | 0x0A | 0x0D => 4
  | _ => 8

/-- Whether a DTYPE is an MX format (R202). -/
def isMx (dt : Nat) : Bool := 0x06 ≤ dt && dt ≤ 0x0B

/-- Whether a DTYPE takes a per-tensor scale word (R204). -/
def takesScaleWord (dt : Nat) : Bool := [0x04, 0x05, 0x0C, 0x0D].contains dt

/-- Whether a DTYPE is defined (R63). -/
def dtypeOk (dt : Nat) : Bool := 1 ≤ dt && dt ≤ 0x0F

/-- Whether a DTYPE is an integer format. -/
def isIntType (dt : Nat) : Bool := 0x0C ≤ dt && dt ≤ 0x0F

/-- The value of an element code before any scale (R198 to R200). MXINT8 counts 2⁻⁶. -/
def decodeElem (dt c : Nat) : FVal :=
  match ffmt dt, intWidth dt with
  | some f, _ => f.decode c
  | none, some w => ofInt (toSigned w c) 0
  | none, none => ofInt (toSigned 8 c) (-6)

/-- F_max of a DTYPE (R203, R206) as a value m × 2^e. -/
def fMax (dt : Nat) : Nat × Int :=
  match ffmt dt, intWidth dt with
  | some f, _ => match f.decode f.maxCode with | .fin _ m e => (m, e) | _ => (0, 0)
  | none, some w => (2 ^ (w - 1) - 1, 0)
  | none, none => (127, -6)

/-- Convert a value to an element code (R208). -/
def encodeElem (dt : Nat) (sat : Bool) (v : FVal) : Nat :=
  match ffmt dt, intWidth dt with
  | some f, _ => f.encode sat v
  | none, some w =>
    match v with
    | .nan => 0
    | .inf neg => ofSigned w (if neg then -(2 ^ (w - 1) : Int) else 2 ^ (w - 1) - 1)
    | .fin neg m e => ofSigned w (satInt w (nearestInt neg m e))
  | none, none =>
    match v with
    | .nan => 0
    | .inf neg => ofSigned 8 (if neg then -127 else 127)
    | .fin neg m e => ofSigned 8 (max (-127) (min 127 (nearestInt neg m (e + 6))))

/-- Whether a finite value is beyond the largest finite value of a DTYPE's elements (R208: integers on the nearest integer). -/
def beyondElem (dt : Nat) (v : FVal) : Bool :=
  match v with
  | .fin neg m e =>
    match ffmt dt, intWidth dt with
    | some f, _ => f.beyond v
    | none, some w => let i := nearestInt neg m e; decide (satInt w i ≠ i)
    | none, none => decide (127 < (nearestInt neg m (e + 6)).natAbs)
  | _ => false

/-- The class of a source value (R473): 0 neither, 1 saturation, 2 non-finite. -/
def valueClass (dt : Nat) (v : FVal) : Nat :=
  match v with
  | .fin _ _ _ => if beyondElem dt v then 1 else 0
  | _ => 2

/-! ## FP32 arithmetic (R209, R210) -/

/-- The value of an FP32 word. -/
def f32Val (w : Word) : FVal := f32Fmt.decode w.toNat

/-- The FP32 word nearest to a value: overflow gives an infinity, a NaN is canonical. -/
def f32Of (v : FVal) : Word := BitVec.ofNat 32 (f32Fmt.encode false v)

/-- Negate. -/
def FVal.neg : FVal → FVal
  | .nan => .nan
  | .inf n => .inf (!n)
  | .fin n m e => .fin (!n) m e

/-- Magnitude. -/
def FVal.abs : FVal → FVal
  | .nan => .nan
  | .inf _ => .inf false
  | .fin _ m e => .fin false m e

/-- Multiply by 2^k. -/
def FVal.scale (v : FVal) (k : Int) : FVal := match v with | .fin n m e => .fin n m (e + k) | v => v

/-- Whether a value is finite. -/
def FVal.isFin : FVal → Bool
  | .fin _ _ _ => true
  | _ => false

/-- Whether a value is zero. -/
def FVal.isZero : FVal → Bool
  | .fin _ m _ => m == 0
  | _ => false

/-- Whether a value is a NaN. -/
def FVal.isNan : FVal → Bool
  | .nan => true
  | _ => false

/-- Signed mantissas of two finite values at a common exponent. -/
def aligned (n1 : Bool) (m1 : Nat) (e1 : Int) (n2 : Bool) (m2 : Nat) (e2 : Int) : Int × Int × Int :=
  let e := min e1 e2
  let a : Int := (m1 * 2 ^ (e1 - e).toNat : Nat)
  let b : Int := (m2 * 2 ^ (e2 - e).toNat : Nat)
  (if n1 then -a else a, if n2 then -b else b, e)

/-- Exact sum; an exact zero is −0 only when both operands are −0. -/
def FVal.add (a b : FVal) : FVal :=
  match a, b with
  | .fin n1 m1 e1, .fin n2 m2 e2 =>
    if m1 = 0 then (if m2 = 0 then .fin (n1 && n2) 0 e1 else b)
    else if m2 = 0 then a
    else
      let (x, y, e) := aligned n1 m1 e1 n2 m2 e2
      if x + y = 0 then .fin false 0 e else ofInt (x + y) e
  | .nan, _ => .nan
  | _, .nan => .nan
  | .inf n, .inf m => if n = m then .inf n else .nan
  | .inf n, _ => .inf n
  | _, .inf n => .inf n

/-- Exact product. -/
def FVal.mul (a b : FVal) : FVal :=
  match a, b with
  | .fin n1 m1 e1, .fin n2 m2 e2 => .fin (n1 != n2) (m1 * m2) (e1 + e2)
  | .nan, _ => .nan
  | _, .nan => .nan
  | .inf n, .inf m => .inf (n != m)
  | .inf n, .fin m x _ => if x = 0 then .nan else .inf (n != m)
  | .fin m x _, .inf n => if x = 0 then .nan else .inf (n != m)

/-- FP32 addition, rounded to nearest even. -/
def f32Add (a b : Word) : Word := f32Of ((f32Val a).add (f32Val b))

/-- FP32 subtraction. -/
def f32Sub (a b : Word) : Word := f32Of ((f32Val a).add (f32Val b).neg)

/-- FP32 multiplication. -/
def f32Mul (a b : Word) : Word := f32Of ((f32Val a).mul (f32Val b))

/-- FP32 fused multiply and add: one rounding. -/
def f32Fma (a b c : Word) : Word := f32Of (((f32Val a).mul (f32Val b)).add (f32Val c))

/-- Less than, on values; false with a NaN. Zeros compare equal. -/
def FVal.lt (a b : FVal) : Bool :=
  match a, b with
  | .fin n1 m1 e1, .fin n2 m2 e2 => let (x, y, _) := aligned n1 m1 e1 n2 m2 e2; decide (x < y)
  | .inf n, .inf m => n && !m
  | .inf n, .fin _ _ _ => n
  | .fin _ _ _, .inf m => !m
  | _, _ => false

/-- Equality of values; false with a NaN. -/
def FVal.eqv (a b : FVal) : Bool :=
  match a, b with
  | .nan, _ => false
  | _, .nan => false
  | a, b => !a.lt b && !b.lt a

/-- The larger magnitude of two finite values. -/
def maxMag (a b : Nat × Int) : Nat × Int :=
  let (x, y, _) := aligned false a.1 a.2 false b.1 b.2
  if x < y then b else a

/-- Whether one magnitude is at most another. -/
def magLe (a b : Nat × Int) : Bool := let (x, y, _) := aligned false a.1 a.2 false b.1 b.2; decide (x ≤ y)

/-- The smallest integer X with a ≤ f × 2^X, for a, f > 0 (R203, R206). -/
def leastExp (a f : Nat × Int) : Int :=
  let x : Int := (Nat.log2 a.1 : Int) + a.2 - (Nat.log2 f.1 : Int) - f.2
  if magLe a (f.1, f.2 + (x - 1)) then x - 1 else if magLe a (f.1, f.2 + x) then x else x + 1

/-- The quotient of two finite values with enough bits and a sticky bit for one later rounding; b is not zero. -/
def FVal.div (a b : FVal) : FVal :=
  match a, b with
  | .nan, _ => .nan
  | _, .nan => .nan
  | .inf _, .inf _ => .nan
  | .inf n, .fin m _ _ => .inf (n != m)
  | .fin n _ _, .inf m => .fin (n != m) 0 0
  | .fin n1 m1 e1, .fin n2 m2 e2 =>
    if m2 = 0 then (if m1 = 0 then .nan else .inf (n1 != n2))
    else
      let k := 64 + Nat.log2 m2
      let q := m1 * 2 ^ k / m2
      .fin (n1 != n2) (q * 2 + (if m1 * 2 ^ k % m2 = 0 then 0 else 1)) (e1 - e2 - (k : Int) - 1)

/-- FP32 division. -/
def f32Div (a b : Word) : Word := f32Of ((f32Val a).div (f32Val b))

/-- Integer square root, one bit a time from bit `n`. -/
def isqrtFrom (x : Nat) : Nat → Nat → Nat
  | 0, r => r
  | n + 1, r => isqrtFrom x n (if (r + 2 ^ n) * (r + 2 ^ n) ≤ x then r + 2 ^ n else r)

/-- Square root with a sticky bit; a negative value other than −0 gives a NaN. -/
def FVal.sqrt (a : FVal) : FVal :=
  match a with
  | .nan => .nan
  | .inf n => if n then .nan else .inf false
  | .fin n m e =>
    if m = 0 then .fin n 0 e
    else if n then .nan
    else
      let k := 128 + (e % 2).toNat
      let x := m * 2 ^ k
      let r := isqrtFrom x ((Nat.log2 x) / 2 + 1) 0
      .fin false (r * 2 + (if r * r = x then 0 else 1)) ((e - (k : Int)) / 2 - 1)

/-- FP32 square root. -/
def f32Sqrt (a : Word) : Word := f32Of (f32Val a).sqrt

/-- Round an FP32 word to BF16 and back (R210). [DEDUCED, log 58] -/
def bf16Round (w : Word) : Word := BitVec.ofNat 32 (bf16Fmt.encode false (f32Val w) * 65536)

/-! ## The extended partial (R210) -/

/-- Round to the extended partial: 36 significant bits, quantum 2⁻¹⁶¹, FP32's exponent range. -/
def extRound (v : FVal) : FVal :=
  match v with
  | .fin neg m e =>
    if m = 0 then v
    else
      let (s, x) := roundGrid 35 (-161) m e
      if 128 ≤ (Nat.log2 s : Int) + x then .inf neg else .fin neg s x
  | v => v

/-! ## Stochastic rounding (R213, R214) -/

/-- One 64-bit mixing step. -/
def mix64 (x c s : Nat) : Nat := let y := x * c % 2 ^ 64; y ^^^ (y / 2 ^ s)

/-- `sfmix` of R214. -/
def sfmix (x k : Nat) : Nat :=
  let x := (x % 2 ^ 64) ^^^ (k % 2 ^ 64)
  let x := mix64 x 0xB3C52E9741D86A0F 31
  let x := mix64 x 0x6C1F9E25D7A348B9 29
  mix64 x 0x92E47B1DC5F03A63 32

/-- `sr_draw` of R214. -/
def srDraw (seed step tid idx pass : Nat) : Nat :=
  let k := sfmix seed (tid % 2 ^ 32 * 2 ^ 32 + step % 2 ^ 32)
  let h := sfmix idx k
  let h := sfmix h (k ^^^ (pass % 2 ^ 32))
  h / 2 ^ 32

/-- Stochastic division by 2^k (R213): the next value away from zero when the draw is below the fraction in units of 2⁻³². -/
def srShift (m k r : Nat) : Nat := if r < m % 2 ^ k * 2 ^ 32 / 2 ^ k then m / 2 ^ k + 1 else m / 2 ^ k

/-- Stochastic rounding of a value to FP32 (R213); past the largest finite value it gives an infinity. -/
def srF32 (v : FVal) (r : Nat) : Word :=
  match v with
  | .fin neg m e =>
    if m = 0 then f32Of v
    else
      let q := gridExp 23 f32Fmt.emin m e
      let (s, x) := if q ≤ e then (m * 2 ^ (e - q).toNat, q) else (srShift m (q - e).toNat r, q)
      let c := f32Fmt.codeOf s x
      BitVec.ofNat 32 (f32Fmt.signed neg (min c 0x7F800000))
  | v => f32Of v

/-! ## MX blocks (R202, R203) -/

/-- The value of an MX element under its block's scale code (R202). -/
def mxElem (dt scale c : Nat) : FVal :=
  if scale = 0xFF then .nan else (decodeElem dt c).scale ((scale : Int) - 127)

/-- The largest finite FP32 magnitude. -/
def f32Max : Nat × Int := (2 ^ 24 - 1, 104)

/-- The scale code and element codes of a block of values (R203), and whether a value was beyond an upper clamp. [DEDUCED, log 64] -/
def mxBlock (dt : Nat) (sat : Bool) (vs : List FVal) : Nat × List Nat × List Bool :=
  let none_ := (0xFF, vs.map (fun _ => 0), vs.map (fun _ => false))
  if vs.any (fun v => v.isNan || (!sat && !v.isFin)) then none_
  else
    let a := vs.foldl (fun a v => match v with | .fin _ m e => maxMag a (m, e) | _ => maxMag a f32Max) (0, 0)
    if a.1 = 0 then (0, vs.map (fun _ => 0), vs.map (fun _ => false))
    else
      let x := max (-127) (min 127 (leastExp a (fMax dt)))
      ((x + 127).toNat, vs.map (fun v => encodeElem dt (sat || dtBits dt != 8) (v.scale (-x))), vs.map (fun v => beyondElem dt (v.scale (-x))))

/-! ## The Sillefold Reference Order (R216) -/

/-- Combine two children of the tree: an absent child passes the other on. -/
def refJoin (l r : Option Word) : Option Word :=
  match l, r with
  | some a, some b => some (f32Add a b)
  | some a, none => some a
  | none, r => r

/-- The balanced tree over 2^k elements from an index. -/
def refTree (x : Nat → Option Word) : Nat → Nat → Option Word
  | 0, lo => x lo
  | k + 1, lo => refJoin (refTree x k lo) (refTree x k (lo + 2 ^ k))

/-- A sum of `n` elements in the Sillefold Reference Order; absent elements and an empty sum are `none`. -/
def refSum (x : Nat → Option Word) (n : Nat) : Option Word :=
  (List.range (ceilDiv n 32)).foldl (fun acc b => refJoin acc (refTree (fun i => if i < n then x i else none) 5 (32 * b))) none

end Sys2Proof.Machine
end

