-- ==== Sys2Proof/Config.lean ====
section
/-! DEFINITION. What one Forcen fixes and the spec leaves open: fuses (R52, R418), the values the spec does not state
(free values), and the functions of outside standards that the manual names but does not write out. Every constant here
is opaque: no proof can see a value of one. -/

namespace Sys2Proof.Machine

/-- A profile of R95, or any other. -/
inductive Profile where
  | mpegMain | mpeg422
  | avcConstrainedBaseline | avcMain | avcHigh | avcHigh10 | avcHigh422
  | hevcMain | hevcMain10 | hevcMain422
  | av1Main
  | vvcMain10
  | other
  deriving DecidableEq, Repr, Inhabited

/-- How a picture is coded (R95): a progressive frame, an interlaced frame picture, a field picture, an MBAFF frame. -/
inductive Coding where
  | progressive | interlacedFrame | field | mbaff
  deriving DecidableEq, Repr, Inhabited

/-- What marks a picture as a place where decoding can start (R97): `seq` a sequence header (MPEG-2, AV1), `vps`, `sps`, `pps` parameter sets before it;
`intra` an I picture, `recovery` a recovery point SEI with its recovery_frame_cnt, `idr`, `cra`, `bla`, `gdr`, `shownKey` a shown key frame. -/
structure RapFacts where
  seq      : Bool
  vps      : Bool
  sps      : Bool
  pps      : Bool
  intra    : Bool
  recovery : Option Nat
  idr      : Bool
  cra      : Bool
  bla      : Bool
  gdr      : Bool
  shownKey : Bool
  deriving DecidableEq, Repr, Inhabited

/-- The parameter set that governs a picture (R95, R101, R103). `plain`: the bitstream format is the one of R95 and no extension outside it is used; `level` in
tenths, for MPEG-2 1 Low to 4 High; `fieldSeq`: field_seq_flag with pic_struct; `dpb`: max_dec_frame_buffering or its level limit (H.264),
max_dec_pic_buffering (HEVC, VVC); `codedW`, `codedH` the coded luma size of a frame; `width`, `height` after the window; `chroma` 0 4:2:0,
1 4:2:2, 2 4:0:0, other values any other format; `matrix` 255 where absent. -/
structure ParamSet where
  plain    : Bool
  profile  : Profile
  level    : Nat
  codedW   : Nat
  codedH   : Nat
  depth    : Nat
  chroma   : Nat
  fieldSeq : Bool
  dpb      : Nat
  width    : Nat
  height   : Nat
  matrix   : Nat
  full     : Bool
  deriving DecidableEq, Repr, Inhabited

/-- A picture of a span in decode order. `pos` and `stop`: the offsets of its first byte and after its last, from the start of the span; `index`: its target index (R98),
none for a leading picture and for one that is not output; `layer`: its layer id; `tid`: its temporal id, 0 where its syntax gives none; `intra`,
`predicted`: an I or a P picture; `refIdc`: nal_ref_idc; `subNonRef`: a sub-layer non-reference picture; `refresh`: refresh_frame_flags;
`shows`: the place of the frame that show_existing_frame outputs; `refs`: the places in decode order of its reference pictures; `before`: a
reference precedes the random-access point at the start of the span; `bottomFirst`; `bottom`: a bottom field; `grain`: the stream applies film
grain to it; `badHead`: a fault of R105 in its headers, a level exceeded among them; `badBody`: one found in decoding it. -/
structure CodedPicture where
  pos         : Nat
  stop        : Nat
  index       : Option Nat
  layer       : Nat
  tid         : Nat
  rap         : RapFacts
  params      : ParamSet
  coding      : Coding
  intra       : Bool
  predicted   : Bool
  refIdc      : Nat
  subNonRef   : Bool
  refresh     : Nat
  shows       : Option Nat
  refs        : List Nat
  leading     : Bool
  before      : Bool
  bottomFirst : Bool
  bottom      : Bool
  grain       : Bool
  badHead     : Bool
  badBody     : Bool
  deriving DecidableEq, Repr, Inhabited

end Sys2Proof.Machine

namespace Sys2Proof.Config

/-- The free value number `n` of width `w`: an undefined or unstated value of the spec (log 1). [DESIGN CHOICE, log 1] -/
opaque freeBits (w n : Nat) : BitVec w

/-- The fused device serial (R52, R426). [DESIGN CHOICE, log 6] -/
opaque serial : BitVec 64

/-- The fused hash of root key pair `i` (R418). [DESIGN CHOICE, log 6] -/
opaque rootKeyHash (i : Fin 4) : BitVec 384

/-- The revoked fuse of root key pair `i` (R418). [DESIGN CHOICE, log 6] -/
opaque rootKeyRevoked (i : Fin 4) : Bool

/-- The fused minimum SVN of each class at manufacture (R418, R422). [DESIGN CHOICE, log 6] -/
opaque minSvn (c : Fin 6) : Nat

/-- SHA-384 of a byte string (R418, R428). [DESIGN CHOICE, log 10] -/
opaque sha384 (m : List Byte) : BitVec 384

/-- RSASSA-PSS verification with SHA-384 and exponent 65,537: modulus, message, signature (R418). [DESIGN CHOICE, log 10] -/
opaque rsaVerify (pub m sig : List Byte) : Bool

/-- SLH-DSA-SHA2-192s verification: public key, message, signature (R418). [DESIGN CHOICE, log 10] -/
opaque slhVerify (pub m sig : List Byte) : Bool

/-- The device RSA signature over a report (R429, R430): 384 bytes. [DESIGN CHOICE, log 10] -/
opaque deviceRsaSign (m : List Byte) : Vector Byte 384

/-- The device SLH-DSA signature over a report (R429, R430): 16,224 bytes. [DESIGN CHOICE, log 10] -/
opaque deviceSlhSign (m : List Byte) : Vector Byte 16224

/-- The vector engine's approximation of function `fn` (0 EXP2, 1 LOG2, 2 RCP, 3 RSQRT, 4 TANH, 5 SIGM) at an FP32 operand
whose result the spec bounds but does not state (R261). [DEDUCED, log 57] -/
opaque vecApprox (fn : Nat) (x : Word) : Word

/-- The energy in µJ that a command processor estimates for a command with ENERGY_HINT 0 (R74), from its opcode and the DTYPE and extents of each of
its tensors. [DESIGN CHOICE, log 10] -/
opaque energyEstimate (op : Nat) (tensors : List (Nat × List Nat)) : Nat

/-- The picture of a span that the engine reads at a place in decode order, as the syntax of its standard gives it (R94 to R106; the standards are named, not
written out). A picture is a frame, a field, or an AV1 frame that only shows another. `codec` and `span` are the stream's codec and the
bytes of the span (absent where the stream holds none: a discontinuity or the end of the stream). [DESIGN CHOICE, log 10] -/
opaque pictures (codec : Nat) (span : List (Option Byte)) : List Machine.CodedPicture

/-- The sample of a decoded target: codec, whether film grain is applied, the bytes of the span, target, plane and sample index (R94, R96: the bitstream standards are named, not written out). [DESIGN CHOICE, log 10] -/
opaque decodedSample (codec : Nat) (grain : Bool) (span : List (Option Byte)) (target plane index : Nat) : Nat

/-- Stage 4 of the conditioning pipeline before its clip (R114): bit depth, matrix (0 BT.709, 1 BT.601, 2 BT.2020), full range, whether
there is chroma and three channels are made; the luma code, the two chroma codes in eighths; the channel. The order of its FP32 operations and
the matrices are not written out. [DESIGN CHOICE, log 10] -/
opaque colour (depth matrix : Nat) (full rgb : Bool) (y cb cr c : Nat) : Word

/-- The coefficients of one phase of a resampling axis, in units of 1/16,384, from the tap farthest below the source position on: crop extent, output extent, phase
(R114 stage 5: how a coefficient of the stretched Lanczos window is rounded is not stated; the middle one is made so that the phase sums to
16,384). [DESIGN CHOICE, log 111] -/
opaque lanczos (crop out phase : Nat) : List Int

/-- Whether a source position between two phases takes the upper one: its numerator and denominator (R114 stage 5). [DESIGN CHOICE, log 111] -/
opaque phaseUp (num den : Nat) : Bool

/-- The FP32 sum of samples times coefficients over 16,384: the order of its operations is not stated (R114 stage 5). [DESIGN CHOICE, log 111] -/
opaque tapSum (terms : List (Word × Int)) : Word

/-- Whether stage 5 resamples the rows first: the order of the axes is not stated (R114). [DESIGN CHOICE, log 111] -/
opaque rowsFirst : Bool

/-- The place that a page of a stack takes, as bank position + 64 × (number within the bank position) (R156: not published). [DEDUCED, log 96] -/
opaque pagePlace (stack : Nat) : Equiv.Perm (Fin 33554432)

/-- The order of the pseudo-channels of a stack at a bank position and number: each four in turn hold one page (R156). [DEDUCED, log 96] -/
opaque pcOrder (stack bank number : Nat) : Equiv.Perm (Fin 64)

/-- The row of a bank of a pseudo-channel that each number takes (R156). [DEDUCED, log 96] -/
opaque rowOrder (stack pseudo bank : Nat) : Equiv.Perm (Fin 32768)

/-- The order of the 64 words of a page: each sixteen in turn share a row (R156). [DEDUCED, log 96] -/
opaque wordOrder (stack page : Nat) : Equiv.Perm (Fin 64)

/-- What a byte of the T2 window reads as where no transfer has brought it: it lies behind the adapter. [DESIGN CHOICE, log 54] -/
opaque t2Byte (a : Nat) : BitVec 8

/-- The drain credits of a destination beyond the first (R184: their number is not stated): 0 to 7 a slice, 8 to 15 a stack, 16 any other. [DESIGN CHOICE, log 109] -/
opaque drainCredits (dest : Nat) : Nat

/-- The JEDEC limit of postponed refreshes of a bank (R161: named, not given). [DESIGN CHOICE, log 10] -/
opaque refreshPostpone : Nat

/-- The factory map in the fuses (R403) as (kind, unit, index): kind 4 a scratchpad bank, 5 a facet, 6 a lane group. [DESIGN CHOICE, log 6] -/
opaque factoryMap : List (Nat × Nat × Nat)

/-- The SHA-384 of the boot ROM (R423). -/
opaque romHash : BitVec 384

/-- The bytes of a settings copy that holds a SET_VERSION, SEQ, IMAGE_SEL, `GLB_BOOT_CFG` and further register values (R425: the layout of the
fields is not stated). [DESIGN CHOICE, log 99] -/
opaque settingsBytes (ver seq imageSel : Nat) (bootCfg : Word) (saved : List (Nat × Word)) : List Byte

/-- The SHA-384 of the default image (R408, R428), which the flash does not hold. [DESIGN CHOICE, log 99] -/
opaque defaultImageHash : BitVec 384

/-- The SET_VERSION of the MGC build that runs (R425), by its BUILD. -/
opaque setVersion (build : Nat) : Nat

/-- VERSION of an attestation report (R430: not stated). [DESIGN CHOICE, log 17] -/
opaque reportVersion : Nat

/-- Unstated results of a number operation, by operation and operand words (R214, R261). [DESIGN CHOICE, log 65] -/
opaque unstated (op : Nat) (a b c : Word) : Word

end Sys2Proof.Config
end

