-- ==== Sys2Proof/Machine/RegTable.lean ====
section
/-! DEFINITION. The register table of the Forcen: every register of the spec's tables by name, with its place (R51), scope,
reset domain (R40), pair (R41), and for each field its bits, access code (R9), reset value and legal range (R48).
The names are the spec's own. Reserved bits have no entry: they read zero and ignore writes (R11). -/

namespace Sys2Proof.Machine

/-- Every register template of the spec; an index in a name (n, p, k, …) is the instance number. -/
inductive RegName where
  | BLK_ID | BLK_ERR | GLB_HSRATE_An | GLB_HSRATE_SOC | GLB_CLAMP_HEAD | GLB_SERIAL_LO
  | GLB_SERIAL_HI | GLB_DEVICE | GLB_FEATURES | GLB_CONTRACT | GLB_BOOT | GLB_QUAL
  | GLB_BOOT_CFG | GLB_IMAGE_ID | GLB_STRUCT_HEAD | GLB_STRAPS | GLB_BMC_CTRL | CMD_STATUS
  | CMD_Qn_BASE_LO | CMD_Qn_BASE_HI | CMD_Qn_CTRL | CMD_Qn_TAIL | CMD_Qn_HEAD | CMD_Qn_STATUS
  | CMD_Qn_FAIL | CMD_Qn_WAIT_LIMIT | CMD_LOCK_VAL_k | CMD_LOCK_ADD_k | CMD_LOCK_SET_k | ING_CFG
  | ING_POOL_W | ING_POOL_E | ING_PORTk_CNT | ING_STRn_STATE | ING_STRn_OCC | ING_STRn_NEXT_LO
  | ING_STRn_NEXT_HI | ING_STRn_REL_LO | ING_STRn_REL_HI | ING_STRn_STATUS | DEC_RATE_W | DEC_RATE_E
  | DEC_ENGm_STATE | DEC_ENGm_STATUS | DEC_ENGm_PIX_LO | DEC_ENGm_PIX_HI | SHF_POOLp_BASE_LO | SHF_POOLp_BASE_HI
  | SHF_POOLp_SHAPE | SHF_POOLp_FMT | SHF_POOLp_WIN | SHF_POOLp_SPW | SHF_POOLp_SEED | SHF_POOLp_CTRL
  | SHF_POOLp_NORMc | SHF_POOLp_SIZE | SHF_POOLp_STATUS | TIER_CFG | TIER_OBJT_BASE_LO | TIER_OBJT_BASE_HI
  | TIER_OBJT_CTRL | TIER_OBJ_SYNC | TIER_OBJ_QUERY | TIER_OBJ_STATE | TIER_LIMITS | TIER_SPACE
  | TIER_STATUS | TIER_PARTNER | HBM_STACKn_TEMP | HBM_STACKn_CAP | HBM_STACKn_RETIRED | HBM_STACKn_STATUS
  | HBM_THERM_CFG | HBM_BG_CFG | HBM_REGc_Sn | HBM_RETIRE_IDX | HBM_RETIRE_ADDR_LO | HBM_RETIRE_ADDR_HI
  | HBM_MARGIN_CTRL | HBM_MARGIN_RESk | ARR_CFG | ARR_An_CUT | ARR_An_STATUS | ARR_An_SUSPECT
  | ARR_An_USE_LO | ARR_An_USE_HI | ARR_An_TILES_LO | ARR_An_TILES_HI | ARR_An_LASTFAULTw | NUM_SR_SEED_LO
  | NUM_SR_SEED_HI | NUM_ARITH_CFG | NUM_SCALE_CFG | NUM_ARITH_STATUS | NUM_LEDGER_BASE_LO | NUM_LEDGER_BASE_HI
  | NUM_LEDGER_CTRL | NUM_ZRUN_CFG | NUM_DEMOTE_CFG | NUM_COMMITTED_STEP | NUM_LEDGER_STATUS | VEC_Vn_STATE
  | VEC_Vn_STATUS | VEC_Vn_FAULT | VEC_Vn_INSTR_LO | VEC_Vn_INSTR_HI | RDU_Vn_STATUS | LNK_CFG
  | LNK_FAIL_CMD | LNK_Pp_CTRL | LNK_Pp_STATE | LNK_Pp_STATUS | LNK_Pp_FEC_LO | LNK_Pp_FEC_HI
  | LNK_Pp_ERR | LNK_Pp_PEER_LO | LNK_Pp_PEER_HI | LNK_Pp_PEER_ID | LNK_Pp_LANEl | LNK_Pp_VCv
  | EUT_Ek_CFG | EUT_Ek_ADAPTER | EUT_Ek_STATUS | EUT_NOTE_CFG | EUT_NOTE_SEQ | EUT_PART_RESET
  | PER_TOPO | PER_LTOPO | PER_COORD | PER_LCOORD | PER_STATUS | PER_FWD_LO
  | PER_FWD_HI | PER_REMAPi_L | PER_REMAPi_P | PER_DEADi | PER_GRPg_X | PER_GRPg_Y
  | PER_GRPg_Z | PER_GRPg_CTRL | PER_GRPg_EPOCH | PER_GRPg_DISC | COL_CFG | COL_GRPg_CFG
  | COL_GRPg_STATE | COL_GRPg_CSTEP | COL_GRPg_SHARD_FIRST | COL_GRPg_SHARD_COUNT | COL_GRPg_STATUS | RCV_CFG
  | RCV_LAYER_CFG | RCV_PARTNER | RCV_WARD | RCV_DOMAIN_LO | RCV_DOMAIN_HI | RCV_GO
  | RCV_STATE | RCV_RSTEP | RCV_STATUS | RCV_GRPg_UPD | RCV_GRPg_PROT | RCV_GRPg_W
  | RCV_GRPg_FLASH | RCV_GRPg_STORE | PWR_CAP | PWR_CFG | PWR_COOLANT | PWR_STATUS
  | PWR_SYS_E_LO | PWR_SYS_E_HI | PWR_RAILr | PWR_SPLIT | PWR_EPOCH | PWR_THERM_STATE
  | PWR_ALLOW | PWR_BAL | PWR_SHORT | PWR_E_LO | PWR_E_HI | PWR_Qn_E_LO
  | PWR_Qn_E_HI | NOC_MAP_An_F | NOC_MAP_An_R | SEC_STAGE_ADDR_LO | SEC_STAGE_ADDR_HI | SEC_STAGE_CTRL
  | SEC_STAGE_LEN | SEC_FWc | SEC_SETTINGS | SEC_SVN_COMMIT | SEC_NONCEi | SEC_ATTEST_CTRL
  | EVR_CFG | EVR_STATUS | EVR_NEXT_LO | EVR_NEXT_HI | EVR_LOW_LO | EVR_LOW_HI
  | EVR_CUR_LO | EVR_CUR_HI | EVR_RD_CTRL | EVR_RD_DATAw | EVR_ANCHOR_LO | EVR_ANCHOR_HI
  | EVR_CLEAR_LO | EVR_CLEAR_HI | EVR_CLEAR_CTRL | CHK_Uu_CTRL | CHK_Uu_RUN_LO | CHK_Uu_RUN_HI
  | CHK_Uu_SRC_LO | CHK_Uu_SRC_HI | CHK_Uu_DST_LO | CHK_Uu_DST_HI | CHK_Uu_LEN_LO | CHK_Uu_LEN_HI
  | CHK_Uu_STATUS
  deriving DecidableEq, Repr

/-- Access codes (R9). -/
inductive Acc where
  | ro | rw | rwv | sq | wo | lh
  deriving DecidableEq, Repr

/-- The scope of a register (R51): `glob` only in the global window; `shown` global and in partition views; `part` once per
partition; `owned` one per resource, reached as partition scope of its owner; `view` held by each view. -/
inductive Scope where
  | glob | shown | part | owned | view
  deriving DecidableEq, Repr

/-- Reset domains (R40). -/
inductive Dom where
  | cold | warm | part
  deriving DecidableEq, Repr

/-- The resource an instance of a register describes; a view shows only its own resources (R50). -/
inductive Own where
  | none | array | stream | engine | pool | eport | port | group | stack | rail
  deriving DecidableEq, Repr

/-- The legal range of a field (R48): a number's minimum, maximum and step, or the defined encodings. -/
inductive Range where
  | full
  | num (lo hi step : Nat)
  | enum (legal : List Nat)
  deriving DecidableEq, Repr

/-- The place of a register in an LO/HI pair (R41). -/
inductive PairRole where
  | single
  | lo (hi : RegName)
  | hi (lo : RegName)
  deriving DecidableEq, Repr

/-- One field of a register. -/
structure FieldSpec where
  hi    : Nat
  lo    : Nat
  acc   : Acc
  reset : Nat
  range : Range
  deriving DecidableEq, Repr

/-- One register template: block index, offset, (stride, count) of each index, scope, domain, owner, pair and fields. -/
structure RegSpec where
  block  : Nat
  off    : Nat
  dims   : List (Nat × Nat)
  scope  : Scope
  dom    : Dom
  own    : Own
  pair   : PairRole
  fields : List FieldSpec
  deriving DecidableEq, Repr

/-- A field of a register, by name. -/
structure Fld where
  reg : RegName
  hi  : Nat
  lo  : Nat
  deriving DecidableEq, Repr

/-- The templates (the tables of spec/02 to spec/21). -/
def RegName.spec : RegName → RegSpec
  | .BLK_ID => ⟨0, 0, [], .view, .cold, .none, .single, [⟨7, 0, .ro, 0, .full⟩, ⟨15, 8, .ro, 1, .full⟩]⟩
  | .BLK_ERR => ⟨0, 4, [], .view, .cold, .none, .single, [⟨3, 0, .sq, 0, .full⟩, ⟨15, 8, .sq, 0, .full⟩, ⟨23, 16, .sq, 0, .full⟩, ⟨31, 24, .sq, 0, .full⟩]⟩
  | .GLB_HSRATE_An => ⟨0, 0x200, [(0x4, 8)], .shown, .cold, .array, .single,
      [⟨15, 0, .ro, 0x0, .full⟩, ⟨19, 16, .ro, 0x0, .full⟩, ⟨27, 20, .ro, 0x0, .full⟩]⟩
  | .GLB_HSRATE_SOC => ⟨0, 0x220, [], .shown, .cold, .none, .single,
      [⟨15, 0, .ro, 0x0, .full⟩, ⟨19, 16, .ro, 0x0, .full⟩, ⟨27, 20, .ro, 0x0, .full⟩]⟩
  | .GLB_CLAMP_HEAD => ⟨0, 0x40, [], .view, .cold, .none, .single,
      [⟨15, 0, .ro, 0x0, .full⟩]⟩
  | .GLB_SERIAL_LO => ⟨0, 0x18, [], .shown, .cold, .none, (.lo .GLB_SERIAL_HI),
      [⟨31, 0, .ro, 0x0, .full⟩]⟩
  | .GLB_SERIAL_HI => ⟨0, 0x1c, [], .shown, .cold, .none, (.hi .GLB_SERIAL_LO),
      [⟨31, 0, .lh, 0x0, .full⟩]⟩
  | .GLB_DEVICE => ⟨0, 0x20, [], .shown, .cold, .none, .single,
      [⟨15, 0, .ro, 0x8160, .full⟩, ⟨19, 16, .ro, 0x0, .full⟩, ⟨31, 24, .ro, 0x1, .full⟩]⟩
  | .GLB_FEATURES => ⟨0, 0x24, [], .shown, .cold, .none, .single,
      [⟨1, 0, .ro, 0x3, .full⟩, ⟨2, 2, .ro, 0x0, .full⟩, ⟨3, 3, .ro, 0x0, .full⟩, ⟨4, 4, .ro, 0x0, .full⟩, ⟨11, 8, .ro, 0x0, .full⟩, ⟨14, 12, .ro, 0x0, .full⟩]⟩
  | .GLB_CONTRACT => ⟨0, 0x10, [], .shown, .cold, .none, .single,
      [⟨7, 0, .ro, 0x1, .full⟩, ⟨15, 8, .ro, 0x0, .full⟩, ⟨23, 16, .ro, 0x40, .full⟩, ⟨27, 24, .ro, 0x4, .full⟩]⟩
  | .GLB_BOOT => ⟨0, 0x50, [], .shown, .cold, .none, .single,
      [⟨3, 0, .ro, 0x0, .full⟩, ⟨4, 4, .ro, 0x0, .full⟩, ⟨5, 5, .ro, 0x0, .full⟩, ⟨8, 6, .ro, 0x0, .full⟩, ⟨31, 16, .ro, 0x0, .full⟩]⟩
  | .GLB_QUAL => ⟨0, 0x54, [], .glob, .cold, .none, .single,
      [⟨15, 0, .ro, 0x0, .full⟩, ⟨23, 16, .ro, 0x0, .full⟩, ⟨24, 24, .ro, 0x0, .full⟩, ⟨25, 25, .ro, 0x0, .full⟩]⟩
  | .GLB_BOOT_CFG => ⟨0, 0x58, [], .glob, .cold, .none, .single,
      [⟨0, 0, .rw, 0x0, .full⟩, ⟨15, 8, .rw, 0x14, (.num 1 120 1)⟩]⟩
  | .GLB_IMAGE_ID => ⟨0, 0x5c, [], .glob, .cold, .none, .single,
      [⟨31, 0, .ro, 0x0, .full⟩]⟩
  | .GLB_STRUCT_HEAD => ⟨0, 0x60, [], .glob, .cold, .none, .single,
      [⟨15, 0, .ro, 0x0, .full⟩]⟩
  | .GLB_STRAPS => ⟨0, 0x74, [], .shown, .cold, .none, .single,
      [⟨3, 0, .ro, 0x0, .full⟩, ⟨9, 4, .ro, 0x0, .full⟩]⟩
  | .GLB_BMC_CTRL => ⟨0, 0x70, [], .glob, .cold, .none, .single,
      [⟨0, 0, .wo, 0x0, .full⟩, ⟨15, 8, .wo, 0x0, .full⟩]⟩
  | .CMD_STATUS => ⟨1, 0x8, [], .part, .part, .none, .single,
      [⟨0, 0, .sq, 0x0, .full⟩, ⟨31, 24, .sq, 0x0, .full⟩]⟩
  | .CMD_Qn_BASE_LO => ⟨1, 0x1000, [(0x40, 64)], .part, .part, .none, (.lo .CMD_Qn_BASE_HI),
      [⟨31, 12, .rw, 0x0, .full⟩]⟩
  | .CMD_Qn_BASE_HI => ⟨1, 0x1004, [(0x40, 64)], .part, .part, .none, (.hi .CMD_Qn_BASE_LO),
      [⟨15, 0, .rw, 0x0, .full⟩]⟩
  | .CMD_Qn_CTRL => ⟨1, 0x1008, [(0x40, 64)], .part, .part, .none, .single,
      [⟨0, 0, .rw, 0x0, .full⟩, ⟨1, 1, .rw, 0x0, .full⟩, ⟨2, 2, .wo, 0x0, .full⟩, ⟨3, 3, .rw, 0x1, .full⟩, ⟨8, 4, .rw, 0x6, (.num 6 16 1)⟩, ⟨10, 9, .rw, 0x0, .full⟩, ⟨23, 16, .rw, 0x0, .full⟩, ⟨24, 24, .rw, 0x0, .full⟩]⟩
  | .CMD_Qn_TAIL => ⟨1, 0x100c, [(0x40, 64)], .part, .part, .none, .single,
      [⟨31, 0, .rw, 0x0, .full⟩]⟩
  | .CMD_Qn_HEAD => ⟨1, 0x1010, [(0x40, 64)], .part, .part, .none, .single,
      [⟨31, 0, .ro, 0x0, .full⟩]⟩
  | .CMD_Qn_STATUS => ⟨1, 0x1014, [(0x40, 64)], .part, .part, .none, .single,
      [⟨0, 0, .sq, 0x0, .full⟩, ⟨1, 1, .sq, 0x0, .full⟩, ⟨2, 2, .sq, 0x0, .full⟩, ⟨3, 3, .sq, 0x0, .full⟩, ⟨15, 8, .sq, 0x0, .full⟩, ⟨31, 24, .sq, 0x0, .full⟩]⟩
  | .CMD_Qn_FAIL => ⟨1, 0x1018, [(0x40, 64)], .part, .part, .none, .single,
      [⟨15, 0, .ro, 0x0, .full⟩, ⟨31, 16, .ro, 0x0, .full⟩]⟩
  | .CMD_Qn_WAIT_LIMIT => ⟨1, 0x101c, [(0x40, 64)], .part, .part, .none, .single,
      [⟨15, 0, .rw, 0x0, (.num 0 60000 1)⟩]⟩
  | .CMD_LOCK_VAL_k => ⟨1, 0x4000, [(0x4, 4096)], .part, .part, .none, .single,
      [⟨31, 0, .ro, 0x0, .full⟩]⟩
  | .CMD_LOCK_ADD_k => ⟨1, 0x8000, [(0x4, 4096)], .part, .part, .none, .single,
      [⟨31, 0, .wo, 0x0, .full⟩]⟩
  | .CMD_LOCK_SET_k => ⟨1, 0xc000, [(0x4, 4096)], .part, .part, .none, .single,
      [⟨31, 0, .wo, 0x0, .full⟩]⟩
  | .ING_CFG => ⟨9, 0x80000, [], .glob, .cold, .none, .single,
      [⟨15, 0, .rw, 0x32, (.num 1 1000 1)⟩]⟩
  | .ING_POOL_W => ⟨9, 0x80010, [], .glob, .cold, .none, .single,
      [⟨15, 0, .ro, 0x0, .full⟩, ⟨31, 16, .ro, 0x0, .full⟩]⟩
  | .ING_POOL_E => ⟨9, 0x80014, [], .glob, .cold, .none, .single,
      [⟨15, 0, .ro, 0x0, .full⟩, ⟨31, 16, .ro, 0x0, .full⟩]⟩
  | .ING_PORTk_CNT => ⟨9, 0x200, [(0x4, 4)], .owned, .part, .eport, .single,
      [⟨15, 0, .ro, 0x0, .full⟩, ⟨31, 16, .ro, 0x0, .full⟩]⟩
  | .ING_STRn_STATE => ⟨9, 0x1000, [(0x20, 1024)], .owned, .part, .stream, .single,
      [⟨2, 0, .ro, 0x0, .full⟩, ⟨3, 3, .ro, 0x0, .full⟩, ⟨4, 4, .ro, 0x0, .full⟩, ⟨5, 5, .ro, 0x0, .full⟩, ⟨7, 6, .ro, 0x0, .full⟩, ⟨11, 8, .ro, 0x0, .full⟩]⟩
  | .ING_STRn_OCC => ⟨9, 0x1004, [(0x20, 1024)], .owned, .part, .stream, .single,
      [⟨15, 0, .ro, 0x0, .full⟩, ⟨24, 16, .ro, 0x0, .full⟩]⟩
  | .ING_STRn_NEXT_LO => ⟨9, 0x1008, [(0x20, 1024)], .owned, .part, .stream, (.lo .ING_STRn_NEXT_HI),
      [⟨31, 0, .ro, 0x0, .full⟩]⟩
  | .ING_STRn_NEXT_HI => ⟨9, 0x100c, [(0x20, 1024)], .owned, .part, .stream, (.hi .ING_STRn_NEXT_LO),
      [⟨31, 0, .lh, 0x0, .full⟩]⟩
  | .ING_STRn_REL_LO => ⟨9, 0x1010, [(0x20, 1024)], .owned, .part, .stream, (.lo .ING_STRn_REL_HI),
      [⟨31, 0, .ro, 0x0, .full⟩]⟩
  | .ING_STRn_REL_HI => ⟨9, 0x1014, [(0x20, 1024)], .owned, .part, .stream, (.hi .ING_STRn_REL_LO),
      [⟨31, 0, .lh, 0x0, .full⟩]⟩
  | .ING_STRn_STATUS => ⟨9, 0x1018, [(0x20, 1024)], .owned, .part, .stream, .single,
      [⟨0, 0, .sq, 0x0, .full⟩, ⟨1, 1, .sq, 0x0, .full⟩, ⟨2, 2, .sq, 0x0, .full⟩, ⟨3, 3, .sq, 0x0, .full⟩, ⟨4, 4, .sq, 0x0, .full⟩, ⟨15, 8, .sq, 0x0, .full⟩, ⟨23, 16, .sq, 0x0, .full⟩, ⟨31, 24, .sq, 0x0, .full⟩]⟩
  | .DEC_RATE_W => ⟨10, 0x100, [], .shown, .cold, .none, .single,
      [⟨15, 0, .ro, 0x0, .full⟩]⟩
  | .DEC_RATE_E => ⟨10, 0x104, [], .shown, .cold, .none, .single,
      [⟨15, 0, .ro, 0x0, .full⟩]⟩
  | .DEC_ENGm_STATE => ⟨10, 0x1000, [(0x10, 32)], .owned, .part, .engine, .single,
      [⟨0, 0, .ro, 0x0, .full⟩, ⟨7, 4, .ro, 0x0, .full⟩, ⟨25, 16, .ro, 0x0, .full⟩]⟩
  | .DEC_ENGm_STATUS => ⟨10, 0x1004, [(0x10, 32)], .owned, .part, .engine, .single,
      [⟨0, 0, .sq, 0x0, .full⟩, ⟨1, 1, .sq, 0x0, .full⟩, ⟨2, 2, .sq, 0x0, .full⟩, ⟨15, 8, .sq, 0x0, .full⟩, ⟨31, 24, .sq, 0x0, .full⟩]⟩
  | .DEC_ENGm_PIX_LO => ⟨10, 0x1008, [(0x10, 32)], .owned, .part, .engine, (.lo .DEC_ENGm_PIX_HI),
      [⟨31, 0, .ro, 0x0, .full⟩]⟩
  | .DEC_ENGm_PIX_HI => ⟨10, 0x100c, [(0x10, 32)], .owned, .part, .engine, (.hi .DEC_ENGm_PIX_LO),
      [⟨31, 0, .lh, 0x0, .full⟩]⟩
  | .SHF_POOLp_BASE_LO => ⟨12, 0x1000, [(0x40, 16)], .owned, .part, .pool, (.lo .SHF_POOLp_BASE_HI),
      [⟨31, 12, .rw, 0x0, .full⟩]⟩
  | .SHF_POOLp_BASE_HI => ⟨12, 0x1004, [(0x40, 16)], .owned, .part, .pool, (.hi .SHF_POOLp_BASE_LO),
      [⟨15, 0, .rw, 0x0, .full⟩]⟩
  | .SHF_POOLp_SHAPE => ⟨12, 0x1008, [(0x40, 16)], .owned, .part, .pool, .single,
      [⟨11, 0, .rw, 0x100, (.num 8 4095 1)⟩, ⟨23, 12, .rw, 0x100, (.num 8 4095 1)⟩, ⟨29, 24, .rw, 0x10, (.num 1 63 1)⟩]⟩
  | .SHF_POOLp_FMT => ⟨12, 0x100c, [(0x40, 16)], .owned, .part, .pool, .single,
      [⟨1, 0, .rw, 0x2, .full⟩, ⟨3, 2, .rw, 0x1, .full⟩, ⟨4, 4, .rw, 0x0, .full⟩, ⟨15, 8, .rw, 0x2, (.enum [2, 4, 5])⟩, ⟨17, 16, .rw, 0x0, (.enum [0, 1, 2])⟩]⟩
  | .SHF_POOLp_WIN => ⟨12, 0x1010, [(0x40, 16)], .owned, .part, .pool, .single,
      [⟨19, 0, .rw, 0x1, (.num 1 1048575 1)⟩, ⟨23, 20, .rw, 0x2, (.num 2 8 1)⟩]⟩
  | .SHF_POOLp_SPW => ⟨12, 0x1014, [(0x40, 16)], .owned, .part, .pool, .single,
      [⟨15, 0, .rw, 0x1, (.num 1 65535 1)⟩]⟩
  | .SHF_POOLp_SEED => ⟨12, 0x1018, [(0x40, 16)], .owned, .part, .pool, .single,
      [⟨31, 0, .rw, 0x0, .full⟩]⟩
  | .SHF_POOLp_CTRL => ⟨12, 0x101c, [(0x40, 16)], .owned, .part, .pool, .single,
      [⟨0, 0, .rw, 0x0, .full⟩, ⟨15, 4, .rw, 0x0, .full⟩, ⟨27, 16, .rw, 0x0, .full⟩]⟩
  | .SHF_POOLp_NORMc => ⟨12, 0x1020, [(0x40, 16), (0x4, 3)], .owned, .part, .pool, .single,
      [⟨15, 0, .rw, 0x0, .full⟩, ⟨31, 16, .rw, 0x3f80, .full⟩]⟩
  | .SHF_POOLp_SIZE => ⟨12, 0x102c, [(0x40, 16)], .owned, .part, .pool, .single,
      [⟨23, 0, .ro, 0x0, .full⟩]⟩
  | .SHF_POOLp_STATUS => ⟨12, 0x1030, [(0x40, 16)], .owned, .part, .pool, .single,
      [⟨0, 0, .sq, 0x0, .full⟩, ⟨1, 1, .sq, 0x0, .full⟩, ⟨15, 8, .sq, 0x0, .full⟩, ⟨19, 16, .sq, 0x0, .full⟩, ⟨23, 20, .sq, 0x0, .full⟩, ⟨31, 24, .sq, 0x0, .full⟩]⟩
  | .TIER_CFG => ⟨7, 0x10, [], .part, .cold, .none, .single,
      [⟨0, 0, .ro, 0x0, .full⟩, ⟨19, 8, .ro, 0x0, .full⟩, ⟨31, 20, .ro, 0x0, .full⟩]⟩
  | .TIER_OBJT_BASE_LO => ⟨7, 0x18, [], .part, .part, .none, (.lo .TIER_OBJT_BASE_HI),
      [⟨31, 12, .rw, 0x0, .full⟩]⟩
  | .TIER_OBJT_BASE_HI => ⟨7, 0x1c, [], .part, .part, .none, (.hi .TIER_OBJT_BASE_LO),
      [⟨15, 0, .rw, 0x0, .full⟩]⟩
  | .TIER_OBJT_CTRL => ⟨7, 0x20, [], .part, .part, .none, .single,
      [⟨4, 0, .rw, 0x6, (.num 6 16 1)⟩, ⟨8, 8, .wo, 0x0, .full⟩, ⟨9, 9, .ro, 0x0, .full⟩]⟩
  | .TIER_OBJ_SYNC => ⟨7, 0x24, [], .part, .part, .none, .single,
      [⟨15, 0, .wo, 0x0, .full⟩, ⟨16, 16, .wo, 0x0, .full⟩]⟩
  | .TIER_OBJ_QUERY => ⟨7, 0x28, [], .part, .part, .none, .single,
      [⟨15, 0, .rw, 0x0, .full⟩]⟩
  | .TIER_OBJ_STATE => ⟨7, 0x2c, [], .part, .part, .none, .single,
      [⟨2, 0, .ro, 0x0, .full⟩, ⟨4, 3, .ro, 0x0, .full⟩, ⟨5, 5, .ro, 0x0, .full⟩, ⟨6, 6, .ro, 0x0, .full⟩, ⟨7, 7, .ro, 0x0, .full⟩, ⟨11, 8, .ro, 0x0, .full⟩, ⟨31, 16, .ro, 0x0, .full⟩]⟩
  | .TIER_LIMITS => ⟨7, 0x30, [], .part, .part, .none, .single,
      [⟨15, 0, .rw, 0x3e8, (.num 1 60000 1)⟩, ⟨31, 16, .rw, 0x64, (.num 1 10000 1)⟩]⟩
  | .TIER_SPACE => ⟨7, 0x34, [], .part, .part, .none, .single,
      [⟨11, 0, .ro, 0x0, .full⟩, ⟨27, 16, .ro, 0x0, .full⟩]⟩
  | .TIER_STATUS => ⟨7, 0x38, [], .part, .part, .none, .single,
      [⟨0, 0, .sq, 0x0, .full⟩, ⟨1, 1, .sq, 0x0, .full⟩, ⟨2, 2, .sq, 0x0, .full⟩, ⟨3, 3, .sq, 0x0, .full⟩, ⟨4, 4, .sq, 0x0, .full⟩, ⟨5, 5, .sq, 0x0, .full⟩, ⟨15, 8, .sq, 0x0, .full⟩, ⟨23, 16, .sq, 0x0, .full⟩, ⟨31, 24, .sq, 0x0, .full⟩]⟩
  | .TIER_PARTNER => ⟨7, 0x80000, [], .glob, .cold, .none, .single,
      [⟨8, 0, .ro, 0x0, .full⟩]⟩
  | .HBM_STACKn_TEMP => ⟨8, 0x100, [(0x4, 8)], .shown, .cold, .stack, .single,
      [⟨7, 0, .ro, 0x0, .full⟩, ⟨9, 8, .ro, 0x0, .full⟩, ⟨17, 10, .ro, 0x0, .full⟩]⟩
  | .HBM_STACKn_CAP => ⟨8, 0x200, [(0x8, 8)], .shown, .cold, .stack, .single,
      [⟨17, 0, .ro, 0x0, .full⟩]⟩
  | .HBM_STACKn_RETIRED => ⟨8, 0x204, [(0x8, 8)], .glob, .cold, .none, .single,
      [⟨12, 0, .ro, 0x0, .full⟩, ⟨19, 13, .ro, 0x0, .full⟩, ⟨31, 20, .ro, 0x0, .full⟩]⟩
  | .HBM_STACKn_STATUS => ⟨8, 0x300, [(0x4, 8)], .shown, .cold, .stack, .single,
      [⟨0, 0, .sq, 0x0, .full⟩, ⟨1, 1, .sq, 0x0, .full⟩, ⟨2, 2, .sq, 0x0, .full⟩, ⟨3, 3, .sq, 0x0, .full⟩, ⟨4, 4, .sq, 0x0, .full⟩, ⟨23, 8, .sq, 0x0, .full⟩, ⟨31, 24, .sq, 0x0, .full⟩]⟩
  | .HBM_THERM_CFG => ⟨8, 0x80000, [], .glob, .cold, .none, .single,
      [⟨3, 0, .rwv, 0x4, (.num 0 10 1)⟩, ⟨10, 4, .rwv, 0x3c, (.num 20 100 1)⟩]⟩
  | .HBM_BG_CFG => ⟨8, 0x80004, [], .glob, .cold, .none, .single,
      [⟨7, 0, .rw, 0xa, (.num 1 100 1)⟩, ⟨15, 8, .rw, 0x18, (.num 1 168 1)⟩]⟩
  | .HBM_REGc_Sn => ⟨8, 0x80100, [(0x20, 8), (0x4, 5)], .glob, .cold, .none, .single,
      [⟨7, 0, .rw, 0x40, (.num 1 255 1)⟩, ⟨14, 8, .rw, 0x64, (.num 1 100 1)⟩]⟩
  | .HBM_RETIRE_IDX => ⟨8, 0x80200, [], .glob, .cold, .none, .single,
      [⟨2, 0, .rw, 0x0, .full⟩, ⟨15, 3, .rw, 0x0, (.num 0 4159 1)⟩]⟩
  | .HBM_RETIRE_ADDR_LO => ⟨8, 0x80208, [], .glob, .cold, .none, (.lo .HBM_RETIRE_ADDR_HI),
      [⟨31, 0, .ro, 0x0, .full⟩]⟩
  | .HBM_RETIRE_ADDR_HI => ⟨8, 0x8020c, [], .glob, .cold, .none, (.hi .HBM_RETIRE_ADDR_LO),
      [⟨31, 0, .lh, 0x0, .full⟩]⟩
  | .HBM_MARGIN_CTRL => ⟨8, 0x80300, [], .glob, .cold, .none, .single,
      [⟨0, 0, .rw, 0x0, .full⟩, ⟨3, 1, .rw, 0x0, .full⟩, ⟨5, 4, .rw, 0x0, .full⟩]⟩
  | .HBM_MARGIN_RESk => ⟨8, 0x80400, [(0x4, 32)], .glob, .cold, .none, .single,
      [⟨7, 0, .ro, 0x0, .full⟩, ⟨15, 8, .ro, 0x0, .full⟩]⟩
  | .ARR_CFG => ⟨2, 0x80000, [], .glob, .cold, .none, .single,
      [⟨9, 0, .rw, 0x32, (.num 1 1000 1)⟩]⟩
  | .ARR_An_CUT => ⟨2, 0x1000, [(0x40, 8)], .shown, .cold, .array, .single,
      [⟨2, 0, .ro, 0x0, .full⟩, ⟨3, 3, .ro, 0x0, .full⟩, ⟨6, 4, .ro, 0x0, .full⟩]⟩
  | .ARR_An_STATUS => ⟨2, 0x1004, [(0x40, 8)], .shown, .part, .array, .single,
      [⟨0, 0, .sq, 0x0, .full⟩, ⟨1, 1, .sq, 0x0, .full⟩, ⟨15, 8, .sq, 0x0, .full⟩, ⟨31, 24, .sq, 0x0, .full⟩]⟩
  | .ARR_An_SUSPECT => ⟨2, 0x1008, [(0x40, 8)], .shown, .cold, .array, .single,
      [⟨15, 0, .ro, 0x0, .full⟩]⟩
  | .ARR_An_USE_LO => ⟨2, 0x1010, [(0x40, 8)], .shown, .part, .array, (.lo .ARR_An_USE_HI),
      [⟨31, 0, .ro, 0x0, .full⟩]⟩
  | .ARR_An_USE_HI => ⟨2, 0x1014, [(0x40, 8)], .shown, .part, .array, (.hi .ARR_An_USE_LO),
      [⟨31, 0, .lh, 0x0, .full⟩]⟩
  | .ARR_An_TILES_LO => ⟨2, 0x1018, [(0x40, 8)], .shown, .part, .array, (.lo .ARR_An_TILES_HI),
      [⟨31, 0, .ro, 0x0, .full⟩]⟩
  | .ARR_An_TILES_HI => ⟨2, 0x101c, [(0x40, 8)], .shown, .part, .array, (.hi .ARR_An_TILES_LO),
      [⟨31, 0, .lh, 0x0, .full⟩]⟩
  | .ARR_An_LASTFAULTw => ⟨2, 0x1020, [(0x40, 8), (0x4, 4)], .shown, .part, .array, .single,
      [⟨31, 0, .ro, 0x0, .full⟩]⟩
  | .NUM_SR_SEED_LO => ⟨4, 0x10, [], .part, .part, .none, (.lo .NUM_SR_SEED_HI),
      [⟨31, 0, .rw, 0x0, .full⟩]⟩
  | .NUM_SR_SEED_HI => ⟨4, 0x14, [], .part, .part, .none, (.hi .NUM_SR_SEED_LO),
      [⟨31, 0, .rw, 0x0, .full⟩]⟩
  | .NUM_ARITH_CFG => ⟨4, 0x18, [], .part, .part, .none, .single,
      [⟨15, 0, .rw, 0x20, (.num 1 65535 1)⟩, ⟨16, 16, .rw, 0x1, .full⟩, ⟨17, 17, .rw, 0x1, .full⟩]⟩
  | .NUM_SCALE_CFG => ⟨4, 0x1c, [], .part, .part, .none, .single,
      [⟨0, 0, .rw, 0x0, .full⟩, ⟨3, 1, .rw, 0x0, .full⟩, ⟨8, 4, .rw, 0x10, (.num 1 16 1)⟩]⟩
  | .NUM_ARITH_STATUS => ⟨4, 0x20, [], .part, .part, .none, .single,
      [⟨0, 0, .sq, 0x0, .full⟩, ⟨1, 1, .sq, 0x0, .full⟩, ⟨2, 2, .sq, 0x0, .full⟩, ⟨15, 8, .sq, 0x0, .full⟩, ⟨23, 16, .sq, 0x0, .full⟩, ⟨31, 24, .sq, 0x0, .full⟩]⟩
  | .NUM_LEDGER_BASE_LO => ⟨4, 0x30, [], .part, .part, .none, (.lo .NUM_LEDGER_BASE_HI),
      [⟨31, 12, .rw, 0x0, .full⟩]⟩
  | .NUM_LEDGER_BASE_HI => ⟨4, 0x34, [], .part, .part, .none, (.hi .NUM_LEDGER_BASE_LO),
      [⟨15, 0, .rw, 0x0, .full⟩]⟩
  | .NUM_LEDGER_CTRL => ⟨4, 0x38, [], .part, .part, .none, .single,
      [⟨3, 0, .rw, 0x6, (.num 6 14 1)⟩, ⟨4, 4, .rw, 0x0, .full⟩, ⟨31, 16, .ro, 0x0, .full⟩]⟩
  | .NUM_ZRUN_CFG => ⟨4, 0x3c, [], .part, .part, .none, .single,
      [⟨15, 0, .rw, 0x40, (.num 1 65535 1)⟩, ⟨25, 16, .rw, 0x3e7, (.num 1 1000 1)⟩, ⟨26, 26, .rw, 0x1, .full⟩, ⟨27, 27, .rw, 0x1, .full⟩]⟩
  | .NUM_DEMOTE_CFG => ⟨4, 0x40, [], .part, .part, .none, .single,
      [⟨15, 0, .rw, 0x7d0, (.num 1 65535 1)⟩, ⟨16, 16, .rw, 0x0, .full⟩]⟩
  | .NUM_COMMITTED_STEP => ⟨4, 0x44, [], .part, .part, .none, .single,
      [⟨31, 0, .ro, 0xffffffff, .full⟩]⟩
  | .NUM_LEDGER_STATUS => ⟨4, 0x48, [], .part, .part, .none, .single,
      [⟨0, 0, .sq, 0x0, .full⟩, ⟨1, 1, .sq, 0x0, .full⟩, ⟨2, 2, .sq, 0x0, .full⟩, ⟨3, 3, .sq, 0x0, .full⟩, ⟨4, 4, .sq, 0x0, .full⟩, ⟨15, 8, .sq, 0x0, .full⟩, ⟨23, 16, .sq, 0x0, .full⟩, ⟨31, 24, .sq, 0x0, .full⟩]⟩
  | .VEC_Vn_STATE => ⟨5, 0x1000, [(0x40, 8)], .shown, .cold, .array, .single,
      [⟨0, 0, .ro, 0x0, .full⟩, ⟨1, 1, .ro, 0x0, .full⟩, ⟨2, 2, .ro, 0x0, .full⟩, ⟨13, 8, .ro, 0x0, .full⟩, ⟨27, 16, .ro, 0x0, .full⟩]⟩
  | .VEC_Vn_STATUS => ⟨5, 0x1004, [(0x40, 8)], .shown, .part, .array, .single,
      [⟨0, 0, .sq, 0x0, .full⟩, ⟨1, 1, .sq, 0x0, .full⟩, ⟨2, 2, .sq, 0x0, .full⟩, ⟨15, 8, .sq, 0x0, .full⟩, ⟨31, 24, .sq, 0x0, .full⟩]⟩
  | .VEC_Vn_FAULT => ⟨5, 0x1008, [(0x40, 8)], .shown, .part, .array, .single,
      [⟨11, 0, .ro, 0x0, .full⟩, ⟨21, 12, .ro, 0x0, .full⟩, ⟨23, 22, .ro, 0x0, .full⟩]⟩
  | .VEC_Vn_INSTR_LO => ⟨5, 0x1010, [(0x40, 8)], .shown, .part, .array, (.lo .VEC_Vn_INSTR_HI),
      [⟨31, 0, .ro, 0x0, .full⟩]⟩
  | .VEC_Vn_INSTR_HI => ⟨5, 0x1014, [(0x40, 8)], .shown, .part, .array, (.hi .VEC_Vn_INSTR_LO),
      [⟨31, 0, .lh, 0x0, .full⟩]⟩
  | .RDU_Vn_STATUS => ⟨6, 0x1000, [(0x40, 8)], .shown, .part, .array, .single,
      [⟨0, 0, .sq, 0x0, .full⟩, ⟨15, 8, .sq, 0x0, .full⟩, ⟨31, 24, .sq, 0x0, .full⟩]⟩
  | .LNK_CFG => ⟨13, 0x80000, [], .glob, .cold, .none, .single,
      [⟨7, 0, .rw, 0x14, (.num 1 255 1)⟩, ⟨11, 8, .rw, 0x8, (.num 1 15 1)⟩, ⟨23, 16, .rw, 0x14, (.num 1 100 1)⟩, ⟨31, 24, .rw, 0xa, (.num 1 255 1)⟩]⟩
  | .LNK_FAIL_CMD => ⟨13, 0x80004, [], .glob, .cold, .none, .single,
      [⟨7, 0, .rw, 0x0, (.enum [0, 5])⟩]⟩
  | .LNK_Pp_CTRL => ⟨13, 0x1000, [(0x80, 10)], .shown, .cold, .port, .single,
      [⟨0, 0, .rw, 0x0, .full⟩, ⟨2, 1, .rw, 0x3, (.num 1 3 1)⟩, ⟨3, 3, .wo, 0x0, .full⟩, ⟨15, 8, .rw, 0xff, .full⟩, ⟨19, 16, .rw, 0x4, (.num 3 8 1)⟩]⟩
  | .LNK_Pp_STATE => ⟨13, 0x1004, [(0x80, 10)], .shown, .cold, .port, .single,
      [⟨3, 0, .ro, 0x0, .full⟩, ⟨5, 4, .ro, 0x0, .full⟩, ⟨9, 6, .ro, 0x0, .full⟩, ⟨17, 10, .ro, 0x0, .full⟩, ⟨31, 18, .ro, 0x0, .full⟩]⟩
  | .LNK_Pp_STATUS => ⟨13, 0x1008, [(0x80, 10)], .shown, .cold, .port, .single,
      [⟨0, 0, .sq, 0x0, .full⟩, ⟨1, 1, .sq, 0x0, .full⟩, ⟨2, 2, .sq, 0x0, .full⟩, ⟨3, 3, .sq, 0x0, .full⟩, ⟨4, 4, .sq, 0x0, .full⟩, ⟨5, 5, .sq, 0x0, .full⟩, ⟨15, 8, .sq, 0x0, .full⟩, ⟨23, 16, .sq, 0x0, .full⟩, ⟨31, 24, .sq, 0x0, .full⟩]⟩
  | .LNK_Pp_FEC_LO => ⟨13, 0x1010, [(0x80, 10)], .shown, .cold, .port, (.lo .LNK_Pp_FEC_HI),
      [⟨31, 0, .ro, 0x0, .full⟩]⟩
  | .LNK_Pp_FEC_HI => ⟨13, 0x1014, [(0x80, 10)], .shown, .cold, .port, (.hi .LNK_Pp_FEC_LO),
      [⟨31, 0, .lh, 0x0, .full⟩]⟩
  | .LNK_Pp_ERR => ⟨13, 0x1018, [(0x80, 10)], .shown, .cold, .port, .single,
      [⟨15, 0, .ro, 0x0, .full⟩, ⟨31, 16, .ro, 0x0, .full⟩]⟩
  | .LNK_Pp_PEER_LO => ⟨13, 0x1020, [(0x80, 10)], .shown, .cold, .port, (.lo .LNK_Pp_PEER_HI),
      [⟨31, 0, .ro, 0x0, .full⟩]⟩
  | .LNK_Pp_PEER_HI => ⟨13, 0x1024, [(0x80, 10)], .shown, .cold, .port, (.hi .LNK_Pp_PEER_LO),
      [⟨31, 0, .lh, 0x0, .full⟩]⟩
  | .LNK_Pp_PEER_ID => ⟨13, 0x1028, [(0x80, 10)], .shown, .cold, .port, .single,
      [⟨7, 0, .ro, 0x0, .full⟩, ⟨15, 8, .ro, 0x0, .full⟩, ⟨21, 16, .ro, 0x0, .full⟩, ⟨25, 22, .ro, 0x0, .full⟩, ⟨27, 26, .ro, 0x0, .full⟩]⟩
  | .LNK_Pp_LANEl => ⟨13, 0x1040, [(0x80, 10), (0x4, 8)], .shown, .cold, .port, .single,
      [⟨1, 0, .ro, 0x0, .full⟩, ⟨15, 8, .ro, 0x0, .full⟩, ⟨31, 16, .ro, 0x0, .full⟩]⟩
  | .LNK_Pp_VCv => ⟨13, 0x4000, [(0x80, 10), (0x4, 32)], .shown, .cold, .port, .single,
      [⟨10, 0, .rw, 0x0, (.num 0 1024 1)⟩, ⟨26, 16, .ro, 0x0, .full⟩]⟩
  | .EUT_Ek_CFG => ⟨14, 0x1000, [(0x40, 4)], .shown, .cold, .eport, .single,
      [⟨1, 0, .ro, 0x0, .full⟩, ⟨2, 2, .ro, 0x0, .full⟩]⟩
  | .EUT_Ek_ADAPTER => ⟨14, 0x1004, [(0x40, 4)], .shown, .cold, .eport, .single,
      [⟨12, 0, .ro, 0x0, .full⟩, ⟨13, 13, .ro, 0x0, .full⟩, ⟨14, 14, .ro, 0x0, .full⟩, ⟨31, 16, .ro, 0x0, .full⟩]⟩
  | .EUT_Ek_STATUS => ⟨14, 0x1008, [(0x40, 4)], .shown, .part, .eport, .single,
      [⟨0, 0, .sq, 0x0, .full⟩, ⟨1, 1, .sq, 0x0, .full⟩, ⟨2, 2, .sq, 0x0, .full⟩, ⟨3, 3, .sq, 0x0, .full⟩, ⟨15, 8, .sq, 0x0, .full⟩, ⟨23, 16, .sq, 0x0, .full⟩, ⟨31, 24, .sq, 0x0, .full⟩]⟩
  | .EUT_NOTE_CFG => ⟨14, 0x10, [], .part, .part, .none, .single,
      [⟨0, 0, .rw, 0x0, .full⟩, ⟨2, 1, .rw, 0x2, .full⟩]⟩
  | .EUT_NOTE_SEQ => ⟨14, 0x14, [], .part, .part, .none, .single,
      [⟨31, 0, .ro, 0x0, .full⟩]⟩
  | .EUT_PART_RESET => ⟨14, 0x80000, [], .glob, .cold, .none, .single,
      [⟨1, 0, .wo, 0x0, .full⟩, ⟨2, 2, .wo, 0x0, .full⟩, ⟨3, 3, .ro, 0x0, .full⟩]⟩
  | .PER_TOPO => ⟨15, 0x10, [], .glob, .cold, .none, .single,
      [⟨6, 0, .ro, 0x1, .full⟩, ⟨13, 7, .ro, 0x1, .full⟩, ⟨20, 14, .ro, 0x1, .full⟩]⟩
  | .PER_LTOPO => ⟨15, 0x14, [], .glob, .cold, .none, .single,
      [⟨6, 0, .ro, 0x1, .full⟩, ⟨13, 7, .ro, 0x1, .full⟩, ⟨20, 14, .ro, 0x1, .full⟩]⟩
  | .PER_COORD => ⟨15, 0x18, [], .glob, .cold, .none, .single,
      [⟨5, 0, .ro, 0x0, .full⟩, ⟨11, 6, .ro, 0x0, .full⟩, ⟨17, 12, .ro, 0x0, .full⟩, ⟨18, 18, .ro, 0x0, .full⟩]⟩
  | .PER_LCOORD => ⟨15, 0x1c, [], .glob, .cold, .none, .single,
      [⟨5, 0, .ro, 0x0, .full⟩, ⟨11, 6, .ro, 0x0, .full⟩, ⟨17, 12, .ro, 0x0, .full⟩, ⟨18, 18, .ro, 0x0, .full⟩]⟩
  | .PER_STATUS => ⟨15, 0x20, [], .glob, .cold, .none, .single,
      [⟨0, 0, .sq, 0x0, .full⟩, ⟨1, 1, .sq, 0x0, .full⟩, ⟨2, 2, .sq, 0x0, .full⟩, ⟨3, 3, .sq, 0x0, .full⟩, ⟨15, 8, .sq, 0x0, .full⟩, ⟨23, 16, .sq, 0x0, .full⟩, ⟨31, 24, .sq, 0x0, .full⟩]⟩
  | .PER_FWD_LO => ⟨15, 0x28, [], .glob, .cold, .none, (.lo .PER_FWD_HI),
      [⟨31, 0, .ro, 0x0, .full⟩]⟩
  | .PER_FWD_HI => ⟨15, 0x2c, [], .glob, .cold, .none, (.hi .PER_FWD_LO),
      [⟨31, 0, .lh, 0x0, .full⟩]⟩
  | .PER_REMAPi_L => ⟨15, 0x1000, [(0x8, 64)], .glob, .cold, .none, .single,
      [⟨17, 0, .rw, 0x0, .full⟩, ⟨31, 31, .rw, 0x0, .full⟩]⟩
  | .PER_REMAPi_P => ⟨15, 0x1004, [(0x8, 64)], .glob, .cold, .none, .single,
      [⟨17, 0, .rw, 0x0, .full⟩]⟩
  | .PER_DEADi => ⟨15, 0x1200, [(0x4, 64)], .glob, .cold, .none, .single,
      [⟨17, 0, .rw, 0x0, .full⟩, ⟨30, 30, .ro, 0x0, .full⟩, ⟨31, 31, .rw, 0x0, .full⟩]⟩
  | .PER_GRPg_X => ⟨15, 0x2000, [(0x20, 64)], .shown, .cold, .group, .single,
      [⟨5, 0, .rwv, 0x0, .full⟩, ⟨11, 6, .rwv, 0x1, (.num 1 63 1)⟩, ⟨18, 12, .rwv, 0x1, (.num 1 64 1)⟩]⟩
  | .PER_GRPg_Y => ⟨15, 0x2004, [(0x20, 64)], .shown, .cold, .group, .single,
      [⟨5, 0, .rwv, 0x0, .full⟩, ⟨11, 6, .rwv, 0x1, (.num 1 63 1)⟩, ⟨18, 12, .rwv, 0x1, (.num 1 64 1)⟩]⟩
  | .PER_GRPg_Z => ⟨15, 0x2008, [(0x20, 64)], .shown, .cold, .group, .single,
      [⟨5, 0, .rwv, 0x0, .full⟩, ⟨11, 6, .rwv, 0x1, (.num 1 63 1)⟩, ⟨18, 12, .rwv, 0x1, (.num 1 64 1)⟩]⟩
  | .PER_GRPg_CTRL => ⟨15, 0x200c, [(0x20, 64)], .shown, .cold, .group, .single,
      [⟨0, 0, .rwv, 0x0, .full⟩, ⟨4, 1, .rwv, 0x0, (.num 0 13 1)⟩, ⟨6, 5, .rwv, 0x0, .full⟩, ⟨7, 7, .ro, 0x0, .full⟩, ⟨23, 8, .ro, 0x0, .full⟩]⟩
  | .PER_GRPg_EPOCH => ⟨15, 0x2010, [(0x20, 64)], .shown, .cold, .group, .single,
      [⟨31, 0, .ro, 0x0, .full⟩]⟩
  | .PER_GRPg_DISC => ⟨15, 0x2014, [(0x20, 64)], .shown, .cold, .group, .single,
      [⟨15, 0, .ro, 0x0, .full⟩, ⟨31, 16, .ro, 0x0, .full⟩]⟩
  | .COL_CFG => ⟨16, 0x80000, [], .glob, .cold, .none, .single,
      [⟨15, 0, .rwv, 0x1f4, (.num 1 60000 1)⟩, ⟨19, 16, .rw, 0x3, (.num 1 15 1)⟩]⟩
  | .COL_GRPg_CFG => ⟨16, 0x1000, [(0x40, 64)], .shown, .cold, .group, .single,
      [⟨6, 0, .rw, 0x4, (.num 1 64 1)⟩, ⟨23, 8, .rw, 0x64, (.num 1 65535 1)⟩]⟩
  | .COL_GRPg_STATE => ⟨16, 0x1004, [(0x40, 64)], .shown, .cold, .group, .single,
      [⟨1, 0, .ro, 0x1, .full⟩, ⟨4, 2, .ro, 0x0, .full⟩, ⟨5, 5, .ro, 0x0, .full⟩, ⟨31, 16, .ro, 0x0, .full⟩]⟩
  | .COL_GRPg_CSTEP => ⟨16, 0x1008, [(0x40, 64)], .shown, .cold, .group, .single,
      [⟨31, 0, .ro, 0xffffffff, .full⟩]⟩
  | .COL_GRPg_SHARD_FIRST => ⟨16, 0x100c, [(0x40, 64)], .shown, .cold, .group, .single,
      [⟨31, 0, .ro, 0x0, .full⟩]⟩
  | .COL_GRPg_SHARD_COUNT => ⟨16, 0x1010, [(0x40, 64)], .shown, .cold, .group, .single,
      [⟨31, 0, .ro, 0x0, .full⟩]⟩
  | .COL_GRPg_STATUS => ⟨16, 0x1014, [(0x40, 64)], .shown, .cold, .group, .single,
      [⟨0, 0, .sq, 0x0, .full⟩, ⟨1, 1, .sq, 0x0, .full⟩, ⟨2, 2, .sq, 0x0, .full⟩, ⟨3, 3, .sq, 0x0, .full⟩, ⟨4, 4, .sq, 0x0, .full⟩, ⟨5, 5, .sq, 0x0, .full⟩, ⟨6, 6, .sq, 0x0, .full⟩, ⟨15, 8, .sq, 0x0, .full⟩, ⟨23, 16, .sq, 0x0, .full⟩, ⟨31, 24, .sq, 0x0, .full⟩]⟩
  | .RCV_CFG => ⟨17, 0x10, [], .part, .part, .none, .single,
      [⟨15, 0, .rw, 0x3e8, (.num 10 60000 1)⟩, ⟨16, 16, .rw, 0x0, .full⟩]⟩
  | .RCV_LAYER_CFG => ⟨17, 0x14, [], .part, .part, .none, .single,
      [⟨15, 0, .rw, 0x64, .full⟩, ⟨31, 16, .rw, 0x7d0, .full⟩]⟩
  | .RCV_PARTNER => ⟨17, 0x18, [], .part, .part, .none, .single,
      [⟨17, 0, .rw, 0x0, .full⟩, ⟨18, 18, .rw, 0x0, .full⟩, ⟨19, 19, .ro, 0x0, .full⟩, ⟨20, 20, .ro, 0x0, .full⟩]⟩
  | .RCV_WARD => ⟨17, 0x1c, [], .part, .part, .none, .single,
      [⟨17, 0, .rw, 0x0, .full⟩, ⟨18, 18, .rw, 0x0, .full⟩, ⟨19, 19, .ro, 0x0, .full⟩, ⟨20, 20, .ro, 0x0, .full⟩]⟩
  | .RCV_DOMAIN_LO => ⟨17, 0x20, [], .part, .part, .none, (.lo .RCV_DOMAIN_HI),
      [⟨31, 0, .rw, 0x0, .full⟩]⟩
  | .RCV_DOMAIN_HI => ⟨17, 0x24, [], .part, .part, .none, (.hi .RCV_DOMAIN_LO),
      [⟨31, 0, .rw, 0x0, .full⟩]⟩
  | .RCV_GO => ⟨17, 0x28, [], .part, .part, .none, .single,
      [⟨31, 0, .wo, 0x0, .full⟩]⟩
  | .RCV_STATE => ⟨17, 0x2c, [], .part, .part, .none, .single,
      [⟨2, 0, .ro, 0x0, .full⟩, ⟨5, 3, .ro, 0x0, .full⟩, ⟨6, 6, .ro, 0x0, .full⟩, ⟨7, 7, .ro, 0x0, .full⟩, ⟨8, 8, .ro, 0x0, .full⟩]⟩
  | .RCV_RSTEP => ⟨17, 0x30, [], .part, .part, .none, .single,
      [⟨31, 0, .ro, 0xffffffff, .full⟩]⟩
  | .RCV_STATUS => ⟨17, 0x34, [], .part, .part, .none, .single,
      [⟨0, 0, .sq, 0x0, .full⟩, ⟨1, 1, .sq, 0x0, .full⟩, ⟨2, 2, .sq, 0x0, .full⟩, ⟨3, 3, .sq, 0x0, .full⟩, ⟨4, 4, .sq, 0x0, .full⟩, ⟨5, 5, .sq, 0x0, .full⟩, ⟨15, 8, .sq, 0x0, .full⟩, ⟨31, 24, .sq, 0x0, .full⟩]⟩
  | .RCV_GRPg_UPD => ⟨17, 0x1000, [(0x20, 64)], .part, .part, .group, .single,
      [⟨31, 0, .ro, 0xffffffff, .full⟩]⟩
  | .RCV_GRPg_PROT => ⟨17, 0x1004, [(0x20, 64)], .part, .part, .group, .single,
      [⟨31, 0, .ro, 0xffffffff, .full⟩]⟩
  | .RCV_GRPg_W => ⟨17, 0x1008, [(0x20, 64)], .part, .part, .group, .single,
      [⟨31, 0, .ro, 0xffffffff, .full⟩]⟩
  | .RCV_GRPg_FLASH => ⟨17, 0x100c, [(0x20, 64)], .part, .part, .group, .single,
      [⟨31, 0, .ro, 0xffffffff, .full⟩]⟩
  | .RCV_GRPg_STORE => ⟨17, 0x1010, [(0x20, 64)], .part, .part, .group, .single,
      [⟨31, 0, .ro, 0xffffffff, .full⟩]⟩
  | .PWR_CAP => ⟨18, 0x80000, [], .glob, .cold, .none, .single,
      [⟨10, 0, .rwv, 0x5dc, (.num 600 1500 1)⟩, ⟨26, 16, .ro, 0x5dc, .full⟩]⟩
  | .PWR_CFG => ⟨18, 0x80004, [], .glob, .cold, .none, .single,
      [⟨3, 0, .rwv, 0xf, .full⟩, ⟨7, 4, .rwv, 0x0, .full⟩, ⟨11, 8, .rwv, 0xa, .full⟩, ⟨15, 12, .rwv, 0x4, (.num 0 10 1)⟩, ⟨22, 16, .rw, 0x28, (.num 20 100 1)⟩, ⟨23, 23, .rw, 0x1, .full⟩]⟩
  | .PWR_COOLANT => ⟨18, 0x80008, [], .glob, .cold, .none, .single,
      [⟨9, 0, .rw, 0x0, .full⟩, ⟨19, 10, .rw, 0x0, .full⟩]⟩
  | .PWR_STATUS => ⟨18, 0x80010, [], .glob, .cold, .none, .single,
      [⟨0, 0, .sq, 0x0, .full⟩, ⟨1, 1, .sq, 0x0, .full⟩, ⟨2, 2, .sq, 0x0, .full⟩, ⟨3, 3, .sq, 0x0, .full⟩, ⟨4, 4, .sq, 0x0, .full⟩, ⟨5, 5, .sq, 0x0, .full⟩, ⟨6, 6, .sq, 0x0, .full⟩, ⟨7, 7, .sq, 0x0, .full⟩, ⟨15, 8, .sq, 0x0, .full⟩, ⟨31, 24, .sq, 0x0, .full⟩]⟩
  | .PWR_SYS_E_LO => ⟨18, 0x80020, [], .glob, .cold, .none, (.lo .PWR_SYS_E_HI),
      [⟨31, 0, .ro, 0x0, .full⟩]⟩
  | .PWR_SYS_E_HI => ⟨18, 0x80024, [], .glob, .cold, .none, (.hi .PWR_SYS_E_LO),
      [⟨31, 0, .lh, 0x0, .full⟩]⟩
  | .PWR_RAILr => ⟨18, 0x100, [(0x4, 9)], .shown, .cold, .rail, .single,
      [⟨3, 0, .ro, 0x0, .full⟩, ⟨7, 4, .ro, 0x0, .full⟩, ⟨31, 16, .ro, 0x0, .full⟩]⟩
  | .PWR_SPLIT => ⟨18, 0x12c, [], .glob, .cold, .none, .single,
      [⟨10, 0, .ro, 0x0, .full⟩, ⟨20, 11, .ro, 0x0, .full⟩, ⟨31, 21, .ro, 0x0, .full⟩]⟩
  | .PWR_EPOCH => ⟨18, 0x124, [], .glob, .cold, .none, .single,
      [⟨31, 0, .ro, 0x0, .full⟩]⟩
  | .PWR_THERM_STATE => ⟨18, 0x128, [], .shown, .cold, .none, .single,
      [⟨15, 0, .ro, 0x0, .full⟩]⟩
  | .PWR_ALLOW => ⟨18, 0x10, [], .part, .cold, .none, .single,
      [⟨10, 0, .rw, 0x0, (.num 0 1500 1)⟩, ⟨26, 11, .rw, 0x3e8, (.num 1 65535 1)⟩]⟩
  | .PWR_BAL => ⟨18, 0x14, [], .part, .part, .none, .single,
      [⟨31, 0, .ro, 0x0, .full⟩]⟩
  | .PWR_SHORT => ⟨18, 0x18, [], .part, .part, .none, .single,
      [⟨31, 0, .ro, 0x0, .full⟩]⟩
  | .PWR_E_LO => ⟨18, 0x20, [], .part, .part, .none, (.lo .PWR_E_HI),
      [⟨31, 0, .ro, 0x0, .full⟩]⟩
  | .PWR_E_HI => ⟨18, 0x24, [], .part, .part, .none, (.hi .PWR_E_LO),
      [⟨31, 0, .lh, 0x0, .full⟩]⟩
  | .PWR_Qn_E_LO => ⟨18, 0x1000, [(0x8, 64)], .part, .part, .none, (.lo .PWR_Qn_E_HI),
      [⟨31, 0, .ro, 0x0, .full⟩]⟩
  | .PWR_Qn_E_HI => ⟨18, 0x1004, [(0x8, 64)], .part, .part, .none, (.hi .PWR_Qn_E_LO),
      [⟨31, 0, .lh, 0x0, .full⟩]⟩
  | .NOC_MAP_An_F => ⟨22, 0x1000, [(0x10, 8)], .shown, .cold, .array, .single,
      [⟨3, 0, .ro, 0x0, .full⟩, ⟨4, 4, .ro, 0x0, .full⟩, ⟨31, 16, .ro, 0x0, .full⟩]⟩
  | .NOC_MAP_An_R => ⟨22, 0x1004, [(0x10, 8)], .shown, .cold, .array, .single,
      [⟨1, 0, .ro, 0x0, .full⟩, ⟨2, 2, .ro, 0x0, .full⟩, ⟨3, 3, .ro, 0x0, .full⟩, ⟨4, 4, .ro, 0x0, .full⟩, ⟨9, 5, .ro, 0x0, .full⟩, ⟨10, 10, .ro, 0x0, .full⟩]⟩
  | .SEC_STAGE_ADDR_LO => ⟨19, 0x10, [], .glob, .warm, .none, (.lo .SEC_STAGE_ADDR_HI),
      [⟨31, 0, .rw, 0x0, .full⟩]⟩
  | .SEC_STAGE_ADDR_HI => ⟨19, 0x14, [], .glob, .warm, .none, (.hi .SEC_STAGE_ADDR_LO),
      [⟨15, 0, .rw, 0x0, .full⟩]⟩
  | .SEC_STAGE_CTRL => ⟨19, 0x18, [], .glob, .warm, .none, .single,
      [⟨3, 0, .rw, 0x0, (.enum [0, 1, 2, 3, 4, 5, 8, 9])⟩, ⟨7, 4, .rw, 0x0, .full⟩, ⟨8, 8, .wo, 0x0, .full⟩, ⟨9, 9, .ro, 0x0, .full⟩]⟩
  | .SEC_STAGE_LEN => ⟨19, 0x1c, [], .glob, .warm, .none, .single,
      [⟨22, 0, .rw, 0x0, (.num 1 4194304 1)⟩]⟩
  | .SEC_FWc => ⟨19, 0x100, [(0x4, 6)], .shown, .cold, .none, .single,
      [⟨0, 0, .ro, 0x0, .full⟩, ⟨1, 1, .ro, 0x0, .full⟩, ⟨2, 2, .ro, 0x0, .full⟩, ⟨3, 3, .ro, 0x0, .full⟩, ⟨15, 8, .ro, 0x0, .full⟩, ⟨31, 16, .ro, 0x0, .full⟩]⟩
  | .SEC_SETTINGS => ⟨19, 0x120, [], .glob, .cold, .none, .single,
      [⟨15, 0, .ro, 0x0, .full⟩, ⟨16, 16, .wo, 0x0, .full⟩]⟩
  | .SEC_SVN_COMMIT => ⟨19, 0x124, [], .glob, .cold, .none, .single,
      [⟨5, 0, .wo, 0x0, .full⟩]⟩
  | .SEC_NONCEi => ⟨19, 0x200, [(0x4, 8)], .view, .part, .none, .single,
      [⟨31, 0, .rw, 0x0, .full⟩]⟩
  | .SEC_ATTEST_CTRL => ⟨19, 0x220, [], .view, .part, .none, .single,
      [⟨0, 0, .wo, 0x0, .full⟩, ⟨1, 1, .ro, 0x0, .full⟩, ⟨31, 16, .ro, 0x0, .full⟩]⟩
  | .EVR_CFG => ⟨20, 0x80000, [], .glob, .cold, .none, .single,
      [⟨7, 0, .rw, 0xa, (.num 1 100 1)⟩]⟩
  | .EVR_STATUS => ⟨20, 0x10, [], .shown, .cold, .none, .single,
      [⟨0, 0, .sq, 0x0, .full⟩, ⟨1, 1, .sq, 0x0, .full⟩, ⟨23, 8, .sq, 0x0, .full⟩, ⟨31, 24, .sq, 0x0, .full⟩]⟩
  | .EVR_NEXT_LO => ⟨20, 0x18, [], .shown, .cold, .none, (.lo .EVR_NEXT_HI),
      [⟨31, 0, .ro, 0x0, .full⟩]⟩
  | .EVR_NEXT_HI => ⟨20, 0x1c, [], .shown, .cold, .none, (.hi .EVR_NEXT_LO),
      [⟨31, 0, .lh, 0x0, .full⟩]⟩
  | .EVR_LOW_LO => ⟨20, 0x20, [], .shown, .cold, .none, (.lo .EVR_LOW_HI),
      [⟨31, 0, .ro, 0x0, .full⟩]⟩
  | .EVR_LOW_HI => ⟨20, 0x24, [], .shown, .cold, .none, (.hi .EVR_LOW_LO),
      [⟨31, 0, .lh, 0x0, .full⟩]⟩
  | .EVR_CUR_LO => ⟨20, 0x28, [], .view, .cold, .none, (.lo .EVR_CUR_HI),
      [⟨31, 0, .rw, 0x0, .full⟩]⟩
  | .EVR_CUR_HI => ⟨20, 0x2c, [], .view, .cold, .none, (.hi .EVR_CUR_LO),
      [⟨31, 0, .rw, 0x0, .full⟩]⟩
  | .EVR_RD_CTRL => ⟨20, 0x30, [], .view, .cold, .none, .single,
      [⟨0, 0, .wo, 0x0, .full⟩, ⟨1, 1, .ro, 0x0, .full⟩, ⟨2, 2, .ro, 0x0, .full⟩]⟩
  | .EVR_RD_DATAw => ⟨20, 0x40, [(0x4, 8)], .view, .cold, .none, .single,
      [⟨31, 0, .ro, 0x0, .full⟩]⟩
  | .EVR_ANCHOR_LO => ⟨20, 0x60, [], .part, .cold, .none, (.lo .EVR_ANCHOR_HI),
      [⟨31, 0, .rw, 0x0, .full⟩]⟩
  | .EVR_ANCHOR_HI => ⟨20, 0x64, [], .part, .cold, .none, (.hi .EVR_ANCHOR_LO),
      [⟨31, 0, .rw, 0x0, .full⟩]⟩
  | .EVR_CLEAR_LO => ⟨20, 0x80010, [], .glob, .cold, .none, (.lo .EVR_CLEAR_HI),
      [⟨31, 0, .rw, 0x0, .full⟩]⟩
  | .EVR_CLEAR_HI => ⟨20, 0x80014, [], .glob, .cold, .none, (.hi .EVR_CLEAR_LO),
      [⟨31, 0, .rw, 0x0, .full⟩]⟩
  | .EVR_CLEAR_CTRL => ⟨20, 0x80018, [], .glob, .cold, .none, .single,
      [⟨15, 0, .wo, 0x0, .full⟩, ⟨16, 16, .wo, 0x0, .full⟩]⟩
  | .CHK_Uu_CTRL => ⟨21, 0x1000, [(0x40, 4)], .glob, .cold, .none, .single,
      [⟨1, 0, .rw, 0x0, (.enum [0, 1, 2])⟩, ⟨3, 2, .rw, 0x0, (.enum [0, 1, 2])⟩, ⟨4, 4, .wo, 0x0, .full⟩, ⟨5, 5, .ro, 0x0, .full⟩, ⟨6, 6, .ro, 0x0, .full⟩]⟩
  | .CHK_Uu_RUN_LO => ⟨21, 0x1008, [(0x40, 4)], .glob, .cold, .none, (.lo .CHK_Uu_RUN_HI),
      [⟨31, 0, .rw, 0x0, .full⟩]⟩
  | .CHK_Uu_RUN_HI => ⟨21, 0x100c, [(0x40, 4)], .glob, .cold, .none, (.hi .CHK_Uu_RUN_LO),
      [⟨31, 0, .rw, 0x0, .full⟩]⟩
  | .CHK_Uu_SRC_LO => ⟨21, 0x1010, [(0x40, 4)], .glob, .cold, .none, (.lo .CHK_Uu_SRC_HI),
      [⟨31, 0, .rw, 0x0, .full⟩]⟩
  | .CHK_Uu_SRC_HI => ⟨21, 0x1014, [(0x40, 4)], .glob, .cold, .none, (.hi .CHK_Uu_SRC_LO),
      [⟨15, 0, .rw, 0x0, .full⟩]⟩
  | .CHK_Uu_DST_LO => ⟨21, 0x1018, [(0x40, 4)], .glob, .cold, .none, (.lo .CHK_Uu_DST_HI),
      [⟨31, 0, .rw, 0x0, .full⟩]⟩
  | .CHK_Uu_DST_HI => ⟨21, 0x101c, [(0x40, 4)], .glob, .cold, .none, (.hi .CHK_Uu_DST_LO),
      [⟨15, 0, .rw, 0x0, .full⟩]⟩
  | .CHK_Uu_LEN_LO => ⟨21, 0x1020, [(0x40, 4)], .glob, .cold, .none, (.lo .CHK_Uu_LEN_HI),
      [⟨31, 0, .rw, 0x0, .full⟩]⟩
  | .CHK_Uu_LEN_HI => ⟨21, 0x1024, [(0x40, 4)], .glob, .cold, .none, (.hi .CHK_Uu_LEN_LO),
      [⟨8, 0, .rw, 0x0, .full⟩]⟩
  | .CHK_Uu_STATUS => ⟨21, 0x1028, [(0x40, 4)], .glob, .cold, .none, .single,
      [⟨0, 0, .sq, 0x0, .full⟩, ⟨1, 1, .sq, 0x0, .full⟩, ⟨2, 2, .sq, 0x0, .full⟩, ⟨31, 24, .sq, 0x0, .full⟩]⟩

/-- Every template, in the order of the constructors. -/
def allRegs0 : List RegName :=
  [.BLK_ID, .BLK_ERR, .GLB_HSRATE_An, .GLB_HSRATE_SOC, .GLB_CLAMP_HEAD, .GLB_SERIAL_LO, .GLB_SERIAL_HI, .GLB_DEVICE, .GLB_FEATURES, .GLB_CONTRACT, .GLB_BOOT, .GLB_QUAL, .GLB_BOOT_CFG, .GLB_IMAGE_ID, .GLB_STRUCT_HEAD, .GLB_STRAPS, .GLB_BMC_CTRL, .CMD_STATUS, .CMD_Qn_BASE_LO, .CMD_Qn_BASE_HI, .CMD_Qn_CTRL, .CMD_Qn_TAIL, .CMD_Qn_HEAD, .CMD_Qn_STATUS, .CMD_Qn_FAIL, .CMD_Qn_WAIT_LIMIT, .CMD_LOCK_VAL_k, .CMD_LOCK_ADD_k, .CMD_LOCK_SET_k, .ING_CFG, .ING_POOL_W, .ING_POOL_E, .ING_PORTk_CNT, .ING_STRn_STATE, .ING_STRn_OCC, .ING_STRn_NEXT_LO, .ING_STRn_NEXT_HI, .ING_STRn_REL_LO, .ING_STRn_REL_HI, .ING_STRn_STATUS]
def allRegs1 : List RegName :=
  [.DEC_RATE_W, .DEC_RATE_E, .DEC_ENGm_STATE, .DEC_ENGm_STATUS, .DEC_ENGm_PIX_LO, .DEC_ENGm_PIX_HI, .SHF_POOLp_BASE_LO, .SHF_POOLp_BASE_HI, .SHF_POOLp_SHAPE, .SHF_POOLp_FMT, .SHF_POOLp_WIN, .SHF_POOLp_SPW, .SHF_POOLp_SEED, .SHF_POOLp_CTRL, .SHF_POOLp_NORMc, .SHF_POOLp_SIZE, .SHF_POOLp_STATUS, .TIER_CFG, .TIER_OBJT_BASE_LO, .TIER_OBJT_BASE_HI, .TIER_OBJT_CTRL, .TIER_OBJ_SYNC, .TIER_OBJ_QUERY, .TIER_OBJ_STATE, .TIER_LIMITS, .TIER_SPACE, .TIER_STATUS, .TIER_PARTNER, .HBM_STACKn_TEMP, .HBM_STACKn_CAP, .HBM_STACKn_RETIRED, .HBM_STACKn_STATUS, .HBM_THERM_CFG, .HBM_BG_CFG, .HBM_REGc_Sn, .HBM_RETIRE_IDX, .HBM_RETIRE_ADDR_LO, .HBM_RETIRE_ADDR_HI, .HBM_MARGIN_CTRL, .HBM_MARGIN_RESk]
def allRegs2 : List RegName :=
  [.ARR_CFG, .ARR_An_CUT, .ARR_An_STATUS, .ARR_An_SUSPECT, .ARR_An_USE_LO, .ARR_An_USE_HI, .ARR_An_TILES_LO, .ARR_An_TILES_HI, .ARR_An_LASTFAULTw, .NUM_SR_SEED_LO, .NUM_SR_SEED_HI, .NUM_ARITH_CFG, .NUM_SCALE_CFG, .NUM_ARITH_STATUS, .NUM_LEDGER_BASE_LO, .NUM_LEDGER_BASE_HI, .NUM_LEDGER_CTRL, .NUM_ZRUN_CFG, .NUM_DEMOTE_CFG, .NUM_COMMITTED_STEP, .NUM_LEDGER_STATUS, .VEC_Vn_STATE, .VEC_Vn_STATUS, .VEC_Vn_FAULT, .VEC_Vn_INSTR_LO, .VEC_Vn_INSTR_HI, .RDU_Vn_STATUS, .LNK_CFG, .LNK_FAIL_CMD, .LNK_Pp_CTRL, .LNK_Pp_STATE, .LNK_Pp_STATUS, .LNK_Pp_FEC_LO, .LNK_Pp_FEC_HI, .LNK_Pp_ERR, .LNK_Pp_PEER_LO, .LNK_Pp_PEER_HI, .LNK_Pp_PEER_ID, .LNK_Pp_LANEl, .LNK_Pp_VCv]
def allRegs3 : List RegName :=
  [.EUT_Ek_CFG, .EUT_Ek_ADAPTER, .EUT_Ek_STATUS, .EUT_NOTE_CFG, .EUT_NOTE_SEQ, .EUT_PART_RESET, .PER_TOPO, .PER_LTOPO, .PER_COORD, .PER_LCOORD, .PER_STATUS, .PER_FWD_LO, .PER_FWD_HI, .PER_REMAPi_L, .PER_REMAPi_P, .PER_DEADi, .PER_GRPg_X, .PER_GRPg_Y, .PER_GRPg_Z, .PER_GRPg_CTRL, .PER_GRPg_EPOCH, .PER_GRPg_DISC, .COL_CFG, .COL_GRPg_CFG, .COL_GRPg_STATE, .COL_GRPg_CSTEP, .COL_GRPg_SHARD_FIRST, .COL_GRPg_SHARD_COUNT, .COL_GRPg_STATUS, .RCV_CFG, .RCV_LAYER_CFG, .RCV_PARTNER, .RCV_WARD, .RCV_DOMAIN_LO, .RCV_DOMAIN_HI, .RCV_GO, .RCV_STATE, .RCV_RSTEP, .RCV_STATUS, .RCV_GRPg_UPD]
def allRegs4 : List RegName :=
  [.RCV_GRPg_PROT, .RCV_GRPg_W, .RCV_GRPg_FLASH, .RCV_GRPg_STORE, .PWR_CAP, .PWR_CFG, .PWR_COOLANT, .PWR_STATUS, .PWR_SYS_E_LO, .PWR_SYS_E_HI, .PWR_RAILr, .PWR_SPLIT, .PWR_EPOCH, .PWR_THERM_STATE, .PWR_ALLOW, .PWR_BAL, .PWR_SHORT, .PWR_E_LO, .PWR_E_HI, .PWR_Qn_E_LO, .PWR_Qn_E_HI, .NOC_MAP_An_F, .NOC_MAP_An_R, .SEC_STAGE_ADDR_LO, .SEC_STAGE_ADDR_HI, .SEC_STAGE_CTRL, .SEC_STAGE_LEN, .SEC_FWc, .SEC_SETTINGS, .SEC_SVN_COMMIT, .SEC_NONCEi, .SEC_ATTEST_CTRL, .EVR_CFG, .EVR_STATUS, .EVR_NEXT_LO, .EVR_NEXT_HI, .EVR_LOW_LO, .EVR_LOW_HI, .EVR_CUR_LO, .EVR_CUR_HI]
def allRegs5 : List RegName :=
  [.EVR_RD_CTRL, .EVR_RD_DATAw, .EVR_ANCHOR_LO, .EVR_ANCHOR_HI, .EVR_CLEAR_LO, .EVR_CLEAR_HI, .EVR_CLEAR_CTRL, .CHK_Uu_CTRL, .CHK_Uu_RUN_LO, .CHK_Uu_RUN_HI, .CHK_Uu_SRC_LO, .CHK_Uu_SRC_HI, .CHK_Uu_DST_LO, .CHK_Uu_DST_HI, .CHK_Uu_LEN_LO, .CHK_Uu_LEN_HI, .CHK_Uu_STATUS]
def allRegs : List RegName := allRegs0 ++ allRegs1 ++ allRegs2 ++ allRegs3 ++ allRegs4 ++ allRegs5

/-! The fields by name. -/
namespace Fld

def ERR_SEQ_MISS : Fld := ⟨.BLK_ERR, 0, 0⟩
def ERR_VOTE_FIX : Fld := ⟨.BLK_ERR, 1, 1⟩
def ERR_CLAMPED : Fld := ⟨.BLK_ERR, 2, 2⟩
def ERR_ACCESS_ERR : Fld := ⟨.BLK_ERR, 3, 3⟩
def ERR_VOTE_CNT : Fld := ⟨.BLK_ERR, 15, 8⟩
def ERR_CLAMP_CNT : Fld := ⟨.BLK_ERR, 23, 16⟩
def GLB_HSRATE_An_HS_MRATE : Fld := ⟨.GLB_HSRATE_An, 15, 0⟩
def GLB_HSRATE_An_VSTEP : Fld := ⟨.GLB_HSRATE_An, 19, 16⟩
def GLB_HSRATE_An_TJ : Fld := ⟨.GLB_HSRATE_An, 27, 20⟩
def GLB_HSRATE_SOC_HS_MRATE : Fld := ⟨.GLB_HSRATE_SOC, 15, 0⟩
def GLB_HSRATE_SOC_VSTEP : Fld := ⟨.GLB_HSRATE_SOC, 19, 16⟩
def GLB_HSRATE_SOC_TJ : Fld := ⟨.GLB_HSRATE_SOC, 27, 20⟩
def GLB_CLAMP_HEAD_COUNT : Fld := ⟨.GLB_CLAMP_HEAD, 15, 0⟩
def GLB_SERIAL_LO_SERIAL_LO : Fld := ⟨.GLB_SERIAL_LO, 31, 0⟩
def GLB_SERIAL_HI_SERIAL_HI : Fld := ⟨.GLB_SERIAL_HI, 31, 0⟩
def GLB_DEVICE_PART : Fld := ⟨.GLB_DEVICE, 15, 0⟩
def GLB_DEVICE_STEPPING : Fld := ⟨.GLB_DEVICE, 19, 16⟩
def GLB_DEVICE_FAMILY : Fld := ⟨.GLB_DEVICE, 31, 24⟩
def GLB_FEATURES_VARIANT : Fld := ⟨.GLB_FEATURES, 1, 0⟩
def GLB_FEATURES_VIDEO : Fld := ⟨.GLB_FEATURES, 2, 2⟩
def GLB_FEATURES_FOUR_PART : Fld := ⟨.GLB_FEATURES, 3, 3⟩
def GLB_FEATURES_REF : Fld := ⟨.GLB_FEATURES, 4, 4⟩
def GLB_FEATURES_PARTITIONS : Fld := ⟨.GLB_FEATURES, 11, 8⟩
def GLB_FEATURES_PEER_PORTS : Fld := ⟨.GLB_FEATURES, 14, 12⟩
def GLB_CONTRACT_LEVEL : Fld := ⟨.GLB_CONTRACT, 7, 0⟩
def GLB_CONTRACT_REVISION : Fld := ⟨.GLB_CONTRACT, 15, 8⟩
def GLB_CONTRACT_QUEUES : Fld := ⟨.GLB_CONTRACT, 23, 16⟩
def GLB_CONTRACT_MAX_RANK : Fld := ⟨.GLB_CONTRACT, 27, 24⟩
def GLB_BOOT_STATE : Fld := ⟨.GLB_BOOT, 3, 0⟩
def GLB_BOOT_FAST : Fld := ⟨.GLB_BOOT, 4, 4⟩
def GLB_BOOT_IMAGE : Fld := ⟨.GLB_BOOT, 5, 5⟩
def GLB_BOOT_HOLD_CAUSE : Fld := ⟨.GLB_BOOT, 8, 6⟩
def GLB_BOOT_BOOT_COUNT : Fld := ⟨.GLB_BOOT, 31, 16⟩
def GLB_QUAL_QUAL_BOOT : Fld := ⟨.GLB_QUAL, 15, 0⟩
def GLB_QUAL_BOOTS_SINCE : Fld := ⟨.GLB_QUAL, 23, 16⟩
def GLB_QUAL_RECORD_VALID : Fld := ⟨.GLB_QUAL, 24, 24⟩
def GLB_QUAL_NEW_ERR : Fld := ⟨.GLB_QUAL, 25, 25⟩
def GLB_BOOT_CFG_FORCE_FULL : Fld := ⟨.GLB_BOOT_CFG, 0, 0⟩
def GLB_BOOT_CFG_LINK_WAIT_S : Fld := ⟨.GLB_BOOT_CFG, 15, 8⟩
def GLB_IMAGE_ID_IMAGE_ID : Fld := ⟨.GLB_IMAGE_ID, 31, 0⟩
def GLB_STRUCT_HEAD_COUNT : Fld := ⟨.GLB_STRUCT_HEAD, 15, 0⟩
def GLB_STRAPS_FEED_ID : Fld := ⟨.GLB_STRAPS, 3, 0⟩
def GLB_STRAPS_SLOT_ID : Fld := ⟨.GLB_STRAPS, 9, 4⟩
def GLB_BMC_CTRL_WARM_RESET : Fld := ⟨.GLB_BMC_CTRL, 0, 0⟩
def GLB_BMC_CTRL_KEY : Fld := ⟨.GLB_BMC_CTRL, 15, 8⟩
def CMD_STATUS_LOCK_SAT : Fld := ⟨.CMD_STATUS, 0, 0⟩
def CMD_STATUS_SEQ : Fld := ⟨.CMD_STATUS, 31, 24⟩
def CMD_Qn_BASE_LO_BASE_LO : Fld := ⟨.CMD_Qn_BASE_LO, 31, 12⟩
def CMD_Qn_BASE_HI_BASE_HI : Fld := ⟨.CMD_Qn_BASE_HI, 15, 0⟩
def CMD_Qn_CTRL_ENABLE : Fld := ⟨.CMD_Qn_CTRL, 0, 0⟩
def CMD_Qn_CTRL_STOP : Fld := ⟨.CMD_Qn_CTRL, 1, 1⟩
def CMD_Qn_CTRL_ABORT : Fld := ⟨.CMD_Qn_CTRL, 2, 2⟩
def CMD_Qn_CTRL_HALT_ON_ERR : Fld := ⟨.CMD_Qn_CTRL, 3, 3⟩
def CMD_Qn_CTRL_LOG2_SLOTS : Fld := ⟨.CMD_Qn_CTRL, 8, 4⟩
def CMD_Qn_CTRL_PRIORITY : Fld := ⟨.CMD_Qn_CTRL, 10, 9⟩
def CMD_Qn_CTRL_ARRAY_MASK : Fld := ⟨.CMD_Qn_CTRL, 23, 16⟩
def CMD_Qn_CTRL_NOTIFY_EN : Fld := ⟨.CMD_Qn_CTRL, 24, 24⟩
def CMD_Qn_TAIL_TAIL : Fld := ⟨.CMD_Qn_TAIL, 31, 0⟩
def CMD_Qn_HEAD_HEAD : Fld := ⟨.CMD_Qn_HEAD, 31, 0⟩
def CMD_Qn_STATUS_CMD_FAILED : Fld := ⟨.CMD_Qn_STATUS, 0, 0⟩
def CMD_Qn_STATUS_BAD_TAIL : Fld := ⟨.CMD_Qn_STATUS, 1, 1⟩
def CMD_Qn_STATUS_STOPPED : Fld := ⟨.CMD_Qn_STATUS, 2, 2⟩
def CMD_Qn_STATUS_ABORTED : Fld := ⟨.CMD_Qn_STATUS, 3, 3⟩
def CMD_Qn_STATUS_FAIL_CNT : Fld := ⟨.CMD_Qn_STATUS, 15, 8⟩
def CMD_Qn_STATUS_SEQ : Fld := ⟨.CMD_Qn_STATUS, 31, 24⟩
def CMD_Qn_FAIL_CODE : Fld := ⟨.CMD_Qn_FAIL, 15, 0⟩
def CMD_Qn_FAIL_SLOT : Fld := ⟨.CMD_Qn_FAIL, 31, 16⟩
def CMD_Qn_WAIT_LIMIT_LIMIT_MS : Fld := ⟨.CMD_Qn_WAIT_LIMIT, 15, 0⟩
def CMD_LOCK_VAL_k_VALUE : Fld := ⟨.CMD_LOCK_VAL_k, 31, 0⟩
def CMD_LOCK_ADD_k_VALUE : Fld := ⟨.CMD_LOCK_ADD_k, 31, 0⟩
def CMD_LOCK_SET_k_VALUE : Fld := ⟨.CMD_LOCK_SET_k, 31, 0⟩
def ING_CFG_HALT_ACK_MS : Fld := ⟨.ING_CFG, 15, 0⟩
def ING_POOL_W_SHARED_KIB : Fld := ⟨.ING_POOL_W, 15, 0⟩
def ING_POOL_W_RESERVE_KIB : Fld := ⟨.ING_POOL_W, 31, 16⟩
def ING_POOL_E_SHARED_KIB : Fld := ⟨.ING_POOL_E, 15, 0⟩
def ING_POOL_E_RESERVE_KIB : Fld := ⟨.ING_POOL_E, 31, 16⟩
def ING_PORTk_CNT_BAD_BARGE : Fld := ⟨.ING_PORTk_CNT, 15, 0⟩
def ING_PORTk_CNT_FOREIGN : Fld := ⟨.ING_PORTk_CNT, 31, 16⟩
def ING_STRn_STATE_STATE : Fld := ⟨.ING_STRn_STATE, 2, 0⟩
def ING_STRn_STATE_HALT_WHARF : Fld := ⟨.ING_STRn_STATE, 3, 3⟩
def ING_STRn_STATE_HALT_PROG : Fld := ⟨.ING_STRn_STATE, 4, 4⟩
def ING_STRn_STATE_IN_GAP : Fld := ⟨.ING_STRn_STATE, 5, 5⟩
def ING_STRn_STATE_PORT : Fld := ⟨.ING_STRn_STATE, 7, 6⟩
def ING_STRn_STATE_CODEC : Fld := ⟨.ING_STRn_STATE, 11, 8⟩
def ING_STRn_OCC_SHARED_KIB : Fld := ⟨.ING_STRn_OCC, 15, 0⟩
def ING_STRn_OCC_RESERVE_256 : Fld := ⟨.ING_STRn_OCC, 24, 16⟩
def ING_STRn_NEXT_LO_NEXT_LO : Fld := ⟨.ING_STRn_NEXT_LO, 31, 0⟩
def ING_STRn_NEXT_HI_NEXT_HI : Fld := ⟨.ING_STRn_NEXT_HI, 31, 0⟩
def ING_STRn_REL_LO_REL_LO : Fld := ⟨.ING_STRn_REL_LO, 31, 0⟩
def ING_STRn_REL_HI_REL_HI : Fld := ⟨.ING_STRn_REL_HI, 31, 0⟩
def ING_STRn_STATUS_GAP : Fld := ⟨.ING_STRn_STATUS, 0, 0⟩
def ING_STRn_STATUS_OVERRUN : Fld := ⟨.ING_STRn_STATUS, 1, 1⟩
def ING_STRn_STATUS_ACK_LATE : Fld := ⟨.ING_STRn_STATUS, 2, 2⟩
def ING_STRn_STATUS_DISCONT : Fld := ⟨.ING_STRn_STATUS, 3, 3⟩
def ING_STRn_STATUS_ENDED : Fld := ⟨.ING_STRn_STATUS, 4, 4⟩
def ING_STRn_STATUS_GAP_CNT : Fld := ⟨.ING_STRn_STATUS, 15, 8⟩
def ING_STRn_STATUS_DUP_CNT : Fld := ⟨.ING_STRn_STATUS, 23, 16⟩
def ING_STRn_STATUS_SEQ : Fld := ⟨.ING_STRn_STATUS, 31, 24⟩
def DEC_RATE_W_MPIX_RATE : Fld := ⟨.DEC_RATE_W, 15, 0⟩
def DEC_RATE_E_MPIX_RATE : Fld := ⟨.DEC_RATE_E, 15, 0⟩
def DEC_ENGm_STATE_BUSY : Fld := ⟨.DEC_ENGm_STATE, 0, 0⟩
def DEC_ENGm_STATE_CODEC : Fld := ⟨.DEC_ENGm_STATE, 7, 4⟩
def DEC_ENGm_STATE_STREAM : Fld := ⟨.DEC_ENGm_STATE, 25, 16⟩
def DEC_ENGm_STATUS_CORRUPT : Fld := ⟨.DEC_ENGm_STATUS, 0, 0⟩
def DEC_ENGm_STATUS_UNSUPPORTED : Fld := ⟨.DEC_ENGm_STATUS, 1, 1⟩
def DEC_ENGm_STATUS_DPB_SHORT : Fld := ⟨.DEC_ENGm_STATUS, 2, 2⟩
def DEC_ENGm_STATUS_CORRUPT_CNT : Fld := ⟨.DEC_ENGm_STATUS, 15, 8⟩
def DEC_ENGm_STATUS_SEQ : Fld := ⟨.DEC_ENGm_STATUS, 31, 24⟩
def DEC_ENGm_PIX_LO_PIX_LO : Fld := ⟨.DEC_ENGm_PIX_LO, 31, 0⟩
def DEC_ENGm_PIX_HI_PIX_HI : Fld := ⟨.DEC_ENGm_PIX_HI, 31, 0⟩
def SHF_POOLp_BASE_LO_BASE_LO : Fld := ⟨.SHF_POOLp_BASE_LO, 31, 12⟩
def SHF_POOLp_BASE_HI_BASE_HI : Fld := ⟨.SHF_POOLp_BASE_HI, 15, 0⟩
def SHF_POOLp_SHAPE_OUT_W : Fld := ⟨.SHF_POOLp_SHAPE, 11, 0⟩
def SHF_POOLp_SHAPE_OUT_H : Fld := ⟨.SHF_POOLp_SHAPE, 23, 12⟩
def SHF_POOLp_SHAPE_FRAMES : Fld := ⟨.SHF_POOLp_SHAPE, 29, 24⟩
def SHF_POOLp_FMT_P : Fld := ⟨.SHF_POOLp_FMT, 1, 0⟩
def SHF_POOLp_FMT_T : Fld := ⟨.SHF_POOLp_FMT, 3, 2⟩
def SHF_POOLp_FMT_CHANNELS : Fld := ⟨.SHF_POOLp_FMT, 4, 4⟩
def SHF_POOLp_FMT_DTYPE : Fld := ⟨.SHF_POOLp_FMT, 15, 8⟩
def SHF_POOLp_FMT_DEFAULT_MATRIX : Fld := ⟨.SHF_POOLp_FMT, 17, 16⟩
def SHF_POOLp_WIN_W : Fld := ⟨.SHF_POOLp_WIN, 19, 0⟩
def SHF_POOLp_WIN_NWIN : Fld := ⟨.SHF_POOLp_WIN, 23, 20⟩
def SHF_POOLp_SPW_SPW : Fld := ⟨.SHF_POOLp_SPW, 15, 0⟩
def SHF_POOLp_SEED_SEED : Fld := ⟨.SHF_POOLp_SEED, 31, 0⟩
def SHF_POOLp_CTRL_ENABLE : Fld := ⟨.SHF_POOLp_CTRL, 0, 0⟩
def SHF_POOLp_CTRL_FILL_LOCK : Fld := ⟨.SHF_POOLp_CTRL, 15, 4⟩
def SHF_POOLp_CTRL_RELEASE_LOCK : Fld := ⟨.SHF_POOLp_CTRL, 27, 16⟩
def SHF_POOLp_NORMc_MEAN : Fld := ⟨.SHF_POOLp_NORMc, 15, 0⟩
def SHF_POOLp_NORMc_SCALE : Fld := ⟨.SHF_POOLp_NORMc, 31, 16⟩
def SHF_POOLp_SIZE_SIZE_MIB : Fld := ⟨.SHF_POOLp_SIZE, 23, 0⟩
def SHF_POOLp_STATUS_HOLE : Fld := ⟨.SHF_POOLp_STATUS, 0, 0⟩
def SHF_POOLp_STATUS_SUBST : Fld := ⟨.SHF_POOLp_STATUS, 1, 1⟩
def SHF_POOLp_STATUS_LATE_REFILL_CNT : Fld := ⟨.SHF_POOLp_STATUS, 15, 8⟩
def SHF_POOLp_STATUS_SUBST_CNT : Fld := ⟨.SHF_POOLp_STATUS, 19, 16⟩
def SHF_POOLp_STATUS_REFILL_HELD_CNT : Fld := ⟨.SHF_POOLp_STATUS, 23, 20⟩
def SHF_POOLp_STATUS_SEQ : Fld := ⟨.SHF_POOLp_STATUS, 31, 24⟩
def TIER_CFG_MODE : Fld := ⟨.TIER_CFG, 0, 0⟩
def TIER_CFG_T0_AREA_MIB : Fld := ⟨.TIER_CFG, 19, 8⟩
def TIER_CFG_T1_AREA_GIB : Fld := ⟨.TIER_CFG, 31, 20⟩
def TIER_OBJT_BASE_LO_BASE_LO : Fld := ⟨.TIER_OBJT_BASE_LO, 31, 12⟩
def TIER_OBJT_BASE_HI_BASE_HI : Fld := ⟨.TIER_OBJT_BASE_HI, 15, 0⟩
def TIER_OBJT_CTRL_LOG2_ENTRIES : Fld := ⟨.TIER_OBJT_CTRL, 4, 0⟩
def TIER_OBJT_CTRL_LOAD : Fld := ⟨.TIER_OBJT_CTRL, 8, 8⟩
def TIER_OBJT_CTRL_LOADED : Fld := ⟨.TIER_OBJT_CTRL, 9, 9⟩
def TIER_OBJ_SYNC_OBJ : Fld := ⟨.TIER_OBJ_SYNC, 15, 0⟩
def TIER_OBJ_SYNC_REPAIR : Fld := ⟨.TIER_OBJ_SYNC, 16, 16⟩
def TIER_OBJ_QUERY_OBJ : Fld := ⟨.TIER_OBJ_QUERY, 15, 0⟩
def TIER_OBJ_STATE_STATE : Fld := ⟨.TIER_OBJ_STATE, 2, 0⟩
def TIER_OBJ_STATE_LEVEL : Fld := ⟨.TIER_OBJ_STATE, 4, 3⟩
def TIER_OBJ_STATE_EVICT_PENDING : Fld := ⟨.TIER_OBJ_STATE, 5, 5⟩
def TIER_OBJ_STATE_POISONED : Fld := ⟨.TIER_OBJ_STATE, 6, 6⟩
def TIER_OBJ_STATE_VALID : Fld := ⟨.TIER_OBJ_STATE, 7, 7⟩
def TIER_OBJ_STATE_SLICE : Fld := ⟨.TIER_OBJ_STATE, 11, 8⟩
def TIER_OBJ_STATE_REFS : Fld := ⟨.TIER_OBJ_STATE, 31, 16⟩
def TIER_LIMITS_SPACE_MS : Fld := ⟨.TIER_LIMITS, 15, 0⟩
def TIER_LIMITS_SRC_MS : Fld := ⟨.TIER_LIMITS, 31, 16⟩
def TIER_SPACE_T0_FREE_MIB : Fld := ⟨.TIER_SPACE, 11, 0⟩
def TIER_SPACE_T1_FREE_GIB : Fld := ⟨.TIER_SPACE, 27, 16⟩
def TIER_STATUS_POISON : Fld := ⟨.TIER_STATUS, 0, 0⟩
def TIER_STATUS_UE : Fld := ⟨.TIER_STATUS, 1, 1⟩
def TIER_STATUS_DEFERRED : Fld := ⟨.TIER_STATUS, 2, 2⟩
def TIER_STATUS_SPACE_STALL : Fld := ⟨.TIER_STATUS, 3, 3⟩
def TIER_STATUS_SYNC_BUSY : Fld := ⟨.TIER_STATUS, 4, 4⟩
def TIER_STATUS_OBJ_BAD : Fld := ⟨.TIER_STATUS, 5, 5⟩
def TIER_STATUS_POISON_CNT : Fld := ⟨.TIER_STATUS, 15, 8⟩
def TIER_STATUS_DEFER_CNT : Fld := ⟨.TIER_STATUS, 23, 16⟩
def TIER_STATUS_SEQ : Fld := ⟨.TIER_STATUS, 31, 24⟩
def TIER_PARTNER_PARTNER_GIB : Fld := ⟨.TIER_PARTNER, 8, 0⟩
def HBM_STACKn_TEMP_TEMP : Fld := ⟨.HBM_STACKn_TEMP, 7, 0⟩
def HBM_STACKn_TEMP_STATE : Fld := ⟨.HBM_STACKn_TEMP, 9, 8⟩
def HBM_STACKn_TEMP_PEAK : Fld := ⟨.HBM_STACKn_TEMP, 17, 10⟩
def HBM_STACKn_CAP_AVAIL_MIB : Fld := ⟨.HBM_STACKn_CAP, 17, 0⟩
def HBM_STACKn_RETIRED_PAGES : Fld := ⟨.HBM_STACKn_RETIRED, 12, 0⟩
def HBM_STACKn_RETIRED_BANKS : Fld := ⟨.HBM_STACKn_RETIRED, 19, 13⟩
def HBM_STACKn_RETIRED_WEAK : Fld := ⟨.HBM_STACKn_RETIRED, 31, 20⟩
def HBM_STACKn_STATUS_UE : Fld := ⟨.HBM_STACKn_STATUS, 0, 0⟩
def HBM_STACKn_STATUS_REPAIR : Fld := ⟨.HBM_STACKn_STATUS, 1, 1⟩
def HBM_STACKn_STATUS_RETIRE : Fld := ⟨.HBM_STACKn_STATUS, 2, 2⟩
def HBM_STACKn_STATUS_SCRUB_LATE : Fld := ⟨.HBM_STACKn_STATUS, 3, 3⟩
def HBM_STACKn_STATUS_CAL_PREEMPT : Fld := ⟨.HBM_STACKn_STATUS, 4, 4⟩
def HBM_STACKn_STATUS_CE_CNT : Fld := ⟨.HBM_STACKn_STATUS, 23, 8⟩
def HBM_STACKn_STATUS_SEQ : Fld := ⟨.HBM_STACKn_STATUS, 31, 24⟩
def HBM_THERM_CFG_WARM_FLOOR : Fld := ⟨.HBM_THERM_CFG, 3, 0⟩
def HBM_THERM_CFG_HOT_BW_PCT : Fld := ⟨.HBM_THERM_CFG, 10, 4⟩
def HBM_BG_CFG_CAL_MS : Fld := ⟨.HBM_BG_CFG, 7, 0⟩
def HBM_BG_CFG_SCRUB_H : Fld := ⟨.HBM_BG_CFG, 15, 8⟩
def HBM_REGc_Sn_WEIGHT : Fld := ⟨.HBM_REGc_Sn, 7, 0⟩
def HBM_REGc_Sn_CAP_PCT : Fld := ⟨.HBM_REGc_Sn, 14, 8⟩
def HBM_RETIRE_IDX_STACK : Fld := ⟨.HBM_RETIRE_IDX, 2, 0⟩
def HBM_RETIRE_IDX_ENTRY : Fld := ⟨.HBM_RETIRE_IDX, 15, 3⟩
def HBM_RETIRE_ADDR_LO_ADDR_LO : Fld := ⟨.HBM_RETIRE_ADDR_LO, 31, 0⟩
def HBM_RETIRE_ADDR_HI_ADDR_HI : Fld := ⟨.HBM_RETIRE_ADDR_HI, 31, 0⟩
def HBM_MARGIN_CTRL_START : Fld := ⟨.HBM_MARGIN_CTRL, 0, 0⟩
def HBM_MARGIN_CTRL_STACK : Fld := ⟨.HBM_MARGIN_CTRL, 3, 1⟩
def HBM_MARGIN_CTRL_AXIS : Fld := ⟨.HBM_MARGIN_CTRL, 5, 4⟩
def HBM_MARGIN_RESk_LOW : Fld := ⟨.HBM_MARGIN_RESk, 7, 0⟩
def HBM_MARGIN_RESk_HIGH : Fld := ⟨.HBM_MARGIN_RESk, 15, 8⟩
def ARR_CFG_STALL_US : Fld := ⟨.ARR_CFG, 9, 0⟩
def ARR_An_CUT_CUT : Fld := ⟨.ARR_An_CUT, 2, 0⟩
def ARR_An_CUT_PAIR_LEAD : Fld := ⟨.ARR_An_CUT, 3, 3⟩
def ARR_An_CUT_PAIR_WITH : Fld := ⟨.ARR_An_CUT, 6, 4⟩
def ARR_An_STATUS_REISSUE : Fld := ⟨.ARR_An_STATUS, 0, 0⟩
def ARR_An_STATUS_SUSPECT : Fld := ⟨.ARR_An_STATUS, 1, 1⟩
def ARR_An_STATUS_REISSUE_CNT : Fld := ⟨.ARR_An_STATUS, 15, 8⟩
def ARR_An_STATUS_SEQ : Fld := ⟨.ARR_An_STATUS, 31, 24⟩
def ARR_An_SUSPECT_FACETS : Fld := ⟨.ARR_An_SUSPECT, 15, 0⟩
def ARR_An_USE_LO_USE_LO : Fld := ⟨.ARR_An_USE_LO, 31, 0⟩
def ARR_An_USE_HI_USE_HI : Fld := ⟨.ARR_An_USE_HI, 31, 0⟩
def ARR_An_TILES_LO_TILES_LO : Fld := ⟨.ARR_An_TILES_LO, 31, 0⟩
def ARR_An_TILES_HI_TILES_HI : Fld := ⟨.ARR_An_TILES_HI, 31, 0⟩
def ARR_An_LASTFAULTw_WORD : Fld := ⟨.ARR_An_LASTFAULTw, 31, 0⟩
def NUM_SR_SEED_LO_SEED_LO : Fld := ⟨.NUM_SR_SEED_LO, 31, 0⟩
def NUM_SR_SEED_HI_SEED_HI : Fld := ⟨.NUM_SR_SEED_HI, 31, 0⟩
def NUM_ARITH_CFG_LONGSUM_KI : Fld := ⟨.NUM_ARITH_CFG, 15, 0⟩
def NUM_ARITH_CFG_ACC_SR : Fld := ⟨.NUM_ARITH_CFG, 16, 16⟩
def NUM_ARITH_CFG_SAT : Fld := ⟨.NUM_ARITH_CFG, 17, 17⟩
def NUM_SCALE_CFG_ALGO : Fld := ⟨.NUM_SCALE_CFG, 0, 0⟩
def NUM_SCALE_CFG_MARGIN : Fld := ⟨.NUM_SCALE_CFG, 3, 1⟩
def NUM_SCALE_CFG_HIST_LEN : Fld := ⟨.NUM_SCALE_CFG, 8, 4⟩
def NUM_ARITH_STATUS_SCALE_CLAMP : Fld := ⟨.NUM_ARITH_STATUS, 0, 0⟩
def NUM_ARITH_STATUS_SR_INF : Fld := ⟨.NUM_ARITH_STATUS, 1, 1⟩
def NUM_ARITH_STATUS_MX_NAN_BLOCK : Fld := ⟨.NUM_ARITH_STATUS, 2, 2⟩
def NUM_ARITH_STATUS_SCALE_CLAMP_CNT : Fld := ⟨.NUM_ARITH_STATUS, 15, 8⟩
def NUM_ARITH_STATUS_MX_NAN_CNT : Fld := ⟨.NUM_ARITH_STATUS, 23, 16⟩
def NUM_ARITH_STATUS_SEQ : Fld := ⟨.NUM_ARITH_STATUS, 31, 24⟩
def NUM_LEDGER_BASE_LO_BASE_LO : Fld := ⟨.NUM_LEDGER_BASE_LO, 31, 12⟩
def NUM_LEDGER_BASE_HI_BASE_HI : Fld := ⟨.NUM_LEDGER_BASE_HI, 15, 0⟩
def NUM_LEDGER_CTRL_LOG2_ENTRIES : Fld := ⟨.NUM_LEDGER_CTRL, 3, 0⟩
def NUM_LEDGER_CTRL_ENABLE : Fld := ⟨.NUM_LEDGER_CTRL, 4, 4⟩
def NUM_LEDGER_CTRL_USED : Fld := ⟨.NUM_LEDGER_CTRL, 31, 16⟩
def NUM_ZRUN_CFG_ZRUN_STEPS : Fld := ⟨.NUM_ZRUN_CFG, 15, 0⟩
def NUM_ZRUN_CFG_ZRUN_PERMIL : Fld := ⟨.NUM_ZRUN_CFG, 25, 16⟩
def NUM_ZRUN_CFG_ALARM_EN : Fld := ⟨.NUM_ZRUN_CFG, 26, 26⟩
def NUM_ZRUN_CFG_AUTO_PROMOTE : Fld := ⟨.NUM_ZRUN_CFG, 27, 27⟩
def NUM_DEMOTE_CFG_DEMOTE_STEPS : Fld := ⟨.NUM_DEMOTE_CFG, 15, 0⟩
def NUM_DEMOTE_CFG_DEMOTE_EN : Fld := ⟨.NUM_DEMOTE_CFG, 16, 16⟩
def NUM_COMMITTED_STEP_STEP : Fld := ⟨.NUM_COMMITTED_STEP, 31, 0⟩
def NUM_LEDGER_STATUS_ZERO_RUN : Fld := ⟨.NUM_LEDGER_STATUS, 0, 0⟩
def NUM_LEDGER_STATUS_FMT_CHANGE : Fld := ⟨.NUM_LEDGER_STATUS, 1, 1⟩
def NUM_LEDGER_STATUS_WARMUP : Fld := ⟨.NUM_LEDGER_STATUS, 2, 2⟩
def NUM_LEDGER_STATUS_NONFINITE : Fld := ⟨.NUM_LEDGER_STATUS, 3, 3⟩
def NUM_LEDGER_STATUS_PEND_DROP : Fld := ⟨.NUM_LEDGER_STATUS, 4, 4⟩
def NUM_LEDGER_STATUS_FMT_CNT : Fld := ⟨.NUM_LEDGER_STATUS, 15, 8⟩
def NUM_LEDGER_STATUS_NONFINITE_CNT : Fld := ⟨.NUM_LEDGER_STATUS, 23, 16⟩
def NUM_LEDGER_STATUS_SEQ : Fld := ⟨.NUM_LEDGER_STATUS, 31, 24⟩
def VEC_Vn_STATE_BUSY : Fld := ⟨.VEC_Vn_STATE, 0, 0⟩
def VEC_Vn_STATE_MODE : Fld := ⟨.VEC_Vn_STATE, 1, 1⟩
def VEC_Vn_STATE_REG_SUSPECT : Fld := ⟨.VEC_Vn_STATE, 2, 2⟩
def VEC_Vn_STATE_QUEUE : Fld := ⟨.VEC_Vn_STATE, 13, 8⟩
def VEC_Vn_STATE_PC : Fld := ⟨.VEC_Vn_STATE, 27, 16⟩
def VEC_Vn_STATUS_PERM_OOR : Fld := ⟨.VEC_Vn_STATUS, 0, 0⟩
def VEC_Vn_STATUS_FAULT : Fld := ⟨.VEC_Vn_STATUS, 1, 1⟩
def VEC_Vn_STATUS_PARITY : Fld := ⟨.VEC_Vn_STATUS, 2, 2⟩
def VEC_Vn_STATUS_FAULT_CNT : Fld := ⟨.VEC_Vn_STATUS, 15, 8⟩
def VEC_Vn_STATUS_SEQ : Fld := ⟨.VEC_Vn_STATUS, 31, 24⟩
def VEC_Vn_FAULT_PC : Fld := ⟨.VEC_Vn_FAULT, 11, 0⟩
def VEC_Vn_FAULT_LANE : Fld := ⟨.VEC_Vn_FAULT, 21, 12⟩
def VEC_Vn_FAULT_CAUSE : Fld := ⟨.VEC_Vn_FAULT, 23, 22⟩
def VEC_Vn_INSTR_LO_INSTR_LO : Fld := ⟨.VEC_Vn_INSTR_LO, 31, 0⟩
def VEC_Vn_INSTR_HI_INSTR_HI : Fld := ⟨.VEC_Vn_INSTR_HI, 31, 0⟩
def RDU_Vn_STATUS_EMPTY : Fld := ⟨.RDU_Vn_STATUS, 0, 0⟩
def RDU_Vn_STATUS_EMPTY_CNT : Fld := ⟨.RDU_Vn_STATUS, 15, 8⟩
def RDU_Vn_STATUS_SEQ : Fld := ⟨.RDU_Vn_STATUS, 31, 24⟩
def LNK_CFG_ACK_US : Fld := ⟨.LNK_CFG, 7, 0⟩
def LNK_CFG_REPLAY_MAX : Fld := ⟨.LNK_CFG, 11, 8⟩
def LNK_CFG_RETRAIN_MS : Fld := ⟨.LNK_CFG, 23, 16⟩
def LNK_CFG_HOLDOFF : Fld := ⟨.LNK_CFG, 31, 24⟩
def LNK_FAIL_CMD_REASON : Fld := ⟨.LNK_FAIL_CMD, 7, 0⟩
def LNK_Pp_CTRL_ENABLE : Fld := ⟨.LNK_Pp_CTRL, 0, 0⟩
def LNK_Pp_CTRL_MAX_GEN : Fld := ⟨.LNK_Pp_CTRL, 2, 1⟩
def LNK_Pp_CTRL_RETRAIN : Fld := ⟨.LNK_Pp_CTRL, 3, 3⟩
def LNK_Pp_CTRL_LANE_EN : Fld := ⟨.LNK_Pp_CTRL, 15, 8⟩
def LNK_Pp_CTRL_SER_EXP : Fld := ⟨.LNK_Pp_CTRL, 19, 16⟩
def LNK_Pp_STATE_STATE : Fld := ⟨.LNK_Pp_STATE, 3, 0⟩
def LNK_Pp_STATE_GEN : Fld := ⟨.LNK_Pp_STATE, 5, 4⟩
def LNK_Pp_STATE_WIDTH : Fld := ⟨.LNK_Pp_STATE, 9, 6⟩
def LNK_Pp_STATE_LANES : Fld := ⟨.LNK_Pp_STATE, 17, 10⟩
def LNK_Pp_STATE_SESSION : Fld := ⟨.LNK_Pp_STATE, 31, 18⟩
def LNK_Pp_STATUS_DEGRADED : Fld := ⟨.LNK_Pp_STATUS, 0, 0⟩
def LNK_Pp_STATUS_RETRY : Fld := ⟨.LNK_Pp_STATUS, 1, 1⟩
def LNK_Pp_STATUS_DOWN : Fld := ⟨.LNK_Pp_STATUS, 2, 2⟩
def LNK_Pp_STATUS_FAIL_RX : Fld := ⟨.LNK_Pp_STATUS, 3, 3⟩
def LNK_Pp_STATUS_PROTO : Fld := ⟨.LNK_Pp_STATUS, 4, 4⟩
def LNK_Pp_STATUS_GEN_FALLBACK : Fld := ⟨.LNK_Pp_STATUS, 5, 5⟩
def LNK_Pp_STATUS_REPLAY_CNT : Fld := ⟨.LNK_Pp_STATUS, 15, 8⟩
def LNK_Pp_STATUS_DOWN_CNT : Fld := ⟨.LNK_Pp_STATUS, 23, 16⟩
def LNK_Pp_STATUS_SEQ : Fld := ⟨.LNK_Pp_STATUS, 31, 24⟩
def LNK_Pp_FEC_LO_FEC_LO : Fld := ⟨.LNK_Pp_FEC_LO, 31, 0⟩
def LNK_Pp_FEC_HI_FEC_HI : Fld := ⟨.LNK_Pp_FEC_HI, 31, 0⟩
def LNK_Pp_ERR_UNCORR : Fld := ⟨.LNK_Pp_ERR, 15, 0⟩
def LNK_Pp_ERR_CRC_FAIL : Fld := ⟨.LNK_Pp_ERR, 31, 16⟩
def LNK_Pp_PEER_LO_SERIAL_LO : Fld := ⟨.LNK_Pp_PEER_LO, 31, 0⟩
def LNK_Pp_PEER_HI_SERIAL_HI : Fld := ⟨.LNK_Pp_PEER_HI, 31, 0⟩
def LNK_Pp_PEER_ID_ROLE : Fld := ⟨.LNK_Pp_PEER_ID, 7, 0⟩
def LNK_Pp_PEER_ID_PORT : Fld := ⟨.LNK_Pp_PEER_ID, 15, 8⟩
def LNK_Pp_PEER_ID_SLOT_ID : Fld := ⟨.LNK_Pp_PEER_ID, 21, 16⟩
def LNK_Pp_PEER_ID_FEED_ID : Fld := ⟨.LNK_Pp_PEER_ID, 25, 22⟩
def LNK_Pp_PEER_ID_MAX_GEN : Fld := ⟨.LNK_Pp_PEER_ID, 27, 26⟩
def LNK_Pp_LANEl_LSTATE : Fld := ⟨.LNK_Pp_LANEl, 1, 0⟩
def LNK_Pp_LANEl_EYE_MV : Fld := ⟨.LNK_Pp_LANEl, 15, 8⟩
def LNK_Pp_LANEl_SYMERR : Fld := ⟨.LNK_Pp_LANEl, 31, 16⟩
def LNK_Pp_VCv_ALLOC : Fld := ⟨.LNK_Pp_VCv, 10, 0⟩
def LNK_Pp_VCv_AVAIL : Fld := ⟨.LNK_Pp_VCv, 26, 16⟩
def EUT_Ek_CFG_OWNER : Fld := ⟨.EUT_Ek_CFG, 1, 0⟩
def EUT_Ek_CFG_PRESENT : Fld := ⟨.EUT_Ek_CFG, 2, 2⟩
def EUT_Ek_ADAPTER_DDR_GIB : Fld := ⟨.EUT_Ek_ADAPTER, 12, 0⟩
def EUT_Ek_ADAPTER_SECOND_COPY : Fld := ⟨.EUT_Ek_ADAPTER, 13, 13⟩
def EUT_Ek_ADAPTER_INFO_VALID : Fld := ⟨.EUT_Ek_ADAPTER, 14, 14⟩
def EUT_Ek_ADAPTER_FLASH_GIB : Fld := ⟨.EUT_Ek_ADAPTER, 31, 16⟩
def EUT_Ek_STATUS_REQ_ERR : Fld := ⟨.EUT_Ek_STATUS, 0, 0⟩
def EUT_Ek_STATUS_NOTE_DROP : Fld := ⟨.EUT_Ek_STATUS, 1, 1⟩
def EUT_Ek_STATUS_BAD_TXN : Fld := ⟨.EUT_Ek_STATUS, 2, 2⟩
def EUT_Ek_STATUS_TP_STRAY : Fld := ⟨.EUT_Ek_STATUS, 3, 3⟩
def EUT_Ek_STATUS_REQ_ERR_CNT : Fld := ⟨.EUT_Ek_STATUS, 15, 8⟩
def EUT_Ek_STATUS_NOTE_DROP_CNT : Fld := ⟨.EUT_Ek_STATUS, 23, 16⟩
def EUT_Ek_STATUS_SEQ : Fld := ⟨.EUT_Ek_STATUS, 31, 24⟩
def EUT_NOTE_CFG_EVT_EN : Fld := ⟨.EUT_NOTE_CFG, 0, 0⟩
def EUT_NOTE_CFG_EVT_SEV : Fld := ⟨.EUT_NOTE_CFG, 2, 1⟩
def EUT_NOTE_SEQ_NSEQ : Fld := ⟨.EUT_NOTE_SEQ, 31, 0⟩
def EUT_PART_RESET_PART : Fld := ⟨.EUT_PART_RESET, 1, 0⟩
def EUT_PART_RESET_GO : Fld := ⟨.EUT_PART_RESET, 2, 2⟩
def EUT_PART_RESET_BUSY : Fld := ⟨.EUT_PART_RESET, 3, 3⟩
def PER_TOPO_DXLX : Fld := ⟨.PER_TOPO, 6, 0⟩
def PER_TOPO_DYLY : Fld := ⟨.PER_TOPO, 13, 7⟩
def PER_TOPO_DZLZ : Fld := ⟨.PER_TOPO, 20, 14⟩
def PER_LTOPO_DXLX : Fld := ⟨.PER_LTOPO, 6, 0⟩
def PER_LTOPO_DYLY : Fld := ⟨.PER_LTOPO, 13, 7⟩
def PER_LTOPO_DZLZ : Fld := ⟨.PER_LTOPO, 20, 14⟩
def PER_COORD_X : Fld := ⟨.PER_COORD, 5, 0⟩
def PER_COORD_Y : Fld := ⟨.PER_COORD, 11, 6⟩
def PER_COORD_Z : Fld := ⟨.PER_COORD, 17, 12⟩
def PER_COORD_LVALID : Fld := ⟨.PER_COORD, 18, 18⟩
def PER_LCOORD_X : Fld := ⟨.PER_LCOORD, 5, 0⟩
def PER_LCOORD_Y : Fld := ⟨.PER_LCOORD, 11, 6⟩
def PER_LCOORD_Z : Fld := ⟨.PER_LCOORD, 17, 12⟩
def PER_LCOORD_LVALID : Fld := ⟨.PER_LCOORD, 18, 18⟩
def PER_STATUS_DEAD_ADD : Fld := ⟨.PER_STATUS, 0, 0⟩
def PER_STATUS_DEAD_FULL : Fld := ⟨.PER_STATUS, 1, 1⟩
def PER_STATUS_UNREACH : Fld := ⟨.PER_STATUS, 2, 2⟩
def PER_STATUS_DROP : Fld := ⟨.PER_STATUS, 3, 3⟩
def PER_STATUS_DROP_CNT : Fld := ⟨.PER_STATUS, 15, 8⟩
def PER_STATUS_UNREACH_CNT : Fld := ⟨.PER_STATUS, 23, 16⟩
def PER_STATUS_SEQ : Fld := ⟨.PER_STATUS, 31, 24⟩
def PER_FWD_LO_FWD_LO : Fld := ⟨.PER_FWD_LO, 31, 0⟩
def PER_FWD_HI_FWD_HI : Fld := ⟨.PER_FWD_HI, 31, 0⟩
def PER_REMAPi_L_LOGICAL : Fld := ⟨.PER_REMAPi_L, 17, 0⟩
def PER_REMAPi_L_VALID : Fld := ⟨.PER_REMAPi_L, 31, 31⟩
def PER_REMAPi_P_PHYSICAL : Fld := ⟨.PER_REMAPi_P, 17, 0⟩
def PER_DEADi_COORD : Fld := ⟨.PER_DEADi, 17, 0⟩
def PER_DEADi_AUTO : Fld := ⟨.PER_DEADi, 30, 30⟩
def PER_DEADi_VALID : Fld := ⟨.PER_DEADi, 31, 31⟩
def PER_GRPg_X_BASE : Fld := ⟨.PER_GRPg_X, 5, 0⟩
def PER_GRPg_X_STRIDE : Fld := ⟨.PER_GRPg_X, 11, 6⟩
def PER_GRPg_X_COUNT : Fld := ⟨.PER_GRPg_X, 18, 12⟩
def PER_GRPg_Y_BASE : Fld := ⟨.PER_GRPg_Y, 5, 0⟩
def PER_GRPg_Y_STRIDE : Fld := ⟨.PER_GRPg_Y, 11, 6⟩
def PER_GRPg_Y_COUNT : Fld := ⟨.PER_GRPg_Y, 18, 12⟩
def PER_GRPg_Z_BASE : Fld := ⟨.PER_GRPg_Z, 5, 0⟩
def PER_GRPg_Z_STRIDE : Fld := ⟨.PER_GRPg_Z, 11, 6⟩
def PER_GRPg_Z_COUNT : Fld := ⟨.PER_GRPg_Z, 18, 12⟩
def PER_GRPg_CTRL_ACTIVE : Fld := ⟨.PER_GRPg_CTRL, 0, 0⟩
def PER_GRPg_CTRL_PAIR : Fld := ⟨.PER_GRPg_CTRL, 4, 1⟩
def PER_GRPg_CTRL_OWNER : Fld := ⟨.PER_GRPg_CTRL, 6, 5⟩
def PER_GRPg_CTRL_MEMBER : Fld := ⟨.PER_GRPg_CTRL, 7, 7⟩
def PER_GRPg_CTRL_RANK : Fld := ⟨.PER_GRPg_CTRL, 23, 8⟩
def PER_GRPg_EPOCH_EPOCH : Fld := ⟨.PER_GRPg_EPOCH, 31, 0⟩
def PER_GRPg_DISC_STALE_CNT : Fld := ⟨.PER_GRPg_DISC, 15, 0⟩
def PER_GRPg_DISC_AHEAD_CNT : Fld := ⟨.PER_GRPg_DISC, 31, 16⟩
def COL_CFG_WATCHDOG_MS : Fld := ⟨.COL_CFG, 15, 0⟩
def COL_CFG_RES_REPEAT : Fld := ⟨.COL_CFG, 19, 16⟩
def COL_GRPg_CFG_BUF_MIB : Fld := ⟨.COL_GRPg_CFG, 6, 0⟩
def COL_GRPg_CFG_RETURN_STEPS : Fld := ⟨.COL_GRPg_CFG, 23, 8⟩
def COL_GRPg_STATE_MODE_EFF : Fld := ⟨.COL_GRPg_STATE, 1, 0⟩
def COL_GRPg_STATE_PHASE : Fld := ⟨.COL_GRPg_STATE, 4, 2⟩
def COL_GRPg_STATE_HELD : Fld := ⟨.COL_GRPg_STATE, 5, 5⟩
def COL_GRPg_STATE_CLEAN : Fld := ⟨.COL_GRPg_STATE, 31, 16⟩
def COL_GRPg_CSTEP_COMMITTED_STEP : Fld := ⟨.COL_GRPg_CSTEP, 31, 0⟩
def COL_GRPg_SHARD_FIRST_FIRST : Fld := ⟨.COL_GRPg_SHARD_FIRST, 31, 0⟩
def COL_GRPg_SHARD_COUNT_COUNT : Fld := ⟨.COL_GRPg_SHARD_COUNT, 31, 0⟩
def COL_GRPg_STATUS_RESIDUE : Fld := ⟨.COL_GRPg_STATUS, 0, 0⟩
def COL_GRPg_STATUS_ABORT_TX : Fld := ⟨.COL_GRPg_STATUS, 1, 1⟩
def COL_GRPg_STATUS_ABORT_RX : Fld := ⟨.COL_GRPg_STATUS, 2, 2⟩
def COL_GRPg_STATUS_COMMIT_LOST : Fld := ⟨.COL_GRPg_STATUS, 3, 3⟩
def COL_GRPg_STATUS_OVERFLOW : Fld := ⟨.COL_GRPg_STATUS, 4, 4⟩
def COL_GRPg_STATUS_MODE_SWITCH : Fld := ⟨.COL_GRPg_STATUS, 5, 5⟩
def COL_GRPg_STATUS_MISMATCH : Fld := ⟨.COL_GRPg_STATUS, 6, 6⟩
def COL_GRPg_STATUS_ABORT_CNT : Fld := ⟨.COL_GRPg_STATUS, 15, 8⟩
def COL_GRPg_STATUS_RESIDUE_CNT : Fld := ⟨.COL_GRPg_STATUS, 23, 16⟩
def COL_GRPg_STATUS_SEQ : Fld := ⟨.COL_GRPg_STATUS, 31, 24⟩
def RCV_CFG_CENSUS_MS : Fld := ⟨.RCV_CFG, 15, 0⟩
def RCV_CFG_ALLOW_SAME_FEED : Fld := ⟨.RCV_CFG, 16, 16⟩
def RCV_LAYER_CFG_FLASH_EVERY : Fld := ⟨.RCV_LAYER_CFG, 15, 0⟩
def RCV_LAYER_CFG_STORE_EVERY : Fld := ⟨.RCV_LAYER_CFG, 31, 16⟩
def RCV_PARTNER_COORD : Fld := ⟨.RCV_PARTNER, 17, 0⟩
def RCV_PARTNER_VALID : Fld := ⟨.RCV_PARTNER, 18, 18⟩
def RCV_PARTNER_ACCEPTED : Fld := ⟨.RCV_PARTNER, 19, 19⟩
def RCV_PARTNER_REFUSED : Fld := ⟨.RCV_PARTNER, 20, 20⟩
def RCV_WARD_COORD : Fld := ⟨.RCV_WARD, 17, 0⟩
def RCV_WARD_VALID : Fld := ⟨.RCV_WARD, 18, 18⟩
def RCV_WARD_ACCEPTED : Fld := ⟨.RCV_WARD, 19, 19⟩
def RCV_WARD_REFUSED : Fld := ⟨.RCV_WARD, 20, 20⟩
def RCV_DOMAIN_LO_GROUPS_LO : Fld := ⟨.RCV_DOMAIN_LO, 31, 0⟩
def RCV_DOMAIN_HI_GROUPS_HI : Fld := ⟨.RCV_DOMAIN_HI, 31, 0⟩
def RCV_GO_RID : Fld := ⟨.RCV_GO, 31, 0⟩
def RCV_STATE_STATE : Fld := ⟨.RCV_STATE, 2, 0⟩
def RCV_STATE_ACTION : Fld := ⟨.RCV_STATE, 5, 3⟩
def RCV_STATE_REPLICA : Fld := ⟨.RCV_STATE, 6, 6⟩
def RCV_STATE_REBUILD : Fld := ⟨.RCV_STATE, 7, 7⟩
def RCV_STATE_LEADER : Fld := ⟨.RCV_STATE, 8, 8⟩
def RCV_RSTEP_RSTEP : Fld := ⟨.RCV_RSTEP, 31, 0⟩
def RCV_STATUS_HOLD : Fld := ⟨.RCV_STATUS, 0, 0⟩
def RCV_STATUS_RESTART : Fld := ⟨.RCV_STATUS, 1, 1⟩
def RCV_STATUS_DIGEST_DIFF : Fld := ⟨.RCV_STATUS, 2, 2⟩
def RCV_STATUS_SAME_FEED : Fld := ⟨.RCV_STATUS, 3, 3⟩
def RCV_STATUS_UNPROTECTED : Fld := ⟨.RCV_STATUS, 4, 4⟩
def RCV_STATUS_LAYER_LATE : Fld := ⟨.RCV_STATUS, 5, 5⟩
def RCV_STATUS_RECOVERY_CNT : Fld := ⟨.RCV_STATUS, 15, 8⟩
def RCV_STATUS_SEQ : Fld := ⟨.RCV_STATUS, 31, 24⟩
def RCV_GRPg_UPD_STEP : Fld := ⟨.RCV_GRPg_UPD, 31, 0⟩
def RCV_GRPg_PROT_STEP : Fld := ⟨.RCV_GRPg_PROT, 31, 0⟩
def RCV_GRPg_W_STEP : Fld := ⟨.RCV_GRPg_W, 31, 0⟩
def RCV_GRPg_FLASH_STEP : Fld := ⟨.RCV_GRPg_FLASH, 31, 0⟩
def RCV_GRPg_STORE_STEP : Fld := ⟨.RCV_GRPg_STORE, 31, 0⟩
def PWR_CAP_CAP_W : Fld := ⟨.PWR_CAP, 10, 0⟩
def PWR_CAP_CAP_EFF : Fld := ⟨.PWR_CAP, 26, 16⟩
def PWR_CFG_ARR_VMAX : Fld := ⟨.PWR_CFG, 3, 0⟩
def PWR_CFG_ARR_VMIN : Fld := ⟨.PWR_CFG, 7, 4⟩
def PWR_CFG_SOC_VSTEP : Fld := ⟨.PWR_CFG, 11, 8⟩
def PWR_CFG_DIE_FLOOR : Fld := ⟨.PWR_CFG, 15, 12⟩
def PWR_CFG_MEM_MIN_PCT : Fld := ⟨.PWR_CFG, 22, 16⟩
def PWR_CFG_COOL_CHECK : Fld := ⟨.PWR_CFG, 23, 23⟩
def PWR_COOLANT_INLET : Fld := ⟨.PWR_COOLANT, 9, 0⟩
def PWR_COOLANT_FLOW : Fld := ⟨.PWR_COOLANT, 19, 10⟩
def PWR_STATUS_CAP_LIMIT : Fld := ⟨.PWR_STATUS, 0, 0⟩
def PWR_STATUS_MEM_LIMIT : Fld := ⟨.PWR_STATUS, 1, 1⟩
def PWR_STATUS_CAP_UNMET : Fld := ⟨.PWR_STATUS, 2, 2⟩
def PWR_STATUS_ALERT : Fld := ⟨.PWR_STATUS, 3, 3⟩
def PWR_STATUS_DIE_WARM : Fld := ⟨.PWR_STATUS, 4, 4⟩
def PWR_STATUS_DIE_HOT : Fld := ⟨.PWR_STATUS, 5, 5⟩
def PWR_STATUS_COOLING : Fld := ⟨.PWR_STATUS, 6, 6⟩
def PWR_STATUS_AVS_ERR : Fld := ⟨.PWR_STATUS, 7, 7⟩
def PWR_STATUS_LIMIT_CNT : Fld := ⟨.PWR_STATUS, 15, 8⟩
def PWR_STATUS_SEQ : Fld := ⟨.PWR_STATUS, 31, 24⟩
def PWR_SYS_E_LO_E_LO : Fld := ⟨.PWR_SYS_E_LO, 31, 0⟩
def PWR_SYS_E_HI_E_HI : Fld := ⟨.PWR_SYS_E_HI, 31, 0⟩
def PWR_RAILr_VSTEP : Fld := ⟨.PWR_RAILr, 3, 0⟩
def PWR_RAILr_CAUSE : Fld := ⟨.PWR_RAILr, 7, 4⟩
def PWR_RAILr_CURRENT : Fld := ⟨.PWR_RAILr, 31, 16⟩
def PWR_SPLIT_TOTAL_W : Fld := ⟨.PWR_SPLIT, 10, 0⟩
def PWR_SPLIT_LINK_W : Fld := ⟨.PWR_SPLIT, 20, 11⟩
def PWR_SPLIT_MEM_W : Fld := ⟨.PWR_SPLIT, 31, 21⟩
def PWR_EPOCH_EPOCH : Fld := ⟨.PWR_EPOCH, 31, 0⟩
def PWR_THERM_STATE_QUAD : Fld := ⟨.PWR_THERM_STATE, 15, 0⟩
def PWR_ALLOW_ALLOW_W : Fld := ⟨.PWR_ALLOW, 10, 0⟩
def PWR_ALLOW_BURST_DJ : Fld := ⟨.PWR_ALLOW, 26, 11⟩
def PWR_BAL_BAL_MJ : Fld := ⟨.PWR_BAL, 31, 0⟩
def PWR_SHORT_SHORT_MJ : Fld := ⟨.PWR_SHORT, 31, 0⟩
def PWR_E_LO_E_LO : Fld := ⟨.PWR_E_LO, 31, 0⟩
def PWR_E_HI_E_HI : Fld := ⟨.PWR_E_HI, 31, 0⟩
def PWR_Qn_E_LO_E_LO : Fld := ⟨.PWR_Qn_E_LO, 31, 0⟩
def PWR_Qn_E_HI_E_HI : Fld := ⟨.PWR_Qn_E_HI, 31, 0⟩
def NOC_MAP_An_F_SPARE_FOR : Fld := ⟨.NOC_MAP_An_F, 3, 0⟩
def NOC_MAP_An_F_SPARE_USED : Fld := ⟨.NOC_MAP_An_F, 4, 4⟩
def NOC_MAP_An_F_FACETS_OUT : Fld := ⟨.NOC_MAP_An_F, 31, 16⟩
def NOC_MAP_An_R_SPD_SPARES : Fld := ⟨.NOC_MAP_An_R, 1, 0⟩
def NOC_MAP_An_R_SLICE_OUT : Fld := ⟨.NOC_MAP_An_R, 2, 2⟩
def NOC_MAP_An_R_ARRAY_OUT : Fld := ⟨.NOC_MAP_An_R, 3, 3⟩
def NOC_MAP_An_R_LANE_SPARE : Fld := ⟨.NOC_MAP_An_R, 4, 4⟩
def NOC_MAP_An_R_LANE_GROUP : Fld := ⟨.NOC_MAP_An_R, 9, 5⟩
def NOC_MAP_An_R_ENGINE_OUT : Fld := ⟨.NOC_MAP_An_R, 10, 10⟩
def SEC_STAGE_ADDR_LO_ADDR_LO : Fld := ⟨.SEC_STAGE_ADDR_LO, 31, 0⟩
def SEC_STAGE_ADDR_HI_ADDR_HI : Fld := ⟨.SEC_STAGE_ADDR_HI, 15, 0⟩
def SEC_STAGE_CTRL_TARGET : Fld := ⟨.SEC_STAGE_CTRL, 3, 0⟩
def SEC_STAGE_CTRL_SLOT : Fld := ⟨.SEC_STAGE_CTRL, 7, 4⟩
def SEC_STAGE_CTRL_START : Fld := ⟨.SEC_STAGE_CTRL, 8, 8⟩
def SEC_STAGE_CTRL_BUSY : Fld := ⟨.SEC_STAGE_CTRL, 9, 9⟩
def SEC_STAGE_LEN_LEN : Fld := ⟨.SEC_STAGE_LEN, 22, 0⟩
def SEC_FWc_ACTIVE : Fld := ⟨.SEC_FWc, 0, 0⟩
def SEC_FWc_LKG : Fld := ⟨.SEC_FWc, 1, 1⟩
def SEC_FWc_PENDING : Fld := ⟨.SEC_FWc, 2, 2⟩
def SEC_FWc_REJECTED : Fld := ⟨.SEC_FWc, 3, 3⟩
def SEC_FWc_SVN : Fld := ⟨.SEC_FWc, 15, 8⟩
def SEC_FWc_IF_VERSION : Fld := ⟨.SEC_FWc, 31, 16⟩
def SEC_SETTINGS_SET_VERSION : Fld := ⟨.SEC_SETTINGS, 15, 0⟩
def SEC_SETTINGS_SAVE : Fld := ⟨.SEC_SETTINGS, 16, 16⟩
def SEC_SVN_COMMIT_CLASSES : Fld := ⟨.SEC_SVN_COMMIT, 5, 0⟩
def SEC_NONCEi_NONCE : Fld := ⟨.SEC_NONCEi, 31, 0⟩
def SEC_ATTEST_CTRL_GO : Fld := ⟨.SEC_ATTEST_CTRL, 0, 0⟩
def SEC_ATTEST_CTRL_BUSY : Fld := ⟨.SEC_ATTEST_CTRL, 1, 1⟩
def SEC_ATTEST_CTRL_LEN : Fld := ⟨.SEC_ATTEST_CTRL, 31, 16⟩
def EVR_CFG_FLUSH_MS : Fld := ⟨.EVR_CFG, 7, 0⟩
def EVR_STATUS_LOST : Fld := ⟨.EVR_STATUS, 0, 0⟩
def EVR_STATUS_CLEARED : Fld := ⟨.EVR_STATUS, 1, 1⟩
def EVR_STATUS_LOST_CNT : Fld := ⟨.EVR_STATUS, 23, 8⟩
def EVR_STATUS_SEQ : Fld := ⟨.EVR_STATUS, 31, 24⟩
def EVR_NEXT_LO_NEXT : Fld := ⟨.EVR_NEXT_LO, 31, 0⟩
def EVR_NEXT_HI_NEXT : Fld := ⟨.EVR_NEXT_HI, 31, 0⟩
def EVR_LOW_LO_LOW : Fld := ⟨.EVR_LOW_LO, 31, 0⟩
def EVR_LOW_HI_LOW : Fld := ⟨.EVR_LOW_HI, 31, 0⟩
def EVR_CUR_LO_CUR : Fld := ⟨.EVR_CUR_LO, 31, 0⟩
def EVR_CUR_HI_CUR : Fld := ⟨.EVR_CUR_HI, 31, 0⟩
def EVR_RD_CTRL_ADVANCE : Fld := ⟨.EVR_RD_CTRL, 0, 0⟩
def EVR_RD_CTRL_BUSY : Fld := ⟨.EVR_RD_CTRL, 1, 1⟩
def EVR_RD_CTRL_FOUND : Fld := ⟨.EVR_RD_CTRL, 2, 2⟩
def EVR_RD_DATAw_WORD : Fld := ⟨.EVR_RD_DATAw, 31, 0⟩
def EVR_ANCHOR_LO_VALUE : Fld := ⟨.EVR_ANCHOR_LO, 31, 0⟩
def EVR_ANCHOR_HI_VALUE : Fld := ⟨.EVR_ANCHOR_HI, 31, 0⟩
def EVR_CLEAR_LO_UPTO : Fld := ⟨.EVR_CLEAR_LO, 31, 0⟩
def EVR_CLEAR_HI_UPTO : Fld := ⟨.EVR_CLEAR_HI, 31, 0⟩
def EVR_CLEAR_CTRL_BOOT : Fld := ⟨.EVR_CLEAR_CTRL, 15, 0⟩
def EVR_CLEAR_CTRL_GO : Fld := ⟨.EVR_CLEAR_CTRL, 16, 16⟩
def CHK_Uu_CTRL_POLY : Fld := ⟨.CHK_Uu_CTRL, 1, 0⟩
def CHK_Uu_CTRL_MODE : Fld := ⟨.CHK_Uu_CTRL, 3, 2⟩
def CHK_Uu_CTRL_START : Fld := ⟨.CHK_Uu_CTRL, 4, 4⟩
def CHK_Uu_CTRL_BUSY : Fld := ⟨.CHK_Uu_CTRL, 5, 5⟩
def CHK_Uu_CTRL_OWNED : Fld := ⟨.CHK_Uu_CTRL, 6, 6⟩
def CHK_Uu_RUN_LO_RUN : Fld := ⟨.CHK_Uu_RUN_LO, 31, 0⟩
def CHK_Uu_RUN_HI_RUN : Fld := ⟨.CHK_Uu_RUN_HI, 31, 0⟩
def CHK_Uu_SRC_LO_SRC : Fld := ⟨.CHK_Uu_SRC_LO, 31, 0⟩
def CHK_Uu_SRC_HI_SRC : Fld := ⟨.CHK_Uu_SRC_HI, 15, 0⟩
def CHK_Uu_DST_LO_DST : Fld := ⟨.CHK_Uu_DST_LO, 31, 0⟩
def CHK_Uu_DST_HI_DST : Fld := ⟨.CHK_Uu_DST_HI, 15, 0⟩
def CHK_Uu_LEN_LO_LEN : Fld := ⟨.CHK_Uu_LEN_LO, 31, 0⟩
def CHK_Uu_LEN_HI_LEN : Fld := ⟨.CHK_Uu_LEN_HI, 8, 0⟩
def CHK_Uu_STATUS_MISMATCH : Fld := ⟨.CHK_Uu_STATUS, 0, 0⟩
def CHK_Uu_STATUS_BAD_PARAM : Fld := ⟨.CHK_Uu_STATUS, 1, 1⟩
def CHK_Uu_STATUS_POISON : Fld := ⟨.CHK_Uu_STATUS, 2, 2⟩
def CHK_Uu_STATUS_SEQ : Fld := ⟨.CHK_Uu_STATUS, 31, 24⟩

end Fld

end Sys2Proof.Machine
end

