-- ==== Sys2Proof/Machine/Sparse.lean ====
section
/-! DEFINITION. Sorted association lists and sorted sets of numbers: the form in which memory, registers and per-index state
are held, so that equal contents are equal data. -/

namespace Sys2Proof.Machine

/-- The entry at a key. -/
def Sparse.find {α : Type} : List (Nat × α) → Nat → Option α
  | [], _ => none
  | (k, v) :: t, a => if a = k then some v else Sparse.find t a

/-- The value at a key, `d` where nothing is listed. -/
def Sparse.get {α : Type} (d : α) (l : List (Nat × α)) (a : Nat) : α := (Sparse.find l a).getD d

/-- Insert or replace, keeping the keys rising. -/
def Sparse.insert {α : Type} : List (Nat × α) → Nat → α → List (Nat × α)
  | [], a, x => [(a, x)]
  | (k, v) :: t, a, x =>
    if a < k then (a, x) :: (k, v) :: t
    else if a = k then (a, x) :: t
    else (k, v) :: Sparse.insert t a x

/-- Remove a key. -/
def Sparse.erase {α : Type} : List (Nat × α) → Nat → List (Nat × α)
  | [], _ => []
  | (k, v) :: t, a => if a = k then Sparse.erase t a else (k, v) :: Sparse.erase t a

/-- Write a value: writing the default removes the entry. -/
def Sparse.set {α : Type} [DecidableEq α] (d : α) (l : List (Nat × α)) (a : Nat) (x : α) : List (Nat × α) :=
  if x = d then Sparse.erase l a else Sparse.insert l a x

/-- Keys strictly rising. -/
def Sparse.sorted {α : Type} : List (Nat × α) → Bool
  | [] => true
  | (k, _) :: t => t.all (fun e => k < e.1) && Sparse.sorted t

/-- The canonical form: keys strictly rising and no entry equal to what an unlisted key reads as. -/
def Sparse.wf {α : Type} [DecidableEq α] (d : Nat → α) (l : List (Nat × α)) : Bool :=
  Sparse.sorted l && l.all (fun e => decide (e.2 ≠ d e.1))

/-- Membership in a sorted set. -/
def NSet.mem (l : List Nat) (a : Nat) : Bool := l.contains a

/-- Insert into a sorted set. -/
def NSet.insert : List Nat → Nat → List Nat
  | [], a => [a]
  | k :: t, a => if a < k then a :: k :: t else if a = k then k :: t else k :: NSet.insert t a

/-- Remove from a sorted set. -/
def NSet.erase (l : List Nat) (a : Nat) : List Nat := l.filter (· ≠ a)

/-- A sorted set: members strictly rising. -/
def NSet.sorted : List Nat → Bool
  | [] => true
  | k :: t => t.all (fun e => k < e) && NSet.sorted t

end Sys2Proof.Machine
end

