-- ==== Sys2Proof/Machine/State.lean ====
section
/-! DEFINITION. The state of the Forcen as plain data: the register file, device memory, the queues, and for each unit
what the spec's prose gives it beside its registers; the faults and refusals; the state after reset. -/

namespace Sys2Proof.Machine

/-! ## Register file -/

/-- The register file (R38 to R47). `main` holds every register, `copy2` and `copy3` the second and third copies of
registers with a triplicated field (R43), `shadow` the shadows and `staged` the staging words, one per pair and requester
(R41, R42). Each is a sorted list whose unlisted keys read as the register's reset word (shadows: zero). -/
structure RegFile where
  main   : List (Nat × Word)
  copy2  : List (Nat × Word)
  copy3  : List (Nat × Word)
  shadow : List (Nat × Word)
  staged : List (Nat × Word)
  deriving DecidableEq, Repr

/-! ## Memory -/

/-- Device memory (R31): bytes by device address, the 64-byte words that read as poisoned (R159), the words in error with the number of their
symbols in error (R157), the bytes of the T2 window that transfers have brought (R136, R299), and the 4 KiB pages known as poisoned (R147, R299). -/
structure MemSt where
  cells    : List Host.Cell
  poison   : List Nat
  errs     : List (Nat × Nat)
  t2       : List (Nat × Byte)
  t2Poison : List Nat
  deriving DecidableEq, Repr

/-! ## Commands of the queues -/

/-- A tensor descriptor as read at step 4 (R63). -/
structure TDesc where
  base   : Nat
  dtype  : Nat
  rank   : Nat
  flags  : Nat
  tid    : Nat
  dims   : List Nat
  stride : List Nat
  scale  : Nat
  addr   : Nat
  deriving DecidableEq, Repr, Inhabited

/-- What a command will record of one output in the tensor ledger when it completes (R229): identity, whether its scale word is
needed, counts and the largest finite magnitude as m × 2^e. -/
structure LedRec where
  tid      : Nat
  elements : Nat
  zeros    : Nat
  sat      : Nat
  nonfin   : Nat
  amaxM    : Nat
  amaxE    : Int
  deriving DecidableEq, Repr, Inhabited

/-- How far a command has come: waiting at steps 1 to 3 of R71, waiting for energy admission (step 5), running, or done
and not yet retired behind an earlier command (R56). -/
inductive CmdPhase where
  | waiting | admitting | running | done
  deriving DecidableEq, Repr, Inhabited

/-- One command read from a ring (R60) and not yet retired. `readable` is 0 where every slot was read, else the status of
R470, with `firstOk` saying that the first slot was read. `w0`, `w1` are the wait latches (R68). `descs`, `seed`, `arith` and
`deq` are captured at step 4 (R71, R204, R215). `hint` is H′ of R385 in µJ. `finished` says that the operation's writes are
made, `fail` holds the status of a failure not yet completed, `pieces` counts the transfers done, `recs` is what it will record
in the ledger (R229), `stop` is the status with which it stops at its next pre-emption point (R78). -/
structure Cmd where
  slot     : Nat
  nslots   : Nat
  bytes    : List Byte
  readable : Nat
  firstOk  : Bool
  phase    : CmdPhase
  w0       : Bool
  w1       : Bool
  descs    : List TDesc
  deq      : List Nat
  seed     : Nat
  arith    : Word
  hint     : Nat
  finished : Bool
  fail     : Nat
  pieces   : Nat
  recs     : List LedRec
  aux      : List Byte
  stop     : Nat
  deriving DecidableEq, Repr, Inhabited

/-- A queue's commands between HEAD and the last one read, oldest first; whether an abort is in progress (R78); the streams closed while commands stood unread in the ring, each
with TAIL as it was then (R84). -/
structure QueueSt where
  cmds     : List Cmd
  aborting : Bool
  closed   : List (Nat × Nat) := []
  deriving DecidableEq, Repr, Inhabited

/-! ## Event recorder, check-value units -/

/-- An event record (R432) with its record number (R439). -/
structure EvRec where
  num   : Nat
  code  : Nat
  cls   : Nat
  inst  : Nat
  sev   : Nat
  lost  : Bool
  host  : Bool
  part  : Nat
  boot  : Nat
  usec  : Nat
  p1    : Nat
  p2    : Nat
  deriving DecidableEq, Repr, Inhabited

/-- A page of the event ring in flash (R439). -/
structure EvPage where
  boot  : Nat
  first : Nat
  recs  : List EvRec
  deriving DecidableEq, Repr, Inhabited

/-- The recorder (R437, R438): records in the SRAM buffer, oldest first; the running drop episode and its count; whether
the next kept record carries LOST; whether a flush is due. -/
structure EvrSt where
  buf      : List EvRec
  episode  : Bool
  dropped  : Nat
  lostNext : Bool
  flushDue : Bool
  deriving DecidableEq, Repr

/-- A check-value unit (R442 to R446): the DIGEST that holds it, and what its run has found and will report when it is done:
a stored value that differs, a poisoned word. -/
structure ChkSt where
  owner    : Option CmdRef
  mismatch : Bool
  poison   : Bool
  deriving DecidableEq, Repr

/-! ## Link layer -/

/-- A DATA flit waiting to be sent on a VC; `fwd` says that its message is forwarded for another part (R322). -/
structure TxFlit where
  vc      : Nat
  som     : Bool
  eom     : Bool
  fwd     : Bool
  payload : List Byte
  deriving DecidableEq, Repr, Inhabited

/-- A link port beside its registers (R271 to R289): whether it is held down after FAIL (and with which REASON) or by
ownership; queued flits; the retry buffer with its FSEQ values, oldest first; the next FSEQ to send and to accept; an open
gap; replays without progress; credit counts seen and given per VC, the allocations of this session; the VC advertised next
and the VC served last of the escape pair and of the rest; the open message per VC; what training has found, the lanes that passed VERIFY among it; `narrowed` says that a retrain of this session has lowered
the width or the generation (R346). -/
structure PortSt where
  heldFail  : Nat
  txq       : List TxFlit
  retry     : List (Nat × TxFlit)
  txSeq     : Nat
  rxExp     : Nat
  gap       : Bool
  replays   : Nat
  credSeen  : List (Nat × Nat)
  credGiven : List (Nat × Nat)
  alloc     : List (Nat × Nat)
  nextCrvc  : Nat
  lastEsc   : Nat
  lastRest  : Nat
  openMsg   : List (Nat × List Byte)
  lastFwd   : List Nat
  lockLanes : Nat
  farLanes  : Nat
  farGen    : Nat
  gen       : Nat
  lanesIn   : Nat
  passed    : Nat
  eqTries   : Nat
  retrains  : Nat
  session   : Bool
  oldWidth  : Nat
  oldGen    : Nat
  failedLanes : Nat
  roleSaid  : Bool
  narrowed  : Bool
  deriving DecidableEq, Repr, Inhabited

/-! ## HBM stacks -/

/-- A stack beside its registers (R160 to R166): retired pages with their physical place, banks marked for retirement with
the failing word's page, banks that bring-up has excluded, weak pages, rows remapped to a spare, the rows in which the last scrub pass found a
correctable error, granted bytes per class in the window, whether it is available, in self-refresh, and postponed refreshes per bank. -/
structure StackSt where
  retired   : List RowHit
  banks     : List RowHit
  excluded  : List RowHit
  weak      : List RowHit
  repaired  : List RowHit
  scrubCe   : List RowHit
  grants    : Vector Nat 5
  avail     : Bool
  selfRef   : Bool
  postponed : List (Nat × Nat)
  deriving DecidableEq, Repr, Inhabited

/-! ## Power -/

/-- The power manager beside its registers (R380 to R396). Balances and shortfalls are in µJ. Targets are V-steps per
array rail: cap, stack-warm, die, alert. `alertLow` is PMBUS_ALERT_N asserted, `alertWait` the epochs since it was released;
`critHold` and `critDie` say that a stack, or a quadrant, has turned critical, which holds warm reset off (R166, R392); `admitted` is the queue of each
partition that was admitted last (R75). -/
structure PwrSt where
  bal       : Vector Int 4
  short     : Vector Nat 4
  capT      : Vector Nat 8
  warmT     : Vector Nat 8
  dieT      : Vector Nat 8
  alertT    : Vector Nat 8
  avsBad    : Vector Bool 9
  written   : Vector Nat 9
  hbmLimit  : Nat
  unmet     : Bool
  coolLimit : Bool
  coolStale : Bool
  coolBad   : Bool
  alertLow  : Bool
  alertWait : Nat
  powerFail : Bool
  quadTemp  : Vector Nat 8
  critHold  : Bool
  critDie   : Bool
  admitted  : Vector Nat 4
  deriving DecidableEq, Repr

/-! ## Axzel image, flash, bring-up -/

/-- A partition entry of the image (R409). -/
structure PartImg where
  valid   : Bool
  flagged : Bool
  ports   : Nat
  t0Mib   : Nat
  t1Gib   : Nat
  allowW  : Nat
  burstDj : Nat
  engines : Nat
  wFirst  : Nat
  wCount  : Nat
  eFirst  : Nat
  eCount  : Nat
  deriving DecidableEq, Repr, Inhabited

/-- An array entry (R409). -/
structure ArrImg where
  cut   : Nat
  owner : Nat
  pair  : Nat
  deriving DecidableEq, Repr, Inhabited

/-- An HBM region entry (R409). -/
structure RegionImg where
  owner : Nat
  stack : Nat
  start : Nat
  size  : Nat
  valid : Bool
  deriving DecidableEq, Repr, Inhabited

/-- A staging buffer entry (R409). -/
structure StageImg where
  owner : Nat
  mib   : Nat
  deriving DecidableEq, Repr, Inhabited

/-- The torus section (R409). -/
structure TorusImg where
  dx : Nat
  dy : Nat
  dz : Nat
  lx : Nat
  ly : Nat
  lz : Nat
  ox : Nat
  oy : Nat
  oz : Nat
  slotExpect : Nat
  partnerGib : Nat
  nbr : List Nat
  deriving DecidableEq, Repr, Inhabited

/-- The Axzel image in force, as clamped (R409). Lists have the lengths of R409. -/
structure Image where
  id       : Nat
  lic      : List Nat
  parts    : List PartImg
  arrays   : List ArrImg
  torus    : TorusImg
  regions  : List RegionImg
  staging  : List StageImg
  pools    : List Nat
  remap    : List (Nat × Nat)
  groups   : List (Nat × Nat × Nat × Nat)
  deriving DecidableEq, Repr, Inhabited

/-- A class record of the flash directory (R419). -/
structure ClassRec where
  active   : Nat
  lkg      : Nat
  pending  : Bool
  rejected : Bool
  deriving DecidableEq, Repr, Inhabited

/-- A directory copy (R419). -/
structure DirCopy where
  seq      : Nat
  valid    : Bool
  recs     : List ClassRec
  attempts : Nat
  deriving DecidableEq, Repr, Inhabited

/-- A copy of the settings blob (R425): its version, sequence number and fields. -/
structure SetCopy where
  valid    : Bool
  ver      : Nat
  seq      : Nat
  imageSel : Nat
  bootCfg  : Word
  saved    : List (Nat × Word)
  deriving DecidableEq, Repr, Inhabited

/-- The memory qualification record (R402). `margins` holds those of the 32 channels of each stack, two axes of 8 bits (R168). -/
structure QualRec where
  valid     : Bool
  boot      : Nat
  hmcMeas   : Nat
  margins   : BitVec 4096
  repairLen : Nat
  deriving DecidableEq, Repr, Inhabited

/-- An entry of the repair record (R162, R164, R403, R405). `kind`: 0 soft row repair, 1 retired page, 2 bank, 3 weak page,
4 scratchpad bank, 5 facet, 6 lane group, 7 row of another on-chip memory, which carry their index in `bank`; 8 permanent row repair. -/
structure RepairEnt where
  kind : Nat
  unit : Nat
  hit  : RowHit
  deriving DecidableEq, Repr, Inhabited

/-- The xSPI flash (R416) and the fuses that change (R422). An erased region is the empty byte string. -/
structure FlashSt where
  dirs      : List DirCopy
  firmware  : List (List (List Byte))
  images    : List (List Byte)
  licences  : List (List Byte)
  settings  : List SetCopy
  cert      : List Byte
  qual      : QualRec
  repair    : List RepairEnt
  ring      : List EvPage
  bootCount : Nat
  svnRaised : List (Nat × Nat)
  deriving DecidableEq, Repr

/-- An entry of the measurement log (R428): kind, class or slot, BUILD or IMAGE_ID and the SHA-384 of the object. -/
structure MeasEnt where
  kind : Nat
  cls  : Nat
  id   : Nat
  hash : BitVec 384
  deriving DecidableEq, Repr, Inhabited

/-- Bring-up and trust (R398 to R430): the image in force, the structure report, ROM recovery, the measurement log and
value, the slot each class booted from, whether the candidate set differed from the LKG set, whether an HBM_UE was recorded
since the qualification, staging in progress, the attestation requests waiting and the report of each view; a JTAG takeover; whether READY has been reached
since the last reset (R168); the partition whose reset is under way, and its requester (R307). -/
structure BootSt where
  img       : Image
  structRep : List (Nat × Word)
  clampRep  : List (Nat × Word)
  recovery  : Bool
  log       : List MeasEnt
  meas      : BitVec 384
  booted    : List Nat
  candidate : Bool
  newErr    : Bool
  setInUse  : Nat
  imageSel  : Nat
  staging   : Option (Nat × Nat)
  attest    : List Nat
  report    : List (Nat × List Byte)
  jtagHeld  : Bool
  wasReady  : Bool
  resetting : Option (Part × Requester × Bool)
  deriving DecidableEq, Repr

/-- Pins and the I3C target (R453 to R460): true is the high level. `feed`, `slot` are the strap levels. -/
structure PinSt where
  porstN    : Bool
  pwrFailN  : Bool
  thermtripN : Bool
  faultN    : Bool
  alertN    : Bool
  xspiRstN  : Bool
  i3cAddr   : Nat
  i3cDyn    : Option (BitVec 7)
  deriving DecidableEq, Repr

/-! ## Euton ports -/

/-- A SNAP_WR or SNAP_RD outstanding on a Euton port (R295, R300): its tag, the command it serves, and the range it moves. -/
structure Outst where
  port : Nat
  tag  : Nat
  ref  : CmdRef
  off  : Nat
  len  : Nat
  deriving DecidableEq, Repr

/-- A snapshot request that waits for a tag (R295): what it will be outstanding as, its snapshot address, whether it writes, its data. -/
structure HeldSnap where
  out   : Outst
  addr  : Nat
  write : Bool
  data  : List Byte
  deriving DecidableEq, Repr

/-- What a host asks for (R297). -/
inductive HostKind where
  | regRd (addr len : Nat)
  | regWr (addr len : Nat) (v : Word)
  | dmaWr (addr : Nat) (data : List Byte)
  | dmaRd (addr len : Nat)
  | doorbell (code index : Nat) (v : Word)
  deriving DecidableEq, Repr

/-- A host request with its port and tag (R297). -/
structure HostReq where
  port : EPort
  tag  : Nat
  kind : HostKind
  deriving DecidableEq, Repr

/-- The Euton layer beside its registers: outstanding snapshot requests and those that wait for a tag, the host requests that have arrived and wait, in order (an object in
transit, R140; a regulator, R160), the host's tags in use as (port, tag), and the next tag of each port. -/
structure EutSt where
  outst    : List Outst
  held     : List HeldSnap
  waiting  : List HostReq
  hostTags : List (Nat × Nat)
  nextTag  : List (Nat × Nat)
  deriving DecidableEq, Repr

/-! ## What the part sends -/

/-- A message or signal the Forcen has sent (chapters 12 to 16, 21). -/
inductive Output where
  /-- The data a register read returned to its requester (R41). -/
  | readData (r : Requester) (addr : Nat) (v : Word)
  /-- A completion on VC2 (R296). -/
  | cpl (port : EPort) (tag status : Nat) (data : List Byte)
  /-- A NOTE on VC6 (R301). -/
  | note (port : Nat) (kind nseq : Nat) (body : List Byte)
  /-- A towpath message on VC0 (R304). -/
  | towpath (port : Nat) (code stream offset : Nat)
  /-- T2_RD on VC3 (R299). -/
  | t2Rd (port : Nat) (tag addr len : Nat)
  /-- SNAP_WR on VC5 (R300). -/
  | snapWr (port : Nat) (tag addr : Nat) (data : List Byte)
  /-- SNAP_RD on VC5 (R300). -/
  | snapRd (port : Nat) (tag addr len : Nat)
  /-- A routed peer message (R321): first port, VC, header and body bytes. -/
  | peer (port : Nat) (vc : Nat) (h : RouteHdr) (body : List Byte)
  /-- A point-to-point peer message on VC0 (R319). -/
  | peerCtl (port : Nat) (body : List Byte)
  /-- A flit put on the lanes (R272). -/
  | flit (port : PortId) (f : Flit)
  /-- The identity record that a port sends on its lanes at G1 (R282). -/
  | identity (port : PortId) (bytes : List Byte)
  /-- A message delivered whole by a VC to its consumer (R278). -/
  | delivered (port : PortId) (vc : Nat) (data : List Byte)
  /-- A message truncated by link-down (R287). -/
  | truncated (port : PortId) (vc : Nat)
  /-- An in-band interrupt on I3C (R459). -/
  | ibi (data : Byte)
  /-- Data of an I3C private read (R459). -/
  | i3cData (data : List Byte)
  /-- The level of an output pin: 0 THERMTRIP_N, 1 FAULT_N, 2 XSPI_RST_N. -/
  | pin (which : Nat) (level : Bool)
  /-- A rail write over AVSBus (R380). -/
  | avsWrite (rail : Nat) (mv : Nat)
  deriving DecidableEq, Repr

/-! ## Matrix arrays -/

/-- A tile in flight on a piece (R183 to R192): its command, group and index in the group's order, its 16 bytes, whether it has
been reissued, its results, held in the array until Commit, each with the saturation of an integer chain, and the destination at which a FINAL
tile holds a drain credit (R184). -/
structure Tile where
  array   : Nat
  piece   : Nat
  ref     : CmdRef
  grp     : Nat
  idx     : Nat
  instr   : List Byte
  retried : Bool
  results : List (FVal × Bool)
  dest    : Option Nat
  deriving DecidableEq, Repr

/-- What is staged in the panel area for the tile in flight on a piece (R174, R184): the block it takes there, and where each range of the
operands lies, as (source, bytes, place). -/
structure Panel where
  array : Nat
  piece : Nat
  base  : Nat
  len   : Nat
  segs  : List (Nat × Nat × Nat)
  deriving DecidableEq, Repr

/-- The tiles of one output tile and split range (R180, R187): where they accumulate, the piece that reserved the region, how many there are and how
many have committed. -/
structure Grp where
  array  : Nat
  piece  : Nat
  region : Nat
  units  : Nat
  tiles  : Nat
  done   : Nat
  busy   : Bool
  deriving DecidableEq, Repr, Inhabited

/-- A MATMUL or EWMUL on the arrays: its groups by number, and the output tiles drained. -/
structure Job where
  ref     : CmdRef
  grps    : List (Nat × Grp)
  drained : Nat
  deriving DecidableEq, Repr

/-- The arrays beside their registers: jobs, tiles in flight, staged panels, accumulated integer values that have saturated (by accumulation
address), useful cell-handshakes by array (R196), and the command whose tile an array took last (R75). -/
structure ArrSt where
  jobs  : List Job
  tiles : List Tile
  panels : List Panel
  last  : List (Nat × CmdRef)
  satd  : List Nat
  use   : List (Nat × Nat)
  deriving DecidableEq, Repr

/-! ## Vector engines -/

/-- One result of a reduction accumulator (R256): whether anything was reduced, the FP32 sum or extremum, the exact integer, the
index of an ARGMAX. -/
structure RaEnt where
  any : Bool
  f   : Word
  i   : Int
  idx : Nat
  deriving DecidableEq, Repr, Inhabited

/-- A reduction accumulator: its operation, axis and TYPE, and its 32 results. -/
structure RaSt where
  op   : Nat
  axis : Nat
  ty   : Nat
  ents : List RaEnt
  deriving DecidableEq, Repr, Inhabited

/-- A vector engine (R240): tile registers by number as lanes, masks M1 to M7 as sorted lanes, accumulators, the operand cache by
word and its valid slots; the program it runs: command, bindings with their scale words, parameters, extents of the iteration
binding, position, ORDER, SAT; what its stores will record; and what holds a parity error (R250): (0, register, lane) an element,
(1, mask, lane) a mask bit, (2, accumulator, entry), (3, word, 0) a cache word. No command makes one. -/
structure VecSt where
  tr    : List (Nat × List (Nat × Word))
  mask  : List (Nat × List Nat)
  ra    : List (Nat × RaSt)
  cache : List (Nat × Word)
  valid : List Nat
  ref   : Option CmdRef
  binds : List TDesc
  sws   : List Nat
  prm   : List Word
  dims  : List Nat
  pos   : Nat × Nat × Nat × Nat
  order : Bool
  arith : Word
  recs  : List LedRec
  bad   : List (Nat × Nat × Nat)
  deriving DecidableEq, Repr

/-! ## Collective engine -/

/-- A collective message held for an ALLREDUCE (R348): kind 1 AGREE, 2 PARTIAL, 3 RESULT, 4 SIGNS. -/
structure ColMsg where
  kind   : Nat
  src    : Coord
  ch     : ColHdr
  recs   : List AgreeRec
  blocks : List GrBlock
  signs  : List (BitVec 64)
  deriving DecidableEq, Repr

/-- What a member holds of one block: its record during agreement, its GR16 block or one-bit count after it. -/
structure ColItem where
  idx : Nat
  agr : AgreeRec
  blk : GrBlock
  deriving DecidableEq, Repr, Inhabited

/-- The running ALLREDUCE of a group (R329 to R346). `v` holds G + e; `agreed` the agreed records; `items` the blocks of the current
phase by position; `phase` is 0 agreement, 1 its gather, 2 reduce, 3 gather; `stage` is the position in the list of dimensions;
`ranges` the ranges held so far, innermost first; `left` the positions still expected; `bad` the failure met, with its check and
block. -/
structure ColRun where
  ref     : CmdRef
  step    : Nat
  tid     : Nat
  attempt : Nat
  oparg   : Nat
  mode    : Nat
  v       : List Word
  want    : Bool
  agreed  : List AgreeRec
  kept    : List Nat
  items   : List ColItem
  phase   : Nat
  stage   : Nat
  ranges  : List (Nat × Nat)
  left    : List Nat
  bad     : Option (Nat × Nat × Nat)
  deriving DecidableEq, Repr

/-- The running COMMIT of a group, and whether it has forwarded the first lap (R352). -/
structure ColCommit where
  ref     : CmdRef
  step    : Nat
  attempt : Nat
  fwd     : Bool
  deriving DecidableEq, Repr

/-- A group's part of the collective engine: the running reduction and COMMIT; held messages; aborted attempts as (step, attempt)
(R351); attempts with a failed ALLREDUCE since the last commit (R352); held first laps; the last residue failure as (step, attempt,
consecutive attempts) (R340); WANT_1BIT of the step and whether an automatic reduction ran (R346); the last step whose ALLREDUCE
has completed (R371). -/
structure ColSt where
  run    : Option ColRun
  commit : Option ColCommit
  held   : List ColMsg
  marks  : List (Nat × Nat)
  failed : List (Nat × Nat)
  tokens : List (Nat × Nat)
  resid  : Option (Nat × Nat × Nat)
  want   : Bool
  auto   : Bool
  arDone : Nat
  deriving DecidableEq, Repr

/-! ## Recovery engine -/

/-- An update record (R360): group, step, the non-zero locks, and HEAD, ENABLE and PRIORITY of each queue. -/
structure UpdRec where
  group  : Nat
  step   : Nat
  locks  : List (Nat × Word)
  queues : List (Word × Nat × Nat)
  deriving DecidableEq, Repr

/-- A snapshot under way (R361 to R366): its command, layer, group and step, its own digest, whether the partner has answered, and
whether it answered that the image is visible. SNAP_WR outstanding are in `EutSt.outst`. -/
structure SnapRun where
  ref    : CmdRef
  layer  : Nat
  group  : Nat
  step   : Nat
  digest : Option Nat
  acked  : Bool
  safe   : Bool
  deriving DecidableEq, Repr

/-- A digest received (R364): group, step, the sender's logical coordinate, its CRC-64. -/
structure DigRec where
  group : Nat
  step  : Nat
  coord : Nat
  crc   : Nat
  deriving DecidableEq, Repr

/-- A copy of an image (R363): group and step, the coordinate it belongs to, its device address (a local copy) or 0 and the bytes
visible, and whether it is complete. -/
structure CopyRec where
  group : Nat
  step  : Nat
  coord : Nat
  addr  : Nat
  bytes : Nat
  whole : Bool
  deriving DecidableEq, Repr

/-- A CENSUS received (R371). -/
structure CensusSt where
  rid    : Nat
  sender : Coord
  spare  : Bool
  ward   : Coord
  recs   : List CensusRec
  deriving DecidableEq, Repr

/-- A restore under way (R373): its command, source, group and step; the bytes of the image (0 until its header has come), the pieces
received by offset, the pieces still to come as (offset or address, bytes), and the physical coordinates asked. -/
structure RestRun where
  ref    : CmdRef
  source : Nat
  group  : Nat
  step   : Nat
  total  : Nat
  got    : List (Nat × List Byte)
  left   : List (Nat × Nat)
  asked  : List Nat
  deriving DecidableEq, Repr

/-- A partition's part of the recovery engine: update records, those due as (queue, slot, group, step) once HEAD has passed their UPDATE, snapshots and restores under way, digests, copies kept locally and ward
copies by slot, the last RID, the lost logical coordinates, whether this part came to the recovery as a
spare, whether a RESTORE has completed since the plan, census, plan and DONE
messages, the (group, step) for which RCV_UNPROTECTED and the (group, layer) for which RCV_LAYER_LATE was recorded. -/
structure RcvSt where
  upd     : List UpdRec
  due     : List (Nat × Nat × Nat × Nat)
  snaps   : List SnapRun
  rests   : List RestRun
  digs    : List DigRec
  copies  : List CopyRec
  ward    : List (Nat × CopyRec)
  rid     : Nat
  spare   : Bool
  restored : Bool
  lost    : List Nat
  census  : List CensusSt
  plan    : List PlanAct
  done    : List Nat
  doneSent : Bool
  unprot  : List (Nat × Nat)
  late    : List (Nat × Nat)
  deriving DecidableEq, Repr

/-! ## Memory tiers -/

/-- A deferred EVICT (R145): its FREED_LOCK, DISCARD, and whether only the T0 copy is released. -/
structure EvictReq where
  lock    : Option Nat
  discard : Bool
  t0Only  : Bool
  deriving DecidableEq, Repr

/-- An object of a partition's table (R129, R139): the entry's fields; its state and level; the addresses of its T1 and T0 copies;
the target of a promotion; deferred and running evictions; whether its T2 copy has listed pages or is poisoned as a whole; when it
was last referenced; whether the wait of its promotion for room has been reported (R146). -/
structure TierObj where
  home    : Nat
  size    : Nat
  ro      : Bool
  pin     : Bool
  repl    : Nat
  rgroup  : Nat
  rrank   : Nat
  peer    : Nat
  adapter : Nat
  valid   : Bool
  state   : Nat
  level   : Nat
  t1      : Option Nat
  t0      : Option Nat
  slice   : Nat
  target  : Nat
  tslice  : Nat
  pend    : List EvictReq
  evict   : Option EvictReq
  freed   : List Nat
  poison  : Bool
  allBad  : Bool
  stamp   : Nat
  stalled : Bool
  deriving DecidableEq, Repr

/-- A transfer of T2 bytes or of refetched pages (R136, R141, R147, R148, R297): for a promotion of an object, for a COPY or DIGEST, or for
a host's DMA_RD (port, tag, address, bytes). A promotion has neither command nor host. `base`, `len` name the range in the T2 window (or the T1 copy to mend), `cur` the bytes
asked for, `dest` where they go; `bad` the pages waiting for a source, `src` the source asked for the first of them; `tag` the request
outstanding as (port, tag, offset, bytes), port 4 for a peer; `got` the pages refetched. -/
structure Fetch where
  obj   : Option Nat
  ref   : Option CmdRef
  host  : Option (Nat × Nat × Nat × Nat)
  base  : Nat
  len   : Nat
  cur   : Nat
  dest  : Nat
  bad   : List Nat
  src   : Nat
  tag   : Option (Nat × Nat × Nat × Nat)
  got   : Nat
  fail  : Bool
  deriving DecidableEq, Repr

/-- A running prefetch schedule (R143, R144): its entries, lock base, ready lock, LOOKAHEAD, the next entry to start, the entries
resident, and those whose eviction has been issued. -/
structure Sched where
  ref     : CmdRef
  entries : List (List Byte)
  base    : Nat
  ready   : Option Nat
  look    : Nat
  next    : Nat
  home    : List Nat
  gone    : List Nat
  deriving DecidableEq, Repr

/-- A partition's tier engine beside its registers: objects by id, transfers, schedules, and the count of references taken. The
poison list is `MemSt.t2Poison`, by page number: each page belongs to the list of the partition that owns it. -/
structure TierSt where
  objs    : List (Nat × TierObj)
  fetches : List Fetch
  scheds  : List Sched
  clock   : Nat
  deriving DecidableEq, Repr

/-! ## Ingest, decode, conditioning -/

/-- An open stream beside its registers (R81 to R92): its parameters, the payload bytes it holds by offset, its shared charge without the
landing grant, its reserve charge, the landing grant, REWINDs of the open gap, whether an EOS barge was accepted, a HALT_ACK is
outstanding and late, the discontinuities, and the CLOSE commands that wait. -/
structure StreamSt where
  cap     : Nat
  mark    : Nat
  stall   : Nat
  film    : Bool
  bytes   : List (Nat × Byte)
  shared  : Nat
  reserve : Nat
  grant   : Bool
  rewinds : Nat
  eos     : Bool
  ackOut  : Bool
  late    : Bool
  discs   : List Nat
  closers : List CmdRef
  deriving DecidableEq, Repr

/-- A started DECODE (R98, R99): its stream, span and staging buffer, and its engine once decoding has begun. -/
structure DecRun where
  ref    : CmdRef
  str    : Nat
  start  : Nat
  stop   : Nat
  buf    : Nat
  hasBuf : Bool
  engine : Option Nat
  deriving DecidableEq, Repr

/-- The fields of a sample descriptor (R111). -/
structure SampleDesc where
  id    : Nat
  pool  : Nat
  deint : Nat
  wseq  : Nat
  index : Nat
  cropX : Nat
  cropY : Nat
  cropW : Nat
  cropH : Nat
  deriving DecidableEq, Repr

/-- A target frame in a staging buffer: its result record (R103) and what it was decoded from (its samples are a function of these). -/
structure DecFrame where
  target : Nat
  recd   : List Byte
  codec  : Nat
  span   : List (Option Byte)
  deriving DecidableEq, Repr

/-- A staging buffer (R110, R112, R118): phase 0 empty, 1 taken by a DECODE, 2 decoded, 3 conditioned and waiting to land; its sample;
its frames; the conditioned bytes, the header flags, whether it has been counted as held, and the engine that conditioned it. -/
structure BufSt where
  phase  : Nat
  sample : Option SampleDesc
  frames : List DecFrame
  data   : List Byte
  flags  : Nat
  held   : Bool
  engine : Nat
  deriving DecidableEq, Repr

/-- A ring position of a shuffle pool (R117, R118): the window it holds, the slots filled, and the holes among them. -/
structure PoolPos where
  win    : Nat
  filled : List Nat
  holes  : List Nat
  deriving DecidableEq, Repr

/-- Ingest, decode and conditioning beside their registers: streams by number, started DECODEs, staging buffers by number, ring positions
by 8 × pool + position; luma samples each engine has decoded in this budget epoch, and in the last completed one. -/
structure IngSt where
  streams : List (Nat × StreamSt)
  decs    : List DecRun
  bufs    : List (Nat × BufSt)
  pools   : List (Nat × PoolPos)
  pixNow  : List (Nat × Nat)
  pixRate : List (Nat × Nat)
  deriving DecidableEq, Repr


/-! ## The state -/

/-- The state of the Forcen. `usec` is the management core's local microsecond count (R435). `freeCtr` is the model's own:
the number of free values drawn so far (log 1). `pending` is the queue of waiting commands, first in, first out. -/
structure State where
  rf      : RegFile
  mem     : MemSt
  queues  : List (Nat × QueueSt)
  ports   : Vector PortSt 10
  hbm     : Vector StackSt 8
  pwr     : PwrSt
  boot    : BootSt
  flash   : FlashSt
  arr     : ArrSt
  vec     : Vector VecSt 8
  evr     : EvrSt
  chk     : Vector ChkSt 4
  eut     : EutSt
  col     : List (Nat × ColSt)
  rcv     : Vector RcvSt 4
  tier    : Vector TierSt 4
  ing     : IngSt
  pins    : PinSt
  usec    : Nat
  out     : List Output
  freeCtr : Nat
  pending : List Instr
  deriving DecidableEq, Repr

/-- The faults of the model. Every command of the spec has an effect on every state, so no meaning raises one; the type is
closed and has one constructor only so that it can be named. -/
inductive Fault where
  /-- Never raised. Safe: the model stops nowhere. -/
  | none
  deriving DecidableEq, Repr

/-- The refusals of the model. -/
inductive Refusal where
  /-- Raised by the dispatcher for a command that has no meaning yet, by its mnemonic. Safe: the model stops there. -/
  | notModelled (mnemonic : String)
  deriving DecidableEq, Repr

/-! ## The state after reset -/

/-- A vector engine after reset (log 4): no program, everything zero, NUM_ARITH_CFG at its reset value. [DESIGN CHOICE, log 4] -/
def VecSt.reset : VecSt :=
  { tr := [], mask := [], ra := [], cache := [], valid := [], ref := none, binds := [], sws := [], prm := [], dims := [32, 32, 1, 1]
    pos := (0, 0, 0, 0), order := false, arith := 0x00030020, recs := [], bad := [] }

/-- The recovery engine of a partition after reset: no copies, last RID 0 (R369). -/
def RcvSt.reset : RcvSt :=
  { upd := [], due := [], snaps := [], rests := [], digs := [], copies := [], ward := [], rid := 0, spare := false
    restored := false, lost := [], census := []
    plan := [], done := [], doneSent := false, unprot := [], late := [] }

/-- The tier engine of a partition after reset: no object table is loaded. -/
def TierSt.reset : TierSt := { objs := [], fetches := [], scheds := [], clock := 0 }

/-- Ingest, decode and conditioning after reset: every stream CLOSED, every engine and buffer idle. -/
def IngSt.reset : IngSt := { streams := [], decs := [], bufs := [], pools := [], pixNow := [], pixRate := [] }

/-- The power manager after reset: balances at BURST_p, shortfalls 0 (R385); every target at V-step 15 (log 12); the rails at the
power-up voltage of 0.75 V, V-step 10 (R451). [DESIGN CHOICE, log 12] -/
def PwrSt.reset : PwrSt :=
  { bal := Vector.replicate 4 100000000, short := Vector.replicate 4 0, capT := Vector.replicate 8 15
    warmT := Vector.replicate 8 15, dieT := Vector.replicate 8 15, alertT := Vector.replicate 8 15
    avsBad := Vector.replicate 9 false, written := Vector.replicate 9 10, hbmLimit := 100
    unmet := false, coolLimit := false, coolStale := false, coolBad := false, alertLow := false, alertWait := 0
    powerFail := false, quadTemp := Vector.replicate 8 0, critHold := false, critDie := false, admitted := Vector.replicate 4 63 }

/-- Bring-up after reset: no image in force, nothing measured, the ROM phase (R398). -/
def BootSt.reset : BootSt :=
  { img := default, structRep := [], clampRep := [], recovery := false, log := [], meas := 0, booted := [], candidate := false
    newErr := false, setInUse := 0, imageSel := 0, staging := none, attest := [], report := [], jtagHeld := false, wasReady := false, resetting := none }

/-- An erased flash (log 5): two invalid directory copies and settings copies, empty regions, no records. [DESIGN CHOICE, log 5] -/
def FlashSt.erased : FlashSt :=
  { dirs := [{ seq := 0, valid := false, recs := List.replicate 6 default, attempts := 0 },
             { seq := 0, valid := false, recs := List.replicate 6 default, attempts := 0 }]
    firmware := List.replicate 2 (List.replicate 6 []), images := List.replicate 4 [], licences := List.replicate 16 []
    settings := List.replicate 2 { valid := false, ver := 0, seq := 0, imageSel := 0, bootCfg := 0, saved := [] }
    cert := [], qual := { valid := false, boot := 0, hmcMeas := 0, margins := 0, repairLen := 0 }, repair := [], ring := [], bootCount := 0
    svnRaised := List.replicate 6 (0, 0) }

/-- The pins after reset: inputs at their idle levels, FAULT_N released as the ROM phase begins (R454, R455). -/
def PinSt.reset : PinSt :=
  { porstN := true, pwrFailN := true, thermtripN := true, faultN := true, alertN := true, xspiRstN := true, i3cAddr := 0
    i3cDyn := none }

/-- The state right after power-on reset, before the ROM phase (R40, R398). Registers hold their reset words, memory lists nothing,
no command waits. [DESIGN CHOICE, log 3] -/
def State.reset : State :=
  { rf := { main := [], copy2 := [], copy3 := [], shadow := [], staged := [] }
    mem := { cells := [], poison := [], errs := [], t2 := [], t2Poison := [] }
    queues := [], ports := Vector.replicate 10 default, hbm := Vector.replicate 8 default, pwr := PwrSt.reset
    boot := BootSt.reset, flash := FlashSt.erased, arr := { jobs := [], tiles := [], panels := [], last := [], satd := [], use := [] }
    vec := Vector.replicate 8 VecSt.reset
    evr := { buf := [], episode := false, dropped := 0, lostNext := false, flushDue := false }
    chk := Vector.replicate 4 { owner := none, mismatch := false, poison := false }
    eut := { outst := [], held := [], waiting := [], hostTags := [], nextTag := [] }, col := [], rcv := Vector.replicate 4 RcvSt.reset
    tier := Vector.replicate 4 TierSt.reset, ing := IngSt.reset, pins := PinSt.reset, usec := 0, out := [], freeCtr := 0
    pending := [] }

end Sys2Proof.Machine
end

