-- ==== Sys2Proof/Machine/Regs.lean ====
section
/-! DEFINITION. The register file as the units use it: keys, reset words, reads by majority (R43), field access, 64-bit pairs,
hardware sets of SQ registers (R46), and who owns what (R28, R50, R292). -/

namespace Sys2Proof.Machine

/-- Element of a vector. -/
def vget {α : Type} {n : Nat} (v : Vector α n) (i : Fin n) : α := v.get i

/-- A vector with one element replaced. -/
def vset {α : Type} {n : Nat} (v : Vector α n) (i : Fin n) (x : α) : Vector α n := v.set i.val x i.isLt

/-- Index of a requester: P0 to P3, then the management core (R41). -/
def reqIdx : Requester → Nat
  | .part p => p.val
  | .mgc => 4

/-- Index of a view: the views of P0 to P3, then the global window. -/
def viewIdx : View → Nat
  | .part p => p.val
  | .glob => 4

/-- The key of a register instance (at most 4,096 of a register); `sel` is the partition or view where the register has one home per
partition or view, else 0. -/
def regKey (r : RegName) (inst sel : Nat) : Nat := (r.ctorIdx * 8 + sel % 8) * 8192 + inst % 8192

/-- The register of a key. -/
def keyReg (k : Nat) : RegName := allRegs.getD (k / 65536) .BLK_ID

/-- The instance of a key. -/
def keyInst (k : Nat) : Nat := k % 8192

/-- The reset values of a register's fields, as one word. -/
def specReset (r : RegName) : Word :=
  BitVec.ofNat 32 (r.spec.fields.foldl (fun a f => a + f.reset * 2 ^ f.lo) 0)

/-- The reset allocation of VC `v` of port `p` (12, `LNK_Pp_VCv`). -/
def vcAllocReset (inst : Nat) : Nat :=
  if inst / 32 < 6 then (if inst % 32 = 0 then 0x20 else if inst % 32 ≤ 3 then 0x100 else 0x108) else 0x100

/-- The reset word of a register instance: the table's, and for fuses, straps, block identity and VC allocations the value
their rows name (R52, R50, R281). [DESIGN CHOICE, log 3] -/
def resetWord (r : RegName) (inst : Nat) : Word :=
  match r with
  | .BLK_ID => BitVec.ofNat 32 (0x100 + inst)
  | .GLB_SERIAL_LO => Config.serial.extractLsb' 0 32
  | .GLB_SERIAL_HI => Config.serial.extractLsb' 32 32
  | .GLB_DEVICE => 0x01018160
  | .LNK_Pp_VCv => BitVec.ofNat 32 (vcAllocReset inst)
  | r => specReset r

/-- Whether a register has a triplicated field (R43). -/
def RegName.rwv (r : RegName) : Bool := r.spec.fields.any (fun f => f.acc == .rwv)

/-- Bitwise majority of three copies (R43). -/
def majority (a b c : Word) : Word := (a &&& b) ||| (a &&& c) ||| (b &&& c)

/-- A register's value in use: the majority of its copies where it has triplicated fields (R43). -/
def RegFile.rd (f : RegFile) (r : RegName) (inst sel : Nat) : Word :=
  let k := regKey r inst sel
  let d := resetWord r inst
  if r.rwv then majority (Sparse.get d f.main k) (Sparse.get d f.copy2 k) (Sparse.get d f.copy3 k)
  else Sparse.get d f.main k

/-- Write a register: every copy (R43). -/
def RegFile.wr (f : RegFile) (r : RegName) (inst sel : Nat) (v : Word) : RegFile :=
  let k := regKey r inst sel
  let d := resetWord r inst
  if r.rwv then
    { f with main := Sparse.set d f.main k v, copy2 := Sparse.set d f.copy2 k v, copy3 := Sparse.set d f.copy3 k v }
  else { f with main := Sparse.set d f.main k v }

/-- The value of a register in use. -/
def State.rd (s : State) (r : RegName) (inst : Nat := 0) (sel : Nat := 0) : Word := s.rf.rd r inst sel

/-- Set a register. -/
def State.wr (s : State) (r : RegName) (inst sel : Nat) (v : Word) : State := { s with rf := s.rf.wr r inst sel v }

/-- A field of a register. -/
def State.fget (s : State) (f : Fld) (inst : Nat := 0) (sel : Nat := 0) : Nat := wGet (s.rd f.reg inst sel) f.hi f.lo

/-- Set a field of a register. -/
def State.fset (s : State) (f : Fld) (v : Nat) (inst : Nat := 0) (sel : Nat := 0) : State :=
  s.wr f.reg inst sel (wSet (s.rd f.reg inst sel) f.hi f.lo v)

/-- Whether a one-bit field is set. -/
def State.fbit (s : State) (f : Fld) (inst : Nat := 0) (sel : Nat := 0) : Bool := s.fget f inst sel == 1

/-- A 64-bit value held in an LO/HI pair. -/
def State.rd64 (s : State) (lo hi : RegName) (inst : Nat := 0) (sel : Nat := 0) : Nat :=
  (s.rd lo inst sel).toNat + 2 ^ 32 * (s.rd hi inst sel).toNat

/-- Set a 64-bit value held in an LO/HI pair. -/
def State.wr64 (s : State) (lo hi : RegName) (v : Nat) (inst : Nat := 0) (sel : Nat := 0) : State :=
  (s.wr lo inst sel (BitVec.ofNat 32 v)).wr hi inst sel (BitVec.ofNat 32 (v / 2 ^ 32))

/-- Set a status bit of an SQ word (R46). -/
def sqOr (w : Word) (f : Fld) : Word := wSet w f.hi f.lo (2 ^ (f.hi + 1 - f.lo) - 1)

/-- Raise a counter field of an SQ word by `n`, saturating (R46). -/
def sqCount (w : Word) (f : Fld) (n : Nat) : Word := wSet w f.hi f.lo (min (wGet w f.hi f.lo + n) (2 ^ (f.hi + 1 - f.lo) - 1))

/-- A hardware set of an SQ word: status bits set, counters raised by one with saturation, SEQ raised modulo 256 (R46). -/
def sqWord (w : Word) (bits cnts : List Fld) : Word :=
  let w := bits.foldl sqOr w
  let w := cnts.foldl (fun a f => sqCount a f 1) w
  wSet w 31 24 (wGet w 31 24 + 1)

/-- A hardware set of an SQ register (R46). -/
def State.sqSet (s : State) (r : RegName) (inst sel : Nat) (bits cnts : List Fld) : State :=
  s.wr r inst sel (sqWord (s.rd r inst sel) bits cnts)

/-- A hardware set of a block's ERR register in a view (R50). -/
def State.errSet (s : State) (block view : Nat) (bits cnts : List Fld) : State := s.sqSet .BLK_ERR block view bits cnts

/-- ACCESS_ERR in GLB_ERR of a view (R38). [DEDUCED, log 13] -/
def State.accessErr (s : State) (view : Nat) : State := s.errSet 0 view [Fld.ERR_ACCESS_ERR] []

/-- Restore every register of a reset domain that satisfies a test on key: its entries leave the file (R40). -/
def RegFile.restore (f : RegFile) (t : Nat → Bool) : RegFile :=
  { f with main := f.main.filter (fun e => !t e.1), copy2 := f.copy2.filter (fun e => !t e.1),
           copy3 := f.copy3.filter (fun e => !t e.1) }

/-! ## Free values -/

/-- Draw a free value of width `w` (log 1). [DESIGN CHOICE, log 1] -/
def State.draw (s : State) (w : Nat) : BitVec w × State :=
  (Config.freeBits w s.freeCtr, { s with freeCtr := s.freeCtr + 1 })

/-- Draw `n` free bytes. [DESIGN CHOICE, log 1] -/
def State.drawBytes (s : State) (n : Nat) : List Byte × State :=
  ((List.range n).map (fun i => Config.freeBits 8 (s.freeCtr + i)), { s with freeCtr := s.freeCtr + n })

/-! ## Ownership (R28, R291, R292) -/

/-- The image's partition entry. -/
def State.part (s : State) (p : Nat) : PartImg := s.boot.img.parts.getD p default

/-- The image's array entry. -/
def State.arrImg (s : State) (n : Nat) : ArrImg := s.boot.img.arrays.getD n { cut := 0, owner := 0xFF, pair := 0 }

/-- The owner of array, slice, engine and reduction unit `n`; 0xFF for none. -/
def State.arrOwner (s : State) (n : Nat) : Nat := (s.arrImg n).owner

/-- The arrays a partition owns. -/
def State.ownArrays (s : State) (p : Nat) : List Nat := (List.range 8).filter (fun n => s.arrOwner n == p)

/-- The partition that owns Euton port `k`; 4 for none. A lower-numbered partition takes a port named twice (R410). -/
def State.portOwner (s : State) (k : Nat) : Nat :=
  ((List.range 4).find? (fun p => (s.part p).valid && bitOf (s.part p).ports k)).getD 4

/-- Whether partition `p` owns stream `n`: west streams 0 to 511, east 512 to 1,023, from the image's ranges. -/
def State.ownsStream (s : State) (p n : Nat) : Bool :=
  let e := s.part p
  e.valid && ((e.wFirst ≤ n && n < e.wFirst + e.wCount) || (e.eFirst ≤ n && n < e.eFirst + e.eCount))

/-- Whether partition `p` owns decode engine `m`. -/
def State.ownsEngine (s : State) (p m : Nat) : Bool := (s.part p).valid && bitOf (s.part p).engines m

/-- The owner of staging buffer `b`. -/
def State.stageOwner (s : State) (b : Nat) : Nat := (s.boot.img.staging.getD b { owner := 0xFF, mib := 0 }).owner

/-- The owner of shuffle pool `k`. -/
def State.poolOwner (s : State) (k : Nat) : Nat := s.boot.img.pools.getD k 0xFF

/-- The regions of a partition. -/
def State.regions (s : State) (p : Nat) : List RegionImg := s.boot.img.regions.filter (fun r => r.valid && r.owner == p)

/-- The owner of a parallel group (R323). -/
def State.groupOwner (s : State) (g : Nat) : Nat := s.fget Fld.PER_GRPg_CTRL_OWNER g

/-- The resource index of a register instance, from its flattened index. -/
def resIndex (r : RegName) (inst : Nat) : Nat :=
  match r.spec.dims with
  | [_, (_, c)] => inst / c
  | _ => inst

/-- Whether the view of partition `p` shows a register instance (R50). -/
def State.owns (s : State) (p : Nat) (r : RegName) (inst : Nat) : Bool :=
  let i := resIndex r inst
  match r.spec.own with
  | .none => true
  | .array => s.arrOwner i == p
  | .rail => i == 8 || s.arrOwner i == p
  | .stream => s.ownsStream p i
  | .engine => s.ownsEngine p i
  | .pool => s.poolOwner i == p
  | .eport => s.portOwner i == p
  | .port => 6 ≤ i && s.portOwner (i - 6) == p
  | .group => s.groupOwner i == p
  | .stack => (s.regions p).any (fun r => r.stack == i)

/-- BURST_p in µJ (R385). -/
def State.burst (s : State) (p : Nat) : Nat := s.fget Fld.PWR_ALLOW_BURST_DJ 0 p * 100000

/-- ALLOW_W_p. -/
def State.allowW (s : State) (p : Nat) : Nat := s.fget Fld.PWR_ALLOW_ALLOW_W 0 p

/-- The boot states of `GLB_BOOT` (18). -/
def State.bootState (s : State) : Nat := s.fget Fld.GLB_BOOT_STATE

/-- READY (18). -/
def State.ready (s : State) : Bool := s.bootState == 8

end Sys2Proof.Machine
end

