-- ==== Sys2Proof/Machine/LinkTx.lean ====
section
/-! DEFINITION. The transmit side of the link layer: flits and their headers (R272), the choice of the next flit (R279),
credits spent (R280), the retry buffer (R275), control flits (R274), and FAIL (R288). -/

namespace Sys2Proof.Machine

/-- VCs of a port (R279). -/
def numVcs (p : Nat) : Nat := if p < 6 then 32 else 8

/-- Flits the retry buffer of a port holds (R275). -/
def retryCap (p : Nat) : Nat := if p < 6 then 1024 else 512

/-- The training state of a port (12). -/
def State.portState (s : State) (p : Nat) : Nat := s.fget Fld.LNK_Pp_STATE_STATE p

/-- ACTIVE (12). -/
def State.portActive (s : State) (p : Nat) : Bool := s.portState p == 6

/-- Update a port's internal state. -/
def State.setPort (s : State) (p : PortId) (x : PortSt) : State := { s with ports := vset s.ports p x }

/-- Modify a port's internal state. -/
def State.modPort (s : State) (p : PortId) (f : PortSt → PortSt) : State := s.setPort p (f (vget s.ports p))

/-- Append to the transmit log. -/
def State.emit (s : State) (o : Output) : State := { s with out := s.out ++ [o] }

/-- The header word of a flit (R272). -/
def flitHeader (kind : Nat) (som eom : Bool) (vc fseq ackseq crvc crcnt : Nat) : BitVec 64 :=
  BitVec.ofNat 64 (kind + b2n som * 2 ^ 4 + b2n eom * 2 ^ 5 + vc * 2 ^ 6 + fseq * 2 ^ 12 + ackseq * 2 ^ 24 + crvc * 2 ^ 36
    + crcnt * 2 ^ 41)

/-- A flit with its CRC-32C over bytes 0 to 251 (R272). -/
def mkFlit (h : BitVec 64) (payload : List Byte) : Flit :=
  let pl := padTo 244 payload
  { header := h, payload := pl, crc := BitVec.ofNat 32 (crc32c (leBytes 8 h.toNat ++ pl)), fecOk := true }

/-- Put one flit on the lanes: every flit carries ACKSEQ and the count of the next VC in rotation (R272, R280). -/
def State.putFlit (s : State) (p : PortId) (kind : Nat) (som eom : Bool) (vc fseq : Nat) (payload : List Byte) : State :=
  let x := vget s.ports p
  let h := flitHeader kind som eom vc fseq ((x.rxExp + 4095) % 4096) x.nextCrvc (Sparse.get 0 x.credGiven x.nextCrvc)
  (s.modPort p (fun x => { x with nextCrvc := (x.nextCrvc + 1) % numVcs p.val })).emit (.flit p (mkFlit h payload))

/-- A CTRL flit (R274). -/
def State.putCtrl (s : State) (p : PortId) (payload : List Byte) : State := s.putFlit p 2 false false 0 0 payload

/-- An IDLE flit: what goes when no other flit is ready (R271). [DESIGN CHOICE, log 103] -/
def State.putIdle (s : State) (p : PortId) : State := s.putFlit p 0 false false 0 0 []

/-- NAK naming the FSEQ the receiver expects (R274, R276). -/
def State.putNak (s : State) (p : PortId) : State :=
  s.putCtrl p (1 :: leBytes 2 (vget s.ports p).rxExp)

/-- Credits held on a VC of a port. -/
def State.avail (s : State) (p vc : Nat) : Nat := s.fget Fld.LNK_Pp_VCv_AVAIL (p * 32 + vc)

/-- Whether a VC has a flit queued and a credit. -/
def State.vcReady (s : State) (p : PortId) (vc : Nat) : Bool :=
  (vget s.ports p).txq.any (fun f => f.vc == vc) && 0 < s.avail p.val vc

/-- The VCs in the order of R279: VC0, VC1, then VC2 and VC3 in rotation, then the rest in rotation; each class keeps its own last. -/
def vcOrder (esc last n : Nat) : List Nat :=
  let rest := (List.range n).drop 4
  let rot := if esc == 2 then [3, 2] else [2, 3]
  [0, 1] ++ rot ++ rest.filter (fun v => last < v) ++ rest.filter (fun v => v ≤ last)

/-- Send the next new DATA flit, if one is ready, has its credit, and the retry buffer has room (R275, R279, R280). -/
def State.pumpOne (s : State) (p : PortId) : State :=
  let x := vget s.ports p
  if s.portActive p.val && x.retry.length < retryCap p.val then
    match (vcOrder x.lastEsc x.lastRest (numVcs p.val)).find? (fun v => s.vcReady p v) with
    | none => s
    | some vc =>
      match x.txq.find? (fun f => f.vc == vc) with
      | none => s
      | some f =>
        let s := s.fset Fld.LNK_Pp_VCv_AVAIL (s.avail p.val vc - 1) (p.val * 32 + vc)
        let s := s.putFlit p 1 f.som f.eom vc x.txSeq f.payload
        s.modPort p (fun y => { y with txq := y.txq.eraseP (fun g => g.vc == vc), retry := y.retry ++ [(x.txSeq, f)],
                                       txSeq := (x.txSeq + 1) % 4096
                                       lastEsc := if vc = 2 ∨ vc = 3 then vc else y.lastEsc, lastRest := if 4 ≤ vc then vc else y.lastRest,
                                       lastFwd := if f.fwd then NSet.insert y.lastFwd vc else NSet.erase y.lastFwd vc })
  else s

/-- Send every new DATA flit that can go. -/
def State.pump (s : State) (p : PortId) : State :=
  (List.range (vget s.ports p).txq.length).foldl (fun s _ => s.pumpOne p) s

/-- Cut a message into the flits that carry it: 244 payload bytes each, SOM on the first, EOM on the last (R272). -/
def messageFlits (vc : Nat) (fwd : Bool) (cs : List (List Byte)) : List TxFlit :=
  let cs := if cs.isEmpty then [[]] else cs
  (List.range cs.length).map (fun i =>
    { vc := vc, som := i == 0, eom := i + 1 == cs.length, fwd := fwd, payload := cs.getD i [] })

/-- Queued flits cut into messages: each ends with its EOM flit. -/
def splitMsgs : List TxFlit → List (List TxFlit)
  | [] => []
  | f :: t =>
    if f.eom then [f] :: splitMsgs t
    else match splitMsgs t with
      | [] => [[f]]
      | m :: r => (f :: m) :: r

/-- Messages of two kinds, alternating message by message, the first list first (R322). [DESIGN CHOICE, log 103] -/
def alternate : Nat → List (List TxFlit) → List (List TxFlit) → List (List TxFlit)
  | 0, a, b => a ++ b
  | _, [], b => b
  | fuel + 1, x :: a, b => x :: alternate fuel b a

/-- Queue a message's flits behind those of its VC. Forwarded messages and own messages of one VC alternate (R322); a message of
which a flit has gone stays in front. [DESIGN CHOICE, log 103] -/
def enqueue (x : PortSt) (vc : Nat) (m : List TxFlit) : PortSt :=
  let q := x.txq.filter (fun f => f.vc == vc)
  let begun := q.takeWhile (fun f => !f.som)
  let msgs := splitMsgs (q.drop begun.length) ++ [m]
  let isFwd (m : List TxFlit) : Bool := match m with | f :: _ => f.fwd | [] => false
  let own := msgs.filter (fun m => !isFwd m)
  let fwd := msgs.filter isFwd
  let lastFwd := if begun.isEmpty then NSet.mem x.lastFwd vc else isFwd begun
  let ms := if lastFwd then alternate (msgs.length + 1) own fwd else alternate (msgs.length + 1) fwd own
  { x with txq := x.txq.filter (fun f => f.vc != vc) ++ begun ++ ms.flatten }

/-- Hand a message to a port's VC: its flits queue there and go as credits allow. A port without a session holds no flit. -/
def State.sendMsg (s : State) (p : PortId) (vc : Nat) (bytes : List Byte) : State :=
  if (vget s.ports p).session || s.portActive p.val then
    (s.modPort p (fun x => enqueue x vc (messageFlits vc false (chunksOf 244 (bytes.length + 1) bytes)))).pump p
  else s

/-- Hand the flits of a message that is forwarded to a port's VC (R322). -/
def State.forwardFlits (s : State) (p : PortId) (vc : Nat) (flits : List (List Byte)) : State :=
  (s.modPort p (fun x => enqueue x vc (messageFlits vc true flits))).pump p

/-- Replay every unacknowledged flit from `fseq` in its original order; replayed flits spend no credit (R276, R280). -/
def State.replayFrom (s : State) (p : PortId) (fseq : Nat) : State :=
  let r := (vget s.ports p).retry
  let s := (r.dropWhile (fun e => e.1 != fseq)).foldl
    (fun s e => s.putFlit p 1 e.2.som e.2.eom e.2.vc e.1 e.2.payload) s
  s.pump p

/-- The port index of Euton port `k` (R268). -/
def eutPort (k : EPort) : PortId := ⟨6 + k.val, by omega⟩

/-- The port index of a peer port (R268). -/
def peerPort (p : PeerPort) : PortId := ⟨p.val, by omega⟩

/-- Three FAIL flits on a port in ACTIVE; then the port is held down with its transmitters idle, and what it held is
discarded (R287, R288). A FAILED port stays so (R289). [DEDUCED, log 49] -/
def State.failPort (s : State) (reason : Nat) (p : PortId) : State :=
  let body : List Byte := [2, BitVec.ofNat 8 reason] ++ leBytes 8 Config.serial.toNat
    ++ leBytes 2 (s.fget Fld.GLB_BOOT_BOOT_COUNT)
  let s := if s.portActive p.val then ((s.putCtrl p body).putCtrl p body).putCtrl p body else s
  let st := if s.portState p.val = 8 then 8 else 0
  let s := s.wr .LNK_Pp_STATE p.val 0 (wSet (wSet (wSet (wSet (s.rd .LNK_Pp_STATE p.val) 3 0 st) 5 4 0) 9 6 0) 17 10 0)
  s.modPort p (fun x => { x with heldFail := reason, txq := [], retry := [], openMsg := [], session := false })

/-- The mask of ports in ACTIVE. -/
def State.activeMask (s : State) : Nat :=
  (List.range 10).foldl (fun m p => if s.portActive p then m + 2 ^ p else m) 0

/-- FAIL on every port in ACTIVE; every port is then held (R288). -/
def State.failAll (s : State) (reason : Nat) : State := (List.finRange 10).foldl (fun s p => s.failPort reason p) s

end Sys2Proof.Machine
end

