-- ==== Sys2Proof/Machine/Events.lean ====
section
/-! DEFINITION. Recording an event: the record (R432), its place in the buffer or its drop (R437), the note (R301, R302), the
in-band interrupt (R459), FAULT_N and FAIL of a FATAL event (R434), and the clamp record (R49). -/

namespace Sys2Proof.Machine

/-- An event as its unit reports it: code, unit class, instance, severity (0 INFO, 1 WARN, 2 ERR, 3 FATAL), partition or
0xFF, parameters (R432, R433). -/
structure Ev where
  code : Nat
  cls  : Nat
  inst : Nat
  sev  : Nat
  part : Nat := 0xFF
  p1   : Nat := 0
  p2   : Nat := 0
  host : Bool := false
  deriving DecidableEq, Repr

/-- The next record number, `EVR_NEXT` (R439). -/
def State.evNext (s : State) : Nat := s.rd64 .EVR_NEXT_LO .EVR_NEXT_HI

/-- The record of an event: BOOT and USEC are stamped; USEC never decreases (R432, R435). -/
def State.mkRec (s : State) (e : Ev) : EvRec :=
  { num := s.evNext, code := e.code, cls := e.cls, inst := e.inst, sev := e.sev, lost := s.evr.lostNext, host := e.host,
    part := e.part, boot := s.fget Fld.GLB_BOOT_BOOT_COUNT, usec := s.usec, p1 := e.p1 % 2 ^ 64, p2 := e.p2 % 2 ^ 64 }

/-- The 32 bytes of a record (R432). -/
def EvRec.bytes (r : EvRec) : List Byte :=
  leBytes 2 r.code ++ leBytes 2 (r.cls * 256 + r.inst) ++ leBytes 1 (r.sev + b2n r.lost * 4 + b2n r.host * 8)
    ++ leBytes 1 r.part ++ leBytes 2 r.boot ++ leBytes 8 r.usec ++ leBytes 8 r.p1 ++ leBytes 8 r.p2

/-- Whether the buffer has a slot for a record of this severity: INFO while at most 3,072 slots are occupied, others while a
slot outside the reserve of 64 is free, FATAL while any slot is free (R437). -/
def evRoom (occupied sev : Nat) : Bool :=
  if sev = 0 then occupied ≤ 3072 && occupied < 4032 else if sev < 3 then occupied < 4032 else occupied < 4096

/-- Store a record or drop it; an ERR or FATAL record makes a flush due, and so do 127 waiting records (R437, R438). -/
def State.storeRec (s : State) (e : Ev) : State :=
  if evRoom s.evr.buf.length e.sev then
    let r := s.mkRec e
    let buf := s.evr.buf ++ [r]
    let s := { s with evr := { s.evr with buf := buf, lostNext := false,
                                          flushDue := s.evr.flushDue || 2 ≤ e.sev || 127 ≤ buf.length } }
    s.wr64 .EVR_NEXT_LO .EVR_NEXT_HI (r.num + 1)
  else
    let s := { s with evr := { s.evr with episode := true, dropped := s.evr.dropped + 1, lostNext := true } }
    s.sqSet .EVR_STATUS 0 0 [Fld.EVR_STATUS_LOST] [Fld.EVR_STATUS_LOST_CNT]

/-- Set FAULT_N (R454). -/
def State.setFault (s : State) (level : Bool) : State :=
  ({ s with pins := { s.pins with faultN := level } }).emit (.pin 1 level)

/-- The management core's count when an event is reported: it may have moved on by an amount the spec does not give (R435, log 9). [DESIGN CHOICE, log 9] -/
def State.stamp (s : State) : State :=
  let (d, s) := s.draw 16
  { s with usec := s.usec + d.toNat }

/-- What an event does beside its note: its record, the in-band interrupt of an ERR or FATAL record, FAULT_N on FATAL. -/
def State.eventCore (s : State) (e : Ev) : State :=
  let s := s.storeRec e
  let s := if 2 ≤ e.sev then s.emit (.ibi (BitVec.ofNat 8 (e.code / 256))) else s
  if e.sev = 3 then s.setFault false else s

/-- The lowest-numbered ACTIVE port that a partition owns (R301). [DESIGN CHOICE, log 92] -/
def State.notePort (s : State) (p : Nat) : Option EPort :=
  (List.finRange 4).find? (fun k => s.portOwner k.val == p && s.portActive (6 + k.val))

/-- The lowest-numbered port that a partition owns. [DESIGN CHOICE, log 92] -/
def State.firstPort (s : State) (p : Nat) : Option Nat := (List.range 4).find? (fun k => s.portOwner k == p)

/-- Send a NOTE or drop it (R301, R302). The flag says that this was the first drop since the counter was cleared. Either way
NSEQ counts it. [DESIGN CHOICE, log 92] -/
def State.noteRaw (s : State) (p kind : Nat) (body : List Byte) : State × Bool :=
  let n := (s.rd .EUT_NOTE_SEQ 0 p).toNat
  let s := s.wr .EUT_NOTE_SEQ 0 p (BitVec.ofNat 32 (n + 1))
  let bytes := [0x20, BitVec.ofNat 8 kind, 0, 0] ++ leBytes 4 n ++ leBytes 8 0 ++ padTo 32 body
  let drop (k : Nat) : State × Bool :=
    let first := s.fget Fld.EUT_Ek_STATUS_NOTE_DROP_CNT k == 0
    (s.sqSet .EUT_Ek_STATUS k 0 [Fld.EUT_Ek_STATUS_NOTE_DROP] [Fld.EUT_Ek_STATUS_NOTE_DROP_CNT], first)
  match s.notePort p with
  | some k =>
    if 0 < s.avail (6 + k.val) 6 then
      ((s.sendMsg (eutPort k) 6 bytes).emit (.note k.val kind n body), false)
    else drop k.val
  | none => drop ((s.firstPort p).getD 0)

/-- Send a NOTE; the first drop records EUT_NOTE_DROP (R302), whose own note would be dropped too. -/
def State.note (s : State) (p kind : Nat) (body : List Byte) : State :=
  let n := (s.rd .EUT_NOTE_SEQ 0 p).toNat
  match s.noteRaw p kind body with
  | (s, false) => s
  | (s, true) =>
    let e : Ev := { code := 0x0923, cls := 0x00, inst := 0, sev := 1, part := p, p1 := p, p2 := n }
    let s := s.stamp
    let r := s.mkRec e
    let s := s.eventCore e
    if s.fbit Fld.EUT_NOTE_CFG_EVT_EN 0 p && s.fget Fld.EUT_NOTE_CFG_EVT_SEV 0 p ≤ 1 then (s.noteRaw p 2 r.bytes).1 else s

/-- Record an event, with its KIND 0x02 note where its partition asks for it, whether or not the buffer keeps the record. -/
def State.eventNoFail (s : State) (e : Ev) : State :=
  let s := s.stamp
  let r := s.mkRec e
  let s := s.eventCore e
  if e.part < 4 && s.fbit Fld.EUT_NOTE_CFG_EVT_EN 0 e.part && s.fget Fld.EUT_NOTE_CFG_EVT_SEV 0 e.part ≤ e.sev then
    s.note e.part 2 r.bytes
  else s

/-- A transfer that a host's read of a port asked for goes on, but nobody receives its data (R303). -/
def Fetch.orphan (k : Nat) (f : Fetch) : Fetch :=
  match f.host with
  | some (q, t, a, n) => if q = k then { f with host := some (4, t, a, n) } else f
  | none => f

/-- What ends with the session of Euton port `k`: the requests its host had in flight there, and what ADAPTER_INFO said (R304). [DEDUCED, log 84] -/
def State.hostEnd (s : State) (k : Nat) : State :=
  let eut := { s.eut with hostTags := s.eut.hostTags.filter (fun e => e.1 != k), waiting := s.eut.waiting.filter (fun q => q.port.val != k) }
  let s := { s with eut := eut, tier := s.tier.map (fun (t : TierSt) => { t with fetches := t.fetches.map (Fetch.orphan k) }) }
  s.fset Fld.EUT_Ek_ADAPTER_INFO_VALID 0 k

/-- FAIL with a REASON on every port in ACTIVE, recorded once (R288): a part already held by FAIL sends nothing more. Every partition that had an ACTIVE
port has lost its host (R303). -/
def State.sendFail (s : State) (reason : Nat) : State :=
  if (List.finRange 10).all (fun p => (vget s.ports p).heldFail ≠ 0 && (vget s.ports p).heldFail ≠ 5) then s
  else
    let m := s.activeMask
    let lost := (List.range 4).filter (fun p => (s.notePort p).isSome)
    let s := (List.range 4).foldl (fun (s : State) k => s.hostEnd k) (s.failAll reason)
    let s := lost.foldl (fun (s : State) p => s.eventNoFail { code := 0x0921, cls := 0x00, inst := 0, sev := 2, part := p, p1 := p }) s
    s.eventNoFail { code := 0x0906, cls := 0x00, inst := 0, sev := 0, p1 := reason, p2 := m }

/-- Record an event; a FATAL one also sends FAIL with the given REASON (R434). -/
def State.eventFail (s : State) (e : Ev) (reason : Nat) : State :=
  let s := s.eventNoFail e
  if e.sev = 3 then s.sendFail reason else s

/-- Record an event; FATAL sends FAIL with REASON 0x04 (R434). -/
def State.event (s : State) (e : Ev) : State := s.eventFail e 4

/-! ## Clamp records (R49) -/

/-- The bytes of a clamp record (R49) as four words. -/
def clampWords (block bit width flags off req app : Nat) : List Word :=
  [BitVec.ofNat 32 (block + bit * 2 ^ 8 + width * 2 ^ 16 + flags * 2 ^ 24), BitVec.ofNat 32 off, BitVec.ofNat 32 req,
   BitVec.ofNat 32 app]

/-- Write four words of a record into a sparse report of 256 records; `base` separates the views. -/
def putRecord (l : List (Nat × Word)) (base i : Nat) (ws : List Word) : List (Nat × Word) :=
  (List.range 4).foldl (fun l j => Sparse.set 0 l (base + (i % 256) * 4 + j) (ws.getD j 0)) l

/-- Append a clamp record to the report of a view, set CLAMPED, raise CLAMP_CNT, and record GLB_REG_CLAMP (R49). -/
def State.clampRecord (s : State) (view block bit width flags off req app : Nat) : State :=
  let ws := clampWords block bit width flags off req app
  let n := s.fget Fld.GLB_CLAMP_HEAD_COUNT 0 view
  let s := { s with boot := { s.boot with clampRep := putRecord s.boot.clampRep (view * 1024) n ws } }
  let s := s.fset Fld.GLB_CLAMP_HEAD_COUNT (n + 1) 0 view
  let s := s.errSet block view [Fld.ERR_CLAMPED] [Fld.ERR_CLAMP_CNT]
  s.event { code := 0x0110, cls := 0x00, inst := 0, sev := 0, part := if view < 4 then view else 0xFF,
            p1 := (ws.getD 0 0).toNat + 2 ^ 32 * (ws.getD 1 0).toNat,
            p2 := (ws.getD 2 0).toNat + 2 ^ 32 * (ws.getD 3 0).toNat }

end Sys2Proof.Machine
end

