-- ==== Sys2Proof/Machine/Hbm.lean ====
section
/-! DEFINITION. HBM4E stacks: place of an address, correctable and uncorrectable errors, row repair, page and bank retirement,
and available capacity (R155 to R165). -/

namespace Sys2Proof.Machine

/-- The first HBM address (R31). -/
def hbmBase : Nat := 0x010000000000

/-- The end of HBM (R31). -/
def hbmEnd : Nat := 0x020000000000

/-- The first address of the T2 window (R31). -/
def t2Base : Nat := 0x020000000000

/-- The end of the T2 window (R31). -/
def t2End : Nat := 0x120000000000

/-- The end of scratchpad (R31). -/
def t0End : Nat := 0x80000000

/-- Whether an address lies in HBM. -/
def isHbm (a : Nat) : Bool := hbmBase ≤ a && a < hbmEnd

/-- Whether an address lies in the T2 window. -/
def isT2 (a : Nat) : Bool := t2Base ≤ a && a < t2End

/-- Whether an address lies in scratchpad. -/
def isT0 (a : Nat) : Bool := a < t0End

/-- The stack an HBM address names (R34). -/
def stackOf (a : Nat) : Quad := ⟨(a - hbmBase) / 0x2000000000 % 8, by omega⟩

/-- The slice a scratchpad address names (R31). -/
def sliceOf (a : Nat) : Nat := a / 0x10000000

/-- The Euton port whose sub-window a T2 address names (R31). -/
def subWindow (a : Nat) : Nat := (a - t2Base) / 0x40000000000

/-- The page of an address: 4 KiB. -/
def pageOf (a : Nat) : Nat := a / 4096

/-- The number of an HBM page within its stack. -/
def pageIn (a : Nat) : Fin 33554432 := ⟨pageOf a % 33554432, by omega⟩

/-- The bank position of a page, and its number there (R156). -/
def pageBank (n : Quad) (pg : Fin 33554432) : Nat × Nat :=
  let x := (Config.pagePlace n.val pg).val
  (x % 64, x / 64)

/-- The four pseudo-channels that hold a page, each with its row (R156). -/
def pageRows (n : Quad) (pg : Fin 33554432) : List (Nat × Nat) :=
  let b := pageBank n pg
  (List.range 4).map (fun q =>
    let pc := (Config.pcOrder n.val b.1 (b.2 % 32768) ⟨(b.2 / 32768 % 16 * 4 + q) % 64, by omega⟩).val
    (pc, (Config.rowOrder n.val pc b.1 ⟨b.2 % 32768, by omega⟩).val))

/-- The physical place of an HBM address: pseudo-channel, bank position, row (R156). -/
def placeOf (a : Nat) : RowHit :=
  let n := stackOf a
  let q := (Config.wordOrder n.val (pageIn a).val ⟨a / 64 % 64, by omega⟩).val / 16
  let x := (pageRows n (pageIn a)).getD q (0, 0)
  { pseudo := x.1, bank := (pageBank n (pageIn a)).1, row := x.2, addr := a }

/-- The same bank of a pseudo-channel. -/
def sameBank (a b : RowHit) : Bool := a.pseudo == b.pseudo && a.bank == b.bank

/-- The same row. -/
def sameRow (a b : RowHit) : Bool := sameBank a b && a.row == b.row

/-- Whether any part of the page of an address lies in a bank of its stack (R156). -/
def pageInBank (a : Nat) (h : RowHit) : Bool :=
  (pageBank (stackOf a) (pageIn a)).1 == h.bank && (pageRows (stackOf a) (pageIn a)).any (fun x => x.1 == h.pseudo)

/-- The addresses of the 32,768 pages of which a bank of a stack holds a quarter (R156). -/
def bankPages (n : Quad) (h : RowHit) : List Nat :=
  (List.range 32768).map (fun r =>
    let g := ((Config.pcOrder n.val (h.bank % 64) r).symm ⟨h.pseudo % 64, by omega⟩).val / 4
    let pg := (Config.pagePlace n.val).symm ⟨(h.bank % 64 + 64 * (r % 32768 + 32768 * (g % 16))) % 33554432, by omega⟩
    hbmBase + n.val * 0x2000000000 + pg.val * 4096)

/-- Parameter 1 of the repair events: stack, pseudo-channel, bank (R169). -/
def hitParam (n : Quad) (h : RowHit) : Nat := n.val + h.pseudo % 64 * 2 ^ 8 + h.bank % 64 * 2 ^ 16

/-- Update a stack. -/
def State.setStack (s : State) (n : Quad) (x : StackSt) : State := { s with hbm := vset s.hbm n x }

/-- The KiB of a stack that AVAIL_MIB counts (R165), before rounding: the stack less the partner's share, less 4 KiB for each
retired page outside a marked bank, less 128 MiB for each marked bank. -/
def State.availKib (s : State) (n : Quad) : Nat :=
  let x := vget s.hbm n
  if x.avail then
    134217728 - s.boot.img.torus.partnerGib * 1048576 / 8
      - 4 * (x.retired.filter (fun h => !x.banks.any (pageInBank h.addr))).length - 131072 * x.banks.length
  else 0

/-- AVAIL_MIB of a stack (R165), rounded down. -/
def State.availMib (s : State) (n : Quad) : Nat := s.availKib n / 1024

/-- AVAIL_MIB in a partition view: only its regions in the stack (R165). -/
def State.availMibPart (s : State) (p : Nat) (n : Quad) : Nat :=
  let x := vget s.hbm n
  if x.avail then
    ((s.regions p).filter (fun r => r.stack == n.val)).foldl (fun t r =>
      let lo := hbmBase + n.val * 0x2000000000 + r.start * 2 ^ 30
      let inside (a : Nat) : Bool := lo ≤ a && a < lo + r.size * 2 ^ 30
      let pages := (x.retired.filter (fun h => !x.banks.any (pageInBank h.addr) && inside h.addr)).length
      let banks := x.banks.foldl (fun t h => t + ((bankPages n h).filter inside).length) 0
      t + (r.size * 1048576 - 4 * pages - 4 * banks)) 0 / 1024
  else 0

/-- Add an entry to the repair record; an HBM or on-chip memory entry counts as a new memory error (R164, R401). -/
def State.addRepair (s : State) (e : RepairEnt) : State :=
  { s with flash := { s.flash with repair := s.flash.repair ++ [e] },
           boot := { s.boot with newErr := s.boot.newErr || (e.kind ≤ 2 || e.kind == 4 || e.kind == 7) } }

/-- An event of an HBM controller. -/
def State.hbmEvent (s : State) (n : Quad) (code sev p1 p2 : Nat) : State :=
  s.event { code := code, cls := 5, inst := n.val, sev := sev, p1 := p1, p2 := p2 }

/-- Mark a bank of a pseudo-channel for retirement (R164). -/
def State.markBank (s : State) (n : Quad) (h : RowHit) : State :=
  let x := vget s.hbm n
  if x.banks.any (sameBank · h) || 64 ≤ x.banks.length then s
  else
    let before := s.availMib n
    let s := s.setStack n { x with banks := x.banks ++ [h] }
    let s := s.addRepair { kind := 2, unit := n.val, hit := h }
    let s := s.fset Fld.HBM_STACKn_RETIRED_BANKS (x.banks.length + 1) n.val
    let s := s.sqSet .HBM_STACKn_STATUS n.val 0 [Fld.HBM_STACKn_STATUS_RETIRE] []
    s.hbmEvent n 0x0705 2 (hitParam n h) (before - s.availMib n)

/-- Retire a page (R163): it enters the row-exclude table and the repair record; a full table retires the bank instead, and
the eighth page of a bank marks the bank (R164). -/
def State.retirePage (s : State) (n : Quad) (h : RowHit) : State :=
  let x := vget s.hbm n
  let page := pageOf h.addr * 4096
  if x.retired.any (fun r => r.addr == page) then s
  else if 4096 ≤ x.retired.length then s.markBank n h
  else
    let h := { h with addr := page }
    let s := s.setStack n { x with retired := x.retired ++ [h], weak := x.weak.filter (fun r => r.addr != page) }
    let s := s.addRepair { kind := 1, unit := n.val, hit := h }
    let s := s.fset Fld.HBM_STACKn_RETIRED_PAGES (x.retired.length + 1) n.val
    let s := s.fset Fld.HBM_STACKn_RETIRED_WEAK (min 0xFFF (vget s.hbm n).weak.length) n.val
    let s := s.sqSet .HBM_STACKn_STATUS n.val 0 [Fld.HBM_STACKn_STATUS_RETIRE] []
    let s := s.hbmEvent n 0x0704 2 (hitParam n h) page
    if ((vget s.hbm n).retired.filter (sameBank · h)).length = 8 then s.markBank n h else s

/-- List a page as weak: it stays in service and retires at the next bring-up (R162). -/
def State.weakPage (s : State) (n : Quad) (h : RowHit) : State :=
  let x := vget s.hbm n
  let page := pageOf h.addr * 4096
  let listed := x.weak.any (fun r => r.addr == page)
  let s := if listed then s else
    (s.setStack n { x with weak := x.weak ++ [{ h with addr := page }] }).addRepair
      { kind := 3, unit := n.val, hit := { h with addr := page } }
  let s := s.fset Fld.HBM_STACKn_RETIRED_WEAK (min 0xFFF (vget s.hbm n).weak.length) n.val
  s.hbmEvent n 0x0703 1 (hitParam n h) h.row

/-- A correctable error at a word: the corrected word is returned, CE_CNT rises once, and the write-back clears it (R158). -/
def State.wordCe (s : State) (w : Nat) : State :=
  let n := stackOf (w * 64)
  let s := { s with mem := { s.mem with errs := Sparse.erase s.mem.errs w } }
  s.sqSet .HBM_STACKn_STATUS n.val 0 [] [Fld.HBM_STACKn_STATUS_CE_CNT]

/-- A 64-byte word is poisoned: UE is set and HBM_UE recorded (R159). -/
def State.poisonWord (s : State) (w : Nat) : State :=
  let a := w * 64
  let n := stackOf a
  let s := { s with mem := { s.mem with poison := NSet.insert s.mem.poison w, errs := Sparse.erase s.mem.errs w } }
  let s := s.sqSet .HBM_STACKn_STATUS n.val 0 [Fld.HBM_STACKn_STATUS_UE] []
  let s := { s with boot := { s.boot with newErr := true } }
  s.hbmEvent n 0x0701 2 (n.val + (placeOf a).pseudo % 64 * 2 ^ 8) a

/-- A soft repair reads the words of the row with correction and writes them back (R162). -/
def State.repairRead (s : State) (h : RowHit) : State :=
  (s.mem.errs.filter (fun e => stackOf (e.1 * 64) == stackOf h.addr && sameRow (placeOf (e.1 * 64)) h)).foldl (fun (s : State) e =>
    if e.2 ≤ 1 then s.wordCe e.1 else s.poisonWord e.1) s

/-- Act on a candidate row (R162): soft repair to the bank's free spare; otherwise retire the page on an uncorrectable error
and list it as weak on correctable ones. -/
def State.rowCandidate (s : State) (n : Quad) (h : RowHit) (ue : Bool) : State :=
  let x := vget s.hbm n
  let spareUsed := x.repaired.any (sameBank · h)
  if spareUsed then (if ue then s.retirePage n h else s.weakPage n h)
  else
    let s := (s.setStack n { x with repaired := x.repaired ++ [h] }).repairRead h
    let s := s.addRepair { kind := 0, unit := n.val, hit := h }
    let s := s.sqSet .HBM_STACKn_STATUS n.val 0 [Fld.HBM_STACKn_STATUS_REPAIR] []
    s.hbmEvent n 0x0702 1 (hitParam n h) h.row

/-- Whether an HBM address lies on a retired page (R163), or on a page of a bank that bring-up has excluded (R164, R402). -/
def State.retiredAt (s : State) (a : Nat) : Bool :=
  isHbm a && ((vget s.hbm (stackOf a)).retired.any (fun h => pageOf h.addr == pageOf a)
    || (vget s.hbm (stackOf a)).excluded.any (pageInBank a))

/-- Whether a range touches a retired page or a page of an excluded bank. -/
def State.retiredIn (s : State) (a len : Nat) : Bool :=
  decide (0 < len) && ((List.finRange 8).any (fun n => (vget s.hbm n).retired.any (fun h =>
      isHbm h.addr && pageOf a ≤ pageOf h.addr && pageOf h.addr ≤ pageOf (a + len - 1)))
    || ((List.finRange 8).any (fun n => !(vget s.hbm n).excluded.isEmpty)
        && (List.range (pageOf (a + len - 1) + 1 - pageOf a)).any (fun i => s.retiredAt ((pageOf a + i) * 4096))))

/-- An uncorrectable error at a 64-byte word: it is poisoned, UE and HBM_UE once per word, and its row becomes a repair
candidate (R159, R162). -/
def State.wordUe (s : State) (w : Nat) : State :=
  if NSet.mem s.mem.poison w then { s with mem := { s.mem with errs := Sparse.erase s.mem.errs w } }
  else (s.poisonWord w).rowCandidate (stackOf (w * 64)) (placeOf (w * 64)) true

end Sys2Proof.Machine
end

