-- ==== Sys2Proof/Machine/Ops.lean ====
section
/-! DEFINITION. The named operations over device memory (R30 to R34, R157 to R163, R472): ownership and range checks, reads
with poison, writes that merge, and the state of locks. -/

namespace Sys2Proof.Machine

/-! ## Ownership of addresses -/

/-- The address intervals of scratchpad that a partition owns (R31, R292). -/
def State.ownedT0 (s : State) (p : Nat) : List (Nat × Nat) :=
  (s.ownArrays p).map (fun n => (n * 0x10000000, (n + 1) * 0x10000000))

/-- The address intervals of HBM that a partition owns. -/
def State.ownedT1 (s : State) (p : Nat) : List (Nat × Nat) :=
  (s.regions p).map (fun r =>
    let b := hbmBase + r.stack * 0x2000000000 + r.start * 2 ^ 30
    (b, b + r.size * 2 ^ 30))

/-- The installed T2 memory behind a Euton port, 0 until ADAPTER_INFO arrives (R33, R304). -/
def State.t2Installed (s : State) (k : Nat) : Nat :=
  if s.fbit Fld.EUT_Ek_ADAPTER_INFO_VALID k then s.fget Fld.EUT_Ek_ADAPTER_DDR_GIB k * 2 ^ 30 else 0

/-- The address intervals of the T2 window that a partition owns and that are mapped. -/
def State.ownedT2 (s : State) (p : Nat) : List (Nat × Nat) :=
  ((List.range 4).filter (fun k => s.portOwner k == p)).map (fun k =>
    let b := t2Base + k * 0x40000000000
    (b, b + s.t2Installed k))

/-- Whether intervals cover the addresses from `a` up to `e`. -/
def covers (ivs : List (Nat × Nat)) : Nat → Nat → Nat → Bool
  | 0, a, e => decide (e ≤ a)
  | fuel + 1, a, e =>
    if e ≤ a then true
    else match ivs.find? (fun i => i.1 ≤ a && a < i.2) with
      | none => false
      | some i => covers ivs fuel i.2 e

/-- Whether a partition owns a range of T0 and T1, all of it mapped. -/
def State.ownsT01 (s : State) (p a len : Nat) : Bool :=
  let ivs := s.ownedT0 p ++ s.ownedT1 p
  covers ivs (ivs.length + 1) a (a + len)

/-- Whether a partition owns a range of device memory, all of it mapped (R30, R33). -/
def State.ownsMem (s : State) (p a len : Nat) : Bool :=
  let ivs := s.ownedT0 p ++ s.ownedT1 p ++ s.ownedT2 p
  covers ivs (ivs.length + 1) a (a + len)

/-! ## Bytes -/

/-- What an unlisted byte of memory reads as: the spec leaves it undefined after bring-up (R399, log 2). [DESIGN CHOICE, log 2] -/
def memDefault : Byte := 0

/-- One byte of device memory, at the address itself. -/
def State.cell (s : State) (a : Nat) : Byte :=
  if isT2 a then (Sparse.find s.mem.t2 a).getD (Config.t2Byte a) else Sparse.get memDefault s.mem.cells a

/-- Go on after an operation with a status: the first status that is not 0 stands. -/
def seqSt (x : State × Nat) (f : State → State × Nat) : State × Nat :=
  let y := f x.1
  (y.1, if x.2 = 0 then y.2 else x.2)

/-- An operation with a status on each of a list. -/
def foldSt {α : Type} (l : List α) (f : State → α → State × Nat) (s : State) : State × Nat :=
  l.foldl (fun x a => seqSt x (fun s => f s a)) (s, 0)

/-- The end of an object's home range: its size rounded up to whole pages (R129). -/
def TierObj.last (o : TierObj) : Nat := o.home + ceilTo o.size 4096

/-- The copy that an access by a unit of slice `u` (8: a unit of no slice) to an address inside an object resolves to (R135): the T0 copy of a
mutable object; for a read of a read-only one its T0 copy in that slice, else its T1 copy; a write of a read-only object reaches its home
(R132). A copy under construction is not resolved to. [DEDUCED, log 74] -/
def TierObj.copyAt (o : TierObj) (u : Nat) (write : Bool) (a : Nat) : Option Nat :=
  if o.valid = true ∧ o.home ≤ a ∧ a < o.last then
    let building := o.state == 1 || o.state == 4
    (if !o.ro then (if building then none else o.t0)
      else if write then none
      else if building then (if o.target = 2 then o.t1 else none)
      else if o.slice = u ∧ o.t0.isSome = true then o.t0 else o.t1).map (fun b => b + (a - o.home))
  else none

/-- The objects of the partitions in unified mode; flagged mode has no copies (R138). -/
def State.liveObjs (s : State) : List TierObj :=
  (List.finRange 4).flatMap (fun p => if s.fget Fld.TIER_CFG_MODE 0 p.val = 0 then (vget s.tier p).objs.map (·.2) else [])

/-- The address an access resolves to (R135). -/
def State.resolve (s : State) (a : Nat) (u : Nat := 8) (write : Bool := false) : Nat :=
  (s.liveObjs.findSome? (fun o => o.copyAt u write a)).getD a

/-- One byte of device memory as a unit reads it (R135). -/
def State.byte (s : State) (a : Nat) (u : Nat := 8) : Byte := s.cell (s.resolve a u)

/-- `len` bytes of device memory as a unit reads them. -/
def State.bytes (s : State) (a len : Nat) (u : Nat := 8) : List Byte := (List.range len).map (fun i => s.byte (a + i) u)

/-- Cut a range at rising addresses inside it. -/
def cutAt (a e : Nat) : List Nat → List (Nat × Nat)
  | [] => [(a, e - a)]
  | x :: t => if a < x ∧ x < e then (a, x - a) :: cutAt x e t else cutAt a e t

/-- A range cut at the edges of objects, so that each piece resolves as a whole. -/
def State.pieces (s : State) (a len : Nat) : List (Nat × Nat) :=
  cutAt a (a + len) (s.liveObjs.foldl (fun l o => if o.valid then NSet.insert (NSet.insert l o.home) o.last else l) [])

/-- `len` bytes of device memory at the addresses themselves. -/
def State.cells (s : State) (a len : Nat) : List Byte := (List.range len).map (fun i => s.cell (a + i))

/-- Set one byte of T0 or T1. -/
def State.putByte (s : State) (a : Nat) (b : Byte) : State :=
  { s with mem := { s.mem with cells := Sparse.set memDefault s.mem.cells a b } }

/-- The memory is in canonical form: addresses strictly rising, no entry equal to what an unlisted byte reads as. -/
def MemSt.wf (m : MemSt) : Bool := Sparse.wf (fun _ => memDefault) m.cells

/-- The 64-byte words that a range touches. -/
def wordsOf (a len : Nat) : Nat × Nat := (a / 64, if len = 0 then a / 64 else (a + len - 1) / 64 + 1)

/-- The words of a range that are listed in a set. -/
def wordsIn (l : List Nat) (a len : Nat) : List Nat :=
  l.filter (fun w => (wordsOf a len).1 ≤ w && w < (wordsOf a len).2)

/-- Whether a range of memory reads as poisoned: a poisoned word or a retired page. Pages of the T2 window are judged where they are
brought (R147). -/
def State.poisoned (s : State) (a len : Nat) : Bool := !(wordsIn s.mem.poison a len).isEmpty || s.retiredIn a len

/-- What reading a word in error finds (R157): an error of one symbol is corrected, any other is uncorrectable. -/
def State.readErr (s : State) (w : Nat) : State :=
  match Sparse.find s.mem.errs w with
  | none => s
  | some n => if n ≤ 1 then s.wordCe w else s.wordUe w

/-- The errors that a read of a range finds (R157 to R159): correctable ones are counted, uncorrectable ones poison. [DEDUCED, log 23] -/
def State.touch (s : State) (a len : Nat) : State :=
  (wordsIn (s.mem.errs.map (·.1)) a len).foldl (fun s w => s.readErr w) s

/-- Read a range at its own addresses: the bytes, and whether any of it is poisoned (R159). -/
def State.readPhys (s : State) (a len : Nat) : (List Byte × Bool) × State :=
  let s := s.touch a len
  ((s.cells a len, s.poisoned a len), s)

/-- Read a range as a unit of slice `u` does, piece by piece (R135). -/
def State.readMem (s : State) (a len : Nat) (u : Nat := 8) : (List Byte × Bool) × State :=
  (s.pieces a len).foldl (fun acc r =>
    let x := acc.2.readPhys (acc.2.resolve r.1 u) r.2
    ((acc.1.1 ++ x.1.1, acc.1.2 || x.1.2), x.2)) (([], false), s)

/-- The words of a range that a write covers only in part: at most the first and the last (R472). -/
def partWords (a len : Nat) : List Nat :=
  (if a % 64 ≠ 0 ∧ len ≠ 0 then [a / 64] else []) ++
  (if (a + len) % 64 ≠ 0 ∧ len ≠ 0 ∧ ((a + len) / 64 ≠ a / 64 ∨ a % 64 = 0) then [(a + len) / 64] else [])

/-- Write bytes to T0 or T1; nothing reaches the T2 window (R128). Words written in part are read first, with the checks of R157; a poisoned one keeps its contents
and its poison; a word written whole loses its poison; bytes of a retired page are discarded (R159, R163, R472). The status is
0, HBM_UE or HBM_RETIRED. -/
def State.writePhys (s : State) (a : Nat) (data : List Byte) : State × Nat :=
  let len := data.length
  let parts := if isHbm a then partWords a len else []
  let s := parts.foldl (fun s w => s.touch (w * 64) 64) s
  let blocked := parts.filter (fun w => NSet.mem s.mem.poison w)
  let ok (x : Nat) : Bool := !blocked.contains (x / 64) && !s.retiredAt x && !isT2 x
  let cells := (List.range len).foldl (fun c i => if ok (a + i) then Sparse.set memDefault c (a + i) (data.getD i 0) else c)
    s.mem.cells
  let full (w : Nat) : Bool := (wordsOf a len).1 ≤ w && w < (wordsOf a len).2 && !parts.contains w && !s.retiredAt (w * 64)
  let mem := { s.mem with cells := cells, poison := s.mem.poison.filter (fun w => !full w),
                          errs := s.mem.errs.filter (fun e => !full e.1) }
  ({ s with mem := mem }, if s.retiredIn a len then 0x0702 else if blocked.isEmpty then 0 else 0x0701)

/-- Write a range as a unit does, piece by piece (R135). The status is the first one that is not 0. -/
def State.writeMem (s : State) (a : Nat) (data : List Byte) : State × Nat :=
  (s.pieces a data.length).foldl (fun acc r =>
    let x := acc.1.writePhys (acc.1.resolve r.1 8 true) ((data.drop (r.1 - a)).take r.2)
    (x.1, if acc.2 = 0 then x.2 else acc.2)) (s, 0)

/-- Count granted bytes of a traffic class (P0 to P3, then SYS) in the window of the stack an address names (R160). -/
def State.grant (s : State) (cls a len : Nat) : State :=
  if isHbm a then
    let n := stackOf a
    let x := vget s.hbm n
    let c : Fin 5 := ⟨cls % 5, by omega⟩
    s.setStack n { x with grants := vset x.grants c (vget x.grants c + len) }
  else s

/-- The bytes that a stack can grant in a window (R160): 3,072 per ns over 1 µs. -/
def windowBytes : Nat := 3072000

/-- The part of the window, in percent, that all classes together may be granted: the hot limit (R166) and the memory limit of the power
manager (R387). -/
def State.totalPct (s : State) (n : Quad) : Nat :=
  min s.pwr.hbmLimit (if 2 ≤ s.fget Fld.HBM_STACKn_TEMP_STATE n.val then s.fget Fld.HBM_THERM_CFG_HOT_BW_PCT else 100)

/-- Whether a class waits for the next window of a stack (R160, R166): its cap, or the limit on all classes, has been reached. -/
def State.windowFull (s : State) (n : Quad) (cls : Fin 5) : Bool :=
  let g := (vget s.hbm n).grants
  decide (s.fget Fld.HBM_REGc_Sn_CAP_PCT (5 * n.val + cls.val) * windowBytes ≤ 100 * vget g cls)
    || (decide (s.totalPct n < 100) && decide (s.totalPct n * windowBytes ≤ 100 * (List.finRange 5).foldl (fun t c => t + vget g c) 0))

/-- Whether a class has had more than its share beside another class that is below its cap (R160): bandwidth goes by WEIGHT. -/
def State.overShare (s : State) (n : Quad) (cls other : Fin 5) : Bool :=
  let g := (vget s.hbm n).grants
  let w (c : Fin 5) : Nat := s.fget Fld.HBM_REGc_Sn_WEIGHT (5 * n.val + c.val)
  !s.windowFull n other && decide (vget g other * w cls < vget g cls * w other)

/-- Whether a range, given by first and end, meets the partner region: the top of every stack (R152). -/
def State.inPartner (s : State) (r : Nat × Nat) : Bool :=
  let q := s.fget Fld.TIER_PARTNER_PARTNER_GIB / 8
  q != 0 && (List.range 8).any (fun n =>
    r.1 < hbmBase + (n + 1) * 0x2000000000 && hbmBase + n * 0x2000000000 + (128 - q) * 2 ^ 30 < r.2)

/-- Read a range for a traffic class, by a unit of slice `u`. -/
def State.readAs (s : State) (cls a len : Nat) (u : Nat := 8) : (List Byte × Bool) × State :=
  (s.grant cls (s.resolve a u) len).readMem a len u

/-- Write a range for a traffic class. -/
def State.writeAs (s : State) (cls a : Nat) (data : List Byte) : State × Nat :=
  (s.grant cls (s.resolve a 8 true) data.length).writeMem a data

/-- Write a range that has undefined contents: `len` free bytes. [DESIGN CHOICE, log 1] -/
def State.scramble (s : State) (a len : Nat) : State :=
  let (bs, s) := s.drawBytes len
  (s.writeMem a bs).1

/-! ## Locks (R66, R67) -/

/-- The value of lock `k` of partition `p`. -/
def State.lock (s : State) (p k : Nat) : Nat := (s.rd .CMD_LOCK_VAL_k k p).toNat

/-- Add to a lock: a sum above 0xFFFF_FFFF saturates, sets LOCK_SAT and records CMD_LOCK_SAT (R66). -/
def State.lockAdd (s : State) (p k v : Nat) : State :=
  let sum := s.lock p k + v
  if sum < 2 ^ 32 then s.wr .CMD_LOCK_VAL_k k p (BitVec.ofNat 32 sum)
  else
    let s := s.wr .CMD_LOCK_VAL_k k p 0xFFFFFFFF
    let s := s.sqSet .CMD_STATUS 0 p [Fld.CMD_STATUS_LOCK_SAT] []
    s.event { code := 0x0207, cls := 0, inst := 0, sev := 1, part := p, p1 := k }

/-- Set a lock (R67). -/
def State.lockSet (s : State) (p k v : Nat) : State := s.wr .CMD_LOCK_VAL_k k p (BitVec.ofNat 32 v)

end Sys2Proof.Machine
end

