-- ==== Sys2Proof/Machine/RegAccess.lean ====
section
/-! DEFINITION. Register accesses: which register an address names in a requester's view (R29, R38, R39, R50, R51), LO/HI
pairs (R41, R42), range checks and clamps (R48, R49), and clears of SQ registers (R47). -/

namespace Sys2Proof.Machine

/-! ## Addresses -/

/-- The flattened instance that an offset from a template's first instance names, if any. -/
def matchDims : List (Nat × Nat) → Nat → Option Nat
  | [], d => if d = 0 then some 0 else none
  | (st, c) :: t, d =>
    if d / st < c then
      (matchDims t (d % st)).map (fun j => d / st * (t.foldl (fun m e => m * e.2) 1) + j)
    else none

/-- The offset of an instance from its template's first instance. -/
def dimsOffset : List (Nat × Nat) → Nat → Nat
  | [], _ => 0
  | (st, _) :: t, i =>
    let m := t.foldl (fun m e => m * e.2) 1
    i / m * st + dimsOffset t (i % m)

/-- The offset of a register instance within its block. -/
def regOffset (r : RegName) (inst : Nat) : Nat :=
  match r with
  | .BLK_ID => 0
  | .BLK_ERR => 4
  | r => r.spec.off + dimsOffset r.spec.dims inst

/-- The block of a register instance. -/
def regBlock (r : RegName) (inst : Nat) : Nat :=
  match r with
  | .BLK_ID => inst
  | .BLK_ERR => inst
  | r => r.spec.block

/-- The register and instance at an offset of a block whose scope satisfies a test. -/
def findReg (ok : Scope → Bool) (b o : Nat) : Option (RegName × Nat) :=
  if o = 0 then (if ok .view then some (.BLK_ID, b) else none)
  else if o = 4 then (if ok .view then some (.BLK_ERR, b) else none)
  else
    (allRegs.drop 2).findSome? (fun r =>
      let sp := r.spec
      if sp.block = b ∧ ok sp.scope = true ∧ sp.off ≤ o then
        match matchDims sp.dims (o - sp.off) with
        | some i => if r = .LNK_Pp_VCv ∧ 192 ≤ i ∧ 8 ≤ i % 32 then none else some (r, i)
        | none => none
      else none)

/-- What a register-space address names for a requester. -/
inductive Target where
  /-- A register: its home. -/
  | reg (r : RegName) (inst sel : Nat)
  /-- A word of the clamp report of a view (R49). -/
  | clampRec (view word : Nat)
  /-- A word of the structure report (R412). -/
  | structRec (word : Nat)
  /-- A word of the report window of a view (R430). -/
  | report (view word : Nat)
  /-- A register that the view does not show: it reads zero and ignores writes (R50, R7). -/
  | hidden
  /-- The instance, at another partition's place in the global window, of a resource which that partition does not own: it reads zero, and
  P0 does not write it (R50, R51, R293). -/
  | elsewhere
  /-- No register, or outside the requester's reach (R38, R39). -/
  | bad
  deriving DecidableEq, Repr

/-- Whether the effective feature set disables a block (R7, R407): the video path is blocks 9 to 12. -/
def State.blockOff (s : State) (b : Nat) : Bool := 9 ≤ b && b ≤ 12 && !s.fbit Fld.GLB_FEATURES_VIDEO

/-- The record windows (R49, R412, R430). -/
def windowAt (view b o : Nat) : Option Target :=
  if b = 0 ∧ 0x1000 ≤ o ∧ o < 0x2000 then some (.clampRec view ((o - 0x1000) / 4))
  else if b = 0 ∧ 0x2000 ≤ o ∧ o < 0x3000 ∧ view = 4 then some (.structRec ((o - 0x2000) / 4))
  else if b = 19 ∧ 0x10000 ≤ o ∧ o < 0x20000 then some (.report view ((o - 0x10000) / 4))
  else none

/-- What an offset of a block names in the view of partition `p` (R50, R51). -/
def State.targetPart (s : State) (p b o : Nat) : Target :=
  match windowAt p b o with
  | some t => t
  | none =>
    match findReg (fun sc => sc != .glob) b o with
    | none => .bad
    | some (r, i) =>
      if s.blockOff b ∧ r ≠ .BLK_ERR then .hidden
      else match r.spec.scope with
        | .part => if s.owns p r i then .reg r i p else .hidden
        | .view => .reg r i (if r = .BLK_ID then 0 else p)
        | .owned => if s.owns p r i then .reg r i 0 else .hidden
        | .shown => if s.owns p r i then .reg r i 0 else .hidden
        | .glob => .bad

/-- What an offset of a block names in the global window (R51): registers of global scope and of the global view at their
own offset, the instances of partition-scope registers at 0x2_0000 times the partition. -/
def State.targetGlob (s : State) (b o : Nat) : Target :=
  match windowAt 4 b o with
  | some t => t
  | none =>
    let t : Target :=
      match findReg (fun sc => sc == .glob || sc == .shown || sc == .view) b o with
      | some (r, i) => Target.reg r i (if r.spec.scope = Scope.view ∧ r ≠ RegName.BLK_ID then 4 else 0)
      | none =>
        if o < 0x80000 then
          match findReg (fun sc => sc == .part || sc == .owned) b (o % 0x20000) with
          | some (r, i) =>
            let p := o / 0x20000
            if r.spec.scope = Scope.part then .reg r i p
            else if s.owns p r i then .reg r i 0 else if p = 0 then .hidden else .elsewhere
          | none => .bad
        else .bad
    match t with
    | .reg r i sel => if s.blockOff b ∧ r ≠ RegName.BLK_ERR then .hidden else .reg r i sel
    | t => t

/-- The base of the global register window (R29). -/
def globBase : Nat := 0x0F0000000000

/-- The base of the view of partition `p` (R29). -/
def viewBase (p : Nat) : Nat := 0x0F1000000000 + p * 0x01000000

/-- The block and offset of an address within a view, and the view: 4 for the global window. -/
def locate (r : Requester) (addr : Nat) : Option (Nat × Nat × Nat) :=
  let globOk := match r with | .part p => p.val == 0 | .mgc => true
  if globBase ≤ addr ∧ addr < globBase + 23 * 0x100000 ∧ globOk = true then
    some (4, (addr - globBase) / 0x100000, (addr - globBase) % 0x100000)
  else
    match r with
    | .mgc => none
    | .part p =>
      if viewBase p.val ≤ addr ∧ addr < viewBase p.val + 23 * 0x80000 then
        some (p.val, (addr - viewBase p.val) / 0x80000, (addr - viewBase p.val) % 0x80000)
      else none

/-- The view that reports a bad access (R38): the global view for P0 anywhere in the global window and for the management core, otherwise the
requester's own. [DEDUCED, log 13] -/
def errView (r : Requester) (addr : Nat) : Nat :=
  match r with
  | .part p => if p.val = 0 ∧ globBase ≤ addr ∧ addr < viewBase 0 then 4 else p.val
  | .mgc => 4

/-- What an aligned 32-bit access to an address reaches, and the view in which its errors are reported (R38): the global
view for P0 in the global window and for the management core, otherwise the requester's own. In ROM recovery only the SEC
block answers (R424). -/
def State.target (s : State) (r : Requester) (addr : Nat) : Target × Nat :=
  match locate r addr with
  | none => (.bad, errView r addr)
  | some (view, b, o) =>
    if addr % 4 ≠ 0 then (.bad, view)
    else if s.boot.recovery ∧ b ≠ 19 then (.bad, view)
    else ((if view = 4 then s.targetGlob b o else s.targetPart view b o), view)

/-! ## Pairs (R41, R42) -/

/-- The key of a requester's shadow or staging word of a pair, by the key of its LO register. -/
def pairKey (req : Nat) (lo : RegName) (inst sel : Nat) : Nat := req * 2 ^ 32 + regKey lo inst sel

/-- A requester's shadow of a pair; zero until its first read of LO (R41). -/
def State.shadow (s : State) (req : Nat) (lo : RegName) (inst sel : Nat) : Word :=
  Sparse.get 0 s.rf.shadow (pairKey req lo inst sel)

/-- Latch a shadow (R41). [DEDUCED, log 79] -/
def State.latch (s : State) (req : Nat) (lo : RegName) (inst sel : Nat) (v : Word) : State :=
  { s with rf := { s.rf with shadow := Sparse.set 0 s.rf.shadow (pairKey req lo inst sel) v } }

/-- Stage a low word (R42). -/
def State.stage (s : State) (req : Nat) (lo : RegName) (inst sel : Nat) (v : Word) : State :=
  { s with rf := { s.rf with staged := Sparse.insert s.rf.staged (pairKey req lo inst sel) v } }

/-- The staged low word, or the low word in force (R42). -/
def State.stagedOr (s : State) (req : Nat) (lo : RegName) (inst sel : Nat) : Word :=
  (Sparse.find s.rf.staged (pairKey req lo inst sel)).getD (s.rd lo inst sel)

/-- Drop a staging word after its commit (R42). -/
def State.unstage (s : State) (req : Nat) (lo : RegName) (inst sel : Nat) : State :=
  { s with rf := { s.rf with staged := Sparse.erase s.rf.staged (pairKey req lo inst sel) } }

/-! ## Range checks (R48) -/

/-- The legal value a field takes for a requested one: the nearest legal number, rounded down to the step; the reset value
for an undefined encoding (R48). -/
def rangeFix (f : FieldSpec) (v : Nat) : Nat :=
  match f.range with
  | .full => v
  | .num lo hi st => let x := if v < lo then lo else if hi < v then hi else v; if st ≤ 1 then x else x / st * st
  | .enum l => if l.contains v then v else f.reset

/-- Whether software writes a field's value into the register. -/
def FieldSpec.writable (f : FieldSpec) : Bool := f.acc == .rw || f.acc == .rwv

/-- The word after each writable field took its requested value, range-checked by itself (R48). -/
def rangeWord (r : RegName) (old req : Word) : Word :=
  r.spec.fields.foldl (fun w f => if f.writable then wSet w f.hi f.lo (rangeFix f (wGet req f.hi f.lo)) else w) old

/-- The word that a register takes from an image: its fields, each in its range; reserved bits stay 0 (R11, R48). -/
def imageWord (r : RegName) (w : Word) : Word :=
  r.spec.fields.foldl (fun a f => wSet a f.hi f.lo (rangeFix f (wGet w f.hi f.lo))) 0

/-- Put the word of an image into a register. -/
def State.wrImage (s : State) (r : RegName) (inst sel : Nat) (w : Word) : State := s.wr r inst sel (imageWord r w)

/-- The clamps of a write: the fields whose applied value differs from the requested one, with the cross-field flag where the
field's own range allowed the requested value. -/
def clampsOf (r : RegName) (req own app : Word) : List (FieldSpec × Nat × Nat × Bool) :=
  (r.spec.fields.filter (fun f => f.writable && wGet req f.hi f.lo != wGet app f.hi f.lo)).map (fun f =>
    (f, wGet req f.hi f.lo, wGet app f.hi f.lo, wGet req f.hi f.lo == wGet own f.hi f.lo))

/-- Record the clamps of a write in the report of a view (R49). -/
def State.recordClamps (s : State) (view : Nat) (r : RegName) (inst : Nat) (flags : Nat)
    (cs : List (FieldSpec × Nat × Nat × Bool)) : State :=
  cs.foldl (fun s c => s.clampRecord view (regBlock r inst) c.1.lo (c.1.hi + 1 - c.1.lo) (flags + b2n c.2.2.2 * 2)
    (regOffset r inst) c.2.1 c.2.2.1) s

/-- A write of a register: each field is range-checked and clamped for the phase of bring-up (R399), then the cross-field rule of the
register applies, the applied word is stored and each clamp recorded (R48, R49). -/
def State.phaseWrite (s : State) (view : Nat) (r : RegName) (inst sel : Nat) (req : Word) (phase cross : Word → Word) : State :=
  let own := phase (rangeWord r (s.rd r inst sel) req)
  let app := cross own
  (s.wr r inst sel app).recordClamps view r inst 0 (clampsOf r req own app)

/-- A write of a register that no phase of bring-up restricts. -/
def State.fieldWrite (s : State) (view : Nat) (r : RegName) (inst sel : Nat) (req : Word) (cross : Word → Word) : State :=
  s.phaseWrite view r inst sel req id cross

/-- ENABLE, in bit 0, stays 0 until READY (R399). [DEDUCED, log 105] -/
def State.untilReady (s : State) (w : Word) : Word := if s.ready then w else wSet w 0 0 0

/-- The writable bits of a register. -/
def writeMask (r : RegName) : Word := (r.spec.fields.filter FieldSpec.writable).foldl (fun m f => m ||| wMask f.hi f.lo) 0

/-- The width of the field that the HI half of a pair holds. -/
def pairTop (hi : RegName) : Nat := (hi.spec.fields.filter FieldSpec.writable).foldl (fun n f => max n (f.hi + 1)) 0

/-- The requested value of the field a pair holds: its writable bits, as one value (R42, R48). -/
def pairReq (lo hi : RegName) (l v : Word) : Nat := (l &&& writeMask lo).toNat + 2 ^ 32 * (v &&& writeMask hi).toNat

/-- The two records of a clamped pair (R48): LO with width 32, then HI with the remaining width. -/
def State.pairClamp (s : State) (view : Nat) (lo hi : RegName) (inst flags req app : Nat) : State :=
  if req = app then s
  else
    let s := s.clampRecord view (regBlock lo inst) 0 32 flags (regOffset lo inst) (req % 2 ^ 32) (app % 2 ^ 32)
    s.clampRecord view (regBlock hi inst) 0 (pairTop hi) flags (regOffset hi inst) (req / 2 ^ 32) (app / 2 ^ 32)

/-- Commit a pair as one value: the applied value is stored and a clamp recorded (R42, R48). -/
def State.pairPut (s : State) (view : Nat) (lo hi : RegName) (inst sel flags req app : Nat) : State :=
  (s.wr64 lo hi app inst sel).pairClamp view lo hi inst flags req app

/-- A write that keeps the values in force and records a clamp for every field it would have changed (R399, R445). -/
def State.keepWrite (s : State) (view : Nat) (r : RegName) (inst sel : Nat) (req : Word) : State :=
  let old := s.rd r inst sel
  s.recordClamps view r inst 0 (clampsOf r req (rangeWord r old req) old)

/-! ## SQ clears (R46, R47) -/

/-- The counter fields of an SQ register: every field wider than one bit below SEQ. -/
def sqCounters (r : RegName) : List FieldSpec := r.spec.fields.filter (fun f => f.acc == .sq && f.hi ≠ f.lo && f.lo < 24 && !(r == .BLK_ERR && f.lo == 0))

/-- The status bits of an SQ register. -/
def sqBits (r : RegName) : List FieldSpec :=
  match r with
  | .BLK_ERR => (List.range 4).map (fun i => { hi := i, lo := i, acc := .sq, reset := 0, range := .full })
  | r => r.spec.fields.filter (fun f => f.acc == .sq && f.hi = f.lo)

/-- Whether a register is sequence-clear. -/
def isSq (r : RegName) : Bool := r.spec.fields.any (fun f => f.acc == .sq)

/-- The word after a clear that matches: status bits written as 1 clear and every counter is zero; SEQ stays (R47). -/
def sqCleared (r : RegName) (w v : Word) : Word :=
  let w := (sqBits r).foldl (fun w f => if wGet v f.hi f.lo = 1 then wSet w f.hi f.lo 0 else w) w
  (sqCounters r).foldl (fun w f => wSet w f.hi f.lo 0) w

/-- A write-back to an SQ register: applied when its SEQ is the current one, otherwise SEQ_MISS is set in the block's ERR of
the view of the write (R47). -/
def State.sqClearAt (s : State) (view : Nat) (r : RegName) (inst sel : Nat) (v : Word) : State :=
  let w := s.rd r inst sel
  if wGet v 31 24 = wGet w 31 24 then s.wr r inst sel (sqCleared r w v)
  else s.errSet (regBlock r inst) view [Fld.ERR_SEQ_MISS] []

end Sys2Proof.Machine
end

