-- ==== Sys2Proof/Machine/Flags.lean ====
section
/-! DEFINITION. The status flags that results raise: scaling and conversion (R203, R206, R213), permutations and empty reductions
(R252, R258), the codes that count as zero, saturated or non-finite (R229, R473). -/

namespace Sys2Proof.Machine

/-- MX_NAN_BLOCK once for each MX block written with scale 0xFF (R203). -/
def State.nanBlocks (s : State) (p n : Nat) : State :=
  (List.range n).foldl (fun s _ =>
    s.sqSet .NUM_ARITH_STATUS 0 p [Fld.NUM_ARITH_STATUS_MX_NAN_BLOCK] [Fld.NUM_ARITH_STATUS_MX_NAN_CNT]) s

/-- SR_INF: a stochastic rounding produced ±∞ (R213). -/
def State.srInf (s : State) (p : Nat) : State := s.sqSet .NUM_ARITH_STATUS 0 p [Fld.NUM_ARITH_STATUS_SR_INF] []

/-- SCALE_CLAMP and NUM_SCALE_CLAMP: an exponent was clamped (R206). -/
def State.scaleClamp (s : State) (p tid : Nat) (e : Int) : State :=
  let s := s.sqSet .NUM_ARITH_STATUS 0 p [Fld.NUM_ARITH_STATUS_SCALE_CLAMP] [Fld.NUM_ARITH_STATUS_SCALE_CLAMP_CNT]
  s.event { code := 0x0440, cls := 0x00, inst := 0, sev := 1, part := p, p1 := tid, p2 := ofSigned 64 e }

/-- PERM_OOR of an engine (R252). -/
def State.permOor (s : State) (e : Nat) : State := s.sqSet .VEC_Vn_STATUS e 0 [Fld.VEC_Vn_STATUS_PERM_OOR] []

/-- EMPTY of a reduction unit (R258). [DESIGN CHOICE, log 61] -/
def State.rduEmpty (s : State) (e : Nat) : State := s.sqSet .RDU_Vn_STATUS e 0 [Fld.RDU_Vn_STATUS_EMPTY] [Fld.RDU_Vn_STATUS_EMPTY_CNT]

/-- An empty result that no command or RGET counts (R258). -/
def State.rduNone (s : State) (e : Nat) : State := s.sqSet .RDU_Vn_STATUS e 0 [Fld.RDU_Vn_STATUS_EMPTY] []

/-- Whether an element code is ±0 (R229). -/
def codeZero (dt c : Nat) : Bool :=
  match ffmt dt with
  | some f => c % 2 ^ (f.eb + f.mb) == 0
  | none => c == 0

/-- The ledger counts of one written value, AMAX among the finite FP32 values: source value, whether its code is ±0, its class (R229, R473). [DEDUCED, log 66] -/
def LedRec.count (r : LedRec) (v : FVal) (zero : Bool) (cls : Nat) : LedRec :=
  let am := match v with | .fin _ m e => if f32Fmt.beyond v then (r.amaxM, r.amaxE) else maxMag (r.amaxM, r.amaxE) (m, e) | _ => (r.amaxM, r.amaxE)
  { r with elements := r.elements + 1, zeros := r.zeros + b2n zero, sat := r.sat + b2n (cls == 1),
           nonfin := r.nonfin + b2n (cls == 2), amaxM := am.1, amaxE := am.2 }

end Sys2Proof.Machine
end

