-- ==== Sys2Proof/Machine/Torus.lean ====
section
/-! DEFINITION. The peer torus (R310 to R326): coordinates and the remap table, the dead table and its notices, routes and VCs,
messages sent and forwarded, groups and epochs. -/

namespace Sys2Proof.Machine

/-! ## Coordinates (R310 to R312) -/

/-- A coordinate as a register holds it: x in [5:0], y in [11:6], z in [17:12]. -/
def coordNum (c : Coord) : Nat := c.x % 64 + c.y % 64 * 64 + c.z % 64 * 4096

/-- The coordinate of such a number. -/
def coordOf (n : Nat) : Coord := { x := n % 64, y := n / 64 % 64, z := n / 4096 % 64 }

/-- One coordinate by dimension: 0 X, 1 Y, 2 Z. -/
def coordGet (c : Coord) (d : Nat) : Nat := match d with | 0 => c.x | 1 => c.y | _ => c.z

/-- A coordinate with one dimension replaced. -/
def coordSet (c : Coord) (d v : Nat) : Coord :=
  match d with | 0 => { c with x := v } | 1 => { c with y := v } | _ => { c with z := v }

/-- The physical extents (R311). -/
def State.extP (s : State) : Coord :=
  { x := s.fget Fld.PER_TOPO_DXLX, y := s.fget Fld.PER_TOPO_DYLY, z := s.fget Fld.PER_TOPO_DZLZ }

/-- The logical extents (R311). -/
def State.extL (s : State) : Coord :=
  { x := s.fget Fld.PER_LTOPO_DXLX, y := s.fget Fld.PER_LTOPO_DYLY, z := s.fget Fld.PER_LTOPO_DZLZ }

/-- The part's own physical coordinate. -/
def State.ownP (s : State) : Coord := coordOf (s.rd .PER_COORD).toNat

/-- Whether a coordinate lies within extents. -/
def coordIn (c e : Coord) : Bool := c.x < e.x && c.y < e.y && c.z < e.z

/-- Whether remap entry `i` is valid. -/
def State.remapValid (s : State) (i : Nat) : Bool := s.fbit Fld.PER_REMAPi_L_VALID i

/-- The logical coordinate of remap entry `i`. -/
def State.remapLog (s : State) (i : Nat) : Nat := s.fget Fld.PER_REMAPi_L_LOGICAL i

/-- The physical coordinate of remap entry `i`. -/
def State.remapPhys (s : State) (i : Nat) : Nat := s.fget Fld.PER_REMAPi_P_PHYSICAL i

/-- The valid entries of the remap table. -/
def State.remaps (s : State) : List Nat := (List.range 64).filter s.remapValid

/-- The physical coordinate of a logical one: a valid entry, else the same values (R312). -/
def State.toPhys (s : State) (l : Coord) : Coord :=
  match s.remaps.find? (fun i => s.remapLog i == coordNum l) with
  | some i => coordOf (s.remapPhys i)
  | none => l

/-- The logical coordinate that maps to a physical one; none is a spare (R312). -/
def State.toLog (s : State) (p : Coord) : Option Coord :=
  match s.remaps.find? (fun i => s.remapPhys i == coordNum p) with
  | some i => some (coordOf (s.remapLog i))
  | none =>
    if coordIn p s.extL && !s.remaps.any (fun i => s.remapLog i == coordNum p) then some p else none

/-- The part's own logical coordinate; none on a spare. -/
def State.ownL (s : State) : Option Coord := s.toLog s.ownP

/-! ## Remap writes (R313) -/

/-- Whether a physical coordinate is already named, the logical coordinate `l` of entry `i` being left out. -/
def State.physNamed (s : State) (i l p : Nat) : Bool :=
  s.remaps.any (fun j => j != i && s.remapPhys j == p)
    || (coordIn (coordOf p) s.extL && p != l && !s.remaps.any (fun j => j != i && s.remapLog j == p))

/-- Whether a write of `PER_REMAPi_L` with this logical coordinate may hold VALID (R313). -/
def State.remapLOk (s : State) (i l : Nat) : Bool :=
  coordIn (coordOf l) s.extL && !s.remaps.any (fun j => j != i && s.remapLog j == l)
    && coordIn (coordOf (s.remapPhys i)) s.extP && !s.physNamed i l (s.remapPhys i)

/-- Whether a physical coordinate may be written into valid entry `i` (R313). -/
def State.remapPOk (s : State) (i p : Nat) : Bool := coordIn (coordOf p) s.extP && !s.physNamed i (s.remapLog i) p

/-- A write of `PER_REMAPi_L` (R313). -/
def State.remapLWrite (s : State) (i : Nat) (v : Word) : State :=
  s.fieldWrite 4 .PER_REMAPi_L i 0 v
    (fun w => if wGet w 31 31 = 1 && !s.remapLOk i (wGet w 17 0) then wSet w 31 31 0 else w)

/-- A write of `PER_REMAPi_P` (R313). -/
def State.remapPWrite (s : State) (i : Nat) (v : Word) : State :=
  s.fieldWrite 4 .PER_REMAPi_P i 0 v
    (fun w => if s.remapValid i && !s.remapPOk i (wGet w 17 0) then s.rd .PER_REMAPi_P i else w)

/-! ## Dead table (R314 to R316) -/

/-- The physical coordinates in the dead table. -/
def State.deads (s : State) : List Nat :=
  ((List.range 64).filter (fun i => s.fbit Fld.PER_DEADi_VALID i)).map (fun i => s.fget Fld.PER_DEADi_COORD i)

/-- Whether a physical coordinate is in the dead table. -/
def State.isDead (s : State) (c : Coord) : Bool := s.deads.contains (coordNum c)

/-- An event of the peer torus. -/
def State.perEvent (s : State) (code sev p1 p2 : Nat) : State :=
  s.event { code := code, cls := 0x00, inst := 0, sev := sev, p1 := p1, p2 := p2 }

/-- Add a coordinate to the dead table with AUTO = 1; a full table sets DEAD_FULL (R314). The flag says that it was stored. [DESIGN CHOICE, log 91] -/
def State.deadAdd (s : State) (c : Coord) (how : Nat) : State × Bool :=
  match (List.range 64).find? (fun i => !s.fbit Fld.PER_DEADi_VALID i) with
  | some i =>
    let s := s.wr .PER_DEADi i 0 (BitVec.ofNat 32 (coordNum c + 2 ^ 30 + 2 ^ 31))
    let s := s.sqSet .PER_STATUS 0 0 [Fld.PER_STATUS_DEAD_ADD] []
    (s.perEvent 0x0940 0 (coordNum c) how, true)
  | none =>
    let s := s.sqSet .PER_STATUS 0 0 [Fld.PER_STATUS_DEAD_FULL] []
    (s.perEvent 0x0943 2 (coordNum c) 0, false)

/-- The 16 bytes of a DEAD_NOTICE (R316). -/
def deadBytes (m : DeadMsg) : List Byte :=
  [4, BitVec.ofNat 8 (min m.hops 255), BitVec.ofNat 8 m.coord.x, BitVec.ofNat 8 m.coord.y, BitVec.ofNat 8 m.coord.z, 0]
    ++ leBytes 2 m.boot ++ leBytes 8 m.serial

/-- Send a control message on VC0 of a peer port: one flit (R316, R319). -/
def State.sendCtl (s : State) (p : PeerPort) (body : List Byte) : State :=
  (s.sendMsg (peerPort p) 0 (padTo 244 body)).emit (.peerCtl p.val body)

/-- Send a DEAD_NOTICE on every ACTIVE peer port except one (R314). -/
def State.sendDead (s : State) (m : DeadMsg) (but : Nat) : State :=
  (List.finRange 6).foldl (fun s p =>
    if p.val ≠ but ∧ s.portActive p.val = true then s.sendCtl p (deadBytes m) else s) s

/-- The physical coordinate of the neighbour behind a peer port (R310). -/
def State.neighbour (s : State) (p : Nat) : Coord :=
  let d := p / 2
  let e := max 1 (coordGet s.extP d)
  let x := coordGet s.ownP d
  coordSet s.ownP d (if p % 2 = 0 then (x + 1) % e else (x + e - 1) % e)

/-- Software removes an entry by writing VALID = 0 (R315). -/
def State.deadRemove (s : State) (i : Nat) : State := s.wr .PER_DEADi i 0 (wSet (wSet (s.rd .PER_DEADi i) 31 31 0) 30 30 0)

/-- PER_DEAD_REMOVE (R315). -/
def execPerDeadRemove (i : GroupId) (s : State) : Host.Outcome State Fault Refusal := .next (s.deadRemove i.val)

/-- A write of `PER_DEADi` by software: a value with VALID = 0 removes the entry; an entry that was not valid is software's own. -/
def State.deadWrite (s : State) (i : Nat) (v : Word) : State :=
  if wGet v 31 31 = 0 then
    let s := s.fieldWrite 4 .PER_DEADi i 0 v id
    s.deadRemove i
  else s.fieldWrite 4 .PER_DEADi i 0 v id

/-! ## Routes (R317, R318, R320) -/

/-- Whether every part from hop 1 to hop `n` of a leg is alive; `up` is the + direction. -/
def legFree (dead : Nat → Bool) (e src : Nat) (up : Bool) (n : Nat) : Bool :=
  (List.range n).all (fun k => !dead (if up then (src + k + 1) % e else (src + e - (k + 1) % e) % e))

/-- The direction of a leg: `none` when both are blocked; otherwise whether the leg exists and whether it goes −. -/
def legDir (dead : Nat → Bool) (e src dst : Nat) : Option (Bool × Bool) :=
  let d := (dst + e - src % e) % e
  if d = 0 then some (false, false)
  else
    let p := legFree dead e src true d
    let m := legFree dead e src false (e - d)
    if p && (d ≤ e - d || !m) then some (true, false) else if m then some (true, true) else none

/-- The legs of a class in order: dimension and the coordinate from which its line starts (R317). -/
def legOrder (zyx : Bool) : List Nat := if zyx then [2, 1, 0] else [0, 1, 2]

/-- The directions of a class from `src` to `dst`, as (dimension, goes −) for each leg that exists; none when blocked (R317). -/
def classRoute (dead : Coord → Bool) (ext src dst : Coord) (zyx : Bool) : Option (List (Nat × Bool)) :=
  ((legOrder zyx).foldl (fun (acc : Option (Coord × List (Nat × Bool))) d =>
    match acc with
    | none => none
    | some (at_, legs) =>
      match legDir (fun v => dead (coordSet at_ d v)) (max 1 (coordGet ext d)) (coordGet at_ d) (coordGet dst d) with
      | none => none
      | some (has, neg) => some (coordSet at_ d (coordGet dst d), if has then legs ++ [(d, neg)] else legs))
    (some (src, []))).map (·.2)

/-- The ROUTE byte (R321). -/
def routeByte (zyx : Bool) (legs : List (Nat × Bool)) : Nat :=
  b2n zyx + legs.foldl (fun t l => if l.2 then t + 2 ^ (l.1 + 1) else t) 0

/-- Whether a flit that has come on a leg from `src` to `here` and now leaves `here` has crossed the dateline after this hop
(R320). -/
def crossed (e src here : Nat) (neg : Bool) : Bool :=
  if neg then src < here || here == 0 else here < src || here + 1 == e

/-- The output port and VC for a message at `here`: the first dimension of its class in which `here` differs from its destination,
in the direction ROUTE names, on the lower or upper VC of the pair (R320, R322). None at the destination. -/
def nextHop (ext : Coord) (h : RouteHdr) (here : Coord) (pair : Nat) : Option (Nat × Nat) :=
  match (legOrder (bitOf h.route 0)).find? (fun d => coordGet here d != coordGet h.dst d) with
  | none => none
  | some d =>
    let neg := bitOf h.route (d + 1)
    some (2 * d + b2n neg, pair + b2n (crossed (coordGet ext d) (coordGet h.src d) (coordGet here d) neg))

/-- The lower VC of a group's dateline pair (R323). -/
def State.groupPair (s : State) (g : Nat) : Nat := 4 + 2 * s.fget Fld.PER_GRPg_CTRL_PAIR g

/-- The 16 bytes of a routing header (R321). -/
def routeBytes (h : RouteHdr) : List Byte :=
  [BitVec.ofNat 8 h.mtype, BitVec.ofNat 8 h.route, BitVec.ofNat 8 h.group, 0,
   BitVec.ofNat 8 h.dst.x, BitVec.ofNat 8 h.dst.y, BitVec.ofNat 8 h.dst.z, 0,
   BitVec.ofNat 8 h.src.x, BitVec.ofNat 8 h.src.y, BitVec.ofNat 8 h.src.z, 0] ++ leBytes 4 h.epoch

/-- The classes and pairs tried for a message, in order (R318). -/
def State.classes (s : State) (group : Nat) : List (Bool × Nat) :=
  if group < 64 then [(false, s.groupPair group), (true, 2)] else [(true, 2)]

/-- The route a message takes from this part: its class, the lower VC of its pair and its legs; none when every class is blocked. -/
def State.route (s : State) (group : Nat) (dst : Coord) : Option (Bool × Nat × List (Nat × Bool)) :=
  (s.classes group).findSome? (fun c =>
    (classRoute s.isDead s.extP s.ownP dst c.1).map (fun legs => (c.1, c.2, legs)))

/-- Send a routed message (R318, R321); the flag says that it had a route. `group` is 0xFF for no group. A message whose every
class is blocked sets UNREACH and records PER_UNREACH. -/
def State.sendRouted (s : State) (group mtype : Nat) (dst : Coord) (body : List Byte) : State × Bool :=
  match s.route group dst with
  | none =>
    let s := s.sqSet .PER_STATUS 0 0 [Fld.PER_STATUS_UNREACH] [Fld.PER_STATUS_UNREACH_CNT]
    (s.perEvent 0x0941 1 (coordNum dst) (mtype + group * 256), false)
  | some (zyx, pair, legs) =>
    let h : RouteHdr := { mtype := mtype, route := routeByte zyx legs, group := group, dst := dst, src := s.ownP,
                          epoch := if group < 64 then s.fget Fld.PER_GRPg_EPOCH_EPOCH group else 0 }
    match nextHop s.extP h s.ownP pair with
    | none => (s, true)
    | some (port, vc) =>
      let s := s.sendMsg ⟨port % 10, by omega⟩ vc (routeBytes h ++ body)
      (s.emit (.peer port vc h body), true)

/-! ## Forwarding (R322) -/

/-- A message on its way to another part (R322): it leaves on its leg's port, or is dropped where that port is not ACTIVE. -/
def State.forward (s : State) (h : RouteHdr) (vc : Nat) (flits : List (List Byte)) : State :=
  match nextHop s.extP h s.ownP (vc - vc % 2) with
  | none => s
  | some (port, out) =>
    if s.portActive port then
      let s := s.wr64 .PER_FWD_LO .PER_FWD_HI (s.rd64 .PER_FWD_LO .PER_FWD_HI + flits.length)
      s.forwardFlits ⟨port % 10, by omega⟩ out flits
    else
      let s := s.sqSet .PER_STATUS 0 0 [Fld.PER_STATUS_DROP] [Fld.PER_STATUS_DROP_CNT]
      s.perEvent 0x0942 1 port (coordNum h.dst + h.group * 2 ^ 24)

/-- MESSAGE_FORWARD (R322). -/
def execMessageForward (h : RouteHdr) (vc : Nat) (flits : List (List Byte)) (s : State) : Host.Outcome State Fault Refusal :=
  .next (s.forward h vc flits)

/-! ## Groups (R323 to R325) -/

/-- The register of a group for a dimension. -/
def grpReg (d : Nat) : RegName := match d with | 0 => .PER_GRPg_X | 1 => .PER_GRPg_Y | _ => .PER_GRPg_Z

/-- BASE, STRIDE and COUNT of a group in a dimension. -/
def State.grpDim (s : State) (g d : Nat) : Nat × Nat × Nat :=
  let w := s.rd (grpReg d) g
  (wGet w 5 0, wGet w 11 6, wGet w 18 12)

/-- COUNT of a group in a dimension. -/
def State.grpCount (s : State) (g d : Nat) : Nat := (s.grpDim g d).2.2

/-- Members of a group (R324). -/
def State.grpSize (s : State) (g : Nat) : Nat := s.grpCount g 0 * s.grpCount g 1 * s.grpCount g 2

/-- Whether a group is ACTIVE. -/
def State.grpActive (s : State) (g : Nat) : Bool := s.fbit Fld.PER_GRPg_CTRL_ACTIVE g

/-- The index of a coordinate along a dimension of a group. -/
def State.grpIndex (s : State) (g d v : Nat) : Option Nat :=
  let (b, st, n) := s.grpDim g d
  let e := max 1 (coordGet s.extL d)
  (List.range n).find? (fun i => (b + i * st) % e == v)

/-- The rank of a logical coordinate in a group: x fastest, then y, then z (R323). -/
def State.rankOf (s : State) (g : Nat) (l : Coord) : Option Nat :=
  match s.grpIndex g 0 l.x, s.grpIndex g 1 l.y, s.grpIndex g 2 l.z with
  | some i, some j, some k => some (i + s.grpCount g 0 * (j + s.grpCount g 1 * k))
  | _, _, _ => none

/-- The part's own rank in a group; none when it is not a member. -/
def State.ownRank (s : State) (g : Nat) : Option Nat := s.ownL.bind (s.rankOf g)

/-- The coordinate of index `i` along a dimension of a group. -/
def State.grpAt (s : State) (g d i : Nat) : Nat :=
  let (b, st, _) := s.grpDim g d
  (b + i * st) % max 1 (coordGet s.extL d)

/-- The logical coordinate of a rank (R323). -/
def State.memberAt (s : State) (g r : Nat) : Coord :=
  let n := max 1 (s.grpCount g 0)
  let m := max 1 (s.grpCount g 1)
  { x := s.grpAt g 0 (r % n), y := s.grpAt g 1 (r / n % m), z := s.grpAt g 2 (r / n / m) }

/-- The collective buffer shares of the ACTIVE groups other than one, in MiB (R324). -/
def State.otherShares (s : State) (g : Nat) : Nat :=
  ((List.range 64).filter (fun h => h != g && s.grpActive h)).foldl (fun t h => t + s.fget Fld.COL_GRPg_CFG_BUF_MIB h) 0

/-- The cross-field rule of a group's X, Y or Z register (R324). -/
def State.grpDimCross (s : State) (g d : Nat) (w : Word) : Word :=
  let e := max 1 (coordGet s.extL d)
  let b := min (wGet w 5 0) (e - 1)
  let st := if wGet w 11 6 % e = 0 then 1 else wGet w 11 6 % e
  let n := min (wGet w 18 12) (e / Nat.gcd st e)
  let others := ((List.range 3).filter (· != d)).foldl (fun t k => t * s.grpCount g k) 1
  let n := if 65536 < n * others then 1 else n
  wSet (wSet (wSet w 5 0 b) 11 6 st) 18 12 n

/-- ACTIVE of a group is refused where its PAIR is held by another active group, its OWNER is not VALID, or the shares exceed 64 MiB (R324). -/
def State.grpActiveCross (s : State) (g : Nat) (w : Word) : Word :=
  if wGet w 0 0 = 1 then
    let pairTaken := (List.range 64).any (fun h => h != g && s.grpActive h && s.fget Fld.PER_GRPg_CTRL_PAIR h == wGet w 4 1)
    let ownerBad := !(s.part (wGet w 6 5)).valid
    if pairTaken || ownerBad || 64 < s.fget Fld.COL_GRPg_CFG_BUF_MIB g + s.otherShares g then wSet w 0 0 0 else w
  else w

/-- The cross-field rule of `PER_GRPg_CTRL` (R324): while the group is ACTIVE, PAIR and OWNER keep the values in force. -/
def State.grpCtrlCross (s : State) (g : Nat) (w : Word) : Word :=
  if s.grpActive g then wSet w 6 1 (wGet (s.rd .PER_GRPg_CTRL g) 6 1) else s.grpActiveCross g w

/-- A write of a group register through the global window: word 0 to 2 the dimensions, word 3 CTRL (R324). -/
def State.grpWrite (s : State) (g word : Nat) (v : Word) : State :=
  if word = 3 then s.fieldWrite 4 .PER_GRPg_CTRL g 0 v (s.grpCtrlCross g)
  else if s.grpActive g then s.keepWrite 4 (grpReg word) g 0 v
  else s.fieldWrite 4 (grpReg word) g 0 v (s.grpDimCross g word)

/-- Whether a requester writes registers of global scope: P0 and the management core (R29). -/
def globalWriter : Requester → Bool
  | .part p => p.val == 0
  | .mgc => true

/-- PER_GRP_WRITE (R324): a write through a partition view is ignored. -/
def execPerGrpWrite (r : Requester) (g : GroupId) (word : Fin 4) (v : Word) (s : State) : Host.Outcome State Fault Refusal :=
  .next (if globalWriter r then s.grpWrite g.val word.val v else s)

/-- The epoch of a group. -/
def State.epoch (s : State) (g : Nat) : Nat := s.fget Fld.PER_GRPg_EPOCH_EPOCH g

/-- Whether a destination takes a group message; otherwise it counts it (R325). -/
def State.epochCheck (s : State) (h : RouteHdr) : State × Bool :=
  if 64 ≤ h.group then (s, true)
  else
    let g := h.group
    let bump (f : Fld) : State := s.fset f (s.fget f g + 1) g
    if (s.ownRank g).isNone || h.epoch < s.epoch g then (bump Fld.PER_GRPg_DISC_STALE_CNT, false)
    else if s.epoch g < h.epoch then (bump Fld.PER_GRPg_DISC_AHEAD_CNT, false)
    else (s, true)

/-- Whether a command's GROUP passes PER_GROUP: ACTIVE and owned by its partition (R324). -/
def State.groupOk (s : State) (p g : Nat) : Bool := s.grpActive g && s.groupOwner g == p

end Sys2Proof.Machine
end

