-- ==== Sys2Proof/Machine/Operands.lean ====
section
/-! DEFINITION. Tensor operands: descriptors (R63), packing and addresses (R201), MX and per-tensor scales (R202, R204), reading
a tensor's elements, and writing an output with its conversion and its ledger counts (R203, R208, R229, R473). -/

namespace Sys2Proof.Machine

/-! ## Descriptors (R63) -/

/-- The fields of a descriptor's 64 bytes. -/
def parseDesc (addr : Nat) (b : List Byte) : TDesc :=
  { base := fieldAt b 0 8, dtype := fieldAt b 8 1, rank := fieldAt b 9 1, flags := fieldAt b 10 2, tid := fieldAt b 12 4,
    dims := (List.range 4).map (fun i => fieldAt b (16 + 4 * i) 4),
    stride := (List.range 3).map (fun i => fieldAt b (32 + 4 * i) 4), scale := fieldAt b 48 8, addr := addr }

/-- An extent of a descriptor. -/
def TDesc.dim (d : TDesc) (i : Nat) : Nat := d.dims.getD i 1

/-- DFLAGS.RO. -/
def TDesc.ro (d : TDesc) : Bool := bitOf d.flags 0

/-- DFLAGS.MX_AXIS. -/
def TDesc.mxAxis (d : TDesc) : Nat := d.flags / 2 % 2

/-- DFLAGS.LEDGER. -/
def TDesc.ledger (d : TDesc) : Bool := bitOf d.flags 2

/-- Whether a descriptor's fields meet R63 (R469 step 5b). -/
def descFieldsOk (d : TDesc) (b : List Byte) : Bool :=
  fieldAt b 60 4 == crc32c (b.take 60) && dtypeOk d.dtype && 1 ≤ d.rank && d.rank ≤ 4 && d.dims.all (fun n => n != 0)
    && (List.range 4).all (fun i => i < d.rank || d.dim i == 1) && d.base % 64 == 0 && d.flags < 8
    && fieldAt b 44 4 == 0 && fieldAt b 56 4 == 0

/-- Whether extents and strides meet the packing rule (R201). -/
def packOk (d : TDesc) : Bool :=
  let m := if dtBits d.dtype = 4 then 2 else if dtBits d.dtype = 6 then 4 else 1
  d.dim 0 % m == 0 && d.stride.all (fun n => n % m == 0)

/-! ## Addresses (R201, R202) -/

/-- An element's position: its four indices. -/
abbrev Ix := Nat × Nat × Nat × Nat

/-- The indices of a linear index (R214). -/
def TDesc.unlin (d : TDesc) (n : Nat) : Ix :=
  let a := max 1 (d.dim 0)
  let b := max 1 (d.dim 1)
  let c := max 1 (d.dim 2)
  (n % a, n / a % b, n / a / b % c, n / a / b / c)

/-- The linear index of a position: strides play no part (R214). -/
def TDesc.lin (d : TDesc) (i : Ix) : Nat := i.1 + d.dim 0 * (i.2.1 + d.dim 1 * (i.2.2.1 + d.dim 2 * i.2.2.2))

/-- Elements of a tensor. -/
def TDesc.count (d : TDesc) : Nat := d.dim 0 * d.dim 1 * d.dim 2 * d.dim 3

/-- The element offset of a position: strides in elements. -/
def TDesc.off (d : TDesc) (i : Ix) : Nat :=
  i.1 + d.stride.getD 0 0 * i.2.1 + d.stride.getD 1 0 * i.2.2.1 + d.stride.getD 2 0 * i.2.2.2

/-- The first bit of a position's element, counted from BASE: elements are packed little-endian (R201). -/
def TDesc.bitPos (d : TDesc) (i : Ix) : Nat := d.off i * dtBits d.dtype

/-- The bytes from BASE that hold a tensor's elements. -/
def TDesc.extent (d : TDesc) : Nat :=
  ceilDiv ((d.off (d.dim 0 - 1, d.dim 1 - 1, d.dim 2 - 1, d.dim 3 - 1) + 1) * dtBits d.dtype) 8

/-- The rows of a tensor as byte ranges: DIM0 is contiguous. -/
def TDesc.rows (d : TDesc) : List (Nat × Nat) :=
  (List.range (d.dim 1 * d.dim 2 * d.dim 3)).map (fun r =>
    let i : Ix := (0, r % max 1 (d.dim 1), r / max 1 (d.dim 1) % max 1 (d.dim 2), r / max 1 (d.dim 1) / max 1 (d.dim 2))
    (d.base + d.bitPos i / 8, ceilDiv (d.dim 0 * dtBits d.dtype) 8))

/-- The bytes of an MX scale tensor (R202). -/
def TDesc.scaleCount (d : TDesc) : Nat :=
  if d.mxAxis = 0 then ceilDiv (d.dim 0) 32 * d.dim 1 * d.dim 2 * d.dim 3
  else d.dim 0 * ceilDiv (d.dim 1) 32 * d.dim 2 * d.dim 3

/-- The index of a position's scale in the MX scale tensor (R202). -/
def TDesc.scaleIx (d : TDesc) (i : Ix) : Nat :=
  if d.mxAxis = 0 then i.1 / 32 + ceilDiv (d.dim 0) 32 * (i.2.1 + d.dim 1 * (i.2.2.1 + d.dim 2 * i.2.2.2))
  else i.1 + d.dim 0 * (i.2.1 / 32 + ceilDiv (d.dim 1) 32 * (i.2.2.1 + d.dim 2 * i.2.2.2))

/-- The bytes that SCALE names. -/
def TDesc.scaleBytes (d : TDesc) : Nat := if isMx d.dtype then d.scaleCount else if takesScaleWord d.dtype then 16 else 0

/-! ## Scale words (R204) -/

/-- The exponent of a DEQ word 2^e. -/
def deqExp (w : Nat) : Int := (w / 2 ^ 23 % 256 : Nat) - (127 : Int)

/-- Whether a scale word meets R204: DEQ = 2^e with −64 ≤ e ≤ 64, reserved fields zero. -/
def scaleWordOk (b : List Byte) : Bool :=
  let w := fieldAt b 0 4
  w % 2 ^ 23 == 0 && w < 2 ^ 31 && 63 ≤ w / 2 ^ 23 && w / 2 ^ 23 ≤ 191 && fieldAt b 4 2 < 2 && fieldAt b 6 2 == 0
    && fieldAt b 12 4 == 0

/-- The exponent that a captured scale word applies to a DTYPE's elements: none without a scale word. -/
def scaleExp (dt w : Nat) : Int := if takesScaleWord dt then deqExp w else 0

/-! ## Reading -/

/-- The code at a bit position from a base, in memory as `rd` reads it. -/
def codeFrom (rd : Nat → Byte) (base bit width : Nat) : Nat :=
  bitsOf (leNat ((List.range (ceilDiv (bit % 8 + width) 8)).map (fun i => rd (base + bit / 8 + i)))) (bit % 8 + width - 1) (bit % 8)

/-- The code of an element, in memory as `rd` reads it. -/
def TDesc.codeFrom (d : TDesc) (rd : Nat → Byte) (i : Ix) : Nat := Machine.codeFrom rd d.base (d.bitPos i) (dtBits d.dtype)

/-- The real value of an element, in memory as `rd` reads it, its scale applied (R202, R204); `deq` is the scale word captured at step 4. -/
def TDesc.valFrom (d : TDesc) (rd : Nat → Byte) (deq : Nat) (i : Ix) : FVal :=
  let c := d.codeFrom rd i
  if isMx d.dtype then mxElem d.dtype (rd (d.scale + d.scaleIx i)).toNat c
  else (decodeElem d.dtype c).scale (scaleExp d.dtype deq)

/-- The code of an element. -/
def State.elemCode (s : State) (d : TDesc) (i : Ix) (u : Nat := 8) : Nat := d.codeFrom (fun a => s.byte a u) i

/-- The real value of an element as a unit of slice `u` reads it. -/
def State.elemVal (s : State) (d : TDesc) (deq : Nat) (i : Ix) (u : Nat := 8) : FVal := d.valFrom (fun a => s.byte a u) deq i

/-- Every row of a tensor, then the MX scales: first address and bytes. -/
def TDesc.reads (d : TDesc) : List (Nat × Nat) := d.rows ++ (if isMx d.dtype then [(d.scale, d.scaleCount)] else [])

/-- Read a tensor for a traffic class, by a unit of slice `u`; the status is 0 or HBM_UE where something is poisoned (R159). -/
def State.fetchTensor (s : State) (cls : Nat) (d : TDesc) (u : Nat := 8) : State × Nat :=
  d.reads.foldl (fun a r =>
    let (x, s) := a.1.readAs cls r.1 r.2 u
    (s, if x.2 then 0x0701 else a.2)) (s, 0)

/-- Read several tensors; the first failure stands. -/
def State.fetchTensors (s : State) (cls : Nat) (ds : List TDesc) (u : Nat := 8) : State × Nat :=
  ds.foldl (fun a d => let (s, st) := a.1.fetchTensor cls d u; (s, if a.2 = 0 then st else a.2)) (s, 0)

/-! ## Writing -/

/-- Bytes to write, by address, in the order they arise. A code narrower than a byte is merged into the byte as it stands. -/
def State.putCode (s : State) (acc : List (Nat × Byte)) (base bit width code : Nat) : List (Nat × Byte) :=
  if width % 8 = 0 then
    acc ++ (List.range (width / 8)).map (fun j => (base + bit / 8 + j, BitVec.ofNat 8 (code / 256 ^ j)))
  else
    (List.range (ceilDiv (bit % 8 + width) 8)).foldl (fun acc j =>
      let a := base + bit / 8 + j
      let old := match acc.reverse.find? (fun e => e.1 == a) with | some e => e.2.toNat | none => (s.byte a).toNat
      let lo := if j = 0 then bit % 8 else 0
      let used := if j = 0 then 0 else 8 * j - bit % 8
      let n := min (8 - lo) (width - used)
      let v := old - bitsOf old (lo + n - 1) lo * 2 ^ lo + code / 2 ^ used % 2 ^ n * 2 ^ lo
      (acc.filter (fun e => e.1 != a)) ++ [(a, BitVec.ofNat 8 v)]) acc

/-- Gather bytes at consecutive addresses into runs. -/
def runsOf : List (Nat × Byte) → List (Nat × List Byte)
  | [] => []
  | (a, b) :: t =>
    match runsOf t with
    | [] => [(a, [b])]
    | (a2, bs) :: r => if a + 1 = a2 then (a, b :: bs) :: r else (a, [b]) :: (a2, bs) :: r

/-- Write runs for a traffic class; the first failure stands. -/
def State.writeRuns (s : State) (cls : Nat) (rs : List (Nat × List Byte)) : State × Nat :=
  rs.foldl (fun a r => let (s, st) := a.1.writeAs cls r.1 r.2; (s, if a.2 = 0 then st else a.2)) (s, 0)

/-- SAT in force for a command (R208, R215). -/
def satOf (arith : Word) : Bool := wGet arith 17 17 == 1

/-- A source value as FP32 (R203, R473): what the ledger counts, and what an MX block is made from. -/
def asF32 (v : FVal) : FVal := f32Val (f32Of v)

/-- The class of a source value that is converted to a plain DTYPE (R473): judged on its FP32 value, an exact integer for INT32 on itself. [DEDUCED, log 108] -/
def sourceClass (dt : Nat) (deq : Nat) (v : FVal) : Nat :=
  if !(asF32 v).isFin then 2
  else valueClass dt ((if dt = 0x0F then v else asF32 v).scale (-(scaleExp dt deq)))

/-- Convert a plain output: each value is divided by DEQ and rounded once (R189, R204, R207, R208). -/
def State.convertPlain (s : State) (d : TDesc) (deq : Nat) (sat : Bool) (xs : List (Ix × FVal)) :
    List (Nat × Byte) × LedRec :=
  xs.foldl (fun a x =>
    let v := x.2.scale (-(scaleExp d.dtype deq))
    let c := encodeElem d.dtype sat v
    (s.putCode a.1 d.base (d.bitPos x.1) (dtBits d.dtype) c,
     a.2.count (asF32 x.2) (codeZero d.dtype c) (sourceClass d.dtype deq x.2)))
    ([], { (default : LedRec) with tid := d.tid })

/-- Convert an MX output: the FP32 values of each block, in the order given, make its scale (R203). The count of NaN blocks follows. -/
def State.convertMx (s : State) (d : TDesc) (sat : Bool) (xs : List (Ix × FVal)) : List (Nat × Byte) × LedRec × Nat :=
  let blocks := (xs.map (fun x => (x.1, asF32 x.2))).foldl (fun l x =>
    let k := d.scaleIx x.1
    Sparse.insert l k (Sparse.get [] l k ++ [x])) ([] : List (Nat × List (Ix × FVal)))
  let (bytes, r, n) := blocks.foldl (fun a b =>
    let (sc, cs, bey) := mxBlock d.dtype sat (b.2.map (·.2))
    let (bytes, r) := (List.range b.2.length).foldl (fun a j =>
      let x := b.2.getD j ((0, 0, 0, 0), .nan)
      let c := cs.getD j 0
      let cls := if x.2.isFin then b2n (bey.getD j false) else 2
      (s.putCode a.1 d.base (d.bitPos x.1) (dtBits d.dtype) c, a.2.count x.2 (sc != 0xFF && codeZero d.dtype c) cls))
      (a.1, a.2.1)
    (bytes ++ [(d.scale + b.1, BitVec.ofNat 8 sc)], r, a.2.2 + b2n (sc == 0xFF)))
    (([] : List (Nat × Byte)), ({ (default : LedRec) with tid := d.tid }), 0)
  (bytes, r, n)

/-- Write values into a tensor of partition `p` (R203, R204, R208): the state, the status of the writes, and the ledger counts. -/
def State.writeTensor (s : State) (p : Nat) (d : TDesc) (deq : Nat) (sat : Bool) (xs : List (Ix × FVal)) :
    State × Nat × LedRec :=
  if isMx d.dtype then
    let (bytes, r, n) := s.convertMx d sat xs
    let (s, st) := s.writeRuns p (runsOf bytes)
    (s.nanBlocks p n, st, r)
  else
    let (bytes, r) := s.convertPlain d deq sat xs
    let (s, st) := s.writeRuns p (runsOf bytes)
    (s, st, r)

/-- Every position of a tensor in linear index order. -/
def TDesc.positions (d : TDesc) : List Ix := (List.range d.count).map d.unlin

/-- Add the counts of two recordings of one tensor. -/
def LedRec.add (a b : LedRec) : LedRec :=
  let am := maxMag (a.amaxM, a.amaxE) (b.amaxM, b.amaxE)
  { a with elements := a.elements + b.elements, zeros := a.zeros + b.zeros, sat := a.sat + b.sat,
           nonfin := a.nonfin + b.nonfin, amaxM := am.1, amaxE := am.2 }

/-- Keep an output's counts with its command, where its descriptor has LEDGER set (R229). -/
def Cmd.record (c : Cmd) (d : TDesc) (r : LedRec) : Cmd :=
  if d.ledger then
    if c.recs.any (fun x => x.tid == r.tid) then { c with recs := c.recs.map (fun x => if x.tid = r.tid then x.add r else x) }
    else { c with recs := c.recs ++ [r] }
  else c

/-- A descriptor of a command, as captured at step 4. -/
def Cmd.desc (c : Cmd) (i : Nat) : TDesc := c.descs.getD i default

/-- The scale word of a descriptor, as captured at step 4. -/
def Cmd.sw (c : Cmd) (i : Nat) : Nat := c.deq.getD i 0

/-- The counts of a tensor whose elements were written as they stand (R229): no value is converted, so none saturates. -/
def State.rawCounts (s : State) (a : TDesc) (sw tid : Nat) : LedRec :=
  a.positions.foldl (fun (r : LedRec) i =>
    let v := s.elemVal a sw i
    r.count v (v.isFin && codeZero a.dtype (s.elemCode a i)) (if v.isFin then 0 else 2)) { (default : LedRec) with tid := tid }

/-- INT32 words of a tensor in linear order. -/
def State.words (s : State) (d : TDesc) : List Nat := d.positions.map (fun i => s.elemCode d i)

/-- The ranges a descriptor names: its elements and its scales. -/
def TDesc.ranges (d : TDesc) : List (Nat × Nat) :=
  [(d.base, d.base + d.extent)] ++ (if d.scale = 0 then [] else [(d.scale, d.scale + d.scaleBytes)])

end Sys2Proof.Machine
end

