-- ==== Sys2Proof/Machine/Queue.lean ====
section
/-! DEFINITION. Queues and commands (R55 to R78, R470): the fields of a command, reading it from its ring, the order and wait
conditions, completion and failure, energy accounting, the queue registers, abort. -/

namespace Sys2Proof.Machine

/-! ## The command's first slot (R60) -/

/-- Fields of a command. -/
def cOpcode (c : Cmd) : Nat := fieldAt c.bytes 0 2
def cFlags (c : Cmd) : Nat := fieldAt c.bytes 2 1
def cOverlap (c : Cmd) : Bool := c.firstOk && bitOf (cFlags c) 0
def cW0En (c : Cmd) : Bool := c.firstOk && bitOf (cFlags c) 1
def cW1En (c : Cmd) : Bool := c.firstOk && bitOf (cFlags c) 2
def cSigEn (c : Cmd) : Bool := c.firstOk && bitOf (cFlags c) 3
def cEpochChk (c : Cmd) : Bool := c.firstOk && bitOf (cFlags c) 4 && fieldAt c.bytes 26 1 < 64
def cNotify (c : Cmd) : Bool := c.firstOk && bitOf (cFlags c) 5
def cSlots (c : Cmd) : Nat := fieldAt c.bytes 3 1
def cW0Lock (c : Cmd) : Nat := fieldAt c.bytes 4 2
def cW1Lock (c : Cmd) : Nat := fieldAt c.bytes 6 2
def cW0Value (c : Cmd) : Nat := fieldAt c.bytes 8 4
def cW1Value (c : Cmd) : Nat := fieldAt c.bytes 12 4
def cSigLock (c : Cmd) : Nat := fieldAt c.bytes 16 2
def cHint (c : Cmd) : Nat := fieldAt c.bytes 18 2
def cSigAdd (c : Cmd) : Nat := fieldAt c.bytes 20 4
def cGroup (c : Cmd) : Nat := fieldAt c.bytes 26 1
def cEpoch (c : Cmd) : Nat := fieldAt c.bytes 28 4
def cStep (c : Cmd) : Nat := fieldAt c.bytes 32 4
def cOparg (c : Cmd) : Nat := fieldAt c.bytes 36 4
def cDesc (c : Cmd) (i : Nat) : Nat := fieldAt c.bytes (40 + 8 * i) 8

/-- The energy an ENERGY_HINT names, in µJ; a mantissa of 0 is the command processor's estimate (R60, R74). -/
def hintUj (c : Cmd) : Nat :=
  let m := cHint c % 16384
  if m = 0 then Config.energyEstimate (cOpcode c) (c.descs.map (fun d => (d.dtype, d.dims)))
  else match cHint c / 16384 with | 0 => m * 10 | 1 => m * 1000 | 2 => m * 100000 | _ => m * 10000000

/-- The opcodes that are pre-emptible (R76). -/
def preemptible (op : Nat) : Bool := [0x10, 0x11, 0x12, 0x20, 0x21, 0x42, 0x60, 0x61, 0x80].contains op

/-! ## Queue registers -/

/-- The state of queue `q` of partition `p`. -/
def State.queue (s : State) (p q : Nat) : QueueSt := Sparse.get { cmds := [], aborting := false } s.queues (p * 64 + q)

/-- Replace a queue's state. -/
def State.setQueue (s : State) (p q : Nat) (x : QueueSt) : State :=
  { s with queues := Sparse.set { cmds := [], aborting := false } s.queues (p * 64 + q) x }

/-- HEAD and TAIL of a queue (R55). -/
def State.qHead (s : State) (p q : Nat) : Nat := (s.rd .CMD_Qn_HEAD q p).toNat
def State.qTail (s : State) (p q : Nat) : Nat := (s.rd .CMD_Qn_TAIL q p).toNat

/-- The number of slots of a ring. -/
def State.ringSlots (s : State) (p q : Nat) : Nat := 2 ^ s.fget Fld.CMD_Qn_CTRL_LOG2_SLOTS q p

/-- The device address of the slot a count names (R55). -/
def State.slotAddr (s : State) (p q count : Nat) : Nat :=
  s.rd64 .CMD_Qn_BASE_LO .CMD_Qn_BASE_HI q p + count % s.ringSlots p q * 64

/-- The slot count after the last command read. -/
def State.nextSlot (s : State) (p q : Nat) : Nat :=
  ((s.queue p q).cmds.foldl (fun t c => t + c.nslots) (s.qHead p q)) % 2 ^ 32

/-- A queue is disabled when ENABLE is 0 and HEAD equals TAIL (R58): judged at each write, so that a TAIL write ends the state. [DESIGN CHOICE, log 106] -/
def State.qDisabled (s : State) (p q : Nat) : Bool :=
  !s.fbit Fld.CMD_Qn_CTRL_ENABLE q p && s.qHead p q == s.qTail p q

/-- Whether a command of a queue is running: started and not yet complete. -/
def State.qRunning (s : State) (p q : Nat) : Bool := (s.queue p q).cmds.any (fun c => c.phase == .running)

/-- Commands run only in READY, with no power failure pending (R396, R399). [DEDUCED, log 88] -/
def State.live (s : State) : Bool := s.ready && !s.pwr.powerFail

/-- The status with which a slot cannot be read, or 0 (R470). A slot in the partition's T2 window counts as outside it. [DESIGN CHOICE, log 106] -/
def State.slotStatus (s : State) (p a : Nat) : Nat :=
  if !s.ownsT01 p a 64 then 0x0202 else if s.poisoned a 64 then 0x0701 else 0

/-- Read the command at a slot count from its ring (R470). -/
def State.fetchCmd (s : State) (p q slot : Nat) : Cmd × State :=
  let a := s.slotAddr p q slot
  let s := if s.ownsT01 p a 64 then (s.grant p a 64).touch a 64 else s
  let st := s.slotStatus p a
  if st ≠ 0 then ({ (default : Cmd) with slot := slot, nslots := 1, readable := st }, s)
  else
    let first := s.bytes a 64
    let n := fieldAt first 3 1 % 4 + 1
    let rest := (List.range (n - 1)).map (fun i => s.slotAddr p q (slot + 1 + i))
    let s := rest.foldl (fun s b => if s.ownsT01 p b 64 then (s.grant p b 64).touch b 64 else s) s
    let bad := (rest.map (fun b => s.slotStatus p b)).find? (fun x => x != 0)
    ({ (default : Cmd) with slot := slot, nslots := n, bytes := first ++ rest.flatMap (fun b => s.bytes b 64),
                            readable := bad.getD 0, firstOk := true }, s)

/-- Replace the command at a slot of a queue. -/
def State.setCmd (s : State) (p q : Nat) (c : Cmd) : State :=
  let x := s.queue p q
  s.setQueue p q { x with cmds := x.cmds.map (fun d => if d.slot = c.slot then c else d) }

/-- The command at a slot of a queue. -/
def State.cmdAt (s : State) (p q slot : Nat) : Option Cmd := (s.queue p q).cmds.find? (fun c => c.slot == slot)

/-- The byte ranges that a command's descriptors name: elements and MX scales (R63). -/
def TDesc.span (d : TDesc) : Nat × Nat := (d.base, d.base + d.extent)

/-- Whether two ranges of addresses, given by first and end, meet. -/
def rangesMeet (a b : Nat × Nat) : Bool := a.1 < b.2 && b.1 < a.2

/-- The range of an object's home copy (R129). -/
def TierObj.range (o : TierObj) : Nat × Nat := (o.home, o.last)

/-- The arrays of a queue's mask. -/
def State.maskArrays (s : State) (p q : Nat) : List Nat :=
  (List.range 8).filter (fun n => bitOf (s.fget Fld.CMD_Qn_CTRL_ARRAY_MASK q p) n)

/-- The slices of the units that read a command's inputs (R135): those of the mask for the arrays and the vector engines; 8, no slice, for every
other unit. -/
def State.cmdUnits (s : State) (p q : Nat) (c : Cmd) : List Nat :=
  if [0x20, 0x21, 0x30, 0x31, 0x32].contains (cOpcode c) then s.maskArrays p q else [8]

/-- Whether a command's descriptors touch an object (R140). -/
def Cmd.touches (c : Cmd) (o : TierObj) : Bool :=
  c.descs.any (fun d => d.rank != 0 && (rangesMeet d.span o.range
    || (d.scale != 0 && rangesMeet (d.scale, d.scale + d.scaleBytes) o.range)))

/-- Whether a read of an object by a unit of slice `u` resolves to a home in T2 (R135, R136). -/
def TierObj.readsT2 (o : TierObj) (u : Nat) : Bool := isT2 o.home && (o.copyAt u false o.home).isNone

/-- Whether a command needs a demand promotion of an object that it touches (R136): it reads a T2 home and is no COPY or DIGEST. -/
def State.needsPromotion (s : State) (p q : Nat) (c : Cmd) (o : TierObj) : Bool :=
  cOpcode c != 0x10 && cOpcode c != 0x80 && s.fget Fld.TIER_CFG_MODE 0 p == 0 && (s.cmdUnits p q c).any o.readsT2

/-- Whether every object that a command's descriptors touch can be accessed now: none is PROMOTING, REFETCH, EVICTING or BROKEN, and only
COPY and DIGEST read a T2 home directly (R136, R140). -/
def State.tierReady (s : State) (p : Part) (q : Nat) (c : Cmd) : Bool :=
  (vget s.tier p).objs.all (fun e =>
    !e.2.valid || !c.touches e.2 || ((e.2.state == 0 || e.2.state == 2) && !s.needsPromotion p.val q c e.2))

/-- The addresses of a stack, first and end. -/
def stackRange (n : Quad) : Nat × Nat := (hbmBase + n.val * 0x2000000000, hbmBase + (n.val + 1) * 0x2000000000)

/-- The stacks that a command's descriptors reach. -/
def State.cmdStacks (s : State) (c : Cmd) : List Quad :=
  (List.finRange 8).filter (fun n => c.descs.any (fun d => d.rank != 0 && d.ranges.any (fun r =>
    let b := s.resolve r.1
    rangesMeet (b, b + (r.2 - r.1)) (stackRange n))))

/-- Whether a partition has requests waiting at a stack: a running command whose operation has not ended reaches it. -/
def State.wantsStack (s : State) (p : Nat) (n : Quad) : Bool :=
  s.queues.any (fun e => e.1 / 64 == p && e.2.cmds.any (fun c =>
    c.phase == .running && !c.finished && c.fail == 0 && c.stop == 0 && (s.cmdStacks c).contains n))

/-- Whether a partition may be granted bytes of a stack now (R160, R166): it is below its cap and below the limit, and no other class that waits
at the stack is behind its share by WEIGHT. -/
def State.granted (s : State) (p : Part) (n : Quad) : Bool :=
  let c : Fin 5 := ⟨p.val, by omega⟩
  !s.windowFull n c && !(List.finRange 4).any (fun o => o != p && s.overShare n c ⟨o.val, by omega⟩ && s.wantsStack o.val n)

/-- Whether a command may read and write memory now: it does not wait for a regulator window (R160). [DEDUCED, log 107] -/
def State.bandwidth (s : State) (p : Part) (c : Cmd) : Bool := (s.cmdStacks c).all (s.granted p)

/-- The command a reference names, where it is running, of the given opcode, its operation has not ended, and it waits neither for an object
nor for a regulator window. -/
def State.running (s : State) (c : CmdRef) (op : Nat) : Option Cmd :=
  match s.cmdAt c.part.val c.queue.val c.slot with
  | some d => if d.phase = .running ∧ cOpcode d = op ∧ d.finished = false ∧ d.fail = 0 ∧ d.stop = 0 ∧ s.live = true
      ∧ s.tierReady c.part c.queue.val d = true ∧ s.bandwidth c.part d = true then some d
    else none
  | none => none

/-- The operation of a running command has made its writes. -/
def State.finish (s : State) (r : CmdRef) (c : Cmd) : State := s.setCmd r.part.val r.queue.val { c with finished := true }

/-- The operation of a running command has failed with a status. -/
def State.failRun (s : State) (r : CmdRef) (c : Cmd) (status : Nat) : State :=
  s.setCmd r.part.val r.queue.val { c with finished := true, fail := status }

/-- Finish with a status: 0 is success. -/
def State.endRun (s : State) (r : CmdRef) (c : Cmd) (status : Nat) : State :=
  if status = 0 then s.finish r c else s.failRun r c status

/-! ## Update records (R360) -/

/-- Modify a partition's recovery engine. -/
def State.modRcv (s : State) (p : Part) (f : RcvSt → RcvSt) : State := { s with rcv := vset s.rcv p (f (vget s.rcv p)) }

/-- Keep an update record: those of the last two updated steps of a group stay. -/
def RcvSt.keepRecord (x : RcvSt) (u : UpdRec) : RcvSt :=
  let same := x.upd.filter (fun v => v.group == u.group && v.step != u.step)
  { x with upd := u :: same.take 1 ++ x.upd.filter (fun v => v.group != u.group) }

/-- Take the update record of a step (R360). -/
def State.takeRecord (s : State) (p : Part) (g step : Nat) : State :=
  let locks := (List.range 4096).filterMap (fun k => let v := s.rd .CMD_LOCK_VAL_k k p.val; if v = 0 then none else some (k, v))
  let qs := (List.range 64).map (fun q =>
    (s.rd .CMD_Qn_HEAD q p.val, s.fget Fld.CMD_Qn_CTRL_ENABLE q p.val, s.fget Fld.CMD_Qn_CTRL_PRIORITY q p.val))
  s.modRcv p (fun x => x.keepRecord { group := g, step := step, locks := locks, queues := qs })

/-- Take the update records that wait for HEAD of a queue to pass their UPDATE (R360). -/
def State.takeDue (s : State) (p : Part) (q : Nat) : State :=
  (vget s.rcv p).due.foldl (fun s e =>
    if e.1 = q && !(s.queue p.val q).cmds.any (fun c => c.slot == e.2.1) then
      (s.modRcv p (fun x => { x with due := x.due.filter (· != e) })).takeRecord p e.2.2.1 e.2.2.2
    else s) s

/-! ## Completion (R56, R64, R70) -/

/-- Retire the completed commands at the front: HEAD passes their slots (R56), and with them what CLOSE has noted (R84). -/
def State.retire (s : State) (p q : Nat) : State :=
  let x := s.queue p q
  let done := x.cmds.takeWhile (fun c => c.phase == .done)
  let n := done.foldl (fun t c => t + c.nslots) 0
  let h := s.qHead p q
  let closed := x.closed.filter (fun e => n < (e.2 + 2 ^ 32 - h) % 2 ^ 32)
  let s := s.setQueue p q { x with cmds := x.cmds.drop done.length, closed := closed }
  (s.wr .CMD_Qn_HEAD q p (BitVec.ofNat 32 (s.qHead p q + n))).takeDue ⟨p % 4, by omega⟩ q

/-- When no command of an aborted queue is running, HEAD becomes TAIL, ABORTED is set and ENABLE cleared (R78). Commands submitted during the abort are
passed over without a STATUS. [DESIGN CHOICE, log 106] -/
def State.endAbort (s : State) (p q : Nat) : State :=
  if (s.queue p q).aborting && !s.qRunning p q then
    let s := s.setQueue p q { cmds := [], aborting := false }
    let s := s.wr .CMD_Qn_HEAD q p (s.rd .CMD_Qn_TAIL q p)
    let s := s.sqSet .CMD_Qn_STATUS q p [Fld.CMD_Qn_STATUS_ABORTED] []
    s.fset Fld.CMD_Qn_CTRL_ENABLE 0 q p
  else s

/-- Whether STOP is in effect: set, or ENABLE is 0 while the queue holds unretired commands (R58). [DESIGN CHOICE, log 16] -/
def State.qStopped (s : State) (p q : Nat) : Bool :=
  s.fbit Fld.CMD_Qn_CTRL_STOP q p || (!s.fbit Fld.CMD_Qn_CTRL_ENABLE q p && s.qHead p q != s.qTail p q)

/-- STOPPED: STOP took effect and no command of the queue is running. [DESIGN CHOICE, log 16] -/
def State.noteStopped (s : State) (p q : Nat) : State :=
  if !s.qRunning p q then
    s.sqSet .CMD_Qn_STATUS q p [Fld.CMD_Qn_STATUS_STOPPED] []
  else s

/-- A failure of a command (R64, R78): CMD_FAILED and FAIL_CNT, `CMD_Qn_FAIL` of the first failure since CMD_FAILED was cleared,
and STOP under HALT_ON_ERR. CMD_ABORTED is no failure. -/
def State.noteFailure (s : State) (p q slot status : Nat) : State :=
  if status = 0 ∨ status = 0x0207 then s
  else
    let first := !s.fbit Fld.CMD_Qn_STATUS_CMD_FAILED q p
    let s := s.sqSet .CMD_Qn_STATUS q p [Fld.CMD_Qn_STATUS_CMD_FAILED] [Fld.CMD_Qn_STATUS_FAIL_CNT]
    let s := if first then s.wr .CMD_Qn_FAIL q p (BitVec.ofNat 32 (status + slot % s.ringSlots p q % 65536 * 65536)) else s
    if s.fbit Fld.CMD_Qn_CTRL_HALT_ON_ERR q p then s.fset Fld.CMD_Qn_CTRL_STOP 1 q p else s

/-- Write STATUS into the first slot, where the Forcen can (R64, R470). -/
def State.putStatus (s : State) (p q slot status : Nat) : State :=
  let a := s.slotAddr p q slot
  if s.slotStatus p a = 0 then (s.writeAs p (a + 24) (leBytes 2 status)).1 else s

/-- The body of a KIND 0x01 note (R301). -/
def noteBody (s : State) (p q : Nat) (c : Cmd) (status : Nat) : List Byte :=
  padTo 32 (leBytes 2 status ++ leBytes 1 q ++ [0] ++ leBytes 4 c.slot ++ leBytes 2 (cSigLock c) ++ [0, 0]
    ++ leBytes 4 (s.lock p (cSigLock c % 4096)) ++ leBytes 4 (cStep c))

/-- Debit the energy of a completed or failed command (R385, R386): the refund or shortfall against H′, and the queue's and
partition's counters. -/
def State.debit (s : State) (p : Part) (q h e : Nat) : State :=
  let s :=
    if e < h then { s with pwr := { s.pwr with bal := vset s.pwr.bal p (min (s.burst p.val : Int) (vget s.pwr.bal p + h - e)) } }
    else { s with pwr := { s.pwr with short := vset s.pwr.short p (vget s.pwr.short p + (e - h)) } }
  let s := s.wr64 .PWR_Qn_E_LO .PWR_Qn_E_HI (s.rd64 .PWR_Qn_E_LO .PWR_Qn_E_HI q p.val + e) q p.val
  s.wr64 .PWR_E_LO .PWR_E_HI (s.rd64 .PWR_E_LO .PWR_E_HI 0 p.val + e) 0 p.val

/-- The end of a command: STATUS is written where it can be, the signal of a successful command is applied after its writes,
energy is debited, HEAD advances and a note may be sent (R56, R64, R70, R301). -/
def State.complete (s : State) (p : Part) (q : Nat) (c : Cmd) (status energy : Nat) : State :=
  let s := if c.firstOk then s.putStatus p.val q c.slot status else s
  let s := if status = 0 && cSigEn c then s.lockAdd p.val (cSigLock c % 4096) (cSigAdd c) else s
  let s := s.noteFailure p.val q c.slot status
  let stopped := s.qStopped p.val q
  let s := s.debit p q c.hint energy
  let s := s.setCmd p.val q { c with phase := .done, finished := true, fail := status }
  let s := s.retire p.val q
  let s := if cNotify c && s.fbit Fld.CMD_Qn_CTRL_NOTIFY_EN q p.val then s.note p.val 1 (noteBody s p.val q c status) else s
  let s := s.endAbort p.val q
  if stopped then s.noteStopped p.val q else s

/-! ## Order and waits (R68, R69, R71) -/

/-- Read the next command of a queue where its slots have been submitted and none is waiting; commands then hold at most one
unstarted command, the last. [DEDUCED, log 15] -/
def State.fetchNext (s : State) (p q : Nat) : State :=
  let x := s.queue p q
  let n := s.nextSlot p q
  if x.cmds.any (fun c => c.phase == .waiting || c.phase == .admitting) || n = s.qTail p q then s
  else
    let (c, s) := s.fetchCmd p q n
    if (s.qTail p q + 2 ^ 32 - n) % 2 ^ 32 < c.nslots then s
    else s.setQueue p q { x with cmds := x.cmds ++ [c] }

/-- Whether a command is a DECODE that stood unread in the ring when its stream was closed (R84). -/
def State.closedFor (s : State) (p q : Nat) (c : Cmd) : Bool :=
  c.firstOk && c.readable == 0 && cOpcode c == 0x41 && (s.queue p q).closed.any (fun e =>
    e.1 == fieldAt c.bytes 64 2 % 1024 && (c.slot + 2 ^ 32 - s.qHead p q) % 2 ^ 32 < (e.2 + 2 ^ 32 - s.qHead p q) % 2 ^ 32)

/-- The command of a queue that waits at steps 1 to 3. -/
def State.front (s : State) (p q : Nat) : Option Cmd := (s.queue p q).cmds.find? (fun c => c.phase == .waiting)

/-- The order condition (R69): with OVERLAP 0 every earlier command has completed; the command before has started. -/
def State.orderMet (s : State) (p q : Nat) (c : Cmd) : Bool :=
  cOverlap c || ((s.queue p q).cmds.takeWhile (fun d => d.slot != c.slot)).all (fun d => d.phase == .done)

/-- Evaluate the waits of a command; a wait once met stays met (R66, R68). -/
def State.latchWaits (s : State) (p : Nat) (c : Cmd) : Cmd :=
  { c with w0 := c.w0 || !cW0En c || cW0Value c ≤ s.lock p (cW0Lock c % 4096),
           w1 := c.w1 || !cW1En c || cW1Value c ≤ s.lock p (cW1Lock c % 4096) }

/-- Whether a queue starts commands: ENABLE set, STOP clear, no abort in progress, the part in READY. -/
def State.qStarts (s : State) (p q : Nat) : Bool :=
  s.live && s.fbit Fld.CMD_Qn_CTRL_ENABLE q p && !s.fbit Fld.CMD_Qn_CTRL_STOP q p && !(s.queue p q).aborting

/-- H′ of R385 in µJ. -/
def State.hPrime (s : State) (p : Nat) (c : Cmd) : Nat := min (hintUj c) (s.burst p)

/-- Whether queue `r` takes work before queue `q` where both ask: of higher PRIORITY, or of the same and nearer in the rotation by queue number after
the queue `last` that took work last (R75). -/
def State.queueBefore (s : State) (p last r q : Nat) : Bool :=
  let pr (x : Nat) : Nat := s.fget Fld.CMD_Qn_CTRL_PRIORITY x p
  pr q < pr r || (pr q == pr r && (r + 127 - last) % 64 < (q + 127 - last) % 64)

/-- Whether a queue that comes first under R75 waits for admission (R385). -/
def State.admissionBefore (s : State) (p : Part) (q : Nat) : Bool :=
  (List.range 64).any (fun r => r != q && (s.queue p.val r).cmds.any (fun c => c.phase == .admitting)
    && s.queueBefore p.val (vget s.pwr.admitted p) r q)

/-- Energy admission (R74, R385): with an allowance of 0 at once; otherwise when the balance covers H′, which it then pays. -/
def State.admitCmd (s : State) (p : Part) (q : Nat) (c : Cmd) : State :=
  let h := s.hPrime p.val c
  if s.allowW p.val = 0 then s.setCmd p.val q { c with phase := .running, hint := h }
  else if (h : Int) ≤ vget s.pwr.bal p && !s.admissionBefore p q then
    let s := { s with pwr := { s.pwr with bal := vset s.pwr.bal p (vget s.pwr.bal p - h), admitted := vset s.pwr.admitted p q } }
    s.setCmd p.val q { c with phase := .running, hint := h }
  else s.setCmd p.val q { c with phase := .admitting }

/-- CMD_WAIT_EXPIRED: a command whose waits have lasted longer than LIMIT_MS fails (R59); a newer EPOCH counts as an unmet wait (R71). No wait expires
while STOP or a clear ENABLE holds the queue. [DESIGN CHOICE, log 106] -/
def State.waitExpired (s : State) (p : Part) (q : Nat) : State :=
  if !s.qStarts p.val q || s.fget Fld.CMD_Qn_WAIT_LIMIT_LIMIT_MS q p.val = 0 then s
  else
    let s := s.fetchNext p.val q
    match s.front p.val q with
    | none => s
    | some c =>
      if !s.orderMet p.val q c || !c.firstOk then s
      else
        let c := s.latchWaits p.val c
        let newer := cEpochChk c && s.epoch (cGroup c) < cEpoch c
        if !(c.w0 && c.w1) || newer then s.complete p q c 0x0206 0 else s.setCmd p.val q c

/-- CMD_WAIT_EXPIRED (R59). -/
def execCmdWaitExpired (p : Part) (q : QueueId) (s : State) : Host.Outcome State Fault Refusal := .next (s.waitExpired p q.val)

/-! ## Locks (R66, R67) -/

/-- CMD_LOCK_ADD: a write of `CMD_LOCK_ADD_k` (R66). -/
def execCmdLockAdd (p : Part) (k : Fin 4096) (v : Word) (s : State) : Host.Outcome State Fault Refusal :=
  .next (s.lockAdd p.val k.val v.toNat)

/-- CMD_LOCK_SET: a write of `CMD_LOCK_SET_k` (R67). -/
def execCmdLockSet (p : Part) (k : Fin 4096) (v : Word) (s : State) : Host.Outcome State Fault Refusal :=
  .next (s.lockSet p.val k.val v.toNat)

/-- NOP: the command only waits and signals (R62). -/
def execNop (c : CmdRef) (s : State) : Host.Outcome State Fault Refusal :=
  .next (match s.running c 0x0000 with
    | some d => s.finish c d
    | none => s)

/-- LOCK_SET: lock OPARG[11:0] is set to SIG_ADD (R62, R67). -/
def execLockSet (c : CmdRef) (s : State) : Host.Outcome State Fault Refusal :=
  .next (match s.running c 0x0001 with
    | some d => (s.lockSet c.part.val (cOparg d % 4096) (cSigAdd d)).finish c d
    | none => s)

/-! ## Queue registers (R57, R58, R78) -/

/-- Whether a TAIL value is accepted (R57). -/
def tailOk (head tail slots t : Nat) : Bool :=
  let d (x : Nat) : Nat := (x + 2 ^ 32 - head) % 2 ^ 32
  d tail ≤ d t && d t ≤ slots

/-- A write of `CMD_Qn_TAIL`: a doorbell, or BAD_TAIL (R57). -/
def State.tailWrite (s : State) (p q : Nat) (t : Word) : State :=
  if tailOk (s.qHead p q) (s.qTail p q) (s.ringSlots p q) t.toNat then s.wr .CMD_Qn_TAIL q p t
  else s.sqSet .CMD_Qn_STATUS q p [Fld.CMD_Qn_STATUS_BAD_TAIL] []

/-- CMD_QN_TAIL_WRITE (R57). -/
def execCmdQnTailWrite (p : Part) (q : QueueId) (t : Word) (s : State) : Host.Outcome State Fault Refusal :=
  .next (s.tailWrite p.val q.val t)

/-- The arrays of a mask that a queue may hold (R172): owned ones, of the cut of the lowest-numbered one; a pair only whole. -/
def State.maskOk (s : State) (p m : Nat) : Nat :=
  let own := (s.ownArrays p).filter (fun n => bitOf m n)
  let same := match own with | [] => [] | a :: _ => own.filter (fun n => (s.arrImg n).cut == (s.arrImg a).cut)
  let whole := same.filter (fun n => (s.arrImg n).cut != 5 || same.contains (s.arrImg n).pair)
  whole.foldl (fun t n => t + 2 ^ n) 0

/-- The cross-field rule of `CMD_Qn_CTRL`: LOG2_SLOTS changes only on a disabled queue (R58);
the mask keeps only arrays that R172 allows. -/
def State.ctrlCross (s : State) (p q : Nat) (w : Word) : Word :=
  let w := if s.qDisabled p q then w else wSet w 8 4 (s.fget Fld.CMD_Qn_CTRL_LOG2_SLOTS q p)
  wSet w 23 16 (s.maskOk p (wGet w 23 16))

/-- Fail every unstarted command with CMD_ABORTED: those read, and those still in the ring between them and TAIL (R78). -/
def State.abortUnread (s : State) (p q : Nat) : Nat → Nat → State
  | 0, _ => s
  | fuel + 1, n =>
    if n = s.qTail p q then s
    else
      let (c, s) := s.fetchCmd p q n
      let s := if c.firstOk then s.putStatus p q n 0x0207 else s
      s.abortUnread p q fuel ((n + min c.nslots ((s.qTail p q + 2 ^ 32 - n) % 2 ^ 32)) % 2 ^ 32)

/-- Writing ABORT to a queue (R78): unstarted commands fail; running pre-emptible ones stop at their next pre-emption point; the
others complete. A command that has not started sends no notification. [DESIGN CHOICE, log 106] -/
def State.queueAbort (s : State) (p q : Nat) : State :=
  let x := s.queue p q
  let unstarted := x.cmds.filter (fun c => c.phase == .waiting || c.phase == .admitting)
  let n := s.nextSlot p q
  let s := unstarted.foldl (fun s c => if c.firstOk then s.putStatus p q c.slot 0x0207 else s) s
  let s := s.abortUnread p q ((s.qTail p q + 2 ^ 32 - n) % 2 ^ 32) n
  let stop (c : Cmd) : Cmd := if c.phase = .running ∧ preemptible (cOpcode c) = true ∧ c.finished = false then { c with stop := 0x0207 } else c
  let s := s.setQueue p q
    { cmds := (x.cmds.filter (fun c => c.phase == .running || c.phase == .done)).map stop, aborting := true }
  s.endAbort p q

/-- QUEUE_ABORT (R78). -/
def execQueueAbort (p : Part) (q : QueueId) (s : State) : Host.Outcome State Fault Refusal := .next (s.queueAbort p.val q.val)

/-- A write of `CMD_Qn_CTRL` through a view (R58, R78): clearing ENABLE with unretired commands acts as STOP; ENABLE
stays 0 until READY (R399). -/
def State.ctrlWrite (s : State) (view p q : Nat) (v : Word) : State :=
  let was := s.qStopped p q
  let cross := s.ctrlCross p q
  let s := s.phaseWrite view .CMD_Qn_CTRL q p v s.untilReady cross
  let stopped := s.qStopped p q
  let s := if stopped && !was then s.noteStopped p q else s
  if wGet v 2 2 = 1 then s.queueAbort p q else s

/-- QUEUE_CTRL_WRITE (R58). -/
def execQueueCtrlWrite (p : Part) (q : QueueId) (v : Word) (s : State) : Host.Outcome State Fault Refusal :=
  .next (s.ctrlWrite p.val p.val q.val v)

end Sys2Proof.Machine
end

