-- ==== Sys2Proof/Machine/Arrays.lean ====
section
/-! DEFINITION. The matrix arrays (R170 to R196): cuts and pieces, the tile schedule of a product, reduction chains, tiles issued,
committed and faulted, drained outputs, element-wise products. -/

namespace Sys2Proof.Machine

/-! ## Cuts (R171) -/

/-- Pieces of a cut. -/
def cutPieces : Nat → Nat
  | 1 => 2 | 2 => 2 | 3 => 4 | 4 => 16 | _ => 1

/-- Rows and columns of a piece. -/
def cutShape : Nat → Nat × Nat
  | 1 => (256, 512) | 2 => (512, 256) | 3 => (256, 256) | 4 => (128, 128) | 5 => (1024, 512) | _ => (512, 512)

/-- The facets of piece `i` of a cut. -/
def cutFacets (cut i : Nat) : List Nat :=
  match cut with
  | 1 => (List.range 8).map (· + 8 * i)
  | 2 => (List.range 4).flatMap (fun r => [4 * r + 2 * i, 4 * r + 2 * i + 1])
  | 3 => [0, 1, 4, 5].map (fun k => 8 * (i / 2) + 2 * (i % 2) + k)
  | 4 => [i]
  | _ => List.range 16

/-- The cut under which a queue's products run: that of the lowest-numbered array of its mask (R172). -/
def State.queueCut (s : State) (p q : Nat) : Nat := match s.maskArrays p q with | [] => 0 | n :: _ => (s.arrImg n).cut

/-- The lower-numbered array of a pair, or the array itself. -/
def State.leadOf (s : State) (n : Nat) : Nat := if (s.arrImg n).cut = 5 then min n (s.arrImg n).pair else n

/-- Whether a piece has no suspect facet and none mapped out; under PAIRED both arrays of the pair count (R193, R404). -/
def State.pieceOk (s : State) (n i : Nat) : Bool :=
  let cut := (s.arrImg n).cut
  let free (n : Nat) : Bool := (cutFacets cut i).all (fun f =>
    !bitOf (s.fget Fld.ARR_An_SUSPECT_FACETS n) f && !bitOf (s.fget Fld.NOC_MAP_An_F_FACETS_OUT n) f)
  i < cutPieces cut && free n && (cut != 5 || free (s.arrImg n).pair)

/-- Whether a queue has an available piece (R193). -/
def State.anyPiece (s : State) (p q : Nat) : Bool :=
  (s.maskArrays p q).any (fun n => (List.range (cutPieces (s.arrImg n).cut)).any (s.pieceOk n))

/-! ## The tile schedule (R175 to R187) -/

/-- The format class of a DTYPE: 0 4-bit, 1 8-bit, 2 16-bit, 3 FP32; none for INT16 and INT32 (R177). -/
def fmtClass : Nat → Option Nat
  | 0x01 => some 3
  | 0x02 | 0x03 => some 2
  | 0x0A | 0x0D => some 0
  | 0x0E | 0x0F => none
  | dt => if dtypeOk dt then some 1 else none

/-- g of a class: multiply-accumulates per cell and handshake (R177). -/
def classG : Nat → Nat
  | 0 => 8 | 1 => 4 | _ => 2

/-- The schedule of a product: flow (3 is element-wise), class, piece rows and columns, output extents and blocks, reduction
extent and depth of a tile, split, passes, batch. -/
structure Plan where
  flow  : Nat
  cls   : Nat
  dr    : Nat
  dc    : Nat
  outW  : Nat
  outH  : Nat
  bw    : Nat
  bh    : Nat
  red   : Nat
  depth : Nat
  split : Nat
  pass  : Nat
  batch : Nat
  deriving DecidableEq, Repr

/-- The largest power of two at most `n` (n ≥ 1). -/
def pow2Floor (n : Nat) : Nat := 2 ^ Nat.log2 (max 1 n)

/-- The largest M_T of a cut for an output width (R187). -/
def maxMt (cut wOut : Nat) : Nat :=
  min 8192 ((if cut = 5 then 67108864 else 33554432) / (2 * cutPieces cut * wOut * 4))

/-- The schedule of a command under a cut. T_out, and with it the split, takes the output tiles of 0b00 for 0b00 and 0b01 alike, and an FP32 product
the same depth in both, so that the two give the same bits (R180, R182). [DEDUCED, log 63; DESIGN CHOICE, log 109] -/
def planOf (c : Cmd) (cut : Nat) : Plan :=
  let a := c.desc 0
  let b := c.desc 1
  let z := c.desc 2
  let ew := cOpcode c == 0x0021
  let cls := max ((fmtClass a.dtype).getD 0) ((fmtClass b.dtype).getD 0)
  let g := classG cls
  let (dr, dc) := cutShape cut
  let flow := if ew then 3 else cOparg c % 4
  let bw := match flow with | 1 => dr * g | 3 => min dr dc * g | _ => dc
  let bh := if flow = 2 then dr else maxMt cut bw
  let red := match flow with | 0 => a.dim 0 | 1 => a.dim 0 | 2 => a.dim 1 | _ => 1
  let depth := match flow with | 0 => if cls = 3 then min (dr * g) dc else dr * g | 1 => if cls = 3 then min (dr * g) dc else dc | 2 => 8192 | _ => 1
  let tOut := ceilDiv (z.dim 0) dc * ceilDiv (z.dim 1) (if flow = 2 then dr else maxMt cut dc)
  let split := if flow = 3 ∨ tOut = 0 then 1 else min (pow2Floor (cutPieces cut / tOut)) (pow2Floor (ceilDiv red 128))
  { flow := flow, cls := cls, dr := dr, dc := dc, outW := z.dim 0, outH := z.dim 1, bw := bw, bh := bh, red := red,
    depth := depth, split := split, pass := if cls = 3 ∧ flow ≠ 3 then 3 else 1, batch := z.dim 2 * z.dim 3 }

/-- Output tiles along each side. -/
def Plan.nW (p : Plan) : Nat := ceilDiv p.outW p.bw
def Plan.nH (p : Plan) : Nat := ceilDiv p.outH p.bh

/-- Output tiles over all batch elements. -/
def Plan.outTiles (p : Plan) : Nat := p.batch * p.nH * p.nW

/-- Groups: an output tile and a range of its split. -/
def Plan.groups (p : Plan) : Nat := p.outTiles * p.split

/-- The output tile and range of a group: batch index, row block, column block, range. Output tiles go in raster order (R186). -/
def Plan.place (p : Plan) (g : Nat) : Nat × Nat × Nat × Nat :=
  let o := g / p.split
  (o / (p.nH * p.nW), o / p.nW % p.nH, o % p.nW, g % p.split)

/-- The first reduction index of a range, and the first one after it (R180): whole chunks, earlier ranges taking any extra. -/
def Plan.range (p : Plan) (r : Nat) : Nat × Nat :=
  let n := ceilDiv p.red 128
  let st (r : Nat) : Nat := r * (n / p.split) + min r (n % p.split)
  (min p.red (128 * st r), min p.red (128 * st (r + 1)))

/-- Tiles of a group: reduction ranges times passes. -/
def Plan.tilesOf (p : Plan) (r : Nat) : Nat :=
  let (a, e) := p.range r
  ceilDiv (e - a) p.depth * p.pass

/-- The reduction indices of tile `t` of a range, and its pass. -/
def Plan.tileRed (p : Plan) (r t : Nat) : Nat × Nat × Nat :=
  let (a, e) := p.range r
  let k := a + t / p.pass * p.depth
  (k, min e (k + p.depth), t % p.pass)

/-- Rows and columns of the output that an output tile covers: first row, rows, first column, columns. -/
def Plan.block (p : Plan) (h w : Nat) : Nat × Nat × Nat × Nat :=
  (h * p.bh, min p.bh (p.outH - h * p.bh), w * p.bw, min p.bw (p.outW - w * p.bw))

/-- 64 KiB units that a group reserves (R187). -/
def Plan.units (p : Plan) (rows : Nat) : Nat :=
  ceilDiv ((if p.flow = 2 then p.dr * p.dc else rows * p.bw) * 4) 65536

/-! ## Reduction chains (R179, R181, R211) -/

/-- The split of an FP32 input: high and low BF16 parts (R211). -/
def splitHiLo (v : FVal) : FVal × FVal :=
  match v with
  | .fin _ _ _ =>
    let w := f32Of v
    let hi := f32Val (BitVec.ofNat 32 (w.toNat / 65536 * 65536))
    (hi, bf16Fmt.decode (bf16Fmt.encode false (v.add hi.neg)))
  | v => (v, .fin false 0 0)

/-- The factors of a pass: high × high, high × low, low × high; a product whose low factor is zero is omitted (R211). -/
def passTerm (passes pass : Nat) (x w : FVal) : Option FVal :=
  if passes = 1 then some (x.mul w)
  else
    let (xh, xl) := splitHiLo x
    let (wh, wl) := splitHiLo w
    match pass with
    | 0 => some (xh.mul wh)
    | 1 => if wl.isZero then none else some (xh.mul wl)
    | _ => if xl.isZero then none else some (xl.mul wh)

/-- Add a term to the extended partial (R179). -/
def extAdd (acc : FVal) (t : Option FVal) : FVal := match t with | none => acc | some t => extRound (acc.add t)

/-- What a chain needs of its command: LONGSUM_K, ACC_SR, K_BASE, seed, step, tid. -/
structure ChainKeys where
  longsum : Nat
  sr      : Bool
  kBase   : Nat
  seed    : Nat
  step    : Nat
  tid     : Nat
  deriving DecidableEq, Repr

/-- The keys of a command (R214, R215). -/
def chainKeys (c : Cmd) : ChainKeys :=
  { longsum := wGet c.arith 15 0 * 1024, sr := wGet c.arith 16 16 == 1, kBase := cOparg c / 65536 * 1024, seed := c.seed,
    step := cStep c, tid := (c.desc 2).tid }

/-- The rounding of a chunk boundary to FP32 (R179, R212, R214); the flag says that a finite value rounded stochastically to ±∞. -/
def chunkRound (k : ChainKeys) (idx pass first next : Nat) (v : FVal) : FVal × Bool :=
  if k.sr && k.longsum < k.kBase + next then
    let r := srDraw k.seed k.step k.tid idx ((k.kBase + first) / 128 % 2 ^ 28 + pass * 2 ^ 28)
    let w := f32Val (srF32 v r)
    (w, v.isFin && !w.isFin)
  else (f32Val (f32Of v), false)

/-- One chunk of a chain: its terms in ascending index, MX blocks of 32 summed by themselves and scaled (R179). -/
def chunkSum (term : Nat → Option FVal) (blockScale : Option (Nat → Option Int)) (acc : FVal) (a e : Nat) : FVal :=
  match blockScale with
  | none => (List.range (e - a)).foldl (fun v i => extAdd v (term (a + i))) acc
  | some sc =>
    (List.range (ceilDiv (e - a) 32)).foldl (fun v b =>
      let lo := a + 32 * b
      let n := min 32 (e - lo)
      let t := (List.range n).foldl (fun v i => extAdd v (term (lo + i))) (.fin false 0 0)
      match sc lo with
      | none => .nan
      | some x => extAdd v (some (t.scale x))) acc

/-- A floating-point chain over the reduction indices from `a` up to `e`, rounded to FP32 at each chunk's end. -/
def chain (k : ChainKeys) (idx pass : Nat) (term : Nat → Option FVal) (blockScale : Option (Nat → Option Int)) (acc : FVal)
    (a e : Nat) : FVal × Bool :=
  (List.range (ceilDiv (e - a) 128)).foldl (fun v i =>
    let lo := a + 128 * i
    let hi := min e (lo + 128)
    let (x, f) := chunkRound k idx pass lo hi (chunkSum term blockScale v.1 lo hi)
    (x, v.2 || f)) (acc, false)

/-- An integer chain: exact additions that saturate at the INT32 limits and then stay there (R181). -/
def intChain (term : Nat → Int) (acc : Int × Bool) (a e : Nat) : Int × Bool :=
  (List.range (e - a)).foldl (fun v i =>
    if v.2 then v else
      let x := v.1 + term (a + i)
      (satInt 32 x, decide (satInt 32 x ≠ x))) acc

/-- Merge the results of the ranges of an integer chain (R181). -/
def intMerge (xs : List (Int × Bool)) : Int :=
  match xs with
  | [] => 0
  | x :: t => (t.foldl (fun v y => if v.2 then v else if y.2 then y else
      let z := v.1 + y.1
      (satInt 32 z, decide (satInt 32 z ≠ z))) x).1

/-! ## Tiles -/

/-- The positions in DESC0 and DESC1 of the factors of output (row, column) at reduction index `j` (R175). -/
def factorIx (flow row col j i2 i3 : Nat) : Ix × Ix :=
  match flow with
  | 0 => ((j, row, i2, i3), (col, j, i2, i3))
  | 1 => ((j, row, i2, i3), (j, col, i2, i3))
  | _ => ((row, j, i2, i3), (col, j, i2, i3))

/-- The MX scale of a block at a reduction index: the sum of the exponents; none when a scale is NaN (R202). -/
def TDesc.blockExp (d : TDesc) (rd : Nat → Byte) (i : Ix) : Option Int :=
  if isMx d.dtype then
    let c := (rd (d.scale + d.scaleIx i)).toNat
    if c = 0xFF then none else some ((c : Int) - 127)
  else some 0

/-- The value of an element without its MX scale. -/
def TDesc.rawFrom (d : TDesc) (rd : Nat → Byte) (deq : Nat) (i : Ix) : FVal :=
  (decodeElem d.dtype (d.codeFrom rd i)).scale (scaleExp d.dtype deq)

/-- The address of accumulated value `k` of a group (R173, R183). [DESIGN CHOICE, log 62] -/
def accAddr (g : Grp) (k : Nat) : Nat := g.array * 0x10000000 + 0x0A000000 + g.region * 65536 + 4 * k

/-- Under PAIRED, regions from unit 512 on lie in the buffer of the higher-numbered array (R183). [DESIGN CHOICE, log 62] -/
def State.accBase (s : State) (g : Grp) (k : Nat) : Nat :=
  if (s.arrImg g.array).cut = 5 ∧ 512 ≤ g.region then
    accAddr { g with array := (s.arrImg g.array).pair, region := g.region - 512 } k
  else accAddr g k

/-- Whether a product's inputs are integers. -/
def intProduct (c : Cmd) : Bool := isIntType (c.desc 0).dtype && isIntType (c.desc 1).dtype

/-- Whether a floating-point tile starts from the values of DESC2 (R176). -/
def seedsAt (c : Cmd) (p : Plan) (r t : Nat) : Bool := p.flow != 3 && bitOf (cOparg c) 2 && r == 0 && t == 0 && !intProduct c

/-- The ranges that hold a rectangle of a tensor: elements from `a0` up to `b0` of DIM0 and from `a1` up to `b1` of DIM1, with their MX scales. -/
def TDesc.rectReads (d : TDesc) (a0 b0 a1 b1 i2 i3 : Nat) : List (Nat × Nat) :=
  let rows := List.range (b1 - a1)
  rows.map (fun k =>
    let b := d.bitPos (a0, a1 + k, i2, i3)
    (d.base + b / 8, ceilDiv (b % 8 + (b0 - a0) * dtBits d.dtype) 8))
  ++ (if isMx d.dtype then
      ((rows.flatMap (fun k => (List.range (b0 - a0)).map (fun j => d.scaleIx (a0 + j, a1 + k, i2, i3)))).eraseDups).map (fun x => (d.scale + x, 1))
    else [])

/-- The operand panels of a tile (R184): the weight block, the streamed operand's rows, and the seeds. -/
def tileReads (c : Cmd) (p : Plan) (grp t : Nat) : List (Nat × Nat) :=
  let (b, h, w, r) := p.place grp
  let (r0, nr, c0, nc) := p.block h w
  let (k0, k1, _) := p.tileRed r t
  let x := c.desc 0
  let y := c.desc 1
  let z := c.desc 2
  let i2 := b % max 1 (z.dim 2)
  let i3 := b / max 1 (z.dim 2)
  (match p.flow with
    | 0 => x.rectReads k0 k1 r0 (r0 + nr) i2 i3 ++ y.rectReads c0 (c0 + nc) k0 k1 i2 i3
    | 1 => x.rectReads k0 k1 r0 (r0 + nr) i2 i3 ++ y.rectReads k0 k1 c0 (c0 + nc) i2 i3
    | 2 => x.rectReads r0 (r0 + nr) k0 k1 i2 i3 ++ y.rectReads c0 (c0 + nc) k0 k1 i2 i3
    | _ => x.rectReads c0 (c0 + nc) r0 (r0 + nr) i2 i3
        ++ (if bitOf (cOparg c) 0 then y.rectReads c0 (c0 + nc) 0 1 i2 i3 else y.rectReads c0 (c0 + nc) r0 (r0 + nr) i2 i3))
  ++ (if seedsAt c p r t then z.rectReads c0 (c0 + nc) r0 (r0 + nr) i2 i3 else [])

/-- Compute a tile: every output element's chain over the tile's reduction indices, from the seed or the accumulated value; `rd` reads the
operands where the tile finds them. The last component says that a stochastic rounding gave ±∞. -/
def State.tileCompute (s : State) (c : Cmd) (p : Plan) (grp : Nat) (g : Grp) (t : Nat) (rd : Nat → Byte) : List (FVal × Bool) × Bool :=
  let (b, h, w, r) := p.place grp
  let z := c.desc 2
  let i2 := b % max 1 (z.dim 2)
  let i3 := b / max 1 (z.dim 2)
  let (r0, nr, c0, nc) := p.block h w
  let (k0, k1, pass) := p.tileRed r t
  let x := c.desc 0
  let y := c.desc 1
  let ks := chainKeys c
  let one (e : Nat) : (FVal × Bool) × Bool :=
    let row := r0 + e / nc
    let col := c0 + e % nc
    let zi : Ix := (col, row, i2, i3)
    if p.flow = 3 then
      let bi : Ix := (col, if cOparg c % 2 = 1 then 0 else row, i2, i3)
      (((x.valFrom rd (c.sw 0) zi).mul (y.valFrom rd (c.sw 1) bi), false), false)
    else
      let f (j : Nat) : Ix × Ix := factorIx p.flow row col j i2 i3
      let a := s.accBase g e
      let old := leNat (s.cells a 4)
      if intProduct c then
        let start : Int × Bool := if t = 0 then (0, false) else (toSigned 32 old, NSet.mem s.arr.satd a)
        let (v, sat) := intChain (fun j =>
          toSigned (dtBits x.dtype) (x.codeFrom rd (f j).1) * toSigned (dtBits y.dtype) (y.codeFrom rd (f j).2)) start k0 k1
        ((ofInt v 0, sat), false)
      else
        let start : FVal := if t = 0 then (if seedsAt c p r t then z.valFrom rd (c.sw 2) zi else .fin false 0 0)
          else f32Val (BitVec.ofNat 32 old)
        let term (j : Nat) : Option FVal :=
          passTerm p.pass pass (x.rawFrom rd (c.sw 0) (f j).1) (y.rawFrom rd (c.sw 1) (f j).2)
        let sc : Option (Nat → Option Int) :=
          if isMx x.dtype || isMx y.dtype then
            some (fun j => match x.blockExp rd (f j).1, y.blockExp rd (f j).2 with
              | some m, some n => some (m + n)
              | _, _ => none)
          else none
        let (v, inf) := chain ks (z.lin zi) pass term sc start k0 k1
        ((v, false), inf)
  let all := (List.range (nr * nc)).map one
  (all.map (·.1), all.any (·.2))

/-- Tiles of a group in the order they issue. -/
def Plan.groupTiles (p : Plan) (grp : Nat) : Nat := if p.flow = 3 then 1 else p.tilesOf (grp % p.split)

/-- Whether a tile carries FINAL: the last of its output tile (R183, R186). -/
def Plan.final (p : Plan) (grp t : Nat) : Bool := t + 1 == p.groupTiles grp && grp % p.split + 1 == p.split

/-- The 16 bytes of a tile instruction (R183). -/
def tileBytes (c : Cmd) (p : Plan) (grp piece region t : Nat) : List Byte :=
  let (_, h, w, r) := p.place grp
  let (_, nr, _, nc) := p.block h w
  let (k0, k1, pass) := p.tileRed r t
  let g := classG p.cls
  let acc := t != 0 || seedsAt c p r t
  let op := p.flow + b2n acc * 4 + b2n (p.final grp t) * 8 + 16 + (if p.cls = 3 then 3 + pass else p.cls) * 32
  let mt := if p.flow = 2 then k1 - k0 else nr
  let (ra, ca) := match p.flow with
    | 0 => (ceilDiv (k1 - k0) g, nc)
    | 1 => (ceilDiv nc g, k1 - k0)
    | 2 => (nr, nc)
    | _ => (ceilDiv nc g, ceilDiv nc g)
  [BitVec.ofNat 8 op, BitVec.ofNat 8 piece] ++ leBytes 2 mt ++ leBytes 2 ra ++ leBytes 2 ca ++ leBytes 4 k0
    ++ leBytes 2 region ++ [BitVec.ofNat 8 (r + Nat.log2 p.split * 16), 0]

/-- Useful cell-handshakes of a tile on one array (R196): unmasked cells times the handshakes of its Stream phase. `lo` and `hi`
bound the cell rows of the array within the piece. -/
def tileUse (p : Plan) (b : List Byte) (lo hi : Nat) : Nat :=
  let mt := fieldAt b 2 2
  let ra := min hi (fieldAt b 4 2) - lo
  let ca := fieldAt b 6 2
  let g := classG p.cls
  match p.flow with
  | 0 => mt * ra * ca
  | 1 => mt * max 1 (g / 2) * ra * ca
  | 2 => ceilDiv mt g * ra * ca
  | _ => mt * ra

/-- Update the arrays' state. -/
def State.setArr (s : State) (x : ArrSt) : State := { s with arr := x }

/-- The job of a command. -/
def State.job (s : State) (r : CmdRef) : Option Job := s.arr.jobs.find? (fun j => j.ref == r)

/-- Replace a job. -/
def State.setJob (s : State) (j : Job) : State :=
  s.setArr { s.arr with jobs := s.arr.jobs.map (fun k => if k.ref = j.ref then j else k) }

/-- Drop a job: its tiles are discarded and its regions and panels freed. -/
def State.dropJob (s : State) (r : CmdRef) : State :=
  let mine (x : Panel) : Bool := s.arr.tiles.any (fun t => t.ref == r && t.array == x.array && t.piece == x.piece)
  s.setArr { s.arr with jobs := s.arr.jobs.filter (fun j => j.ref != r), tiles := s.arr.tiles.filter (fun t => t.ref != r)
                        panels := s.arr.panels.filter (fun x => !mine x) }

/-- Undefined contents of an output: free bytes over its rows and MX scales. -/
def State.scrambleTensor (s : State) (d : TDesc) : State :=
  (d.rows ++ (if isMx d.dtype then [(d.scale, d.scaleCount)] else [])).foldl (fun s r => s.scramble r.1 r.2) s

/-- Start a product on the arrays; no available piece fails it with ARR_NO_PIECE (R193). -/
def State.startJob (s : State) (r : CmdRef) (c : Cmd) : State :=
  if (s.job r).isSome then s
  else if !s.anyPiece r.part.val r.queue.val then s.failRun r c 0x0304
  else s.setArr { s.arr with jobs := s.arr.jobs ++ [{ ref := r, grps := [], drained := 0 }] }

/-- MATMUL (R175). -/
def execMatmul (c : CmdRef) (s : State) : Host.Outcome State Fault Refusal :=
  .next (match s.running c 0x0020 with | some d => s.startJob c d | none => s)

/-- EWMUL (R189). -/
def execEwmul (c : CmdRef) (s : State) : Host.Outcome State Fault Refusal :=
  .next (match s.running c 0x0021 with | some d => s.startJob c d | none => s)

/-- Whether an array serves a command no longer: it has left the queue's mask, or has no available piece (R193). -/
def State.withdrawn (s : State) (r : CmdRef) (n : Nat) : Bool :=
  !(s.maskArrays r.part.val r.queue.val).contains n || !(List.range (cutPieces (s.arrImg n).cut)).any (s.pieceOk n)

/-- Whether a group's next tile may issue on an array: not done, none of its tiles in flight, its sums in this array's buffer or in that of a
withdrawn array, and a FINAL tile of a split only after the other ranges. -/
def State.canIssue (s : State) (j : Job) (p : Plan) (array grp : Nat) : Bool :=
  let st (g : Nat) : Option Grp := Sparse.find j.grps g
  let done (g : Nat) : Nat := match st g with | some x => x.done | none => 0
  let ok := match st grp with | some x => !x.busy && (x.array == array || s.withdrawn j.ref x.array) | none => true
  ok && done grp < p.groupTiles grp
    && (grp % p.split + 1 != p.split || done grp + 1 != p.groupTiles grp
        || (List.range (p.split - 1)).all (fun r => done (grp / p.split * p.split + r) == p.groupTiles (grp / p.split * p.split + r)))

/-- The first group of a job whose next tile may issue on an array. -/
def State.nextGrp (s : State) (j : Job) (p : Plan) (array : Nat) : Option Nat := (List.range p.groups).find? (s.canIssue j p array)

/-- Whether a region of an array is free and lies in one buffer (R183, R187). [DESIGN CHOICE, log 62] -/
def State.regionFree (s : State) (array region units : Nat) : Bool :=
  let cap := if (s.arrImg array).cut = 5 then 1024 else 512
  region + units ≤ cap && (region / 512 == (region + units - 1) / 512) && 0 < units
    && s.arr.jobs.all (fun j => j.grps.all (fun g => g.2.array != array || g.2.units == 0
        || region + units ≤ g.2.region || g.2.region + g.2.units ≤ region))

/-- The tiles reserved on a piece: of its output tiles and ranges that have begun and have tiles left; at most two are kept (R187). [DESIGN CHOICE, log 109] -/
def State.reserved (s : State) (array piece : Nat) : Nat :=
  s.arr.jobs.foldl (fun t j => t + (j.grps.filter (fun g => g.2.array == array && g.2.piece == piece && g.2.done < g.2.tiles)).length) 0

/-- Where an output drains to: a slice, a stack, or another place (R16). -/
def drainDest (d : TDesc) : Nat := if isT0 d.base then sliceOf d.base else if isHbm d.base then 8 + (stackOf d.base).val else 16

/-- Whether a drain credit is free at a destination (R184): each FINAL tile in flight holds one. -/
def State.creditFree (s : State) (dest : Nat) : Bool :=
  decide ((s.arr.tiles.filter (fun t => t.dest == some dest)).length < 1 + Config.drainCredits dest)

/-- Tiles already committed of a group. -/
def Job.doneOf (j : Job) (grp : Nat) : Nat := match Sparse.find j.grps grp with | some x => x.done | none => 0

/-- Whether a group's next tile finds accumulation space on an array and, if it is FINAL, a drain credit (R75, R184). -/
def State.hasRoom (s : State) (j : Job) (c : Cmd) (p : Plan) (array grp : Nat) : Bool :=
  let (_, h, w, _) := p.place grp
  let (_, nr, _, _) := p.block h w
  let held := match Sparse.find j.grps grp with | some x => x.array == array | none => false
  (held || ((List.range 1024).any (fun r => s.regionFree array r (p.units nr))
      && (List.range (cutPieces (s.arrImg array).cut)).any (fun i => s.pieceOk array i && s.reserved array i < 2)))
    && (!p.final grp (j.doneOf grp) || s.creditFree (drainDest (c.desc 2)))

/-- Whether a product `a` takes an array before a product `b` of its partition (R75): it has the higher PRIORITY; or the same, and the array works on
it, or works on neither and its queue comes first in the rotation. -/
def State.arrayBefore (s : State) (array : Nat) (a b : CmdRef) : Bool :=
  let pr (r : CmdRef) : Nat := s.fget Fld.CMD_Qn_CTRL_PRIORITY r.queue.val r.part.val
  let last := Sparse.find s.arr.last array
  if pr a ≠ pr b then decide (pr b < pr a)
  else if last = some b then false
  else last == some a || s.queueBefore a.part.val (match last with | some l => l.queue.val | none => 63) a.queue.val b.queue.val

/-- Whether a running product that comes first has a tile ready for the array, with the accumulation space and drain credit that it needs (R75). -/
def State.outranked (s : State) (r : CmdRef) (array : Nat) : Bool :=
  s.arr.jobs.any (fun j => j.ref.part == r.part && j.ref.queue != r.queue && s.arrayBefore array j.ref r
    && (s.maskArrays j.ref.part.val j.ref.queue.val).contains array
    && match s.cmdAt j.ref.part.val j.ref.queue.val j.ref.slot with
       | some d =>
         let p := planOf d (s.queueCut j.ref.part.val j.ref.queue.val)
         d.phase == .running && !d.finished && d.stop == 0
           && (match s.nextGrp j p array with | some g => s.hasRoom j d p array g | none => false)
       | none => false)

/-! ## Panels (R16, R174, R184) -/

/-- The slices whose panel areas a tile of an array uses: both of a pair. -/
def State.panelSlices (s : State) (n : Nat) : List Nat := if (s.arrImg n).cut = 5 then [n, (s.arrImg n).pair] else [n]

/-- Whether a feeder reads an operand in place: it lies in the array's own slice and is no tier copy. -/
def State.inPlace (s : State) (n a : Nat) : Bool := isT0 a && (s.panelSlices n).contains (sliceOf a) && s.resolve a n == a

/-- A free block of `len` bytes in the panel area of an array. [DESIGN CHOICE, log 109] -/
def State.panelRoom (s : State) (n len : Nat) : Option Nat :=
  (s.panelSlices n).findSome? (fun k =>
    let lo := k * 0x10000000 + 0x0C000000
    (lo :: s.arr.panels.map (fun x => x.base + x.len)).find? (fun a =>
      lo ≤ a && a + len ≤ lo + 0x4000000 && !s.arr.panels.any (fun x => rangesMeet (a, a + len) (x.base, x.base + x.len))))

/-- Stage ranges into a block of the panel area, for a partition's traffic class: what was staged, and whether a word was poisoned (R159). -/
def State.stagePanels (s : State) (p n base : Nat) (reads : List (Nat × Nat)) : State × List (Nat × Nat × Nat) × Bool :=
  let r := reads.foldl (fun (a : State × List (Nat × Nat × Nat) × Nat × Bool) x =>
    let y := a.1.readAs p x.1 x.2 n
    ((y.2.writePhys a.2.2.1 y.1.1).1, a.2.1 ++ [(x.1, x.2, a.2.2.1)], a.2.2.1 + x.2, a.2.2.2 || y.1.2)) (s, [], base, false)
  (r.1, r.2.1, r.2.2.2)

/-- One byte of an operand as a tile finds it: in its panel where it was staged, else in place. -/
def State.panelByte (s : State) (n : Nat) (segs : List (Nat × Nat × Nat)) (a : Nat) : Byte :=
  match segs.find? (fun x => x.1 ≤ a && a < x.1 + x.2.1) with
  | some x => s.cell (x.2.2 + (a - x.1))
  | none => s.byte a n

/-- Write a tile's results to the accumulation buffer (R192). -/
def State.putAcc (s : State) (g : Grp) (int : Bool) (res : List (FVal × Bool)) : State :=
  (List.range res.length).foldl (fun s k =>
    let (v, sat) := res.getD k (.nan, false)
    let a := s.accBase g k
    let w := if int then BitVec.ofNat 32 (encodeElem 0x0F true v) else f32Of v
    let s := (s.writePhys a (leBytes 4 w.toNat)).1
    s.setArr { s.arr with satd := if sat then NSet.insert s.arr.satd a else NSet.erase s.arr.satd a }) s

/-- The accumulated values of a group move to another array's buffer (R193). -/
def State.moveAcc (s : State) (old new : Grp) (n : Nat) : State :=
  (List.range n).foldl (fun s k =>
    let a := s.accBase old k
    let b := s.accBase new k
    let sat := NSet.mem s.arr.satd a
    let s := (s.writePhys b (s.cells a 4)).1
    s.setArr { s.arr with satd := if sat then NSet.insert s.arr.satd b else NSet.erase s.arr.satd b }) s

/-! ## Issue -/

/-- Issue a tile: its region is held, its panels are staged, and it runs; a poisoned operand fails the command with HBM_UE (R159, R174, R184). -/
def State.issueTile (s : State) (r : CmdRef) (c : Cmd) (p : Plan) (j : Job) (grp n piece : Nat) (g : Grp) : State :=
  let reads := (tileReads c p grp g.done).filter (fun x => !s.inPlace n x.1)
  let len := reads.foldl (fun t x => t + x.2) 0
  match s.panelRoom n len with
  | none => s
  | some base =>
    let (s, segs, bad) := s.stagePanels r.part.val n base reads
    if bad then (s.dropJob r).failRun r c 0x0701
    else
      let (res, inf) := s.tileCompute c p grp g g.done (s.panelByte n segs)
      let dest := if p.final grp g.done then some (drainDest (c.desc 2)) else none
      let t : Tile := { array := n, piece := piece, ref := r, grp := grp, idx := g.done,
                        instr := tileBytes c p grp piece g.region g.done, retried := false, results := res, dest := dest }
      let s := if inf then s.srInf r.part.val else s
      let s := s.setJob { j with grps := Sparse.insert j.grps grp { g with busy := true } }
      s.setArr { s.arr with tiles := s.arr.tiles ++ [t], panels := s.arr.panels ++ [{ array := n, piece := piece, base := base, len := len, segs := segs }]
                            last := Sparse.insert s.arr.last n r }

/-- Whether a piece takes a tile of a command (R75, R184, R193): of an array of the mask, available, with no tile in flight, and no product comes
first. -/
def State.pieceTakes (s : State) (r : CmdRef) (n piece : Nat) : Bool :=
  (s.maskArrays r.part.val r.queue.val).contains n && s.pieceOk n piece && !s.outranked r n
    && !s.arr.tiles.any (fun t => t.array == n && t.piece == piece)

/-- TILE_ISSUE: the next tile of a command issues on a piece when the piece is free and available, its panels find room, its region is
reserved and a FINAL tile's drain credit is held; otherwise the piece stays idle (R184). A queue without an available piece fails its command (R193). -/
def State.tileIssue (s : State) (r : CmdRef) (array : Quad) (piece region : Nat) (c : Cmd) : State :=
  let p := planOf c (s.queueCut r.part.val r.queue.val)
  let n := s.leadOf array.val
  match s.job r with
  | none => s
  | some j =>
    if !s.anyPiece r.part.val r.queue.val then (s.dropJob r).failRun r c 0x0304
    else if !s.pieceTakes r n piece then s
    else
      match s.nextGrp j p n with
      | none => s
      | some grp =>
        if p.final grp (j.doneOf grp) && !s.creditFree (drainDest (c.desc 2)) then s
        else
          let (_, h, w, _) := p.place grp
          let (_, nr, _, nc) := p.block h w
          let fresh : Grp := { array := n, piece := piece, region := region, units := p.units nr, tiles := p.groupTiles grp, done := 0, busy := false }
          match Sparse.find j.grps grp with
          | some g =>
            if g.array = n then s.issueTile r c p j grp n piece g
            else if !s.regionFree n region g.units || 2 ≤ s.reserved n piece then s
            else
              let g' := { fresh with done := g.done }
              (s.moveAcc g g' (nr * nc)).issueTile r c p { j with grps := Sparse.insert j.grps grp g' } grp n piece g'
          | none =>
            if !s.regionFree n region fresh.units || 2 ≤ s.reserved n piece then s
            else s.issueTile r c p j grp n piece fresh

/-- TILE_ISSUE (R184). [DESIGN CHOICE, log 7] -/
def execTileIssue (c : CmdRef) (array : Quad) (piece region : Nat) (s : State) : Host.Outcome State Fault Refusal :=
  .next (match s.running c 0x0020, s.running c 0x0021 with
    | some d, _ => s.tileIssue c array piece region d
    | none, some d => s.tileIssue c array piece region d
    | none, none => s)

/-- The values that drain from an output tile: the ranges of a split merged in ascending order, an integer chain scaled and
its seed added (R176, R180, R181, R204). -/
def State.drainVals (s : State) (c : Cmd) (p : Plan) (j : Job) (out : Nat) : List (Ix × FVal) :=
  let (b, h, w, _) := p.place (out * p.split)
  let z := c.desc 2
  let i2 := b % max 1 (z.dim 2)
  let i3 := b / max 1 (z.dim 2)
  let (r0, nr, c0, nc) := p.block h w
  (List.range (nr * nc)).map (fun e =>
    let zi : Ix := (c0 + e % nc, r0 + e / nc, i2, i3)
    let addrs := (List.range p.split).map (fun r => s.accBase ((Sparse.find j.grps (out * p.split + r)).getD default) e)
    let word (a : Nat) : Nat := leNat (s.cells a 4)
    if intProduct c then
      let m := intMerge (addrs.map (fun a => (toSigned 32 (word a), NSet.mem s.arr.satd a)))
      let v := ofInt m (scaleExp (c.desc 0).dtype (c.sw 0) + scaleExp (c.desc 1).dtype (c.sw 1))
      if cOparg c / 4 % 2 = 1 then (zi, f32Val (f32Add (f32Of v) (f32Of (s.elemVal z (c.sw 2) zi)))) else (zi, v)
    else
      let ws := addrs.map (fun a => BitVec.ofNat 32 (word a))
      (zi, f32Val (match ws with | [] => 0 | w :: t => t.foldl f32Add w)))

/-- The positions of an output tile with the results of an element-wise tile. [DEDUCED, log 63] -/
def ewVals (c : Cmd) (p : Plan) (grp : Nat) (res : List (FVal × Bool)) : List (Ix × FVal) :=
  let (b, h, w, _) := p.place grp
  let z := c.desc 2
  let (r0, _, c0, nc) := p.block h w
  (List.range res.length).map (fun e =>
    ((c0 + e % nc, r0 + e / nc, b % max 1 (z.dim 2), b / max 1 (z.dim 2)), (res.getD e (.nan, false)).1))

/-- Count a committed tile in TILES and USE of an array (R196). -/
def State.countTile (s : State) (n use : Nat) : State :=
  let s := s.wr64 .ARR_An_TILES_LO .ARR_An_TILES_HI (s.rd64 .ARR_An_TILES_LO .ARR_An_TILES_HI n + 1) n
  let total := Sparse.get 0 s.arr.use n + use
  let s := s.setArr { s.arr with use := Sparse.set 0 s.arr.use n (total % 262144) }
  s.wr64 .ARR_An_USE_LO .ARR_An_USE_HI (s.rd64 .ARR_An_USE_LO .ARR_An_USE_HI n + total / 262144) n

/-- The seeds of an integer product are read as its output tile drains (R176): whether a word was poisoned. -/
def State.seedRead (s : State) (p n : Nat) (c : Cmd) (pl : Plan) (grp : Nat) : State × Bool :=
  if intProduct c && pl.flow != 3 && bitOf (cOparg c) 2 then
    let (b, h, w, _) := pl.place grp
    let (r0, nr, c0, nc) := pl.block h w
    let z := c.desc 2
    (z.rectReads c0 (c0 + nc) r0 (r0 + nr) (b % max 1 (z.dim 2)) (b / max 1 (z.dim 2))).foldl (fun a x =>
      let y := a.1.readAs p x.1 x.2 n
      (y.2, a.2 || y.1.2)) (s, false)
  else (s, false)

/-- TILE_COMMIT: the results of the tile in flight are written to the accumulation buffer; a FINAL tile drains its output tile
(R185, R186, R192). The command's operation ends with its last output tile. -/
def State.tileCommit (s : State) (t : Tile) (j : Job) (c : Cmd) : State :=
  let cut := (s.arrImg t.array).cut
  let p := planOf c cut
  let r := t.ref
  let s := s.setArr { s.arr with tiles := s.arr.tiles.filter (fun u => !(u.array == t.array && u.piece == t.piece))
                                 panels := s.arr.panels.filter (fun u => !(u.array == t.array && u.piece == t.piece)) }
  let s := s.countTile t.array (tileUse p t.instr 0 (if cut = 5 then 512 else 1024))
  let s := if cut = 5 then s.countTile (s.arrImg t.array).pair (tileUse p t.instr 512 1024) else s
  let g := (Sparse.find j.grps t.grp).getD default
  let g := { g with done := t.idx + 1, busy := false }
  let j := { j with grps := Sparse.insert j.grps t.grp g }
  let s := if p.flow = 3 then s else s.putAcc g (intProduct c) t.results
  if bitOf (fieldAt t.instr 0 1) 3 then
    let out := t.grp / p.split
    let (s, bad) := s.seedRead r.part.val t.array c p t.grp
    let vals := if p.flow = 3 then ewVals c p t.grp t.results else s.drainVals c p j out
    let (s, st, rec) := s.writeTensor r.part.val (c.desc 2) (c.sw 2) (satOf c.arith) vals
    let free := (List.range p.split).foldl (fun gs k =>
      match Sparse.find gs (out * p.split + k) with
      | some x => Sparse.insert gs (out * p.split + k) { x with units := 0 }
      | none => gs) j.grps
    let j := { j with grps := free, drained := j.drained + 1 }
    let c := c.record (c.desc 2) rec
    let st := if bad then 0x0701 else st
    if st ≠ 0 then (s.dropJob r).failRun r c st
    else if j.drained = p.outTiles then (s.dropJob r).finish r c
    else (s.setJob j).setCmd r.part.val r.queue.val c
  else s.setJob j

/-- TILE_COMMIT (R185). -/
def execTileCommit (array : Quad) (piece : Nat) (s : State) : Host.Outcome State Fault Refusal :=
  .next (match s.arr.tiles.find? (fun t => t.array == s.leadOf array.val && t.piece == piece) with
    | none => s
    | some t =>
      match s.job t.ref, s.cmdAt t.ref.part.val t.ref.queue.val t.ref.slot with
      | some j, some c => s.tileCommit t j c
      | _, _ => s)

/-- A fault in the tile in flight on a piece (R192): the first is reissued with the same panels and so the same results; the second
marks the facet suspect and fails the command, whose output is then undefined. -/
def State.tileFault (s : State) (array : Quad) (piece facet cause : Nat) : State :=
  let n := s.leadOf array.val
  match s.arr.tiles.find? (fun t => t.array == n && t.piece == piece) with
  | none => s
  | some t =>
    let r := t.ref
    let f := facet % 16
    let e : Ev := { code := 0x0301, cls := 0x06, inst := array.val, sev := 1, part := r.part.val,
                    p1 := array.val + f * 2 ^ 8 + cause % 4 * 2 ^ 16,
                    p2 := r.queue.val + r.slot % s.ringSlots r.part.val r.queue.val % 65536 * 2 ^ 16 }
    let s := (List.range 4).foldl (fun s w =>
      s.wr .ARR_An_LASTFAULTw (array.val * 4 + w) 0 (BitVec.ofNat 32 (fieldAt t.instr (4 * w) 4))) s
    if !t.retried then
      let s := s.setArr { s.arr with tiles := s.arr.tiles.map (fun u => if u = t then { u with retried := true } else u) }
      let s := s.sqSet .ARR_An_STATUS array.val 0 [Fld.ARR_An_STATUS_REISSUE] [Fld.ARR_An_STATUS_REISSUE_CNT]
      s.event e
    else
      let s := s.fset Fld.ARR_An_SUSPECT_FACETS (s.fget Fld.ARR_An_SUSPECT_FACETS array.val ||| 2 ^ f) array.val
      let s := s.sqSet .ARR_An_STATUS array.val 0 [Fld.ARR_An_STATUS_SUSPECT] []
      let s := s.event { e with code := 0x0302, sev := 2 }
      match s.cmdAt r.part.val r.queue.val r.slot with
      | some c => ((s.dropJob r).scrambleTensor (c.desc 2)).failRun r { c with stop := 0 } 0x0301
      | none => s.dropJob r

/-- TILE_FAULT (R192). -/
def execTileFault (array : Quad) (piece facet cause : Nat) (s : State) : Host.Outcome State Fault Refusal :=
  .next (s.tileFault array piece facet cause)

/-- HANDSHAKE_STALL: a facet handshake left incomplete for STALL_US is a fault of cause 2 (R191). -/
def execHandshakeStall (array : Quad) (piece facet : Nat) (s : State) : Host.Outcome State Fault Refusal :=
  .next (s.tileFault array piece facet 2)

/-! ## Checks at step 4 (R175, R176, R177, R189, R204) -/

/-- Whether the two inputs may be combined (R177). -/
def classesMix (a b : Nat) : Bool := (fmtClass a).isSome && (fmtClass b).isSome && isIntType a == isIntType b

/-- Whether a tensor is a matrix for R175: extents judged only. -/
def sameBatch (a b c : TDesc) : Bool := a.dim 2 == b.dim 2 && a.dim 2 == c.dim 2 && a.dim 3 == b.dim 3 && a.dim 3 == c.dim 3

/-- Whether an MX input's blocks run along an axis. -/
def mxAlong (d : TDesc) (axis : Nat) : Bool := !isMx d.dtype || d.mxAxis == axis

/-- The checks of MATMUL: 0 or a status. -/
def checkMatmul (c : Cmd) : Nat :=
  let a := c.desc 0
  let b := c.desc 1
  let z := c.desc 2
  let flow := cOparg c % 4
  let acc := cOparg c / 4 % 2 = 1
  let shape := match flow with
    | 0 => a.dim 0 == b.dim 1 && z.dim 0 == b.dim 0 && z.dim 1 == a.dim 1
    | 1 => a.dim 0 == b.dim 0 && z.dim 0 == b.dim 1 && z.dim 1 == a.dim 1
    | 2 => a.dim 1 == b.dim 1 && z.dim 0 == b.dim 0 && z.dim 1 == a.dim 0
    | _ => false
  let axes := match flow with
    | 0 => (0, 1) | 1 => (0, 0) | _ => (1, 1)
  if cDesc c 0 = 0 ∨ cDesc c 1 = 0 ∨ cDesc c 2 = 0 ∨ shape = false ∨ cOparg c / 8 % 8192 ≠ 0
      ∨ sameBatch a b z = false ∨ classesMix a.dtype b.dtype = false ∨ (acc ∧ z.dtype ≠ 1) then 0x0302
  else if !mxAlong a axes.1 || !mxAlong b axes.2 then 0x0303
  else if z.dtype = 0x0F ∧ (scaleExp a.dtype (c.sw 0) ≠ 0 ∨ scaleExp b.dtype (c.sw 1) ≠ 0) then 0x0441
  else 0

/-- The checks of EWMUL: 0 or a status. -/
def checkEwmul (c : Cmd) : Nat :=
  let a := c.desc 0
  let b := c.desc 1
  let z := c.desc 2
  let bc := cOparg c % 2 = 1
  let eqd (i : Nat) : Bool := a.dim i == z.dim i && (a.dim i == b.dim i || (i == 1 && bc && b.dim 1 == 1))
  let ok := (List.range 4).all eqd && (!bc || b.dim 1 == 1)
  if ok = false ∨ cOparg c / 2 ≠ 0 ∨ classesMix a.dtype b.dtype = false then 0x0302
  else if z.dtype = 0x0F ∧ (scaleExp a.dtype (c.sw 0) ≠ 0 ∨ scaleExp b.dtype (c.sw 1) ≠ 0) then 0x0441
  else 0

end Sys2Proof.Machine
end

