-- ==== Sys2Proof/Machine/Hello.lean ====
section
/-! DEFINITION. Recovery messages (R369, R370) and the HELLO exchange between a part and its partner (R367). -/

namespace Sys2Proof.Machine

/-! ## Messages -/

/-- An event of the recovery engine of a partition. -/
def State.rcvEvent (s : State) (p code sev p1 p2 : Nat) : State :=
  s.event { code := code, cls := 0x00, inst := 0, sev := sev, part := p, p1 := p1, p2 := p2 }

/-- A status set of the recovery engine. -/
def State.rcvStatus (s : State) (p : Nat) (bits cnts : List Fld) : State := s.sqSet .RCV_STATUS 0 p bits cnts

/-- The coordinate this part gives as a sender: its logical one; without one, its physical one (R370). -/
def State.senderCoord (s : State) : Coord := (s.ownL).getD s.ownP

/-- The recovery header of a message of this part (R370). -/
def State.recHdr (s : State) (rid step group : Nat) : RecHdr :=
  { rid := rid, step := step, sender := s.senderCoord, group := group, epoch := if group < 64 then s.epoch group else 0 }

/-- Three bytes of a coordinate. -/
def coordBytes (c : Coord) : List Byte := [BitVec.ofNat 8 c.x, BitVec.ofNat 8 c.y, BitVec.ofNat 8 c.z]

/-- The 16 bytes of a recovery header (R370). -/
def recHdrBytes (r : RecHdr) : List Byte :=
  leBytes 4 r.rid ++ leBytes 4 r.step ++ coordBytes r.sender ++ leBytes 1 r.group ++ leBytes 4 r.epoch

/-- Send a recovery message to a logical coordinate (R369): GROUP 0xFF in the routing header. The flag says that it had a route. -/
def State.sendRec (s : State) (mtype : Nat) (dst : Coord) (r : RecHdr) (body : List Byte) : State × Bool :=
  s.sendRouted 0xFF mtype (s.toPhys dst) (recHdrBytes r ++ body)

/-- Whether the message's sender is the coordinate a pairing register names. -/
def State.pairNames (s : State) (r : RegName) (p : Nat) (c : Coord) : Bool :=
  wGet (s.rd r 0 p) 18 18 == 1 && wGet (s.rd r 0 p) 17 0 == coordNum c

/-- The lowest partition whose pairing register names a coordinate. -/
def State.pairPart (s : State) (r : RegName) (c : Coord) : Option Nat := (List.range 4).find? (fun p => s.pairNames r p c)

/-- The pairing a register holds is accepted. -/
def State.pairAccepted (s : State) (r : RegName) (p : Nat) : Bool := wGet (s.rd r 0 p) 18 18 == 1 && wGet (s.rd r 0 p) 19 19 == 1

/-- Set ACCEPTED or REFUSED of a pairing. -/
def State.setPair (s : State) (r : RegName) (p : Nat) (ok : Bool) : State :=
  s.wr r 0 p (wSet (wSet (s.rd r 0 p) 19 19 (b2n ok)) 20 20 (b2n (!ok)))

/-! ## HELLO (R367) -/

/-- Send HELLO of a KIND from partition `p` to a logical coordinate. -/
def State.sendHello (s : State) (p : Nat) (kind : Nat) (dst : Coord) : State :=
  (s.sendRec 0x13 dst (s.recHdr 0 0 0xFF)
    (leBytes 1 kind ++ leBytes 1 (s.fget Fld.GLB_STRAPS_FEED_ID) ++ leBytes 1 (s.fget Fld.RCV_CFG_ALLOW_SAME_FEED 0 p) ++ leBytes 5 0)).1

/-- The HELLO request of a partition to its partner, where RCV_PARTNER is valid. -/
def State.helloPartner (s : State) (p : Nat) : State :=
  if s.fbit Fld.RCV_PARTNER_VALID 0 p then s.sendHello p 0 (coordOf (s.fget Fld.RCV_PARTNER_COORD 0 p)) else s

/-- HELLO is repeated after every remap write (R367). -/
def State.helloAll (s : State) : State := (List.range 4).foldl (fun s p => s.helloPartner p) s

/-- HELLO is repeated when a session starts on the port by which the route to the partner leaves (R367). -/
def State.helloSession (s : State) (port : Nat) : State :=
  (List.range 4).foldl (fun s p =>
    let dst := s.toPhys (coordOf (s.fget Fld.RCV_PARTNER_COORD 0 p))
    match s.route 0xFF dst with
    | some (_, _, leg :: _) => if 2 * leg.1 + b2n leg.2 = port then s.helloPartner p else s
    | _ => s) s

/-- A refused pairing: SAME_FEED and RCV_SAME_FEED on this part (R367). -/
def State.helloRefused (s : State) (p : Nat) (c : Coord) (feed : Nat) : State :=
  (s.rcvStatus p [Fld.RCV_STATUS_SAME_FEED] []).rcvEvent p 0x0B07 1 (coordNum c) feed

/-- A HELLO arrives (R367). A request is accepted where this part's WARD names the sender and the feeds differ, or where ALLOW_SAME_FEED
is set. [DEDUCED, log 37] -/
def State.hello (s : State) (r : RecHdr) (kind feed : Nat) : State :=
  match kind with
  | 0 =>
    let q := s.pairPart .RCV_WARD r.sender
    let p := q.getD 0
    let allow := match q with
      | some p => s.fbit Fld.RCV_CFG_ALLOW_SAME_FEED 0 p
      | none => (List.range 4).any (fun p => s.fbit Fld.RCV_CFG_ALLOW_SAME_FEED 0 p)
    let ok := allow || (q.isSome && feed != s.fget Fld.GLB_STRAPS_FEED_ID)
    let s := if q.isSome then s.setPair .RCV_WARD p ok else s
    let s := s.sendHello p (if ok then 1 else 2) r.sender
    if ok then s else s.helloRefused p r.sender feed
  | _ =>
    match s.pairPart .RCV_PARTNER r.sender with
    | none => s
    | some p =>
      let s := s.setPair .RCV_PARTNER p (kind == 1)
      if kind = 1 then s else s.helloRefused p r.sender feed

/-- HELLO (R367). -/
def execHello (h : RouteHdr) (r : RecHdr) (kind feed : Nat) (_allowSame : Bool) (s : State) : Host.Outcome State Fault Refusal :=
  .next (if h.mtype = 0x13 ∧ kind ≤ 2 then s.hello r kind feed else s)

/-- A write of `RCV_PARTNER` or `RCV_WARD` is a new pairing, not yet accepted or refused, and sends HELLO to the partner (R367). [DESIGN CHOICE, log 38] -/
def State.pairingWrite (s : State) (view p : Nat) (r : RegName) (v : Word) : State :=
  (s.fieldWrite view r 0 p v (fun w => wSet w 20 19 0)).helloPartner p

/-- RCV_PAIRING_WRITE (R367). -/
def execRcvPairingWrite (p : Part) (ward : Bool) (v : Word) (s : State) : Host.Outcome State Fault Refusal :=
  .next (s.pairingWrite p.val p.val (if ward then .RCV_WARD else .RCV_PARTNER) v)

/-- PER_REMAP_L_WRITE (R313, R367). -/
def execPerRemapLWrite (i : GroupId) (v : Word) (s : State) : Host.Outcome State Fault Refusal := .next (s.remapLWrite i.val v).helloAll

/-- PER_REMAP_P_WRITE (R313, R367). -/
def execPerRemapPWrite (i : GroupId) (v : Word) (s : State) : Host.Outcome State Fault Refusal := .next (s.remapPWrite i.val v).helloAll

end Sys2Proof.Machine
end

