-- ==== Sys2Proof/Machine/Link.lean ====
section
/-! DEFINITION. The link layer: what a received flit does (R272, R273, R276 to R278, R280), retry (R275 to R277), and training
(R282 to R285). Link-down, FAIL and the rows that receive flits are in LinkDown.lean. -/

namespace Sys2Proof.Machine

/-- An event of a port (R290). -/
def State.portEvent (s : State) (p : PortId) (code sev p1 p2 : Nat) : State :=
  s.event { code := code, cls := 0x0A, inst := p.val, sev := sev, p1 := p1, p2 := p2 }

/-- Set a port's training state. -/
def State.setLnk (s : State) (p : PortId) (st : Nat) : State := s.fset Fld.LNK_Pp_STATE_STATE st p.val

/-! ## Receiving -/

/-- Bits of the flit header (R272). -/
def Flit_kind (f : Flit) : Nat := bitsOf f.header.toNat 3 0
def Flit_som (f : Flit) : Bool := bitOf f.header.toNat 4
def Flit_eom (f : Flit) : Bool := bitOf f.header.toNat 5
def Flit_vc (f : Flit) : Nat := bitsOf f.header.toNat 10 6
def Flit_fseq (f : Flit) : Nat := bitsOf f.header.toNat 23 12
def Flit_ackseq (f : Flit) : Nat := bitsOf f.header.toNat 35 24
def Flit_crvc (f : Flit) : Nat := bitsOf f.header.toNat 40 36
def Flit_crcnt (f : Flit) : Nat := bitsOf f.header.toNat 51 41

/-- The flit's reserved bits are zero (R272, R273). -/
def flitReservedOk (f : Flit) : Bool := !bitOf f.header.toNat 11 && bitsOf f.header.toNat 63 52 == 0

/-- The CRC-32C over bytes 0 to 251 is right (R272). -/
def flitCrcOk (f : Flit) : Bool :=
  f.payload.length == 244 && crc32c (leBytes 8 f.header.toNat ++ f.payload) == f.crc.toNat

/-- Count a discarded flit: UNCORR for an uncorrectable codeword, CRC_FAIL for a failed CRC (R273). -/
def State.countBad (s : State) (p : PortId) (fecOk : Bool) : State :=
  if fecOk then s.fset Fld.LNK_Pp_ERR_CRC_FAIL (s.fget Fld.LNK_Pp_ERR_CRC_FAIL p.val + 1) p.val
  else s.fset Fld.LNK_Pp_ERR_UNCORR (s.fget Fld.LNK_Pp_ERR_UNCORR p.val + 1) p.val

/-- A protocol error: PROTO and LNK_PROTO (R273). -/
def State.linkProto (s : State) (p : PortId) (f : Flit) : State :=
  (s.sqSet .LNK_Pp_STATUS p.val 0 [Fld.LNK_Pp_STATUS_PROTO] []).portEvent p 0x0907 1 p.val f.header.toNat

/-- The acknowledgement and the credit count of a good header (R275, R280). -/
def State.ackHeader (s : State) (p : PortId) (f : Flit) : State :=
  let x := vget s.ports p
  let acked := x.retry.any (fun e => e.1 == Flit_ackseq f)
  let retry := if acked then (x.retry.dropWhile (fun e => e.1 != Flit_ackseq f)).drop 1 else x.retry
  let vc := Flit_crvc f
  let diff := (Flit_crcnt f + 2048 - Sparse.get 0 x.credSeen vc) % 2048
  let s := s.setPort p { x with retry := retry, replays := if acked then 0 else x.replays,
                                credSeen := Sparse.set 0 x.credSeen vc (Flit_crcnt f) }
  if vc < numVcs p.val then s.fset Fld.LNK_Pp_VCv_AVAIL (min 2047 (s.avail p.val vc + diff)) (p.val * 32 + vc) else s

/-- Take a good header; what can go then goes. -/
def State.takeHeader (s : State) (p : PortId) (f : Flit) : State := (s.ackHeader p f).pump p

/-- A DATA flit was discarded: the gap opens and one NAK names the FSEQ expected (R276). -/
def State.openGap (s : State) (p : PortId) : State :=
  if (vget s.ports p).gap then s else (s.modPort p (fun x => { x with gap := true })).putNak p

/-- Deliver an in-order DATA flit to its VC; with EOM the message is whole (R278). The freed buffer counts as a credit (R280). -/
def State.deliver (s : State) (p : PortId) (f : Flit) : State :=
  let x := vget s.ports p
  let vc := Flit_vc f
  let sofar := if Flit_som f then [] else Sparse.get [] x.openMsg vc
  let msg := sofar ++ f.payload
  let s := s.setPort p
    { x with gap := false, rxExp := (x.rxExp + 1) % 4096,
             openMsg := if Flit_eom f then Sparse.erase x.openMsg vc else Sparse.insert x.openMsg vc msg,
             credGiven := Sparse.set 0 x.credGiven vc ((Sparse.get 0 x.credGiven vc + 1) % 2048) }
  if Flit_eom f then s.emit (.delivered p vc msg) else s

/-- A good DATA flit (R276, R278): one with the FSEQ expected is delivered, any other is discarded. A VC that the port does not have is a protocol
error. -/
def State.dataFlit (s : State) (p : PortId) (f : Flit) : State :=
  if numVcs p.val ≤ Flit_vc f then (s.linkProto p f).openGap p
  else
    let s := s.takeHeader p f
    if Flit_fseq f = (vget s.ports p).rxExp then s.deliver p f else s.openGap p

/-- Whether what a port has sent since a state holds a flit. -/
def sentFlit (n : Nat) (p : PortId) (out : List Output) : Bool :=
  (out.drop n).any (fun o => match o with | .flit q _ => q == p | _ => false)

/-- A port in ACTIVE that has sent no flit since its transmit log had `n` entries sends IDLE (R271). [DESIGN CHOICE, log 103] -/
def State.fillIdle (s : State) (n : Nat) (p : PortId) : State :=
  if s.portActive p.val && !sentFlit n p s.out then s.putIdle p else s

/-! ## Retry -/

/-- Note a replay in the port's status (12). -/
def State.countReplay (s : State) (p : PortId) : State :=
  s.sqSet .LNK_Pp_STATUS p.val 0 [Fld.LNK_Pp_STATUS_RETRY] [Fld.LNK_Pp_STATUS_REPLAY_CNT]

/-- NAK_REPEAT: the gap stays open for ACK_US and the NAK is repeated (R276). -/
def execNakRepeat (p : PortId) (s : State) : Host.Outcome State Fault Refusal :=
  .next (if s.portActive p.val && (vget s.ports p).gap then s.putNak p else s)

/-- Enter RETRAIN with the given lanes as candidates: the session, retry buffer, sequence numbers and credits stay (R285). -/
def State.enterRetrain (s : State) (p : PortId) (lanes far : Nat) : State :=
  let w := s.fget Fld.LNK_Pp_STATE_WIDTH p.val
  let g := s.fget Fld.LNK_Pp_STATE_GEN p.val
  let s := s.modPort p (fun x => { x with lockLanes := lanes, farLanes := far, gen := g, oldWidth := w, oldGen := g,
                                          eqTries := 0, retrains := 1, failedLanes := 0 })
  (s.setLnk p 7).fset Fld.LNK_Pp_STATE_GEN 0 p.val

/-- Replay from a flit (R276); after REPLAY_MAX consecutive replays that brought no acknowledgement forward the port enters RETRAIN instead (R277). -/
def State.replayOr (s : State) (p : PortId) (fseq : Nat) : State :=
  if s.fget Fld.LNK_CFG_REPLAY_MAX ≤ (vget s.ports p).replays then s.enterRetrain p (s.fget Fld.LNK_Pp_STATE_LANES p.val) 0xFF
  else ((s.modPort p (fun x => { x with replays := x.replays + 1 })).countReplay p).replayFrom p fseq

/-- A received NAK: replay from the named flit, and what is queued behind it follows (R276). -/
def State.nak (s : State) (p : PortId) (fseq : Nat) : State :=
  if (vget s.ports p).retry.any (fun e => e.1 == fseq) then s.replayOr p fseq else s.pump p

/-- REPLAY: the oldest unacknowledged flit has waited ACK_US; the port replays from it, or enters RETRAIN (R277). -/
def State.replay (s : State) (p : PortId) : State :=
  match (vget s.ports p).retry.head? with
  | none => s
  | some e => if s.portActive p.val then s.replayOr p e.1 else s

/-- REPLAY (R277). -/
def execReplay (p : PortId) (s : State) : Host.Outcome State Fault Refusal := .next (s.replay p)

/-- Lanes of a port have failed: they show it, and LNK_DEGRADE will name them (R284, R290). -/
def State.failLanes (s : State) (p : PortId) (bad : Nat) : State :=
  let s := (setBits 8 bad).foldl (fun s l => s.fset Fld.LNK_Pp_LANEl_LSTATE 3 (p.val * 8 + l)) s
  s.modPort p (fun x => { x with failedLanes := x.failedLanes ||| bad })

/-- RETRAIN_REQ received: the port enters RETRAIN with the lanes that both sides receive cleanly; a retrain keeps the generation (R282, R284). Where
both sides ask at once one retrain runs. -/
def State.retrainReq (s : State) (p : PortId) (mask : Nat) : State :=
  let use := s.fget Fld.LNK_Pp_STATE_LANES p.val
  let bad := use ^^^ (use &&& mask)
  if s.portActive p.val then (s.enterRetrain p use mask).failLanes p bad
  else if s.portState p.val = 7 then (s.modPort p (fun x => { x with farLanes := x.farLanes &&& mask })).failLanes p bad
  else s

/-- The 10-bit symbols that a lane carries in 1 ms at G2 and G3 (R269, R271). [DEDUCED, log 112] -/
def laneSymbols (gen : Nat) : Nat := if gen = 3 then 22400000 else 11200000

/-- Whether a measurement shows a lane in use as failed (R284): no lock; at G2 and G3 a corrected-symbol ratio above 10^−SER_EXP; at G1 an eye below
15 mV. -/
def laneBad (gen ser : Nat) (m : LaneMeas) : Bool :=
  !m.lock || (if gen = 1 then decide (m.eyeMv < 15) else decide (laneSymbols gen < m.symErr * 10 ^ ser))

/-- The lanes of a mask whose measurement satisfies a test. -/
def lanesWhere (use : Nat) (ms : List LaneMeas) (bad : LaneMeas → Bool) : Nat :=
  ((setBits 8 use).filter (fun l => (ms[l]?).any bad)).foldl (fun n l => n + 2 ^ l) 0

/-- Report the measurements of the lanes in use: EYE_MV, SYMERR, and the corrected symbols of the port (12). -/
def State.noteLanes (s : State) (p : PortId) (use : Nat) (ms : List LaneMeas) : State :=
  let s := (setBits 8 use).foldl (fun (s : State) l =>
    match ms[l]? with
    | none => s
    | some m => (s.fset Fld.LNK_Pp_LANEl_EYE_MV (min 255 m.eyeMv) (p.val * 8 + l)).fset Fld.LNK_Pp_LANEl_SYMERR (min 0xFFFF m.symErr) (p.val * 8 + l)) s
  let n := (setBits 8 use).foldl (fun n l => n + ((ms[l]?).map (·.symErr)).getD 0) 0
  s.wr64 .LNK_Pp_FEC_LO .LNK_Pp_FEC_HI (s.rd64 .LNK_Pp_FEC_LO .LNK_Pp_FEC_HI p.val + n) p.val

/-- The lanes of a port are measured: where one has failed, three RETRAIN_REQ with the mask of lanes still received cleanly, then RETRAIN; a port
that has lost lock on every lane enters RETRAIN with all of them (R284). [DEDUCED, log 112] -/
def State.laneFail (s : State) (p : PortId) (ms : List LaneMeas) : State :=
  if !s.portActive p.val then s
  else
    let use := s.fget Fld.LNK_Pp_STATE_LANES p.val
    let gen := s.fget Fld.LNK_Pp_STATE_GEN p.val
    let s := s.noteLanes p use ms
    let bad := lanesWhere use ms (laneBad gen (s.fget Fld.LNK_Pp_CTRL_SER_EXP p.val))
    if bad = 0 then s
    else if lanesWhere use ms (fun m => !m.lock) = use then s.enterRetrain p use 0xFF
    else
      let good := use ^^^ bad
      let body : List Byte := [4, BitVec.ofNat 8 good, BitVec.ofNat 8 gen]
      let s := ((s.putCtrl p body).putCtrl p body).putCtrl p body
      (s.enterRetrain p good 0xFF).failLanes p bad

/-- LANE_FAIL (R284). -/
def execLaneFail (p : PortId) (lanes : List LaneMeas) (s : State) : Host.Outcome State Fault Refusal := .next (s.laneFail p lanes)

/-- The lanes that a port has (R268). -/
def laneMask (p : PortId) : Nat := 2 ^ portLanes p - 1

/-- The lanes of a port that may be used: those of LANE_EN that it has (R268). -/
def State.laneEn (s : State) (p : PortId) : Nat := s.fget Fld.LNK_Pp_CTRL_LANE_EN p.val &&& laneMask p

/-- LINK_RETRAIN: software writes RETRAIN, and every lane in LANE_EN is a candidate again (R285). -/
def State.linkRetrain (s : State) (p : PortId) : State :=
  if s.portActive p.val then s.enterRetrain p (s.laneEn p) 0xFF else s

/-- LINK_RETRAIN (R285). -/
def execLinkRetrain (p : PortId) (s : State) : Host.Outcome State Fault Refusal := .next (s.linkRetrain p)

/-! ## Training (R282, R283) -/

/-- The image's extent in the dimension of a peer port, as clamped (R413). -/
def State.peerExtent (s : State) (p : Nat) : Nat :=
  let t := s.boot.img.torus
  match p / 2 with | 0 => t.dx | 1 => t.dy | _ => t.dz

/-- A port that the image holds down: a Euton port of no partition (R291), a peer port in a dimension of 1 (R310). -/
def State.portUnused (s : State) (p : Nat) : Bool :=
  if p < 6 then s.peerExtent p ≤ 1 else 4 ≤ s.portOwner (p - 6)

/-- Whether a port may train: ENABLE set, not held after FAIL, not held down by the image; in ROM recovery E0
trains (R424). -/
def State.mayTrain (s : State) (p : PortId) : Bool :=
  s.fbit Fld.LNK_Pp_CTRL_ENABLE p.val && (vget s.ports p).heldFail == 0 && (!s.portUnused p.val || (s.boot.recovery && p.val == 6))
    && !s.boot.jtagHeld

/-- The identity record that a port sends (R282): its highest generation is MAX_GEN, so that both sides choose one target (R283). [DEDUCED, log 112] -/
def State.identityBytes (s : State) (p : PortId) : List Byte :=
  let b := [1, if p.val < 6 then 1 else 2, BitVec.ofNat 8 p.val, BitVec.ofNat 8 (s.fget Fld.LNK_Pp_CTRL_MAX_GEN p.val),
      BitVec.ofNat 8 (s.laneEn p), BitVec.ofNat 8 (s.fget Fld.GLB_STRAPS_SLOT_ID), BitVec.ofNat 8 (s.fget Fld.GLB_STRAPS_FEED_ID), 0]
    ++ leBytes 8 Config.serial.toNat ++ leBytes 2 (s.fget Fld.GLB_BOOT_BOOT_COUNT) ++ List.replicate 10 0
  b ++ leBytes 4 (crc32c b)

/-- DETECT ends: lock at G1 on a lane of LANE_EN, and the port sends its identity record (R282). A FAILED port locks too, but waits for the far side's
IDENTIFY (R289). -/
def State.detect (s : State) (p : PortId) (lanes : Nat) : State :=
  let m := lanes &&& s.laneEn p
  if s.mayTrain p && m ≠ 0 then
    if s.portState p.val = 1 then
      ((s.modPort p (fun x => { x with lockLanes := m, failedLanes := 0 })).setLnk p 2).emit (.identity p (s.identityBytes p))
    else if s.portState p.val = 8 then s.modPort p (fun x => { x with lockLanes := m, failedLanes := 0 })
    else s
  else s

/-- DETECT (R282). -/
def execDetect (p : PortId) (lanes : Nat) (s : State) : Host.Outcome State Fault Refusal := .next (s.detect p lanes)

/-- The far side's identity record is reported in the PEER registers (R282). -/
def State.notePeer (s : State) (p : PortId) (r : Identity) : State :=
  let s := s.wr64 .LNK_Pp_PEER_LO .LNK_Pp_PEER_HI r.serial p.val
  s.wr .LNK_Pp_PEER_ID p.val 0 (BitVec.ofNat 32 (r.role % 256 + r.port % 256 * 2 ^ 8 + r.slot % 64 * 2 ^ 16
    + r.feed % 16 * 2 ^ 22 + r.gen % 4 * 2 ^ 26))

/-- Whether a port listens for an identity record: it is in IDENTIFY, or FAILED with lock on a lane, when a record shows that the far side has started
IDENTIFY again (R289). -/
def State.listens (s : State) (p : PortId) : Bool :=
  s.portState p.val == 2 || (s.portState p.val == 8 && s.mayTrain p && (vget s.ports p).lockLanes != 0)

/-- IDENTIFY ends with a valid record on every locked lane: a far side of the wrong role keeps the port in IDENTIFY and is
recorded once; otherwise the target generation is the lowest of both sides' and MAX_GEN (R282, R283). -/
def State.identify (s : State) (p : PortId) (r : Identity) : State :=
  if !s.listens p || !r.valid || r.version ≠ 1 then s
  else
    let s := if s.portState p.val = 8 then (s.setLnk p 2).emit (.identity p (s.identityBytes p)) else s
    let s := s.notePeer p r
    if r.role ≠ (if p.val < 6 then 1 else 3) then
      if (vget s.ports p).roleSaid then s
      else (s.modPort p (fun x => { x with roleSaid := true })).portEvent p 0x0908 2 p.val r.role
    else
      let g := min (max r.gen 1) (min 3 (s.fget Fld.LNK_Pp_CTRL_MAX_GEN p.val))
      (s.modPort p (fun x => { x with gen := g, farGen := r.gen, farLanes := r.laneEn, eqTries := 0, retrains := 0,
                                      roleSaid := false, session := false })).setLnk p 3

/-- IDENTIFY (R282). -/
def execIdentify (p : PortId) (r : Identity) (s : State) : Host.Outcome State Fault Refusal := .next (s.identify p r)

/-- IDENTIFY_TIMEOUT: no record within 1 ms; DETECT again. A port whose far side has the wrong role stays in IDENTIFY (R282). -/
def execIdentifyTimeout (p : PortId) (s : State) : Host.Outcome State Fault Refusal :=
  .next (if s.portState p.val = 2 ∧ (vget s.ports p).roleSaid = false then s.setLnk p 1 else s)

/-- EQUALISE: presets and adaptation are complete, and VERIFY begins (R282). A port in RETRAIN runs from EQUALISE. -/
def execEqualise (p : PortId) (s : State) : Host.Outcome State Fault Refusal :=
  .next (if s.portState p.val = 3 ∨ s.portState p.val = 7 then s.setLnk p 4 else s)

/-- The widths a port allows at a generation, largest first (R269). -/
def widths (p gen : Nat) : List Nat :=
  let w := if p < 6 then [8, 4, 2, 1] else [4, 2, 1]
  if gen = 3 then w.filter (fun x => 1 < x) else w

/-- The end of VERIFY: the largest allowed width of the lanes passing in both directions, on the lowest of them; with none,
EQUALISE once more, then one generation lower, and at G1 back to DETECT (R283). -/
def State.verify (s : State) (p : PortId) (passing : Nat) : State :=
  if s.portState p.val ≠ 4 then s
  else
    let x := vget s.ports p
    let cand := x.lockLanes &&& x.farLanes
    let ok := setBits 8 (passing &&& cand)
    match (widths p.val x.gen).find? (fun w => w ≤ ok.length) with
    | some w =>
      (s.setPort p { x with lanesIn := (ok.take w).foldl (fun m l => m + 2 ^ l) 0, passed := passing &&& cand
                            failedLanes := x.failedLanes ||| (cand ^^^ (passing &&& cand)) }).setLnk p 5
    | none =>
      if x.eqTries = 0 then (s.setPort p { x with eqTries := 1 }).setLnk p 3
      else if 1 < x.gen then
        let s := (s.setPort p { x with eqTries := 0, gen := x.gen - 1 }).setLnk p 3
        let s := s.sqSet .LNK_Pp_STATUS p.val 0 [Fld.LNK_Pp_STATUS_GEN_FALLBACK] []
        s.portEvent p 0x0904 1 p.val x.gen
      else s.setLnk p 1

/-- VERIFY (R283). -/
def execVerify (p : PortId) (passing : Nat) (s : State) : Host.Outcome State Fault Refusal := .next (s.verify p passing)

/-- Parameter 1 of LNK_UP and LNK_DEGRADE: port, GEN, WIDTH (R290). -/
def linkParam (p gen width : Nat) : Nat := p + gen * 2 ^ 8 + width * 2 ^ 16

/-- The lane states after a width is chosen: in use, spare where they passed, failed where they failed (R283). -/
def State.setLanes (s : State) (p : PortId) (use passed failed : Nat) : State :=
  (List.range (portLanes p)).foldl (fun s l =>
    let st := if bitOf use l then 1 else if bitOf passed l then 2
      else if bitOf failed l || s.fget Fld.LNK_Pp_LANEl_LSTATE (p.val * 8 + l) == 3 then 3 else 0
    s.fset Fld.LNK_Pp_LANEl_LSTATE st (p.val * 8 + l)) s

/-- The allocations in force for a port's VCs. -/
def State.allocs (s : State) (p : Nat) : List (Nat × Nat) :=
  ((List.range (numVcs p)).map (fun v => (v, s.fget Fld.LNK_Pp_VCv_ALLOC (p * 32 + v)))).filter (fun e => e.2 != 0)

/-- A new session: fresh sequence numbers and credits; each VC's credit count starts at its ALLOC (R278, R280, R281). A Euton
port waits for ADAPTER_INFO again (R304). -/
def State.newSession (s : State) (p : PortId) : State :=
  let s := (vget s.ports p).openMsg.foldl (fun s m => s.emit (.truncated p m.1)) s
  let a := s.allocs p.val
  let g := a.filter (fun e => e.2 % 2048 != 0)
  let s := s.modPort p (fun x => { x with
    session := true, retry := [], txq := [], txSeq := 0, rxExp := 0, gap := false, replays := 0, credSeen := []
    credGiven := g, alloc := a, nextCrvc := 0, openMsg := [], narrowed := false, lastFwd := [] })
  let s := (List.range (numVcs p.val)).foldl (fun s v => s.fset Fld.LNK_Pp_VCv_AVAIL 0 (p.val * 32 + v)) s
  let s := s.fset Fld.LNK_Pp_STATE_SESSION (s.fget Fld.LNK_Pp_STATE_SESSION p.val + 1) p.val
  if 6 ≤ p.val then s.fset Fld.EUT_Ek_ADAPTER_INFO_VALID 0 (p.val - 6) else s

/-- ALIGN ends and the port is ACTIVE: a new session begins after IDENTIFY; after a retrain every unacknowledged flit is replayed
and a changed width or generation sets DEGRADED and records LNK_DEGRADE (R278, R285). -/
def State.align (s : State) (p : PortId) : State :=
  if s.portState p.val ≠ 5 then s
  else
    let x := vget s.ports p
    let w := popcount 8 x.lanesIn
    let n := s.out.length
    let s := s.setLanes p x.lanesIn x.passed x.failedLanes
    let s := ((s.fset Fld.LNK_Pp_STATE_GEN x.gen p.val).fset Fld.LNK_Pp_STATE_WIDTH w p.val).fset Fld.LNK_Pp_STATE_LANES x.lanesIn p.val
    let s := s.setLnk p 6
    if !x.session then
      let s := s.newSession p
      ((s.portEvent p 0x0901 0 (linkParam p.val x.gen w) (s.rd64 .LNK_Pp_PEER_LO .LNK_Pp_PEER_HI p.val)).helloSession p.val).fillIdle n p
    else
      let s := s.modPort p (fun x => { x with
        replays := 0, retrains := 0, failedLanes := 0, narrowed := x.narrowed || w < x.oldWidth || x.gen < x.oldGen })
      let s := match x.retry.head? with
        | some e => (s.countReplay p).replayFrom p e.1
        | none => (s.pump p).fillIdle n p
      if w ≠ x.oldWidth ∨ x.gen ≠ x.oldGen then
        (s.sqSet .LNK_Pp_STATUS p.val 0 [Fld.LNK_Pp_STATUS_DEGRADED] []).portEvent p 0x0903 1 (linkParam p.val x.gen w) x.failedLanes
      else s

/-- ALIGN (R285). -/
def execAlign (p : PortId) (s : State) : Host.Outcome State Fault Refusal := .next (s.align p)

/-- HOLDOFF_EXPIRY: HOLDOFF has passed after a link-down and the port enters DETECT (R287). -/
def execHoldoffExpiry (p : PortId) (s : State) : Host.Outcome State Fault Refusal :=
  .next (if s.portState p.val = 0 && s.mayTrain p then s.setLnk p 1 else s)

end Sys2Proof.Machine
end

