-- ==== Sys2Proof/Machine/Gr16.lean ====
section
/-! DEFINITION. The GR16 wire format and the arithmetic of the collective engine (R333 to R339, R345): local exponents, stage 0,
adders, narrowing, residues and the checks. -/

namespace Sys2Proof.Machine

/-! ## Residues (R338, R339) -/

/-- The residue of signed values modulo 65,535, in [0, 65,534]. -/
def residue (ms : List Int) : Nat := (ms.foldl (· + ·) 0 % 65535).toNat

/-- A 16-bit left rotation by `t` mod 16 bits. -/
def rot16 (r t : Nat) : Nat := r * 2 ^ (t % 16) % 65536 + r * 2 ^ (t % 16) / 65536

/-- A block with the RES of its mantissas. [DESIGN CHOICE, log 65] -/
def mkBlock (ms : List Int) (exp idx : Nat) : GrBlock := { m := ms, exp := exp, res := residue ms, idx := idx }

/-- A non-finite block: EXP 255 and zero mantissas (R334). -/
def nfBlock (idx : Nat) : GrBlock := mkBlock (List.replicate 64 0) 255 idx

/-- The receive check of R339. -/
def recvOk (b : GrBlock) : Bool := b.m.length == 64 && b.res == residue b.m && b.m.all (fun m => decide (m ≠ -32768))

/-- The 136 bytes of a block (R334). -/
def grBytes (b : GrBlock) : List Byte :=
  b.m.flatMap (fun m => leBytes 2 (ofSigned 16 m)) ++ [BitVec.ofNat 8 b.exp, 0] ++ leBytes 2 b.res ++ leBytes 4 b.idx

/-! ## Agreement (R333) -/

/-- The largest finite magnitude of a block's values. -/
def blockMax (vs : List Word) : Nat × Int :=
  vs.foldl (fun a w => match f32Val w with | .fin _ m e => maxMag a (m, e) | _ => a) (0, 0)

/-- The local exponent of a block: the smallest E in [0, 254] with max|v| ≤ 32,767 × 2^(E − 142); 255 when a value is not finite.
A finite block that no E covers has an unstated exponent. -/
def localExp (vs : List Word) : Nat :=
  if vs.any (fun w => !(f32Val w).isFin) then 255
  else
    let a := blockMax vs
    if a.1 = 0 then 0
    else
      let e := leastExp a (32767, -142)
      if e ≤ 0 then 0
      else if 254 < e then (Config.unstated 0x333 (f32Of (.fin false a.1 a.2)) 0 0).toNat % 256
      else e.toNat

/-- The AGREE record of a block. -/
def agreeOf (vs : List Word) : AgreeRec :=
  if vs.any (fun w => !(f32Val w).isFin) then { exp := 255, score := 0xFFFF, scale := 0x7FC0 }
  else
    let a := blockMax vs
    let sum := vs.foldl (fun (t : FVal) w => t.add (f32Val w).abs) (FVal.fin false 0 0)
    { exp := localExp vs, score := (f32Of (.fin false a.1 a.2)).toNat / 2 ^ 15 % 65536,
      scale := bf16Fmt.encode false (sum.scale (-6)) }

/-- The unsigned maximum of each field. -/
def agreeMax (a b : AgreeRec) : AgreeRec :=
  { exp := max a.exp b.exp, score := max a.score b.score, scale := max a.scale b.scale }

/-- The 8 bytes of an AGREE record. -/
def agreeBytes (a : AgreeRec) : List Byte :=
  [BitVec.ofNat 8 a.exp, 0] ++ leBytes 2 a.score ++ leBytes 2 a.scale ++ [0, 0]

/-! ## Stage 0 (R335) -/

/-- A magnitude divided by 2^k and rounded: to nearest even in REF mode, else stochastically (R213). -/
def narrowMag (refOrder : Bool) (m k r : Nat) : Nat := if refOrder then rneShift m k else srShift m k r

/-- The stage-0 mantissa of a value at exponent `e`, with its draw. R333 keeps it within 32,767 unless the exponent itself is
unstated; then the mantissa is unstated too. -/
def stage0Mant (refOrder : Bool) (e : Nat) (w : Word) (r : Nat) : Int :=
  match f32Val w with
  | .fin neg m x =>
    let k : Int := (e : Int) - 142 - x
    let q := if k ≤ 0 then m * 2 ^ (-k).toNat else narrowMag refOrder m k.toNat r
    if 32767 < q then max (-32767) (toSigned 16 (Config.unstated 0x335 w (BitVec.ofNat 32 e) (BitVec.ofNat 32 r)).toNat)
    else if neg then -(q : Int) else q
  | _ => 0

/-- The stage-0 block at the agreed exponent; `draw i` is the draw of element `i`. -/
def stage0Block (refOrder : Bool) (e idx : Nat) (vs : List Word) (draw : Nat → Nat) : GrBlock :=
  if e = 255 then nfBlock idx
  else mkBlock ((List.range 64).map (fun i => stage0Mant refOrder e (vs.getD i 0) (draw i))) e idx

/-! ## Adders and narrowing (R336, R337) -/

/-- A block's mantissas in units of 2^(E_g − 142): shifted left by EXP − E_g. -/
def alignTo (eg : Nat) (b : GrBlock) : List Int := b.m.map (fun m => m * 2 ^ (b.exp - eg))

/-- The sums of an adder. -/
def adderSums (eg : Nat) (a b : GrBlock) : List Int := List.zipWith (· + ·) (alignTo eg a) (alignTo eg b)

/-- The smallest s ≥ 0 with max|A| ≤ 32,767 × 2^s. -/
def narrowShift (as : List Int) : Nat :=
  let mx := as.foldl (fun t a => max t a.natAbs) 0
  ((List.range 64).find? (fun s => mx ≤ 32767 * 2 ^ s)).getD 64

/-- One narrowed sum. [DESIGN CHOICE, log 65] -/
def narrowOne (refOrder : Bool) (s : Nat) (a : Int) (r : Nat) : Int :=
  let q : Nat := if s = 0 then a.natAbs else narrowMag refOrder a.natAbs s r
  if a < 0 then -(q : Int) else q

/-- The narrowed mantissas. -/
def narrowAll (refOrder : Bool) (s : Nat) (as : List Int) (draw : Nat → Nat) : List Int :=
  (List.range as.length).map (fun i => narrowOne refOrder s (as.getD i 0) (draw i))

/-- The remainders d = A − m × 2^s. -/
def remainders (s : Nat) (as ms : List Int) : List Int := List.zipWith (fun a m => a - m * 2 ^ s) as ms

/-- The adder check of R339. -/
def adderOk (eg : Nat) (a b : GrBlock) (as : List Int) : Bool :=
  residue as == (rot16 (residue a.m) (a.exp - eg) + rot16 (residue b.m) (b.exp - eg)) % 65535

/-- The narrowing identity of R339. -/
def identityOk (s : Nat) (as ms : List Int) : Bool :=
  (residue as : Int) == ((rot16 (residue ms) s : Int) + (remainders s as ms).foldl (· + ·) 0) % 65535

/-- What an adder answers: its block, the number of a failed check (1 adder, 2 identity), whether it overflowed. -/
structure AdderOut where
  blk   : GrBlock
  check : Option Nat
  ovf   : Bool
  deriving DecidableEq, Repr

/-- The adder and narrowing of a block: the local and the received input at exponent `eg`. -/
def addBlocks (refOrder : Bool) (eg : Nat) (a b : GrBlock) (draw : Nat → Nat) : AdderOut :=
  if a.exp = 255 ∨ b.exp = 255 then { blk := nfBlock a.idx, check := none, ovf := false }
  else
    let as := adderSums eg a b
    let s := narrowShift as
    let ms := narrowAll refOrder s as draw
    let check := if !adderOk eg a b as then some 1 else if !identityOk s as ms then some 2 else none
    if 254 < eg + s then { blk := nfBlock a.idx, check := check, ovf := true }
    else { blk := mkBlock ms (eg + s) a.idx, check := check, ovf := false }

/-! ## One-bit blocks (R345) -/

/-- The 64 signs of a block: 1 for a negative value, 0 otherwise, −0 included. -/
def signsOf (vs : List Word) : BitVec 64 :=
  BitVec.ofNat 64 ((List.range 64).foldl (fun t i =>
    if (match f32Val (vs.getD i 0) with | .fin neg m _ => neg && m != 0 | .inf neg => neg | .nan => false) then t + 2 ^ i else t) 0)

/-- The signed counts of one member's signs. -/
def countsOf (b : BitVec 64) (idx : Nat) : GrBlock :=
  mkBlock ((List.range 64).map (fun i => if b.toNat.testBit i then (-1 : Int) else 1)) 0 idx

/-- The sum of two count blocks: exact, with the adder check and no narrowing. -/
def addCounts (a b : GrBlock) : AdderOut :=
  let as := List.zipWith (· + ·) a.m b.m
  { blk := mkBlock as 0 a.idx, check := if adderOk 0 { a with exp := 0 } { b with exp := 0 } as then none else some 1, ovf := false }

end Sys2Proof.Machine
end

