-- ==== Sys2Proof/Machine/Ledger.lean ====
section
/-! DEFINITION. The tensor ledger (R228 to R238, R471): entries in device memory, recording, commit with the zero-run, demotion and
scale rules (R205, R206), loss of history, the LEDGER operations, and the evaluation image. -/

namespace Sys2Proof.Machine

/-! ## Entries (R228) -/

/-- Replace bytes at an offset of a byte string. -/
def putAt (b : List Byte) (o : Nat) (x : List Byte) : List Byte := b.take o ++ x ++ b.drop (o + x.length)

/-- Whether the numerics monitor of a partition records and commits (R471). -/
def State.ledgerOn (s : State) (p : Nat) : Bool := s.fbit Fld.NUM_LEDGER_CTRL_ENABLE 0 p

/-- The number of entries of a partition's ledger. -/
def State.ledgerSize (s : State) (p : Nat) : Nat := 2 ^ s.fget Fld.NUM_LEDGER_CTRL_LOG2_ENTRIES 0 p

/-- The address of entry `i`. -/
def State.entAddr (s : State) (p i : Nat) : Nat := s.rd64 .NUM_LEDGER_BASE_LO .NUM_LEDGER_BASE_HI 0 p + 256 * i

/-- The 256 bytes of entry `i`. -/
def State.ent (s : State) (p i : Nat) : List Byte := s.bytes (s.entAddr p i) 256

/-- Fields of an entry. -/
def eTid (b : List Byte) : Nat := fieldAt b 0 4
def eLayer (b : List Byte) : Nat := fieldAt b 4 2
def eManaged (b : List Byte) : Bool := bitOf (fieldAt b 7 1) 0
def eDelayed (b : List Byte) : Bool := bitOf (fieldAt b 7 1) 1
def eBaseDtype (b : List Byte) : Nat := fieldAt b 8 1
def eLevel0 (b : List Byte) : Nat := fieldAt b 9 1
def eDA (b : List Byte) : Nat := fieldAt b 16 8
def eDB (b : List Byte) : Nat := fieldAt b 24 8
def eSW (b : List Byte) : Nat := fieldAt b 32 8
def eLevel (b : List Byte) : Nat := fieldAt b 64 1
def eHistCount (b : List Byte) : Nat := fieldAt b 65 1
def eFlag (b : List Byte) (i : Nat) : Bool := bitOf (fieldAt b 66 1) i

/-- Set or clear a bit of MFLAGS: 0 VALID, 1 ZRUN_ALARMED, 2 RESEEDED, 3 WARMUP, 4 PENDING. -/
def eSetFlag (b : List Byte) (i : Nat) (v : Bool) : List Byte :=
  let f := fieldAt b 66 1
  putAt b 66 [BitVec.ofNat 8 (f - b2n (bitOf f i) * 2 ^ i + b2n v * 2 ^ i)]

/-- Set a field of an entry. -/
def eSet (b : List Byte) (o n v : Nat) : List Byte := putAt b o (leBytes n v)

/-- Whether an entry is in force: VALID, RCRC matching, bytes 0–63 not poisoned (R471). -/
def State.entInForce (s : State) (p i : Nat) : Bool :=
  let b := s.ent p i
  eFlag b 0 && fieldAt b 60 4 == crc32c (b.take 60) && !s.poisoned (s.entAddr p i) 64

/-- The entry in force of a TENSOR_ID: the lowest index. -/
def State.findEnt (s : State) (p tid : Nat) : Option Nat :=
  if s.ledgerOn p then (List.range (s.ledgerSize p)).find? (fun i => s.entInForce p i && eTid (s.ent p i) == tid) else none

/-- An entry's bytes with their ECRC (R228). [DEDUCED, log 24] -/
def withEcrc (b : List Byte) : List Byte := eSet b 252 4 (crc32c (b.take 252))

/-- The monitor writes bytes 64 to 255 of an entry with its ECRC (R228); bytes 0 to 63 keep what they hold, poison too (R236). -/
def State.putEnt (s : State) (p i : Nat) (b : List Byte) : State × Nat := s.writeAs p (s.entAddr p i + 64) ((withEcrc b).drop 64)

/-- REGISTER writes a whole entry (R228). -/
def State.putWhole (s : State) (p i : Nat) (b : List Byte) : State × Nat := s.writeAs p (s.entAddr p i) (withEcrc b)

/-- A status set of the ledger. -/
def State.ledStatus (s : State) (p : Nat) (bits cnts : List Fld) : State := s.sqSet .NUM_LEDGER_STATUS 0 p bits cnts

/-- An event of the numerics monitor. -/
def State.numEvent (s : State) (p code sev p1 p2 : Nat) : State :=
  s.event { code := code, cls := 0x00, inst := 0, sev := sev, part := p, p1 := p1, p2 := p2 }

/-- Recount USED. -/
def State.setUsed (s : State) (p : Nat) : State :=
  s.fset Fld.NUM_LEDGER_CTRL_USED ((List.range (s.ledgerSize p)).filter (s.entInForce p)).length 0 p

/-! ## Formats (R233) -/

/-- Rewrite DTYPE, SCALE, MX_AXIS and DCRC of a descriptor, where the entry names one in the partition's T0 or T1 (R30, R128). A poisoned one is
left as it is (R159). [DEDUCED, log 24] -/
def State.rewriteDesc (s : State) (p a dtype scale : Nat) (axis : Option Nat) : State × Nat :=
  if s.ownsT01 p a 64 = false ∨ a = 0 then (s, 0)
  else
    let ((b, bad), s) := s.readAs p a 64
    if bad then (s, 0x0701) else
    let f := fieldAt b 10 2
    let f := match axis with | none => f | some x => f - f / 2 % 2 * 2 + x * 2
    let b := eSet (eSet (eSet b 8 1 dtype) 48 8 scale) 10 2 f
    s.writeAs p a (eSet b 60 4 (crc32c (b.take 60)))

/-- Write an entry's descriptors for a level of R233: 0, 1, 2, or 3 for warm-up. At level 0 an entry that is not MANAGED takes its
BASE_DTYPE. -/
def State.setFormat (s : State) (p : Nat) (b : List Byte) (level : Nat) : State × Nat :=
  let two (dt sa sb : Nat) (xa xb : Option Nat) : State × Nat :=
    seqSt (s.rewriteDesc p (eDA b) dt sa xa) (fun s => s.rewriteDesc p (eDB b) dt sb xb)
  match level with
  | 0 => two (if eManaged b then 0x05 else eBaseDtype b) (eSW b) (eSW b) none none
  | 1 => two 0x06 (fieldAt b 40 8) (fieldAt b 48 8) (some 0) (some 1)
  | _ => two 0x02 0 0 none none

/-- Whether an entry's current format uses a scale word: level 0, or the BASE_DTYPE of an entry that is not MANAGED. -/
def usesScale (b : List Byte) : Bool := !eManaged b || eLevel b == 0

/-- The history of an entry is lost (R236): cause 0 restore, 1 ECRC or poison, 2 MARK. -/
def State.loseHistory (s : State) (p i cause : Nat) : State × Nat :=
  let b := eSet (s.ent p i) 65 1 0
  let warm := eDelayed b && usesScale b
  let b := if warm then eSetFlag b 3 true else b
  let r := seqSt (s.putEnt p i b) (fun s => if warm then s.setFormat p b 3 else (s, 0))
  ((r.1.ledStatus p [Fld.NUM_LEDGER_STATUS_WARMUP] []).numEvent p 0x0404 1 (eTid b) cause, r.2)

/-- Read an entry as the monitor does: a failing ECRC or a poisoned word among bytes 64 to 255 loses the history (R236). -/
def State.checkEnt (s : State) (p i : Nat) : State × Nat :=
  let a := s.entAddr p i
  let s := (s.grant p a 256).touch a 256
  let b := s.ent p i
  if s.entInForce p i = true ∧ (fieldAt b 252 4 ≠ crc32c (b.take 252) ∨ s.poisoned (a + 64) 192 = true) then s.loseHistory p i 1 else (s, 0)

/-! ## Recording (R229, R230) -/

/-- Clear an entry's pending set. -/
def clearPending (b : List Byte) : List Byte := eSetFlag (putAt b 184 (List.replicate 40 0)) 4 false

/-- Add to the pending counts of an entry. -/
def addPending (b : List Byte) (r : LedRec) (step : Nat) : List Byte :=
  let am := f32Of (.fin false r.amaxM r.amaxE)
  let old := fieldAt b 188 4
  let b := eSet (eSet b 184 4 step) 188 4 (max old am.toNat)
  let add (b : List Byte) (o v : Nat) : List Byte := eSet b o 8 (fieldAt b o 8 + v)
  eSetFlag (add (add (add (add b 192 r.elements) 200 r.zeros) 208 r.sat) 216 r.nonfin) 4 true

/-- A pending set is discarded (R230). -/
def State.pendDrop (s : State) (p tid lost kept : Nat) : State :=
  (s.ledStatus p [Fld.NUM_LEDGER_STATUS_PEND_DROP] []).numEvent p 0x0406 1 tid (lost + kept * 2 ^ 32)

/-- Record an output of a completed command in its entry's pending set (R229, R230). No recording fails (R236). -/
def State.recordOutput (s : State) (p step : Nat) (r : LedRec) : State :=
  match s.findEnt p r.tid with
  | none => s
  | some i =>
    let s := (s.checkEnt p i).1
    let b := s.ent p i
    let old := fieldAt b 184 4
    if !s.entInForce p i then s
    else if !eFlag b 4 || old == step then (s.putEnt p i (addPending b r step)).1
    else if old < step then (s.putEnt p i (addPending (clearPending b) r step)).1.pendDrop p r.tid old step
    else s.pendDrop p r.tid step old

/-- Record every output of a completed command. -/
def State.recordOutputs (s : State) (p : Nat) (c : Cmd) : State := c.recs.foldl (fun s r => s.recordOutput p (cStep c) r) s

/-- Discard every pending set of a partition, without an event (R230). -/
def State.dropPending (s : State) (p : Nat) : State :=
  if s.ledgerOn p then
    (List.range (s.ledgerSize p)).foldl (fun s i =>
      if s.entInForce p i && eFlag (s.ent p i) 4 then
        let s := (s.checkEnt p i).1
        (s.putEnt p i (clearPending (s.ent p i))).1
      else s) s
  else s

/-! ## Commit (R205, R206, R232 to R235) -/

/-- The amax history of an entry as FP32 words, newest first. -/
def eHist (b : List Byte) : List Nat := (List.range (min 16 (eHistCount b))).map (fun i => fieldAt b (120 + 4 * i) 4)

/-- a_ref of R206. -/
def aRef (algo histLen : Nat) (h : List Nat) : Nat :=
  if algo = 1 then h.getD 0 0 else (h.take histLen).foldl max 0

/-- The DEQ exponent of R206 before its clamp. -/
def deqExpOf (dt margin a : Nat) : Int :=
  match f32Val (BitVec.ofNat 32 a) with
  | .fin _ m e => leastExp (m, e) (fMax dt) + margin
  | _ => 64

/-- Step 6 of R232: rewrite DEQ from the history, where the scale word has DELAYED set (R206). A poisoned scale word is left as it is (R472). [DEDUCED, log 24] -/
def State.rewriteDeq (s : State) (p step : Nat) (b : List Byte) : State × Nat :=
  let a := aRef (s.fget Fld.NUM_SCALE_CFG_ALGO 0 p) (s.fget Fld.NUM_SCALE_CFG_HIST_LEN 0 p) (eHist b)
  if s.ownsT01 p (eSW b) 16 = false then (s, 0)
  else
    let ((w, bad), s) := s.readAs p (eSW b) 16
    if bad then (s, 0x0701)
    else if a = 0 ∨ bitOf (fieldAt w 4 2) 0 = false then (s, 0)
    else
      let e := deqExpOf (if eManaged b then 0x05 else eBaseDtype b) (s.fget Fld.NUM_SCALE_CFG_MARGIN 0 p) a
      let e' := max (-64) (min 64 e)
      let s := if e' ≠ e then s.scaleClamp p (eTid b) e else s
      s.writeAs p (eSW b) (eSet (eSet w 0 4 ((e' + 127).toNat * 2 ^ 23)) 8 4 step)

/-- A level change with its event and counts (R234, R235). -/
def State.changeLevel (s : State) (p step : Nat) (b : List Byte) (level code : Nat) : State × Nat :=
  let r := s.setFormat p b level
  let s := r.1.ledStatus p [Fld.NUM_LEDGER_STATUS_FMT_CHANGE] [Fld.NUM_LEDGER_STATUS_FMT_CNT]
  (s.numEvent p code 0 (eTid b + eLayer b * 2 ^ 32) (step + level * 2 ^ 32), r.2)

/-- Steps 1 to 3 of R232 on the entry's bytes. -/
def commitCounts (b : List Byte) (step permil : Nat) : List Byte × Bool :=
  let b := putAt b 80 ((b.drop 192).take 32)
  let am := fieldAt b 188 4
  let b := eSet (eSet b 112 4 am) 72 4 step
  let warm := eFlag b 3
  let b :=
    if warm then
      let b := putAt b 120 (leBytes 4 am ++ List.replicate 60 0)
      eSet (eSetFlag (eSetFlag (eSet b 65 1 1) 3 false) 2 true) 76 4 step
    else
      eSet (putAt b 120 (leBytes 4 am ++ (b.drop 120).take 60)) 65 1 (min 16 (eHistCount b + 1))
  let el := fieldAt b 80 8
  let ze := fieldAt b 88 8
  if 0 < el ∧ permil * el ≤ ze * 1000 then (eSet b 68 2 (min 65535 (fieldAt b 68 2 + 1)), warm)
  else (eSetFlag (eSet b 68 2 0) 1 false, warm)

/-- Step 4 of R232: the zero-run rule (R234). -/
def State.zeroRun (s : State) (p step : Nat) (b : List Byte) : (State × Nat) × List Byte :=
  if fieldAt b 68 2 < s.fget Fld.NUM_ZRUN_CFG_ZRUN_STEPS 0 p || eFlag b 1 then ((s, 0), b)
  else
    let b := eSetFlag b 1 true
    let s :=
      if s.fbit Fld.NUM_ZRUN_CFG_ALARM_EN 0 p then
        (s.ledStatus p [Fld.NUM_LEDGER_STATUS_ZERO_RUN] []).numEvent p 0x0401 1 (eTid b + eLayer b * 2 ^ 32)
          (step + eLevel b * 2 ^ 32)
      else s
    if s.fbit Fld.NUM_ZRUN_CFG_AUTO_PROMOTE 0 p && eManaged b && eLevel b < 2 then
      let l := eLevel b + 1
      (s.changeLevel p step b l 0x0402, eSetFlag (eSet (eSet b 64 1 l) 68 2 0) 1 false)
    else ((s, 0), b)

/-- Step 5 of R232: the demotion rule (R235). -/
def State.demote (s : State) (p step : Nat) (b : List Byte) : (State × Nat) × List Byte :=
  if !s.fbit Fld.NUM_DEMOTE_CFG_DEMOTE_EN 0 p || !eManaged b || eLevel b ≤ eLevel0 b then ((s, 0), b)
  else
    let clean := fieldAt b 96 8 == 0 && fieldAt b 104 8 == 0 && fieldAt b 88 8 * 2 ≤ fieldAt b 80 8
    let n := if clean then min 65535 (fieldAt b 70 2 + 1) else 0
    if s.fget Fld.NUM_DEMOTE_CFG_DEMOTE_STEPS 0 p ≤ n then
      let l := eLevel b - 1
      let warm := l == 0 && eHistCount b == 0
      let r := s.changeLevel p step b l 0x0403
      let b := eSet (eSet b 64 1 l) 70 2 0
      if warm then (seqSt r (fun s => s.setFormat p b 3), eSetFlag b 3 true) else (r, b)
    else ((s, 0), eSet b 70 2 n)

/-- The commit of one entry (R232). -/
def State.commitEnt (s : State) (p step i : Nat) : State × Nat :=
  seqSt (s.checkEnt p i) (fun s =>
    let (b, warm) := commitCounts (s.ent p i) step (s.fget Fld.NUM_ZRUN_CFG_ZRUN_PERMIL 0 p)
    let r0 := if warm then s.setFormat p b (if eManaged b then eLevel b else 0) else (s, 0)
    let (r1, b) := r0.1.zeroRun p step b
    let (r2, b) := r1.1.demote p step b
    let r3 := if eDelayed b && usesScale b && !eFlag b 3 then r2.1.rewriteDeq p step b else (r2.1, 0)
    let r4 := r3.1.putEnt p i (clearPending b)
    (r4.1, ([r0.2, r1.2, r2.2, r3.2, r4.2].find? (· != 0)).getD 0))

/-- The commit of step `step` for a partition (R232); the status is that of the first write that failed (R163, R472). -/
def State.ledgerCommit (s : State) (p step : Nat) : State × Nat :=
  let r :=
    if s.ledgerOn p then
      let is := (List.range (s.ledgerSize p)).filter (fun i =>
        s.entInForce p i && eFlag (s.ent p i) 4 && fieldAt (s.ent p i) 184 4 == step)
      let r := foldSt is (fun s i => s.commitEnt p step i) s
      let bad := is.filter (fun i => fieldAt (r.1.ent p i) 104 8 != 0)
      match bad with
      | [] => r
      | i :: _ =>
        ((r.1.ledStatus p [Fld.NUM_LEDGER_STATUS_NONFINITE] [Fld.NUM_LEDGER_STATUS_NONFINITE_CNT]).numEvent p 0x0405 1
          (eTid (r.1.ent p i)) (step + bad.length * 2 ^ 32), r.2)
    else (s, 0)
  (r.1.wr .NUM_COMMITTED_STEP 0 p (BitVec.ofNat 32 step), r.2)

/-! ## The scan (R471) -/

/-- What the scan does with one entry: of two entries in force with one TENSOR_ID the later loses VALID, and every pending set goes. -/
def State.scanEnt (s : State) (p i : Nat) : State :=
  let b := s.ent p i
  let dup := s.entInForce p i && (List.range i).any (fun j => s.entInForce p j && eTid (s.ent p j) == eTid b)
  if s.poisoned (s.entAddr p i + 64) 192 || !(dup || eFlag b 4) then s
  else (s.putEnt p i (clearPending (if dup then eSetFlag b 0 false else b))).1

/-- The scan when ENABLE is set: lost histories, duplicates, pending sets; then USED. -/
def State.ledgerScan (s : State) (p : Nat) : State :=
  let n := s.ledgerSize p
  let s := (List.range n).foldl (fun s i => (s.checkEnt p i).1) s
  ((List.range n).foldl (fun s i => s.scanEnt p i) s).setUsed p

/-- The cross-field rule of `NUM_LEDGER_CTRL`: LOG2_ENTRIES changes only while ENABLE is 0; ENABLE is cleared where the table leaves the
partition's HBM. -/
def State.ledgerCross (s : State) (p : Nat) (w : Word) : Word :=
  let w := if s.ledgerOn p then wSet w 3 0 (s.fget Fld.NUM_LEDGER_CTRL_LOG2_ENTRIES 0 p) else w
  let a := s.entAddr p 0
  let len := 256 * 2 ^ wGet w 3 0
  if wGet w 4 4 = 1 ∧ covers (s.ownedT1 p) ((s.ownedT1 p).length + 1) a (a + len) = false then wSet w 4 4 0 else w

/-- A write of `NUM_LEDGER_CTRL` through a view: setting ENABLE runs the scan. -/
def State.ledgerCtrl (s : State) (view p : Nat) (v : Word) : State :=
  let was := s.ledgerOn p
  let s := s.fieldWrite view .NUM_LEDGER_CTRL 0 p v (s.ledgerCross p)
  if s.ledgerOn p && !was then s.ledgerScan p else s

/-- LEDGER_ENABLE: a write that sets ENABLE of `NUM_LEDGER_CTRL` (R471). -/
def execLedgerEnable (p : Part) (s : State) : Host.Outcome State Fault Refusal :=
  .next (s.ledgerCtrl p.val p.val (s.rd .NUM_LEDGER_CTRL 0 p.val ||| 0x10))

/-! ## LEDGER operations (R231) -/

/-- Whether an address required of a record is given and lies in the partition. -/
def State.reqAddr (s : State) (p a len : Nat) : Bool := a != 0 && s.ownsMem p a len

/-- Whether a record of REGISTER passes its checks (R231). -/
def State.recordOk (s : State) (p : Nat) (b : List Byte) : Bool :=
  let managed := eManaged b
  let delayed := eDelayed b
  fieldAt b 60 4 == crc32c (b.take 60) && fieldAt b 10 6 == 0 && fieldAt b 56 4 == 0 && fieldAt b 7 1 < 4
    && fieldAt b 6 1 ≤ 4 && eLevel0 b ≤ 2 && (!managed || fieldAt b 6 1 == 2)
    && (if delayed && !managed then takesScaleWord (eBaseDtype b) else eBaseDtype b == 0)
    && (!(managed || delayed) || s.reqAddr p (eDA b) 64) && (!(managed || delayed) || s.reqAddr p (eSW b) 16)
    && (!managed || s.reqAddr p (fieldAt b 40 8) 1) && (!(managed && eDB b != 0) || s.reqAddr p (fieldAt b 48 8) 1)

/-- Apply a record: an entry of its TENSOR_ID keeps bytes 64–255; a new one starts fresh, in warm-up where its starting format uses a
scale word. -/
def State.applyRecord (s : State) (p : Nat) (b : List Byte) : State × Nat :=
  match s.findEnt p (eTid b) with
  | some i => seqSt (s.checkEnt p i) (fun s => s.putWhole p i (b.take 64 ++ (s.ent p i).drop 64))
  | none =>
    match (List.range (s.ledgerSize p)).find? (fun i => !s.entInForce p i) with
    | none => (s, 0)
    | some i =>
      let e := eSet (eSetFlag (b.take 64 ++ List.replicate 192 0) 0 true) 64 1 (eLevel0 b)
      let warm := eDelayed e && usesScale e
      let e := if warm then eSetFlag e 3 true else e
      seqSt (s.putWhole p i e) (fun s =>
        if warm then s.setFormat p e 3 else if eManaged e then s.setFormat p e (eLevel e) else (s, 0))

/-- REGISTER: every record is checked before any is applied. The status is 0, NUM_BAD_ENTRY, NUM_LEDGER_FULL, or that of a write (R163). -/
def State.ledgerRegister (s : State) (p : Nat) (recs : List (List Byte)) : State × Nat :=
  let tids := recs.map eTid
  let dup := (List.range tids.length).any (fun i => (tids.take i).contains (tids.getD i 0))
  if dup || !recs.all (s.recordOk p) then (s, 0x0403)
  else
    let fresh := (tids.filter (fun t => (s.findEnt p t).isNone)).length
    let free := ((List.range (s.ledgerSize p)).filter (fun i => !s.entInForce p i)).length
    if free < fresh then (s, 0x0402)
    else
      let r := foldSt recs (fun s b => s.applyRecord p b) s
      (r.1.setUsed p, r.2)

/-- MARK on one entry. -/
def State.ledgerMark (s : State) (p tid mode level : Nat) : State × Nat :=
  match s.findEnt p tid with
  | none => (s, 0)
  | some i =>
    seqSt (s.checkEnt p i) (fun s =>
      let b := s.ent p i
      match mode with
      | 0 => s.putEnt p i (eSetFlag (eSetFlag b 2 false) 1 false)
      | 1 =>
        let b := eSet b 64 1 level
        seqSt (s.putEnt p i b) (fun s => if eManaged b && !eFlag b 3 then s.setFormat p b level else (s, 0))
      | _ => s.loseHistory p i 2)

/-- READ of one entry: 256 bytes; free bytes where the TENSOR_ID has none. -/
def State.ledgerRead (s : State) (p tid : Nat) : List Byte × State :=
  match s.findEnt p tid with
  | some i => let s := (s.checkEnt p i).1; (s.ent p i, s)
  | none => s.drawBytes 256

/-- Bytes of each column of an INT32 rank-2 tensor. -/
def State.columns (s : State) (d : TDesc) : List (List Byte) :=
  (List.range (d.dim 1)).map (fun j => (List.range (d.dim 0)).flatMap (fun i => leBytes 4 (s.elemCode d (i, j, 0, 0))))

/-- What a READ reads at step 4 of R71: its TENSOR_IDs, and their entries as they then stand (R231). -/
def State.loadEntries (s : State) (p : Nat) (c : Cmd) : State × Nat × List Byte :=
  if cOpcode c = 0x70 ∧ cOparg c % 16 = 1 then
    let (s, st) := s.fetchTensor p (c.desc 0)
    if st ≠ 0 then (s, st, [])
    else
      let r := (s.words (c.desc 0)).foldl (fun (a : State × List Byte) t =>
        let (b, s) := a.1.ledgerRead p t
        (s, a.2 ++ b)) (s, [])
      (r.1, 0, r.2)
  else (s, 0, c.aux)

/-- READ: the entries read at step 4 into the columns of the output. -/
def State.ledgerReadAll (s : State) (p : Nat) (c : Cmd) : State × Nat :=
  let o := c.desc 1
  foldSt (List.range (o.dim 1)) (fun s j => s.writeAs p (o.base + o.bitPos (0, j, 0, 0) / 8) ((c.aux.drop (256 * j)).take 256)) s

/-- The checks of LEDGER at step 4 (R231, R237): 0 or a status; EXPORT's own follow. -/
def State.checkLedger (s : State) (p : Nat) (c : Cmd) : Nat :=
  let op := cOparg c % 16
  let d := c.desc 0
  let o := c.desc 1
  let ids := d.dtype == 0x0F && d.rank == 1
  if 4 ≤ op ∨ s.ledgerOn p = false then 0x0405
  else
    let up := cOparg c / 16
    let ok := match op with
      | 0 => up == 0 && d.dtype == 0x0F && d.rank == 2 && d.dim 0 == 16
      | 1 => up == 0 && ids && o.dtype == 0x0F && o.rank == 2 && o.dim 0 == 64 && o.dim 1 == d.dim 0
      | 2 => ids && up / 16 == 0 && up % 4 != 3 && up / 4 != 3 && (up % 4 == 1 || up / 4 == 0)
      | _ => up == 0 && ids
    if ok then 0 else 0x0208

/-! ## Evaluation image (R237, R238) -/

/-- An element tensor packed densely (R238): its bytes in linear order. -/
def State.densePack (s : State) (d : TDesc) : List Byte :=
  let dense : TDesc := { d with base := 0, stride := [d.dim 0, d.dim 0 * d.dim 1, d.dim 0 * d.dim 1 * d.dim 2] }
  let w := dtBits d.dtype
  let bits := d.positions.foldl (fun n i => n + s.elemCode d i * 2 ^ (d.lin i * w)) 0
  leBytes dense.extent bits

/-- The dense descriptor of a record (R238): the captured descriptor with BASE 0, dense strides and its CRC. -/
def denseDesc (d : TDesc) : List Byte :=
  let x := leBytes 8 0 ++ leBytes 1 d.dtype ++ leBytes 1 d.rank ++ leBytes 2 d.flags ++ leBytes 4 d.tid
    ++ (List.range 4).flatMap (fun i => leBytes 4 (d.dim i))
    ++ leBytes 4 (d.dim 0) ++ leBytes 4 (d.dim 0 * d.dim 1) ++ leBytes 4 (d.dim 0 * d.dim 1 * d.dim 2) ++ leBytes 4 0
    ++ leBytes 8 d.scale ++ leBytes 4 0
  x ++ leBytes 4 (crc32c x)

/-- One tensor of an image, as its descriptor and scale word were captured at step 4: its 64 descriptor bytes, scale word, element bytes and
scale bytes. -/
def State.imgTensor (s : State) (d : TDesc) (sw : Nat) : List Byte × List Byte × List Byte × List Byte :=
  (denseDesc d, if takesScaleWord d.dtype then leBytes 16 sw else List.replicate 16 0, s.densePack d,
   if isMx d.dtype then s.bytes d.scale d.scaleCount else [])

/-- Records and data areas of tensors from an offset: 128-byte records, data areas at multiples of 4 KiB (R238). -/
def State.imgRecords (s : State) (start : Nat) (ds : List (TDesc × Nat)) : List Byte × List (Nat × List Byte) × Nat :=
  ds.foldl (fun acc a =>
    let (db, sw, el, sc) := s.imgTensor a.1 a.2
    let o1 := ceilTo acc.2.2 4096
    let o2 := if sc.isEmpty then 0 else ceilTo (o1 + el.length) 4096
    let r := db ++ sw ++ leBytes 8 o1 ++ leBytes 8 el.length ++ leBytes 8 o2 ++ leBytes 8 sc.length
      ++ leBytes 8 (crc64 (el ++ sc)) ++ List.replicate 8 0
    (acc.1 ++ r, acc.2.1 ++ [(o1, el)] ++ (if sc.isEmpty then [] else [(o2, sc)]),
     if sc.isEmpty then o1 + el.length else o2 + sc.length)) ([], [], start + 128 * ds.length)

/-- The image of EXPORT (R238) with the STEP it carries: runs of bytes by offset, and its total bytes. -/
def State.exportImage (s : State) (step : Nat) (ds : List (TDesc × Nat)) : List (Nat × List Byte) × Nat :=
  let (recs, data, total) := s.imgRecords 64 ds
  let h := leBytes 4 0x58455653 ++ leBytes 4 1 ++ leBytes 4 step ++ leBytes 4 ds.length
    ++ leBytes 8 total ++ List.replicate 32 0
  ((0, h ++ leBytes 8 (crc64 (h ++ recs)) ++ recs) :: data, total)

/-- The D_A addresses of an EXPORT's tensors; none where an entry is missing or has no D_A. -/
def State.exportDescs (s : State) (p : Nat) (c : Cmd) : Option (List Nat) :=
  (s.words (c.desc 0)).foldl (fun acc t =>
    match acc, s.findEnt p t with
    | some l, some i => if eDA (s.ent p i) = 0 then none else some (l ++ [eDA (s.ent p i)])
    | _, _ => none) (some [])

/-- Whether a command is an EXPORT. -/
def isExport (c : Cmd) : Bool := cOpcode c == 0x0070 && cOparg c % 16 == 3

end Sys2Proof.Machine
end

