-- ==== Sys2Proof/Machine/Vector.lean ====
section
/-! DEFINITION. The vector engines (R240 to R263): lanes and types, one meaning per vector instruction, the reduction unit's
accumulators (R256 to R258), activations and derivatives (R225, R260), approximations (R261), tiles, operand cache. -/

namespace Sys2Proof.Machine

/-! ## Lanes and types (R240 to R242) -/

/-- Width of an integer TYPE; 0 for FP32 and BF16. -/
def tyWidth : Nat → Nat
  | 2 => 8 | 3 => 16 | 4 => 32 | _ => 0

/-- Whether a TYPE is floating point. -/
def tyFloat (t : Nat) : Bool := t < 2

/-- A lane's FP32 word under a floating-point TYPE. -/
def laneF (t : Nat) (w : Word) : Word := if t = 1 then BitVec.ofNat 32 (w.toNat % 65536 * 65536) else w

/-- Store an FP32 word under a floating-point TYPE: BF16 rounds once. -/
def storeF (t : Nat) (w : Word) : Word := if t = 1 then BitVec.ofNat 32 (bf16Fmt.encode false (f32Val w)) else w

/-- A lane's integer. -/
def laneI (w : Word) : Int := toSigned 32 w.toNat

/-- Store an integer under a TYPE: saturated and sign-extended (R241). -/
def storeI (t : Nat) (i : Int) : Word := BitVec.ofNat 32 (ofSigned 32 (satInt (tyWidth t) i))

/-- A lane's value under a TYPE. -/
def laneVal (t : Nat) (w : Word) : FVal := if tyFloat t then f32Val (laneF t w) else ofInt (laneI w) 0

/-- Store a value under a TYPE: to an integer, nearest even, saturated, 0 for NaN (R247). -/
def storeVal (t : Nat) (v : FVal) : Word :=
  match t with
  | 0 => f32Of v
  | 1 => BitVec.ofNat 32 (bf16Fmt.encode false v)
  | 2 => BitVec.ofNat 32 (ofSigned 32 (toSigned 8 (encodeElem 0x0C true v)))
  | 3 => BitVec.ofNat 32 (ofSigned 32 (toSigned 16 (encodeElem 0x0E true v)))
  | _ => BitVec.ofNat 32 (encodeElem 0x0F true v)

/-- The present columns and rows of the current iteration (R242). -/
def VecSt.vl (x : VecSt) : Nat × Nat :=
  (min 32 (x.dims.getD 0 1 - 32 * x.pos.1), min 32 (x.dims.getD 1 1 - 32 * x.pos.2.1))

/-- The present lanes, ascending. -/
def VecSt.present (x : VecSt) : List Nat :=
  (List.range x.vl.2).flatMap (fun r => (List.range x.vl.1).map (fun c => 32 * r + c))

/-- Whether a lane is present. -/
def VecSt.isPresent (x : VecSt) (l : Nat) : Bool := l / 32 < x.vl.2 && l % 32 < x.vl.1

/-- The lanes of a mask register; M0 reads as the present lanes (R240). -/
def VecSt.maskReg (x : VecSt) (m : Nat) : List Nat := if m = 0 then x.present else Sparse.get [] x.mask m

/-- Set a mask register. -/
def VecSt.setMask (x : VecSt) (m : Nat) (l : List Nat) : VecSt := if m = 0 then x else { x with mask := Sparse.set [] x.mask m l }

/-- An element of a tile register. -/
def VecSt.lane (x : VecSt) (r l : Nat) : Word := Sparse.get 0 (Sparse.get [] x.tr r) l

/-- Whether an instruction acts on a present lane (R249). -/
def VecSt.acts (x : VecSt) (f : VFields) (l : Nat) : Bool := f.mask == 0 || (x.maskReg f.mask).contains l

/-- The lanes on which an instruction acts. -/
def VecSt.active (x : VecSt) (f : VFields) : List Nat := x.present.filter (x.acts f)

/-- Write DST: absent lanes zero, masked lanes zero or unchanged (R242, R249). -/
def VecSt.putDst (x : VecSt) (f : VFields) (v : Nat → Word) : VecSt :=
  let ls := x.present.map (fun l => (l, if x.acts f l then v l else if f.mz then 0 else x.lane f.dst l))
  { x with tr := Sparse.set [] x.tr f.dst (ls.filter (fun e => e.2 != 0))
           bad := x.bad.filter (fun b => !(b.1 == 0 && b.2.1 == f.dst && (!x.isPresent b.2.2 || x.acts f b.2.2 || f.mz))) }

/-- Write the mask M[DST] (R249). -/
def VecSt.putMask (x : VecSt) (f : VFields) (v : Nat → Bool) : VecSt :=
  let old := x.maskReg (f.dst % 8)
  let y := { x with bad := x.bad.filter (fun b => !(b.1 == 1 && b.2.1 == f.dst % 8 && (x.acts f b.2.2 || f.mz))) }
  y.setMask (f.dst % 8)
    (x.present.filter (fun l => if x.acts f l then v l else !f.mz && old.contains l))

/-- The second source of a lane: a register, or a parameter (PB). -/
def VecSt.srcB (x : VecSt) (f : VFields) (l : Nat) : Word := if f.pb then x.prm.getD (f.sb % 16) 0 else x.lane f.sb l

/-! ## Approximations (R261) -/

/-- Whether a value is a power of two, and its exponent. -/
def powExp (v : FVal) : Option Int :=
  match v with
  | .fin _ m e => if m ≠ 0 ∧ m = 2 ^ Nat.log2 m then some (e + Nat.log2 m) else none
  | _ => none

/-- 2^e as FP32. -/
def f32Pow (neg : Bool) (e : Int) : Word := f32Of (.fin neg 1 e)

/-- ln 2 and log₂ e in units of 2⁻⁹⁶. -/
def fixLn2 : Nat := 0xB17217F7D1CF79ABC9E3B398
def fixLog2e : Nat := 0x171547652B82FE1777D0FFDA1

/-- A finite value in units of 2⁻⁹⁶, rounded toward zero. -/
def fixOf (v : FVal) : Int :=
  match v with
  | .fin neg m e =>
    let a : Nat := if 0 ≤ e + 96 then m * 2 ^ (e + 96).toNat else m / 2 ^ (-(e + 96)).toNat
    if neg then -(a : Int) else a
  | _ => 0

/-- e^y for 0 ≤ y < ln 2 by its series, both in units of 2⁻⁹⁶. -/
def fixExp (y : Nat) : Nat :=
  ((List.range 32).foldl (fun (a : Nat × Nat) k => let t := a.1 * y / 2 ^ 96 / (k + 1); (t, a.2 + t)) (2 ^ 96, 2 ^ 96)).2

/-- 2^x for x in units of 2⁻⁹⁶. -/
def exp2Ref (x : Int) : FVal := .fin false (fixExp ((x % 2 ^ 96).toNat * fixLn2 / 2 ^ 96)) (x / 2 ^ 96 - 96)

/-- log₂ of a positive value m × 2^e, 64 bits after the point, one bit a squaring. -/
def log2Ref (m : Nat) (e : Int) : FVal :=
  let k := Nat.log2 m
  let z := if k ≤ 96 then m * 2 ^ (96 - k) else m / 2 ^ (k - 96)
  let r := (List.range 64).foldl (fun (a : Nat × Nat) _ =>
    let z := a.1 * a.1 / 2 ^ 96
    if 2 ^ 97 ≤ z then (z / 2, 2 * a.2 + 1) else (z, 2 * a.2)) (z, 0)
  ofInt ((e + k) * 2 ^ 64 + r.2) (-64)

/-- e^(−n × x) for x ≥ 0 in units of 2⁻⁹⁶, x taken as at most 256. -/
def fixExpNeg (n x : Nat) : Nat :=
  match exp2Ref (-((n * min x (2 ^ 104) * fixLog2e / 2 ^ 96 : Nat) : Int)) with
  | .fin _ m e => m / 2 ^ (-(e + 96)).toNat
  | _ => 0

/-- What an approximation approximates, far closer than its bound (R261). [DEDUCED, log 57] -/
def approxRef (fn : Nat) (v : FVal) : FVal :=
  match v with
  | .fin neg m e =>
    let x := (fixOf v).natAbs
    match fn with
    | 0 => exp2Ref (fixOf v)
    | 1 => log2Ref m e
    | 2 => FVal.div (.fin false 1 0) v
    | 3 => FVal.div (.fin false 1 0) v.sqrt
    | 4 => let q := fixExpNeg 2 x; .fin neg ((2 ^ 96 - q) * 2 ^ 96 / (2 ^ 96 + q)) (-96)
    | _ => let q := fixExpNeg 1 x; .fin false ((if neg then q else 2 ^ 96) * 2 ^ 96 / (2 ^ 96 + q)) (-96)
  | v => v

/-- The bound of an approximation (R261): its multiple of an ulp, and the exponent of its absolute bound where it has one. [DEDUCED, log 57] -/
def approxBound (fn : Nat) (v : FVal) : Nat × Option Int :=
  match fn with
  | 1 => (1, if v.lt (.fin false 1 (-1)) || (FVal.fin false 1 1).lt v then none else some (-22))
  | 4 => (2, some (-23))
  | 5 => (2, some (-24))
  | _ => (1, none)

/-- Whether a result lies within a bound of a reference: `k` ulp, or 2^abs, less 2⁻²⁰ of it, which the reference's own error does not reach. [DEDUCED, log 57] -/
def nearRef (k : Nat) (abs : Option Int) (ref : FVal) (r : Word) : Bool :=
  match (f32Val r).add ref.neg, ref with
  | .fin _ m e, .fin _ m0 e0 =>
    let ulp : FVal := .fin false (k * 2 ^ 20 - 1) ((if m0 = 0 then f32Fmt.emin else gridExp 23 f32Fmt.emin m0 e0) - 20)
    let d : FVal := .fin false m e
    !ulp.lt d || (match abs with | some a => !(FVal.fin false (2 ^ 20 - 1) (a - 20)).lt d | none => false)
  | _, _ => false

/-- The engine's own result where R261 names none exactly: free within the bound, the nearest FP32 value otherwise. [DEDUCED, log 57] -/
def approxNear (fn : Nat) (w : Word) : Word :=
  let v := f32Val w
  let b := approxBound fn v
  if nearRef b.1 b.2 (approxRef fn v) (Config.vecApprox fn w) then Config.vecApprox fn w else f32Of (approxRef fn v)

/-- The approximations on FP32: special values exact, others the engine's own within the bounds (R261). `fn`: 0 EXP2, 1 LOG2, 2 RCP,
3 RSQRT, 4 TANH, 5 SIGM. -/
def approxF (fn : Nat) (w : Word) : Word :=
  let v := f32Val w
  let nan := f32Of .nan
  let other := approxNear fn w
  match v with
  | .nan => nan
  | .inf neg =>
    match fn with
    | 0 => if neg then 0 else w
    | 1 => if neg then nan else w
    | 2 => f32Of (.fin neg 0 0)
    | 3 => if neg then nan else 0
    | 4 => f32Pow neg 0
    | _ => if neg then 0 else f32Pow false 0
  | .fin neg m e =>
    match fn with
    | 0 =>
      let i := nearestInt neg m e
      if !(v.lt (ofInt 128 0)) then f32Of (.inf false) else if v.lt (ofInt (-150) 0) then 0
      else if (ofInt i 0).eqv v then f32Pow false i else other
    | 1 =>
      if m = 0 then f32Of (.inf true) else if neg then nan
      else match powExp v with | some k => f32Of (ofInt k 0) | none => other
    | 2 =>
      if m = 0 then f32Of (.inf neg) else match powExp v with | some k => f32Pow neg (-k) | none => other
    | 3 =>
      if m = 0 then f32Of (.inf neg) else if neg then nan
      else match powExp v with | some k => (if k % 2 = 0 then f32Pow false (-(k / 2)) else other) | none => other
    | 4 => if m = 0 then w else other
    | _ => other

/-! ## Activations and derivatives (R225, R260) -/

/-- Constants of R225 and R260: the FP32 values nearest their decimals. -/
def kLog2e : Word := 0x3FB8AA3B
def kLn2 : Word := 0x3F317218
def kGelu : Word := 0x3F4C422A
def kCube : Word := 0x3D372713
def kCube3 : Word := 0x3E095D4F
def kHalf : Word := 0x3F000000
def kOne : Word := 0x3F800000
def kTwenty : Word := 0x41A00000

/-- e^v as EXP2(v × log₂e) (R260). -/
def expF (v : Word) : Word := approxF 0 (f32Mul v kLog2e)

/-- FP32 negation. -/
def f32Neg (w : Word) : Word := f32Of (f32Val w).neg

/-- Greater than, on FP32 words. -/
def f32Gt (a b : Word) : Bool := (f32Val b).lt (f32Val a)

/-- z and t of GELU's tanh form. -/
def geluT (x : Word) : Word := approxF 4 (f32Mul kGelu (f32Mul x (f32Fma kCube (f32Mul x x) kOne)))

/-- ACT on FP32 (R260); `alpha` is the leaky slope, `s` the accumulator value of softmax. -/
def actF (fn : Nat) (alpha s x : Word) : Word :=
  match fn with
  | 1 => if (f32Val x).isNan then f32Of .nan else if f32Gt x 0 then x else 0
  | 2 => if f32Gt x 0 then x else f32Mul alpha x
  | 3 => approxF 5 x
  | 4 => approxF 4 x
  | 5 => expF x
  | 6 => if f32Gt x kTwenty then x else f32Mul (approxF 1 (f32Add kOne (expF x))) kLn2
  | 7 => f32Mul x (approxF 2 s)
  | 8 => let h := f32Mul kHalf x; f32Fma h (geluT x) h
  | _ => f32Mul x (approxF 5 x)

/-- DACT on FP32 (R225): `y` the saved value, `d` the incoming gradient; a NaN in either gives NaN (R226). -/
def dactF (fn : Nat) (alpha c y d : Word) : Word :=
  if (f32Val y).isNan || (f32Val d).isNan then f32Of .nan
  else match fn with
  | 1 => if f32Gt y 0 then d else 0
  | 2 => if f32Gt y 0 then d else f32Mul alpha d
  | 3 => f32Mul d (f32Fma (f32Neg y) y y)
  | 4 => f32Mul d (f32Fma (f32Neg y) y kOne)
  | 5 => f32Mul d y
  | 6 => f32Mul d (f32Sub kOne (expF (f32Neg y)))
  | 7 => f32Mul y (f32Sub d c)
  | 8 =>
    let t := geluT y
    let b := f32Mul (f32Mul (f32Mul kHalf kGelu) y) (f32Fma kCube3 (f32Mul y y) kOne)
    f32Mul d (f32Fma b (f32Fma (f32Neg t) t kOne) (f32Mul kHalf (f32Add kOne t)))
  | _ =>
    let g := approxF 5 y
    f32Mul d (f32Fma (f32Mul y g) (f32Sub kOne g) g)

/-! ## Element operations (R247) -/

/-- Apply a floating-point operation under a TYPE: FP32, or BF16 computed in FP32 and rounded once (R210). -/
def fop2 (t : Nat) (g : Word → Word → Word) (a b : Word) : Word := storeF t (g (laneF t a) (laneF t b))

/-- MIN and MAX of floating-point lanes: NaN wins, −0 ranks below +0. -/
def fMinMax (max_ : Bool) (a b : Word) : Word :=
  let x := f32Val a
  let y := f32Val b
  let aLow := x.lt y || (x.eqv y && (2 ^ 31 ≤ a.toNat))
  if x.isNan || y.isNan then f32Of .nan else if aLow = max_ then b else a

/-- The result of an instruction that works lane by lane on its sources; `op` is the opcode of R247. [DEDUCED, log 58] -/
def laneOp (op t imm : Nat) (a b c : Word) : Word :=
  let w := tyWidth t
  let n := b.toNat % 256
  let low := a.toNat % 2 ^ w
  let ext (v : Nat) : Word := BitVec.ofNat 32 (ofSigned 32 (toSigned w v))
  match op with
  | 0x01 => if tyFloat t then fop2 t f32Add a b else storeI t (laneI a + laneI b)
  | 0x02 => if tyFloat t then fop2 t f32Sub a b else storeI t (laneI a - laneI b)
  | 0x03 => if tyFloat t then fop2 t f32Mul a b else storeI t (laneI a * laneI b)
  | 0x04 => storeF t (f32Fma (laneF t a) (laneF t b) (laneF t c))
  | 0x05 => if tyFloat t then fop2 t (fMinMax false) a b else storeI t (min (laneI a) (laneI b))
  | 0x06 => if tyFloat t then fop2 t (fMinMax true) a b else storeI t (max (laneI a) (laneI b))
  | 0x08 => a &&& b
  | 0x09 => a ||| b
  | 0x0A => a ^^^ b
  | 0x0B => a &&& ~~~b
  | 0x10 => if w ≤ n then 0 else ext (low * 2 ^ n % 2 ^ w)
  | 0x11 => if w ≤ n then 0 else ext (low / 2 ^ n)
  | 0x12 => BitVec.ofNat 32 (ofSigned 32 (toSigned w low / 2 ^ (min n w)))
  | 0x13 => if n = 0 then storeI t (laneI a) else if w ≤ n then 0 else storeI t ((laneI a + 2 ^ (n - 1)) / 2 ^ n)
  | 0x20 => storeVal (imm % 8) ((laneVal t a).scale (toSigned 8 (imm / 256)))
  | 0x28 => storeF t (approxF 0 (laneF t a))
  | 0x29 => storeF t (approxF 1 (laneF t a))
  | 0x2A => storeF t (approxF 2 (laneF t a))
  | 0x2B => storeF t (approxF 3 (laneF t a))
  | 0x2C => storeF t (approxF 4 (laneF t a))
  | 0x2D => storeF t (approxF 5 (laneF t a))
  | _ => a

/-- The comparison of two lanes (R247): a NaN makes only CNE true; −0 equals +0. -/
def laneCmp (op t : Nat) (a b : Word) : Bool :=
  let x := laneVal t a
  let y := laneVal t b
  match op with
  | 0x18 => x.eqv y
  | 0x19 => !x.eqv y
  | 0x1A => x.lt y
  | _ => x.lt y || x.eqv y

/-! ## The reduction unit (R256 to R258) -/

/-- No result. -/
def raEmpty : RaEnt := { any := false, f := 0, i := 0, idx := 0 }

/-- One result of one element under an operation: SUM, SUMSQ, MAX, MIN, ARGMAX. -/
def raOne (op : Nat) (float : Bool) (f : Word) (i : Int) (idx : Nat) : RaEnt :=
  { any := true, f := if float && op == 1 then f32Mul f f else f, i := if op = 1 then i * i else i, idx := idx }

/-- Whether `b` beats `a` for MAX (R257): NaN above all, +0 above −0, equal values by the lower index. -/
def raBeats (float : Bool) (a b : RaEnt) : Bool :=
  if float then
    let x := f32Val a.f
    let y := f32Val b.f
    if x.isNan || y.isNan then y.isNan && (!x.isNan || b.idx < a.idx)
    else x.lt y || (x.eqv y && ((2 ^ 31 ≤ a.f.toNat && b.f.toNat < 2 ^ 31) || ((2 ^ 31 ≤ a.f.toNat) == (2 ^ 31 ≤ b.f.toNat) && b.idx < a.idx)))
  else a.i < b.i || (a.i == b.i && b.idx < a.idx)

/-- Whether `b` beats `a` for MIN: NaN below all, −0 below +0. -/
def raUnder (float : Bool) (a b : RaEnt) : Bool :=
  if float then
    let x := f32Val a.f
    let y := f32Val b.f
    if x.isNan then false else if y.isNan then true
    else y.lt x || (x.eqv y && a.f.toNat < 2 ^ 31 && 2 ^ 31 ≤ b.f.toNat)
  else b.i < a.i

/-- Join two results in order; an absent one passes the other on. [DESIGN CHOICE, log 59] -/
def raJoin (op : Nat) (float : Bool) (a b : RaEnt) : RaEnt :=
  if !b.any then a else if !a.any then b
  else match op with
  | 0 | 1 => { any := true, f := f32Add a.f b.f, i := a.i + b.i, idx := a.idx }
  | 3 => if raUnder float a b then b else a
  | _ => if raBeats float a b then b else a

/-- The balanced tree of R216 over 2^k results from an index. -/
def raTree (op : Nat) (float : Bool) (x : Nat → RaEnt) : Nat → Nat → RaEnt
  | 0, lo => x lo
  | k + 1, lo => raJoin op float (raTree op float x k lo) (raTree op float x k (lo + 2 ^ k))

/-- Reduce `n` elements in the Sillefold Reference Order. -/
def raSum (op : Nat) (float : Bool) (x : Nat → RaEnt) (n : Nat) : RaEnt :=
  (List.range (ceilDiv n 32)).foldl
    (fun acc b => raJoin op float acc (raTree op float (fun i => if i < n then x i else raEmpty) 5 (32 * b))) raEmpty

/-- The identity of an operation (R258): for integers `w` is the width of the TYPE. -/
def raIdentity (op w : Nat) (float : Bool) : FVal :=
  match op with
  | 0 | 1 => .fin false 0 0
  | 2 => if float then .inf true else ofInt (-(2 ^ (w - 1) : Int)) 0
  | _ => if float then .inf false else ofInt (2 ^ (w - 1) - 1) 0

/-- The word that RGET writes for a result: identity when empty, integers saturated to S32, an index as S32 (R256, R258). -/
def raWord (op ty : Nat) (e : RaEnt) : Word :=
  if op = 4 then (if e.any then BitVec.ofNat 32 e.idx else 0xFFFFFFFF)
  else if !e.any then storeVal ty (raIdentity op (tyWidth ty) (tyFloat ty))
  else if tyFloat ty then storeF ty (if (f32Val e.f).isNan then f32Of .nan else e.f)
  else storeI 4 e.i

/-- The accumulator `k` of an engine; unset reads as having reduced nothing. -/
def VecSt.acc (x : VecSt) (k : Nat) : Option RaSt := Sparse.find x.ra k

/-- The result of an accumulator for a lane: by row, by column, or the whole tile. -/
def RaSt.at_ (r : RaSt) (l : Nat) : RaEnt :=
  r.ents.getD (match r.axis with | 0 => l / 32 | 1 => l % 32 | _ => 0) raEmpty

/-- Whether a result that belongs to the present tile is empty. -/
def RaSt.emptyIn (r : RaSt) (x : VecSt) : Bool :=
  let n := match r.axis with | 0 => x.vl.2 | 1 => x.vl.1 | _ => 1
  (List.range n).any (fun i => !(r.ents.getD i raEmpty).any)

/-- RED: reduce the active lanes of SA into an accumulator (R256). [DESIGN CHOICE, log 59] -/
def VecSt.red (x : VecSt) (f : VFields) : VecSt :=
  let op := f.imm % 8
  let axis := f.imm / 8 % 4
  let k := f.imm / 32 % 8
  let fl := tyFloat f.ty
  let base : RaSt := (x.acc k).getD { op := op, axis := axis, ty := f.ty, ents := List.replicate 32 raEmpty }
  let el (l idx : Nat) : RaEnt :=
    if x.isPresent l && x.acts f l then raOne op fl (laneF f.ty (x.lane f.sa l)) (laneI (x.lane f.sa l)) idx else raEmpty
  let row (r : Nat) (idx : Nat → Nat) : RaEnt := raTree op fl (fun c => el (32 * r + c) (idx c)) 5 0
  let ents := match axis with
    | 0 => (List.range 32).map (fun r => raJoin op fl (base.ents.getD r raEmpty) (row r (fun c => 32 * x.pos.1 + c)))
    | 1 => (List.range 32).map (fun c => raJoin op fl (base.ents.getD c raEmpty)
        (raTree op fl (fun r => el (32 * r + c) (32 * x.pos.2.1 + r)) 5 0))
    | _ => [(List.range 32).foldl (fun a r => raJoin op fl a (row r (fun c => 32 * r + c))) (base.ents.getD 0 raEmpty)]
  { x with ra := Sparse.insert x.ra k { op := op, axis := axis, ty := f.ty, ents := ents } }

/-! ## Engines in the state -/

/-- The engine `e`. -/
def State.eng (s : State) (e : Quad) : VecSt := vget s.vec e

/-- Replace an engine. -/
def State.setEng (s : State) (e : Quad) (x : VecSt) : State := { s with vec := vset s.vec e x }

/-- The outcome of an instruction: the state, and 0 or the status with which its command fails; a lane fault names cause and lane. -/
abbrev VRes := State × Nat

/-- The partition and queue of the program on an engine. -/
def VecSt.part (x : VecSt) : Nat := match x.ref with | some r => r.part.val | none => 0

/-- A lane fault: `VEC_Vn_FAULT`, FAULT or PARITY and its event (R250); a parity fault sets REG_SUSPECT and records it too (R251). -/
def State.vecFault (s : State) (e : Quad) (cause lane : Nat) : VRes :=
  let x := s.eng e
  let pc := s.fget Fld.VEC_Vn_STATE_PC e.val
  let s := s.wr .VEC_Vn_FAULT e.val 0 (BitVec.ofNat 32 (pc + lane * 2 ^ 12 + cause * 2 ^ 22))
  let s := s.sqSet .VEC_Vn_STATUS e.val 0 [if cause = 3 then Fld.VEC_Vn_STATUS_PARITY else Fld.VEC_Vn_STATUS_FAULT]
    [Fld.VEC_Vn_STATUS_FAULT_CNT]
  let (q, slot) := match x.ref with
    | some r => (r.queue.val, r.slot % s.ringSlots r.part.val r.queue.val % 65536)
    | none => (0, 0)
  let ev : Ev := { code := 0x0501, cls := 0x07, inst := e.val, sev := 2, part := match x.ref with | some r => r.part.val | none => 0xFF,
                   p1 := e.val + cause * 2 ^ 8 + lane * 2 ^ 16, p2 := q + slot * 2 ^ 16 + pc * 2 ^ 32 }
  let s := s.event ev
  if cause = 3 then ((s.fset Fld.VEC_Vn_STATE_REG_SUSPECT 1 e.val).event { ev with code := 0x0502 }, 0x0504) else (s, 0x0503)

/-- Count an executed instruction (`VEC_Vn_INSTR`). -/
def State.countInstr (s : State) (e : Quad) : State :=
  s.wr64 .VEC_Vn_INSTR_LO .VEC_Vn_INSTR_HI (s.rd64 .VEC_Vn_INSTR_LO .VEC_Vn_INSTR_HI e.val + 1) e.val

/-- An instruction that works lane by lane (R247, R249). -/
def State.vLane (s : State) (op : Nat) (e : Quad) (f : VFields) : VRes :=
  let x := s.eng e
  (s.setEng e (x.putDst f (fun l => laneOp op f.ty f.imm (x.lane f.sa l) (x.srcB f l) (x.lane f.sc l))), 0)

/-- A comparison into a mask. -/
def State.vCmp (s : State) (op : Nat) (e : Quad) (f : VFields) : VRes :=
  let x := s.eng e
  (s.setEng e (x.putMask f (fun l => laneCmp op f.ty (x.lane f.sa l) (x.srcB f l))), 0)

/-- Mask logic into M[DST]. -/
def State.vMask (s : State) (e : Quad) (f : VFields) (g : Bool → Bool → Bool) : VRes :=
  let x := s.eng e
  let a := x.maskReg (f.sa % 8)
  let b := x.maskReg (f.sb % 8)
  (s.setEng e (x.putMask f (fun l => g (a.contains l) (b.contains l))), 0)

/-- SEL: M[SC] ? a : b. -/
def State.vSelect (s : State) (e : Quad) (f : VFields) : VRes :=
  let x := s.eng e
  let m := x.maskReg (f.sc % 8)
  (s.setEng e (x.putDst f (fun l => if m.contains l then x.lane f.sa l else x.srcB f l)), 0)

/-- PERM and TRANS: a lane takes its source lane, or zero with PERM_OOR where that lane is absent (R252). -/
def State.vPermute (s : State) (e : Quad) (f : VFields) (src : VecSt → Nat → Nat) : VRes :=
  let x := s.eng e
  let ok (l : Nat) : Bool := src x l < 1024 && x.isPresent (src x l)
  let s' := s.setEng e (x.putDst f (fun l => if ok l then x.lane f.sa (src x l) else 0))
  (if (x.active f).all ok then s' else s'.permOor e.val, 0)

/-- ACT and DACT (R225, R260). An empty sum that FN 0x07 takes sets EMPTY (R258). -/
def State.vActivate (s : State) (deriv : Bool) (e : Quad) (f : VFields) : VRes :=
  let x := s.eng e
  let fn := f.imm % 256
  let alpha := x.prm.getD (f.imm / 256 % 16) 0
  let sum (l : Nat) : Word := match x.acc (f.imm / 4096 % 8) with
    | some r => raWord r.op 0 (r.at_ l)
    | none => 0
  let v (l : Nat) : Word :=
    if deriv then storeF f.ty (dactF fn alpha (sum l) (laneF f.ty (x.lane f.sa l)) (laneF f.ty (x.srcB f l)))
    else storeF f.ty (actF fn alpha (sum l) (laneF f.ty (x.lane f.sa l)))
  let s := s.setEng e (x.putDst f v)
  (if fn = 7 ∧ (x.acc (f.imm / 4096 % 8)).all (·.emptyIn x) = true then s.rduNone e.val else s, 0)

/-- The binding that an instruction names. -/
def VecSt.bind (x : VecSt) (b : Nat) : TDesc := x.binds.getD b default

/-- The element of a binding for a lane at the current position; an extent of 1 is broadcast (R242, R245). -/
def VecSt.elemIx (x : VecSt) (d : TDesc) (l : Nat) : Ix :=
  let pick (i v : Nat) : Nat := if d.dim i = 1 then 0 else v
  (pick 0 (32 * x.pos.1 + l % 32), pick 1 (32 * x.pos.2.1 + l / 32), pick 2 x.pos.2.2.1, pick 3 x.pos.2.2.2)

/-- Read the bytes of a binding's elements for lanes, as engine `e` does; the status is 0 or HBM_UE. -/
def State.touchLanes (s : State) (e : Quad) (x : VecSt) (d : TDesc) (ls : List Nat) : VRes :=
  ls.foldl (fun a l =>
    let ix := x.elemIx d l
    let (y, s) := a.1.readAs x.part (d.base + d.bitPos ix / 8) (ceilDiv (d.bitPos ix % 8 + dtBits d.dtype) 8) e.val
    let (z, s) := if isMx d.dtype then s.readAs x.part (d.scale + d.scaleIx ix) 1 e.val else (([], false), s)
    (s, if y.2 || z.2 then 0x0701 else a.2)) (s, 0)

/-- The value of a binding for a lane, under a TYPE, as engine `e` reads it (R248). -/
def State.loadLane (s : State) (e : Quad) (x : VecSt) (b ty l : Nat) : Word :=
  let d := x.bind b
  storeVal ty (s.elemVal d (x.sws.getD b 0) (x.elemIx d l) e.val)

/-- TLD (R248). -/
def State.vLoad (s : State) (e : Quad) (f : VFields) : VRes :=
  let x := s.eng e
  let b := f.imm % 16
  if (x.bind b).rank = 0 then (s, 0)
  else
    let (s, st) := s.touchLanes e x (x.bind b) (x.active f)
    if st ≠ 0 then (s, st) else (s.setEng e (x.putDst f (s.loadLane e x b f.ty)), 0)

/-- Store lanes of a value into a binding, with its conversion and ledger counts (R203, R208, R248). [DESIGN CHOICE, log 25] -/
def State.storeLanes (s : State) (e : Quad) (b : Nat) (ls : List Nat) (v : Nat → FVal) : VRes :=
  let x := s.eng e
  let d := x.bind b
  let (s, st, rec) := s.writeTensor x.part d (x.sws.getD b 0) (satOf x.arith) (ls.map (fun l => (x.elemIx d l, v l)))
  let recs :=
    if !d.ledger then x.recs
    else if x.recs.any (fun r => r.tid == rec.tid) then x.recs.map (fun r => if r.tid = rec.tid then r.add rec else r)
    else x.recs ++ [rec]
  (s.setEng e { x with recs := recs }, st)

/-- TST: present, unmasked lanes; every present lane of an MX binding (R248). [DESIGN CHOICE, log 25] -/
def State.vStore (s : State) (e : Quad) (f : VFields) : VRes :=
  let x := s.eng e
  let b := f.imm % 16
  if (x.bind b).rank = 0 then (s, 0)
  else
    let ls := if isMx (x.bind b).dtype then x.present else x.active f
    s.storeLanes e b ls (fun l => laneVal f.ty (x.lane f.sa l))

/-- The cache slot that CLD and CST name (R254). -/
def VecSt.slot (x : VecSt) (f : VFields) : Nat :=
  f.imm % 4096 + (if bitOf f.imm 12 then (if x.order then x.pos.2.1 else x.pos.1) else 0)

/-- A cache word; a slot whose valid bit is clear reads as zeros (R253). -/
def VecSt.cacheWord (x : VecSt) (i : Nat) : Word := if NSet.mem x.valid (i / 1024) then Sparse.get 0 x.cache i else 0

/-- CLD (R254). -/
def State.vCacheLoad (s : State) (e : Quad) (f : VFields) : VRes :=
  let x := s.eng e
  match x.active f with
  | [] => (s.setEng e (x.putDst f (fun _ => 0)), 0)
  | l :: _ =>
    if 4096 ≤ x.slot f then s.vecFault e 0 l
    else (s.setEng e (x.putDst f (fun l => x.cacheWord (x.slot f * 1024 + l))), 0)

/-- CST (R254): it sets the slot's valid bit. -/
def State.vCacheStore (s : State) (e : Quad) (f : VFields) : VRes :=
  let x := s.eng e
  match x.active f with
  | [] => (s, 0)
  | l :: _ =>
    if 4096 ≤ x.slot f then s.vecFault e 0 l
    else
      let c := (x.active f).foldl (fun c l => Sparse.set 0 c (x.slot f * 1024 + l) (x.lane f.sa l)) x.cache
      let bad := x.bad.filter (fun b => !(b.1 == 3 && b.2.1 / 1024 == x.slot f && (x.active f).contains (b.2.1 % 1024)))
      (s.setEng e { x with cache := c, valid := NSet.insert x.valid (x.slot f), bad := bad }, 0)

/-- A cache word read with a TYPE (R254). -/
def wordAs (ty : Nat) (w : Word) : Word :=
  match ty with
  | 0 | 4 => w
  | 1 => BitVec.ofNat 32 (w.toNat % 65536)
  | t => BitVec.ofNat 32 (ofSigned 32 (toSigned (tyWidth t) w.toNat))

/-- GATHER (R254): the lowest lane with a fault is reported (R250). -/
def State.vGatherWord (s : State) (e : Quad) (f : VFields) : VRes :=
  let x := s.eng e
  let a (l : Nat) : Nat := (x.lane f.sa l).toNat
  match (x.active f).find? (fun l => 16777216 ≤ a l || a l % 4 != 0) with
  | some l => s.vecFault e (if 16777216 ≤ a l then 0 else 1) l
  | none => (s.setEng e (x.putDst f (fun l => wordAs f.ty (x.cacheWord (a l / 4)))), 0)

/-- RED (R256). -/
def State.vReduce (s : State) (e : Quad) (f : VFields) : VRes := (s.setEng e ((s.eng e).red f), 0)

/-- RGET: broadcast the accumulator; EMPTY where a result of the present tile is empty (R256, R258). An accumulator in which nothing
was reduced has no operation whose identity it could give: its lanes take a free value, the same at every run (R227). [DESIGN CHOICE, log 59] -/
def State.vReadAcc (s : State) (e : Quad) (f : VFields) : VRes :=
  let x := s.eng e
  match x.acc (f.imm / 32 % 8) with
  | some r =>
    let s' := s.setEng e (x.putDst f (fun l => raWord r.op f.ty (r.at_ l)))
    (if r.emptyIn x then s'.rduEmpty e.val else s', 0)
  | none =>
    let v := Config.unstated 0x49 (BitVec.ofNat 32 (f.imm / 32 % 8)) (BitVec.ofNat 32 f.ty) 0
    ((s.setEng e (x.putDst f (fun _ => v))).rduEmpty e.val, 0)

/-- RCLR: return an accumulator to empty. -/
def State.vClearAcc (s : State) (e : Quad) (f : VFields) : VRes :=
  let x := s.eng e
  let k := f.imm / 32 % 8
  (s.setEng e { x with ra := Sparse.erase x.ra k, bad := x.bad.filter (fun b => !(b.1 == 2 && b.2.1 == k)) }, 0)

/-- PERM: lane l takes lane b[l] of a. -/
def State.vPermReg (s : State) (e : Quad) (f : VFields) : VRes := s.vPermute e f (fun x l => (x.srcB f l).toNat)

/-- TRANS: lane 32r + c takes lane 32c + r of a. -/
def State.vTransReg (s : State) (e : Quad) (f : VFields) : VRes := s.vPermute e f (fun _ l => l % 32 * 32 + l / 32)

/-- What a lane reads of the registers, masks, accumulators and valid cache words, numbered as `VecSt.bad` numbers them (R250). -/
def VecSt.laneReads (x : VecSt) (op : Nat) (f : VFields) (l : Nat) : List (Nat × Nat × Nat) :=
  let a := (0, f.sa, l)
  let b := if f.pb then [] else [(0, f.sb, l)]
  let w (i : Nat) : List (Nat × Nat × Nat) := if NSet.mem x.valid (i / 1024) then [(3, i, 0)] else []
  let ent (axis : Nat) : Nat := match axis with | 0 => l / 32 | 1 => l % 32 | _ => 0
  let held (k : Nat) : Nat × Nat × Nat := (2, k, (x.acc k).elim 0 (fun r => ent r.axis))
  let acc := if f.imm % 256 = 7 then [held (f.imm / 4096 % 8)] else []
  let m := if f.mask = 0 then [] else [(1, f.mask, l)]
  match op with
  | 0x00 | 0x50 | 0x4A => []
  | 0x40 => m
  | 0x04 => m ++ (a :: b ++ [(0, f.sc, l)])
  | 0x1C => m ++ (a :: b ++ [(1, f.sc % 8, l)])
  | 0x1D | 0x1E => m ++ [(1, f.sa % 8, l), (1, f.sb % 8, l)]
  | 0x1F => m ++ [(1, f.sa % 8, l)]
  | 0x30 => m ++ (b ++ [(0, f.sa, (x.srcB f l).toNat)])
  | 0x31 => m ++ [(0, f.sa, l % 32 * 32 + l / 32)]
  | 0x38 => m ++ (a :: acc)
  | 0x39 => m ++ (a :: b ++ acc)
  | 0x42 => m ++ (w (x.slot f * 1024 + l))
  | 0x44 => m ++ (a :: w ((x.lane f.sa l).toNat / 4))
  | 0x48 => m ++ [a, (2, f.imm / 32 % 8, ent (f.imm / 8 % 4))]
  | 0x49 => m ++ [held (f.imm / 32 % 8)]
  | op => m ++ (if 0x20 ≤ op then [a] else a :: b)

/-- The lowest lane that reads a parity error; a masked or absent lane is suppressed (R250). [DEDUCED, log 23] -/
def VecSt.badLane (x : VecSt) (op : Nat) (f : VFields) : Option Nat :=
  if x.bad.isEmpty then none else (x.active f).find? (fun l => (x.laneReads op f l).any x.bad.contains)

/-- One vector instruction by opcode (R247), where no lane reads a parity error; PASS and NOP do nothing of themselves. -/
def State.vClean (s : State) (op : Nat) (e : Quad) (f : VFields) : VRes :=
  match op with
  | 0x18 | 0x19 | 0x1A | 0x1B => s.vCmp op e f
  | 0x1C => s.vSelect e f
  | 0x1D => s.vMask e f (fun a b => a && b)
  | 0x1E => s.vMask e f (fun a b => a || b)
  | 0x1F => s.vMask e f (fun a _ => !a)
  | 0x30 => s.vPermReg e f
  | 0x31 => s.vTransReg e f
  | 0x38 => s.vActivate false e f
  | 0x39 => s.vActivate true e f
  | 0x40 => s.vLoad e f
  | 0x41 => s.vStore e f
  | 0x42 => s.vCacheLoad e f
  | 0x43 => s.vCacheStore e f
  | 0x44 => s.vGatherWord e f
  | 0x48 => s.vReduce e f
  | 0x49 => s.vReadAcc e f
  | 0x4A => s.vClearAcc e f
  | 0x00 | 0x50 => (s, 0)
  | op => s.vLane op e f

/-- One vector instruction: a parity error that an active lane reads is a fault of cause 0b11 (R250). -/
def State.vInstr (s : State) (op : Nat) (e : Quad) (f : VFields) : VRes :=
  let s := s.countInstr e
  match (s.eng e).badLane op f with
  | some l => s.vecFault e 3 l
  | none => s.vClean op e f

end Sys2Proof.Machine
end

