-- ==== Sys2Proof/Machine/VecInstr.lean ====
section
/-! DEFINITION. The vector instructions as commands: one instruction executed by an engine at its current position (R247). -/

namespace Sys2Proof.Machine

/-- Execute one instruction on an engine; a failing one fails the command that the engine runs (R250). -/
def State.vRow (s : State) (op : Nat) (e : Quad) (f : VFields) : State :=
  let (t, st) := s.vInstr op e f
  if st = 0 then t
  else match (t.eng e).ref with
    | none => t
    | some r =>
      match t.cmdAt r.part.val r.queue.val r.slot with
      | some c => if c.phase = .running ∧ c.finished = false then t.failRun r c st else t
      | none => t

/-- NOP (R247): nothing is done. -/
def execVecNop (e : Quad) (f : VFields) (s : State) : Host.Outcome State Fault Refusal := .next (s.vRow 0x0 e f)

/-- ADD (R247). -/
def execVAdd (e : Quad) (f : VFields) (s : State) : Host.Outcome State Fault Refusal := .next (s.vRow 0x1 e f)

/-- SUB (R247). -/
def execVSub (e : Quad) (f : VFields) (s : State) : Host.Outcome State Fault Refusal := .next (s.vRow 0x2 e f)

/-- MUL (R247). -/
def execVMul (e : Quad) (f : VFields) (s : State) : Host.Outcome State Fault Refusal := .next (s.vRow 0x3 e f)

/-- FMA (R247): rounded once. -/
def execVFma (e : Quad) (f : VFields) (s : State) : Host.Outcome State Fault Refusal := .next (s.vRow 0x4 e f)

/-- MIN (R247). -/
def execVMin (e : Quad) (f : VFields) (s : State) : Host.Outcome State Fault Refusal := .next (s.vRow 0x5 e f)

/-- MAX (R247). -/
def execVMax (e : Quad) (f : VFields) (s : State) : Host.Outcome State Fault Refusal := .next (s.vRow 0x6 e f)

/-- AND (R247). -/
def execVAnd (e : Quad) (f : VFields) (s : State) : Host.Outcome State Fault Refusal := .next (s.vRow 0x8 e f)

/-- OR (R247). -/
def execVOr (e : Quad) (f : VFields) (s : State) : Host.Outcome State Fault Refusal := .next (s.vRow 0x9 e f)

/-- XOR (R247). -/
def execVXor (e : Quad) (f : VFields) (s : State) : Host.Outcome State Fault Refusal := .next (s.vRow 0xa e f)

/-- ANDN (R247). -/
def execVAndn (e : Quad) (f : VFields) (s : State) : Host.Outcome State Fault Refusal := .next (s.vRow 0xb e f)

/-- SHL (R247). -/
def execVShl (e : Quad) (f : VFields) (s : State) : Host.Outcome State Fault Refusal := .next (s.vRow 0x10 e f)

/-- SHR (R247). -/
def execVShr (e : Quad) (f : VFields) (s : State) : Host.Outcome State Fault Refusal := .next (s.vRow 0x11 e f)

/-- SAR (R247). -/
def execVSar (e : Quad) (f : VFields) (s : State) : Host.Outcome State Fault Refusal := .next (s.vRow 0x12 e f)

/-- RSHR (R247). -/
def execVRshr (e : Quad) (f : VFields) (s : State) : Host.Outcome State Fault Refusal := .next (s.vRow 0x13 e f)

/-- CEQ (R247). -/
def execVCeq (e : Quad) (f : VFields) (s : State) : Host.Outcome State Fault Refusal := .next (s.vRow 0x18 e f)

/-- CNE (R247). -/
def execVCne (e : Quad) (f : VFields) (s : State) : Host.Outcome State Fault Refusal := .next (s.vRow 0x19 e f)

/-- CLT (R247). -/
def execVClt (e : Quad) (f : VFields) (s : State) : Host.Outcome State Fault Refusal := .next (s.vRow 0x1a e f)

/-- CLE (R247). -/
def execVCle (e : Quad) (f : VFields) (s : State) : Host.Outcome State Fault Refusal := .next (s.vRow 0x1b e f)

/-- SEL (R247). -/
def execVSel (e : Quad) (f : VFields) (s : State) : Host.Outcome State Fault Refusal := .next (s.vRow 0x1c e f)

/-- MAND (R247). -/
def execVMand (e : Quad) (f : VFields) (s : State) : Host.Outcome State Fault Refusal := .next (s.vRow 0x1d e f)

/-- MOR (R247). -/
def execVMor (e : Quad) (f : VFields) (s : State) : Host.Outcome State Fault Refusal := .next (s.vRow 0x1e e f)

/-- MNOT (R247). -/
def execVMnot (e : Quad) (f : VFields) (s : State) : Host.Outcome State Fault Refusal := .next (s.vRow 0x1f e f)

/-- CVT (R247). -/
def execVCvt (e : Quad) (f : VFields) (s : State) : Host.Outcome State Fault Refusal := .next (s.vRow 0x20 e f)

/-- EXP2 (R261). -/
def execVExp2 (e : Quad) (f : VFields) (s : State) : Host.Outcome State Fault Refusal := .next (s.vRow 0x28 e f)

/-- LOG2 (R261). -/
def execVLog2 (e : Quad) (f : VFields) (s : State) : Host.Outcome State Fault Refusal := .next (s.vRow 0x29 e f)

/-- RCP (R261). -/
def execVRcp (e : Quad) (f : VFields) (s : State) : Host.Outcome State Fault Refusal := .next (s.vRow 0x2a e f)

/-- RSQRT (R261). -/
def execVRsqrt (e : Quad) (f : VFields) (s : State) : Host.Outcome State Fault Refusal := .next (s.vRow 0x2b e f)

/-- TANH (R261). -/
def execVTanh (e : Quad) (f : VFields) (s : State) : Host.Outcome State Fault Refusal := .next (s.vRow 0x2c e f)

/-- SIGM (R261). -/
def execVSigm (e : Quad) (f : VFields) (s : State) : Host.Outcome State Fault Refusal := .next (s.vRow 0x2d e f)

/-- PERM (R252). -/
def execVPerm (e : Quad) (f : VFields) (s : State) : Host.Outcome State Fault Refusal := .next (s.vRow 0x30 e f)

/-- TRANS (R252). -/
def execVTrans (e : Quad) (f : VFields) (s : State) : Host.Outcome State Fault Refusal := .next (s.vRow 0x31 e f)

/-- ACT (R260). -/
def execVAct (e : Quad) (f : VFields) (s : State) : Host.Outcome State Fault Refusal := .next (s.vRow 0x38 e f)

/-- DACT (R225). -/
def execVDact (e : Quad) (f : VFields) (s : State) : Host.Outcome State Fault Refusal := .next (s.vRow 0x39 e f)

/-- TLD (R248). -/
def execVTld (e : Quad) (f : VFields) (s : State) : Host.Outcome State Fault Refusal := .next (s.vRow 0x40 e f)

/-- TST (R248). -/
def execVTst (e : Quad) (f : VFields) (s : State) : Host.Outcome State Fault Refusal := .next (s.vRow 0x41 e f)

/-- CLD (R254). -/
def execVCld (e : Quad) (f : VFields) (s : State) : Host.Outcome State Fault Refusal := .next (s.vRow 0x42 e f)

/-- CST (R254). -/
def execVCst (e : Quad) (f : VFields) (s : State) : Host.Outcome State Fault Refusal := .next (s.vRow 0x43 e f)

/-- GATHER (R254). -/
def execVGather (e : Quad) (f : VFields) (s : State) : Host.Outcome State Fault Refusal := .next (s.vRow 0x44 e f)

/-- RED (R256). -/
def execVRed (e : Quad) (f : VFields) (s : State) : Host.Outcome State Fault Refusal := .next (s.vRow 0x48 e f)

/-- RGET (R256). -/
def execVRget (e : Quad) (f : VFields) (s : State) : Host.Outcome State Fault Refusal := .next (s.vRow 0x49 e f)

/-- RCLR (R247). -/
def execVRclr (e : Quad) (f : VFields) (s : State) : Host.Outcome State Fault Refusal := .next (s.vRow 0x4a e f)

/-- PASS (R255): the end of a pass changes nothing by itself. -/
def execVPass (e : Quad) (f : VFields) (s : State) : Host.Outcome State Fault Refusal := .next (s.vRow 0x50 e f)

end Sys2Proof.Machine
end

