-- ==== Sys2Proof/Machine/VecCmds.lean ====
section
/-! DEFINITION. VPROG, REDUCE and UPDATE (R244 to R266): a program's header and instructions, its checks, its run in tile and in
streaming mode, reductions over a tensor, and the optimizer updates. -/

namespace Sys2Proof.Machine

/-! ## Programs (R244, R247) -/

/-- The fields of an instruction's 64 bits. -/
def parseInstr (n : Nat) : Nat × VFields :=
  (n % 256, { dst := bitsOf n 12 8, sa := bitsOf n 17 13, sb := bitsOf n 22 18, sc := bitsOf n 27 23, mask := bitsOf n 30 28,
              mz := bitOf n 31, ty := bitsOf n 34 32, pb := bitOf n 35, imm := bitsOf n 63 40 })

/-- A program: its bytes from the 128-byte header on. -/
structure Prog where
  count  : Nat
  iter   : Nat
  stream : Bool
  order  : Bool
  strip  : Bool
  single : Bool
  npass  : Nat
  fill   : Nat
  slots  : List Nat
  prm    : List Word
  code   : List (Nat × VFields)
  deriving DecidableEq, Repr

/-- Parse a program. -/
def parseProg (b : List Byte) : Prog :=
  let vf := fieldAt b 3 1
  let n := fieldAt b 0 2
  { count := n, iter := fieldAt b 2 1 % 16, stream := bitOf vf 0, order := bitOf vf 1, strip := bitOf vf 2,
    single := bitOf vf 3, npass := vf / 16 % 4, fill := fieldAt b 4 2,
    slots := (List.range 10).map (fun i => fieldAt b (8 + 2 * i) 2),
    prm := (List.range 16).map (fun i => BitVec.ofNat 32 (fieldAt b (64 + 4 * i) 4)),
    code := (List.range n).map (fun i => parseInstr (fieldAt b (128 + 8 * i) 8)) }

/-- The bindings of a VPROG: B0, B1 are DESC0, DESC1; B2 to B9 the second slot's (R244). Rank 0 is unbound. -/
def bindsOf (c : Cmd) : List TDesc := [c.desc 0, c.desc 1] ++ (List.range 8).map (fun i => c.desc (3 + i))

/-- Their scale words. -/
def bindSws (c : Cmd) : List Nat := [c.sw 0, c.sw 1] ++ (List.range 8).map (fun i => c.sw (3 + i))

/-- The opcodes of R247 and the TYPEs each allows. -/
def typesOk (op ty : Nat) : Bool :=
  match op with
  | 0x00 | 0x1D | 0x1E | 0x1F | 0x4A | 0x50 => true
  | 0x04 | 0x28 | 0x29 | 0x2A | 0x2B | 0x2C | 0x2D | 0x38 | 0x39 => ty < 2
  | 0x10 | 0x11 | 0x12 | 0x13 => 2 ≤ ty && ty ≤ 4
  | 0x01 | 0x02 | 0x03 | 0x05 | 0x06 | 0x18 | 0x19 | 0x1A | 0x1B | 0x1C | 0x20 | 0x40 | 0x41 | 0x48 | 0x49 => ty ≤ 4
  | 0x08 | 0x09 | 0x0A | 0x0B | 0x30 | 0x31 | 0x42 | 0x43 | 0x44 => ty ≤ 4
  | _ => false

/-- The opcodes allowed in streaming mode (R263). -/
def streamOp (op : Nat) : Bool :=
  [0x00, 0x01, 0x02, 0x03, 0x04, 0x05, 0x06, 0x08, 0x09, 0x0A, 0x0B, 0x10, 0x11, 0x12, 0x13, 0x20, 0x28, 0x29, 0x2A, 0x2B,
   0x2C, 0x2D, 0x38, 0x39].contains op

/-- The operands an opcode reads: SA, SB, SC. -/
def opArity (op : Nat) : Nat :=
  match op with
  | 0x00 => 0
  | 0x04 => 3
  | 0x01 | 0x02 | 0x03 | 0x05 | 0x06 | 0x08 | 0x09 | 0x0A | 0x0B | 0x10 | 0x11 | 0x12 | 0x13 | 0x39 => 2
  | _ => 1

/-- The checks of one instruction for VEC_BAD_PROG (R245, R256, R263); `raw` is its 64 bits. -/
def instrOk (p : Prog) (binds : List TDesc) (raw : Nat) : Bool :=
  let (op, f) := parseInstr raw
  let bound (b : Nat) : Bool := b ≤ 9 && (binds.getD b default).rank != 0
  typesOk op f.ty && bitsOf raw 39 36 == 0
    && (if op = 0x20 then f.imm % 8 ≤ 4 else true)
    && (if op = 0x38 ∨ op = 0x39 then 1 ≤ f.imm % 256 && f.imm % 256 ≤ 9 else true)
    && (if p.stream then
          streamOp op && f.mask == 0 && !((op == 0x38 || op == 0x39) && f.imm % 256 == 7)
            && (op == 0 || bound f.dst) && (opArity op < 1 || bound f.sa) && (opArity op < 2 || f.pb || bound f.sb)
            && (opArity op < 3 || bound f.sc)
        else
          (if 0x18 ≤ op ∧ op ≤ 0x1B ∨ 0x1D ≤ op ∧ op ≤ 0x1F then f.dst % 8 != 0 else true)
            && (if op = 0x40 ∨ op = 0x41 then bound (f.imm % 16) else true)
            && (if op = 0x48 then f.imm % 8 ≤ 4 && f.imm / 8 % 4 ≤ 2 else true))

/-- Whether a tensor can hold a program (R244, R469): FP32 or INT32, rank 1, in T0 or T1. -/
def progTensor (d : TDesc) : Bool := (d.dtype == 0x01 || d.dtype == 0x0F) && d.rank == 1 && !isT2 d.base

/-- Whether a program passes the checks for VEC_BAD_PROG. `d` is DESC2, `b` the program's bytes. -/
def progOk (d : TDesc) (oparg : Nat) (binds : List TDesc) (b : List Byte) : Bool :=
  let p := parseProg b
  let passes := (p.code.filter (fun i => i.1 == 0x50)).length
  oparg == 0 && 1 ≤ p.count && p.count ≤ 4096 && d.dim 0 == 32 + 2 * p.count
    && p.iter ≤ 9 && (binds.getD p.iter default).rank != 0 && fieldAt b 2 1 < 16 && fieldAt b 3 1 < 64 && p.npass ≤ 2
    && p.fill < 1024 && fieldAt b 6 2 == 0 && (b.drop 28).take 36 == List.replicate 36 0
    && (List.range 10).all (fun i => !bitOf p.fill i || (binds.getD i default).rank != 0)
    && (!p.stream || (!p.strip && p.fill == 0 && p.npass == 0))
    && (p.stream || passes == if p.strip then p.npass else 0)
    && (List.range p.count).all (fun i => instrOk p binds (fieldAt b (128 + 8 * i) 8))

/-- Whether two tensors share a byte, of their elements or of their MX scales (R245). -/
def tensorsMeet (a b : TDesc) : Bool := a.reads.any (fun x => b.reads.any (fun y => rangesMeet (x.1, x.1 + x.2) (y.1, y.1 + y.2)))

/-- The bindings a program stores to. -/
def storesOf (p : Prog) : List Nat :=
  p.code.filterMap (fun i => if p.stream then (if i.1 = 0 then none else some i.2.dst)
    else if i.1 = 0x41 then some (i.2.imm % 16) else none)

/-- The bindings a program loads. -/
def loadsOf (p : Prog) : List (Nat × Nat) :=
  p.code.flatMap (fun i =>
    if p.stream then
      (if 1 ≤ opArity i.1 then [(i.2.sa, i.2.ty)] else []) ++ (if 2 ≤ opArity i.1 ∧ i.2.pb = false then [(i.2.sb, i.2.ty)] else [])
        ++ (if 3 ≤ opArity i.1 then [(i.2.sc, i.2.ty)] else [])
        ++ (if i.1 = 0 then [] else [(i.2.dst, if i.1 = 0x20 then i.2.imm % 8 else i.2.ty)])
    else if i.1 = 0x40 ∨ i.1 = 0x41 then [(i.2.imm % 16, i.2.ty)] else [])

/-- Whether a program passes the checks for VEC_SHAPE (R245). -/
def progShape (binds : List TDesc) (b : List Byte) : Bool :=
  let p := parseProg b
  let it := binds.getD p.iter default
  let bs := (List.range 10).filter (fun i => (binds.getD i default).rank != 0)
  let st := storesOf p
  let bd (i : Nat) : TDesc := binds.getD i default
  bs.all (fun i => (List.range 4).all (fun k => (bd i).dim k == it.dim k || (bd i).dim k == 1))
    && (loadsOf p).all (fun l => isIntType (bd l.1).dtype == !tyFloat l.2)
    && bs.all (fun i => bs.all (fun j => i == j || !tensorsMeet (bd i) (bd j) || !(st.contains i || st.contains j)))
    && bs.all (fun i => !bitOf p.fill i || p.slots.getD i 0 * 4096 + 4 * (bd i).count ≤ 16777216)
    && p.code.all (fun i => !((i.1 == 0x38 || i.1 == 0x39) && i.2.imm % 256 == 7) || p.strip)
    && p.code.all (fun i => i.1 != 0x48 || !p.strip || (i.2.imm / 8 % 4 == if p.order then 1 else 0))

/-- The engines of a queue's mask on which a program may run: a tile program avoids REG_SUSPECT and engines mapped out (R246, R263, R404). -/
def State.progEngines (s : State) (p q : Nat) (stream : Bool) : List Quad :=
  (List.finRange 8).filter (fun e =>
    (s.maskArrays p q).contains e.val && (stream || (!s.fbit Fld.VEC_Vn_STATE_REG_SUSPECT e.val && !s.fbit Fld.NOC_MAP_An_R_ENGINE_OUT e.val)))

/-- The checks of VPROG at step 4: 0 or a status. -/
def State.checkVprog (s : State) (p q : Nat) (c : Cmd) : Nat :=
  if !progTensor (c.desc 2) then 0x0208
  else if !progOk (c.desc 2) (cOparg c) (bindsOf c) c.aux then 0x0501
  else if !progShape (bindsOf c) c.aux then 0x0502
  else if (s.progEngines p q (parseProg c.aux).stream).isEmpty then 0x0505
  else 0

/-! ## Running a program (R242, R246, R255) -/

/-- The positions of an iteration space in the order of a program; strips when `strip`, otherwise one position a unit. -/
def unitsOf (p : Prog) (d : TDesc) : List (List (Nat × Nat × Nat × Nat)) :=
  let n0 := ceilDiv (d.dim 0) 32
  let n1 := ceilDiv (d.dim 1) 32
  let strips := (List.range (d.dim 3)).flatMap (fun i3 => (List.range (d.dim 2)).flatMap (fun i2 =>
    if p.order then (List.range n0).map (fun t0 => (List.range n1).map (fun t1 => (t0, t1, i2, i3)))
    else (List.range n1).map (fun t1 => (List.range n0).map (fun t0 => (t0, t1, i2, i3)))))
  if p.strip then strips else strips.flatten.map (fun x => [x])

/-- The passes of a program: each but the last ends with its PASS. Instructions carry their index. -/
def passesOf : List (Nat × Nat × VFields) → List (List (Nat × Nat × VFields))
  | [] => [[]]
  | i :: t =>
    match passesOf t with
    | [] => [[i]]
    | a :: r => if i.2.1 = 0x50 then [i] :: a :: r else (i :: a) :: r

/-- Run instructions in order until one fails. -/
def State.runCode (s : State) (e : Quad) (code : List (Nat × Nat × VFields)) : VRes :=
  code.foldl (fun (a : VRes) i =>
    if a.2 ≠ 0 then a else (a.1.fset Fld.VEC_Vn_STATE_PC i.1 e.val).vInstr i.2.1 e i.2.2) (s, 0)

/-- At the end of a pass each accumulator into which it reduced holds its result; an empty one sets EMPTY (R258). [DESIGN CHOICE, log 59] -/
def State.passEmpty (s : State) (e : Quad) (code : List (Nat × Nat × VFields)) : State :=
  let x := s.eng e
  let ks := (code.filter (fun i => i.2.1 == 0x48)).map (fun i => i.2.2.imm / 32 % 8)
  if ks.any (fun k => (x.acc k).any (·.emptyIn x)) then s.rduNone e.val else s

/-- Run one unit: accumulators return to empty, then each pass runs over every position (R255). -/
def State.runUnit (s : State) (e : Quad) (passes : List (List (Nat × Nat × VFields))) (ps : List (Nat × Nat × Nat × Nat)) : VRes :=
  let s := s.setEng e { s.eng e with ra := [] }
  passes.foldl (fun (a : VRes) code =>
    let a := ps.foldl (fun (a : VRes) pos =>
      if a.2 ≠ 0 then a else (a.1.setEng e { a.1.eng e with pos := pos }).runCode e code) a
    if a.2 ≠ 0 then a else (a.1.passEmpty e code, 0)) (s, 0)

/-- Copy a binding into the operand cache (R254). -/
def State.fillBind (s : State) (e : Quad) (b slot : Nat) : VRes :=
  let x := s.eng e
  let d := x.bind b
  let (s, st) := s.fetchTensor x.part d e.val
  let ty := if isIntType d.dtype then 4 else 0
  let cache := d.positions.foldl (fun c i =>
    Sparse.set 0 c (slot * 1024 + d.lin i) (storeVal ty (s.elemVal d (x.sws.getD b 0) i e.val))) x.cache
  let valid := (List.range (ceilDiv d.count 1024)).foldl (fun v k => NSet.insert v (slot + k)) x.valid
  (s.setEng e { x with cache := cache, valid := valid }, st)

/-- BUSY, MODE and QUEUE of an engine that a command takes (`VEC_Vn_STATE`). -/
def State.takeEngine (s : State) (e : Quad) (r : CmdRef) (streams : Bool) : State :=
  s.wr .VEC_Vn_STATE e.val 0
    (wSet (wSet (wSet (wSet (s.rd .VEC_Vn_STATE e.val) 0 0 1) 1 1 (b2n streams)) 13 8 r.queue.val) 27 16 0)

/-- Load a program onto an engine: bindings, parameters, a cleared cache, and cleared registers, so that its results are its own (R227, R253). [DEDUCED, log 60] -/
def State.loadProg (s : State) (e : Quad) (r : CmdRef) (c : Cmd) (p : Prog) : State :=
  let it := (bindsOf c).getD p.iter default
  let x := s.eng e
  let s := s.setEng e { x with tr := [], mask := [], ra := [], cache := [], valid := [], ref := some r, binds := bindsOf c, sws := bindSws c, prm := p.prm,
                               dims := it.dims, pos := (0, 0, 0, 0), order := p.order, arith := c.arith, recs := [] }
  s.takeEngine e r p.stream

/-- The range of `n` units that engine `i` of `k` takes: contiguous, as equal as possible, earlier ones taking any extra (R246). -/
def shareOf (n k i : Nat) : Nat × Nat :=
  let st (i : Nat) : Nat := i * (n / k) + min i (n % k)
  (st i, st (i + 1) - st i)

/-- The fills of a program on an engine (R254). -/
def State.runFills (s : State) (e : Quad) (p : Prog) : VRes :=
  let fills := (List.range 10).filter (fun b => bitOf p.fill b)
  fills.foldl (fun (a : VRes) b => if a.2 ≠ 0 then a else a.1.fillBind e b (p.slots.getD b 0)) (s, 0)

/-- Run a tile-mode program on one engine over its units. -/
def State.runTile (s : State) (e : Quad) (p : Prog) (units : List (List (Nat × Nat × Nat × Nat))) : VRes :=
  let code := (List.range p.code.length).map (fun i => (i, p.code.getD i (0, default)))
  let passes := passesOf code
  units.foldl (fun (a : VRes) u => if a.2 ≠ 0 then a else a.1.runUnit e passes u) (s, 0)

/-- Run a tile-mode program: every engine's fills come before any iteration, so that what they read does not depend on the division (R246, R254). [DEDUCED, log 60] -/
def State.runTiles (s : State) (es : List Quad) (p : Prog) (units : List (List (Nat × Nat × Nat × Nat))) : VRes :=
  let a := es.foldl (fun (a : VRes) e => if a.2 ≠ 0 then a else a.1.runFills e p) (s, 0)
  (List.range es.length).foldl (fun (a : VRes) k =>
    let (b, n) := shareOf units.length es.length k
    if a.2 ≠ 0 then a else a.1.runTile (es.getD k 0) p ((units.drop b).take n)) a

/-- One streaming instruction at one position: read the source bindings, operate, write the destination binding (R263). -/
def State.streamAt (s : State) (e : Quad) (op : Nat) (f : VFields) (pos : Nat × Nat × Nat × Nat) : VRes :=
  let s := (s.countInstr e).setEng e { s.eng e with pos := pos }
  if op = 0 then (s, 0)
  else
    let x := s.eng e
    let srcs := (if 1 ≤ opArity op then [f.sa] else []) ++ (if 2 ≤ opArity op ∧ f.pb = false then [f.sb] else [])
      ++ (if 3 ≤ opArity op then [f.sc] else [])
    let (s, st) := srcs.foldl (fun (a : VRes) b => if a.2 ≠ 0 then a else a.1.touchLanes e x (x.bind b) x.present) (s, 0)
    if st ≠ 0 then (s, st)
    else
      let get (b l : Nat) : Word := s.loadLane e x b f.ty l
      let val (l : Nat) : Word :=
        let a := get f.sa l
        let b := if f.pb then x.prm.getD (f.sb % 16) 0 else get f.sb l
        let alpha := x.prm.getD (f.imm / 256 % 16) 0
        if op = 0x38 then storeF f.ty (actF (f.imm % 256) alpha 0 (laneF f.ty a))
        else if op = 0x39 then storeF f.ty (dactF (f.imm % 256) alpha 0 (laneF f.ty a) (laneF f.ty b))
        else laneOp op f.ty f.imm a b (get f.sc l)
      s.storeLanes e f.dst x.present (fun l => laneVal (if op = 0x20 then f.imm % 8 else f.ty) (val l))

/-- Run a streaming program: each instruction over the whole iteration space before the next; the engines take their shares. -/
def State.runStream (s : State) (es : List Quad) (p : Prog) (units : List (Nat × Nat × Nat × Nat)) : VRes :=
  (List.range p.code.length).foldl (fun (a : VRes) i =>
    let (op, f) := p.code.getD i (0, default)
    (List.range es.length).foldl (fun (a : VRes) k =>
      let e := es.getD k 0
      let (st, n) := shareOf units.length es.length k
      ((units.drop st).take n).foldl (fun (a : VRes) pos =>
        if a.2 ≠ 0 then a else (a.1.fset Fld.VEC_Vn_STATE_PC i e.val).streamAt e op f pos) a) a) (s, 0)

/-- Whether an engine is busy with another command. -/
def State.engBusy (s : State) (r : CmdRef) (e : Quad) : Bool :=
  s.fbit Fld.VEC_Vn_STATE_BUSY e.val && (s.eng e).ref != some r

/-- Free the engines of a command. [DEDUCED, log 60] -/
def State.freeEngines (s : State) (r : CmdRef) : State :=
  (List.finRange 8).foldl (fun s e => if (s.eng e).ref = some r then s.fset Fld.VEC_Vn_STATE_BUSY 0 e.val else s) s

/-- What the engines of a command will record joins the command (R229). -/
def State.gatherRecs (s : State) (r : CmdRef) (c : Cmd) : Cmd :=
  let all := (List.finRange 8).flatMap (fun e => if (s.eng e).ref = some r then (s.eng e).recs else [])
  { c with recs := all.foldl (fun l x =>
      if l.any (fun y => y.tid == x.tid) then l.map (fun y => if y.tid = x.tid then y.add x else y) else l ++ [x]) c.recs }

/-- Run a vector program to completion (R244, R246). An engine busy with another command makes it wait. -/
def State.runVprog (s : State) (r : CmdRef) (c : Cmd) : State :=
  let p := parseProg c.aux
  let es := s.progEngines r.part.val r.queue.val p.stream
  let es := if p.single then es.take 1 else es
  if es.isEmpty then s.failRun r c 0x0505
  else if es.any (s.engBusy r) then s
  else
    let s := es.foldl (fun s e => s.loadProg e r c p) s
    let it := (bindsOf c).getD p.iter default
    let units := unitsOf p it
    let (s, st) :=
      if p.stream then s.runStream es p units.flatten else s.runTiles es p units
    let c := s.gatherRecs r c
    if st = 0 then s.finish r c else s.failRun r { c with recs := [] } st

/-- VPROG (R244). -/
def execVprog (c : CmdRef) (s : State) : Host.Outcome State Fault Refusal :=
  .next (match s.running c 0x0030 with | some d => s.runVprog c d | none => s)

/-! ## REDUCE (R259) -/

/-- The result of a reduction of elements, as a value for conversion to the output DTYPE. -/
def reduceVal (op : Nat) (float : Bool) (dt : Nat) (e : RaEnt) : FVal :=
  if op = 4 then ofInt (toSigned 32 (if e.any then e.idx else 0xFFFFFFFF)) 0
  else if !e.any then raIdentity op ((intWidth dt).getD 32) float
  else if float then f32Val e.f
  else ofInt (satInt 32 e.i) 0

/-- One element of the input of REDUCE; absent where the mask says so. [DESIGN CHOICE, log 59] -/
def State.reduceElem (s : State) (c : Cmd) (u op : Nat) (i : Ix) (idx : Nat) : RaEnt :=
  let d := c.desc 0
  let masked := bitOf (cOparg c) 5
  if masked && s.elemCode (c.desc 2) i u == 0 then raEmpty
  else
    let v := s.elemVal d (c.sw 0) i u
    let n := match v with | .fin neg m e => nearestInt neg m e | _ => 0
    raOne op (!isIntType d.dtype) (f32Of v) n idx

/-- The reduction of one output by the unit of slice `u`. -/
def State.reduceOne (s : State) (c : Cmd) (u : Nat) (o : Ix) : RaEnt :=
  let d := c.desc 0
  let op := cOparg c % 8
  let fl := !isIntType d.dtype
  match cOparg c / 8 % 4 with
  | 0 => raSum op fl (fun k => s.reduceElem c u op (k, o.2.1, o.2.2.1, o.2.2.2) k) (d.dim 0)
  | 1 => raSum op fl (fun k => s.reduceElem c u op (o.1, k, o.2.2.1, o.2.2.2) k) (d.dim 1)
  | _ => raSum op fl (fun k => s.reduceElem c u op (d.unlin k) k) d.count

/-- The checks of REDUCE at step 4: 0 or a status. -/
def State.checkReduce (s : State) (p q : Nat) (c : Cmd) : Nat :=
  let op := cOparg c % 8
  let axis := cOparg c / 8 % 4
  let d := c.desc 0
  let o := c.desc 1
  let m := c.desc 2
  let masked := bitOf (cOparg c) 5
  let want (i : Nat) : Nat := if axis = 2 ∨ axis = i then 1 else d.dim i
  if 4 < op ∨ 2 < axis then 0x0507
  else if cOparg c / 64 ≠ 0 then 0x0208
  else if !((List.range 4).all (fun i => o.dim i == want i))
      || !(if op == 4 || isIntType d.dtype then o.dtype == 0x0F else !isIntType o.dtype)
      || (masked && !(m.dtype == 0x0C && (List.range 4).all (fun i => m.dim i == d.dim i))) then 0x0502
  else if (s.maskArrays p q).isEmpty then 0x0505
  else 0

/-- Run a REDUCE: every output whole, in the reference order; EMPTY once where a result is empty (R257 to R259). -/
def State.runReduce (s : State) (r : CmdRef) (c : Cmd) : State :=
  let p := r.part.val
  let u := (s.maskArrays p r.queue.val).headD 8
  let (s, st) := s.fetchTensors p ([c.desc 0] ++ (if bitOf (cOparg c) 5 then [c.desc 2] else [])) u
  if st ≠ 0 then s.failRun r c st
  else
    let o := c.desc 1
    let rs := o.positions.map (fun i => (i, s.reduceOne c u i))
    let fl := !isIntType (c.desc 0).dtype
    let s := if rs.any (fun x => !x.2.any) then s.rduEmpty (u % 8) else s
    let (s, st, rec) := s.writeTensor p o (c.sw 1) (satOf c.arith)
      (rs.map (fun x => (x.1, reduceVal (cOparg c % 8) fl (c.desc 0).dtype x.2)))
    s.endRun r (c.record o rec) st

/-- REDUCE (R259). -/
def execReduce (c : CmdRef) (s : State) : Host.Outcome State Fault Refusal :=
  .next (match s.running c 0x0031 with | some d => s.runReduce c d | none => s)

/-! ## UPDATE (R264 to R266) -/

/-- The parameters of an update (R264). -/
structure UpdPar where
  lr : Word
  gs : Word
  wd : Word
  b1 : Word
  ob1 : Word
  b2 : Word
  ob2 : Word
  eps : Word
  c1 : Word
  c2 : Word
  deriving DecidableEq, Repr

/-- ±1, 0 for ±0, NaN for NaN (R265). -/
def f32Sign (w : Word) : Word :=
  let v := f32Val w
  if v.isNan then f32Of .nan else if v.isZero then 0 else if f32Gt w 0 then kOne else f32Neg kOne

/-- One element of an update: w′, m′, v′ (R265). -/
def updateElem (algo : Nat) (nest : Bool) (p : UpdPar) (g0 w m v : Word) : Word × Word × Word :=
  let g := f32Mul g0 p.gs
  match algo with
  | 0 =>
    let g2 := f32Add g (f32Mul p.wd w)
    let m' := f32Add (f32Mul p.b1 m) g2
    let u := if nest then f32Add g2 (f32Mul p.b1 m') else m'
    (f32Sub w (f32Mul p.lr u), m', v)
  | 1 =>
    let m' := f32Add (f32Mul p.b1 m) (f32Mul p.ob1 g)
    let v' := f32Add (f32Mul p.b2 v) (f32Mul p.ob2 (f32Mul g g))
    let u := f32Div (f32Mul m' p.c1) (f32Add (f32Sqrt (f32Mul v' p.c2)) p.eps)
    let u2 := f32Add u (f32Mul p.wd w)
    (f32Sub w (f32Mul p.lr u2), m', v')
  | _ =>
    let c := f32Add (f32Mul p.b1 m) (f32Mul p.ob1 g)
    let u2 := f32Add (f32Sign c) (f32Mul p.wd w)
    (f32Sub w (f32Mul p.lr u2), f32Add (f32Mul p.b2 m) (f32Mul p.ob2 g), v)

/-- A step counter as R359 compares it: none is −1. -/
def stepInt (n : Nat) : Int := if n = 0xFFFFFFFF then -1 else n

/-- The checks of UPDATE at step 4 (R264, R266, R360): 0 or a status. Descriptors: 0 parameters, 1 G, 2 W, 3 M, 4 V, 5 OUT1, 6 OUT2. [DEDUCED, log 88] -/
def State.checkUpdate (s : State) (p q : Nat) (c : Cmd) : Nat :=
  let algo := cOparg c % 16
  let there (i : Nat) : Bool := (c.desc i).rank != 0
  let same (a b : TDesc) : Bool := (List.range 4).all (fun i => a.dim i == b.dim i)
  let f32 (i : Nat) : Bool := (c.desc i).dtype == 1
  let g := c.desc 1
  let d := c.desc 0
  let o2 := c.desc 6
  if 2 < algo ∨ cOparg c / 32 ≠ 0 ∨ (bitOf (cOparg c) 4 ∧ algo ≠ 0) ∨ (c.bytes.drop 96).any (fun b => b != 0) then 0x0507
  else if !(f32 0 && f32 1 && f32 2 && f32 3 && (!there 4 || f32 4)) || d.rank != 1 || d.dim 0 != 16
      || !same g (c.desc 2) || !same g (c.desc 3) || (there 4 && !same g (c.desc 4)) || (there 5 && !same g (c.desc 5))
      || (there 6 && !(o2.rank == 2 && o2.dim 0 == g.dim 1 && o2.dim 1 == g.dim 0 && g.dim 2 == 1 && g.dim 3 == 1)) then 0x0502
  else if !s.groupOk p (cGroup c) then 0x0940
  else if stepInt (s.rd .COL_GRPg_CSTEP (cGroup c)).toNat < stepInt (cStep c) then 0x0506
  else if (s.maskArrays p q).isEmpty then 0x0505
  else if stepInt (cStep c) ≤ stepInt (s.rd .RCV_GRPg_UPD (cGroup c) p).toNat then 0x0B04
  else 0

/-- An FP32 element of a tensor. -/
def State.f32At (s : State) (d : TDesc) (i : Ix) : Word := BitVec.ofNat 32 (s.elemCode d i)

/-- Whether the update of a group's step has been applied: UPDATED_STEP says so, or another UPDATE has written and not yet completed (R27, R360). [DEDUCED, log 88] -/
def State.applied (s : State) (r : CmdRef) (c : Cmd) : Bool :=
  stepInt (cStep c) ≤ stepInt (s.rd .RCV_GRPg_UPD (cGroup c) r.part.val).toNat
    || s.queues.any (fun e => e.1 / 64 == r.part.val && e.2.cmds.any (fun d =>
      (e.1 % 64 != r.queue.val || d.slot != r.slot) && d.phase == .running && cOpcode d == 0x32 && d.finished && d.fail == 0
        && cGroup d == cGroup c && stepInt (cStep c) ≤ stepInt (cStep d)))

/-- What an UPDATE writes: w′, m′ and v′, then the copies from w′ along their own MX axes (R265). -/
def State.writeUpdate (s : State) (r : CmdRef) (c : Cmd) : State :=
  let p := r.part.val
  let there (i : Nat) : Bool := (c.desc i).rank != 0
  let (s, st) := s.fetchTensors p ([c.desc 0, c.desc 1, c.desc 2, c.desc 3] ++ (if there 4 then [c.desc 4] else []))
  if st ≠ 0 then s.failRun r c st
  else
    let w (i : Nat) : Word := s.f32At (c.desc 0) (i, 0, 0, 0)
    let par : UpdPar := { lr := w 0, gs := w 1, wd := w 2, b1 := w 3, ob1 := w 4, b2 := w 5, ob2 := w 6, eps := w 7, c1 := w 8, c2 := w 9 }
    let es := (c.desc 1).positions.map (fun i =>
      (i, updateElem (cOparg c % 16) (bitOf (cOparg c) 4) par (s.f32At (c.desc 1) i) (s.f32At (c.desc 2) i)
        (s.f32At (c.desc 3) i) (if there 4 then s.f32At (c.desc 4) i else 0)))
    let ws := es.map (fun e => (e.1, f32Val e.2.1))
    let ms := es.map (fun e => (e.1, f32Val e.2.2.1))
    let vs := es.map (fun e => (e.1, f32Val e.2.2.2))
    let turn (l : List (Ix × FVal)) : List (Ix × FVal) := l.map (fun e => ((e.1.2.1, e.1.1, 0, 0), e.2))
    let outs : List (Nat × List (Ix × FVal)) := [(2, ws), (3, ms)] ++ (if there 4 then [(4, vs)] else [])
      ++ (if there 5 then [(5, ws)] else []) ++ (if there 6 then [(6, turn ws)] else [])
    let (s, st, c) := outs.foldl (fun (a : State × Nat × Cmd) o =>
      let d := c.desc o.1
      let (s, st, rec) := a.1.writeTensor p d (c.sw o.1) (satOf c.arith) o.2
      (s, if a.2.1 = 0 then st else a.2.1, a.2.2.record d rec)) (s, 0, c)
    s.endRun r c st

/-- Run an UPDATE on the first free engine of the mask, REG_SUSPECT or not; with none free it waits. An update already applied changes nothing (R27,
R266, R360). Its division among engines changes no value. [DEDUCED, log 60] -/
def State.runUpdate (s : State) (r : CmdRef) (c : Cmd) : State :=
  let es := s.progEngines r.part.val r.queue.val true
  if es.isEmpty then s.failRun r c 0x0505
  else match es.find? (fun e => !s.engBusy r e) with
    | none => s
    | some e =>
      if s.applied r c then s.failRun r c 0x0B04
      else ((s.setEng e { s.eng e with ref := some r, recs := [] }).takeEngine e r true).writeUpdate r c

/-- UPDATE (R264). -/
def execUpdate (c : CmdRef) (s : State) : Host.Outcome State Fault Refusal :=
  .next (match s.running c 0x0032 with | some d => s.runUpdate c d | none => s)

end Sys2Proof.Machine
end

