-- ==== Sys2Proof/Machine/Collective.lean ====
section
/-! DEFINITION. The collective engine (R329 to R356): ALLREDUCE with its messages, schedule and compression, the commit token,
STEP_ABORT and the watchdog. -/

namespace Sys2Proof.Machine

/-! ## A group's state -/

/-- The idle state of a group. -/
def colIdle : ColSt :=
  { run := none, commit := none, held := [], marks := [], failed := [], tokens := [], resid := none, want := false, auto := false
    arDone := 0xFFFFFFFF }

/-- The collective state of group `g`. -/
def State.colSt (s : State) (g : Nat) : ColSt := Sparse.get colIdle s.col g

/-- Replace it; HELD shows whether messages are held. -/
def State.setCol (s : State) (g : Nat) (x : ColSt) : State :=
  ({ s with col := Sparse.set colIdle s.col g x }).fset Fld.COL_GRPg_STATE_HELD (b2n (!x.held.isEmpty)) g

/-- Modify it. -/
def State.modCol (s : State) (g : Nat) (f : ColSt → ColSt) : State := s.setCol g (f (s.colSt g))

/-- Set PHASE of a group. -/
def State.colPhase (s : State) (g n : Nat) : State := s.fset Fld.COL_GRPg_STATE_PHASE n g

/-- An event of the collective engine; parameter 1 holds GROUP. -/
def State.colEvent (s : State) (g code sev p1 p2 : Nat) : State :=
  s.event { code := code, cls := 0x03, inst := 0, sev := sev, part := s.groupOwner g, p1 := g + p1, p2 := p2 }

/-- The command of a reference, wherever it stands in its queue. -/
def State.cmdOf (s : State) (r : CmdRef) : Cmd := (s.cmdAt r.part.val r.queue.val r.slot).getD default

/-- End the operation of a command with a status, where it is still running. -/
def State.endCmd (s : State) (r : CmdRef) (status : Nat) : State :=
  match s.cmdAt r.part.val r.queue.val r.slot with
  | some c => if c.phase = .running ∧ c.finished = false then s.endRun r { c with stop := 0 } status else s
  | none => s

/-! ## Fields of ALLREDUCE (R329) -/

def arCmode (o : Nat) : Nat := o % 4
def arRef (o : Nat) : Bool := bitOf o 2
def arGather (o : Nat) : Bool := bitOf o 3
def arKeep (o : Nat) : Nat := bitsOf o 13 4
def arAttempt (o : Nat) : Nat := bitsOf o 17 14

/-! ## Rings (R341) -/

/-- The dimensions of a group that have more than one member, in the order X, Y, Z. -/
def State.grpDims (s : State) (g : Nat) : List Nat := (List.range 3).filter (fun d => 1 < s.grpCount g d)

/-- The weight of a dimension's index in a rank. -/
def State.rankWeight (s : State) (g d : Nat) : Nat :=
  match d with | 0 => 1 | 1 => s.grpCount g 0 | _ => s.grpCount g 0 * s.grpCount g 1

/-- A member's index along a dimension. -/
def State.rankIdx (s : State) (g d r : Nat) : Nat := r / max 1 (s.rankWeight g d) % max 1 (s.grpCount g d)

/-- The rank of the ring neighbour along a dimension. -/
def State.ringRank (s : State) (g d r : Nat) (neg : Bool) : Nat :=
  let n := max 1 (s.grpCount g d)
  let i := s.rankIdx g d r
  let j := if neg then (i + n - 1) % n else (i + 1) % n
  r - i * s.rankWeight g d + j * s.rankWeight g d

/-- The sub-range of a position of a range among `n` members, and whether it circulates in the − direction: the first half, the larger
one, goes in the + direction. [DESIGN CHOICE, log 45] -/
def subOf (rg : Nat × Nat) (n pos : Nat) : Nat × Bool :=
  ((List.range n).findSome? (fun k =>
    let (st, len) := shareOf rg.2 n k
    let o := pos - rg.1
    if st ≤ o ∧ o < st + len then some (k, decide ((len + 1) / 2 ≤ o - st)) else none)).getD (0, false)

/-- The positions of a range. -/
def rangePos (rg : Nat × Nat) : List Nat := (List.range rg.2).map (· + rg.1)

/-- The positions that member `i` starts: the + half of sub-range i − 1 and the − half of sub-range i + 1. [DESIGN CHOICE, log 45] -/
def initiates (rg : Nat × Nat) (n i pos : Nat) : Bool :=
  let (k, neg) := subOf rg n pos
  if neg then (i + 1) % n == k else (k + 1) % n == i

/-- Sub-range `i` of a range. [DESIGN CHOICE, log 45] -/
def ownSub (rg : Nat × Nat) (n i : Nat) : Nat × Nat := let (st, len) := shareOf rg.2 n i; (rg.1 + st, len)

/-! ## Messages (R321, R347) -/

/-- The 16 bytes of a collective header. -/
def colHdrBytes (c : ColHdr) : List Byte :=
  leBytes 4 c.tid ++ leBytes 4 c.step ++ leBytes 4 c.first
    ++ [BitVec.ofNat 8 c.nblk, BitVec.ofNat 8 (c.dim + b2n c.dirNeg * 4 + b2n c.want1 * 8 + c.attempt * 16)] ++ leBytes 2 c.oparg

/-- The data of items in a message of a kind. -/
def itemBytes (kind : Nat) (signs : Nat → BitVec 64) (i : ColItem) : List Byte :=
  match kind with
  | 1 => agreeBytes i.agr
  | 4 => leBytes 8 (signs i.idx).toNat
  | _ => grBytes i.blk

/-- The values of a block. -/
def ColRun.blockVals (r : ColRun) (b : Nat) : List Word := (r.v.drop (64 * b)).take 64

/-- Send items to a rank of the group, at most 28 to a message (R347). Without a route the reduction fails with PER_UNREACH (R318). -/
def State.colSend (s : State) (g : Nat) (run : ColRun) (kind dim : Nat) (neg : Bool) (rank : Nat) (items : List ColItem) :
    State × ColRun :=
  (chunksOf 28 (items.length + 1) items).foldl (fun (a : State × ColRun) c =>
    let h : ColHdr := { tid := run.tid, step := run.step, first := (c.headD default).idx, nblk := c.length, dim := dim, dirNeg := neg,
                        want1 := kind == 1 && a.2.want, attempt := run.attempt, oparg := run.oparg % 65536 }
    let body := colHdrBytes h ++ c.flatMap (itemBytes kind (fun b => signsOf (run.blockVals b)))
    let (s, ok) := a.1.sendRouted g kind (a.1.toPhys (a.1.memberAt g rank)) body
    (s, if ok || a.2.bad.isSome then a.2 else { a.2 with bad := some (0x0941, 0, 0) })) (s, run)

/-! ## The reduction -/

/-- The draw of an element at a narrowing stage (R214, R337). -/
def State.colDraw (s : State) (run : ColRun) (stage b i : Nat) : Nat :=
  srDraw (s.cmdOf run.ref).seed run.step run.tid (64 * b + i) (0x40000000 + stage % 2 ^ 28)

/-- The agreed record of a block. -/
def ColRun.agr (r : ColRun) (b : Nat) : AgreeRec := r.agreed.getD b default

/-- The stage-0 block of a member (R335). -/
def State.colStage0 (s : State) (g : Nat) (run : ColRun) (b : Nat) : GrBlock :=
  stage0Block (arRef run.oparg) (run.agr b).exp b (run.blockVals b)
    (s.colDraw run (0x8000000 + (s.ownRank g).getD 0) b)

/-- The blocks that top-k keeps: the K highest SCOREs, ties to the lower index, and every non-finite block (R343). -/
def keptBlocks (agreed : List AgreeRec) (permil : Nat) : List Nat :=
  let n := agreed.length
  let sc (b : Nat) : Nat := (agreed.getD b default).score
  let k := max 1 (n * permil / 1000)
  (List.range n).filter (fun b =>
    (agreed.getD b default).exp == 255
      || decide (((List.range n).filter (fun c => sc b < sc c || (sc c == sc b && c < b))).length < k))

/-- The contributions summed in a partial that this member makes at a stage (R337): those of the dimensions before, times the members
passed along the ring. -/
def State.contribs (s : State) (g : Nat) (run : ColRun) (pos : Nat) : Nat :=
  let dims := s.grpDims g
  let d := dims.getD run.stage 0
  let n := max 1 (s.grpCount g d)
  let i := s.rankIdx g d ((s.ownRank g).getD 0)
  let (k, neg) := subOf (run.ranges.headD (0, 0)) n pos
  let dist := if neg then (k + 2 * n - 1 - i) % n else (i + 2 * n - 1 - k) % n
  (dims.take run.stage).foldl (fun t d => t * s.grpCount g d) 1 * (dist + 1)

/-- The position of a block in the current phase. -/
def ColRun.posOf (r : ColRun) (b : Nat) : Option Nat :=
  if r.phase < 2 then (if b < r.items.length then some b else none) else r.kept.findIdx? (· == b)

/-- The MTYPE that the current phase expects. -/
def phaseKinds (r : ColRun) : List Nat :=
  match r.phase with | 0 | 1 => [1] | 2 => if r.mode = 2 then [2, 4] else [2] | _ => [3]

/-- The items of a received message. -/
def msgItems (m : ColMsg) : List ColItem :=
  match m.kind with
  | 1 => (List.range m.recs.length).map (fun j => { idx := m.ch.first + j, agr := m.recs.getD j default, blk := default })
  | 4 => (List.range m.signs.length).map (fun j =>
      { idx := m.ch.first + j, agr := default, blk := countsOf (m.signs.getD j 0) (m.ch.first + j) })
  | _ => m.blocks.map (fun b => { idx := b.idx, agr := default, blk := b })

/-- The items of a message that the current stage waits for, with their positions. -/
def ColRun.takes (r : ColRun) (m : ColMsg) : List (Nat × ColItem) :=
  (msgItems m).filterMap (fun i => match r.posOf i.idx with
    | some p => if r.left.contains p then some (p, i) else none
    | none => none)

/-- The blocks of the gradient (R329). -/
def ColRun.blockCount (r : ColRun) : Nat := r.v.length / 64

/-- Whether a message carries the values of the running reduction (R331). N_e shows in a message as a block beyond the gradient's last. [DEDUCED, log 113] -/
def ColRun.same (r : ColRun) (m : ColMsg) : Bool :=
  m.ch.step == r.step && m.ch.attempt == r.attempt && m.ch.tid == r.tid && m.ch.oparg == r.oparg % 65536
    && decide (m.ch.first + m.ch.nblk ≤ r.blockCount)

/-- Whether the current stage takes a message now. -/
def State.colWants (s : State) (g : Nat) (r : ColRun) (m : ColMsg) : Bool :=
  let chain := arRef r.oparg && 2 ≤ r.phase
  r.same m && (phaseKinds r).contains m.kind && !(r.takes m).isEmpty
    && (chain || m.ch.dim == (s.grpDims g).getD r.stage 0)

/-- One adder: the local item and the received one. The state carries OVERFLOW, the run a failed check. -/
def State.colAdd (s : State) (g : Nat) (run : ColRun) (pos : Nat) (loc rcv : ColItem) (kind : Nat) : State × ColRun × ColItem :=
  if run.phase = 0 then (s, run, { loc with agr := agreeMax loc.agr rcv.agr })
  else
    let fail (c : Nat) : Option (Nat × Nat × Nat) := if run.bad.isSome then run.bad else some (0x0A01, c, loc.idx)
    if kind ≠ 4 ∧ recvOk rcv.blk = false then (s, { run with bad := fail 0 }, loc)
    else
      let ref := arRef run.oparg
      let o :=
        if run.mode = 2 then addCounts loc.blk rcv.blk
        else addBlocks ref (run.agr loc.idx).exp loc.blk rcv.blk (s.colDraw run (s.contribs g run pos - 1) loc.idx)
      let s := if o.ovf then
          (s.sqSet .COL_GRPg_STATUS g 0 [Fld.COL_GRPg_STATUS_OVERFLOW] []).colEvent g 0x0A04 1 (loc.idx * 2 ^ 32) run.step
        else s
      (s, match o.check with | some c => { run with bad := fail c } | none => run, { loc with blk := o.blk })

/-- A received item at its position: combined where the phase reduces, taken where it gathers (with the receive check). -/
def State.colTake (s : State) (g : Nat) (run : ColRun) (pos kind : Nat) (rcv : ColItem) : State × ColRun :=
  let loc := run.items.getD pos default
  let (s, run, x) :=
    if run.phase % 2 = 0 then s.colAdd g run pos loc rcv kind
    else if run.phase = 3 ∧ recvOk rcv.blk = false then
      (s, { run with bad := if run.bad.isSome then run.bad else some (0x0A01, 0, rcv.idx) }, loc)
    else (s, run, rcv)
  (s, { run with items := run.items.set pos x, left := run.left.filter (· ≠ pos) })

/-- Take a message: each item it brings is combined or stored, and sent on where its way does not end here. -/
def State.colProcess (s : State) (g : Nat) (run : ColRun) (m : ColMsg) : State × ColRun :=
  let r := (s.ownRank g).getD 0
  let its := run.takes m
  let run := { run with want := run.want || (run.phase < 2 && m.ch.want1) }
  let (s, run) := its.foldl (fun (a : State × ColRun) e => a.1.colTake g a.2 e.1 m.kind e.2) (s, run)
  if run.bad.isSome then (s, run)
  else if arRef run.oparg ∧ 2 ≤ run.phase then
    let n := s.grpSize g
    let on := its.map (fun e => run.items.getD e.1 default)
    if run.phase = 2 then
      (if r + 1 < n then s.colSend g run 2 0 false (r + 1) on else s.colSend g run 3 0 false 0 on)
    else if r + 2 < n then s.colSend g run 3 0 false (r + 1) on else (s, run)
  else
    let d := (s.grpDims g).getD run.stage 0
    let n := max 1 (s.grpCount g d)
    let i := s.rankIdx g d r
    let rg := if run.phase % 2 = 0 then run.ranges.headD (0, 0) else (run.ranges.drop 1).headD (0, 0)
    let ends (pos : Nat) : Bool :=
      let k := (subOf rg n pos).1
      if run.phase % 2 = 0 then k == i else if m.ch.dirNeg then (i + n - 1) % n == k else (i + 1) % n == k
    let on := (its.filter (fun e => !ends e.1)).map (fun e => run.items.getD e.1 default)
    let kind := if run.phase < 2 then 1 else if run.phase = 2 then 2 else 3
    s.colSend g run kind d m.ch.dirNeg (s.ringRank g d r m.ch.dirNeg) on

/-- Begin a stage of the schedule: the member sends what it starts and waits for the rest. -/
def State.colStage (s : State) (g : Nat) (run : ColRun) : State × ColRun :=
  let r := (s.ownRank g).getD 0
  let d := (s.grpDims g).getD run.stage 0
  let n := max 1 (s.grpCount g d)
  let i := s.rankIdx g d r
  let reduce := run.phase % 2 = 0
  let rg := if reduce then run.ranges.headD (0, 0) else (run.ranges.drop 1).headD (0, 0)
  let mine (p : Nat) : Bool := if reduce then initiates rg n i p else (subOf rg n p).1 == i
  let run := { run with left := (rangePos rg).filter (fun p => !mine p) }
  let send (neg : Bool) : List ColItem :=
    ((rangePos rg).filter (fun p => mine p && (subOf rg n p).2 == neg)).map (fun p => run.items.getD p default)
  let kind := if run.phase < 2 then 1 else if run.phase = 3 then 3 else if run.mode = 2 ∧ run.stage = 0 then 4 else 2
  let (s, run) := s.colSend g run kind d false (s.ringRank g d r false) (send false)
  s.colSend g run kind d true (s.ringRank g d r true) (send true)

/-- Begin a reduce phase over the positions of `items`. -/
def State.colReduce (s : State) (g : Nat) (run : ColRun) (items : List ColItem) (phase : Nat) : State × ColRun :=
  let run := { run with items := items, phase := phase, stage := 0, ranges := [(0, items.length)], left := [] }
  if s.grpDims g = [] then (s, run) else s.colStage g run

/-- Begin the gather that follows a reduce phase. -/
def State.colGather (s : State) (g : Nat) (run : ColRun) : State × ColRun :=
  let run := { run with phase := run.phase + 1, stage := (s.grpDims g).length - 1, left := [] }
  if s.grpDims g = [] then (s, run) else s.colStage g run

/-- Agreement has ended: the blocks are kept or not, quantised, and reduced (R335, R342, R343, R345). -/
def State.colQuantise (s : State) (g : Nat) (run : ColRun) : State × ColRun :=
  let agreed := run.items.map (·.agr)
  let kept := if run.mode = 1 then keptBlocks agreed (arKeep run.oparg) else List.range agreed.length
  let run := { run with agreed := agreed, kept := kept }
  let items : List ColItem := kept.map (fun b =>
    { idx := b, agr := default,
      blk := if run.mode = 2 then countsOf (signsOf (run.blockVals b)) b else s.colStage0 g run b })
  let s := s.colPhase g 2
  if arRef run.oparg then
    let all := List.range items.length
    let run := { run with items := items, phase := 2, stage := 0, ranges := [(0, items.length)], left := all }
    let n := s.grpSize g
    if n ≤ 1 then (s, { run with left := [], phase := 4 })
    else if s.ownRank g = some 0 then s.colSend g { run with phase := 3 } 2 0 false 1 items
    else (s, run)
  else s.colReduce g run items 2

/-- The next stage of the schedule, once nothing is expected any more. Phase 4 is the end. -/
def State.colNext (s : State) (g : Nat) (run : ColRun) : State × ColRun :=
  let dims := s.grpDims g
  let d := dims.getD run.stage 0
  let n := max 1 (s.grpCount g d)
  let i := s.rankIdx g d ((s.ownRank g).getD 0)
  if arRef run.oparg ∧ 2 ≤ run.phase then
    if run.phase = 2 ∧ (s.ownRank g).getD 0 + 1 < s.grpSize g then
      (s, { run with phase := 3, left := List.range run.items.length })
    else (s, { run with phase := 4 })
  else if run.phase % 2 = 0 then
    let run := if dims = [] then run else { run with ranges := ownSub (run.ranges.headD (0, 0)) n i :: run.ranges }
    if run.stage + 1 < dims.length then s.colStage g { run with stage := run.stage + 1 }
    else if run.phase = 0 then s.colGather g run
    else
      let sh := run.ranges.headD (0, 0)
      let s := (s.wr .COL_GRPg_SHARD_FIRST g 0 (BitVec.ofNat 32 (run.kept.getD sh.1 0))).wr .COL_GRPg_SHARD_COUNT g 0
        (BitVec.ofNat 32 sh.2)
      if arGather run.oparg then (s.colPhase g 3).colGather g run else (s, { run with phase := 4 })
  else
    let run := if dims = [] then run else { run with ranges := run.ranges.drop 1 }
    if run.stage = 0 then (if run.phase = 1 then s.colQuantise g run else (s, { run with phase := 4 }))
    else s.colStage g { run with stage := run.stage - 1 }

/-- Go on with a reduction as far as the held messages carry it; `fuel` bounds the stages and messages. -/
def State.colDrain (g : Nat) : Nat → State × ColRun → State × ColRun
  | 0, a => a
  | fuel + 1, (s, run) =>
    if run.bad.isSome ∨ run.phase = 4 then (s, run)
    else if run.left = [] then State.colDrain g fuel (s.colNext g run)
    else
      match (s.colSt g).held.find? (s.colWants g run) with
      | none => (s, run)
      | some m =>
        let s := s.modCol g (fun x => { x with held := x.held.erase m })
        State.colDrain g fuel (s.colProcess g run m)

/-! ## STEP_ABORT (R349 to R351) -/

/-- The 16 bytes of a control message (R350). -/
def ctlBytes (ctype : Nat) (m : CtlMsg) : List Byte :=
  [BitVec.ofNat 8 ctype, BitVec.ofNat 8 m.group] ++ leBytes 2 m.rank ++ leBytes 4 m.epoch ++ leBytes 4 m.step
    ++ [BitVec.ofNat 8 m.reason, if m.dirPrev then 1 else 0, BitVec.ofNat 8 (m.attempt % 16), 0]

/-- Send a control message one hop toward a rank of its group (R319, R350). -/
def State.sendToward (s : State) (ctype : Nat) (m : CtlMsg) (rank : Nat) : State :=
  let dst := s.toPhys (s.memberAt m.group rank)
  match s.route m.group dst with
  | some (_, _, leg :: _) => s.sendCtl ⟨(2 * leg.1 + b2n leg.2) % 6, by omega⟩ (ctlBytes ctype m)
  | some (_, _, []) => s
  | none =>
    let s := s.sqSet .PER_STATUS 0 0 [Fld.PER_STATUS_UNREACH] [Fld.PER_STATUS_UNREACH_CNT]
    s.perEvent 0x0941 1 (coordNum dst) (m.group * 256)

/-- The rank after or before a rank. -/
def State.nextRank (s : State) (g r : Nat) (prev : Bool) : Nat :=
  let n := max 1 (s.grpSize g)
  if prev then (r + n - 1) % n else (r + 1) % n

/-- A failed ALLREDUCE: DESC1 and the next error-memory bank become undefined and no signal is applied (R332). -/
def State.colFailRun (s : State) (g status : Nat) : State :=
  match (s.colSt g).run with
  | none => s
  | some run =>
    let c := s.cmdOf run.ref
    let s := s.scrambleTensor (c.desc 1)
    let e := c.desc 2
    let s := if e.rank = 0 then s else s.scramble (e.base + e.bitPos (0, (run.step + 1) % 2, 0, 0) / 8) (4 * e.dim 0)
    let s := s.modCol g (fun x => { x with run := none, failed := (run.step, run.attempt) :: x.failed })
    (s.colPhase g 0).endCmd run.ref status

/-- Fail the running COMMIT of a group. -/
def State.colFailCommit (s : State) (g status : Nat) : State :=
  match (s.colSt g).commit with
  | none => s
  | some k => ((s.modCol g (fun x => { x with commit := none })).colPhase g 0).endCmd k.ref status

/-- Whether attempt `a` of a step is marked aborted (R351). -/
def State.colMarked (s : State) (g step a : Nat) : Bool := (s.colSt g).marks.contains (step, a)

/-- Mark an attempt of a step aborted, with what follows from it (R351). Its WANT_1BIT is left behind with it (R26). -/
def State.colMark (s : State) (g step a : Nat) : State :=
  let s := s.modCol g (fun x => { x with
    marks := if x.marks.contains (step, a) then x.marks else x.marks ++ [(step, a)]
    held := x.held.filter (fun m => m.ch.step != step || m.ch.attempt != a)
    tokens := x.tokens.filter (fun t => t != (step, a)), want := false, auto := false })
  let s := match (s.colSt g).run with
    | some r => if r.step = step ∧ r.attempt = a then s.colFailRun g 0x0A02 else s
    | none => s
  let s := match (s.colSt g).commit with
    | some k => if k.step = step ∧ k.attempt = a then s.colFailCommit g 0x0A02 else s
    | none => s
  s.dropPending (s.groupOwner g)

/-- Send STEP_ABORT in both directions and mark the attempt (R350, R351). -/
def State.colSendAbort (s : State) (g step a reason : Nat) : State :=
  let r := (s.ownRank g).getD 0
  let s := s.sqSet .COL_GRPg_STATUS g 0 [Fld.COL_GRPg_STATUS_ABORT_TX] [Fld.COL_GRPg_STATUS_ABORT_CNT]
  let s := s.colEvent g 0x0A02 1 (reason * 2 ^ 8) step
  let m : CtlMsg := { group := g, rank := r, epoch := s.epoch g, step := step, reason := reason, dirPrev := false, attempt := a }
  let s := s.sendToward 3 m (s.nextRank g r false)
  let s := s.sendToward 3 { m with dirPrev := true } (s.nextRank g r true)
  s.colMark g step a

/-- A check of R339 failed, or a message disagreed (R331, R340): COL_RESIDUE, STEP_ABORT, and COL_RES_REPEAT after RES_REPEAT
consecutive attempts. [DEDUCED, log 113] -/
def State.colResidue (s : State) (g step a check idx reason : Nat) : State :=
  let s := s.sqSet .COL_GRPg_STATUS g 0 [Fld.COL_GRPg_STATUS_RESIDUE] [Fld.COL_GRPg_STATUS_RESIDUE_CNT]
  let s := s.colEvent g 0x0A01 2 (check * 2 ^ 8 + idx * 2 ^ 32) step
  let s := s.colFailRun g 0x0A01
  let n := match (s.colSt g).resid with
    | some (st, at_, n) => if st = step then (if at_ = a then n else if (at_ + 1) % 16 = a then n + 1 else 1) else 1
    | none => 1
  let s := s.modCol g (fun x => { x with resid := some (step, a, n) })
  let s := s.colSendAbort g step a reason
  if s.fget Fld.COL_CFG_RES_REPEAT ≤ n then s.colEvent g 0x0A07 3 0 step else s

/-! ## Completion of ALLREDUCE (R332, R341, R344, R345) -/

/-- The value of an element of a result block. -/
def State.colValue (run : ColRun) (b : GrBlock) (i : Nat) : FVal :=
  if run.mode = 2 then
    let sc := (run.agr b.idx).scale
    if sc = 0x7FC0 then .nan else (ofInt (b.m.getD i 0) 0).mul (f32Val (BitVec.ofNat 32 (sc * 65536)))
  else if b.exp = 255 then .nan else ofInt (b.m.getD i 0) ((b.exp : Int) - 142)

/-- The member's own contribution as sent, q of R344. -/
def State.colContribution (s : State) (g : Nat) (run : ColRun) (j : Nat) : FVal :=
  let b := j / 64
  if run.mode = 2 then
    let sc := f32Val (BitVec.ofNat 32 ((run.agr b).scale * 65536))
    if (signsOf (run.blockVals b)).toNat.testBit (j % 64) then sc.neg else sc
  else if run.kept.contains b then
    let x := s.colStage0 g run b
    if x.exp = 255 then .nan else ofInt (x.m.getD (j % 64) 0) ((x.exp : Int) - 142)
  else .fin false 0 0

/-- Write the result and the next bank of the error memory, and complete; a failed write fails the ALLREDUCE (R332). -/
def State.colFinish (s : State) (g : Nat) (run : ColRun) : State :=
  let p := run.ref.part.val
  let c := s.cmdOf run.ref
  let d := c.desc 1
  let e := c.desc 2
  let n := d.count
  let ps := if arGather run.oparg then List.range run.items.length else rangePos (run.ranges.headD (0, 0))
  let blocks := ps.map (fun q => (run.items.getD q default).blk)
  let val (j : Nat) : Option FVal :=
    match blocks.find? (fun b => b.idx == j / 64) with
    | some b => some (State.colValue run b (j % 64))
    | none => if run.mode = 1 then some (.fin false 0 0) else none
  let xs := (List.range n).filterMap (fun j => (val j).map (fun v => (d.unlin j, v)))
  let es := (List.range n).map (fun j => ((j, (run.step + 1) % 2, 0, 0),
    (f32Val (run.v.getD j 0)).add (s.colContribution g run j).neg))
  let (s, st, r1) := s.writeTensor p d 0 false xs
  let c := c.record d r1
  let (s, st, c) :=
    if e.rank = 0 then (s, st, c)
    else let (s, st2, r2) := s.writeTensor p e 0 false es; (s, if st = 0 then st2 else st, c.record e r2)
  if st ≠ 0 then s.colFailRun g st
  else
    let s := s.modCol g (fun x => { x with
      run := none, arDone := run.step, want := x.want || run.want, auto := x.auto || arCmode run.oparg == 3 })
    let s := s.colPhase g 0
    if s.cmdAt run.ref.part.val run.ref.queue.val run.ref.slot = none then s else s.endRun run.ref { c with stop := 0 } 0

/-- Go on with the running reduction of a group, and settle it where it has ended or failed. -/
def State.colGo (s : State) (g : Nat) (run : ColRun) : State :=
  let (s, run) := State.colDrain g ((s.colSt g).held.length + 32) (s, run)
  let s := s.modCol g (fun x => { x with run := some run })
  match run.bad with
  | some (0x0A01, check, idx) => s.colResidue g run.step run.attempt check idx 1
  | some (st, _, _) => s.colFailRun g st
  | none => if run.phase = 4 then s.colFinish g run else s

/-! ## ALLREDUCE -/

/-- CMODE in force: automatic takes MODE_EFF (R346). -/
def State.colMode (s : State) (g o : Nat) : Nat := if arCmode o = 3 then s.fget Fld.COL_GRPg_STATE_MODE_EFF g else arCmode o

/-- Whether some member of a group is in the dead table. -/
def State.memberDead (s : State) (g : Nat) : Bool :=
  (List.range (s.grpSize g)).any (fun r => s.isDead (s.toPhys (s.memberAt g r)))

/-- Whether the group recovers with its partition's domain and is in HOLD or a later state (R361, R368). -/
def State.groupHeld (s : State) (p g : Nat) : Bool :=
  bitOf (s.rd64 .RCV_DOMAIN_LO .RCV_DOMAIN_HI 0 p) g && s.fget Fld.RCV_STATE_STATE 0 p != 0

/-- The checks of ALLREDUCE at step 4 (R330, R345, R351, R368): 0 or a status. -/
def State.checkAllreduce (s : State) (p : Nat) (c : Cmd) : Nat :=
  let g := cGroup c
  let o := cOparg c
  let d := c.desc 0
  let r := c.desc 1
  let e := c.desc 2
  let k := arKeep o
  let mode := arCmode o
  if !s.groupOk p g || (s.ownRank g).isNone then 0x0940
  else if d.dtype ≠ 0x01 ∨ r.dtype ≠ 0x01 ∨ r.dims ≠ d.dims ∨ r.rank ≠ d.rank
      ∨ (e.rank ≠ 0 ∧ (e.dtype ≠ 0x01 ∨ e.rank ≠ 2 ∨ e.dim 0 ≠ d.count ∨ e.dim 1 ≠ 2))
      ∨ (mode ≠ 0 ∧ (e.rank = 0 ∨ arGather o = false)) ∨ (arRef o = true ∧ (mode ≠ 0 ∨ arGather o = false))
      ∨ (mode % 2 = 1 ∧ (k = 0 ∨ 1000 < k)) ∨ bitsOf o 31 18 ≠ 0 ∨ (s.colMode g o = 2 ∧ 32767 < s.grpSize g) then 0x0A03
  else if s.colMarked g (cStep c) (arAttempt o) then 0x0A02
  else if s.groupHeld p g || s.memberDead g then 0x0A06
  else 0

/-- Whether a port of the part's ring traffic runs in a session that a retrain has narrowed (R346). -/
def State.ringNarrowed (s : State) (g : Nat) : Bool :=
  let r := (s.ownRank g).getD 0
  (s.grpDims g).any (fun d => [false, true].any (fun neg =>
    match s.route g (s.toPhys (s.memberAt g (s.ringRank g d r neg))) with
    | some (_, _, leg :: _) => (vget s.ports ⟨(2 * leg.1 + b2n leg.2) % 10, by omega⟩).narrowed
    | _ => false))

/-- Start an ALLREDUCE: v = G + e, the local agreement records, then the schedule (R333). -/
def State.colStart (s : State) (r : CmdRef) (c : Cmd) : State :=
  let g := cGroup c
  let p := r.part.val
  let o := cOparg c
  let d := c.desc 0
  let e := c.desc 2
  let bank := cStep c % 2
  if s.colMarked g (cStep c) (arAttempt o) then s.failRun r c 0x0A02
  else
    let (s, st) := s.fetchTensor p d
    let (s, st) :=
      if e.rank = 0 then (s, st)
      else
        let (x, s) := s.readAs p (e.base + e.bitPos (0, bank, 0, 0) / 8) (4 * e.dim 0)
        (s, if x.2 then 0x0701 else st)
    if st ≠ 0 then
      (s.modCol g (fun x => { x with failed := (cStep c, arAttempt o) :: x.failed })).failRun r c st
    else
      let n := d.count
      let nb := ceilDiv n 64
      let v := (List.range (64 * nb)).map (fun j =>
        if n ≤ j then 0
        else
          let x := s.f32At d (d.unlin j)
          if e.rank = 0 then x else f32Add x (s.f32At e (j, bank, 0, 0)))
      let run : ColRun :=
        { ref := r, step := cStep c, tid := d.tid, attempt := arAttempt o, oparg := o, mode := s.colMode g o, v := v
          want := arCmode o == 3 && s.ringNarrowed g, agreed := [], kept := [], items := [], phase := 0, stage := 0, ranges := []
          left := [], bad := none }
      let items : List ColItem := (List.range nb).map (fun b => { idx := b, agr := agreeOf (run.blockVals b), blk := default })
      let s := s.colPhase g 1
      let bad := (s.colSt g).held.find? (fun m =>
        m.ch.step == run.step && m.ch.attempt == run.attempt && m.ch.tid == run.tid && !run.same m)
      match bad with
      | some m =>
        let s := s.modCol g (fun x => { x with run := some run })
        let s := s.sqSet .COL_GRPg_STATUS g 0 [Fld.COL_GRPg_STATUS_MISMATCH] []
        let s := s.colEvent g 0x0A08 1 ((((s.toLog m.src).bind (s.rankOf g)).getD 0) * 2 ^ 16) m.ch.tid
        s.colResidue g run.step run.attempt 0 m.ch.first 2
      | none =>
        let (s, run) := s.colReduce g run items 0
        s.colGo g run

/-- ALLREDUCE (R329). A second one of the group waits until the first has ended (R331). -/
def execAllreduce (c : CmdRef) (s : State) : Host.Outcome State Fault Refusal :=
  .next (match s.running c 0x0050 with
    | some d => if (s.colSt (cGroup d)).run.isSome then s else s.colStart c d
    | none => s)

/-! ## Received messages (R325, R331, R348) -/

/-- The bytes of a collective message (R321, R347): two headers of 16 bytes, then its records. -/
def ColMsg.bytes (m : ColMsg) : Nat := 32 + 8 * (m.recs.length + m.signs.length) + 136 * m.blocks.length

/-- Whether a group's share of the collective buffers has no room for a message: its sender then waits for credit (R22, R347, R348). -/
def State.colFull (s : State) (g : Nat) (m : ColMsg) : Bool :=
  decide (s.fget Fld.COL_GRPg_CFG_BUF_MIB g * 2 ^ 20 < ((s.colSt g).held ++ [m]).foldl (fun n x => n + x.bytes) 0)

/-- A collective message of a group. One for which the buffer has no room stays with its sender, unless the running reduction takes it at once. An AGREE
record of another tensor that comes once this member's own agreement has ended is of the step's next reduction, and is held. [DESIGN CHOICE, log 45; DEDUCED, log 113] -/
def State.colReceive (s : State) (h : RouteHdr) (m : ColMsg) : State :=
  if 64 ≤ h.group then s
  else
    let g := h.group
    let (s, ok) := s.epochCheck h
    if !ok then s
    else if s.colMarked g m.ch.step m.ch.attempt then
      s.fset Fld.PER_GRPg_DISC_STALE_CNT (s.fget Fld.PER_GRPg_DISC_STALE_CNT g + 1) g
    else
      match (s.colSt g).run with
      | none => if s.colFull g m then s else s.modCol g (fun x => { x with held := x.held ++ [m] })
      | some run =>
        let mine := m.ch.step == run.step && m.ch.attempt == run.attempt
        let other := m.ch.tid != run.tid
        if mine && !run.same m && !(other && m.kind == 1 && 2 ≤ run.phase) then
          let s := s.sqSet .COL_GRPg_STATUS g 0 [Fld.COL_GRPg_STATUS_MISMATCH] []
          let s := s.colEvent g 0x0A08 1 ((((s.toLog m.src).bind (s.rankOf g)).getD 0) * 2 ^ 16) m.ch.tid
          s.colResidue g run.step run.attempt 0 m.ch.first 2
        else if s.colFull g m && !s.colWants g run m then s
        else (s.modCol g (fun x => { x with held := x.held ++ [m] })).colGo g run

/-- AGREE (R333). -/
def execAgree (h : RouteHdr) (ch : ColHdr) (recs : List AgreeRec) (s : State) : Host.Outcome State Fault Refusal :=
  .next (s.colReceive h { kind := 1, src := h.src, ch := ch, recs := recs, blocks := [], signs := [] })

/-- PARTIAL (R336). -/
def execPartialSum (h : RouteHdr) (ch : ColHdr) (blocks : List GrBlock) (s : State) : Host.Outcome State Fault Refusal :=
  .next (s.colReceive h { kind := 2, src := h.src, ch := ch, recs := [], blocks := blocks, signs := [] })

/-- RESULT (R341). -/
def execResult (h : RouteHdr) (ch : ColHdr) (blocks : List GrBlock) (s : State) : Host.Outcome State Fault Refusal :=
  .next (s.colReceive h { kind := 3, src := h.src, ch := ch, recs := [], blocks := blocks, signs := [] })

/-- SIGNS (R345). -/
def execSigns (h : RouteHdr) (ch : ColHdr) (signs : List (BitVec 64)) (s : State) : Host.Outcome State Fault Refusal :=
  .next (s.colReceive h { kind := 4, src := h.src, ch := ch, recs := [], blocks := [], signs := signs })

/-! ## The commit token (R352 to R354, R365) -/

/-- The mode rule of a commit (R346); a step that raises WANT_1BIT in one-bit mode starts the clean-step count again. [DEDUCED, log 113] -/
def State.colModeRule (s : State) (g step : Nat) : State :=
  let x := s.colSt g
  let cur := s.fget Fld.COL_GRPg_STATE_MODE_EFF g
  let switch (s : State) (m : Nat) : State :=
    let s := (s.fset Fld.COL_GRPg_STATE_MODE_EFF m g).fset Fld.COL_GRPg_STATE_CLEAN 0 g
    (s.sqSet .COL_GRPg_STATUS g 0 [Fld.COL_GRPg_STATUS_MODE_SWITCH] []).colEvent g 0x0A05 0 (m * 2 ^ 8) step
  if !x.auto then s
  else if x.want then (if cur = 2 then s.fset Fld.COL_GRPg_STATE_CLEAN 0 g else switch s 2)
  else if cur = 2 then
    let n := s.fget Fld.COL_GRPg_STATE_CLEAN g + 1
    if s.fget Fld.COL_GRPg_CFG_RETURN_STEPS g ≤ n then switch s 1 else s.fset Fld.COL_GRPg_STATE_CLEAN n g
  else s

/-- Steps 1 to 4 of a member's commit (R353); the status is that of the first write of the monitor that failed (R163, R472). -/
def State.colCommitSteps (s : State) (g step : Nat) : State × Nat :=
  let (s, st) := s.ledgerCommit (s.groupOwner g) step
  let s := s.wr .COL_GRPg_CSTEP g 0 (BitVec.ofNat 32 step)
  let s := s.colModeRule g step
  (s.modCol g (fun x => { x with held := [], marks := [], failed := [], tokens := [], want := false, auto := false }), st)

/-- A member's commit; its COMMIT of the step ends, with the monitor's status (R353). -/
def State.colCommit (s : State) (g step a : Nat) : State :=
  let (s, st) := s.colCommitSteps g step
  match (s.colSt g).commit with
  | some k =>
    if k.step = step ∧ k.attempt = a then
      ((s.modCol g (fun x => { x with commit := none })).colPhase g 0).endCmd k.ref st
    else s
  | none => s

/-- Send a token to the next rank. [DESIGN CHOICE, log 43] -/
def State.sendToken (s : State) (g ctype step a : Nat) : State :=
  let r := (s.ownRank g).getD 0
  s.sendToward ctype { group := g, rank := r, epoch := s.epoch g, step := step, reason := 0, dirPrev := false, attempt := a }
    (s.nextRank g r false)

/-- Whether R365 lets the first lap of a step pass: PROT_STEP ≥ s − 1. [DEDUCED, log 44] -/
def State.firstLapFree (s : State) (g step : Nat) : Bool :=
  stepInt step - 1 ≤ stepInt (s.rd .RCV_GRPg_PROT g (s.groupOwner g)).toNat

/-- The first lap leaves this member where its COMMIT has started, it holds the token (rank 0 makes it), and R365 lets it pass
(R352). A group of one member has then completed its first lap. -/
def State.colForward (s : State) (g : Nat) : State :=
  match (s.colSt g).commit with
  | none => s
  | some k =>
    let r := (s.ownRank g).getD 0
    if k.fwd || !s.firstLapFree g k.step || !(r == 0 || (s.colSt g).tokens.contains (k.step, k.attempt)) then s
    else
      let s := s.modCol g (fun x => { x with commit := some { k with fwd := true }, tokens := x.tokens.filter (· ≠ (k.step, k.attempt)) })
      let s := s.colPhase g 5
      if s.grpSize g ≤ 1 then s.colCommit g k.step k.attempt else s.sendToken g 1 k.step k.attempt

/-- The checks of COMMIT at step 4 (R324, R352, R368). [DEDUCED, log 44] -/
def State.checkCommit (s : State) (p : Nat) (c : Cmd) : Nat :=
  let g := cGroup c
  let a := cOparg c % 16
  let x := s.colSt g
  let st := cStep c
  if !s.groupOk p g || (s.ownRank g).isNone then 0x0940
  else if cOparg c / 16 ≠ 0 then 0x0A03
  else if s.colMarked g st a then 0x0A02
  else if x.failed.contains (st, a) || (match x.run with | some r => r.step == st && r.attempt == a | none => false)
      || (List.range 64).any (fun q => (s.queue p q).cmds.any (fun d => d.phase == .running && cOpcode d == 0x0050
            && cGroup d == g && cStep d == st && arAttempt (cOparg d) == a)) then 0x0A04
  else if s.groupHeld p g || s.memberDead g then 0x0A06
  else 0

/-- COMMIT (R352). -/
def execCommit (c : CmdRef) (s : State) : Host.Outcome State Fault Refusal :=
  .next (match s.running c 0x0051 with
    | some d =>
      let g := cGroup d
      if (s.colSt g).commit.isSome then s
      else if s.colMarked g (cStep d) (cOparg d % 16) then s.failRun c d 0x0A02
      else
        let s := s.modCol g (fun x => { x with commit := some { ref := c, step := cStep d, attempt := cOparg d % 16, fwd := false } })
        (s.colPhase g 4).colForward g
    | none => s)

/-- Whether a control message of a group is acted on: the part is a member, the epoch is the group's, the step has not been
committed here, its attempt is not marked (R325, R350 to R352). -/
def State.ctlTaken (s : State) (m : CtlMsg) : Bool :=
  (s.ownRank m.group).isSome && m.epoch == s.epoch m.group
    && stepInt (s.rd .COL_GRPg_CSTEP m.group).toNat < stepInt m.step && !s.colMarked m.group m.step m.attempt

/-- Whether a token's destination is this part: the rank after its sender's. -/
def State.tokenHere (s : State) (m : CtlMsg) : Bool := s.ownRank m.group == some (s.nextRank m.group m.rank false)

/-- TOKEN_READY arrives (R352). -/
def State.tokenReady (s : State) (m : CtlMsg) : State :=
  let g := m.group
  if 64 ≤ g ∨ s.grpSize g = 0 then s
  else if !s.tokenHere m then s.sendToward 1 m (s.nextRank g m.rank false)
  else if !s.ctlTaken m then s
  else if s.ownRank g = some 0 then
    match (s.colSt g).commit with
    | some k =>
      if k.fwd ∧ k.step = m.step ∧ k.attempt = m.attempt then (s.colCommit g m.step m.attempt).sendToken g 2 m.step m.attempt else s
    | none => s
  else
    let again := match (s.colSt g).commit with | some k => k.fwd && k.step == m.step && k.attempt == m.attempt | none => false
    if again then s
    else
      (s.modCol g (fun x => { x with
        tokens := if x.tokens.contains (m.step, m.attempt) then x.tokens else x.tokens ++ [(m.step, m.attempt)] })).colForward g

/-- TOKEN_READY (R352). -/
def execTokenReady (port : PeerPort) (m : CtlMsg) (s : State) : Host.Outcome State Fault Refusal :=
  .next (if s.portActive port.val then s.tokenReady m else s)

/-- TOKEN_COMMIT arrives: the member commits and forwards the second lap; it ends at rank 0 (R352, R353). -/
def State.tokenCommit (s : State) (m : CtlMsg) : State :=
  let g := m.group
  if 64 ≤ g ∨ s.grpSize g = 0 then s
  else if !s.tokenHere m then s.sendToward 2 m (s.nextRank g m.rank false)
  else if !s.ctlTaken m || s.ownRank g == some 0 then s
  else (s.colCommit g m.step m.attempt).sendToken g 2 m.step m.attempt

/-- TOKEN_COMMIT (R353). -/
def execTokenCommit (port : PeerPort) (m : CtlMsg) (s : State) : Host.Outcome State Fault Refusal :=
  .next (if s.portActive port.val then s.tokenCommit m else s)

/-- STEP_ABORT arrives (R350, R351). A member acts on the first copy and sends it on in its direction. A part outside the group relays
it; the message does not say toward which rank, so that rank is a free value. [DESIGN CHOICE, log 43] -/
def State.stepAbort (s : State) (m : CtlMsg) : State :=
  let g := m.group
  if 64 ≤ g ∨ s.grpSize g = 0 then s
  else
    match s.ownRank g with
    | none =>
      let (d, s) := s.draw 16
      s.sendToward 3 m (d.toNat % s.grpSize g)
    | some r =>
      if !s.ctlTaken m then s
      else
        let s := s.sqSet .COL_GRPg_STATUS g 0 [Fld.COL_GRPg_STATUS_ABORT_RX] [Fld.COL_GRPg_STATUS_ABORT_CNT]
        let s := s.colEvent g 0x0A03 0 (m.rank * 2 ^ 16) m.step
        let s := s.sendToward 3 m (s.nextRank g r m.dirPrev)
        s.colMark g m.step m.attempt

/-- STEP_ABORT (R351). -/
def execStepAbort (port : PeerPort) (m : CtlMsg) (s : State) : Host.Outcome State Fault Refusal :=
  .next (if s.portActive port.val then s.stepAbort m else s)

/-- The watchdog of a group expires (R349, R354). -/
def State.colWatchdog (s : State) (g : Nat) : State :=
  match (s.colSt g).run with
  | some r => s.colSendAbort g r.step r.attempt 0
  | none =>
    match (s.colSt g).commit with
    | none => s
    | some k =>
      if k.fwd then
        let s := s.sqSet .COL_GRPg_STATUS g 0 [Fld.COL_GRPg_STATUS_COMMIT_LOST] []
        (s.colEvent g 0x0A06 2 0 k.step).colFailCommit g 0x0A05
      else s.colSendAbort g k.step k.attempt 0

/-- COL_WATCHDOG (R349). -/
def execColWatchdog (g : GroupId) (s : State) : Host.Outcome State Fault Refusal := .next (s.colWatchdog g.val)

/-! ## What other units call -/

/-- A member's coordinate entered the dead table: running ALLREDUCE and COMMIT of its groups fail with COL_MEMBER_LOST; no STEP_ABORT is
sent (R356). -/
def State.colMemberLost (s : State) (c : Coord) : State :=
  (List.range 64).foldl (fun s g =>
    let x := s.colSt g
    if (x.run.isSome || x.commit.isSome)
        && (List.range (s.grpSize g)).any (fun r => coordNum (s.toPhys (s.memberAt g r)) == coordNum c) then
      (s.colFailRun g 0x0A06).colFailCommit g 0x0A06
    else s) s

/-- A running ALLREDUCE or COMMIT is stopped from outside the collective engine. -/
def State.colStop (s : State) (r : CmdRef) : State :=
  (List.range 64).foldl (fun s g =>
    let s := match (s.colSt g).run with
      | some x => if x.ref = r then (s.modCol g (fun y => { y with run := none, failed := (x.step, x.attempt) :: y.failed })).colPhase g 0 else s
      | none => s
    match (s.colSt g).commit with
      | some k => if k.ref = r then (s.modCol g (fun y => { y with commit := none })).colPhase g 0 else s
      | none => s) s

/-- The marks of a group are cleared when its epoch changes (R351); the engine writes the new epoch (R325). -/
def State.setEpoch (s : State) (g e : Nat) : State :=
  (s.fset Fld.PER_GRPg_EPOCH_EPOCH e g).modCol g (fun x => { x with marks := [] })

end Sys2Proof.Machine
end

