-- ==== Sys2Proof/Machine/EutonTx.lean ====
section
/-! DEFINITION. What the Forcen sends on its Euton ports (R294 to R296, R299, R300, R304): headers, completions, T2 reads, snapshot
requests, towpath messages, and the tags of its own requests. -/

namespace Sys2Proof.Machine

/-- The 16-byte header of R295. -/
def txnHdr (ttype status tag len addr : Nat) : List Byte :=
  [BitVec.ofNat 8 ttype, BitVec.ofNat 8 status] ++ leBytes 2 (tag % 4096) ++ leBytes 4 len ++ leBytes 8 addr

/-- Send a transaction on a VC of a Euton port. -/
def State.sendTxn (s : State) (k vc : Nat) (bytes : List Byte) : State := s.sendMsg ⟨6 + k % 4, by omega⟩ vc bytes

/-- EUT_REQ_ERR (R309): port, TTYPE and STATUS, and the address. [DEDUCED, log 83] -/
def State.reqEvent (s : State) (k ttype status addr : Nat) : State :=
  s.event { code := 0x0920, cls := 0x0A, inst := 6 + k, sev := 1, part := if s.portOwner k < 4 then s.portOwner k else 0xFF,
            p1 := 6 + k + ttype * 2 ^ 8 + status * 2 ^ 16, p2 := addr }

/-- A request that did not end with OK: REQ_ERR and EUT_REQ_ERR (R296, R297, R309). [DEDUCED, log 83] -/
def State.reqErr (s : State) (k ttype status addr : Nat) : State :=
  (s.sqSet .EUT_Ek_STATUS k 0 [Fld.EUT_Ek_STATUS_REQ_ERR] [Fld.EUT_Ek_STATUS_REQ_ERR_CNT]).reqEvent k ttype status addr

/-- A completion on VC2 (R296) of a request of a TTYPE at an address. -/
def State.sendCpl (s : State) (k ttype tag addr status : Nat) (data : List Byte) : State :=
  let s := (s.sendTxn k 2 (txnHdr 0x08 status tag data.length 0 ++ data)).emit (.cpl ⟨k % 4, by omega⟩ tag status data)
  if status = 0 then s else s.reqErr k ttype status addr

/-- A towpath message: one flit on VC0 (R304). -/
def State.towpath (s : State) (k code stream offset : Nat) : State :=
  let body := [BitVec.ofNat 8 code, 0] ++ leBytes 2 stream ++ leBytes 4 0 ++ leBytes 8 offset
  (s.sendTxn k 0 (padTo 244 body)).emit (.towpath k code stream offset)

/-- The tags of a port's requests that are outstanding (R295). -/
def State.tagsOut (s : State) (k : Nat) : List Nat :=
  (s.eut.outst.filter (fun o => o.port == k)).map (·.tag)
    ++ (List.finRange 4).flatMap (fun p => (vget s.tier p).fetches.filterMap (fun f =>
        match f.tag with | some (q, t, _, _) => if q = k then some t else none | none => none))

/-- Whether a port has a tag that is not outstanding: at most 4,096 requests are (R295). -/
def State.tagFree (s : State) (k : Nat) : Bool := decide ((s.tagsOut k).length < 4096)

/-- The next tag of a port that is not outstanding, where one is free: tags are taken in rotation. -/
def State.newTag (s : State) (k : Nat) : Nat × State :=
  let n := Sparse.get 0 s.eut.nextTag k
  let out := s.tagsOut k
  let t := ((List.range (out.length + 1)).map (fun i => (n + i) % 4096)).find? (fun t => !out.contains t)
  let t := t.getD n
  (t, { s with eut := { s.eut with nextTag := Sparse.set 0 s.eut.nextTag k ((t + 1) % 4096) } })

/-- T2_RD on VC3 (R299); the address is the offset in the adapter's DDR. -/
def State.sendT2Rd (s : State) (k tag off len : Nat) : State :=
  (s.sendTxn k 3 (txnHdr 0x10 0 tag len off)).emit (.t2Rd k tag off len)

/-- Send a snapshot request on VC5, which is then outstanding; without a free tag it waits for one (R295, R300). -/
def State.sendSnap (s : State) (h : HeldSnap) : State :=
  let k := h.out.port
  if s.tagFree k then
    let (t, s) := s.newTag k
    let s := { s with eut := { s.eut with outst := s.eut.outst ++ [{ h.out with tag := t }] } }
    if h.write then (s.sendTxn k 5 (txnHdr 0x18 0 t h.data.length h.addr ++ h.data)).emit (.snapWr k t h.addr h.data)
    else (s.sendTxn k 5 (txnHdr 0x19 0 t h.out.len h.addr)).emit (.snapRd k t h.addr h.out.len)
  else { s with eut := { s.eut with held := s.eut.held ++ [h] } }

/-- SNAP_WR (R300). -/
def State.sendSnapWr (s : State) (k : Nat) (ref : CmdRef) (addr off : Nat) (data : List Byte) : State :=
  s.sendSnap { out := { port := k, tag := 0, ref := ref, off := off, len := data.length }, addr := addr, write := true, data := data }

/-- SNAP_RD (R300). -/
def State.sendSnapRd (s : State) (k : Nat) (ref : CmdRef) (addr off len : Nat) : State :=
  s.sendSnap { out := { port := k, tag := 0, ref := ref, off := off, len := len }, addr := addr, write := false, data := [] }

/-- Snapshot requests that waited for a tag are sent as tags allow, in order. -/
def State.pumpSnap (s : State) : State :=
  s.eut.held.foldl (fun s h => s.sendSnap h) { s with eut := { s.eut with held := [] } }

/-- Cut the range from `a` of `len` bytes into pieces that do not cross a 64 KiB boundary (R297, R300). -/
def pieces64 : Nat → Nat → Nat → List (Nat × Nat)
  | 0, _, _ => []
  | fuel + 1, a, len =>
    if len = 0 then []
    else let n := min len (65536 - a % 65536); (a, n) :: pieces64 fuel (a + n) (len - n)

/-- Whether a snapshot address names the flash of an adapter that has not sent ADAPTER_INFO: a SNAP_WR to it completes with RANGE (R300,
R304). -/
def State.flashAbsent (s : State) (k a : Nat) : Bool := a / 2 ^ 62 == 0 && !s.fbit Fld.EUT_Ek_ADAPTER_INFO_VALID k

/-- The status with which a command fails when a snapshot write of it completes with a STATUS other than OK: the spec states none (log 53),
so it is a free value other than 0 among the codes of R12: a block of its table in the high byte, and a low byte in that block's range. [DESIGN CHOICE, log 53] -/
def State.snapStatus (s : State) : Nat × State :=
  let (v, s) := s.draw 16
  let hi := 1 + v.toNat / 256 % 15
  let top := match hi with | 8 => 0x7F | 9 => 0x5F | 14 => 0x3F | _ => 0xFF
  (hi * 256 + 1 + v.toNat % 256 % top, s)

/-- The snapshot requests of a command that are outstanding or wait for a tag. -/
def State.snapOut (s : State) (ref : CmdRef) : List Outst :=
  s.eut.outst.filter (fun o => o.ref == ref) ++ (s.eut.held.map (·.out)).filter (fun o => o.ref == ref)

/-- Drop a command's outstanding snapshot requests: late completions then find no request. -/
def State.dropOut (s : State) (ref : CmdRef) : State :=
  { s with eut := { s.eut with outst := s.eut.outst.filter (fun o => o.ref != ref), held := s.eut.held.filter (fun h => h.out.ref != ref) } }

end Sys2Proof.Machine
end

