-- ==== Sys2Proof/Machine/Tier.lean ====
section
/-! DEFINITION. Memory tiers and migration (R127 to R154): the object table, promotions with their transfers and refetches, the prefetch
schedule, evictions, COPY, and tier peer reads. -/

namespace Sys2Proof.Machine

/-! ## Objects (R129 to R131) -/

/-- Modify a partition's tier engine. -/
def State.modTier (s : State) (p : Part) (f : TierSt → TierSt) : State := { s with tier := vset s.tier p (f (vget s.tier p)) }

/-- An object of a partition. -/
def State.obj (s : State) (p : Part) (id : Nat) : Option TierObj := Sparse.find (vget s.tier p).objs id

/-- Set an object. -/
def State.setObj (s : State) (p : Part) (id : Nat) (o : TierObj) : State :=
  s.modTier p (fun t => { t with objs := Sparse.insert t.objs id o })

/-- Unified mode (R133). -/
def State.unified (s : State) (p : Nat) : Bool := s.fget Fld.TIER_CFG_MODE 0 p == 0

/-- An event of the tier engine. -/
def State.tierEvent (s : State) (p : Part) (code sev p1 p2 : Nat) : State :=
  s.event { code := code, cls := 0x00, inst := 0, sev := sev, part := p.val, p1 := p1, p2 := p2 }

/-- Set bits and counters of `TIER_STATUS`. -/
def State.tierStatus (s : State) (p : Part) (bits cnts : List Fld) : State := s.sqSet .TIER_STATUS 0 p.val bits cnts

/-- An entry's 64 bytes as an object in HOME. -/
def parseObj (b : List Byte) : TierObj :=
  { home := fieldAt b 0 8, size := fieldAt b 8 8, ro := bitOf (fieldAt b 16 1) 1, pin := bitOf (fieldAt b 16 1) 2
    repl := fieldAt b 17 1, rgroup := fieldAt b 18 1, rrank := fieldAt b 20 2, peer := fieldAt b 24 8, adapter := fieldAt b 32 8
    valid := false, state := 0, level := 0, t1 := none, t0 := none, slice := 0, target := 0, tslice := 0, pend := [], evict := none
    freed := [], poison := false, allBad := false, stamp := 0, stalled := false }

/-- Why an entry is invalid (R130): a parameter of TIER_OBJ_BAD, or none where it is valid. Bits: 1 OCRC, 2 range, 3 RO rule. -/
def State.entryBad (s : State) (p : Part) (b : List Byte) : Option Nat :=
  let o := parseObj b
  let fl := fieldAt b 16 1
  let reserved := fl < 8 && o.repl < 4 && fieldAt b 19 1 == 0 && fieldAt b 22 2 == 0 && fieldAt b 40 20 == 0 && o.rgroup < 64
  let crc := fieldAt b 60 4 == crc32c (b.take 60)
  let len := ceilTo o.size 4096
  let tier := isHbm o.home || isT2 o.home || (!s.unified p.val && isT0 o.home)
  let range := o.home % 4096 == 0 && 4096 ≤ o.size && o.size ≤ 68719476736 && tier && s.ownsMem p.val o.home len
    && (!bitOf o.repl 1 || (isT2 o.adapter && s.ownsMem p.val o.adapter len)) && (!bitOf o.repl 0 || isHbm o.peer)
  let ro := o.ro || (!isT2 o.home && o.repl == 0)
  if bitOf fl 0 && crc && reserved && range && ro then none
  else some (b2n (!crc) * 2 + b2n (bitOf fl 0 && crc && !range) * 4 + b2n (bitOf fl 0 && crc && !ro) * 8)

/-- Commands of a partition that have taken their references and not released them (R140). -/
def State.objRefs (s : State) (p : Part) (o : TierObj) : Nat :=
  (List.range 64).foldl (fun n q =>
    n + ((s.queue p.val q).cmds.filter (fun c => c.phase == .running && c.touches o)).length) 0

/-- Whether an object is in HOME with no references (R131). -/
def State.objIdle (s : State) (p : Part) (o : TierObj) : Bool := o.state == 0 && (!o.valid || s.objRefs p o == 0)

/-- The device address of an object table entry. -/
def State.objAddr (s : State) (p : Part) (id : Nat) : Nat := s.rd64 .TIER_OBJT_BASE_LO .TIER_OBJT_BASE_HI 0 p.val + 64 * id

/-- Entries of the object table. -/
def State.objCount (s : State) (p : Part) : Nat := 2 ^ s.fget Fld.TIER_OBJT_CTRL_LOG2_ENTRIES 0 p.val

/-- Read one entry and check it; overlap with a valid object makes it invalid (R130, R131). What the object's T2 copy has listed stays; so do the copies of a RESIDENT object
whose home, size and RO the entry repeats (R151). [DEDUCED, log 74] -/
def State.objRead (s : State) (p : Part) (id : Nat) : State :=
  let ((b, bad), s) := s.readAs p.val (s.objAddr p id) 64
  let o := parseObj b
  let old := (s.obj p id).getD o
  let o := { o with poison := old.poison, allBad := old.allBad, stamp := old.stamp }
  let same := old.valid && old.state == 2 && old.home == o.home && old.size == o.size && old.ro == o.ro
  let o := if same then { o with state := 2, level := old.level, t1 := old.t1, t0 := old.t0, slice := old.slice, pend := old.pend } else o
  let why := if bad then some 2 else s.entryBad p b
  let overlap := (vget s.tier p).objs.any (fun e => e.1 != id && e.2.valid && rangesMeet e.2.range o.range)
  match why with
  | none =>
    if overlap then
      let s := s.setObj p id { o with valid := false }
      (s.tierStatus p [Fld.TIER_STATUS_OBJ_BAD] []).tierEvent p 0x0606 1 id 1
    else s.setObj p id { o with valid := true }
  | some w =>
    let s := s.setObj p id { o with valid := false }
    (s.tierStatus p [Fld.TIER_STATUS_OBJ_BAD] []).tierEvent p 0x0606 1 id w

/-- Whether a partition's object table lies in its T1. -/
def State.objtOwned (s : State) (p : Part) : Bool :=
  let a := s.objAddr p 0
  covers (s.ownedT1 p.val) ((s.ownedT1 p.val).length + 1) a (a + 64 * s.objCount p)

/-- LOAD: every entry is read, when every object is in HOME with no references (R130, R131). -/
def State.objtLoad (s : State) (p : Part) : State :=
  if !(vget s.tier p).objs.all (fun e => s.objIdle p e.2) then s.tierStatus p [Fld.TIER_STATUS_SYNC_BUSY] []
  else if !s.objtOwned p then s
  else
    let s := s.modTier p (fun t => { t with objs := t.objs.map (fun e => (e.1, { e.2 with valid := false })) })
    let s := (List.range (s.objCount p)).foldl (fun s id => s.objRead p id) s
    s.fset Fld.TIER_OBJT_CTRL_LOADED 1 0 p.val

/-- TIER_OBJT_LOAD (R130). -/
def execTierObjtLoad (p : Part) (s : State) : Host.Outcome State Fault Refusal := .next (s.objtLoad p)

/-- A write of `TIER_OBJ_SYNC` without REPAIR (R130, R131). -/
def State.objSync (s : State) (p : Part) (id : Nat) : State :=
  let idle := match s.obj p id with | some o => s.objIdle p o | none => true
  if !idle then s.tierStatus p [Fld.TIER_STATUS_SYNC_BUSY] []
  else if s.objCount p ≤ id ∨ s.objtOwned p = false then s
  else s.objRead p id

/-- TIER_OBJ_SYNC (R130). -/
def execTierObjSync (p : Part) (obj : Nat) (s : State) : Host.Outcome State Fault Refusal := .next (s.objSync p obj)

/-- A write of `TIER_OBJ_SYNC` with REPAIR (R151): the object's poison list entries are cleared, a BROKEN object returns to HOME, the entry is read again. [DEDUCED, log 74] -/
def State.objRepair (s : State) (p : Part) (id : Nat) : State :=
  let o := (s.obj p id).getD { parseObj [] with valid := false }
  if o.state = 1 ∨ o.state = 3 ∨ o.state = 4 then s.tierStatus p [Fld.TIER_STATUS_SYNC_BUSY] []
  else
    let mine := o.range :: ((o.t1.map (fun a => (a, a + ceilTo o.size 4096))).toList ++ (o.t0.map (fun a => (a, a + ceilTo o.size 4096))).toList)
    let pages := s.mem.t2Poison.filter (fun g => !mine.any (rangesMeet (g * 4096, g * 4096 + 4096)))
    let s := { s with mem := { s.mem with t2Poison := pages } }
    let s := if (s.obj p id).isSome then
        s.setObj p id { o with poison := false, allBad := false, state := if o.state = 5 then 0 else o.state
                               level := if o.state = 5 then 0 else o.level }
      else s
    let s := if s.objtOwned p && id < s.objCount p then s.objRead p id else s
    s.tierEvent p 0x0607 0 id 0

/-! ## Areas (R134, R146) -/

/-- The engine's T0 area in one slice of a partition: first address and bytes. -/
def State.t0Area (s : State) (p n : Nat) : Nat × Nat :=
  let a := s.fget Fld.TIER_CFG_T0_AREA_MIB 0 p / max 1 (s.ownArrays p).length * 0x100000
  (n * 0x10000000 + 0x0A000000 - a, a)

/-- The engine's T1 area: pieces at the tops of the partition's regions, the highest-numbered region first. -/
def State.t1Area (s : State) (p : Nat) : List (Nat × Nat) :=
  ((s.regions p).reverse.foldl (fun (acc : Nat × List (Nat × Nat)) r =>
    let n := min r.size acc.1
    if n = 0 then acc
    else (acc.1 - n, acc.2 ++ [(hbmBase + r.stack * 0x2000000000 + (r.start + r.size - n) * 2 ^ 30, n * 2 ^ 30)]))
    (s.fget Fld.TIER_CFG_T1_AREA_GIB 0 p, [])).2

/-- Bytes a copy occupies. -/
def TierObj.bytes (o : TierObj) : Nat := ceilTo o.size 4096

/-- The copies of a partition's objects as ranges. -/
def State.copies (s : State) (p : Part) : List (Nat × Nat) :=
  (vget s.tier p).objs.flatMap (fun e =>
    (match e.2.t1 with | some a => [(a, a + e.2.bytes)] | none => []) ++ (match e.2.t0 with | some a => [(a, a + e.2.bytes)] | none => []))

/-- The first place in an area piece where `n` bytes are free. [DESIGN CHOICE, log 21] -/
def firstFit (used : List (Nat × Nat)) (piece : Nat × Nat) (n : Nat) : Option Nat :=
  (piece.1 :: used.map (·.2)).find? (fun a =>
    piece.1 ≤ a && a + n ≤ piece.1 + piece.2 && !used.any (fun u => rangesMeet u (a, a + n)))

/-- The retired pages as ranges: the engine places no copy on one. -/
def State.retiredPages (s : State) : List (Nat × Nat) :=
  (List.finRange 8).flatMap (fun n => (vget s.hbm n).retired.map (fun h => (h.addr, h.addr + 4096)))

/-- Room for a copy at a level (1 T1, 2 T0) in its area. [DESIGN CHOICE, log 21] -/
def State.findRoom (s : State) (p : Part) (level slice n : Nat) : Option Nat :=
  if level = 1 then (s.t1Area p.val).findSome? (fun pc => firstFit (s.copies p ++ s.retiredPages) pc n)
  else firstFit (s.copies p) (s.t0Area p.val slice) n

/-- Free bytes of the T0 and T1 areas, for `TIER_SPACE`. -/
def State.areaFree (s : State) (p : Part) : Nat × Nat :=
  let sum (f : TierObj → Option Nat) : Nat :=
    (vget s.tier p).objs.foldl (fun t e => t + (match f e.2 with | some _ => e.2.bytes | none => 0)) 0
  let a0 := (s.ownArrays p.val).foldl (fun t n => t + (s.t0Area p.val n).2) 0
  let a1 := (s.t1Area p.val).foldl (fun t x => t + x.2) 0
  (a0 - sum (·.t0), a1 - sum (·.t1))

/-! ## Locks of schedules, evictions -/

/-- Whether an unstarted entry of a running schedule names an object (R146). -/
def State.inSchedule (s : State) (p : Part) (id : Nat) : Bool :=
  (vget s.tier p).scheds.any (fun x => (x.entries.drop x.next).any (fun e => fieldAt e 0 2 == id))

/-- Begin one eviction of a RESIDENT object that serves the EVICTs held and the given ones (R145): EVICTING until EVICTION_COMPLETE. Changes are
lost, and a T1 copy kept, only where every EVICT served asks for it. [DESIGN CHOICE, log 20] -/
def State.startEvict (s : State) (p : Part) (id : Nat) (rs : List EvictReq) : State :=
  match s.obj p id with
  | some o =>
    let rs := o.pend ++ rs
    s.setObj p id { o with
      state := 3, evict := some { lock := none, discard := rs.all (·.discard), t0Only := rs.all (·.t0Only) }
      freed := rs.filterMap (·.lock), pend := [] }
  | none => s

/-- Whether an eviction that will free room at a level is under way. -/
def State.freeing (s : State) (p : Part) (level slice : Nat) : Bool :=
  (vget s.tier p).objs.any (fun e => e.2.state == 3 &&
    (if level = 1 then e.2.t1.isSome && !e.2.evict.any (·.t0Only) else e.2.t0.isSome && e.2.slice == slice))

/-- Evict the least recently referenced object that qualifies, to make room at a level (R146). -/
def State.autoEvict (s : State) (p : Part) (level slice : Nat) : State :=
  if s.freeing p level slice then s else
  let ok (e : Nat × TierObj) : Bool :=
    let o := e.2
    o.valid && o.state == 2 && o.pend.isEmpty && !o.pin && s.objRefs p o == 0 && !s.inSchedule p e.1
      && (if level = 1 then o.t1.isSome else o.t0.isSome && o.slice == slice)
  let best := ((vget s.tier p).objs.filter ok).foldl (fun (b : Option (Nat × TierObj)) e =>
    match b with | none => some e | some x => if e.2.stamp < x.2.stamp then some e else some x) none
  match best with
  | some e => s.startEvict p e.1 [{ lock := none, discard := false, t0Only := level == 2 }]
  | none => s

/-- Whether an object is at a target level or above it: its home lies in T1 for target T1 (R142). -/
def TierObj.atLeast (o : TierObj) (target : Nat) : Bool :=
  (o.state == 2 && target ≤ o.level) || (o.state == 2 && target == 1) || (target == 1 && !isT2 o.home && (o.state == 0 || o.state == 2))

/-! ## Transfers (R139, R147 to R150) -/

/-- The object that a transfer may refetch pages of: the one it promotes, or the valid one whose home holds its range. -/
def State.fetchObj (s : State) (p : Part) (f : Fetch) : Option (Nat × TierObj) :=
  match f.obj with
  | some id => (s.obj p id).map (fun o => (id, o))
  | none => (vget s.tier p).objs.find? (fun e => e.2.valid && rangesMeet e.2.range (f.base, f.base + f.len))

/-- Whether a page of the T2 window is known as poisoned (R147, R150). -/
def State.t2Bad (s : State) (p : Part) (f : Fetch) (off : Nat) : Bool :=
  NSet.mem s.mem.t2Poison (pageOf (f.base + off))
    || (match s.fetchObj p f with | some (_, o) => o.allBad | none => false)

/-- Whether a transfer is a promotion. -/
def Fetch.promotes (f : Fetch) : Bool := f.ref.isNone && f.host.isNone

/-- Ask the adapter for bytes of T2, at offset `off` of a transfer, through the port of their sub-window; without a free tag the transfer waits (R295, R299). -/
def State.askT2 (s : State) (f : Fetch) (a off n : Nat) : State × Fetch :=
  let k := subWindow a
  if s.tagFree k then
    let (t, s) := s.newTag k
    (s.sendT2Rd k t ((a - t2Base) % 0x40000000000) n, { f with tag := some (k, t, off, n) })
  else (s, f)

/-- Ask a refetch source for the first bad page; a source the object does not have is passed over, and a peer without a route fails. When
none is left the transfer fails (R148). -/
def State.askSource (s : State) (p : Part) (f : Fetch) : Nat → State × Fetch
  | 0 => (s, { f with fail := true })
  | fuel + 1 =>
    match f.bad, s.fetchObj p f with
    | off :: _, some (_, o) =>
      let rel := if f.promotes then off else f.base + off - o.home
      match f.src with
      | 0 =>
        if isHbm f.base && isT2 o.home then
          s.askT2 f (o.home + off) off 4096
        else State.askSource s p { f with src := 1 } fuel
      | 1 =>
        if bitOf o.repl 0 then
          if !s.tagFree 4 then (s, f) else
          let (t, s) := s.newTag 4
          let dst := s.toPhys (s.memberAt o.rgroup o.rrank)
          let (s, ok) := s.sendRouted 0xFF 0x20 dst (leBytes 2 t ++ [0, 0] ++ leBytes 4 4096 ++ leBytes 8 (o.peer + rel))
          if ok then (s, { f with tag := some (4, t, off, 4096) }) else State.askSource s p { f with src := 2 } fuel
        else State.askSource s p { f with src := 2 } fuel
      | 2 =>
        if bitOf o.repl 1 then
          s.askT2 f (o.adapter + rel) off 4096
        else (s, { f with fail := true })
      | _ => (s, { f with fail := true })
    | _, _ => (s, { f with fail := true })

/-- The bytes of the next T2 read: up to 64 KiB, within one 64 KiB block, up to the next page known as poisoned (R150, R299). [DESIGN CHOICE, log 46] -/
def State.nextRun (s : State) (p : Part) (f : Fetch) : Nat :=
  let room := min (f.len - f.cur) (65536 - (f.base + f.cur) % 65536)
  ((List.range (room / 4096)).takeWhile (fun i => !s.t2Bad p f (f.cur + 4096 * i))).length * 4096

/-- Go on with a transfer that has no request outstanding: a bad page first, then the next bytes. A host's read passes over bad pages. [DESIGN CHOICE, log 46] -/
def State.pumpFetch (s : State) (p : Part) (f : Fetch) : State × Fetch :=
  if f.tag.isSome || f.fail then (s, f)
  else if !f.bad.isEmpty then s.askSource p f 4
  else if f.len ≤ f.cur then (s, f)
  else
    let n := s.nextRun p f
    if n = 0 then
      if f.host.isSome then (s, { f with fail := true })
      else s.askSource p { f with bad := [f.cur], src := 1, cur := f.cur + 4096 } 4
    else
      let (s, g) := s.askT2 f (f.base + f.cur) f.cur n
      (s, if g.tag.isSome then { g with cur := f.cur + n } else g)

/-- Whether a transfer has ended. -/
def Fetch.ended (f : Fetch) : Bool := f.fail || (f.tag.isNone && f.bad.isEmpty && f.len ≤ f.cur)

/-- Update the transfers of a partition. -/
def State.setFetches (s : State) (p : Part) (l : List Fetch) : State := s.modTier p (fun t => { t with fetches := l })

/-- Start what can go: promotions that read one Euton port run one at a time, in the order they started (R140). -/
def State.pumpTier (s : State) (p : Part) : State :=
  let fs := (vget s.tier p).fetches
  (List.range fs.length).foldl (fun s i =>
    match (vget s.tier p).fetches[i]? with
    | none => s
    | some f =>
      let ahead := f.promotes && ((vget s.tier p).fetches.take i).any (fun g =>
        g.promotes && !g.ended && isT2 g.base && isT2 f.base && subWindow g.base ≤ subWindow (f.base + f.len - 1)
          && subWindow f.base ≤ subWindow (g.base + g.len - 1))
      if ahead then s
      else
        let (s, f) := s.pumpFetch p f
        s.setFetches p ((vget s.tier p).fetches.set i f)) s

/-- Add a transfer and start it. -/
def State.addFetch (s : State) (p : Part) (f : Fetch) : State := (s.setFetches p ((vget s.tier p).fetches ++ [f])).pumpTier p

/-- Fail the running commands of a partition that satisfy a test, with a status. -/
def State.failWhere (s : State) (p : Part) (status : Nat) (ok : Cmd → Bool) : State :=
  (List.range 64).foldl (fun s q =>
    (s.queue p.val q).cmds.foldl (fun s c =>
      if c.phase == .running && !c.finished && ok c then s.setCmd p.val q { c with finished := true, fail := status } else s) s) s

/-- Fail the PREFETCHes of an object, and those whose schedule has started an entry of it that is not yet resident, with a status. -/
def State.failPrefetch (s : State) (p : Part) (id status : Nat) : State :=
  let hit := (vget s.tier p).scheds.filter (fun x => (List.range x.next).any (fun i => !x.home.contains i && fieldAt (x.entries.getD i []) 0 2 == id))
  let s := hit.foldl (fun s x =>
    match s.cmdAt p.val x.ref.queue.val x.ref.slot with
    | some c => if c.finished then s else s.failRun x.ref c status
    | none => s) s
  let s := s.modTier p (fun t => { t with scheds := t.scheds.filter (fun x => !hit.any (fun y => y.ref == x.ref)) })
  s.failWhere p status (fun c => cOpcode c == 0x11 && !bitOf (cOparg c) 31 && cOparg c % 65536 == id)

/-- An object enters BROKEN (R149): its copy under construction is dropped, and every command that waits on it fails with TIER_UE. -/
def State.breakObj (s : State) (p : Part) (id page : Nat) : State :=
  match s.obj p id with
  | none => s
  | some o =>
    let s := s.setObj p id { o with state := 5, level := 0, t1 := none, t0 := none, target := 0 }
    let s := s.setFetches p ((vget s.tier p).fetches.filter (fun f => f.obj != some id || !f.promotes))
    let s := (s.tierStatus p [Fld.TIER_STATUS_UE] []).tierEvent p 0x0603 2 id page
    (s.failPrefetch p id 0x0601).failWhere p 0x0601 (fun c => c.touches o)

/-- Drop bytes brought from T2 for a transfer that has gone, but for those that another transfer has brought too. -/
def State.dropT2 (s : State) (f : Fetch) : State :=
  let others := (List.finRange 4).flatMap (fun p => (vget s.tier p).fetches.filter (fun g => isT2 g.dest))
  let inside (g : Fetch) (a : Nat) : Bool := g.base ≤ a && a < g.base + g.len
  { s with mem := { s.mem with t2 := s.mem.t2.filter (fun e => !inside f e.1 || others.any (fun g => inside g e.1)) } }

/-- Transfers that have failed: a promotion breaks its object; a COPY or DIGEST fails with TIER_UE, and its object breaks too, or outside every object the page is
reported (R138, R149); a host's read completes with POISON (R296). Host reads that have ended complete. [DESIGN CHOICE, log 46] -/
def State.settleTier (s : State) (p : Part) : State :=
  (vget s.tier p).fetches.foldl (fun s f =>
    if !f.ended then s
    else match f.host with
      | some (k, t, a, n) =>
        let s := s.setFetches p ((vget s.tier p).fetches.filter (· != f))
        let data := s.cells a n
        let (free, s) := s.drawBytes n
        let s := if 4 ≤ k then s else if f.fail then s.sendCpl k 0x04 t a 3 free else s.sendCpl k 0x04 t a 0 data
        let s := s.dropT2 f
        { s with eut := { s.eut with hostTags := s.eut.hostTags.filter (· != (k, t)) } }
      | none =>
        if !f.fail then s
        else
          let page := f.base + f.bad.headD 0
          let s := match f.ref with
            | some r =>
              let s := (s.setFetches p ((vget s.tier p).fetches.filter (· != f))).dropT2 f
              (match s.cmdAt r.part.val r.queue.val r.slot with | some c => if c.finished then s else s.failRun r c 0x0601 | none => s)
            | none => s
          match s.fetchObj p f with
          | some (id, _) => s.breakObj p id page
          | none =>
            let (id, s) := s.draw 32
            s.tierEvent p 0x0603 2 id.toNat page) s

/-- Put transferred bytes where they go. -/
def State.landFetch (s : State) (p : Part) (f : Fetch) (off : Nat) (data : List Byte) : State :=
  let a := f.dest + off
  if isT2 a then
    { s with mem := { s.mem with t2 := (List.range data.length).foldl (fun c i => Sparse.insert c (a + i) (data.getD i 0)) s.mem.t2 } }
  else ((s.grant p.val a data.length).writePhys a data).1

/-- A poisoned page at an address, of an object where there is one (R147): it is listed, the object's T2 copy is POISONED, TIER_POISON is recorded; when the
partition's list holds 4,096 pages, the object's whole T2 copy counts as poisoned. A page of no object has no id to report: it is free. [DESIGN CHOICE, log 46] -/
def State.listPoison (s : State) (p : Part) (o : Option (Nat × TierObj)) (a : Nat) : State :=
  let full := 4096 ≤ (s.mem.t2Poison.filter (fun g => s.ownsMem p.val (g * 4096) 4096)).length
  let s := if full then s else { s with mem := { s.mem with t2Poison := NSet.insert s.mem.t2Poison (pageOf a) } }
  let s := s.tierStatus p (if full then [] else [Fld.TIER_STATUS_POISON]) (if full then [] else [Fld.TIER_STATUS_POISON_CNT])
  match o with
  | some (id, o) => (s.setObj p id { o with poison := true, allBad := o.allBad || full }).tierEvent p 0x0601 1 id a
  | none =>
    let (id, s) := s.draw 32
    s.tierEvent p 0x0601 1 id.toNat a

/-- A poisoned page of a transfer: the object enters REFETCH, but for a host's read, which no source serves (R147, R149, R296). -/
def State.listPage (s : State) (p : Part) (f : Fetch) (off : Nat) : State :=
  let s := s.listPoison p (s.fetchObj p f) (f.base + off)
  match f.host, s.fetchObj p f with
  | none, some (id, o) => s.setObj p id { o with state := 4 }
  | _, _ => s

/-- The state an object returns to when its last bad page has come clean (R148): PROMOTING, or where a COPY or DIGEST read it directly what its copies make it. -/
def TierObj.after (o : TierObj) (promotes : Bool) : Nat := if promotes then 1 else if o.t1.isSome || o.t0.isSome then 2 else 0

/-- A clean page arrives from a refetch source (R148). When it was the last, TIER_REFETCH_OK is recorded and the object leaves REFETCH. -/
def State.pageClean (s : State) (p : Part) (f : Fetch) (off : Nat) (data : List Byte) : State × Fetch :=
  let s := s.landFetch p f off data
  let served := f.src
  let g := { f with bad := f.bad.filter (· ≠ off), tag := none, src := if isHbm f.base then 0 else 1, got := f.got + 1 }
  if g.bad.isEmpty then
    match s.fetchObj p f with
    | some (id, o) =>
      let others := (vget s.tier p).fetches.any (fun h => h != f && !h.bad.isEmpty && h.host.isNone && (s.fetchObj p h).any (·.1 == id))
      let s := if others then s else s.setObj p id { o with state := o.after f.promotes }
      (s.tierEvent p 0x0602 0 id (served + g.got * 2 ^ 32), { g with got := 0 })
    | none => (s, g)
  else (s, g)

/-- A T2 read completes (R147, R299): clean pages land, poisoned ones are listed and wait for a source. -/
def State.t2Cpl (s : State) (k tag status : Nat) (poison : BitVec 16) (data : List Byte) : State :=
  (List.finRange 4).foldl (fun s p =>
    match (vget s.tier p).fetches.findIdx? (fun f => match f.tag with | some (q, t, _, _) => q == k && t == tag | none => false) with
    | none => s
    | some i =>
      match (vget s.tier p).fetches[i]? with
      | none => s
      | some f =>
        match f.tag with
        | none => s
        | some (_, _, off, n) =>
          let refetch := f.bad.contains off
          let badPage (j : Nat) : Bool := status != 0 && status != 3 || poison.toNat.testBit j
          let (s, f) :=
            if refetch then
              if badPage 0 then (s, { f with tag := none, src := f.src + 1 }) else s.pageClean p f off (data.take 4096)
            else
              (List.range (n / 4096)).foldl (fun (a : State × Fetch) j =>
                let o := off + 4096 * j
                if badPage j then
                  let s := a.1.listPage p a.2 o
                  (s, if a.2.host.isSome then { a.2 with fail := true } else { a.2 with bad := a.2.bad ++ [o] })
                else (a.1.landFetch p a.2 o ((data.drop (4096 * j)).take 4096), a.2)) (s, { f with tag := none, src := 1 })
          let s := s.setFetches p ((vget s.tier p).fetches.set i f)
          (s.pumpTier p).settleTier p) s

/-- REFETCH_SOURCE_TIMEOUT: the source asked has not answered within SRC_MS (R148, R299). A plain T2 read that does not answer leaves its pages to the replica
sources; a host's read then completes with POISON. An id that names no valid object stands for the transfers outside every object. [DESIGN CHOICE, log 46] -/
def State.sourceTimeout (s : State) (p : Part) (id : Nat) : State :=
  let valid := (s.obj p id).any (·.valid)
  let mine (f : Fetch) : Bool := match s.fetchObj p f with | some (j, _) => valid && j == id | none => !valid
  match (vget s.tier p).fetches.findIdx? (fun f => f.tag.isSome && mine f) with
  | none => s
  | some i =>
    match (vget s.tier p).fetches[i]? with
    | none => s
    | some f =>
      match f.tag with
      | none => s
      | some (_, _, off, n) =>
        let (s, f) :=
          if f.host.isSome then (s, { f with tag := none, fail := true })
          else if f.bad.contains off then (s, { f with tag := none, src := f.src + 1 })
          else
            let s := match s.fetchObj p f with
              | some (j, o) => s.setObj p j { o with state := 4 }
              | none => s
            (s, { f with tag := none, src := 1, bad := f.bad ++ (List.range (n / 4096)).map (fun j => off + 4096 * j) })
        let s := s.setFetches p ((vget s.tier p).fetches.set i f)
        (s.pumpTier p).settleTier p

/-- TIER_PEER_READ: a peer asks for a page of an object whose home lies in this part's HBM; the answer carries the bytes, or poison
(R148). The partner region is not read (R153). -/
def execTierPeerRead (h : RouteHdr) (tag addr len : Nat) (s : State) : Host.Outcome State Fault Refusal :=
  .next (
    let ok := isHbm addr && addr + len ≤ hbmEnd && 1 ≤ len && len ≤ 65536 && !s.inPartner (addr, addr + len)
    let ((bs, bad), s) := if ok then s.readPhys addr len else (([], true), s)
    let status := if !ok then 2 else if bad then 1 else 0
    (s.sendRouted 0xFF 0x21 h.src
      (leBytes 2 tag ++ [BitVec.ofNat 8 status, 0] ++ leBytes 4 len ++ leBytes 8 addr ++ (if status = 0 then bs else []))).1)

/-- Tier peer data arrives (R148). -/
def State.peerData (s : State) (tag status : Nat) (data : List Byte) : State :=
  s.t2Cpl 4 tag (if status = 0 then 0 else 3) (if status = 0 then 0 else 1) data

/-! ## Promotion (R139, R142, R146) -/

/-- Build a copy of a HOME or RESIDENT object at a level; without room it evicts one object and waits. -/
def State.buildCopy (s : State) (p : Part) (id target slice : Nat) : State :=
  match s.obj p id with
  | none => s
  | some o =>
    if !o.valid || !(o.state == 0 || o.state == 2) then s
    else
      match s.findRoom p target slice o.bytes with
      | none => s.autoEvict p target slice
      | some a =>
        let fromT2 := isT2 o.home && o.t1.isNone
        let o := { o with state := 1, target := target, tslice := slice, stalled := false
                          t1 := if target = 1 then some a else o.t1, t0 := if target = 2 then some a else o.t0 }
        let s := s.setObj p id o
        if fromT2 then
          s.addFetch p { obj := some id, ref := none, host := none, base := o.home, len := o.bytes, cur := 0, dest := a, bad := []
                         src := 1, tag := none, got := 0, fail := false } |>.settleTier p
        else s

/-- Try to start the promotion of an object to a level. A second request for an object in PROMOTING joins the first (R140). -/
def State.promote (s : State) (p : Part) (id target slice : Nat) : State :=
  if (s.obj p id).any (·.atLeast target) then s else s.buildCopy p id target slice

/-- Whether a running command waits for a demand promotion of an object to T1 (R136). -/
def State.demanded (s : State) (p : Part) (o : TierObj) : Bool :=
  (List.range 64).any (fun q => (s.queue p.val q).cmds.any (fun c =>
    c.phase == .running && !c.finished && c.touches o && s.needsPromotion p.val q c o))

/-- Start the demand promotions that running commands wait for (R136): of an object in HOME, or of one whose only copy lies in the slice of another unit. -/
def State.tierDemand (s : State) (p : Part) : State :=
  (vget s.tier p).objs.foldl (fun s e =>
    if e.2.valid && (e.2.state == 0 || e.2.state == 2) && s.demanded p e.2 then s.buildCopy p e.1 1 0 else s) s

/-- Finish the PREFETCH commands of one object that its level now satisfies (R142). -/
def State.prefetchDone (s : State) (p : Part) (id : Nat) : State :=
  match s.obj p id with
  | none => s
  | some o =>
    (List.range 64).foldl (fun s q =>
      (s.queue p.val q).cmds.foldl (fun s c =>
        if c.phase == .running && !c.finished && c.fail == 0 && cOpcode c == 0x11 && !bitOf (cOparg c) 31 && cOparg c % 65536 == id
            && c.pieces == 1 && o.atLeast (cOparg c / 2 ^ 16 % 4 + 1) then
          s.setCmd p.val q { c with finished := true }
        else s) s) s

/-! ## The prefetch schedule (R143, R144) -/

/-- Fields of a schedule entry. -/
def entObj (e : List Byte) : Nat := fieldAt e 0 2
def entTarget (e : List Byte) : Nat := fieldAt e 2 1 % 4 + 1
def entSlice (e : List Byte) : Nat := bitsOf (fieldAt e 2 1) 7 4

/-- Whether a lock has reached base + offset, the sum taken modulo 2^32 (R143). -/
def State.lockReached (s : State) (p : Part) (lock base off : Nat) : Bool := (base + off) % 2 ^ 32 ≤ s.lock p.val (lock % 4096)

/-- Hold a deferred eviction that a queue asks for: DEFERRED and TIER_EVICT_DEFERRED (R145). -/
def State.deferEvict (s : State) (p : Part) (id queue : Nat) (o : TierObj) (r : EvictReq) : State :=
  let s := s.setObj p id { o with pend := o.pend ++ [r] }
  let s := s.tierStatus p [Fld.TIER_STATUS_DEFERRED] [Fld.TIER_STATUS_DEFER_CNT]
  s.tierEvent p 0x0604 0 id (queue + (o.pend.length + 1) * 2 ^ 8)

/-- Evict an object for a schedule's EVICT_AFTER, or defer it (R144, R145): whether the eviction has been issued. A ninth deferred one waits, as does one of an object in
EVICTING. -/
def State.evictAfter (s : State) (p : Part) (id queue : Nat) (discard : Bool) : State × Bool :=
  match s.obj p id with
  | none => (s, true)
  | some o =>
    let r : EvictReq := { lock := none, discard := discard, t0Only := false }
    if o.state = 3 then (s, false)
    else if o.state = 2 ∧ s.objRefs p o = 0 then (s.startEvict p id [r], true)
    else if o.state = 1 ∨ o.state = 4 ∨ o.state = 2 then
      if 8 ≤ o.pend.length then (s, false) else (s.deferEvict p id queue o r, true)
    else (s, true)

/-- Whether an entry's object is at or above its target now. -/
def State.entryHome (s : State) (p : Part) (e : List Byte) : Bool := (s.obj p (entObj e)).any (·.atLeast (entTarget e))

/-- The next entry to start, past those whose object is already at or above its target: they count as started and resident at once (R144). -/
def State.schedNext (s : State) (p : Part) (es : List (List Byte)) (n : Nat) : Nat :=
  n + ((es.drop n).takeWhile (s.entryHome p)).length

/-- Look over a schedule: entries that have become resident signal READY_LOCK, evictions that are due are issued, and the PREFETCH
completes when every entry is RESIDENT and every eviction issued (R144). -/
def State.schedPoll (s : State) (p : Part) (ref : CmdRef) : State :=
  match (vget s.tier p).scheds.find? (fun x => x.ref == ref) with
  | none => s
  | some x =>
    let x := { x with next := s.schedNext p x.entries x.next }
    let fresh := (List.range x.next).filter (fun i => !x.home.contains i && s.entryHome p (x.entries.getD i []))
    let s := fresh.foldl (fun s _ => match x.ready with | some l => s.lockAdd p.val l 1 | none => s) s
    let x := { x with home := x.home ++ fresh }
    let due := x.home.filter (fun i =>
      let e := x.entries.getD i []
      !x.gone.contains i && bitOf (fieldAt e 2 1) 2 && s.lockReached p (fieldAt e 6 2) x.base (fieldAt e 12 4))
    let (s, gone) := due.foldl (fun (a : State × List Nat) i =>
      let e := x.entries.getD i []
      let (s, done) := a.1.evictAfter p (entObj e) ref.queue.val (bitOf (fieldAt e 2 1) 3)
      (s, if done then a.2 ++ [i] else a.2)) (s, x.gone)
    let x := { x with gone := gone }
    let n := x.entries.length
    let fin_ := x.home.length == n && (List.range n).all (fun i => !bitOf (fieldAt (x.entries.getD i []) 2 1) 2 || x.gone.contains i)
    let s := s.modTier p (fun t => { t with
      scheds := if fin_ then t.scheds.filter (fun y => y.ref != ref) else t.scheds.map (fun y => if y.ref = ref then x else y) })
    if fin_ then
      match s.cmdAt p.val ref.queue.val ref.slot with
      | some c => if c.finished then s else s.finish ref c
      | none => s
    else s

/-- Whether the next entry of a schedule may start, room apart: its trigger is met and fewer than LOOKAHEAD promotions are unfinished (R144). -/
def State.entryGo (s : State) (p : Part) (x : Sched) (e : List Byte) : Bool :=
  s.lockReached p (fieldAt e 4 2) x.base (fieldAt e 8 4) && decide (x.next - x.home.length < x.look)

/-- Start the next entry of a schedule where its conditions hold (R144). -/
def State.schedStart (s : State) (p : Part) (ref : CmdRef) : State :=
  let s := s.schedPoll p ref
  match (vget s.tier p).scheds.find? (fun x => x.ref == ref) with
  | none => s
  | some x =>
    match x.entries[x.next]? with
    | none => s
    | some e =>
      let id := entObj e
      let go := s.entryGo p x e
      match s.obj p id with
      | none => s
      | some o =>
        if !go then s
        else if o.state = 5 then
          match s.cmdAt p.val ref.queue.val ref.slot with
          | some c => (s.modTier p (fun t => { t with scheds := t.scheds.filter (fun y => y.ref != ref) })).failRun ref c 0x0601
          | none => s
        else
          let s := s.promote p id (entTarget e) (entSlice e)
          let started := match s.obj p id with
            | some o => o.atLeast (entTarget e) || ((o.state == 1 || o.state == 4) && entTarget e ≤ o.target)
            | none => false
          if started then
            let s := s.modTier p (fun t => { t with scheds := t.scheds.map (fun y => if y.ref = ref then { y with next := y.next + 1 } else y) })
            s.schedPoll p ref
          else s

/-- SCHEDULE_ENTRY_START (R144). -/
def execScheduleEntryStart (c : CmdRef) (s : State) : Host.Outcome State Fault Refusal :=
  .next (if s.live then s.schedStart c.part c else s)

/-- The checks of PREFETCH at step 4 (R138, R142, R143). `b` holds the command's slots. -/
def State.checkPrefetch (s : State) (p : Part) (c : Cmd) : Nat :=
  let o := cOparg c
  let okSlice (n : Nat) : Bool := s.arrOwner n == p.val
  if !s.unified p.val then 0x0603
  else if bitOf o 31 then
    let d := c.desc 0
    if o % 2 ^ 31 ≠ 0 ∨ (c.bytes.drop 72).any (fun x => x != 0) = true ∨ d.dtype ≠ 0x0F ∨ d.rank ≠ 2 ∨ d.dim 0 ≠ 4 ∨ 4096 < d.dim 1
        ∨ bitsOf (fieldAt c.bytes 68 2) 14 12 ≠ 0 ∨ fieldAt c.bytes 70 2 = 0 ∨ 64 < fieldAt c.bytes 70 2 then 0x0208
    else 0
  else if bitsOf o 30 22 ≠ 0 then 0x0208
  else
    match s.obj p (o % 65536) with
    | some x =>
      if !x.valid then 0x0604
      else if 2 ≤ o / 2 ^ 16 % 4 then 0x0604
      else if o / 2 ^ 16 % 4 = 1 ∧ okSlice (bitsOf o 21 18) = false then 0x0202
      else 0
    | none => 0x0604

/-- The status of a schedule entry (R143): a reserved field, an undefined target or an invalid object, a slice that is not the partition's. -/
def State.entryStatus (s : State) (p : Part) (e : List Byte) : Nat :=
  if fieldAt e 3 1 ≠ 0 ∨ 4096 ≤ fieldAt e 4 2 ∨ 4096 ≤ fieldAt e 6 2 then 0x0208
  else if 2 < entTarget e ∨ (match s.obj p (entObj e) with | some o => o.valid | none => false) = false then 0x0604
  else if entTarget e = 2 ∧ s.arrOwner (entSlice e) ≠ p.val then 0x0202
  else 0

/-- The entries of a schedule tensor. -/
def State.schedEntries (s : State) (d : TDesc) : List (List Byte) :=
  (List.range (d.dim 1)).map (fun j => (List.range 4).flatMap (fun i => leBytes 4 (s.elemCode d (i, j, 0, 0))))

/-- PREFETCH of one object (R142). -/
def State.prefetchOne (s : State) (r : CmdRef) (c : Cmd) : State :=
  let p := r.part
  let id := cOparg c % 65536
  let target := cOparg c / 2 ^ 16 % 4 + 1
  match s.obj p id with
  | none => s.failRun r c 0x0604
  | some o =>
    if o.state = 5 then s.failRun r c 0x0601
    else if o.atLeast target then s.finish r c
    else (s.setCmd p.val r.queue.val { c with pieces := 1 }).promote p id target (bitsOf (cOparg c) 21 18)

/-- PREFETCH (R142). -/
def execPrefetch (c : CmdRef) (s : State) : Host.Outcome State Fault Refusal :=
  .next (match s.running c 0x0011 with
    | none => s
    | some d =>
      if !bitOf (cOparg d) 31 then s.prefetchOne c d
      else if (vget s.tier c.part).scheds.any (fun x => x.ref == c) then s
      else
        let (s, st) := s.fetchTensor c.part.val (d.desc 0)
        let es := s.schedEntries (d.desc 0)
        let st := if st ≠ 0 then st else ((es.map (s.entryStatus c.part)).find? (· != 0)).getD 0
        if st ≠ 0 then s.failRun c d st
        else
          let l := fieldAt d.bytes 68 2
          let x : Sched := { ref := c, entries := es, base := fieldAt d.bytes 64 4, ready := if bitOf l 15 then some (l % 4096) else none
                             look := fieldAt d.bytes 70 2, next := 0, home := [], gone := [] }
          s.modTier c.part (fun t => { t with scheds := t.scheds ++ [x] }))

/-- The good pages of a T1 source go into the T0 copy under construction, counted for the partition (R160); the poisoned pages' offsets. -/
def State.copyUp (s : State) (p : Part) (src dst n : Nat) : State × List Nat :=
  let ((bs, poisoned), s) := (s.grant p.val src n).readPhys src n
  if !poisoned then ((s.writePhys dst bs).1, [])
  else
    let bad := ((List.range (n / 4096)).map (· * 4096)).filter (fun j => s.poisoned (src + j) 4096)
    ((List.range (n / 4096)).foldl (fun s j =>
      if bad.contains (j * 4096) then s else (s.writePhys (dst + j * 4096) (s.cells (src + j * 4096) 4096)).1) s, bad)

/-- Poisoned pages of a T1 copy of a read-only object (R147): each is listed and reported, and the object enters REFETCH; the T2 home, where that is
another copy, is the first source (R148). [DEDUCED, log 22] -/
def State.refetchT1 (s : State) (p : Part) (id src : Nat) (o : TierObj) (bad : List Nat) : State :=
  let s := s.setObj p id { o with state := 4 }
  let s := bad.foldl (fun (s : State) off => s.listPoison p ((s.obj p id).map (fun o => (id, o))) (src + off)) s
  let f : Fetch := { obj := some id, ref := none, host := none, base := src, len := o.bytes, cur := o.bytes, dest := o.t0.getD 0, bad := bad
                     src := if isT2 o.home then 0 else 1, tag := none, got := 0, fail := false }
  (s.addFetch p f).settleTier p

/-- A poisoned T1 home of a mutable object gives its promotion up; its PREFETCH fails with HBM_UE (R159). -/
def State.dropPromotion (s : State) (p : Part) (id : Nat) (o : TierObj) : State :=
  (s.setObj p id { o with state := if o.t1.isSome then 2 else 0, level := if o.t1.isSome then 1 else 0, t0 := none }).failPrefetch p id 0x0701

/-- PROMOTION_COMPLETE: the copy at the target level is whole and visible, and the object becomes RESIDENT (R139). A promotion from T1
copies here. -/
def State.promotionComplete (s : State) (p : Part) (id : Nat) : State :=
  match s.obj p id with
  | none => s
  | some o =>
    let fetch := (vget s.tier p).fetches.find? (fun f => f.promotes && f.obj == some id)
    let whole := match fetch with | some f => f.ended && !f.fail | none => true
    if o.state ≠ 1 ∨ whole = false then s
    else
      let (s, bad) :=
        if fetch.isSome then (s, [])
        else
          s.copyUp p (o.t1.getD o.home) (o.t0.getD 0) o.bytes
      let s := s.setFetches p ((vget s.tier p).fetches.filter (fun f => f.obj != some id || !f.promotes))
      let o := (s.obj p id).getD o
      if !bad.isEmpty then (if o.ro then s.refetchT1 p id (o.t1.getD o.home) o bad else s.dropPromotion p id o)
      else
        let n := (vget s.tier p).clock + 1
        let s := s.modTier p (fun t => { t with clock := n })
        let s := s.setObj p id { o with state := 2, level := if o.t0.isSome then 2 else o.target, slice := if o.target = 2 then o.tslice else o.slice, stamp := n }
        let s := s.prefetchDone p id
        let s := (vget s.tier p).scheds.foldl (fun s x => s.schedPoll p x.ref) s
        (s.pumpTier p).settleTier p

/-- TIER_SPACE_STALL: a promotion that some command waits for has found no room for SPACE_MS (R146); reported once. -/
def State.spaceStall (s : State) (p : Part) (id : Nat) : State :=
  match s.obj p id with
  | none => s
  | some o =>
    let pre := (List.range 64).findSome? (fun q => ((s.queue p.val q).cmds.find? (fun c =>
      c.phase == .running && !c.finished && cOpcode c == 0x11 && !bitOf (cOparg c) 31 && cOparg c % 65536 == id)).map (fun c =>
        (cOparg c / 2 ^ 16 % 4 + 1, bitsOf (cOparg c) 21 18)))
    let sch := (vget s.tier p).scheds.findSome? (fun x => match x.entries[x.next]? with
      | some e => if entObj e = id ∧ s.entryGo p x e = true then some (entTarget e, entSlice e) else none
      | none => none)
    let dem := if s.demanded p o then some (1, 0) else none
    match pre.orElse (fun _ => sch.orElse (fun _ => dem)) with
    | none => s
    | some (t, n) =>
      if o.valid && !o.stalled && (o.state == 0 || o.state == 2) && (s.demanded p o || !o.atLeast t) && (s.findRoom p t n o.bytes).isNone then
        ((s.setObj p id { o with stalled := true }).tierStatus p [Fld.TIER_STATUS_SPACE_STALL] []).tierEvent p 0x0605 1 id (t - 1)
      else s

/-- TIER_SPACE_STALL (R146). -/
def execTierSpaceStall (p : Part) (obj : Nat) (s : State) : Host.Outcome State Fault Refusal := .next (s.spaceStall p obj)

/-! ## EVICT (R145) -/

/-- The checks of EVICT at step 4. -/
def State.checkEvict (s : State) (p : Part) (c : Cmd) : Nat :=
  let o := cOparg c
  let d := c.desc 0
  if !s.unified p.val then 0x0603
  else if d.rank ≠ 0 ∧ (d.dtype ≠ 0x0F ∨ d.rank ≠ 1 ∨ d.dim 0 ≠ 1) then 0x0208
  else if 2 ≤ o / 2 ^ 30 then 0x0208
  else match s.obj p (o % 65536) with
    | some x => if x.valid then 0 else 0x0604
    | none => 0x0604

/-- Write EVICT's outcome, where it names a tensor, and end it. -/
def State.evictOutcome (s : State) (r : CmdRef) (c : Cmd) (v : Nat) : State :=
  let d := c.desc 0
  if d.rank = 0 then s.finish r c
  else
    let (s, st, rec) := s.writeTensor r.part.val d 0 false [((0, 0, 0, 0), .fin false v 0)]
    s.endRun r (c.record d rec) st

/-- EVICT (R145). `pieces` marks an EVICT whose own eviction is under way. -/
def State.evict (s : State) (r : CmdRef) (c : Cmd) : State :=
  let p := r.part
  let o := cOparg c
  let id := o % 65536
  let req : EvictReq := { lock := if bitOf o 28 then some (bitsOf o 27 16) else none, discard := bitOf o 29, t0Only := o / 2 ^ 30 == 1 }
  match s.obj p id with
  | none => s.failRun r c 0x0604
  | some x =>
    if c.pieces = 1 then s
    else if x.state = 5 then s.failRun r c 0x0601
    else if x.state = 3 then s
    else if x.state = 0 ∨ (x.state = 2 ∧ req.t0Only ∧ x.t0 = none) then s.evictOutcome r c 2
    else if x.state = 2 ∧ s.objRefs p x = 0 then
      (s.setCmd p.val r.queue.val { c with pieces := 1 }).startEvict p id [req]
    else if 8 ≤ x.pend.length then s
    else
      (s.deferEvict p id r.queue.val x req).evictOutcome r c 1

/-- EVICT (R145). -/
def execEvict (c : CmdRef) (s : State) : Host.Outcome State Fault Refusal :=
  .next (match s.running c 0x0012 with | some d => s.evict c d | none => s)

/-- DEFERRED_EVICTION: the held evictions of an object are served by one, once it is RESIDENT with no references (R145). -/
def State.deferredEviction (s : State) (p : Part) (id : Nat) : State :=
  match s.obj p id with
  | none => s
  | some o =>
    if o.pend = [] ∨ o.state ≠ 2 ∨ s.objRefs p o ≠ 0 then s else s.startEvict p id []

/-- DEFERRED_EVICTION (R145). -/
def execDeferredEviction (p : Part) (obj : Nat) (s : State) : Host.Outcome State Fault Refusal := .next (s.deferredEviction p obj)

/-- EVICTION_COMPLETE: the copy is released; a mutable T0 copy is written back unless DISCARD was set; FREED_LOCKs are signalled and the
EVICT that ran it completes, or fails where a page of the home has retired (R139, R145, R163). [DEDUCED, log 22] -/
def State.evictionComplete (s : State) (p : Part) (id : Nat) : State :=
  match s.obj p id with
  | none => s
  | some o =>
    match o.state, o.evict with
    | 3, some r =>
      let (s, st) := match o.t0 with
        | some a => if o.ro || r.discard then (s, 0) else (s.grant p.val o.home o.bytes).writePhys o.home (s.cells a o.bytes)
        | none => (s, 0)
      let t1 := if r.t0Only then o.t1 else none
      let s := s.setObj p id { o with state := if t1.isSome then 2 else 0, level := if t1.isSome then 1 else 0, t0 := none, t1 := t1
                                      evict := none, freed := [], slice := 0 }
      let s := o.freed.foldl (fun s l => s.lockAdd p.val l 1) s
      let s := (List.finRange 64).foldl (fun s q =>
        (s.queue p.val q.val).cmds.foldl (fun s c =>
          if c.phase == .running && !c.finished && cOpcode c == 0x12 && c.pieces == 1 && cOparg c % 65536 == id then
            (if st = 0 then s.evictOutcome { part := p, queue := q, slot := c.slot } c 0
              else s.failRun { part := p, queue := q, slot := c.slot } c st)
          else s) s) s
      s.tierDemand p
    | _, _ => s

/-! ## COPY (R141) -/

/-- The checks of COPY at step 4, after every descriptor check. -/
def checkCopy (c : Cmd) : Nat :=
  let a := c.desc 0
  let b := c.desc 1
  let same := a == { b with addr := a.addr }
  let parts (d : TDesc) : List (Nat × Nat) :=
    (d.base, d.base + d.extent) :: (if isMx d.dtype then [(d.scale, d.scale + d.scaleCount)] else [])
  let meet := (parts a).any (fun x => (parts b).any (rangesMeet x))
  if cOparg c ≠ 0 ∨ a.rank ≠ b.rank ∨ a.dims ≠ b.dims then 0x0607
  else if meet && !same then 0x0607
  else 0

/-- Bring the T2 bytes that a COPY or DIGEST reads directly (R136, R141): whether all of them have arrived. -/
def State.t2Stage (s : State) (r : CmdRef) (ranges : List (Nat × Nat)) : State × Bool :=
  let p := r.part
  let want := ((ranges.flatMap (fun x => s.pieces x.1 x.2)).filter (fun x => isT2 (s.resolve x.1) && 0 < x.2)).map (fun x =>
    (x.1 / 4096 * 4096, ceilTo (x.1 + x.2) 4096 - x.1 / 4096 * 4096))
  let mine := (vget s.tier p).fetches.filter (fun f => f.ref == some r)
  if mine.isEmpty && !want.isEmpty then
    let s := want.foldl (fun s x => s.addFetch p { obj := none, ref := some r, host := none, base := x.1, len := x.2, cur := 0, dest := x.1
                                                   bad := [], src := 1, tag := none, got := 0, fail := false }) s
    (s.settleTier p, false)
  else (s, mine.all (·.ended))

/-- Drop what was brought from T2 for a command. -/
def State.t2Drop (s : State) (r : CmdRef) : State :=
  let fs := (vget s.tier r.part).fetches
  (fs.filter (fun f => f.ref == some r)).foldl (fun s f => s.dropT2 f) (s.setFetches r.part (fs.filter (fun f => f.ref != some r)))

/-- Whether COPY takes the source's codes unchanged: equal DTYPE, equal DEQ, and for MX formats the same axis. -/
def sameCoding (c : Cmd) : Bool :=
  let a := c.desc 0
  let b := c.desc 1
  a.dtype == b.dtype && (!takesScaleWord a.dtype || c.sw 0 % 2 ^ 32 == c.sw 1 % 2 ^ 32) && (!isMx a.dtype || a.mxAxis == b.mxAxis)

/-- The codes and scale bytes as they stand, with what the ledger counts: an element of a block whose scale byte is 0xFF is NaN and no zero (R229). -/
def State.copyRaw (s : State) (p : Nat) (c : Cmd) : State × Nat × LedRec :=
  let a := c.desc 0
  let b := c.desc 1
  let ps := a.positions
  let bytes := ps.foldl (fun acc i => s.putCode acc b.base (b.bitPos i) (dtBits b.dtype) (s.elemCode a i)) []
  let sc := if isMx a.dtype then (List.range a.scaleCount).map (fun k => (b.scale + k, s.byte (a.scale + k))) else []
  let r := s.rawCounts a (c.sw 0) b.tid
  let (s, st) := s.writeRuns p (runsOf (bytes ++ sc))
  (s, st, r)

/-- COPY (R141): from T2 the bytes are brought first; then the elements are copied or converted in linear order. Its end leaves the destination undefined where it fails
(`State.commandComplete`). -/
def State.copy (s : State) (r : CmdRef) (c : Cmd) : State :=
  let p := r.part.val
  let a := c.desc 0
  let ranges := [(a.base, a.extent)] ++ (if isMx a.dtype then [(a.scale, a.scaleCount)] else [])
  let (s, ready) := s.t2Stage r ranges
  if !ready then s
  else if a == { c.desc 1 with addr := a.addr } then (s.t2Drop r).finish r c
  else
    let (s, st) := s.fetchTensor p a
    if st ≠ 0 then (s.t2Drop r).failRun r c st
    else
      let (s, st, rec) :=
        if sameCoding c then s.copyRaw p c
        else s.writeTensor p (c.desc 1) (c.sw 1) (satOf c.arith) (a.positions.map (fun i => (i, s.elemVal a (c.sw 0) i)))
      (s.t2Drop r).endRun r (c.record (c.desc 1) rec) st

/-- COPY (R141). -/
def execCopy (c : CmdRef) (s : State) : Host.Outcome State Fault Refusal :=
  .next (match s.running c 0x0010 with | some d => s.copy c d | none => s)

/-! ## Start and end of commands (R140, R149) -/

/-- Step 6 of R71 for the tiers: the references count as use, demand promotions start, and a BROKEN object fails the command. -/
def State.tierStart (s : State) (r : CmdRef) (c : Cmd) : State :=
  let p := r.part
  let hit := (vget s.tier p).objs.filter (fun e => e.2.valid && c.touches e.2)
  if hit.any (fun e => e.2.state == 5) then s.failRun r c 0x0601
  else
    let n := (vget s.tier p).clock + 1
    let s := if hit.isEmpty then s else s.modTier p (fun t => { t with
      clock := n, objs := t.objs.map (fun e => if e.2.valid && c.touches e.2 then (e.1, { e.2 with stamp := n }) else e) })
    s.tierDemand p

/-- `TIER_OBJ_STATE` for the queried object. -/
def State.objStateWord (s : State) (p : Part) : Word :=
  match s.obj p (s.fget Fld.TIER_OBJ_QUERY_OBJ 0 p.val) with
  | none => 0
  | some o => BitVec.ofNat 32 (o.state + (if o.state = 0 then 0 else o.level) * 2 ^ 3 + b2n (!o.pend.isEmpty) * 2 ^ 5 + b2n o.poison * 2 ^ 6
      + b2n o.valid * 2 ^ 7 + o.slice % 16 * 2 ^ 8 + min 0xFFFF (if o.valid then s.objRefs p o else 0) * 2 ^ 16)

/-- `TIER_SPACE`. -/
def State.spaceWord (s : State) (p : Part) : Word :=
  let (a, b) := s.areaFree p
  BitVec.ofNat 32 (min 0xFFF (a / 2 ^ 20) + min 0xFFF (b / 2 ^ 30) * 2 ^ 16)

end Sys2Proof.Machine
end

