-- ==== Sys2Proof/Machine/Snapshot.lean ====
section
/-! DEFINITION. What recovery moves and keeps (R357 to R366): step counters, update records, snapshot images, ward slots; HOLD
(R368) and what a coordinate's entry into the dead table does; SNAPSHOT with its digest exchange and the partner's side. -/

namespace Sys2Proof.Machine

/-! ## State of a partition's recovery engine -/

/-- The partition that owns a group, as a number of partitions. -/
def State.groupPart (s : State) (g : Nat) : Part := ⟨s.groupOwner g % 4, by omega⟩

/-- The groups of a partition's recovery domain (R368). -/
def State.domain (s : State) (p : Part) : List Nat := setBits 64 (s.rd64 .RCV_DOMAIN_LO .RCV_DOMAIN_HI 0 p.val)

/-- STATE of RCV_STATE. -/
def State.rcvState (s : State) (p : Part) : Nat := s.fget Fld.RCV_STATE_STATE 0 p.val

/-- The step counters of a group (R358), with 0xFFFF_FFFF as −1 (R359). -/
def State.stepOf (s : State) (r : RegName) (p : Part) (g : Nat) : Int := stepInt (s.rd r g p.val).toNat

/-- Set a step counter. -/
def State.setStep (s : State) (r : RegName) (p : Part) (g step : Nat) : State := s.wr r g p.val (BitVec.ofNat 32 step)

/-! ## Update records (R360) -/

/-- The update record of a step. -/
def RcvSt.record (x : RcvSt) (g step : Nat) : Option UpdRec := x.upd.find? (fun u => u.group == g && u.step == step)

/-- A layer is late when more than EVERY steps have been updated since its last snapshot (R366); recorded once until the next one. -/
def State.layerCheck (s : State) (p : Part) (g step layer every : Nat) (r : RegName) : State :=
  let last := s.stepOf r p g
  if every = 0 ∨ (step : Int) - last ≤ every ∨ (vget s.rcv p).late.contains (g, layer) = true then s
  else
    let s := s.modRcv p (fun x => { x with late := x.late ++ [(g, layer)] })
    (s.rcvStatus p.val [Fld.RCV_STATUS_LAYER_LATE] []).rcvEvent p.val 0x0B08 1 (2 ^ (layer - 1)) (s.rd r g p.val).toNat

/-- UPDATE has completed (R358, R360, R366); where HEAD has not passed it yet, its record waits for that. -/
def State.updated (s : State) (p : Part) (q slot g step : Nat) : State :=
  let s := s.setStep .RCV_GRPg_UPD p g step
  let s := (s.modRcv p (fun x => { x with due := x.due ++ [(q, slot, g, step)] })).takeDue p q
  let s := s.layerCheck p g step 1 (s.fget Fld.RCV_LAYER_CFG_FLASH_EVERY 0 p.val) .RCV_GRPg_FLASH
  s.layerCheck p g step 2 (s.fget Fld.RCV_LAYER_CFG_STORE_EVERY 0 p.val) .RCV_GRPg_STORE

/-! ## Snapshot images (R362)

The rule fixes the order of the sections, their alignment and CRCs; the order of the header's fields and of the fields within a section
is the model's (log 30). A section is its length (8 bytes), its contents and the CRC-64 of both. -/

/-- A section. [DESIGN CHOICE, log 30] -/
def imgSection (body : List Byte) : List Byte :=
  let b := leBytes 8 body.length ++ body
  b ++ leBytes 8 (crc64 b)

/-- The contents of the section at an offset of an image, where its CRC holds. [DESIGN CHOICE, log 30] -/
def readSection (img : List Byte) (off : Nat) : Option (List Byte) :=
  let n := fieldAt img off 8
  if img.length < off + 16 + n then none
  else
    let b := (img.drop off).take (8 + n)
    if fieldAt img (off + 8 + n) 8 = crc64 b then some (b.drop 8) else none

/-- Lay runs of bytes out from an offset, with zeros between. -/
def denseRuns (start : Nat) (runs : List (Nat × List Byte)) : List Byte :=
  runs.foldl (fun acc r => padTo (r.1 - start) acc ++ r.2) []

/-- TENSORS: the number of tensors, then records and data as in R238, with offsets in the image. [DESIGN CHOICE, log 30] -/
def State.secTensors (s : State) (start : Nat) (ds : List (TDesc × Nat)) : List Byte :=
  let o := start + 16
  let (recs, data, _) := s.imgRecords o ds
  leBytes 8 ds.length ++ denseRuns o ((o, recs) :: data)

/-- LEDGER: every valid entry with its index, and the scale word of a DELAYED one. [DESIGN CHOICE, log 30] -/
def State.secLedger (s : State) (p : Nat) : List Byte :=
  ((List.range (s.ledgerSize p)).filter (fun i => s.ledgerOn p && s.entInForce p i)).flatMap (fun i =>
    let b := s.ent p i
    leBytes 16 i ++ b ++ (if eDelayed b then s.bytes (eSW b) 16 else List.replicate 16 0))

/-- The recovery engine reads the ledger for an image: an entry whose history is found lost loses it (R236); a poisoned scale word is HBM_UE
(R159). -/
def State.readLedger (s : State) (p : Nat) : State × Nat :=
  foldSt ((List.range (s.ledgerSize p)).filter (fun i => s.ledgerOn p && s.entInForce p i)) (fun s i =>
    seqSt (s.checkEnt p i) (fun s =>
      if eDelayed (s.ent p i) then
        let ((_, bad), s) := s.readAs p (eSW (s.ent p i)) 16
        (s, if bad then 0x0701 else 0)
      else (s, 0))) s

/-- NUMERICS, with NUM_COMMITTED_STEP = `step`. -/
def State.secNumerics (s : State) (p step : Nat) : List Byte :=
  ([.NUM_SR_SEED_LO, .NUM_SR_SEED_HI, .NUM_ARITH_CFG, .NUM_SCALE_CFG, .NUM_ZRUN_CFG, .NUM_DEMOTE_CFG] : List RegName).flatMap
    (fun r => leBytes 4 (s.rd r 0 p).toNat) ++ leBytes 4 step

/-- RECORD: 4,096 lock values and 64 queues. [DESIGN CHOICE, log 30] -/
def secRecord (u : UpdRec) : List Byte :=
  (List.range 4096).flatMap (fun k => leBytes 4 (Sparse.get (0 : Word) u.locks k).toNat)
    ++ u.queues.flatMap (fun q => leBytes 4 q.1.toNat ++ leBytes 2 q.2.1 ++ leBytes 2 q.2.2)

/-- GROUPS: for each group of the partition, its number, table words, EPOCH, COMMITTED_STEP, MODE_EFF, CLEAN and BUF_MIB. [DESIGN CHOICE, log 30] -/
def State.secGroups (s : State) (p : Nat) : List Byte :=
  ((List.range 64).filter (fun g => s.grpActive g && s.groupOwner g == p)).flatMap (fun g =>
    leBytes 4 g ++ ([.PER_GRPg_X, .PER_GRPg_Y, .PER_GRPg_Z, .PER_GRPg_CTRL, .PER_GRPg_EPOCH, .COL_GRPg_CSTEP] : List RegName).flatMap
      (fun r => leBytes 4 (s.rd r g).toNat)
    ++ leBytes 4 (s.fget Fld.COL_GRPg_STATE_MODE_EFF g) ++ leBytes 4 (s.fget Fld.COL_GRPg_STATE_CLEAN g)
    ++ leBytes 4 (s.fget Fld.COL_GRPg_CFG_BUF_MIB g))

/-- ROUTE: extents and coordinates, the remap table and the dead table. [DESIGN CHOICE, log 30] -/
def State.secRoute (s : State) : List Byte :=
  leBytes 4 (coordNum s.extP) ++ leBytes 4 (coordNum s.extL) ++ leBytes 4 (coordNum s.ownP) ++ leBytes 4 (coordNum s.senderCoord)
    ++ (List.range 64).flatMap (fun i => leBytes 4 (s.rd .PER_REMAPi_L i).toNat ++ leBytes 4 (s.rd .PER_REMAPi_P i).toNat)
    ++ (List.range 64).flatMap (fun i => leBytes 4 (s.rd .PER_DEADi i).toNat)

/-- STEPS: the counters of the group as they are when the snapshot has completed. -/
def State.secSteps (s : State) (p g step layer : Nat) : List Byte :=
  let w (r : RegName) : List Byte := leBytes 4 (s.rd r g p).toNat
  leBytes 4 step ++ (if layer = 0 then leBytes 4 step else w .RCV_GRPg_PROT) ++ w .RCV_GRPg_W
    ++ (if layer = 1 then leBytes 4 step else w .RCV_GRPg_FLASH) ++ (if layer = 2 then leBytes 4 step else w .RCV_GRPg_STORE)

/-- Put sections one after another, each at the next multiple of 4 KiB: the offsets and the bytes from 4 KiB on. -/
def laySections (secs : List (List Byte)) : List Nat × List Byte :=
  secs.foldl (fun a sec =>
    let o := ceilTo (4096 + a.2.length) 4096
    (a.1 ++ [o], padTo (o - 4096) a.2 ++ sec)) ([], [])

/-- The 64-byte header: MAGIC, VERSION, coordinate, GROUP, step, epoch, section offsets in 4 KiB units, image bytes. [DESIGN CHOICE, log 30] -/
def State.imgHeader (s : State) (g step : Nat) (offs : List Nat) (total : Nat) : List Byte :=
  padTo 64 (leBytes 4 0x4E535653 ++ leBytes 4 1 ++ coordBytes s.senderCoord ++ leBytes 1 g ++ leBytes 4 step ++ leBytes 4 (s.epoch g)
    ++ offs.flatMap (fun o => leBytes 4 (o / 4096)) ++ leBytes 8 total)

/-- A snapshot image of step `step` of a group (R362). -/
def State.snapImage (s : State) (p : Part) (g step layer : Nat) (ds : List (TDesc × Nat)) : List Byte :=
  let u := ((vget s.rcv p).record g step).getD { group := g, step := step, locks := [], queues := List.replicate 64 (0, 0, 0) }
  let (offs, body) := laySections [imgSection (s.secTensors 4096 ds), imgSection (s.secLedger p.val), imgSection (s.secNumerics p.val step),
    imgSection (secRecord u), imgSection (s.secGroups p.val), imgSection s.secRoute, imgSection (s.secSteps p.val g step layer)]
  padTo 4096 (s.imgHeader g step offs (4096 + body.length)) ++ body

/-- The image bytes that a header names: 0 where it is no header of this group and step. -/
def imgTotal (g step : Nat) (b : List Byte) : Nat :=
  if fieldAt b 0 4 = 0x4E535653 ∧ fieldAt b 4 4 = 1 ∧ fieldAt b 11 1 = g ∧ fieldAt b 12 4 = step ∧ 64 ≤ b.length then fieldAt b 48 8 else 0

/-- The sections of an image; none where a CRC fails (R362). -/
def imgSections (b : List Byte) : Option (List (List Byte)) := (List.range 7).mapM (fun i => readSection b (4096 * fieldAt b (20 + 4 * i) 4))

/-! ## Copies (R363) -/

/-- The device address of byte `o` of ward slot `j`: striped over four stacks in 64 KiB units of the partner shares (R152, R363). -/
def State.wardAddr (s : State) (j o : Nat) : Nat :=
  let q := s.fget Fld.TIER_PARTNER_PARTNER_GIB / 8
  let n := 4 * j + o / 65536 % 4
  hbmBase + n * 0x2000000000 + (128 - q) * 2 ^ 30 + 65536 * (o / 262144) + o % 65536

/-- The bytes that a ward slot holds at most. -/
def State.wardCap (s : State) : Nat := 4 * (s.fget Fld.TIER_PARTNER_PARTNER_GIB / 8) * 2 ^ 30

/-- Write bytes into a ward slot from an offset; the flag says that all of them could be written. -/
def State.wardWrite (s : State) (j o : Nat) (data : List Byte) : State × Bool :=
  (pieces64 (data.length + 1) o data.length).foldl (fun a e =>
    let (s, st) := a.1.writeAs 4 (s.wardAddr j e.1) ((data.drop (e.1 - o)).take e.2)
    (s, a.2 && st == 0)) (s, true)

/-- Read bytes of a ward slot, and whether any is poisoned. -/
def State.wardRead (s : State) (j o len : Nat) : (List Byte × Bool) × State :=
  (pieces64 (len + 1) o len).foldl (fun a e =>
    let ((b, bad), s) := a.2.readAs 4 (s.wardAddr j e.1) e.2
    ((a.1.1 ++ b, a.1.2 || bad), s)) (([], false), s)

/-- Replace the local copy record of a group's slot. -/
def RcvSt.setCopy (x : RcvSt) (c : CopyRec) : RcvSt :=
  { x with copies := x.copies.filter (fun d => !(d.group == c.group && d.step % 2 == c.step % 2)) ++ [c] }

/-- The step of a group's complete local copy in a slot, 0xFFFF_FFFF for none. -/
def RcvSt.localStep (x : RcvSt) (g j : Nat) : Nat :=
  ((x.copies.find? (fun c => c.group == g && c.whole && c.step % 2 == j)).map (·.step)).getD 0xFFFFFFFF

/-- The step of a group's complete ward copy in a ward slot, 0xFFFF_FFFF for none. -/
def RcvSt.wardStep (x : RcvSt) (g j : Nat) : Nat :=
  match Sparse.find x.ward j with
  | some c => if c.whole && c.group == g then c.step else 0xFFFFFFFF
  | none => 0xFFFFFFFF

/-! ## DONE, HOLD and the plan's end (R368, R374, R376) -/

/-- The member coordinates of a recovery domain, as numbers. -/
def State.domainMembers (s : State) (p : Part) : List Nat :=
  ((s.domain p).flatMap (fun g => (List.range (s.grpSize g)).map (fun r => coordNum (s.memberAt g r)))).dedup

/-- The leader: the lowest coordinate, x fastest, among the members that are not spares (R369). -/
def State.leader (s : State) (p : Part) : Nat :=
  let ms := (s.domainMembers p).filter (fun m => !(vget s.rcv p).lost.contains m)
  ms.foldl min (ms.headD 0)

/-- This part's coordinate as a number. -/
def State.selfNum (s : State) : Nat := coordNum s.senderCoord

/-- Enter HOLD for the whole domain (R368): ALLREDUCE and COMMIT of its groups fail, RCV_HOLD is recorded. `lost` is the lost logical
coordinate; none after a split. -/
def State.enterHold (s : State) (p : Part) (lost : Option Nat) : State :=
  let s := (s.domain p).foldl (fun s g => (s.colFailRun g 0x0A06).colFailCommit g 0x0A06) s
  let s := s.modRcv p (fun x => { x with lost := match lost with | some l => if x.lost.contains l then x.lost else x.lost ++ [l] | none => x.lost })
  let s := s.fset Fld.RCV_STATE_STATE 1 0 p.val
  (s.rcvStatus p.val [Fld.RCV_STATUS_HOLD] []).rcvEvent p.val 0x0B01 1 (lost.getD 0xFFFFFFFF) (s.rd64 .RCV_DOMAIN_LO .RCV_DOMAIN_HI 0 p.val)

/-- Abandon the plan: RCV_RESTART with a cause bit, and HOLD (R375, R376). -/
def State.abandon (s : State) (p : Part) (bit : Nat) : State :=
  let s := s.modRcv p (fun x => { x with plan := [], census := [], done := [], doneSent := false })
  let s := (s.wr .RCV_STATE 0 p.val 1).wr .RCV_RSTEP 0 p.val 0xFFFFFFFF
  (s.rcvStatus p.val [Fld.RCV_STATUS_RESTART] []).rcvEvent p.val 0x0B04 1 (vget s.rcv p).rid (2 ^ bit)

/-- Whether a recovery runs: after GO and before READY (R376). -/
def State.recovering (s : State) (p : Part) : Bool := 2 ≤ s.rcvState p

/-- Whether this member's action is complete and protected (R374). -/
def State.actionDone (s : State) (p : Part) : Bool :=
  let rs := stepInt (s.rd .RCV_RSTEP 0 p.val).toNat
  let act := s.fget Fld.RCV_STATE_ACTION 0 p.val
  s.rcvState p == 3 && !(vget s.rcv p).doneSent && (act < 3 || (vget s.rcv p).restored)
    && (s.domain p).all (fun g => s.stepOf .RCV_GRPg_UPD p g == rs && rs ≤ s.stepOf .RCV_GRPg_PROT p g
      && (!s.fbit Fld.RCV_STATE_REPLICA 0 p.val || s.stepOf .RCV_GRPg_W p g == rs))

/-- Stop running pre-emptible commands of an older epoch that check it (R78, R376). [DEDUCED, log 47] -/
def State.staleStop (s : State) (g e : Nat) : State :=
  (List.range 4).foldl (fun s p => (List.range 64).foldl (fun s q =>
    (s.queue p q).cmds.foldl (fun s c =>
      if c.phase == .running && !c.finished && cEpochChk c && cGroup c == g && cEpoch c < e && preemptible (cOpcode c) && c.stop == 0 then
        s.setCmd p q { c with stop := 0x0205 } else s) s) s) s

/-- Raise the epoch of a group (R325, R376). -/
def State.raiseEpoch (s : State) (g e : Nat) : State := (s.setEpoch g e).staleStop g e

/-! ## SNAPSHOT (R361 to R366) -/

def snLayer (c : Cmd) : Nat := cOparg c % 4
def snDigest (c : Cmd) : Bool := bitOf (cOparg c) 2
def snAddr (c : Cmd) : Nat := fieldAt c.bytes 64 8
def snSpace (c : Cmd) : Nat := fieldAt c.bytes 72 8
def snPort (c : Cmd) : Nat := fieldAt c.bytes 80 1

/-- The descriptor addresses of the list that DESC0 names (R361). -/
def State.snList (s : State) (d : TDesc) : List Nat :=
  (List.range (d.dim 1)).map (fun j => s.elemCode d (0, j, 0, 0) + s.elemCode d (1, j, 0, 0) * 2 ^ 32)

/-- The listed tensors of a command, as captured at step 4. -/
def Cmd.listed (c : Cmd) : List TDesc := c.descs.drop 3

/-- The listed tensors with their scale words. -/
def Cmd.listedSw (c : Cmd) : List (TDesc × Nat) := c.listed.zip (c.deq.drop 3)

/-- The image of a SNAPSHOT as its descriptors were captured. -/
def State.imageOf (s : State) (p : Part) (c : Cmd) : List Byte := s.snapImage p (cGroup c) (cStep c) (snLayer c) c.listedSw

/-- Whether a list descriptor has the shape of R361. -/
def listOk (d : TDesc) : Bool := d.dtype == 0x0F && d.rank == 2 && d.dim 0 == 2 && 1 ≤ d.dim 1 && d.dim 1 ≤ 256

/-- The destination in slot 2 is legal: a 4 KiB-aligned HBM address for a local copy; an owned port and the layer's address bits for
FLASH and STORE (R300, R361). [DEDUCED, log 85] -/
def State.snDestOk (s : State) (p : Part) (c : Cmd) (layer : Nat) : Bool :=
  if layer = 0 then snAddr c % 4096 == 0 && isHbm (snAddr c)
  else snPort c < 4 && s.portOwner (snPort c) == p.val && snAddr c / 2 ^ 62 == layer - 1

/-- The two slots of the local copy lie in HBM that the partition owns; otherwise CMD_RANGE (R30, R361, R363). [DEDUCED, log 85] -/
def State.snOwned (s : State) (p : Part) (c : Cmd) : Bool := s.ownsT01 p.val (snAddr c) (2 * snSpace c)

/-- Whether a SNAPSHOT meets RCV_HELD: the group is in HOLD or a later recovery state (R361, R368). The PARTNER snapshot of RSTEP with
DIGEST_X = 0 that a FORWARD or UPDATE member runs during RESTORE does not (R374, R375). [DEDUCED, log 35] -/
def State.snapHeld (s : State) (p : Part) (c : Cmd) : Bool :=
  s.groupHeld p.val (cGroup c)
    && !(s.rcvState p == 3 && snLayer c == 0 && !snDigest c && cStep c == (s.rd .RCV_RSTEP 0 p.val).toNat)

/-- The checks of SNAPSHOT that follow the descriptors (R361, R368): 0 or a status. [DEDUCED, log 85] -/
def State.checkSnapshot (s : State) (p : Part) (c : Cmd) : Nat :=
  let g := cGroup c
  let d := c.desc 1
  let digOk := if snDigest c then snLayer c == 0 && d.dtype == 0x0F && d.rank == 1 && d.dim 0 == 2 else d.rank == 0
  if !s.groupOk p.val g || (s.ownRank g).isNone then 0x0940
  else if 8 ≤ cOparg c ∨ snLayer c = 3 ∨ listOk (c.desc 0) = false ∨ digOk = false ∨ (c.bytes.drop 81).any (fun b => b != 0)
      ∨ (snLayer c = 0 ∧ snPort c ≠ 0) ∨ s.snDestOk p c (snLayer c) = false
      ∨ snSpace c < (s.imageOf p c).length then 0x0B02
  else if snLayer c = 0 ∧ s.snOwned p c = false then 0x0202
  else if s.snapHeld p c then 0x0B01
  else if cStep c = 0xFFFFFFFF ∨ (s.rd .RCV_GRPg_UPD g p.val).toNat ≠ cStep c then 0x0B03
  else 0

/-- The ranks of the digest neighbours of this member (R364). -/
def State.digestRanks (s : State) (g : Nat) : List Nat :=
  let n := s.grpSize g
  let r := (s.ownRank g).getD 0
  if n ≤ 1 then [] else [(r + n - 1) % n, (r + 1) % n].dedup

/-- Those whose coordinate is not in the dead table. -/
def State.digestAlive (s : State) (g : Nat) : List Nat :=
  (s.digestRanks g).filter (fun k => !s.isDead (s.toPhys (s.memberAt g k)))

/-- The digest received from a rank. -/
def State.digestOf (s : State) (p : Part) (g step k : Nat) : Option Nat :=
  ((vget s.rcv p).digs.find? (fun d => d.group == g && d.step == step && d.coord == coordNum (s.memberAt g k))).map (·.crc)

/-- End a snapshot. -/
def State.snapEnd (s : State) (p : Part) (x : SnapRun) (status : Nat) : State :=
  let s := s.modRcv p (fun r => { r with snaps := r.snaps.filter (fun y => y.ref != x.ref),
                                         digs := r.digs.filter (fun d => !(d.group == x.group && d.step == x.step)) })
  s.endCmd x.ref status

/-- A PARTNER snapshot completes (R358, R363); COMMIT of the next step may pass R365. -/
def State.snapPartner (s : State) (p : Part) (x : SnapRun) : State :=
  let s := s.setStep .RCV_GRPg_PROT p x.group x.step
  let s := if x.digest.isSome then s.setStep .RCV_GRPg_W p x.group x.step else s
  let s := s.modRcv p (fun r => { r with copies := r.copies.map (fun c =>
    if c.group = x.group ∧ c.step = x.step then { c with whole := true } else c) })
  let s :=
    if x.safe || (vget s.rcv p).unprot.contains (x.group, x.step) then s
    else
      let s := s.modRcv p (fun r => { r with unprot := (x.group, x.step) :: r.unprot })
      (s.rcvStatus p.val [Fld.RCV_STATUS_UNPROTECTED] []).rcvEvent p.val 0x0B0A 1 x.group x.step
  (s.snapEnd p x 0).colForward x.group

/-- Look over a PARTNER snapshot: once the partner has answered and every digest neighbour that is not dead has been heard, its verdict
(R363, R364). -/
def State.snapTry (s : State) (p : Part) (x : SnapRun) : State :=
  if x.layer ≠ 0 ∨ x.acked = false then s
  else
    match x.digest with
    | none => s.snapPartner p x
    | some mine =>
      let alive := s.digestAlive x.group
      let got := alive.map (fun k => (k, s.digestOf p x.group x.step k))
      if got.any (fun e => e.2.isNone) then s
      else
        let diff := got.filter (fun e => e.2 != some mine)
        if s.grpSize x.group = 2 ∧ diff ≠ [] then (s.snapEnd p x 0x0B06).enterHold p none
        else if 2 ≤ diff.length then
          (s.snapEnd p x 0x0B05).event { code := 0x0B06, cls := 0x00, inst := 0, sev := 3, part := p.val, p1 := x.group, p2 := x.step }
        else
          let s := match diff with
            | [] => s
            | e :: _ => (s.rcvStatus p.val [Fld.RCV_STATUS_DIGEST_DIFF] []).rcvEvent p.val 0x0B05 1 (x.group + e.1 * 2 ^ 16) x.step
          s.snapPartner p x

/-- Look over every snapshot of a partition. -/
def State.snapTryAll (s : State) (p : Part) : State := (vget s.rcv p).snaps.foldl (fun s x => s.snapTry p x) s

/-- Whether a partition has an accepted partner that is not dead. [DESIGN CHOICE, log 38] -/
def State.partnerLive (s : State) (p : Part) : Bool :=
  s.pairAccepted .RCV_PARTNER p.val && !s.isDead (s.toPhys (coordOf (s.fget Fld.RCV_PARTNER_COORD 0 p.val)))

/-- The pieces of an image as PROTECT messages to the partner (R363, R370). -/
def State.sendProtect (s : State) (p : Part) (g step : Nat) (img : List Byte) : State :=
  let dst := coordOf (s.fget Fld.RCV_PARTNER_COORD 0 p.val)
  let h := s.recHdr 0 step g
  (pieces64 (img.length + 1) 0 img.length).foldl (fun s e =>
    (s.sendRec 0x10 dst h (leBytes 8 e.1 ++ leBytes 4 e.2 ++ leBytes 4 (b2n (decide (e.1 + e.2 = img.length)))
      ++ (img.drop e.1).take e.2)).1) s

/-- Start a PARTNER snapshot: the local copy, the partner's copy, the digests (R363, R364). -/
def State.snapLocal (s : State) (r : CmdRef) (c : Cmd) (img : List Byte) (dig : Option Nat) : State :=
  let p := r.part
  let g := cGroup c
  let st := cStep c
  let a := snAddr c + st % 2 * snSpace c
  let s := s.modRcv p (fun x => x.setCopy { group := g, step := st, coord := s.selfNum, addr := a, bytes := img.length, whole := false })
  let (s, e) := s.writeAs p.val a img
  if e ≠ 0 then s.failRun r c e
  else
    let live := s.partnerLive p
    let x : SnapRun := { ref := r, layer := 0, group := g, step := st, digest := dig, acked := !live, safe := false }
    let s := s.modRcv p (fun y => { y with snaps := y.snaps ++ [x] })
    let s := if live then s.sendProtect p g st img else s
    let s := match dig with
      | none => s
      | some v => (s.digestRanks g).foldl (fun s k => (s.sendRec 0x12 (s.memberAt g k) (s.recHdr 0 st g) (leBytes 8 v)).1) s
    s.snapTry p x

/-- Start SNAPSHOT: once the update record is there, the protected tensors are read and the image is made (R360 to R362). [DESIGN CHOICE, log 39] -/
def State.snapshot (s : State) (r : CmdRef) (c : Cmd) : State :=
  let p := r.part
  let g := cGroup c
  if (vget s.rcv p).snaps.any (fun x => x.ref == r) || (vget s.rcv p).due.any (fun e => e.2.2 == (g, cStep c)) then s
  else if s.snapHeld p c then s.failRun r c 0x0B01
  else
    let (s, e) := s.fetchTensors p.val (c.listed ++ (if snDigest c then [c.desc 1] else []))
    if e ≠ 0 then s.failRun r c e
    else
      let (s, e) := s.readLedger p.val
      let img := s.imageOf p c
      if e ≠ 0 then s.failRun r c e
      else if snSpace c < img.length then s.failRun r c 0x0B02
      else if snLayer c = 0 then
        s.snapLocal r c img (if snDigest c then some (leNat ((s.words (c.desc 1)).flatMap (leBytes 4))) else none)
      else if s.flashAbsent (snPort c) (snAddr c) then
        let (st, s) := s.snapStatus
        s.failRun r c st
      else
        let s := s.modRcv p (fun y => { y with snaps := y.snaps ++
          [({ ref := r, layer := snLayer c, group := g, step := cStep c, digest := none, acked := true, safe := true } : SnapRun)] })
        (pieces64 (img.length + 1) (snAddr c) img.length).foldl (fun s e =>
          s.sendSnapWr (snPort c) r e.1 (e.1 - snAddr c) ((img.drop (e.1 - snAddr c)).take e.2)) s

/-- SNAPSHOT (R361). -/
def execSnapshot (c : CmdRef) (s : State) : Host.Outcome State Fault Refusal :=
  .next (match s.running c 0x0060 with
    | some d => s.snapshot c d
    | none => s)

/-- A FLASH or STORE snapshot completes durably (R358, R366). -/
def State.snapDurable (s : State) (p : Part) (x : SnapRun) : State :=
  let s := s.setStep (if x.layer = 1 then .RCV_GRPg_FLASH else .RCV_GRPg_STORE) p x.group x.step
  (s.modRcv p (fun y => { y with late := y.late.filter (· ≠ (x.group, x.layer)) })).snapEnd p x 0

/-! ## The partner's side (R363, R364) -/

/-- PROTECT: a piece is written into the ward slot of its step; a piece out of order, beyond the slot or of a pairing that is not
accepted cannot be written. The last piece is acknowledged (R363, R370). -/
def State.protect (s : State) (r : RecHdr) (o : Nat) (last : Bool) (data : List Byte) : State :=
  let j := r.step % 2
  match s.pairPart .RCV_WARD r.sender with
  | none => if last then (s.sendRec 0x11 r.sender (s.recHdr 0 r.step r.group) (leBytes 8 0 ++ leBytes 8 0)).1 else s
  | some q =>
    let p : Part := ⟨q % 4, by omega⟩
    let old := Sparse.find (vget s.rcv p).ward j
    let paired := s.pairAccepted .RCV_WARD p.val
    let okSlot := paired && o + data.length ≤ s.wardCap
      && (o == 0 || match old with
        | some c => c.group == r.group && c.step == r.step && c.coord == coordNum r.sender && c.bytes == o && !c.whole
        | none => false)
    let (s, ok) := if okSlot then s.wardWrite j o data else (s, false)
    let rec0 : CopyRec := { group := r.group, step := r.step, coord := coordNum r.sender, addr := 0, bytes := o + data.length, whole := last }
    let keep (l : List (Nat × CopyRec)) : List (Nat × CopyRec) :=
      if ok then Sparse.insert l j rec0 else if paired then Sparse.erase l j else l
    let s := s.modRcv p (fun x => { x with ward := keep x.ward })
    if last then
      (s.sendRec 0x11 r.sender (s.recHdr 0 r.step r.group) (leBytes 8 (if ok then o + data.length else 0) ++ leBytes 8 (b2n ok))).1
    else s

/-- PROTECT (R363). -/
def execProtect (h : RouteHdr) (r : RecHdr) (offset : Nat) (last : Bool) (data : List Byte) (s : State) :
    Host.Outcome State Fault Refusal :=
  .next (if h.mtype = 0x10 then s.protect r offset last data else s)

/-- PROTECT_ACK: the partner's copy is visible, or could not be written, which counts as no partner (R363, R370). [DESIGN CHOICE, log 38] -/
def execProtectAck (h : RouteHdr) (r : RecHdr) (bytes : Nat) (ok : Bool) (s : State) : Host.Outcome State Fault Refusal :=
  let p := s.groupPart r.group
  if h.mtype = 0x11 ∧ s.pairNames .RCV_PARTNER p.val r.sender = true then
    let s := s.modRcv p (fun x => { x with snaps := x.snaps.map (fun y =>
      if y.layer = 0 ∧ y.group = r.group ∧ y.step = r.step ∧ y.acked = false then { y with acked := true, safe := ok && 0 < bytes } else y) })
    .next (s.snapTryAll p)
  else .next s

/-- DIGEST_MSG: a neighbour's digest is kept for the comparison (R364). -/
def execDigestMsg (h : RouteHdr) (r : RecHdr) (crc : BitVec 64) (s : State) : Host.Outcome State Fault Refusal :=
  let p := s.groupPart r.group
  if h.mtype = 0x12 ∧ r.group < 64 then
    let d : DigRec := { group := r.group, step := r.step, coord := coordNum r.sender, crc := crc.toNat }
    let s := s.modRcv p (fun x => { x with
      digs := x.digs.filter (fun e => !(e.group == d.group && e.step == d.step && e.coord == d.coord)) ++ [d] })
    .next (s.snapTryAll p)
  else .next s

/-! ## A command that goes (R78, R307, R374) -/

/-- Every unit forgets a command: its work is dropped and what it held is freed. -/
def State.forget (s : State) (r : CmdRef) : State :=
  let s := (((s.dropJob r).freeEngines r).colStop r).dropOut r
  let s := s.t2Drop r
  let s := s.modTier r.part (fun t => { t with scheds := t.scheds.filter (fun x => x.ref != r) })
  let s := s.modRcv r.part (fun x => { x with snaps := x.snaps.filter (fun y => y.ref != r), rests := x.rests.filter (fun y => y.ref != r) })
  { s with chk := Vector.ofFn (fun u => let k := vget s.chk u; if k.owner = some r then { k with owner := none } else k) }

end Sys2Proof.Machine
end

