-- ==== Sys2Proof/Machine/Recovery.lean ====
section
/-! DEFINITION. Recovery (R367 to R377): what a dead-table entry does, RESTORE with FETCH, GO, CENSUS, PLAN, DONE, RESUME. -/

namespace Sys2Proof.Machine

/-! ## Restoring an image (R373) -/

/-- Write one tensor of the TENSORS section into the tensor that the list names. `n` is its place in the section. -/
def State.restTensor (s : State) (p : Part) (img sec : List Byte) (n : Nat) (d : TDesc) : State × Nat :=
  let r := (sec.drop (8 + 128 * n)).take 128
  let el := (img.drop (fieldAt r 80 8)).take (fieldAt r 88 8)
  let sc := (img.drop (fieldAt r 96 8)).take (fieldAt r 104 8)
  let w := dtBits d.dtype
  let bits := leNat el
  let bytes := d.positions.foldl (fun acc i => s.putCode acc d.base (d.bitPos i) w (bits / 2 ^ (d.lin i * w) % 2 ^ w)) []
  let (s, a) := s.writeRuns p.val (runsOf bytes)
  let (s, b) := if takesScaleWord d.dtype then s.writeAs p.val d.scale ((r.drop 64).take 16)
    else if isMx d.dtype then s.writeAs p.val d.scale sc else (s, 0)
  (s, if a = 0 then b else a)

/-- Whether the tensors of a section are those of a list: number, formats, extents, and data CRCs. -/
def tensorsMatch (img sec : List Byte) (ds : List TDesc) : Bool :=
  fieldAt sec 0 8 == ds.length && (List.range ds.length).all (fun n =>
    let d := ds.getD n default
    let r := (sec.drop (8 + 128 * n)).take 128
    let el := (img.drop (fieldAt r 80 8)).take (fieldAt r 88 8)
    let sc := (img.drop (fieldAt r 96 8)).take (fieldAt r 104 8)
    fieldAt r 8 1 == d.dtype && (List.range 4).all (fun i => fieldAt r (16 + 4 * i) 4 == d.dim i)
      && fieldAt r 112 8 == crc64 (el ++ sc))

/-- Restore the ledger: an entry of the image takes the place of the entry of its TENSOR_ID, or its own index; entries that the image
does not supply lose their history (R236). The status is that of the first write that failed (R163). -/
def State.restLedger (s : State) (p : Nat) (sec : List Byte) : State × Nat :=
  let recs := chunksOf 288 (sec.length + 1) sec
  let tids := recs.map (fun r => eTid (r.drop 16))
  let a := foldSt recs (fun s r =>
    let b := (r.drop 16).take 256
    let i := (s.findEnt p (eTid b)).getD (fieldAt r 0 8)
    if i < s.ledgerSize p then
      seqSt (s.putWhole p i b) (fun s => if eDelayed b then s.writeAs p (eSW b) ((r.drop 272).take 16) else (s, 0))
    else (s, 0)) s
  let a := seqSt a (fun s => foldSt (List.range (s.ledgerSize p)) (fun s i =>
    if s.ledgerOn p && s.entInForce p i && !tids.contains (eTid (s.ent p i)) then s.loseHistory p i 0 else (s, 0)) s)
  (if a.1.ledgerOn p then a.1.setUsed p else a.1, a.2)

/-- Restore the numerics registers. -/
def State.restNumerics (s : State) (p : Nat) (sec : List Byte) : State :=
  ([(.NUM_SR_SEED_LO, 0), (.NUM_SR_SEED_HI, 4), (.NUM_ARITH_CFG, 8), (.NUM_SCALE_CFG, 12), (.NUM_ZRUN_CFG, 16), (.NUM_DEMOTE_CFG, 20),
    (.NUM_COMMITTED_STEP, 24)] : List (RegName × Nat)).foldl (fun s e => s.wrImage e.1 0 p (BitVec.ofNat 32 (fieldAt sec e.2 4))) s

/-- The update record of a RECORD section. -/
def parseRecord (g step : Nat) (sec : List Byte) : UpdRec :=
  { group := g, step := step
    locks := (List.range 4096).filterMap (fun k =>
      let v := fieldAt sec (4 * k) 4; if v = 0 then none else some (k, BitVec.ofNat 32 v))
    queues := (List.range 64).map (fun q =>
      let o := 16384 + 8 * q; (BitVec.ofNat 32 (fieldAt sec o 4), fieldAt sec (o + 4) 2, fieldAt sec (o + 6) 2)) }

/-- Restore the groups of the partition; an epoch is never lowered (R325, R376, log 31). [DEDUCED, log 31] -/
def State.restGroups (s : State) (sec : List Byte) : State :=
  (chunksOf 40 (sec.length + 1) sec).foldl (fun s r =>
    let g := fieldAt r 0 4
    let w (o : Nat) : Word := BitVec.ofNat 32 (fieldAt r o 4)
    if 64 ≤ g then s
    else
      let s := ((s.wrImage .PER_GRPg_X g 0 (w 4)).wrImage .PER_GRPg_Y g 0 (w 8)).wrImage .PER_GRPg_Z g 0 (w 12)
      let s := (s.wrImage .PER_GRPg_CTRL g 0 (w 16)).wr .COL_GRPg_CSTEP g 0 (w 24)
      let s := if s.epoch g < fieldAt r 20 4 then s.setEpoch g (fieldAt r 20 4) else s
      let s := (s.fset Fld.COL_GRPg_STATE_MODE_EFF (fieldAt r 28 4) g).fset Fld.COL_GRPg_STATE_CLEAN (fieldAt r 32 4) g
      s.fset Fld.COL_GRPg_CFG_BUF_MIB (fieldAt r 36 4) g) s

/-- Restore the route section: remap and dead-table entries take the image's values where this part holds none; its own entries, extents
and coordinates stand, since host software has written them for the part as it is now (R369, log 32). [DEDUCED, log 32] -/
def State.restRoute (s : State) (sec : List Byte) : State :=
  (List.range 64).foldl (fun s i =>
    let s := if s.remapValid i then s
      else (s.wrImage .PER_REMAPi_L i 0 (BitVec.ofNat 32 (fieldAt sec (16 + 8 * i) 4))).wrImage .PER_REMAPi_P i 0 (BitVec.ofNat 32 (fieldAt sec (20 + 8 * i) 4))
    let d := fieldAt sec (528 + 4 * i) 4
    if s.fbit Fld.PER_DEADi_VALID i || s.isDead (coordOf d) then s else s.wrImage .PER_DEADi i 0 (BitVec.ofNat 32 d)) s

/-- Restore the counters of the group. -/
def State.restSteps (s : State) (p : Part) (g : Nat) (sec : List Byte) : State :=
  ([(.RCV_GRPg_UPD, 0), (.RCV_GRPg_PROT, 4), (.RCV_GRPg_W, 8), (.RCV_GRPg_FLASH, 12), (.RCV_GRPg_STORE, 16)] : List (RegName × Nat)).foldl
    (fun s e => s.setStep e.1 p g (fieldAt sec e.2 4)) s

/-- What every RESTORE sets: UPDATED_STEP, COMMITTED_STEP and NUM_COMMITTED_STEP are RSTEP, pending ledger sets are discarded (R373). -/
def State.restCommon (s : State) (p : Part) (g step : Nat) : State :=
  let v := BitVec.ofNat 32 step
  (((s.wr .RCV_GRPg_UPD g p.val v).wr .COL_GRPg_CSTEP g 0 v).wr .NUM_COMMITTED_STEP 0 p.val v).dropPending p.val

/-- Keep the counts of the tensors that a RESTORE has written (R229). -/
def State.recordRestored (s : State) (r : CmdRef) : State :=
  let c := s.cmdOf r
  s.setCmd r.part.val r.queue.val (c.listed.foldl (fun c d =>
    c.record d (s.rawCounts d (if takesScaleWord d.dtype then leNat (s.bytes d.scale 16) else 0) d.tid)) c)

/-- End a restore. -/
def State.restEnd (s : State) (p : Part) (r : CmdRef) (status : Nat) : State :=
  (s.modRcv p (fun x => { x with rests := x.rests.filter (fun y => y.ref != r) })).dropOut r |>.endCmd r status

/-- A restore source has failed: RCV_NO_SOURCE, and a running recovery restarts (R373, R376). A local copy that failed counts as absent (R362). -/
def State.restNoSource (s : State) (p : Part) (r : CmdRef) : State :=
  let c := s.cmdOf r
  let s := if cOparg c % 8 = 0 then
      s.modRcv p (fun x => { x with copies := x.copies.filter (fun d => !(d.group == cGroup c && d.step == cStep c)) })
    else s
  let s := s.restEnd p r 0x0B07
  if s.recovering p then s.abandon p 1 else s

/-! ## DONE and RESUME (R374) -/

/-- Send a recovery message of the current recovery to a coordinate of the domain. -/
def State.sendPlan (s : State) (p : Part) (mtype dst : Nat) (body : List Byte) : State :=
  (s.sendRec mtype (coordOf dst) (s.recHdr (vget s.rcv p).rid (s.rd .RCV_RSTEP 0 p.val).toNat ((s.domain p).headD 0xFF)) body).1

/-- RESUME on this member (R374): locks and queues are set from the update record of RSTEP. [DESIGN CHOICE, log 42] -/
def State.resume (s : State) (p : Part) : State :=
  let x := vget s.rcv p
  let rs := (s.rd .RCV_RSTEP 0 p.val).toNat
  let s := (List.range 64).foldl (fun (s : State) q =>
    let s := (s.queue p.val q).cmds.foldl (fun (s : State) c =>
      if c.phase = .running ∧ q < 64 then s.forget { part := p, queue := ⟨q % 64, by omega⟩, slot := c.slot } else s) s
    s.setQueue p.val q { cmds := [], aborting := false }) s
  let s : State := match (s.domain p).findSome? (fun g => x.record g rs) with
    | none => s
    | some u =>
      let s := (List.range 4096).foldl (fun s k => s.wr .CMD_LOCK_VAL_k k p.val (Sparse.get 0 u.locks k)) s
      (List.range 64).foldl (fun s q =>
        let (h, en, pr) := u.queues.getD q (0, 0, 0)
        let s := (s.wr .CMD_Qn_HEAD q p.val h).wr .CMD_Qn_TAIL q p.val h
        ((s.fset Fld.CMD_Qn_CTRL_ENABLE en q p.val).fset Fld.CMD_Qn_CTRL_PRIORITY pr q p.val).fset Fld.CMD_Qn_CTRL_STOP 0 q p.val) s
  let s := ((List.range 64).filter (fun g => s.groupOwner g == p.val)).foldl (fun s g => s.modCol g (fun y => { y with held := [] })) s
  let s := s.dropPending p.val
  let s := s.modRcv p (fun y => { y with due := [], spare := false, restored := false, lost := [], census := [], plan := [], done := [], doneSent := false })
  let s := (s.wr .RCV_STATE 0 p.val 0).wr .RCV_RSTEP 0 p.val 0xFFFFFFFF
  (s.rcvStatus p.val [] [Fld.RCV_STATUS_RECOVERY_CNT]).rcvEvent p.val 0x0B03 0 x.rid rs

/-- The leader holds DONE from every member: RESUME goes to all of them (R374). -/
def State.resumeTry (s : State) (p : Part) : State :=
  let ms := s.domainMembers p
  if s.rcvState p = 3 ∧ s.leader p = s.selfNum ∧ ms.all (fun m => (vget s.rcv p).done.contains m) = true then
    let body := leBytes 4 (s.rd .RCV_RSTEP 0 p.val).toNat ++ leBytes 4 (s.epoch ((s.domain p).headD 0))
    let s := (ms.filter (· ≠ s.selfNum)).foldl (fun s m => s.sendPlan p 0x19 m body) s
    s.resume p
  else s

/-- A member reports DONE when its action is complete (R374). -/
def State.doneTry (s : State) (p : Part) : State :=
  if s.actionDone p then
    let s := s.modRcv p (fun x => { x with doneSent := true })
    if s.leader p = s.selfNum then (s.modRcv p (fun x => { x with done := x.done ++ [s.selfNum] })).resumeTry p
    else
      let prot := (s.domain p).foldl (fun m g => min m (s.rd .RCV_GRPg_PROT g p.val).toNat) 0xFFFFFFFF
      s.sendPlan p 0x18 (s.leader p) (leBytes 4 prot ++ leBytes 4 (s.fget Fld.RCV_STATE_ACTION 0 p.val))
  else s

/-- Apply an image (R362, R373): a section whose CRC fails, or tensors that are not those of the list, leave nothing restored. -/
def State.restApply (s : State) (x : RestRun) (c : Cmd) (img : List Byte) : State :=
  let p := x.ref.part
  match imgSections img with
  | some [tens, led, num, rcd, grp, route, steps] =>
    if !tensorsMatch img tens c.listed then s.restNoSource p x.ref
    else
      let (s, st) := (List.range c.listed.length).foldl (fun a n =>
        let (s, e) := a.1.restTensor p img tens n (c.listed.getD n default)
        (s, if a.2 = 0 then e else a.2)) (s, 0)
      if st ≠ 0 then s.restEnd p x.ref st
      else
        let (s, el) := s.restLedger p.val led
        let s := (s.restNumerics p.val num).restGroups grp
        let s := (s.restRoute route).restSteps p x.group steps
        let s := s.modRcv p (fun y => (y.keepRecord (parseRecord x.group x.step rcd)))
        let s := s.restCommon p x.group x.step
        let (s, e) :=
          if x.source = 1 then
            let a := snAddr c + x.step % 2 * snSpace c
            let s := s.modRcv p (fun y => y.setCopy { group := x.group, step := x.step, coord := s.selfNum, addr := a, bytes := img.length, whole := true })
            s.writeAs p.val a img
          else (s, 0)
        let s := s.modRcv p (fun y => { y with restored := true })
        (((s.recordRestored x.ref).restEnd p x.ref (if el ≠ 0 then el else e)).doneTry p).colForward x.group
  | _ => s.restNoSource p x.ref

/-! ## RESTORE and FETCH (R373) -/

def rsSource (c : Cmd) : Nat := cOparg c % 8

/-- The checks of RESTORE that follow the descriptors (R373): 0 or a status. [DEDUCED, log 85] -/
def State.checkRestore (s : State) (p : Part) (c : Cmd) : Nat :=
  let src := rsSource c
  if !s.groupOk p.val (cGroup c) then 0x0940
  else if 5 ≤ cOparg c ∨ listOk (c.desc 0) = false ∨ (c.desc 1).rank ≠ 0 ∨ (c.bytes.drop 81).any (fun b => b != 0) ∨ cStep c = 0xFFFFFFFF
      ∨ (src < 3 ∧ snPort c ≠ 0) ∨ (src < 2 ∧ s.snDestOk p c 0 = false) ∨ (3 ≤ src ∧ s.snDestOk p c (src - 2) = false)
      ∨ (src = 1 ∧ (s.ownRank (cGroup c)).isNone) then 0x0B02
  else if src < 2 ∧ s.snOwned p c = false then 0x0202
  else 0

/-- The holder of a PARTNER copy: the plan names it for a SPARE; otherwise this part's partner (R371, R373). -/
def State.copyHolder (s : State) (p : Part) : Coord :=
  match (vget s.rcv p).plan.find? (fun a => a.action == 4 && coordNum a.coord == s.selfNum) with
  | some a => a.wardOf
  | none => coordOf (s.fget Fld.RCV_PARTNER_COORD 0 p.val)

/-- The port on which a message from a physical coordinate arrives here by class ZYX, and its hops (R317, R373). -/
def State.arrival (s : State) (src : Coord) : Option (Nat × Nat) :=
  (classRoute s.isDead s.extP src s.ownP true).bind (fun legs =>
    let hops := legs.foldl (fun n l =>
      let e := max 1 (coordGet s.extP l.1)
      let d := (coordGet s.ownP l.1 + e - coordGet src l.1 % e) % e
      n + (if l.2 then e - d else d)) 0
    legs.getLast?.map (fun l => (2 * l.1 + b2n (!l.2), hops)))

/-- The replicas that RESTORE reads: members whose WSTEP is RSTEP after the plan, at most one for each arriving port, the nearest, then
the lowest coordinate (R371, R373). [DEDUCED, log 41] -/
def State.replicas (s : State) (p : Part) (g : Nat) : List Nat :=
  let ok := (vget s.rcv p).plan.filter (fun a =>
    a.action == 0 && !a.replica && !a.rebuild && coordNum a.coord != s.selfNum && (s.rankOf g a.coord).isSome && !s.isDead (s.toPhys a.coord))
  (List.range 6).filterMap (fun port =>
    (ok.foldl (fun (best : Option (Nat × Nat)) a =>
      match s.arrival (s.toPhys a.coord) with
      | some (q, hops) =>
        if q ≠ port then best
        else match best with
          | none => some (hops, coordNum a.coord)
          | some b => if hops < b.1 ∨ (hops = b.1 ∧ coordNum a.coord < b.2) then some (hops, coordNum a.coord) else best
      | none => best) none).map (·.2))

/-- Send a FETCH (R370); the flag says that it had a route. -/
def State.sendFetch (s : State) (p : Part) (x : RestRun) (dst off len : Nat) : State × Bool :=
  s.sendRec 0x16 (coordOf dst) (s.recHdr (vget s.rcv p).rid x.step x.group) (leBytes 4 x.source ++ leBytes 4 len ++ leBytes 8 off)

/-- Send FETCHes for pieces, striped over sources. -/
def State.sendFetches (s : State) (p : Part) (x : RestRun) (srcs : List Nat) (ps : List (Nat × Nat)) : State × Bool :=
  (List.range ps.length).foldl (fun a i =>
    let e := ps.getD i (0, 0)
    let (s, ok) := a.1.sendFetch p x (srcs.getD (i % max 1 srcs.length) 0) e.1 e.2
    (s, a.2 && ok)) (s, true)

/-- Ask the snapshot layer for pieces of the image (R300). -/
def State.snapReads (s : State) (r : CmdRef) (c : Cmd) (ps : List (Nat × Nat)) : State :=
  ps.foldl (fun s e => (pieces64 (e.2 + 1) (snAddr c + e.1) e.2).foldl (fun s f =>
    s.sendSnapRd (snPort c) r f.1 (f.1 - snAddr c) f.2) s) s

/-- Replace a restore. -/
def State.setRest (s : State) (p : Part) (x : RestRun) : State :=
  s.modRcv p (fun y => { y with rests := y.rests.map (fun z => if z.ref = x.ref then x else z) })

/-- Whether all bytes of a range have been received. -/
def gotAll (got : List (Nat × List Byte)) (total : Nat) : Bool := total ≤ got.foldl (fun n e => n + e.2.length) 0

/-- A piece of an image has arrived: the first one names the image's length; when all are here the image is applied. -/
def State.restPiece (s : State) (x : RestRun) (off : Nat) (data : List Byte) : State :=
  let p := x.ref.part
  let c := s.cmdOf x.ref
  let x := { x with got := Sparse.insert x.got off data, left := x.left.filter (fun e => e.1 != off) }
  let total := if x.total = 0 then (if off = 0 then imgTotal x.group x.step data else 0) else x.total
  if total = 0 ∨ (x.source ≠ 1 ∧ snSpace c < total) then s.restNoSource p x.ref
  else
    let fresh := x.total = 0
    let x := { x with total := total }
    if fresh && data.length < total then
      let more := pieces64 (total + 1) data.length (total - data.length)
      let x := { x with left := x.left ++ more }
      let s := s.setRest p x
      if x.source = 1 then
        let (s, ok) := s.sendFetches p x x.asked more
        if ok then s else s.restNoSource p x.ref
      else s.snapReads x.ref c more
    else
      let s := s.setRest p x
      if gotAll x.got total then s.restApply x c ((x.got.flatMap (·.2)).take total) else s

/-- The pieces of the weight set that REPLICA asks for, by device address: elements, then MX scales or scale words. [DEDUCED, log 41] -/
def replicaPieces (ds : List TDesc) : List (Nat × Nat) :=
  ds.flatMap (fun d => pieces64 (d.extent + 1) d.base d.extent
    ++ (if d.scale = 0 then [] else pieces64 (d.scaleBytes + 1) d.scale d.scaleBytes))

/-- Start RESTORE (R373). -/
def State.restore (s : State) (r : CmdRef) (c : Cmd) : State :=
  let p := r.part
  let src := rsSource c
  if (vget s.rcv p).rests.any (fun x => x.ref == r) then s
  else
    let x : RestRun := { ref := r, source := src, group := cGroup c, step := cStep c, total := 0, got := [], left := [], asked := [] }
    let add (s : State) (x : RestRun) : State := s.modRcv p (fun y => { y with rests := y.rests ++ [x] })
    match src with
    | 0 =>
      let a := snAddr c + cStep c % 2 * snSpace c
      let ((h, bad), s) := s.readAs p.val a 64
      let total := imgTotal (cGroup c) (cStep c) h
      if bad ∨ total = 0 ∨ snSpace c < total then s.restNoSource p r
      else
        let ((img, bad), s) := s.readAs p.val a total
        if bad then s.restNoSource p r else (add s x).restApply x c img
    | 1 =>
      let x := { x with asked := [coordNum (s.copyHolder p)], left := [(0, 65536)] }
      let (s, ok) := (add s x).sendFetches p x x.asked x.left
      if ok then s else s.restNoSource p r
    | 2 =>
      let x := { x with asked := s.replicas p (cGroup c), left := replicaPieces c.listed }
      if x.asked.isEmpty then s.restNoSource p r
      else
        let (s, ok) := (add s x).sendFetches p x x.asked x.left
        if ok then s else s.restNoSource p r
    | _ =>
      let x := { x with left := pieces64 65537 0 (min 65536 (snSpace c)) }
      (add s x).snapReads r c x.left

/-- RESTORE (R373). -/
def execRestore (c : CmdRef) (s : State) : Host.Outcome State Fault Refusal :=
  .next (match s.running c 0x0061 with
    | some d => s.restore c d
    | none => s)

/-- The bytes that answer a FETCH, and STATUS: 0 OK, 1 poisoned, 2 absent (R370). A ward copy in which poison is met counts as absent from
then on (R376, Coinciding conditions). -/
def State.fetchAnswer (s : State) (r : RecHdr) (source len off : Nat) : (List Byte × Nat) × State :=
  let p := s.groupPart r.group
  match source with
  | 1 =>
    match (List.finRange 4).findSome? (fun q => (Sparse.find (vget s.rcv q).ward (r.step % 2)).bind (fun c =>
        if c.whole ∧ c.group = r.group ∧ c.step = r.step ∧ c.coord = coordNum r.sender then some c else none)) with
    | none => (([], 2), s)
    | some c =>
      if c.bytes ≤ off then (([], 2), s)
      else
        let ((b, bad), s) := s.wardRead (r.step % 2) off (min len (c.bytes - off))
        let s := if bad then { s with rcv := s.rcv.map (fun x => { x with
            ward := if Sparse.find x.ward (r.step % 2) = some c then Sparse.erase x.ward (r.step % 2) else x.ward }) }
          else s
        ((b, b2n bad), s)
  | 2 =>
    if s.ownsT01 p.val off len then
      let ((b, bad), s) := s.readAs p.val off len
      ((b, b2n bad), s)
    else (([], 2), s)
  | _ => (([], 2), s)

/-- FETCH: a part that restores asks for a piece (R370, R373). -/
def execFetch (h : RouteHdr) (r : RecHdr) (source bytes offset : Nat) (s : State) : Host.Outcome State Fault Refusal :=
  if h.mtype = 0x16 ∧ (vget s.rcv (s.groupPart r.group)).rid ≤ r.rid ∧ 1 ≤ bytes ∧ bytes ≤ 65536 then
    let ((b, st), s) := s.fetchAnswer r source bytes offset
    let b := if st = 0 then b else []
    .next (s.sendRec 0x17 r.sender (s.recHdr r.rid r.step r.group) (leBytes 8 offset ++ leBytes 4 b.length ++ leBytes 4 st ++ b)).1
  else .next s

/-- A piece of the weight set has arrived: it is written where it stood at the source; the last one completes the RESTORE. -/
def State.replicaPiece (s : State) (x : RestRun) (off : Nat) (data : List Byte) : State :=
  let p := x.ref.part
  let x := { x with left := x.left.filter (fun e => e.1 != off) }
  let (s, st) := s.writeAs p.val off data
  let s := s.setRest p x
  if st ≠ 0 then s.restEnd p x.ref st
  else if x.left.isEmpty then
    let s := (s.restCommon p x.group x.step).setStep .RCV_GRPg_W p x.group x.step
    (((s.recordRestored x.ref).restEnd p x.ref 0).doneTry p).colForward x.group
  else s

/-- FETCH_DATA: a piece arrives, or its source has failed (R370, R373). -/
def State.fetchData (s : State) (p : Part) (r : RecHdr) (off st : Nat) (data : List Byte) : State :=
  match (vget s.rcv p).rests.find? (fun x => x.group == r.group && x.step == r.step && (x.source == 1 || x.source == 2)
      && x.asked.contains (coordNum r.sender) && x.left.any (fun e => e.1 == off)) with
  | none => s
  | some x =>
    if st ≠ 0 then s.restNoSource p x.ref
    else if x.source = 2 then s.replicaPiece x off data else s.restPiece x off data

/-- FETCH_DATA (R373). -/
def execFetchData (h : RouteHdr) (r : RecHdr) (offset status : Nat) (data : List Byte) (s : State) : Host.Outcome State Fault Refusal :=
  let p := s.groupPart r.group
  .next (if h.mtype = 0x17 ∧ (vget s.rcv p).rid ≤ r.rid then s.fetchData p r offset status data else s)

/-! ## A coordinate enters the dead table (R314, R356, R364, R368, R376) -/

/-- What the collective and recovery engines do when a physical coordinate enters the dead table: running reductions of its groups fail, any running
recovery is abandoned, a domain of which it is a member enters HOLD. -/
def State.deadEntered (s : State) (c : Coord) : State :=
  let l := s.toLog c
  let s := s.colMemberLost c
  (List.finRange 4).foldl (fun s p =>
    let s := if s.recovering p then s.abandon p 0 else s
    let s := match l with
      | some l => if (s.domainMembers p).contains (coordNum l) then s.enterHold p (some (coordNum l)) else s
      | none => s
    let s := if s.partnerLive p then s
      else s.modRcv p (fun x => { x with snaps := x.snaps.map (fun y => if y.layer = 0 then { y with acked := true } else y) })
    let s := s.snapTryAll p
    (vget s.rcv p).rests.foldl (fun s x =>
      if x.asked.any (fun m => coordNum (s.toPhys (coordOf m)) == coordNum c) then s.restNoSource p x.ref else s) s) s

/-- A peer port has gone down: its neighbour enters the dead table if it is not there yet, and one notice goes out on every other ACTIVE peer
port, each time the port goes down (R314). [DESIGN CHOICE, log 91] -/
def State.deadLink (s : State) (p : PeerPort) : State :=
  let c := s.neighbour p.val
  if coordNum c == coordNum s.ownP then s
  else
    let (s, stored) := if s.isDead c then (s, false) else s.deadAdd c 0
    let s := s.sendDead { hops := 0, coord := c, boot := s.fget Fld.GLB_BOOT_BOOT_COUNT, serial := Config.serial.toNat } p.val
    if stored then s.deadEntered c else s

/-- A DEAD_NOTICE arrives (R314). [DESIGN CHOICE, log 91] -/
def State.deadNotice (s : State) (p : PeerPort) (m : DeadMsg) : State :=
  if s.isDead m.coord || coordNum m.coord == coordNum s.ownP then s
  else
    let (s, stored) := s.deadAdd m.coord 1
    if stored then (s.sendDead { m with hops := min (m.hops + 1) 255 } p.val).deadEntered m.coord else s

/-- A write of `PER_DEADi`: a coordinate that it puts into the table has entered it (R368). [DEDUCED, log 114] -/
def State.deadPut (s : State) (i : Nat) (v : Word) : State :=
  let was := s.deads
  let s := s.deadWrite i v
  let c := s.fget Fld.PER_DEADi_COORD i
  if s.fbit Fld.PER_DEADi_VALID i && !was.contains c then s.deadEntered (coordOf c) else s

/-- DEAD_NOTICE (R314). -/
def execDeadNotice (port : PeerPort) (m : DeadMsg) (s : State) : Host.Outcome State Fault Refusal :=
  .next (if s.portActive port.val then s.deadNotice port m else s)

/-! ## GO and CENSUS (R369, R371, R375) -/

/-- The census records of this member, in ascending GROUP (R370, R371). -/
def State.censusRecs (s : State) (p : Part) : List CensusRec :=
  (s.domain p).map (fun g =>
    let x := vget s.rcv p
    let w (r : RegName) : Nat := (s.rd r g p.val).toNat
    let cs := (s.rd .COL_GRPg_CSTEP g).toNat
    { group := g, arDone := stepInt (s.colSt g).arDone == stepInt cs + 1, updated := w .RCV_GRPg_UPD, prot := w .RCV_GRPg_PROT,
      wstep := w .RCV_GRPg_W, flash := w .RCV_GRPg_FLASH, store := w .RCV_GRPg_STORE, committed := cs, epoch := s.epoch g,
      local0 := x.localStep g 0, local1 := x.localStep g 1, ward0 := x.wardStep g 0, ward1 := x.wardStep g 1,
      gx := (s.rd .PER_GRPg_X g).toNat, gy := (s.rd .PER_GRPg_Y g).toNat, gz := (s.rd .PER_GRPg_Z g).toNat,
      gctrl := (s.rd .PER_GRPg_CTRL g).toNat })

/-- The 64 bytes of a census record (R370). -/
def censusRecBytes (c : CensusRec) : List Byte :=
  leBytes 4 (c.group + b2n c.arDone * 256)
    ++ ([c.updated, c.prot, c.wstep, c.flash, c.store, c.committed, c.epoch, c.local0, c.local1, c.ward0, c.ward1, c.gx, c.gy, c.gz,
         c.gctrl] : List Nat).flatMap (leBytes 4)

/-- The census of this member. -/
def State.ownCensus (s : State) (p : Part) : CensusSt :=
  { rid := (vget s.rcv p).rid, sender := s.senderCoord, spare := (vget s.rcv p).spare,
    ward := coordOf (s.fget Fld.RCV_WARD_COORD 0 p.val), recs := s.censusRecs p }

/-! ## The plan (R371, R372) -/

/-- The record of a group in a census. -/
def CensusSt.of (c : CensusSt) (g : Nat) : CensusRec := (c.recs.find? (fun r => r.group == g)).getD default

/-- The highest complete ward copy of a group that a surviving partner holds for a coordinate; −1 for none. -/
def wardBest (cs : List CensusSt) (l g : Nat) : Int :=
  (cs.filter (fun c => !c.spare && coordNum c.ward == l)).foldl (fun m c => max m (max (stepInt (c.of g).ward0) (stepInt (c.of g).ward1))) (-1)

/-- The survivor that holds the ward copy of a step for a coordinate, in every group. -/
def wardHolder (cs : List CensusSt) (gs : List Nat) (l : Nat) (rs : Int) : Option Coord :=
  (cs.find? (fun c => !c.spare && coordNum c.ward == l
    && gs.all (fun g => stepInt (c.of g).ward0 == rs || stepInt (c.of g).ward1 == rs))).map (·.sender)

/-- The row of R371 that one group's record fits: 1 FORWARD, 2 UPDATE, 0 NONE, 3 ROLLBACK. A member that has committed RSTEP + 1 rolls
back also where it has not updated it yet (Coinciding conditions, R377). [DEDUCED, log 36] -/
def planRow (rs : Int) (c : CensusRec) : Option Nat :=
  let cm := stepInt c.committed
  let up := stepInt c.updated
  let here := stepInt c.local0 == rs || stepInt c.local1 == rs
  if cm = rs - 1 ∧ c.arDone = true then some 1
  else if cm = rs ∧ up = rs - 1 then some 2
  else if up = rs ∧ cm ≤ rs then some 0
  else if (up = rs + 1 ∨ cm = rs + 1) ∧ here = true then some 3
  else none

/-- The action of a member (R371); none where it fits no row or a copy is absent. -/
def planAct (cs : List CensusSt) (gs : List Nat) (split : Bool) (rs : Int) (c : CensusSt) : Option PlanAct :=
  let act (a : Nat) (h : Coord) : PlanAct := { coord := c.sender, action := a, replica := false, rebuild := false, wardOf := h }
  if c.spare then (wardHolder cs gs (coordNum c.sender) rs).map (act 4)
  else if split then
    if gs.all (fun g => stepInt (c.of g).local0 == rs || stepInt (c.of g).local1 == rs) then some (act 3 default) else none
  else match gs with
    | [] => none
    | g :: _ =>
      match planRow rs (c.of g) with
      | some a => if gs.all (fun k => planRow rs (c.of k) == some a) then some (act a default) else none
      | none => none

/-- REPLICA or REBUILD for the members whose weight set is not that of RSTEP after their action (R371). [DEDUCED, log 41] -/
def planWeights (cs : List CensusSt) (gs : List Nat) (rs : Int) (acts : List PlanAct) : List PlanAct :=
  let has (a : PlanAct) : Bool := a.action == 0 && match cs.find? (fun c => c.sender == a.coord) with
    | some c => gs.all (fun g => stepInt (c.of g).wstep == rs)
    | none => false
  let src := acts.any has
  acts.map (fun a => if has a then a else if src then { a with replica := true } else { a with rebuild := true })

/-- RSTEP of the main plan (R371): with lost members, the lowest of their highest ward copies; otherwise the step before the split. [DESIGN CHOICE, log 39] -/
def planStep (cs : List CensusSt) (gs : List Nat) : Int :=
  let lost := (cs.filter (·.spare)).map (fun c => coordNum c.sender)
  let low (l : List Int) : Int := l.foldl min (l.headD (-1))
  if lost.isEmpty then low (cs.flatMap (fun c => gs.map (fun g => stepInt (c.of g).updated))) - 1
  else low (lost.flatMap (fun l => gs.map (fun g => wardBest cs l g)))

/-- The main plan: RSTEP and the actions. -/
def mainPlan (cs : List CensusSt) (gs : List Nat) : Option (Nat × List PlanAct) :=
  let rs := planStep cs gs
  let split := cs.all (fun c => !c.spare)
  if rs < 0 ∨ gs = [] then none
  else (cs.mapM (planAct cs gs split rs)).map (fun acts => (rs.toNat, planWeights cs gs rs acts))

/-- The fall-back plan of a layer (R372): the lowest step in the census, for every member. A spare has made no snapshot and takes the step of the
survivors. [DEDUCED, log 114] -/
def layerPlan (cs : List CensusSt) (gs : List Nat) (action : Nat) (f : CensusRec → Nat) : Option (Nat × List PlanAct) :=
  let l := (cs.filter (fun c => !c.spare)).flatMap (fun c => gs.map (fun g => stepInt (f (c.of g))))
  let rs := l.foldl min (l.headD (-1))
  if rs < 0 then none
  else some (rs.toNat, planWeights cs gs rs (cs.map (fun c =>
    { coord := c.sender, action := action, replica := false, rebuild := false, wardOf := default })))

/-- The plan of a census (R371, R372): RSTEP, flags bit 0 FLASH and bit 1 STORE, actions. -/
def makePlan (cs : List CensusSt) (gs : List Nat) : Option (Nat × Nat × List PlanAct) :=
  match mainPlan cs gs with
  | some (rs, a) => some (rs, 0, a)
  | none => match layerPlan cs gs 5 (·.flash) with
    | some (rs, a) => some (rs, 1, a)
    | none => (layerPlan cs gs 6 (·.store)).map (fun e => (e.1, 2, e.2))

/-- The 8 bytes of an action record (R370). -/
def planActBytes (a : PlanAct) : List Byte :=
  coordBytes a.coord ++ leBytes 1 a.action ++ leBytes 1 (b2n a.replica + 2 * b2n a.rebuild) ++ coordBytes a.wardOf

/-- A member applies a PLAN (R371, R376): its action, RSTEP and the new epoch of every domain group; FORWARD commits RSTEP. -/
def State.planApply (s : State) (p : Part) (rs ep : Nat) (acts : List PlanAct) : State :=
  match acts.find? (fun a => coordNum a.coord == s.selfNum) with
  | none => s
  | some a =>
    let s := s.modRcv p (fun x => { x with plan := acts, doneSent := false, restored := false })
    let w := wSet (s.rd .RCV_STATE 0 p.val) 7 0 (3 + a.action * 8 + b2n a.replica * 64 + b2n a.rebuild * 128)
    let s := (s.wr .RCV_STATE 0 p.val w).wr .RCV_RSTEP 0 p.val (BitVec.ofNat 32 rs)
    let s := (s.domain p).foldl (fun s g => s.raiseEpoch g ep) s
    let s := s.rcvEvent p.val 0x0B02 0 (vget s.rcv p).rid (rs + a.action * 2 ^ 32 + ep % 65536 * 2 ^ 48)
    let s := if a.action = 1 then (s.domain p).foldl (fun s g => (s.colCommitSteps g rs).1) s else s
    s.doneTry p

/-- The leader plans once it holds every member's census (R371). -/
def State.planTry (s : State) (p : Part) : State :=
  let x := vget s.rcv p
  let cs := x.census.filter (fun c => c.rid == x.rid)
  let ms := s.domainMembers p
  if s.rcvState p ≠ 2 ∨ s.leader p ≠ s.selfNum ∨ ms.all (fun m => cs.any (fun c => coordNum c.sender == m)) = false then s
  else
    match makePlan cs (s.domain p) with
    | none =>
      let s := s.modRcv p (fun y => { y with census := [] })
      (s.wr .RCV_STATE 0 p.val 1).rcvEvent p.val 0x0B09 2 x.rid 0
    | some (rs, flags, acts) =>
      let ep := (cs.flatMap (fun c => c.recs.map (·.epoch))).foldl max 0 + 1
      let body := leBytes 4 rs ++ leBytes 4 ep ++ leBytes 1 flags ++ leBytes 2 acts.length ++ leBytes 5 0 ++ acts.flatMap planActBytes
      let s := s.wr .RCV_RSTEP 0 p.val (BitVec.ofNat 32 rs)
      let s := (ms.filter (· ≠ s.selfNum)).foldl (fun s m => s.sendPlan p 0x15 m body) s
      s.planApply p rs ep acts

/-- RCV_GO: a RID above the last one starts recovery and sends CENSUS to the leader; another is ignored and sets ACCESS_ERR (R369,
R371). A part not in HOLD comes as a spare for its coordinate; the coordinates that the remap table moves count as lost for it
(log 33). [DEDUCED, log 33] -/
def State.rcvGo (s : State) (p : Part) (rid : Nat) : State :=
  let x := vget s.rcv p
  if rid ≤ x.rid then s.accessErr p.val
  else
    let spare := x.spare || s.rcvState p == 0
    let moved := (s.remaps.map (fun i => s.remapLog i)).filter (fun l => (s.domainMembers p).contains l)
    let s := s.modRcv p (fun y => { y with
      rid := rid, spare := spare, lost := if spare then (y.lost ++ moved).dedup else y.lost
      census := y.census.filter (fun c => c.rid == rid), plan := [], done := [], doneSent := false, restored := false })
    let lead := decide (s.leader p = s.selfNum)
    let s := (s.wr .RCV_STATE 0 p.val (BitVec.ofNat 32 (2 + b2n lead * 256))).wr .RCV_RSTEP 0 p.val 0xFFFFFFFF
    let own := s.ownCensus p
    if lead then (s.modRcv p (fun y => { y with census := y.census ++ [own] })).planTry p
    else
      s.sendPlan p 0x14 (s.leader p) (leBytes 1 (b2n own.spare) ++ leBytes 1 own.recs.length ++ coordBytes own.ward ++ leBytes 3 0
        ++ own.recs.flatMap censusRecBytes)

/-- RCV_GO (R369). -/
def execRcvGo (p : Part) (rid : Word) (s : State) : Host.Outcome State Fault Refusal := .next (s.rcvGo p rid.toNat)

/-- The partition that a recovery message of a group, or of no group, concerns: the group's owner, else the lowest partition with a
domain (log 34). [DEDUCED, log 34] -/
def State.rcvPart (s : State) (r : RecHdr) : Part :=
  if r.group < 64 then s.groupPart r.group else ((List.finRange 4).find? (fun p => !(s.domain p).isEmpty)).getD 0

/-- CENSUS: a member's census is kept, and the leader plans once all are held; a lower RID is discarded (R369, R371). -/
def execCensus (h : RouteHdr) (r : RecHdr) (spare : Bool) (ward : Coord) (recs : List CensusRec) (s : State) :
    Host.Outcome State Fault Refusal :=
  let p := s.rcvPart r
  if h.mtype = 0x14 ∧ (vget s.rcv p).rid ≤ r.rid then
    let c : CensusSt := { rid := r.rid, sender := r.sender, spare := spare, ward := ward, recs := recs }
    .next ((s.modRcv p (fun x => { x with census := x.census.filter (fun d => d.sender != r.sender || d.rid != r.rid) ++ [c] })).planTry p)
  else .next s

/-- CENSUS_TIMEOUT: the census or the plan is late; the recovery restarts in HOLD (R375). -/
def execCensusTimeout (p : Part) (s : State) : Host.Outcome State Fault Refusal :=
  .next (if s.rcvState p = 2 then s.abandon p 2 else s)

/-- PLAN (R371). -/
def execPlan (h : RouteHdr) (r : RecHdr) (rstep epoch : Nat) (_flash _store : Bool) (acts : List PlanAct) (s : State) :
    Host.Outcome State Fault Refusal :=
  let p := s.rcvPart r
  .next (if h.mtype = 0x15 ∧ r.rid = (vget s.rcv p).rid ∧ s.rcvState p = 2 then s.planApply p rstep epoch acts else s)

/-- DONE: the leader holds a member's report (R374). -/
def execDone (h : RouteHdr) (r : RecHdr) (_prot _action : Nat) (s : State) : Host.Outcome State Fault Refusal :=
  let p := s.rcvPart r
  if h.mtype = 0x18 ∧ r.rid = (vget s.rcv p).rid ∧ s.recovering p = true then
    let n := coordNum r.sender
    .next ((s.modRcv p (fun x => { x with done := if x.done.contains n then x.done else x.done ++ [n] })).resumeTry p)
  else .next s

/-- RESUME (R374). -/
def execResume (h : RouteHdr) (r : RecHdr) (_rstep _epoch : Nat) (s : State) : Host.Outcome State Fault Refusal :=
  let p := s.rcvPart r
  .next (if h.mtype = 0x19 ∧ r.rid = (vget s.rcv p).rid ∧ s.rcvState p = 3 then s.resume p else s)

end Sys2Proof.Machine
end

