-- ==== Sys2Proof/Machine/LinkDown.lean ====
section
/-! DEFINITION. Link-down and FAIL (R285 to R289, R301, R303, R314), and the rows on which a flit is received (R273, R274). -/

namespace Sys2Proof.Machine

/-- What a port loses when its session ends: every flit it holds; messages open on a receiving VC are truncated (R287). [DEDUCED, log 49] -/
def State.dropSession (s : State) (p : PortId) (st : Nat) : State :=
  let s := (vget s.ports p).openMsg.foldl (fun s m => s.emit (.truncated p m.1)) s
  let s := s.modPort p (fun x => { x with txq := [], retry := [], openMsg := [], gap := false, session := false, retrains := 0, lockLanes := 0 })
  s.wr .LNK_Pp_STATE p.val 0 (wSet (wSet (wSet (wSet (s.rd .LNK_Pp_STATE p.val) 3 0 st) 5 4 0) 9 6 0) 17 10 0)

/-- The owner of a Euton port that went down is told by KIND 0x03 on another ACTIVE port; where none is left and this one had a session,
EUT_HOST_LOST is recorded (R301, R303). -/
def State.hostLost (s : State) (k cause : Nat) (was : Bool) : State :=
  let s := s.hostEnd k
  let q := s.portOwner k
  if 4 ≤ q then s
  else if (s.notePort q).isSome then s.note q 3 [BitVec.ofNat 8 (6 + k), BitVec.ofNat 8 cause]
  else if !was then s
  else s.event { code := 0x0921, cls := 0x00, inst := 0, sev := 2, part := q, p1 := q }

/-- A port goes down (R286, R287), whether it trains or has a session: DOWN, LNK_DOWN with its cause, and what depends on the link. A port that is down
already stays so. After FAIL it stays in FAILED, whatever is done here (R289). -/
def State.linkDown (s : State) (p : PortId) (cause : Nat) : State :=
  let was := (vget s.ports p).session
  let st := s.portState p.val
  let s := s.dropSession p (if cause = 2 ∨ st = 8 then 8 else 0)
  if !was && (st == 0 || st == 8) then s
  else
    let s := s.sqSet .LNK_Pp_STATUS p.val 0 [Fld.LNK_Pp_STATUS_DOWN] [Fld.LNK_Pp_STATUS_DOWN_CNT]
    let s := s.portEvent p 0x0902 2 p.val cause
    if h : p.val < 6 then s.deadLink ⟨p.val, h⟩ else s.hostLost (p.val - 6) cause was

/-- LOSS_OF_SIGNAL: every lane has lost signal for 100 µs (R286). -/
def execLossOfSignal (p : PortId) (s : State) : Host.Outcome State Fault Refusal :=
  .next (if 2 ≤ s.portState p.val ∧ s.portState p.val ≤ 7 then s.linkDown p 0 else s)

/-- RETRAIN_TIMEOUT: a retrain is restarted once; a second one that exceeds RETRAIN_MS takes the port down (R285, R286). -/
def execRetrainTimeout (p : PortId) (s : State) : Host.Outcome State Fault Refusal :=
  let x := vget s.ports p
  let st := s.portState p.val
  .next (if x.session = false ∨ x.retrains = 0 ∨ st = 0 ∨ st = 6 ∨ st = 8 then s
    else if x.retrains = 1 then (s.modPort p (fun y => { y with retrains := 2, eqTries := 0 })).setLnk p 7
    else s.linkDown p 1)

/-! ## Flits received -/

/-- The first copy of a FAIL flit puts the port in FAILED and takes it down (R289). -/
def State.failFlit (s : State) (p : PortId) (f : Flit) : State :=
  let s := s.linkDown p 2
  let s := s.sqSet .LNK_Pp_STATUS p.val 0 [Fld.LNK_Pp_STATUS_FAIL_RX] []
  s.portEvent p 0x0905 2 (p.val + fieldAt f.payload 1 1 * 2 ^ 8) (fieldAt f.payload 2 8)

/-- A good CTRL flit, by its code: NAK, FAIL, RETRAIN_REQ; any other is a protocol error (R274). -/
def State.ctrlFlit (s : State) (p : PortId) (f : Flit) : State :=
  match fieldAt f.payload 0 1 with
  | 1 => (s.ackHeader p f).nak p (fieldAt f.payload 1 2 % 4096)
  | 2 => s.failFlit p f
  | 4 => (s.ackHeader p f).retrainReq p (fieldAt f.payload 1 1)
  | _ => s.linkProto p f

/-- Whether a received flit is good: its codeword and its CRC, its KIND, its reserved bits (R272, R273). -/
def flitWhole (f : Flit) : Bool := f.fecOk && flitCrcOk f

/-- A flit of a good CRC on a port in ACTIVE, by its KIND; an undefined KIND or a reserved bit is a protocol error, and a DATA flit so discarded opens a
gap (R273). -/
def State.wholeFlit (s : State) (p : PortId) (f : Flit) : State :=
  if 2 < Flit_kind f || !flitReservedOk f then
    let s := s.linkProto p f
    if Flit_kind f = 1 then s.openGap p else s
  else match Flit_kind f with
    | 0 => s.takeHeader p f
    | 1 => s.dataFlit p f
    | _ => s.ctrlFlit p f

/-- What a received flit does (R273); `data` says that a flit whose CRC or codeword failed was sent as a DATA flit, which opens a gap (R276). Where
nothing else goes in return the port sends IDLE (R271). A port in RETRAIN takes a RETRAIN_REQ alone. -/
def State.rxFlit (s : State) (p : PortId) (data : Bool) (f : Flit) : State :=
  if s.portActive p.val then
    let t := if flitWhole f then s.wholeFlit p f
      else
        let t := s.countBad p f.fecOk
        if data then t.openGap p else t
    t.fillIdle s.out.length p
  else if s.portState p.val = 7 ∧ flitWhole f = true ∧ Flit_kind f = 2 ∧ flitReservedOk f = true ∧ fieldAt f.payload 0 1 = 4 then
    s.retrainReq p (fieldAt f.payload 1 1)
  else s

/-- DATA_FLIT (R278). -/
def execDataFlit (p : PortId) (f : Flit) (s : State) : Host.Outcome State Fault Refusal := .next (s.rxFlit p true f)

/-- IDLE_FLIT (R280). -/
def execIdleFlit (p : PortId) (f : Flit) (s : State) : Host.Outcome State Fault Refusal := .next (s.rxFlit p false f)

/-- NAK (R276). -/
def execNak (p : PortId) (f : Flit) (s : State) : Host.Outcome State Fault Refusal := .next (s.rxFlit p false f)

/-- RETRAIN_REQ (R284). -/
def execRetrainReq (p : PortId) (first : Flit) (rest : List Flit) (s : State) : Host.Outcome State Fault Refusal :=
  .next ((first :: rest).foldl (fun s f => s.rxFlit p false f) s)

/-- FAIL_RX (R289): the first good copy takes the port down, which then receives no more. -/
def execFailRx (p : PortId) (first second third : Flit) (s : State) : Host.Outcome State Fault Refusal :=
  .next ([first, second, third].foldl (fun s f => s.rxFlit p false f) s)

/-- A write of `LNK_FAIL_CMD` (R288): REASON 0x05 sends FAIL on every port and holds them down; 0x00 releases the ports it holds. -/
def State.failCmd (s : State) (view : Nat) (v : Word) : State :=
  let was := s.fget Fld.LNK_FAIL_CMD_REASON
  let s := s.fieldWrite view .LNK_FAIL_CMD 0 0 v (fun w => if wGet w 7 0 = 5 then w else wSet w 7 0 0)
  let now := s.fget Fld.LNK_FAIL_CMD_REASON
  if now = 5 ∧ was ≠ 5 then s.sendFail 5
  else if now = 0 then
    (List.finRange 10).foldl (fun s p =>
      if (vget s.ports p).heldFail = 5 then
        let s := s.modPort p (fun x => { x with heldFail := 0 })
        if s.portState p.val = 0 ∧ s.mayTrain p = true then s.setLnk p 1 else s
      else s) s
  else s

/-- LNK_FAIL_CMD_WRITE (R288). -/
def execLnkFailCmdWrite (v : Word) (s : State) : Host.Outcome State Fault Refusal := .next (s.failCmd 4 v)

/-- A write of `LNK_Pp_CTRL` (R282, R285, R286): setting ENABLE starts training, clearing it takes the port down, RETRAIN retrains; a
port that the image holds down keeps ENABLE 0 (R291, R310). -/
def State.lnkCtrlWrite (s : State) (view : Nat) (p : PortId) (v : Word) : State :=
  let was := s.fbit Fld.LNK_Pp_CTRL_ENABLE p.val
  let s := s.fieldWrite view .LNK_Pp_CTRL p.val 0 v (fun w =>
    let w := if p.val < 6 then w else wSet w 15 12 0
    if s.portUnused p.val then wSet w 0 0 0 else w)
  let now := s.fbit Fld.LNK_Pp_CTRL_ENABLE p.val
  let s := if was && !now then s.linkDown p 3
    else if !was && now then
      let s := s.modPort p (fun x => { x with roleSaid := false })
      if s.portState p.val == 0 && s.mayTrain p then s.setLnk p 1 else s
    else s
  if wGet v 3 3 = 1 then s.linkRetrain p else s

/-- LINK_ENABLE_WRITE (R282). -/
def execLinkEnableWrite (port : PortId) (v : Word) (s : State) : Host.Outcome State Fault Refusal := .next (s.lnkCtrlWrite 4 port v)

end Sys2Proof.Machine
end

