-- ==== Sys2Proof/Machine/Ingest.lean ====
section
/-! DEFINITION. Barge ingest (R80 to R93): streams, barges, gaps, the wharf with its weirs, halts and resumes. -/

namespace Sys2Proof.Machine

/-! ## Streams -/

/-- A stream that is not open. -/
def strIdle : StreamSt :=
  { cap := 0, mark := 0, stall := 0, film := false, bytes := [], shared := 0, reserve := 0, grant := false, rewinds := 0, eos := false
    ackOut := false, late := false, discs := [], closers := [] }

/-- A stream beside its registers. -/
def State.str (s : State) (n : Nat) : StreamSt := Sparse.get strIdle s.ing.streams n

/-- STATE of a stream (R83). -/
def State.strState (s : State) (n : Nat) : Nat := s.fget Fld.ING_STRn_STATE_STATE n

/-- NEXT and the release point of a stream. -/
def State.strNext (s : State) (n : Nat) : Nat := s.rd64 .ING_STRn_NEXT_LO .ING_STRn_NEXT_HI n
def State.strRel (s : State) (n : Nat) : Nat := s.rd64 .ING_STRn_REL_LO .ING_STRn_REL_HI n

/-- A stream's shared charge with its landing grant (R90). -/
def StreamSt.charge (x : StreamSt) : Nat := x.shared + b2n x.grant * 8192

/-- The shared and reserve charges of a die's half of the wharf (R88). -/
def State.dieCharge (s : State) (east : Bool) : Nat × Nat :=
  (s.ing.streams.filter (fun e => decide (512 ≤ e.1) == east)).foldl (fun a e => (a.1 + e.2.charge, a.2 + e.2.reserve)) (0, 0)

/-- Replace a stream's state; OCC and the pool registers show the charges. -/
def State.setStr (s : State) (n : Nat) (x : StreamSt) : State :=
  let s := { s with ing := { s.ing with streams := Sparse.set strIdle s.ing.streams n x } }
  let s := (s.fset Fld.ING_STRn_OCC_SHARED_KIB (ceilDiv x.charge 1024) n).fset Fld.ING_STRn_OCC_RESERVE_256 (ceilDiv x.reserve 256) n
  let (w, wr) := s.dieCharge false
  let (e, er) := s.dieCharge true
  (s.wr .ING_POOL_W 0 0 (BitVec.ofNat 32 (ceilDiv w 1024 + ceilDiv wr 1024 * 2 ^ 16))).wr .ING_POOL_E 0 0
    (BitVec.ofNat 32 (ceilDiv e 1024 + ceilDiv er 1024 * 2 ^ 16))

/-- The partition that owns a stream, if any. -/
def State.strOwner (s : State) (n : Nat) : Option Part := (List.finRange 4).find? (fun p => s.ownsStream p.val n)

/-- An event of an ICP: class 0x02, the die of the stream (R433). -/
def State.icpEvent (s : State) (n code sev p1 p2 : Nat) : State :=
  s.event { code := code, cls := 0x02, inst := b2n (decide (512 ≤ n)), sev := sev,
            part := match s.strOwner n with | some p => p.val | none => 0xFF, p1 := p1, p2 := p2 }

/-- A status set of a stream. -/
def State.strStatus (s : State) (n : Nat) (bits cnts : List Fld) : State := s.sqSet .ING_STRn_STATUS n 0 bits cnts

/-- Send a towpath message about a stream on its port (R93, R304). -/
def State.strSend (s : State) (n code offset : Nat) : State := s.towpath (s.fget Fld.ING_STRn_STATE_PORT n) code n offset

/-! ## Grants, halts, resumes (R89 to R92) -/

/-- Whether a landing grant succeeds (R90). -/
def State.grantOk (s : State) (n : Nat) : Bool :=
  let x := s.str n
  x.shared + 8192 ≤ x.cap * 1024 && (s.dieCharge (decide (512 ≤ n))).1 + 8192 ≤ 33554432

/-- Resume a HALTED stream where the conditions of R92 hold. -/
def State.strResume (s : State) (n : Nat) : State :=
  let x := s.str n
  if s.strState n = 3 ∧ s.fbit Fld.ING_STRn_STATE_HALT_PROG n = false ∧ x.reserve = 0 ∧ x.shared ≤ x.mark * 1024 ∧ s.grantOk n = true then
    let s := (s.setStr n { x with grant := true }).fset Fld.ING_STRn_STATE_STATE 1 n
    (s.fset Fld.ING_STRn_STATE_HALT_WHARF 0 n).strSend n 2 (s.strNext n)
  else s

/-- Shared space has been freed on a die: its halted streams resume as they can, in order of their numbers. -/
def State.dieResume (s : State) (east : Bool) : State :=
  (s.ing.streams.filter (fun e => decide (512 ≤ e.1) == east)).foldl (fun s e => s.strResume e.1) s

/-- Send HALT: the stream gives its unused grant back and awaits HALT_ACK; the space may let other streams resume (R90, R92). -/
def State.strStop (s : State) (n : Nat) : State :=
  ((s.setStr n { s.str n with grant := false, ackOut := true, late := false }).strSend n 1 0).dieResume (decide (512 ≤ n))

/-- Halt a stream: it enters STOPPING (R90, R91). -/
def State.strHalt (s : State) (n : Nat) (f : Fld) : State :=
  ((s.fset f 1 n).fset Fld.ING_STRn_STATE_STATE 2 n).strStop n

/-- Take a landing grant; where it fails, halt (R90). -/
def State.strLand (s : State) (n : Nat) : State :=
  if s.grantOk n then s.setStr n { s.str n with grant := true } else s.strHalt n Fld.ING_STRn_STATE_HALT_WHARF

/-! ## Bytes (R88, R102) -/

/-- Whether a running DECODE pins a byte of a stream (R102). -/
def State.pinned (s : State) (n o : Nat) : Bool := s.ing.decs.any (fun d => d.str == n && d.start ≤ o && o < d.stop)

/-- Free the bytes below the release point that no running DECODE pins: the reserve charge falls first (R88, R102). [DESIGN CHOICE, log 18] -/
def State.strFree (s : State) (n : Nat) : State :=
  let x := s.str n
  let rel := s.strRel n
  let keep := x.bytes.filter (fun e => rel ≤ e.1 || s.pinned n e.1)
  let f := x.bytes.length - keep.length
  let s := s.setStr n { x with bytes := keep, reserve := x.reserve - f, shared := x.shared - (f - x.reserve) }
  s.dieResume (decide (512 ≤ n))

/-- Append payload at NEXT and charge it: to shared space in RUNNING, otherwise to the weir; what would bring the reserve charge above
65,536 bytes is discarded (R88, R89). -/
def State.strAppend (s : State) (n o : Nat) (data : List Byte) : State :=
  let x := s.str n
  let run := s.strState n = 1
  let room := if run then data.length else min data.length (65536 - x.reserve)
  let took := data.take room
  let bytes := (List.range took.length).foldl (fun l i => Sparse.insert l (o + i) (took.getD i 0)) x.bytes
  let s := s.setStr n (if run then { x with bytes := bytes, shared := x.shared + room, grant := false }
    else { x with bytes := bytes, reserve := x.reserve + room })
  let s := s.wr64 .ING_STRn_NEXT_LO .ING_STRn_NEXT_HI (o + room) n
  if room < data.length then
    (s.strStatus n [Fld.ING_STRn_STATUS_OVERRUN] []).icpEvent n 0x0804 2 n (data.length - room)
  else s

/-! ## Barges (R85 to R87) -/

/-- A barge's fields (R85). -/
def bgLen (b : List Byte) : Nat := fieldAt b 4 4
def bgOff (b : List Byte) : Nat := fieldAt b 8 8
def bgStr (b : List Byte) : Nat := fieldAt b 2 2 % 1024
def bgFlag (b : List Byte) (i : Nat) : Bool := bitOf (fieldAt b 1 1) i

/-- Checks 1 to 3 of R86. -/
def bargeOk (b : List Byte) : Bool :=
  let n := bgLen b
  let body := 16 + ceilTo n 8
  1 ≤ n && n ≤ 8192 && b.length == body + 8 && fieldAt b (body + 4) 4 == n
    && fieldAt b body 4 == crc32c (b.take body)
    && fieldAt b 0 1 == 1 && fieldAt b 1 1 < 8 && fieldAt b 2 2 < 1024

/-- A barge is accepted: any gap closes, the payload lands, a discontinuity is recorded, EOS ends the stream, and a RUNNING stream takes
its next grant (R83, R87, R90). An EOS barge that the weir cuts off does not end the stream. [DESIGN CHOICE, log 48; DESIGN CHOICE, log 110] -/
def State.bargeTake (s : State) (n : Nat) (b : List Byte) (disc : Bool) : State :=
  let o := bgOff b
  let s := (s.fset Fld.ING_STRn_STATE_IN_GAP 0 n).setStr n { s.str n with rewinds := 0 }
  let s := if disc then
      ((s.setStr n { s.str n with discs := (s.str n).discs ++ [o] }).strStatus n [Fld.ING_STRn_STATUS_DISCONT] []).icpEvent n 0x0806 0 n o
    else s
  let s := s.strAppend n o ((b.drop 16).take (bgLen b))
  let s := if o < s.strRel n then s.strFree n else s
  let whole := s.strNext n == o + bgLen b
  if bgFlag b 2 && whole then
    let s := (s.strStatus n [Fld.ING_STRn_STATUS_ENDED] []).setStr n { s.str n with eos := true, grant := false }
    let s := if s.strState n = 1 ∨ s.strState n = 3 then s.fset Fld.ING_STRn_STATE_STATE 5 n else s
    s.dieResume (decide (512 ≤ n))
  else if s.strState n = 1 then s.strLand n else s

/-- R87 on a barge that has passed the checks. [DESIGN CHOICE, log 48] -/
def State.bargeOrder (s : State) (n : Nat) (b : List Byte) : State :=
  let o := bgOff b
  let next := s.strNext n
  if o = next then s.bargeTake n b (bgFlag b 1 && bgFlag b 0)
  else if bgFlag b 1 && bgFlag b 0 && next ≤ o then s.bargeTake n b true
  else if o + bgLen b ≤ next then s.strStatus n [] [Fld.ING_STRn_STATUS_DUP_CNT]
  else if s.fbit Fld.ING_STRn_STATE_IN_GAP n then s
  else
    let s := (s.fset Fld.ING_STRn_STATE_IN_GAP 1 n).setStr n { s.str n with rewinds := 1 }
    let s := (s.strSend n 3 next).strStatus n [Fld.ING_STRn_STATUS_GAP] [Fld.ING_STRn_STATUS_GAP_CNT]
    s.icpEvent n 0x0802 1 n next

/-- A barge arrives on a Euton port (R86). -/
def State.barge (s : State) (k : EPort) (b : List Byte) : State :=
  if !bargeOk b then
    let s := s.fset Fld.ING_PORTk_CNT_BAD_BARGE (s.fget Fld.ING_PORTk_CNT_BAD_BARGE k.val + 1) k.val
    s.event { code := 0x0801, cls := 0x02, inst := k.val / 2, sev := 1, part := if s.portOwner k.val < 4 then s.portOwner k.val else 0xFF,
              p1 := k.val, p2 := fieldAt b 0 8 }
  else
    let n := bgStr b
    if s.strState n = 0 || !s.ownsStream (s.portOwner k.val) n || 4 ≤ s.portOwner k.val then
      s.fset Fld.ING_PORTk_CNT_FOREIGN (s.fget Fld.ING_PORTk_CNT_FOREIGN k.val + 1) k.val
    else s.bargeOrder n b

/-- BARGE (R86). -/
def execBarge (port : EPort) (bytes : List Byte) (s : State) : Host.Outcome State Fault Refusal := .next (s.barge port bytes)

/-- REWIND_TIMEOUT: REWIND is sent up to three times, then the gap is lost (R87). -/
def State.rewindTimeout (s : State) (n : Nat) : State :=
  let x := s.str n
  if !s.fbit Fld.ING_STRn_STATE_IN_GAP n then s
  else if x.rewinds < 3 then (s.setStr n { x with rewinds := x.rewinds + 1 }).strSend n 3 (s.strNext n)
  else if x.rewinds = 3 then (s.setStr n { x with rewinds := 4 }).icpEvent n 0x0803 2 n (s.strNext n)
  else s

/-- REWIND_TIMEOUT (R87). -/
def execRewindTimeout (str : Fin 1024) (s : State) : Host.Outcome State Fault Refusal := .next (s.rewindTimeout str.val)

/-- HALT_ACK arrives (R91, R305): STOPPING becomes HALTED, or ENDED after EOS; a CLOSING stream no longer waits for it. -/
def State.haltAck (s : State) (k : EPort) (n : Nat) : State :=
  if 4 ≤ s.portOwner k.val || !s.ownsStream (s.portOwner k.val) n || !((s.strState n == 2 || s.strState n == 6) && (s.str n).ackOut) then
    s.sqSet .EUT_Ek_STATUS k.val 0 [Fld.EUT_Ek_STATUS_TP_STRAY] []
  else
    let s := s.setStr n { s.str n with ackOut := false }
    if s.strState n = 6 then s
    else if (s.str n).eos then s.fset Fld.ING_STRn_STATE_STATE 5 n
    else (s.fset Fld.ING_STRn_STATE_STATE 3 n).strResume n

/-- HALT_ACK (R91). -/
def execHaltAck (port : EPort) (str _offset : Nat) (s : State) : Host.Outcome State Fault Refusal := .next (s.haltAck port (str % 1024))

/-- ING_ACK_LATE: HALT_ACK has not arrived within HALT_ACK_MS, reported once per halt (R91). -/
def State.ackLate (s : State) (n : Nat) : State :=
  let x := s.str n
  if x.ackOut && !x.late then
    ((s.setStr n { x with late := true }).strStatus n [Fld.ING_STRn_STATUS_ACK_LATE] []).icpEvent n 0x0805 1 n 0
  else s

/-- ING_ACK_LATE (R91). -/
def execIngAckLate (str : Fin 1024) (s : State) : Host.Outcome State Fault Refusal := .next (s.ackLate str.val)

/-! ## STREAM (R81 to R84) -/

def stStr (c : Cmd) : Nat := bitsOf (cOparg c) 25 16
def stAct (c : Cmd) : Nat := cOparg c % 4

/-- The fields of OPEN are in range and reserved fields are zero (R81, R82). -/
def openOk (b : List Byte) : Bool :=
  let f (o n : Nat) : Nat := fieldAt b (64 + o) n
  1 ≤ f 0 1 && f 0 1 ≤ 5 && f 1 1 < 4 && f 2 2 < 2 && (f 2 2 == 0 || f 0 1 == 4) && 64 ≤ f 4 4 && f 4 4 ≤ 32768 && f 8 4 ≤ f 4 4
    && f 12 4 ≤ 60000 && (b.drop 88).all (· == 0)

/-- The checks of STREAM (R82): 0 or a status. -/
def State.checkStream (s : State) (p : Part) (c : Cmd) : Nat :=
  let n := stStr c
  let opn := stAct c == 0
  if cOparg c % 2 ^ 16 / 4 ≠ 0 ∨ cOparg c / 2 ^ 26 ≠ 0 ∨ (opn && !openOk c.bytes) = true then 0x0801
  else if !s.ownsStream p.val n || (opn && s.portOwner (fieldAt c.bytes 65 1) != p.val) then 0x0202
  else if opn != (s.strState n == 0) then 0x0802
  else 0

/-- OPEN (R83). -/
def State.strOpen (s : State) (n : Nat) (b : List Byte) : State :=
  let f (o k : Nat) : Nat := fieldAt b (64 + o) k
  let s := s.setStr n { strIdle with cap := f 4 4, mark := f 8 4, stall := f 12 4, film := bitOf (f 2 2) 0 }
  let s := s.wr .ING_STRn_STATE n 0 (BitVec.ofNat 32 (3 + f 1 1 * 2 ^ 6 + f 0 1 * 2 ^ 8))
  let s := (s.wr64 .ING_STRn_NEXT_LO .ING_STRn_NEXT_HI (f 16 8) n).wr64 .ING_STRn_REL_LO .ING_STRn_REL_HI (f 16 8) n
  if s.grantOk n then
    ((s.setStr n { s.str n with grant := true }).fset Fld.ING_STRn_STATE_STATE 1 n).strSend n 2 (f 16 8)
  else s.fset Fld.ING_STRn_STATE_HALT_WHARF 1 n

/-- HALT: a RUNNING stream stops; a halt in progress only takes HALT_PROG (R90, R93). An ENDED or CLOSING stream is left as it is. [DESIGN CHOICE, log 110] -/
def State.strProg (s : State) (n : Nat) : State :=
  if s.strState n = 1 then s.strHalt n Fld.ING_STRn_STATE_HALT_PROG
  else if s.strState n = 2 ∨ s.strState n = 3 then s.fset Fld.ING_STRn_STATE_HALT_PROG 1 n
  else s

/-- Whether a command is a DECODE of a stream. -/
def Cmd.decodes (c : Cmd) (n : Nat) : Bool := cOpcode c == 0x41 && fieldAt c.bytes 64 2 % 1024 == n

/-- The DECODEs of a stream in a queue that have not started fail with ING_STATE: those read, at once, those still in the ring when they are read (R84). [DESIGN CHOICE, log 110] -/
def State.closeDecodes (s : State) (p : Part) (n q : Nat) : State :=
  let s := (s.queue p.val q).cmds.foldl (fun (s : State) c =>
    if (c.phase == .admitting || c.phase == .waiting) && c.firstOk && c.readable == 0 && c.decodes n then s.complete p q c 0x0802 0 else s) s
  if s.nextSlot p.val q = s.qTail p.val q then s
  else
    let x := s.queue p.val q
    s.setQueue p.val q { x with closed := x.closed.filter (fun e => e.1 != n) ++ [(n, s.qTail p.val q)] }

/-- CLOSE: DECODEs of the stream not yet started fail with ING_STATE; a RUNNING stream is sent HALT (R84). -/
def State.strClose (s : State) (n : Nat) (r : CmdRef) : State :=
  let s := (List.range 64).foldl (fun s q => s.closeDecodes r.part n q) s
  let s := if s.strState n = 1 then s.strStop n else s
  (s.setStr n { s.str n with closers := (s.str n).closers ++ [r] }).fset Fld.ING_STRn_STATE_STATE 6 n

/-- STREAM (R81). -/
def State.stream (s : State) (r : CmdRef) (c : Cmd) : State :=
  let n := stStr c
  if (s.str n).closers.contains r then s
  else if (stAct c == 0) != (s.strState n == 0) then s.failRun r c 0x0802
  else match stAct c with
    | 0 => (s.strOpen n c.bytes).finish r c
    | 1 => (s.strProg n).finish r c
    | 2 => ((s.fset Fld.ING_STRn_STATE_HALT_PROG 0 n).strResume n).finish r c
    | _ => s.strClose n r

/-- STREAM (R81). -/
def execStream (c : CmdRef) (s : State) : Host.Outcome State Fault Refusal :=
  .next (match s.running c 0x0040 with | some d => s.stream c d | none => s)

/-- Whether a started DECODE of a stream has not completed (R84). -/
def State.decodeStarted (s : State) (n : Nat) : Bool :=
  (List.range 4).any (fun p => (List.range 64).any (fun q => (s.queue p q).cmds.any (fun c =>
    c.phase == .running && cOpcode c == 0x41 && fieldAt c.bytes 64 2 % 1024 == n)))

/-- A stream becomes CLOSED: its bytes, charges and reserve are freed; its CLOSE commands complete (R84). PORT, CODEC and the halt bits are cleared, NEXT and the
release point kept. [DESIGN CHOICE, log 48; DESIGN CHOICE, log 110] -/
def State.strClosed (s : State) (n : Nat) : State :=
  if s.strState n = 6 ∧ s.decodeStarted n = false ∧ (s.str n).ackOut = false then
    let cl := (s.str n).closers
    let s := (s.setStr n strIdle).wr .ING_STRn_STATE n 0 0
    let s := cl.foldl (fun s r => match s.running r 0x0040 with | some d => s.finish r d | none => s) s
    s.dieResume (decide (512 ≤ n))
  else s

/-- STREAM_CLOSED (R84). -/
def execStreamClosed (str : Fin 1024) (s : State) : Host.Outcome State Fault Refusal := .next (s.strClosed str.val)

end Sys2Proof.Machine
end

