-- ==== Sys2Proof/Machine/Video.lean ====
section
/-! DEFINITION. Decode to target (R94 to R111): the checks of DECODE, its wait for its span, and what its engine leaves in the staging
buffer, the result tensor and the registers. -/

namespace Sys2Proof.Machine

/-! ## Fields of DECODE (R98) -/

def dcStr (c : Cmd) : Nat := fieldAt c.bytes 64 2 % 1024
def dcCount (c : Cmd) : Nat := fieldAt c.bytes 66 1
def dcBuf (c : Cmd) : Nat := fieldAt c.bytes 68 4 % 64
def dcStart (c : Cmd) : Nat := fieldAt c.bytes 72 8
def dcEnd (c : Cmd) : Nat := fieldAt c.bytes 80 8
def dcRelease (c : Cmd) : Nat := fieldAt c.bytes 88 8
def dcDpb (c : Cmd) : Nat := fieldAt c.bytes 96 8
def dcDpbMib (c : Cmd) : Nat := fieldAt c.bytes 104 4
def dcTargets (c : Cmd) : List Nat := (List.range (dcCount c)).map (fun i => fieldAt c.bytes (128 + 2 * i) 2)

/-- Whether the reserved bytes of the second and third slot are zero. -/
def dcReserved (c : Cmd) : Bool :=
  fieldAt c.bytes 64 2 < 1024 && fieldAt c.bytes 67 1 == 0 && fieldAt c.bytes 68 4 < 64 && ((c.bytes.drop 108).take 20).all (· == 0)
    && ((c.bytes.drop (128 + 2 * min 32 (dcCount c))).take (64 - 2 * min 32 (dcCount c))).all (· == 0)

/-- Strictly increasing. -/
def rising : List Nat → Bool
  | a :: b :: t => decide (a < b) && rising (b :: t)
  | _ => true

/-- The sample descriptor of R111. -/
def parseSample (b : List Byte) : SampleDesc :=
  { id := fieldAt b 0 4, pool := fieldAt b 4 1 % 16, deint := fieldAt b 5 1 % 4, wseq := fieldAt b 8 4, index := fieldAt b 12 4
    cropX := fieldAt b 16 2, cropY := fieldAt b 18 2, cropW := fieldAt b 20 2, cropH := fieldAt b 22 2 }

/-- Whether SCRC matches and every reserved field is zero (R111). A reserved DEINT counts as a reserved
field. [DEDUCED, log 68] -/
def sampleOk (b : List Byte) : Bool :=
  fieldAt b 60 4 == crc32c (b.take 60) && fieldAt b 4 1 < 16 && fieldAt b 5 1 < 3 && fieldAt b 6 2 == 0
    && ((b.drop 24).take 36).all (· == 0)

/-! ## Pools (R114, R117) -/

/-- Settings of a pool. -/
def State.poolW (s : State) (k : Nat) : Nat := s.fget Fld.SHF_POOLp_WIN_W k
def State.poolNwin (s : State) (k : Nat) : Nat := s.fget Fld.SHF_POOLp_WIN_NWIN k
def State.poolOutW (s : State) (k : Nat) : Nat := s.fget Fld.SHF_POOLp_SHAPE_OUT_W k
def State.poolOutH (s : State) (k : Nat) : Nat := s.fget Fld.SHF_POOLp_SHAPE_OUT_H k
def State.poolFrames (s : State) (k : Nat) : Nat := s.fget Fld.SHF_POOLp_SHAPE_FRAMES k
def State.poolP (s : State) (k : Nat) : Nat := [8, 14, 16, 32].getD (s.fget Fld.SHF_POOLp_FMT_P k) 16
def State.poolT (s : State) (k : Nat) : Nat := 2 ^ s.fget Fld.SHF_POOLp_FMT_T k
def State.poolC (s : State) (k : Nat) : Nat := if s.fbit Fld.SHF_POOLp_FMT_CHANNELS k then 1 else 3
def State.poolDtype (s : State) (k : Nat) : Nat := s.fget Fld.SHF_POOLp_FMT_DTYPE k

/-- The checks of the pipeline table that a descriptor and the pool's settings alone decide (R111, R114). -/
def State.shapeOk (s : State) (d : SampleDesc) (targets : Nat) : Bool :=
  let k := d.pool
  (if d.deint = 2 then 2 * targets else targets) == s.poolFrames k && d.cropX % 2 == 0 && d.cropW % 2 == 0
    && s.poolOutW k ≤ d.cropW && d.cropW ≤ 8 * s.poolOutW k && s.poolOutH k ≤ d.cropH && d.cropH ≤ 8 * s.poolOutH k

/-! ## Checks of DECODE at step 4 -/

/-- The span checks of R99; a CLOSED stream has no share and no release point to hold the span against. -/
def State.spanBad (s : State) (c : Cmd) : Bool :=
  let n := dcStr c
  decide (dcEnd c ≤ dcStart c)
    || (s.strState n != 0 && (decide ((s.str n).cap * 1024 < dcEnd c - dcStart c) || decide (dcStart c < s.strRel n)))
    || dcCount c == 0 || decide (32 < dcCount c) || !rising (dcTargets c) || !isHbm (dcDpb c)

/-- The checks of the sample descriptor, whose bytes were captured at step 4 (R111, R469). [DEDUCED, log 19] -/
def State.checkSample (s : State) (p : Part) (c : Cmd) : Nat :=
  if cDesc c 1 = 0 then 0
  else
    let d := parseSample c.aux
    if !sampleOk c.aux then 0x0841
    else if s.poolOwner d.pool != p.val then 0x0202
    else if s.poolW d.pool ≤ d.index then 0x0208
    else if !s.shapeOk d (dcCount c) then 0x0840
    else 0

/-- The checks of DECODE before its sample descriptor (R98, R99, R109): 0 or a status. [DEDUCED, log 19] -/
def State.checkDecode (s : State) (p : Part) (c : Cmd) : Nat :=
  let n := dcStr c
  let d := c.desc 0
  if !dcReserved c || dcDpb c % 4096 != 0 || d.dtype != 0x0F || d.rank != 1 || d.dim 0 != 4 * dcCount c then 0x0208
  else if !s.ownsStream p.val n then 0x0202
  else if s.spanBad c then 0x0820
  else if s.strState n = 0 ∨ s.strState n = 6 then 0x0802
  else if !s.ownsT01 p.val (dcDpb c) (dcDpbMib c * 2 ^ 20) || s.stageOwner (dcBuf c) != p.val then 0x0202
  else 0

/-! ## Buffers and runs -/

/-- An empty staging buffer. -/
def bufIdle : BufSt := { phase := 0, sample := none, frames := [], data := [], flags := 0, held := false, engine := 0 }

/-- A staging buffer. -/
def State.buf (s : State) (b : Nat) : BufSt := Sparse.get bufIdle s.ing.bufs b

/-- Replace a staging buffer. -/
def State.setBuf (s : State) (b : Nat) (x : BufSt) : State :=
  { s with ing := { s.ing with bufs := Sparse.set bufIdle s.ing.bufs b x } }

/-- Whether a DECODE may take a buffer: it is empty or holds decoded planes without a sample (R110, R111). -/
def BufSt.free (x : BufSt) : Bool := x.phase == 0 || (x.phase == 2 && x.sample.isNone)

/-- The run of a started DECODE. -/
def State.decRun (s : State) (r : CmdRef) : Option DecRun := s.ing.decs.find? (fun d => d.ref == r)

/-- A DECODE no longer runs: its engine is free, its span no longer pinned (R94, R102). -/
def State.decEnd (s : State) (d : DecRun) : State :=
  let left := s.ing.decs.filter (fun x => x.ref != d.ref)
  let s := { s with ing := { s.ing with decs := left } }
  let s : State := match d.engine with | some m => s.wr .DEC_ENGm_STATE m 0 0 | none => s
  s.strFree d.str

/-- A failed DECODE releases its buffer and conditions nothing (R112). -/
def State.decFail (s : State) (r : CmdRef) (c : Cmd) (d : DecRun) (status : Nat) : State :=
  ((if d.hasBuf then s.setBuf d.buf bufIdle else s).decEnd d).failRun r c status

/-- Whether a started DECODE may take its staging buffer: the buffer is free, and no DECODE that started earlier waits for it (R110). -/
def State.mayTake (s : State) (r : CmdRef) (b : Nat) : Bool :=
  (s.buf b).free && (s.ing.decs.takeWhile (fun x => x.ref != r)).all (fun x => x.buf != b || x.hasBuf)

/-- A started DECODE takes its staging buffer where it can; the planes that an earlier one left there are freed (R110, R111). -/
def State.takeBuf (s : State) (r : CmdRef) (c : Cmd) : State :=
  match s.decRun r with
  | none => s
  | some d =>
    if d.hasBuf || !s.mayTake r d.buf then s
    else
      let smp := if cDesc c 1 = 0 then none else some (parseSample c.aux)
      let s := s.setBuf d.buf { bufIdle with phase := 1, sample := smp }
      let decs := s.ing.decs.map (fun (x : DecRun) => if x.ref = r then { x with hasBuf := true } else x)
      { s with ing := { s.ing with decs := decs } }

/-- DECODE: it pins its span and takes its staging buffer, or waits while that holds a sample (R102, R110). -/
def State.decode (s : State) (r : CmdRef) (c : Cmd) : State :=
  if (s.decRun r).isSome then s
  else
    let d : DecRun := { ref := r, str := dcStr c, start := dcStart c, stop := dcEnd c, buf := dcBuf c, hasBuf := false, engine := none }
    ({ s with ing := { s.ing with decs := s.ing.decs ++ [d] } }).takeBuf r c

/-- DECODE (R98). -/
def execDecode (c : CmdRef) (s : State) : Host.Outcome State Fault Refusal :=
  .next (match s.running c 0x0041 with | some d => s.decode c d | none => s)

/-- Whether the bytes of a span have arrived, or none will (R99). -/
def State.spanReady (s : State) (d : DecRun) : Bool := decide (d.stop ≤ s.strNext d.str) || (s.str d.str).eos

/-- An engine of the stream's die begins decoding, once the bytes and the buffer are there (R94, R99). [DESIGN CHOICE, log 110] -/
def State.spanStart (s : State) (r : CmdRef) (d : DecRun) (m : Nat) : State :=
  if d.engine = none ∧ d.hasBuf = true ∧ s.spanReady d = true ∧ s.ownsEngine r.part.val m = true ∧ (decide (512 ≤ d.str) == decide (16 ≤ m)) = true
      ∧ s.fbit Fld.DEC_ENGm_STATE_BUSY m = false then
    let bound := s.ing.decs.map (fun (x : DecRun) => if x.ref = r then { x with engine := some m } else x)
    let s := { s with ing := { s.ing with decs := bound } }
    s.wr .DEC_ENGm_STATE m 0 (BitVec.ofNat 32 (1 + s.fget Fld.ING_STRn_STATE_CODEC d.str * 16 + d.str * 65536))
  else s

/-- DECODE_SPAN_READY (R99). -/
def execDecodeSpanReady (c : CmdRef) (engine : Fin 32) (s : State) : Host.Outcome State Fault Refusal :=
  .next (match s.running c 0x0041 with
    | some k =>
      let s := s.takeBuf c k
      match s.decRun c with | some d => s.spanStart c d engine.val | none => s
    | none => s)

/-- DEC_STARVED: the bytes have not arrived within STALL_MS, where that limits the wait (R99). -/
def State.starved (s : State) (r : CmdRef) (c : Cmd) (d : DecRun) : State :=
  if d.engine = none ∧ s.spanReady d = false ∧ (s.str d.str).stall ≠ 0 then s.decFail r c d 0x0821 else s

/-- DEC_STARVED (R99). -/
def execDecStarved (c : CmdRef) (s : State) : Host.Outcome State Fault Refusal :=
  .next (match s.running c 0x0041, s.decRun c with | some k, some d => s.starved c k d | _, _ => s)

/-! ## What the bitstream holds (R95, R97, R100, R101) -/

/-- The bytes of a span as the stream holds them. -/
def State.spanBytes (s : State) (d : DecRun) : List (Option Byte) :=
  (List.range (d.stop - d.start)).map (fun i => Sparse.find (s.str d.str).bytes (d.start + i))

/-- The discontinuities in a span, from its start. -/
def State.spanDiscs (s : State) (d : DecRun) : List Nat :=
  ((s.str d.str).discs.filter (fun o => d.start ≤ o && o < d.stop)).map (fun o => o - d.start)

/-- Where the bytes of a span that the stream holds end: EOS may come before SPAN_END. -/
def spanEnd (span : List (Option Byte)) : Nat := span.length - (span.reverse.takeWhile (·.isNone)).length

/-- Whether a parameter set lies in the table of R95, for pictures coded in the given way. Codecs: 1 MPEG-2, 2 H.264, 3 HEVC, 4 AV1, 5 VVC. -/
def ParamSet.supported (x : ParamSet) (codec : Nat) (coding : Coding) : Bool :=
  let fits (level w h : Nat) : Bool := x.level ≤ level && x.codedW ≤ w && x.codedH ≤ h
  let ten : Bool := x.depth == 8 || x.depth == 10
  let field : Bool := coding == .progressive || (coding == .field && x.fieldSeq)
  x.plain && (match codec with
    | 1 => [.mpegMain, .mpeg422].contains x.profile && fits 4 1920 1152 && x.depth == 8 && x.chroma < 2 && coding != .mbaff
    | 2 => [.avcConstrainedBaseline, .avcMain, .avcHigh, .avcHigh10, .avcHigh422].contains x.profile && fits 52 4096 2304 && ten && x.chroma < 3
        && (x.profile != .avcConstrainedBaseline || coding == .progressive)
    | 3 => [.hevcMain, .hevcMain10, .hevcMain422].contains x.profile && fits 61 8192 4320 && ten && x.chroma < 3 && field
    | 4 => x.profile == .av1Main && fits 61 8192 4352 && ten && (x.chroma == 0 || x.chroma == 2) && coding == .progressive
    | 5 => x.profile == .vvcMain10 && fits 61 8192 4320 && ten && (x.chroma == 0 || x.chroma == 2) && field
    | _ => false)

/-- Whether a picture begins a random-access point (R97). -/
def CodedPicture.isRap (x : CodedPicture) (codec : Nat) : Bool :=
  let r := x.rap
  match codec with
  | 1 => r.seq && x.intra
  | 2 => r.sps && r.pps && (r.idr || (x.intra && r.recovery == some 0))
  | 3 => r.vps && r.sps && r.pps && (r.idr || r.cra || r.bla)
  | 4 => r.seq && r.shownKey
  | 5 => r.sps && r.pps && (r.idr || r.cra) && !r.gdr
  | _ => false

/-- Whether a picture is a reference picture (R100). -/
def CodedPicture.isRef (x : CodedPicture) (codec : Nat) : Bool :=
  match codec with
  | 1 => x.intra || x.predicted
  | 2 => x.refIdc != 0
  | 4 => x.refresh != 0
  | _ => !x.subNonRef

/-- The temporal id of a picture: 0 in MPEG-2 and H.264 (R100). -/
def CodedPicture.temporal (x : CodedPicture) (codec : Nat) : Nat := if codec < 3 then 0 else x.tid

/-- W × H × B × C of R101, for one frame. -/
def ParamSet.frameBytes (x : ParamSet) : Nat :=
  let wh := x.codedW * x.codedH * (if x.depth = 10 then 2 else 1)
  match x.chroma with | 0 => wh * 3 / 2 | 1 => wh * 2 | _ => wh

/-- The bytes of DPB that a parameter set needs (R101): D is 2 for MPEG-2 and 8 for AV1. -/
def ParamSet.dpbNeed (x : ParamSet) (codec : Nat) : Nat :=
  ((match codec with | 1 => 2 | 4 => 8 | _ => x.dpb) + 1) * x.frameBytes

/-- The luma samples of a picture: coded size, half of it for a field (R107). -/
def CodedPicture.luma (x : CodedPicture) : Nat := x.params.codedW * x.params.codedH / (if x.coding = .field then 2 else 1)

/-! ## Decoding (R100 to R106) -/

/-- What decoding a span has come to: the places of the pictures decoded, of those not decoded for an unsupported parameter set and for want of
DPB; whether a stretch is being skipped, is unsupported, or lacks DPB; the corrupt pictures and the first unsupported parameter
set, as offsets; the bytes of DPB that were needed; the luma samples decoded. -/
structure DecFound where
  good    : List Nat
  unsup   : List Nat
  starved : List Nat
  skip    : Bool
  bad     : Bool
  short   : Bool
  corrupt : List Nat
  unsupAt : Option Nat
  need    : Option Nat
  luma    : Nat
  deriving DecidableEq, Repr, Inhabited

/-- Whether a picture has a fault of R105: in its headers, a discontinuity within it, and, where it is decoded, in its body or a reference that was not decoded. [DESIGN CHOICE, log 110] -/
def CodedPicture.faulty (x : CodedPicture) (discs : List Nat) (good : List Nat) (wanted : Bool) : Bool :=
  x.badHead || discs.any (fun o => x.pos < o && o < x.stop)
    || (wanted && (x.badBody || (x.refs ++ x.shows.toList).any (fun i => !good.contains i)))

/-- The engine comes to the picture at place `i`: a random-access point ends a skipped stretch and declares parameters; a picture is decoded where it is a target or a
reference picture of a temporal id no higher than the targets'; a corrupt one begins a stretch that is skipped (R100, R101, R105, R106). A
corrupt picture that was to be decoded counts its samples, as in the worked example. [DESIGN CHOICE, log 110] -/
def decodeOne (codec dpb : Nat) (discs ts : List Nat) (top : Nat) (f : DecFound) (i : Nat) (x : CodedPicture) : DecFound :=
  if x.layer ≠ 0 ∧ (codec = 3 ∨ codec = 5) then f
  else
    let rap := x.isRap codec
    let ok := x.params.supported codec x.coding
    let f := if rap then { f with skip := false, bad := false } else f
    let f := if ok then f else { f with bad := true, unsupAt := if f.unsupAt.isNone && !f.short then some x.pos else f.unsupAt }
    let f := if rap && ok && !f.short && decide (dpb < x.params.dpbNeed codec) then { f with short := true, need := some (x.params.dpbNeed codec) } else f
    let target := x.index.any ts.contains
    let wanted := target || (x.isRef codec && x.temporal codec ≤ top)
    if f.short then { f with starved := f.starved ++ [i] }
    else if f.bad then { f with unsup := f.unsup ++ [i] }
    else if f.skip then f
    else if x.leading && x.before then f
    else if x.faulty discs f.good wanted then
      { f with skip := true, corrupt := f.corrupt ++ [x.pos], luma := f.luma + (if wanted && x.shows.isNone then x.luma else 0) }
    else if wanted then { f with good := f.good ++ [i], luma := f.luma + (if x.shows.isNone then x.luma else 0) }
    else f

/-- The places of the pictures of a target index. -/
def placesOf (ps : List CodedPicture) (t : Nat) : List Nat :=
  (List.range ps.length).filter (fun i => (ps[i]?).any (fun x => x.index == some t))

/-- The pictures that the engine reads: to that of the last target in decode order, or to the end of the bytes (R100). -/
def readTo (ps : List CodedPicture) (stop : Nat) (ts : List Nat) : Nat :=
  let n := (ps.takeWhile (fun x => x.stop ≤ stop)).length
  min n (((ts.flatMap (placesOf ps)).foldl max 0) + 1)

/-- Decode a span for its targets (R100 to R106). A span that does not begin at a random-access point decodes nothing; log 110 names the parser. -/
def decodeSpan (codec : Nat) (ps : List CodedPicture) (span : List (Option Byte)) (discs : List Nat) (dpb : Nat) (ts : List Nat) : DecFound :=
  if !(ps.head?).any (fun x => x.isRap codec && x.pos == 0) then { (default : DecFound) with corrupt := [0] }
  else
    let n := readTo ps (spanEnd span) ts
    let top := ((ps.filter (fun x => x.index.any ts.contains)).map (·.temporal codec)).foldl max 0
    (List.range n).foldl (fun f i => match ps[i]? with | some x => decodeOne codec dpb discs ts top f i x | none => f) default

/-- What decoding gives for a target before the staging buffer is considered: RESULT, and the parities of its field pictures that were decoded, top and bottom (R103 to
R106). A target whose bytes end before its last picture is BEYOND_END. [DESIGN CHOICE, log 110] -/
def targetOf (codec : Nat) (ps : List CodedPicture) (span : List (Option Byte)) (f : DecFound) (t : Nat) : Nat × Bool × Bool :=
  let own := placesOf ps t
  let has (l : List Nat) : Bool := own.any l.contains
  let at' (b : Bool) : Bool := own.any (fun i => f.good.contains i && (ps[i]?).any (fun x => x.coding != .field || x.bottom == b))
  let top := at' false
  let bottom := at' true
  if !(ps.head?).any (fun x => x.isRap codec && x.pos == 0) then (7, false, false)
  else if own.isEmpty || own.any (fun i => (ps[i]?).all (fun x => spanEnd span < x.stop)) then (2, false, false)
  else if top && bottom then (0, true, true)
  else if top || bottom then (3, top, bottom)
  else if has f.starved then (5, false, false)
  else if has f.unsup then (4, false, false)
  else (1, false, false)

/-- RESULT of each target with its fields (R103): once the staging buffer is full, every later decoded target is STAGE_SHORT. -/
def resultsOf (codec : Nat) (ps : List CodedPicture) (span : List (Option Byte)) (f : DecFound) (stage : Nat) (ts : List Nat) :
    List (Nat × Bool × Bool) :=
  (ts.foldl (fun (a : List (Nat × Bool × Bool) × Nat × Bool) t =>
    let r := targetOf codec ps span f t
    let good := r.1 == 0 || r.1 == 3
    let n := ((placesOf ps t).head?.bind (ps[·]?)).elim 0 (fun x => x.params.frameBytes)
    let full := a.2.2 || (good && decide (stage < a.2.1 + n))
    if !good then (a.1 ++ [r], a.2.1, full)
    else if full then (a.1 ++ [(6, false, false)], a.2.1, full)
    else (a.1 ++ [r], a.2.1 + n, full)) ([], 0, false)).1

/-- The 16-byte result record of a target (R103). A whole frame holds both its fields. [DEDUCED, log 68] -/
def resultRec (codec : Nat) (film : Bool) (ps : List CodedPicture) (t : Nat) (r : Nat × Bool × Bool) : List Byte :=
  let x := ((placesOf ps t).head?.bind (ps[·]?)).getD default
  let y := x.params
  let order := if x.coding = .progressive ∧ !y.fieldSeq then 0 else if x.bottomFirst then 2 else 1
  let mid := leBytes 1 (order + b2n r.2.1 * 4 + b2n r.2.2 * 8) ++ leBytes 2 y.width ++ leBytes 2 y.height ++ leBytes 1 y.depth ++ leBytes 1 y.chroma
    ++ leBytes 1 y.matrix ++ leBytes 1 (b2n y.full + b2n (film && codec == 4 && x.grain) * 2)
  leBytes 2 t ++ leBytes 1 r.1 ++ (if r.1 = 0 ∨ r.1 = 3 then mid else List.replicate 9 0)
    ++ leBytes 4 (if r.1 = 2 ∨ r.1 = 7 then 0xFFFFFFFF else x.pos)

/-- An event of a decode engine (R108). -/
def State.decEvent (s : State) (p m n code p2 : Nat) : State :=
  s.event { code := code, cls := 0x08, inst := m, sev := 1, part := p, p1 := n + m * 65536, p2 := p2 }

/-- Report a corrupt picture (R106). -/
def State.decCorrupt (s : State) (p m n o : Nat) : State :=
  (s.sqSet .DEC_ENGm_STATUS m 0 [Fld.DEC_ENGm_STATUS_CORRUPT] [Fld.DEC_ENGm_STATUS_CORRUPT_CNT]).decEvent p m n 0x0820 o

/-- The events and counters of a decode (R106, R107). -/
def State.decReport (s : State) (p m : Nat) (d : DecRun) (f : DecFound) : State :=
  let s := f.corrupt.foldl (fun s o => s.decCorrupt p m d.str (d.start + o)) s
  let s := match f.unsupAt with
    | some o => (s.sqSet .DEC_ENGm_STATUS m 0 [Fld.DEC_ENGm_STATUS_UNSUPPORTED] []).decEvent p m d.str 0x0821 (d.start + o)
    | none => s
  let s := match f.need with
    | some n => (s.sqSet .DEC_ENGm_STATUS m 0 [Fld.DEC_ENGm_STATUS_DPB_SHORT] []).decEvent p m d.str 0x0822 n
    | none => s
  let s := { s with ing := { s.ing with pixNow := Sparse.set 0 s.ing.pixNow m (Sparse.get 0 s.ing.pixNow m + f.luma) } }
  s.wr64 .DEC_ENGm_PIX_LO .DEC_ENGm_PIX_HI (s.rd64 .DEC_ENGm_PIX_LO .DEC_ENGm_PIX_HI m + f.luma) m

/-- The DPB that a decode has used: its pictures are discarded at the end, so its bytes are free values (R100, R101). Nothing decoded leaves it as it was. [DESIGN CHOICE, log 110] -/
def State.dpbLeft (s : State) (codec : Nat) (ps : List CodedPicture) (f : DecFound) (base size : Nat) : State :=
  if f.good.isEmpty then s
  else s.scramble base (min size ((f.good.map (fun i => ((ps[i]?).elim 0 (fun x => x.params.dpbNeed codec)))).foldl max 0))

/-- Release the bytes below RELEASE_TO where that is above the release point (R102). [DESIGN CHOICE, log 18] -/
def State.decRelease (s : State) (n dest : Nat) : State :=
  if s.strRel n < dest then s.wr64 .ING_STRn_REL_LO .ING_STRn_REL_HI dest n else s

/-- A running DECODE whose group has gone to a later epoch ends with CMD_STALE_EPOCH. [DEDUCED, log 47] -/
def State.staleNow (s : State) (c : Cmd) : Bool := cEpochChk c && decide (cEpoch c < s.epoch (cGroup c))

/-- The engine has decoded: result records, frames, reports, the release point (R102 to R106). -/
def State.decDone (s : State) (r : CmdRef) (c : Cmd) (d : DecRun) (m : Nat) : State :=
  let p := r.part.val
  let codec := s.fget Fld.ING_STRn_STATE_CODEC d.str
  let film := (s.str d.str).film
  let span := s.spanBytes d
  let discs := s.spanDiscs d
  let ts := dcTargets c
  let stage := (s.boot.img.staging.getD d.buf { owner := 0xFF, mib := 0 }).mib * 2 ^ 20
  let ps := Config.pictures codec span
  let dpb := dcDpbMib c * 2 ^ 20
  let f := decodeSpan codec ps span discs dpb ts
  let rs := resultsOf codec ps span f stage ts
  let recs := (List.range ts.length).map (fun i => resultRec codec film ps (ts.getD i 0) (rs.getD i (7, false, false)))
  let s := (s.decReport p m d f).dpbLeft codec ps f (dcDpb c) dpb
  let out := recs.flatMap (fun b => (List.range 4).map (fun j => ofInt (toSigned 32 (fieldAt b (4 * j) 4)) 0))
  let (s, st, lr) := s.writeTensor p (c.desc 0) 0 true ((c.desc 0).positions.zip out)
  let st := if s.staleNow c then 0x0205 else st
  if st ≠ 0 then s.decFail r c d st
  else
    let frames := (List.range ts.length).map (fun i =>
      ({ target := ts.getD i 0, recd := recs.getD i [], codec := codec, span := span } : DecFrame))
    let s := s.setBuf d.buf { s.buf d.buf with phase := 2, frames := frames }
    ((s.decRelease d.str (dcRelease c)).decEnd d).finish r (c.record (c.desc 0) lr)

/-- DECODE_COMPLETE (R103). [DESIGN CHOICE, log 7] -/
def execDecodeComplete (c : CmdRef) (s : State) : Host.Outcome State Fault Refusal :=
  .next (match s.running c 0x0041, s.decRun c with
    | some k, some d => (match d.engine with | some m => s.decDone c k d m | none => s)
    | _, _ => s)

end Sys2Proof.Machine
end

