-- ==== Sys2Proof/Machine/Shuffle.lean ====
section
/-! DEFINITION. Conditioning and the shuffle pools (R112 to R126): the pipeline, landing of samples, FEED, and the pool registers. -/

namespace Sys2Proof.Machine

/-! ## Layout (R115, R117) -/

/-- Tubelets of a sample, elements of a tubelet, bytes of an element. -/
def State.poolTubelets (s : State) (k : Nat) : Nat :=
  s.poolOutW k / s.poolP k * (s.poolOutH k / s.poolP k) * (s.poolFrames k / s.poolT k)
def State.poolTubelet (s : State) (k : Nat) : Nat := s.poolT k * s.poolP k * s.poolP k * s.poolC k
/-- The bytes of an element of a pool. -/
def State.poolElem (s : State) (k : Nat) : Nat := dtBits (s.poolDtype k) / 8

/-- The bytes of a sample, and the slot size (R115). -/
def State.sampleSize (s : State) (k : Nat) : Nat := s.poolTubelets k * s.poolTubelet k * s.poolElem k
def State.slotSize (s : State) (k : Nat) : Nat := ceilTo (s.sampleSize k) 4096

/-- BASE of a pool, its header area, its whole layout (R117). -/
def State.poolBase (s : State) (k : Nat) : Nat := s.rd64 .SHF_POOLp_BASE_LO .SHF_POOLp_BASE_HI k
def State.poolHeads (s : State) (k : Nat) : Nat := ceilTo (s.poolNwin k * s.poolW k * 32) 4096
def State.poolSize (s : State) (k : Nat) : Nat := s.poolHeads k + s.poolNwin k * s.poolW k * s.slotSize k

/-- The address of a slot, and of its header. -/
def State.poolSlot (s : State) (k r i : Nat) : Nat := s.poolBase k + s.poolHeads k + (r * s.poolW k + i) * s.slotSize k
def State.poolHead (s : State) (k r i : Nat) : Nat := s.poolBase k + (r * s.poolW k + i) * 32

/-- A ring position, where it holds a window. -/
def State.poolPos (s : State) (k r : Nat) : Option PoolPos := Sparse.find s.ing.pools (k * 8 + r)

/-- Replace a ring position. -/
def State.setPos (s : State) (k r : Nat) (x : PoolPos) : State :=
  { s with ing := { s.ing with pools := Sparse.insert s.ing.pools (k * 8 + r) x } }

/-- The owner of a pool as an event names it. -/
def State.poolPart (s : State) (k : Nat) : Nat := if s.poolOwner k < 4 then s.poolOwner k else 0xFF

/-- Whether a pool is enabled. [DESIGN CHOICE, log 40] -/
def State.poolOn (s : State) (k : Nat) : Bool := s.fbit Fld.SHF_POOLp_CTRL_ENABLE k

/-! ## The pipeline (R113, R114) -/

/-- Fields of a frame's result record. -/
def DecFrame.result (f : DecFrame) : Nat := fieldAt f.recd 2 1
def DecFrame.struc (f : DecFrame) : Nat := fieldAt f.recd 3 1
def DecFrame.width (f : DecFrame) : Nat := fieldAt f.recd 4 2
def DecFrame.height (f : DecFrame) : Nat := fieldAt f.recd 6 2
def DecFrame.depth (f : DecFrame) : Nat := fieldAt f.recd 8 1
def DecFrame.chroma (f : DecFrame) : Nat := fieldAt f.recd 9 1
def DecFrame.matrix (f : DecFrame) : Nat := fieldAt f.recd 10 1
def DecFrame.full (f : DecFrame) : Bool := bitOf (fieldAt f.recd 11 1) 0

/-- Width and height of a plane: 0 luma, 1 and 2 chroma. -/
def DecFrame.planeW (f : DecFrame) (pl : Nat) : Nat := if pl = 0 ∨ f.chroma = 2 then f.width else ceilDiv f.width 2
def DecFrame.planeH (f : DecFrame) (pl : Nat) : Nat := if pl = 0 ∨ f.chroma ≠ 0 then f.height else ceilDiv f.height 2

/-- The parity of the lines that a SINGLE_FIELD target has: its top field's are the even ones. -/
def DecFrame.present (f : DecFrame) : Nat := if bitOf f.struc 2 then 0 else 1

/-- A sample of a frame as it left the engine; the missing field of a SINGLE_FIELD target is zeros (R104). -/
def DecFrame.px (f : DecFrame) (pl x y : Nat) : Nat :=
  if f.result = 3 ∧ y % 2 ≠ f.present then 0
  else Config.decodedSample f.codec (bitOf (fieldAt f.recd 11 1) 1) f.span f.target pl (y * f.planeW pl + x)

/-- Stage 1 (R114): the frames that a target gives, each with the parity of the field it keeps. -/
def DecFrame.fields (f : DecFrame) (deint : Nat) : List (Option Nat) :=
  if f.result = 3 then (if deint = 2 then [some f.present, some f.present] else [some f.present])
  else if f.struc % 4 = 0 then (if deint = 2 then [none, none] else [none])
  else
    let first := if f.struc % 4 = 2 then 1 else 0
    match deint with | 0 => [none] | 1 => [some first] | _ => [some first, some (1 - first)]

/-- A sample after stage 1: a rebuilt line is the mean of the kept lines above and below, ties up, the edge line replicated. -/
def DecFrame.line (f : DecFrame) (keep : Option Nat) (pl x y : Nat) : Nat :=
  match keep with
  | none => f.px pl x y
  | some k =>
    if y % 2 = k then f.px pl x y
    else if y = 0 then f.px pl x (if 1 < f.planeH pl then 1 else 0)
    else if f.planeH pl ≤ y + 1 then f.px pl x (y - 1)
    else (f.px pl x (y - 1) + f.px pl x (y + 1) + 1) / 2

/-- Stage 3 (R114): chroma at a luma position, in eighths: bilinear, sample location type 0 (co-sited horizontally, halfway between lines
vertically), the edge replicated. Exact in FP32. -/
def DecFrame.chromaAt (f : DecFrame) (keep : Option Nat) (pl x y : Nat) : Nat :=
  let w := f.planeW pl
  let h := f.planeH pl
  let row (r : Nat) : Nat :=
    let a := f.line keep pl (x / 2) r
    if x % 2 = 0 then 2 * a else a + f.line keep pl (min (x / 2 + 1) (w - 1)) r
  match f.chroma with
  | 2 => 0
  | 1 => 4 * row y
  | _ => if y % 2 = 0 then row (y / 2 - 1) + 3 * row (y / 2) else 3 * row (y / 2) + row (min (y / 2 + 1) (h - 1))

/-- Clip an FP32 value to [0, 1]. -/
def clip01 (w : Word) : Word :=
  let v := f32Val w
  if v.lt (f32Val 0) then 0 else if (f32Val 0x3F800000).lt v then 0x3F800000 else w

/-- The matrix that MATRIX selects, else the pool's (R114 stage 4). -/
def matrixOf (m dflt : Nat) : Nat := match m with | 1 => 0 | 5 => 1 | 6 => 1 | 9 => 2 | _ => dflt

/-- Stage 4 at one luma position and channel. -/
def DecFrame.colourAt (f : DecFrame) (keep : Option Nat) (channels dflt x y c : Nat) : Word :=
  let rgb := channels == 3 && f.chroma != 2
  clip01 (Config.colour f.depth (matrixOf f.matrix dflt) f.full rgb (f.line keep 0 x y)
    (if rgb then f.chromaAt keep 1 x y else 0) (if rgb then f.chromaAt keep 2 x y else 0) (if rgb then c else 0))

/-- The coefficients of a phase, of the `2 * n` taps at or nearest above and below the source position: the middle one makes them sum to 16,384 (R114 stage 5). -/
def phaseTaps (crop out phase n : Nat) : List Int :=
  let l := (List.range (2 * n)).map (fun i => (Config.lanczos crop out phase).getD i 0)
  l.set (n - 1) (l.getD (n - 1) 0 + (16384 - l.foldl (· + ·) 0))

/-- The taps of one output sample on one axis: places in the frame, the edge sample replicated beyond it, and their coefficients. The source position is
(x + 0.5) × crop ÷ out − 0.5 in the crop window, at one of 64 phases between two samples; the kernel reaches 3 × crop ÷ out to each side
(R114 stage 5). [DESIGN CHOICE, log 111] -/
def axisTaps (size origin crop out x : Nat) : List (Nat × Int) :=
  let num : Int := (2 * x + 1) * crop - out
  let den : Int := 2 * max 1 out
  let p := num * 64 / den
  let p := if p * den = num * 64 ∨ Config.phaseUp num.natAbs den.natAbs = false then p else p + 1
  let n := ceilDiv (3 * crop) (max 1 out)
  let first : Int := origin + p / 64 - n + 1
  ((List.range (2 * n)).map (fun i => (min (first + i) (size - 1 : Int)).toNat)).zip (phaseTaps crop out (p % 64).toNat n)

/-- Stage 5 at one output position: an FP32 value. -/
def DecFrame.scaled (f : DecFrame) (keep : Option Nat) (d : SampleDesc) (channels dflt outW outH x y c : Nat) : Word :=
  let xs := axisTaps f.width d.cropX d.cropW outW x
  let ys := axisTaps f.height d.cropY d.cropH outH y
  let at' (i j : Nat) : Word := f.colourAt keep channels dflt i j c
  if Config.rowsFirst then Config.tapSum (ys.map (fun b => (Config.tapSum (xs.map (fun a => (at' a.1 b.1, a.2))), b.2)))
  else Config.tapSum (xs.map (fun a => (Config.tapSum (ys.map (fun b => (at' a.1 b.1, b.2))), a.2)))

/-- Stage 6: (v − MEAN) × SCALE in FP32, then the code of DTYPE under SAT (R208). -/
def normCode (dt : Nat) (sat : Bool) (mean scale : Nat) (v : Word) : Nat :=
  encodeElem dt sat (f32Val (f32Mul (f32Sub v (BitVec.ofNat 32 (mean * 65536))) (BitVec.ofNat 32 (scale * 65536))))

/-- The conditioned sample (R114, R115): tubelets in raster order (t, ty, tx), elements in the order (dt, dy, dx, c). SAT is the pool
owner's, as it stands. [DEDUCED, log 67] -/
def State.condition (s : State) (d : SampleDesc) (fs : List DecFrame) : List Byte :=
  let k := d.pool
  let frames := fs.flatMap (fun f => (f.fields d.deint).map (fun g => (f, g)))
  let w := s.poolOutW k
  let h := s.poolOutH k
  let p := s.poolP k
  let nt := s.poolT k
  let nc := s.poolC k
  let dflt := s.fget Fld.SHF_POOLp_FMT_DEFAULT_MATRIX k
  let sat := satOf (s.rd .NUM_ARITH_CFG 0 (s.poolOwner k))
  (List.range (s.poolFrames k / nt)).flatMap (fun t => (List.range (h / p)).flatMap (fun ty => (List.range (w / p)).flatMap (fun tx =>
    (List.range nt).flatMap (fun dt => (List.range p).flatMap (fun dy => (List.range p).flatMap (fun dx => (List.range nc).flatMap (fun c =>
      match frames[t * nt + dt]? with
      | none => leBytes (s.poolElem k) 0
      | some (f, g) =>
        leBytes (s.poolElem k) (normCode (s.poolDtype k) sat (s.fget Fld.SHF_POOLp_NORMc_MEAN (k * 3 + c))
          (s.fget Fld.SHF_POOLp_NORMc_SCALE (k * 3 + c))
          (f.scaled g d nc dflt w h (tx * p + dx) (ty * p + dy) c)))))))))

/-- Whether a target makes its sample a hole: RESULT, the crop window, or the evenness of the crop under 4:2:0 (R113, R111). [DEDUCED, log 68] -/
def holeTarget (d : SampleDesc) (f : DecFrame) : Bool :=
  !(f.result == 0 || f.result == 3) || decide (f.width < d.cropX + d.cropW) || decide (f.height < d.cropY + d.cropH)
    || (f.chroma == 0 && (d.cropY % 2 == 1 || d.cropH % 2 == 1))

/-- An event of a conditioning engine. -/
def State.cndEvent (s : State) (k e code sev p1 p2 : Nat) : State :=
  s.event { code := code, cls := 0x09, inst := e, sev := sev, part := s.poolPart k, p1 := p1, p2 := p2 }

/-- A conditioning engine of the buffer's die takes a decoded sample (R112, R113). -/
def State.conditionSample (s : State) (b e : Nat) : State :=
  let x := s.buf b
  match x.sample with
  | none => s
  | some d =>
    if x.phase = 2 ∧ (decide (b < 32) == decide (e < 4)) = true ∧ s.live = true then
      match x.frames.find? (holeTarget d) with
      | some f =>
        (s.setBuf b { x with phase := 3, data := [], flags := 3, engine := e }).cndEvent d.pool e 0x0840 1 (d.pool + d.index * 2 ^ 32)
          (d.wseq + f.result * 2 ^ 32)
      | none =>
        s.setBuf b { x with phase := 3, engine := e, data := s.condition d x.frames,
                            flags := 1 + b2n (x.frames.any (fun f => f.result == 3)) * 4 + b2n (d.deint == 2) * 8 }
    else s

/-- CONDITION_SAMPLE (R112). -/
def execConditionSample (buf : Fin 64) (engine : Quad) (s : State) : Host.Outcome State Fault Refusal :=
  .next (s.conditionSample buf.val engine.val)

/-! ## Landing (R118 to R120) -/

/-- Whether the release lock lets a window land. -/
def State.released (s : State) (k w : Nat) : Bool :=
  w < s.poolNwin k || w - s.poolNwin k + 1 ≤ s.lock (s.poolOwner k) (s.fget Fld.SHF_POOLp_CTRL_RELEASE_LOCK k)

/-- The first sample of a window clears every header of its ring position. -/
def State.openWindow (s : State) (k r w : Nat) : State :=
  let s := (s.writeAs (s.poolOwner k) (s.poolHead k r 0) (List.replicate (s.poolW k * 32) 0)).1
  s.setPos k r { win := w, filled := [], holes := [] }

/-- The 32 bytes of a slot header (R117). -/
def slotHeader (d : SampleDesc) (flags : Nat) : List Byte := padTo 32 (leBytes 4 d.id ++ leBytes 4 d.wseq ++ leBytes 1 flags)

/-- Fill a slot: data, header, then the fill lock (R118). Where a write of it is lost or merges with an uncorrectable word (R163, R472) the slot is not
filled: no lock is added, and a DECODE submitted again can fill it. [DEDUCED, log 68] -/
def State.fillSlot (s : State) (k r : Nat) (d : SampleDesc) (x : BufSt) (q : PoolPos) : State :=
  let p := s.poolOwner k
  let hole := bitOf x.flags 1
  let (s, st) := if hole then (s, 0) else s.writeAs p (s.poolSlot k r d.index) (x.data.take (s.slotSize k))
  let (s, st') := s.writeAs p (s.poolHead k r d.index) (slotHeader d x.flags)
  if st ≠ 0 ∨ st' ≠ 0 then s else
  let s := s.setPos k r { q with filled := NSet.insert q.filled d.index, holes := if hole then NSet.insert q.holes d.index else q.holes }
  let s := if hole then s.sqSet .SHF_POOLp_STATUS k 0 [Fld.SHF_POOLp_STATUS_HOLE] [] else s
  s.lockAdd p (s.fget Fld.SHF_POOLp_CTRL_FILL_LOCK k) 1

/-- A conditioned sample lands, or waits for the release lock, or is discarded (R118, R120). [DEDUCED, log 68] -/
def State.sampleLand (s : State) (b : Nat) : State :=
  let x := s.buf b
  match x.sample with
  | none => s
  | some d =>
    let k := d.pool
    if x.phase ≠ 3 ∨ s.poolOn k = false ∨ 4 ≤ s.poolOwner k then s
    else if !s.released k d.wseq then
      if x.held then s
      else (s.setBuf b { x with held := true }).sqSet .SHF_POOLp_STATUS k 0 [] [Fld.SHF_POOLp_STATUS_REFILL_HELD_CNT]
    else
      let r := d.wseq % max 1 (s.poolNwin k)
      let old := match s.poolPos k r with | some q => decide (d.wseq < q.win) | none => false
      let s := s.setBuf b bufIdle
      if old || s.poolW k ≤ d.index then s.cndEvent k x.engine 0x0860 1 (k + d.index * 2 ^ 32) d.wseq
      else
        let fresh := match s.poolPos k r with | some q => q.win != d.wseq | none => true
        let s := if fresh then s.openWindow k r d.wseq else s
        let q := (s.poolPos k r).getD { win := d.wseq, filled := [], holes := [] }
        if NSet.mem q.filled d.index then s.cndEvent k x.engine 0x0861 2 (k + d.index * 2 ^ 32) d.wseq
        else s.fillSlot k r d x q

/-- SAMPLE_LAND (R118). -/
def execSampleLand (buf : Fin 64) (s : State) : Host.Outcome State Fault Refusal := .next (s.sampleLand buf.val)

/-! ## The permutation (R121, R122) -/

/-- mix of R121 on 32-bit words. -/
def shfMix (x k : Nat) : Nat :=
  let x := x ^^^ k
  let x := x ^^^ (x / 2 ^ 16)
  let x := x * 0x9E3B5C27 % 2 ^ 32
  let x := x ^^^ (x / 2 ^ 13)
  let x := x * 0x6A4D18F5 % 2 ^ 32
  x ^^^ (x / 2 ^ 16)

/-- Ceiling of the base-2 logarithm. -/
def ceilLog2 (n : Nat) : Nat := if n ≤ 1 then 0 else Nat.log2 (n - 1) + 1

/-- One pass of the four rounds. -/
def permPass (h : Nat) (keys : List Nat) (u : Nat) : Nat :=
  let (l, r) := keys.foldl (fun (a : Nat × Nat) k => (a.2, a.1 ^^^ (shfMix a.2 k % 2 ^ h))) (u / 2 ^ h, u % 2 ^ h)
  l * 2 ^ h + r

/-- Walk the cycle into [0, nw). -/
def permWalk (h nw : Nat) (keys : List Nat) : Nat → Nat → Nat
  | 0, u => u
  | fuel + 1, u => let v := permPass h keys u; if v < nw then v else permWalk h nw keys fuel v

/-- π of R121. -/
def shfPerm (u nw seed pool w : Nat) : Nat :=
  let h := max 1 ((ceilLog2 nw + 1) / 2)
  let keys := (List.range 4).map (fun i => shfMix (seed ^^^ (pool * 2 ^ 24) ^^^ i) w)
  permWalk h nw keys (4 ^ h) u

/-- The slot that a position draws, and whether it was substituted (R122). -/
def drawSlot (u nw seed pool w : Nat) (holes : List Nat) : Nat × Bool :=
  match (List.range nw).find? (fun i => !NSet.mem holes (shfPerm ((u + i) % nw) nw seed pool w)) with
  | some i => (shfPerm ((u + i) % nw) nw seed pool w, i != 0)
  | none => (shfPerm u nw seed pool w, false)

/-! ## FEED (R123, R124) -/

def fdPool (c : Cmd) : Nat := cOparg c % 16
def fdFirst (c : Cmd) : Nat := fieldAt c.bytes 64 4
def fdCount (c : Cmd) : Nat := fieldAt c.bytes 68 4

/-- Samples drawn in a step. -/
def State.poolDraw (s : State) (k : Nat) : Nat := s.poolW k / max 1 (s.fget Fld.SHF_POOLp_SPW_SPW k)

/-- The checks of FEED (R123): 0 or a status. [DEDUCED, log 69] -/
def State.checkFeed (s : State) (p : Part) (c : Cmd) : Nat :=
  let k := fdPool c
  let a := c.desc 0
  let b := c.desc 1
  if 16 ≤ cOparg c ∨ ((c.bytes.drop 72).take 56).all (· == 0) = false then 0x0208
  else if s.poolOwner k != p.val then 0x0202
  else if !s.poolOn k then 0x0860
  else if fdCount c = 0 ∨ s.poolDraw k < fdFirst c + fdCount c then 0x0861
  else if a.dtype ≠ s.poolDtype k ∨ a.dim 0 ≠ s.poolTubelet k ∨ a.dim 1 ≠ fdCount c * s.poolTubelets k ∨ a.dim 2 ≠ 1 ∨ a.dim 3 ≠ 1 then 0x0840
  else if !isT0 a.base then 0x0208
  else if b.rank ≠ 0 ∧ (b.dtype ≠ 0x0F ∨ b.rank ≠ 1 ∨ b.dim 0 ≠ fdCount c) then 0x0208
  else 0

/-- The slots that a FEED draws, in position order. -/
def State.feedSlots (s : State) (c : Cmd) (q : PoolPos) : List (Nat × Bool) :=
  let k := fdPool c
  let b := s.poolDraw k
  let spw := max 1 (s.fget Fld.SHF_POOLp_SPW_SPW k)
  (List.range (fdCount c)).map (fun i =>
    drawSlot (cStep c % spw * b + fdFirst c + i) (s.poolW k) (s.fget Fld.SHF_POOLp_SEED_SEED k) k q.win q.holes)

/-- Copy the drawn slots into the output as they are, and their identities into DESC1 (R123). [DEDUCED, log 69] -/
def State.feedDraw (s : State) (r : CmdRef) (c : Cmd) (pos : Nat) (q : PoolPos) : State :=
  let p := r.part.val
  let k := fdPool c
  let slots := s.feedSlots c q
  let s := slots.foldl (fun s x => if x.2 then s.sqSet .SHF_POOLp_STATUS k 0 [Fld.SHF_POOLp_STATUS_SUBST] [Fld.SHF_POOLp_STATUS_SUBST_CNT] else s) s
  let (data, ids, s, bad) := slots.foldl (fun (a : List Byte × List Nat × State × Bool) x =>
    let (y, s) := a.2.2.1.readAs p (s.poolSlot k pos x.1) (s.sampleSize k)
    let (h, s) := if (c.desc 1).rank = 0 then (([], false), s) else s.readAs p (s.poolHead k pos x.1) 4
    (a.1 ++ y.1, a.2.1 ++ [leNat h.1], s, a.2.2.2 || y.2 || h.2)) ([], [], s, false)
  if bad then s.failRun r c 0x0701
  else
    let row := s.poolTubelet k * s.poolElem k
    let rows := (c.desc 0).rows
    let runs := (List.range rows.length).map (fun i => ((rows.getD i (0, 0)).1, (data.drop (i * row)).take row))
    let (s, st) := s.writeRuns p runs
    let a := c.desc 0
    let lr := a.positions.foldl (fun (t : LedRec) i =>
      let v := s.elemVal a (c.sw 0) i
      t.count v (codeZero a.dtype (s.elemCode a i)) (if v.isFin then 0 else 2)) { (default : LedRec) with tid := a.tid }
    let c := c.record a lr
    if (c.desc 1).rank = 0 then s.endRun r c st
    else
      let (s, st1, l1) := s.writeTensor p (c.desc 1) 0 true ((c.desc 1).positions.zip (ids.map (fun i => ofInt (toSigned 32 i) 0)))
      s.endRun r (c.record (c.desc 1) l1) (if st = 0 then st1 else st)

/-- A started FEED draws, or holds until its window is present with every slot filled (R124). -/
def State.feed (s : State) (r : CmdRef) (c : Cmd) : State :=
  let k := fdPool c
  let w := cStep c / max 1 (s.fget Fld.SHF_POOLp_SPW_SPW k)
  let pos := w % max 1 (s.poolNwin k)
  let hold : State :=
    if c.pieces = 0 then
      (s.sqSet .SHF_POOLp_STATUS k 0 [] [Fld.SHF_POOLp_STATUS_LATE_REFILL_CNT]).setCmd r.part.val r.queue.val { c with pieces := 1 }
    else s
  if !s.poolOn k then s.failRun r c 0x0860
  else match s.poolPos k pos with
    | none => hold
    | some q =>
      if w < q.win then s.failRun r c 0x0862
      else if q.win ≠ w ∨ q.filled.length < s.poolW k then hold
      else if s.poolW k ≤ q.holes.length then s.failRun r c 0x0863
      else s.feedDraw r c pos q

/-- FEED (R123). -/
def execFeed (c : CmdRef) (s : State) : Host.Outcome State Fault Refusal :=
  .next (match s.running c 0x0042 with | some d => if d.pieces = 0 then s.feed c d else s | none => s)

/-- FEED_WINDOW_READY: a FEED that held goes on (R124). -/
def execFeedWindowReady (c : CmdRef) (s : State) : Host.Outcome State Fault Refusal :=
  .next (match s.running c 0x0042 with | some d => if d.pieces = 0 then s else s.feed c d | none => s)

/-! ## Pool registers -/

/-- The pool of a register instance. -/
def poolOf (r : RegName) (inst : Nat) : Nat := if r = .SHF_POOLp_NORMc then inst / 3 else inst

/-- Whether a register is a pool's setting. -/
def isPoolReg (r : RegName) : Bool :=
  match r with
  | .SHF_POOLp_BASE_LO | .SHF_POOLp_BASE_HI | .SHF_POOLp_SHAPE | .SHF_POOLp_FMT | .SHF_POOLp_WIN | .SHF_POOLp_SPW | .SHF_POOLp_SEED
  | .SHF_POOLp_CTRL | .SHF_POOLp_NORMc => true
  | _ => false

/-- Whether an enabled pool's layout is allowed: at most 64 GiB, within its owner's HBM. -/
def State.poolFits (s : State) (k : Nat) : Bool :=
  decide (s.poolSize k ≤ 2 ^ 36) && isHbm (s.poolBase k) && s.ownsT01 (s.poolOwner k) (s.poolBase k) (s.poolSize k)

/-- The cross-field rules of the pool registers: fields other than ENABLE change only while the pool is disabled; extents round down to P, T
and SPW; ENABLE is cleared for a layout that does not fit; a non-finite SCALE takes the reset value. -/
def State.poolCross (s : State) (r : RegName) (inst : Nat) (w : Word) : Word :=
  let k := poolOf r inst
  let old := s.rd r inst
  let down (n m : Nat) : Nat := n / max 1 m * max 1 m
  match r with
  | .SHF_POOLp_CTRL =>
    let w := if s.poolOn k then wSet old 0 0 (wGet w 0 0) else w
    if s.poolFits k then w else wSet w 0 0 0
  | .SHF_POOLp_SHAPE =>
    if s.poolOn k then old
    else wSet (wSet (wSet w 11 0 (down (wGet w 11 0) (s.poolP k))) 23 12 (down (wGet w 23 12) (s.poolP k))) 29 24
      (down (wGet w 29 24) (s.poolT k))
  | .SHF_POOLp_WIN => if s.poolOn k then old else wSet w 19 0 (down (wGet w 19 0) (s.fget Fld.SHF_POOLp_SPW_SPW k))
  | .SHF_POOLp_NORMc =>
    if s.poolOn k then old else if wGet w 30 23 = 255 then wSet w 31 16 0x3F80 else w
  | _ => if s.poolOn k then old else w

/-- FEEDs of a pool that hold fail when it is disabled. -/
def State.failFeeds (s : State) (k : Nat) : State :=
  (List.finRange 4).foldl (fun (s : State) p => (List.finRange 64).foldl (fun (s : State) q =>
    (s.queue p.val q.val).cmds.foldl (fun (s : State) c =>
      match s.running ⟨p, q, c.slot⟩ 0x0042 with
      | some d => if fdPool d = k ∧ d.pieces ≠ 0 then s.failRun ⟨p, q, c.slot⟩ d 0x0860 else s
      | none => s) s) s) s

/-- After a write of a pool register: SIZE_MIB follows the settings; a pool newly enabled holds no window (log 40); holding FEEDs of a pool
newly disabled fail. [DESIGN CHOICE, log 40] -/
def State.poolAfter (s : State) (k : Nat) (was : Bool) : State :=
  let s := s.fset Fld.SHF_POOLp_SIZE_SIZE_MIB (ceilDiv (s.poolSize k) (2 ^ 20)) k
  if !was && s.poolOn k then { s with ing := { s.ing with pools := s.ing.pools.filter (fun e => e.1 / 8 != k) } }
  else if was && !s.poolOn k then s.failFeeds k
  else s

end Sys2Proof.Machine
end

