-- ==== Sys2Proof/Machine/Trust.lean ====
section
/-! DEFINITION. Firmware, licences and trust (R416 to R431): the flash directory, verification and judgement, staging, the
settings blob, licences, measurement and attestation. -/

namespace Sys2Proof.Machine

/-- Enter a boot state and record it (R398, R415). [DEDUCED, log 71] -/
def State.enterBoot (s : State) (st : Nat) : State :=
  let s := s.fset Fld.GLB_BOOT_STATE st
  let s := { s with boot := { s.boot with wasReady := s.boot.wasReady || st == 8 } }
  s.event { code := 0x0F01, cls := 0, inst := 0, sev := 0, p1 := st, p2 := s.fget Fld.GLB_BOOT_FAST }

/-- Enter FAILED and record it (R398, R415). [DEDUCED, log 71] -/
def State.enterFailed (s : State) : State := if s.bootState = 0xA then s else s.enterBoot 0xA

/-- An event of the management core. -/
def State.secEvent (s : State) (code sev p1 p2 : Nat) : State :=
  s.event { code := code, cls := 0, inst := 0, sev := sev, p1 := p1, p2 := p2 }

/-! ## Directory (R419) -/

/-- The index of the directory copy in force: the valid one with the higher SEQ. -/
def State.dirIdx (s : State) : Nat :=
  let a := s.flash.dirs.getD 0 default
  let b := s.flash.dirs.getD 1 default
  if b.valid && (!a.valid || a.seq < b.seq) then 1 else 0

/-- The directory in force. -/
def State.dir (s : State) : DirCopy := s.flash.dirs.getD s.dirIdx default

/-- Write changes into the other copy, with SEQ one higher. -/
def State.setDir (s : State) (f : DirCopy → DirCopy) : State :=
  let d := f s.dir
  { s with flash := { s.flash with dirs := s.flash.dirs.set (1 - s.dirIdx) { d with seq := s.dir.seq + 1, valid := true } } }

/-- The class record of class `c`. -/
def State.classRec (s : State) (c : Nat) : ClassRec := s.dir.recs.getD c default

/-- Change the class record of class `c`. -/
def State.setClass (s : State) (c : Nat) (f : ClassRec → ClassRec) : State :=
  s.setDir (fun d => { d with recs := d.recs.set c (f (d.recs.getD c default)) })

/-- The image in a slot's region of a class. -/
def State.classImage (s : State) (slot c : Nat) : List Byte := (s.flash.firmware.getD slot []).getD c []

/-- Replace a region of a firmware slot. -/
def State.putClassImage (s : State) (slot c : Nat) (bs : List Byte) : State :=
  { s with flash := { s.flash with firmware := s.flash.firmware.set slot ((s.flash.firmware.getD slot []).set c bs) } }

/-- The minimum SVN of a class: its fuses as raised (R422). -/
def State.minSvn (s : State) (c : Fin 6) : Nat := max (Config.minSvn c) (s.flash.svnRaised.getD c.val (0, 0)).2

/-! ## Verification (R418, R426) -/

/-- Whether a key pair matches an unrevoked root key. -/
def keyOk (idx : Nat) (rsa slh : List Byte) : Bool :=
  if h : idx < 4 then !Config.rootKeyRevoked ⟨idx, h⟩ && Config.sha384 (rsa ++ slh) == Config.rootKeyHash ⟨idx, h⟩ else false

/-- What fails in a class image: bit 0 format, 1 key, 2 signature, 3 hash, 4 SVN; 0 where it verifies (R418, R431). -/
def State.imageFault (s : State) (c : Fin 6) (b : List Byte) : Nat :=
  let bodyLen := fieldAt b 12 4
  let rsa := (b.drop 96).take 384
  let slh := (b.drop 480).take 48
  let signed := b.take 528
  let format := fieldAt b 0 4 == 0x57465653 && fieldAt b 4 1 == c.val && 1 ≤ bodyLen && bodyLen ≤ 4177168
    && fieldAt b 80 16 == 0 && 17136 + bodyLen ≤ b.length
  let key := keyOk (fieldAt b 28 4) rsa slh
  let sig := Config.rsaVerify rsa signed ((b.drop 528).take 384) && Config.slhVerify slh signed ((b.drop 912).take 16224)
  let hash := Config.sha384 ((b.drop 17136).take bodyLen) == BitVec.ofNat 384 (fieldAt b 32 48)
  let svn := s.minSvn c ≤ fieldAt b 5 1
  b2n (!format) + 2 * b2n (!key) + 4 * b2n (!sig) + 8 * b2n (!hash) + 16 * b2n (!svn)

/-- IF_VERSION of an image. -/
def imageIf (b : List Byte) : Nat := fieldAt b 6 2

/-- Whether IF_VERSION of class `y`'s image lies in the COMPAT range that class `x`'s image gives for it (R421). -/
def compatible (imgs : List (List Byte)) (x y : Nat) : Bool :=
  let a := imgs.getD x []
  let v := imageIf (imgs.getD y [])
  x == y || (fieldAt a (16 + 2 * y) 1 ≤ v && v ≤ fieldAt a (17 + 2 * y) 1)

/-- The first incompatible pair of a set, if any. -/
def incompatible (imgs : List (List Byte)) : Option (Nat × Nat) :=
  ((List.range 6).flatMap (fun a => (List.range 6).map (fun b => (a, b)))).find? (fun e => !compatible imgs e.1 e.2)

/-! ## Judgement at ROM (R421 to R424) -/

/-- Step 1: a pending image that does not verify is rejected and its class falls back to ACTIVE. -/
def State.judgePending (s : State) (c : Fin 6) : State :=
  let r := s.classRec c.val
  if r.pending then
    let f := s.imageFault c (s.classImage (1 - r.active) c.val)
    if f = 0 then s
    else (s.setClass c.val (fun r => { r with pending := false, rejected := true })).secEvent 0x0D02 2 c.val f
  else s

/-- The candidate slot of a class: its pending image, otherwise its ACTIVE image. -/
def State.candidateSlot (s : State) (c : Nat) : Nat :=
  let r := s.classRec c
  if r.pending then 1 - r.active else r.active

/-- The images of a choice of slots. -/
def State.imagesOf (s : State) (slots : List Nat) : List (List Byte) :=
  (List.range 6).map (fun c => s.classImage (slots.getD c 0) c)

/-- Boot the LKG set; where an LKG image does not verify, enter FAILED and ROM recovery (step 4). -/
def State.bootLkg (s : State) : State :=
  let lkg := (List.range 6).map (fun c => (s.classRec c).lkg)
  match (List.finRange 6).find? (fun c => s.imageFault c (s.classImage (lkg.getD c.val 0) c.val) != 0) with
  | none => { s with boot := { s.boot with booted := lkg, candidate := false } }
  | some c =>
    let s := s.enterFailed
    let s := s.secEvent 0x0D06 3 c.val 0
    { s with boot := { s.boot with booted := lkg, candidate := false, recovery := true } }

/-- FIRMWARE_JUDGEMENT (R421). A boot of the candidate set counts in ATTEMPTS, of one that is the LKG set too. [DEDUCED, log 115] -/
def State.judge (s : State) : State :=
  let s := (List.finRange 6).foldl (fun s c => s.judgePending c) s
  let cand := (List.range 6).map (fun c => s.candidateSlot c)
  let lkg := (List.range 6).map (fun c => (s.classRec c).lkg)
  let bad := (List.finRange 6).any (fun c => s.imageFault c (s.classImage (cand.getD c.val 0) c.val) != 0)
  if bad then s.bootLkg
  else match incompatible (s.imagesOf cand) with
    | some (a, b) => (s.secEvent 0x0D03 1 (a + b * 2 ^ 8) (imageIf ((s.imagesOf cand).getD b []))).bootLkg
    | none =>
      if cand ≠ lkg ∧ 3 ≤ s.dir.attempts then
        let mask := (List.range 6).foldl (fun m c => if (s.classRec c).pending then m + 2 ^ c else m) 0
        let s := s.setDir (fun d => { d with recs := d.recs.map (fun r => if r.pending then { r with pending := false, rejected := true } else r) })
        (s.secEvent 0x0D04 2 mask 0).bootLkg
      else
        let s := s.setDir (fun d => { d with attempts := d.attempts + 1 })
        { s with boot := { s.boot with booted := cand, candidate := true } }

/-- The SEC_FWc registers of the booted set (19). -/
def State.showFirmware (s : State) : State :=
  (List.range 6).foldl (fun s c =>
    let r := s.classRec c
    let b := s.classImage (s.boot.booted.getD c 0) c
    s.wr .SEC_FWc c 0 (BitVec.ofNat 32 (s.boot.booted.getD c 0 + r.lkg * 2 + b2n r.pending * 4 + b2n r.rejected * 8
      + fieldAt b 5 1 * 2 ^ 8 + imageIf b * 2 ^ 16))) s

/-- FIRMWARE_ACTIVATION (R422): the booted set becomes ACTIVE and LKG, PENDING clears and ATTEMPTS is 0. A set in which no class changes is recorded
by no event. [DEDUCED, log 115] -/
def State.activate (s : State) : State :=
  let b := s.boot.booted
  let mask := (List.range 6).foldl (fun m c => if (s.classRec c).lkg ≠ b.getD c 0 then m + 2 ^ c else m) 0
  if s.boot.candidate then
    let s := s.setDir (fun d => { d with
      recs := (List.range 6).map (fun c => { d.recs.getD c default with active := b.getD c 0, lkg := b.getD c 0, pending := false })
      attempts := 0 })
    let s := { s with boot := { s.boot with candidate := false } }
    if mask = 0 then s.showFirmware else (s.showFirmware).secEvent 0x0D05 0 mask (s.fget Fld.GLB_BOOT_BOOT_COUNT)
  else s

/-! ## Licences (R426, R427) -/

/-- What fails in a licence: bit 0 format, 1 serial, 2 signature. -/
def licenceFault (b : List Byte) : Nat :=
  let kind := fieldAt b 6 1
  let var := fieldAt b 7 1
  let format := fieldAt b 0 4 == 0x434C5653 && fieldAt b 4 2 == 1 && 17104 ≤ b.length && fieldAt b 28 36 == 0
    && ((kind == 0 && (var == 0x46 || var == 0x44 || var == 0x48)) || kind == 1)
  let serial := fieldAt b 8 8 == Config.serial.toNat
  let rsa := (b.drop 64).take 384
  let slh := (b.drop 448).take 48
  let signed := b.take 496
  let sig := keyOk (fieldAt b 24 4) rsa slh && Config.rsaVerify rsa signed ((b.drop 496).take 384)
    && Config.slhVerify slh signed ((b.drop 880).take 16224)
  b2n (!format) + 2 * b2n (!serial) + 4 * b2n (!sig)

/-- Whether a licence slot verifies. -/
def State.licenceOk (s : State) (i : Nat) : Bool :=
  let b := s.flash.licences.getD i []
  !b.isEmpty && licenceFault b == 0

/-- The verified base licence with the highest ISSUE. -/
def State.baseLicence (s : State) : Option Nat :=
  ((List.range 16).filter (fun i => s.licenceOk i && fieldAt (s.flash.licences.getD i []) 6 1 == 0)).foldl (fun best i =>
    match best with
    | none => some i
    | some j => if fieldAt (s.flash.licences.getD j []) 20 4 < fieldAt (s.flash.licences.getD i []) 20 4 then some i else some j) none

/-- The add-on features of every verified add-on (R427). -/
def State.addOns (s : State) : Nat :=
  ((List.range 16).filter (fun i => s.licenceOk i && fieldAt (s.flash.licences.getD i []) 6 1 == 1)).foldl
    (fun m i => m ||| (fieldAt (s.flash.licences.getD i []) 16 4 % 4)) 0

/-- `GLB_FEATURES` for a variant byte and add-ons (R5, R52, R427). -/
def featureWord (variant : Option Nat) (addOns : Nat) : Word :=
  match variant with
  | none => 3
  | some v =>
    let code := if v = 0x46 then 0 else if v = 0x44 then 1 else 2
    let four := bitOf addOns 0 && code != 2
    let parts := if code = 2 then 1 else if four then 15 else 3
    BitVec.ofNat 32 (code + b2n (code != 1) * 4 + b2n four * 8 + b2n (bitOf addOns 1) * 16 + parts * 2 ^ 8
      + (if code = 2 then 2 else 6) * 2 ^ 12)

/-- LICENCE_VERIFY (R427): every occupied slot that fails is recorded, and the effective feature set is fixed. -/
def State.verifyLicences (s : State) : State :=
  let s := (List.range 16).foldl (fun s i =>
    let b := s.flash.licences.getD i []
    if b.isEmpty || licenceFault b = 0 then s else s.secEvent 0x0D09 1 i (licenceFault b)) s
  let v := s.baseLicence.map (fun i => fieldAt (s.flash.licences.getD i []) 7 1)
  s.wr .GLB_FEATURES 0 0 (featureWord v s.addOns)

/-- Whether a base licence is in force (R8). -/
def State.licensed (s : State) : Bool := s.fget Fld.GLB_FEATURES_VARIANT != 3

/-! ## Measurement (R423, R428) -/

/-- The 64 bytes of a log entry (R428). -/
def measBytes (i : Nat) (m : MeasEnt) : List Byte :=
  leBytes 2 i ++ leBytes 1 m.kind ++ leBytes 1 m.cls ++ leBytes 4 m.id ++ leBytes 8 0 ++ leBytes 48 m.hash.toNat

/-- Extend the measurement log, which holds at most 64 entries. -/
def State.measure (s : State) (m : MeasEnt) : State :=
  if 64 ≤ s.boot.log.length then s
  else
    let e := measBytes s.boot.log.length m
    { s with boot := { s.boot with log := s.boot.log ++ [m], meas := Config.sha384 (leBytes 48 s.boot.meas.toNat ++ e) } }

/-- Measure the settings copy in use; defaults are no object (R425, R428). [DESIGN CHOICE, log 99] -/
def State.measureSettings (s : State) : State :=
  let c := s.flash.settings.getD s.boot.setInUse default
  if c.valid ∧ c.ver ≤ s.fget Fld.SEC_SETTINGS_SET_VERSION then
    s.measure { kind := 4, cls := s.boot.setInUse, id := 0,
                hash := Config.sha384 (Config.settingsBytes c.ver c.seq c.imageSel c.bootCfg c.saved) }
  else s

/-- Measure the Axzel image in use, or the default image (R408, R428). [DESIGN CHOICE, log 99] -/
def State.measureImage (s : State) (img : Option (List Byte)) : State :=
  match img with
  | some b => s.measure { kind := 3, cls := s.boot.imageSel, id := fieldAt b 20 4, hash := Config.sha384 b }
  | none => s.measure { kind := 3, cls := s.boot.imageSel, id := 0, hash := Config.defaultImageHash }

/-- Measure the ROM, the images that boot and the verified licences (R423, R428). [DESIGN CHOICE, log 99] -/
def State.measureBoot (s : State) : State :=
  let s := s.measure { kind := 0, cls := 0, id := 0, hash := Config.romHash }
  let s := (List.range 6).foldl (fun s c =>
    let b := s.classImage (s.boot.booted.getD c 0) c
    s.measure { kind := 1, cls := c, id := fieldAt b 8 4, hash := Config.sha384 b }) s
  (List.range 16).foldl (fun s i =>
    if s.licenceOk i then s.measure { kind := 2, cls := i, id := 0, hash := Config.sha384 ((s.flash.licences.getD i []).take 17104) } else s) s

/-! ## Settings (R425) -/

/-- The SET_VERSION of the MGC build in force. -/
def State.ownSetVersion (s : State) : Nat := Config.setVersion (fieldAt (s.classImage (s.boot.booted.getD 0 0) 0) 8 4)

/-- SETTINGS_MIGRATION (R425): the copy in use, a migration to a newer version, or defaults. -/
def State.loadSettings (s : State) : State :=
  let own := s.ownSetVersion
  let ok (c : SetCopy) : Bool := c.valid && c.ver ≤ own
  let a := s.flash.settings.getD 0 default
  let b := s.flash.settings.getD 1 default
  let useB := ok b && (!ok a || a.ver < b.ver || (a.ver = b.ver && a.seq < b.seq))
  let idx := if useB then 1 else 0
  let c := if useB then b else a
  if ok c then
    let cfg := rangeWord .GLB_BOOT_CFG (specReset .GLB_BOOT_CFG) c.bootCfg
    let s := { s with boot := { s.boot with setInUse := idx, imageSel := c.imageSel % 4 } }
    let s := (s.wr .GLB_BOOT_CFG 0 0 cfg).fset Fld.SEC_SETTINGS_SET_VERSION own
    if c.ver < own then
      let d := { c with ver := own, seq := c.seq + 1, bootCfg := cfg, imageSel := c.imageSel % 4 }
      let s := { s with flash := { s.flash with settings := s.flash.settings.set (1 - idx) d }, boot := { s.boot with setInUse := 1 - idx } }
      s.secEvent 0x0D07 0 c.ver own
    else s
  else
    let s := { s with boot := { s.boot with setInUse := 0, imageSel := 0 } }
    let s := (s.wr .GLB_BOOT_CFG 0 0 (specReset .GLB_BOOT_CFG)).fset Fld.SEC_SETTINGS_SET_VERSION own
    s.secEvent 0x0D08 1 (max (if a.valid then a.ver else 0) (if b.valid then b.ver else 0)) 0

/-- Writing SAVE stores the current values into the copy not in use (R425). -/
def State.saveSettings (s : State) : State :=
  let cur := s.flash.settings.getD s.boot.setInUse default
  let d : SetCopy := { valid := true, ver := s.fget Fld.SEC_SETTINGS_SET_VERSION, seq := cur.seq + 1, imageSel := s.boot.imageSel,
                       bootCfg := s.rd .GLB_BOOT_CFG, saved := [] }
  { s with flash := { s.flash with settings := s.flash.settings.set (1 - s.boot.setInUse) d },
           boot := { s.boot with setInUse := 1 - s.boot.setInUse } }

/-- SETTINGS_SAVE (R425). -/
def execSettingsSave (s : State) : Host.Outcome State Fault Refusal := .next s.saveSettings

/-! ## Staging (R420) -/

/-- The source address of a staging. -/
def State.stageAddr (s : State) : Nat := s.rd64 .SEC_STAGE_ADDR_LO .SEC_STAGE_ADDR_HI

/-- The region size of a staging target (19). -/
def stageRegion (target : Nat) : Nat := if target < 6 then 4194304 else if target = 8 then 4096 else 32768

/-- The cross-field rule of `SEC_STAGE_CTRL`: SLOT is clamped to the target's range. -/
def stageCross (w : Word) : Word := if wGet w 3 0 = 8 ∧ 3 < wGet w 7 4 then wSet w 7 4 3 else w

/-- The cross-field rule of `SEC_STAGE_LEN`: at most the region of the target in force. -/
def State.stageLenCross (s : State) (w : Word) : Word :=
  let m := stageRegion (s.fget Fld.SEC_STAGE_CTRL_TARGET)
  if m < wGet w 22 0 then wSet w 22 0 m else w

/-- Whether the source lies where R420 allows: memory owned by P0, or the management buffer window in ROM recovery. -/
def State.stageSourceOk (s : State) (a len : Nat) : Bool :=
  a % 64 == 0 && (if s.boot.recovery then a + len ≤ 0xF00000 else s.ownsT01 0 a len)

/-- A write of `SEC_STAGE_CTRL` (R420): START in READY, HELD or ROM recovery copies the object into its flash region; staging a
class image writes the slot that is not ACTIVE. [DEDUCED, log 94] -/
def State.secStage (s : State) (view : Nat) (v : Word) : State :=
  if wGet v 8 8 = 1 ∧ s.fbit Fld.SEC_STAGE_CTRL_BUSY = true then s.accessErr view
  else
    let s := s.fieldWrite view .SEC_STAGE_CTRL 0 0 v stageCross
    let tgt := s.fget Fld.SEC_STAGE_CTRL_TARGET
    let slot := s.fget Fld.SEC_STAGE_CTRL_SLOT
    let len := s.fget Fld.SEC_STAGE_LEN_LEN
    let a := s.stageAddr
    let phase := s.bootState == 8 || s.bootState == 9 || s.boot.recovery
    if wGet v 8 8 = 0 ∨ phase = false ∨ 1 > len ∨ stageRegion tgt < len ∨ s.stageSourceOk a len = false then s
    else
      let ((bs, bad), s) := s.readAs 4 a len
      if bad || (tgt < 6 && fieldAt bs 4 1 != tgt) then s
      else
        let s := s.fset Fld.SEC_STAGE_CTRL_BUSY 1
        let s := { s with boot := { s.boot with staging := some (tgt, slot) } }
        if tgt < 6 then s.putClassImage (1 - (s.classRec tgt).active) tgt bs
        else if tgt = 8 then { s with flash := { s.flash with images := s.flash.images.set slot bs } }
        else { s with flash := { s.flash with licences := s.flash.licences.set slot bs } }

/-- SEC_STAGE (R420): P0 through the global window, or the management core. -/
def execSecStage (r : Requester) (v : Word) (s : State) : Host.Outcome State Fault Refusal :=
  .next (match r with
    | .mgc => s.secStage 4 v
    | .part p => if p.val = 0 then s.secStage 4 v else s.accessErr p.val)

/-- Staging stops before it is done, at a power failure or a reset: the region holds a partial image, cut at a place that is free, and PENDING is
never set (R420, Coinciding conditions of 19). [DEDUCED, log 115] -/
def State.stageStop (s : State) : State :=
  match s.boot.staging with
  | none => s
  | some (tgt, slot) =>
    let (x, s) := s.draw 32
    let cut (b : List Byte) : List Byte := b.take (x.toNat % (b.length + 1))
    let s := { s with boot := { s.boot with staging := none } }
    if tgt < 6 then s.putClassImage (1 - (s.classRec tgt).active) tgt (cut (s.classImage (1 - (s.classRec tgt).active) tgt))
    else if tgt = 8 then { s with flash := { s.flash with images := s.flash.images.set slot (cut (s.flash.images.getD slot [])) } }
    else { s with flash := { s.flash with licences := s.flash.licences.set slot (cut (s.flash.licences.getD slot [])) } }

/-- STAGE_DONE: the object is read back; a class image becomes PENDING and is no longer REJECTED (R420). -/
def State.stageDone (s : State) : State :=
  match s.boot.staging with
  | none => s
  | some (tgt, _) =>
    let s := { s with boot := { s.boot with staging := none } }.fset Fld.SEC_STAGE_CTRL_BUSY 0
    if tgt < 6 then (s.setClass tgt (fun r => { r with pending := true, rejected := false })).showFirmware else s

/-- STAGE_DONE (R420). -/
def execStageDone (s : State) : Host.Outcome State Fault Refusal := .next s.stageDone

/-- Raise the fused minimum SVN of a class up to its LKG image's; after 32 rises a commit is ignored and recorded as a clamp
(R422). -/
def State.svnCommit (s : State) (view : Nat) (c : Fin 6) : State :=
  let svn := fieldAt (s.classImage (s.classRec c.val).lkg c.val) 5 1
  let e := s.flash.svnRaised.getD c.val (0, 0)
  if svn ≤ s.minSvn c then s
  else if 32 ≤ e.1 then s.clampRecord view 19 c.val 1 0 0x124 1 0
  else { s with flash := { s.flash with svnRaised := s.flash.svnRaised.set c.val (e.1 + 1, svn) } }

/-- A write of `SEC_SVN_COMMIT`: only P0's raises a minimum (R422). -/
def State.svnWrite (s : State) (r : Requester) (view : Nat) (v : Word) : State :=
  match r with
  | .mgc => s
  | .part _ => (List.finRange 6).foldl (fun s c => if bitOf v.toNat c.val then s.svnCommit view c else s) s

/-- SEC_SVN_COMMIT (R422): P0 writes it. -/
def execSecSvnCommit (r : Requester) (v : Word) (s : State) : Host.Outcome State Fault Refusal :=
  .next (match r with
    | .mgc => s.svnWrite r 4 v
    | .part p => if p.val = 0 then s.svnWrite r 4 v else s.accessErr p.val)

/-! ## Attestation (R430) -/

/-- GO in a view: the request is queued (R430). -/
def State.attestGo (s : State) (view : Nat) : State :=
  if s.fbit Fld.SEC_ATTEST_CTRL_BUSY 0 view then s
  else { s with boot := { s.boot with attest := s.boot.attest ++ [view] } }.fset Fld.SEC_ATTEST_CTRL_BUSY 1 0 view

/-- ATTEST_GO (R430). -/
def execAttestGo (v : View) (s : State) : Host.Outcome State Fault Refusal := .next (s.attestGo (viewIdx v))

/-- The nonce of a view. -/
def State.nonce (s : State) (view : Nat) : List Byte :=
  (List.range 8).flatMap (fun i => leBytes 4 (s.rd .SEC_NONCEi i view).toNat)

/-- The report of a view (R430): 128 bytes of facts, the log, the two signatures over everything before them, the certificate.
The order within the 128 bytes is the order of the rule's list (log 17). [DESIGN CHOICE, log 17] -/
def State.reportBytes (s : State) (view : Nat) : List Byte :=
  let head := padTo 128 (leBytes 4 0x54415653 ++ leBytes 2 Config.reportVersion ++ leBytes 2 (s.fget Fld.GLB_BOOT_BOOT_COUNT)
    ++ leBytes 8 Config.serial.toNat ++ s.nonce view ++ leBytes 48 s.boot.meas.toNat ++ leBytes 2 s.boot.log.length)
  let log := ((List.range s.boot.log.length).flatMap (fun i => measBytes i (s.boot.log.getD i default)))
  let body := head ++ log
  body ++ (Config.deviceRsaSign body).toList ++ (Config.deviceSlhSign body).toList ++ s.flash.cert

/-- REPORT_SIGNED: the oldest request is served once bring-up has ended (R430). -/
def State.reportSigned (s : State) : State :=
  match s.boot.attest with
  | [] => s
  | view :: rest =>
    if s.bootState < 8 then s
    else
      let b := s.reportBytes view
      let s := { s with boot := { s.boot with attest := rest, report := Sparse.insert s.boot.report view b } }
      let s := (s.fset Fld.SEC_ATTEST_CTRL_BUSY 0 0 view).fset Fld.SEC_ATTEST_CTRL_LEN b.length 0 view
      s.event { code := 0x0D0A, cls := 0, inst := 0, sev := 0, part := if view < 4 then view else 0xFF, p1 := view, p2 := b.length }

/-- REPORT_SIGNED (R430). -/
def execReportSigned (s : State) : Host.Outcome State Fault Refusal := .next s.reportSigned

end Sys2Proof.Machine
end

