-- ==== Sys2Proof/Machine/Thermal.lean ====
section
/-! DEFINITION. Power and heat (R379 to R396) and the upkeep of the stacks (R160, R161, R166, R168). -/

namespace Sys2Proof.Machine

/-! ## Thermal states and failing fast -/

/-- The thermal state after a reading (R166, R392): the highest state whose entry threshold is reached; a lower reading lets
the state fall one level once it is 3 °C below the entry threshold of the current state. [DEDUCED, log 28] -/
def thermState (warm hot crit cur t : Nat) : Nat :=
  let reached := if crit ≤ t then 3 else if hot ≤ t then 2 else if warm ≤ t then 1 else 0
  let enter := match cur with | 0 => 0 | 1 => warm | 2 => hot | _ => crit
  if cur ≤ reached then reached else if t + 3 < enter then cur - 1 else cur

/-- Stop every command at once, put every stack into self-refresh, and enter FAILED (R166, R392, R460). -/
def State.stopAll (s : State) : State :=
  let s := { s with queues := [], hbm := s.hbm.map (fun x : StackSt => ({ x with selfRef := true } : StackSt)) }
  s.enterFailed

/-- A stack has turned critical: warm reset is held off until every stack is below 95 °C (R166). [DEDUCED, log 73] -/
def State.holdReset (s : State) : State := { s with pwr := { s.pwr with critHold := true } }

/-- A quadrant has turned critical: warm reset is held off until every quadrant is below 95 °C (R392). [DEDUCED, log 73] -/
def State.holdResetDie (s : State) : State := { s with pwr := { s.pwr with critDie := true } }

/-- An event of the power manager (R397, R433). -/
def State.pwrEvent (s : State) (code sev p1 p2 : Nat) : State :=
  s.event { code := code, cls := 0x0D, inst := 0, sev := sev, p1 := p1, p2 := p2 }

/-- Bits [2n+1:2n] of QUAD in `PWR_THERM_STATE`. -/
def State.quadState (s : State) (n : Nat) : Nat := s.fget Fld.PWR_THERM_STATE_QUAD / 4 ^ n % 4

/-- Set the state of a quadrant. -/
def State.setQuad (s : State) (n st : Nat) : State :=
  let q := s.fget Fld.PWR_THERM_STATE_QUAD
  s.fset Fld.PWR_THERM_STATE_QUAD (q - q / 4 ^ n % 4 * 4 ^ n + st * 4 ^ n)

/-- Entry of a quadrant into a thermal state (R392): hot sets the die target to V-step 0, critical fails fast with REASON 0x02. -/
def State.enterDie (s : State) (n : Quad) (t st : Nat) : State :=
  match st with
  | 1 => (s.sqSet .PWR_STATUS 0 0 [Fld.PWR_STATUS_DIE_WARM] []).pwrEvent 0x0C05 0 n.val t
  | 2 =>
    let s := { s with pwr := { s.pwr with dieT := vset s.pwr.dieT n 0 } }
    (s.sqSet .PWR_STATUS 0 0 [Fld.PWR_STATUS_DIE_HOT] []).pwrEvent 0x0C06 1 n.val t
  | 3 =>
    let s := s.sendFail 2
    (s.stopAll.holdResetDie).eventFail { code := 0x0C07, cls := 0x0D, inst := 0, sev := 3, p1 := n.val, p2 := t } 2
  | _ => s

/-- One quadrant's temperature is read (R392). -/
def State.dieSample (s : State) (n : Quad) (t : Nat) : State :=
  let cur := s.quadState n.val
  let st := thermState 95 102 110 cur t
  let s := { s with pwr := { s.pwr with quadTemp := vset s.pwr.quadTemp n t } }
  let s := s.setQuad n.val st
  (List.range 4).foldl (fun s l => if cur < l ∧ l ≤ st then s.enterDie n t l else s) s

/-- DIE_TEMP_SAMPLE (R392): the readings by quadrant. -/
def execDieTempSample (temps : List Nat) (s : State) : Host.Outcome State Fault Refusal :=
  .next ((List.finRange 8).foldl (fun s n => s.dieSample n (temps.getD n.val 0)) s)

/-- Entry of a stack into a thermal state (R166): critical fails fast with REASON 0x01. -/
def State.enterStack (s : State) (n : Quad) (t st : Nat) : State :=
  match st with
  | 1 => s.hbmEvent n 0x0707 0 n.val t
  | 2 => s.hbmEvent n 0x0708 1 n.val t
  | 3 =>
    let s := s.sendFail 1
    (s.stopAll.holdReset).eventFail { code := 0x0709, cls := 5, inst := n.val, sev := 3, p1 := n.val, p2 := t } 1
  | _ => s

/-- HBM_TEMP_SAMPLE: a stack's temperature is read (R166). -/
def State.hbmSample (s : State) (n : Quad) (t : Nat) : State :=
  let cur := s.fget Fld.HBM_STACKn_TEMP_STATE n.val
  let st := thermState 88 95 100 cur t
  let s := s.fset Fld.HBM_STACKn_TEMP_TEMP (min t 255) n.val
  let s := s.fset Fld.HBM_STACKn_TEMP_PEAK (max (min t 255) (s.fget Fld.HBM_STACKn_TEMP_PEAK n.val)) n.val
  let s := s.fset Fld.HBM_STACKn_TEMP_STATE st n.val
  (List.range 4).foldl (fun s l => if cur < l ∧ l ≤ st then s.enterStack n t l else s) s

/-- HBM_TEMP_SAMPLE (R166). -/
def execHbmTempSample (n : Quad) (t : Nat) (s : State) : Host.Outcome State Fault Refusal := .next (s.hbmSample n t)

/-! ## Upkeep of the stacks -/

/-- A bank's refresh falls due (R161): behind foreground traffic it is postponed, up to the JEDEC limit; otherwise it is issued, and nothing of it
stays postponed. -/
def State.refresh (s : State) (n : Quad) (bank : Nat) (postpone : Bool) : State :=
  let x := vget s.hbm n
  let k := Sparse.get 0 x.postponed bank
  s.setStack n { x with postponed :=
    if postpone = true ∧ k < Config.refreshPostpone then Sparse.insert x.postponed bank (k + 1) else Sparse.erase x.postponed bank }

/-- REFRESH (R161). -/
def execRefresh (n : Quad) (b : BankPlace) (postpone : Bool) (s : State) : Host.Outcome State Fault Refusal :=
  .next (s.refresh n (b.pseudo * 64 + b.bank) postpone)

/-- CALIBRATION: past its deadline a domain's calibration pre-empts foreground traffic: CAL_PREEMPT (R161). -/
def execCalibration (n : Quad) (_d : Fin 4) (s : State) : Host.Outcome State Fault Refusal :=
  .next (s.sqSet .HBM_STACKn_STATUS n.val 0 [Fld.HBM_STACKn_STATUS_CAL_PREEMPT] [])

/-- A word fails (R157): its symbols in error are noted. An error of three or more symbols escapes detection with probability at most 2⁻³², and the
word then holds undefined bytes. [DEDUCED, log 23] -/
def State.failWord (s : State) (h : ScrubHit) : State :=
  let w := h.addr / 64
  if h.symbols = 0 ∨ NSet.mem s.mem.poison w = true ∨ s.retiredAt h.addr = true then s
  else
    let note (s : State) : State := { s with mem := { s.mem with errs := Sparse.insert s.mem.errs w h.symbols } }
    if h.symbols < 3 then note s
    else
      let (x, s) := s.draw 32
      if x = 0 then
        let (bs, s) := s.drawBytes 64
        (List.range 64).foldl (fun s i => s.putByte (w * 64 + i) (bs.getD i 0)) s
      else note s

/-- What a scrub pass does with one word in error (R158, R159, R162): a row in which the pass before found a correctable error too becomes a
candidate. The rows with a correctable error gather in the list. -/
def State.scrubWord (s : State) (n : Quad) (seen : List RowHit) (w : Nat) : State × List RowHit :=
  let h := placeOf (w * 64)
  match Sparse.find s.mem.errs w with
  | none => (s, seen)
  | some k =>
    if 1 < k then (s.wordUe w, seen)
    else
      let s := s.wordCe w
      let s := if (vget s.hbm n).scrubCe.any (sameRow · h) && !seen.any (sameRow · h) then s.rowCandidate n h false else s
      (s, seen ++ [h])

/-- SCRUB: a pass of a stack in idle time, which reads every word and finds those in error; one that overruns by 10 % sets SCRUB_LATE and records
HBM_SCRUB_LATE (R161). [DEDUCED, log 23] -/
def State.scrub (s : State) (n : Quad) (hits : List ScrubHit) (late : Bool) : State :=
  let hits := hits.filter (fun h => isHbm h.addr && stackOf h.addr == n)
  let s := (hits.filter (·.seen)).foldl (fun s h => s.failWord h) s
  let r := ((s.mem.errs.map (·.1)).filter (fun w => isHbm (w * 64) && stackOf (w * 64) == n)).foldl
    (fun a w => a.1.scrubWord n a.2 w) (s, [])
  let s := r.1.setStack n { vget r.1.hbm n with scrubCe := r.2 }
  let s := (hits.filter (fun h => !h.seen)).foldl (fun s h => s.failWord h) s
  if late then
    (s.sqSet .HBM_STACKn_STATUS n.val 0 [Fld.HBM_STACKn_STATUS_SCRUB_LATE] []).hbmEvent n 0x0706 1 n.val 0
  else s

/-- SCRUB (R161). -/
def execScrub (n : Quad) (hits : List ScrubHit) (late : Bool) (s : State) : Host.Outcome State Fault Refusal :=
  .next (s.scrub n hits late)

/-- Lose the contents of a stack: undefined afterwards, read as unlisted memory (R168, log 2). [DESIGN CHOICE, log 2] -/
def State.wipeStack (s : State) (n : Nat) : State :=
  let lo := hbmBase + n * 0x2000000000
  let inside (a : Nat) : Bool := lo ≤ a && a < lo + 0x2000000000
  { s with mem := { s.mem with
    cells := s.mem.cells.filter (fun c => !inside c.1)
    poison := s.mem.poison.filter (fun w => !inside (w * 64))
    errs := s.mem.errs.filter (fun e => !inside (e.1 * 64)) } }

/-- A write of `HBM_MARGIN_CTRL`: START is clamped to 0 after READY; before it, a sweep starts and destroys the contents of the
stack, and START reads 1 until the sweep ends (R168). [DESIGN CHOICE, log 97] -/
def State.marginWrite (s : State) (view : Nat) (v : Word) : State :=
  let after := s.boot.wasReady
  let busy := s.fbit Fld.HBM_MARGIN_CTRL_START
  let s := s.fieldWrite view .HBM_MARGIN_CTRL 0 0 v (fun w => if after then wSet w 0 0 0 else if busy then wSet w 0 0 1 else w)
  if s.fbit Fld.HBM_MARGIN_CTRL_START && wGet v 0 0 == 1 then s.wipeStack (s.fget Fld.HBM_MARGIN_CTRL_STACK) else s

/-- HBM_MARGIN_START: a write of `HBM_MARGIN_CTRL` by P0 in the global window or the management core (R168). -/
def execHbmMarginStart (r : Requester) (v : Word) (s : State) : Host.Outcome State Fault Refusal :=
  .next (match r with
    | .mgc => s.marginWrite 4 v
    | .part p => if p.val = 0 then s.marginWrite 4 v else s.accessErr p.val)

/-- HBM_MARGIN_SWEEP_END: START returns to 0 and the results of the 32 channels are written (R168). -/
def execHbmMarginSweepEnd (results : List (Nat × Nat)) (s : State) : Host.Outcome State Fault Refusal :=
  .next (if s.fbit Fld.HBM_MARGIN_CTRL_START then
    (List.range 32).foldl (fun s k =>
      let e := results.getD k (0, 0)
      s.wr .HBM_MARGIN_RESk k 0 (BitVec.ofNat 32 (min e.1 255 + min e.2 255 * 256))) (s.fset Fld.HBM_MARGIN_CTRL_START 0)
  else s)

/-! ## Rails -/

/-- The V-step read back on a rail. -/
def State.vstep (s : State) (r : Nat) : Nat := s.fget Fld.PWR_RAILr_VSTEP r

/-- Whether an array is owned by a partition. -/
def State.arrOwned (s : State) (n : Nat) : Bool := s.arrOwner n < 4

/-- The cap target of an array rail, which keeps its floor ARR_VMIN (R387, R388). -/
def State.capTarget (s : State) (n : Quad) : Nat := max (vget s.pwr.capT n) (s.fget Fld.PWR_CFG_ARR_VMIN)

/-- The V-step a rail moves to (R388): the lowest of its targets and ARR_VMAX; unowned arrays and a quiesced part are at 0;
VDD_SOC is at SOC_VSTEP. -/
def State.railTarget (s : State) (r : Fin 9) : Nat :=
  if h : r.val < 8 then
    let n : Quad := ⟨r.val, h⟩
    if s.arrOwned n.val && !s.pwr.powerFail then
      min (min (min (s.capTarget n) (vget s.pwr.warmT n)) (min (vget s.pwr.dieT n) (vget s.pwr.alertT n)))
        (s.fget Fld.PWR_CFG_ARR_VMAX)
    else 0
  else s.fget Fld.PWR_CFG_SOC_VSTEP

/-- The CAUSE bits of an array rail: the targets below ARR_VMAX (R388). -/
def State.railCause (s : State) (n : Quad) : Nat :=
  let m := s.fget Fld.PWR_CFG_ARR_VMAX
  b2n (s.capTarget n < m) + 2 * b2n (vget s.pwr.warmT n < m) + 4 * b2n (vget s.pwr.dieT n < m)
    + 8 * b2n (vget s.pwr.alertT n < m)

/-- Refresh the CAUSE fields. -/
def State.setCauses (s : State) : State :=
  (List.finRange 8).foldl (fun s n => s.fset Fld.PWR_RAILr_CAUSE (s.railCause n) n.val) s

/-- The rails of an AVSBus (R379). -/
def busRail (bus : Fin 2) (r : Fin 9) : Bool := if bus.val = 0 then r.val < 4 || r.val == 8 else 4 ≤ r.val && r.val < 8

/-- The rail select of a rail on its bus (R379). -/
def railSelect (r : Fin 9) : Nat := if r.val = 8 then 4 else r.val % 4

/-- One rail of a round (R380): a rail that answered reports the V-step read back and is then written one V-step toward its
target; a rail whose three transactions failed keeps its V-step and sets AVS_ERR. [DEDUCED, log 98] -/
def State.avsRail (s : State) (bus : Fin 2) (e : AvsRail) : State :=
  if !busRail bus e.rail then s
  else
    let s :=
      if e.answered then
        { s with pwr := { s.pwr with avsBad := vset s.pwr.avsBad e.rail false } }.fset Fld.PWR_RAILr_VSTEP e.vstep e.rail.val
      else
        let s := { s with pwr := { s.pwr with avsBad := vset s.pwr.avsBad e.rail true } }
        let s := s.sqSet .PWR_STATUS 0 0 [Fld.PWR_STATUS_AVS_ERR] []
        s.pwrEvent 0x0C0B 2 (bus.val + railSelect e.rail * 2 ^ 8) 0
    let v := s.vstep e.rail.val
    let t := s.railTarget e.rail
    let w := if e.answered = false then v else if t < v then v - 1 else if v < t then v + 1 else v
    if w = v then s
    else { s with pwr := { s.pwr with written := vset s.pwr.written e.rail w } }.emit (.avsWrite e.rail.val (550 + 20 * w))

/-- AVS_ROUND (R380). No voltage is written until the ROM phase has ended (R461). -/
def execAvsRound (bus : Fin 2) (rails : List AvsRail) (s : State) : Host.Outcome State Fault Refusal :=
  .next (if s.bootState = 0 then s else rails.foldl (fun s e => s.avsRail bus e) s)

/-- RAIL_CURRENT_READ (R380): units of 0.1 A, by rail. -/
def execRailCurrentRead (current : List Nat) (s : State) : Host.Outcome State Fault Refusal :=
  .next ((List.range 9).foldl (fun s r => s.fset Fld.PWR_RAILr_CURRENT (min (current.getD r 0) 0xFFFF) r) s)

/-- PMBUS_ALERT: every array rail falls by 4 V-steps, ALERT is set and PWR_ALERT recorded (R389). -/
def State.pmbusAlert (s : State) : State :=
  let mask := (List.range 8).foldl (fun m n => if 0 < s.vstep n then m + 2 ^ n else m) 0
  let s := { s with
    pins := { s.pins with alertN := false }
    pwr := { s.pwr with alertLow := true, alertWait := 0, alertT := Vector.ofFn (fun n => s.vstep n.val - 4) } }
  let s := s.setCauses
  (s.sqSet .PWR_STATUS 0 0 [Fld.PWR_STATUS_ALERT] []).pwrEvent 0x0C04 1 mask 0

/-- PMBUS_ALERT (R389). -/
def execPmbusAlert (s : State) : Host.Outcome State Fault Refusal := .next s.pmbusAlert

/-- PMBUS_ALERT_RELEASE (R389): the alert target rises from the tenth epoch on. -/
def execPmbusAlertRelease (s : State) : Host.Outcome State Fault Refusal :=
  .next { s with pins := { s.pins with alertN := true }, pwr := { s.pwr with alertLow := false, alertWait := 0 } }

/-- PWR_UV: a core rail stays below 0.50 V (R382). -/
def execPwrUv (rail : Fin 9) (mv : Nat) (s : State) : Host.Outcome State Fault Refusal :=
  .next (s.pwrEvent 0x0C0A 3 rail.val mv)

/-- THERMTRIP: THERMTRIP_N asserts until the next power-on reset, the event is recorded and a flush is due (R393). -/
def State.thermtrip (s : State) (q : Quad) : State :=
  let s := { s with pins := { s.pins with thermtripN := false } }.emit (.pin 0 false)
  let s := s.pwrEvent 0x0C08 3 q.val 0
  { s with evr := { s.evr with flushDue := true } }

/-- THERMTRIP (R393). -/
def execThermtrip (q : Quad) (s : State) : Host.Outcome State Fault Refusal := .next (s.thermtrip q)

/-- PWR_FAIL: FAIL with REASON 0x03 on every ACTIVE port, PWR_FAIL recorded, no command starts, every array rail goes to V-step
0, staging stops, and the buffer is flushed (R396, R420, R438). While PORST_N is low nothing happens (21). -/
def State.pwrFail (s : State) : State :=
  let s := { s with pins := { s.pins with pwrFailN := false } }
  if !s.pins.porstN then s
  else
    let m := s.activeMask
    let s := s.sendFail 3
    let s := s.eventFail { code := 0x0C09, cls := 0x0D, inst := 0, sev := 3, p1 := m } 3
    { s with pwr := { s.pwr with powerFail := true }, evr := { s.evr with flushDue := true } }.stageStop

/-- PWR_FAIL (R396). -/
def execPwrFail (s : State) : Host.Outcome State Fault Refusal := .next s.pwrFail

/-! ## Cooling (R395) -/

/-- Apply the cooling limit: COOLING and PWR_COOLING. -/
def State.coolingEvent (s : State) (p1 : Nat) : State :=
  let s := s.sqSet .PWR_STATUS 0 0 [Fld.PWR_STATUS_COOLING] []
  let s := { s with pwr := { s.pwr with coolLimit := true } }
  s.pwrEvent 0x0C0C 1 p1 (s.fget Fld.PWR_COOLANT_INLET + s.fget Fld.PWR_COOLANT_FLOW * 2 ^ 32)

/-- A write of `PWR_COOLANT`: an inlet above 40.0 °C or a flow below 2.40 L/min applies the cooling limit (R395). -/
def State.coolantWrite (s : State) (v : Word) : State :=
  let s := s.fieldWrite 4 .PWR_COOLANT 0 0 v id
  let inlet := 400 < s.fget Fld.PWR_COOLANT_INLET
  let flow := s.fget Fld.PWR_COOLANT_FLOW < 240
  let s := { s with pwr := { s.pwr with coolStale := false, coolBad := inlet || flow } }
  if s.fbit Fld.PWR_CFG_COOL_CHECK && (inlet || flow) then s.coolingEvent (2 * b2n inlet + 4 * b2n flow) else s

/-- COOLANT_REPORT: a write of `PWR_COOLANT` (R395). -/
def execCoolantReport (r : Requester) (v : Word) (s : State) : Host.Outcome State Fault Refusal :=
  .next (match r with
    | .mgc => s.coolantWrite v
    | .part p => if p.val = 0 then s.coolantWrite v else s.accessErr p.val)

/-- COOLANT_STALE: no report for 5 s (R395). -/
def execCoolantStale (s : State) : Host.Outcome State Fault Refusal :=
  let s := { s with pwr := { s.pwr with coolStale := true } }
  .next (if s.fbit Fld.PWR_CFG_COOL_CHECK then s.coolingEvent 1 else s)

/-- COOL_CHECK has been set while the last report is stale or out of limits: the cooling limit applies (R395). -/
def State.coolChecked (s : State) (was : Bool) : State :=
  if !was && s.fbit Fld.PWR_CFG_COOL_CHECK && (s.pwr.coolStale || s.pwr.coolBad) then
    s.coolingEvent (b2n s.pwr.coolStale + 2 * b2n (400 < s.fget Fld.PWR_COOLANT_INLET) + 4 * b2n (s.fget Fld.PWR_COOLANT_FLOW < 240))
  else s

/-! ## The budget epoch (R383 to R388) -/

/-- Add to a 64-bit energy counter, in µJ. -/
def State.addE (s : State) (lo hi : RegName) (e : Nat) (inst : Nat := 0) (sel : Nat := 0) : State :=
  s.wr64 lo hi (s.rd64 lo hi inst sel + e) inst sel

/-- The epoch end of a partition's allowance (R385): the shortfall is repaid by at most half the allowance. -/
def State.allowEpoch (s : State) (idle : Nat) (p : Part) : State :=
  let a := s.allowW p.val
  let r := min (vget s.pwr.short p) (a * 500)
  let b := min (s.burst p.val : Int) (vget s.pwr.bal p + a * 1000 - idle - r)
  let s := { s with pwr := { s.pwr with bal := vset s.pwr.bal p b, short := vset s.pwr.short p (vget s.pwr.short p - r) } }
  s.addE .PWR_E_LO .PWR_E_HI idle 0 p.val

/-- The table power of a V-step in units of 0.1 W (R381). -/
def tablePower (v : Nat) : Nat :=
  [326, 388, 456, 530, 608, 693, 785, 881, 980, 1087, 1200, 1308, 1419, 1530, 1648, 1766].getD v 1766

/-- The array rails whose partitions exceed their allowance, or every owned rail where none does (R387). [DEDUCED, log 26] -/
def State.overRails (s : State) (m : EpochMeas) : List Quad :=
  let owned := (List.finRange 8).filter (fun n => s.arrOwned n.val)
  let above := owned.filter (fun n => 0 < s.allowW (s.arrOwner n.val) && s.allowW (s.arrOwner n.val) < m.partW.getD (s.arrOwner n.val) 0)
  if above.isEmpty then owned else above

/-- How far the cap controller lowers rails at once (R387). -/
def capDelta (p cap : Nat) : Nat := if p * 100 ≤ cap * 105 then 1 else if p * 100 ≤ cap * 115 then 2 else 4

/-- The predicted increase of raising a rail by one V-step, in mW (R387). -/
def State.raiseMw (s : State) (m : EpochMeas) (n : Quad) : Nat :=
  let v := s.vstep n.val
  m.railW.getD n.val 0 * 1000 * (tablePower (v + 1) - tablePower v) / tablePower v

/-- Raise a group of rails by one V-step if the prediction stays within the cap; the flag and the predicted mW carry on. [DESIGN CHOICE, log 95] -/
def State.raiseGroup (s : State) (m : EpochMeas) (capMw pMw : Nat) (g : List Quad) : State × Nat :=
  let inc := g.foldl (fun t n => t + s.raiseMw m n) 0
  if g.isEmpty ∨ capMw < pMw + inc then (s, pMw)
  else
    (g.foldl (fun s n => { s with pwr := { s.pwr with capT := vset s.pwr.capT n (s.capTarget n + 1) } }) s, pMw + inc)

/-- Cap sharing at an epoch end (R387). [DEDUCED, log 26; DESIGN CHOICE, log 95] -/
def State.capShare (s : State) (m : EpochMeas) : State :=
  let cap := s.fget Fld.PWR_CAP_CAP_EFF
  let vmin := s.fget Fld.PWR_CFG_ARR_VMIN
  let vmax := s.fget Fld.PWR_CFG_ARR_VMAX
  let owned := (List.finRange 8).filter (fun n => s.arrOwned n.val)
  let pct := s.fget Fld.PWR_CFG_MEM_MIN_PCT
  if cap < m.totalW then
    if owned.any (fun n => vmin < s.vstep n.val) then
      let d := capDelta m.totalW cap
      let s := (s.overRails m).foldl (fun s n =>
        { s with pwr := { s.pwr with capT := vset s.pwr.capT n (min (vget s.pwr.capT n) (max vmin (s.vstep n.val - d))) } }) s
      let s := s.sqSet .PWR_STATUS 0 0 [Fld.PWR_STATUS_CAP_LIMIT] [Fld.PWR_STATUS_LIMIT_CNT]
      s.pwrEvent 0x0C01 0 cap m.totalW
    else if pct < s.pwr.hbmLimit then
      let l := max pct (s.pwr.hbmLimit - 20)
      let s := { s with pwr := { s.pwr with hbmLimit := l } }
      let s := s.sqSet .PWR_STATUS 0 0 [Fld.PWR_STATUS_MEM_LIMIT] [Fld.PWR_STATUS_LIMIT_CNT]
      s.pwrEvent 0x0C02 1 l m.totalW
    else
      let first := !s.pwr.unmet
      let s := { s with pwr := { s.pwr with unmet := true } }
      let s := s.sqSet .PWR_STATUS 0 0 [Fld.PWR_STATUS_CAP_UNMET] []
      if first then s.pwrEvent 0x0C03 1 cap m.totalW else s
  else
    let s := { s with pwr := { s.pwr with unmet := false } }
    if s.pwr.hbmLimit < 100 then
      if m.totalW + m.memW * 20 / max 1 s.pwr.hbmLimit ≤ cap then
        { s with pwr := { s.pwr with hbmLimit := min 100 (s.pwr.hbmLimit + 20) } }
      else s
    else
      let low := owned.filter (fun n => s.capTarget n < vmax && s.capTarget n == s.vstep n.val)
      let below (n : Quad) : Bool := m.partW.getD (s.arrOwner n.val) 0 < s.allowW (s.arrOwner n.val)
      let (s, p) := s.raiseGroup m (cap * 1000) (m.totalW * 1000) (low.filter below)
      (s.raiseGroup m (cap * 1000) p (low.filter (fun n => !below n))).1

/-- One epoch of a warm target (R166, R392): at or above the threshold it falls one V-step below the V-step in force, down to the
floor; below the release temperature it rises by one. -/
def warmStep (t lower upper floor v target : Nat) : Nat :=
  if upper ≤ t then (if floor < min target v then min target v - 1 else target)
  else if t < lower then min 15 (target + 1) else target

/-- The temperature targets at an epoch end. -/
def State.warmEpoch (s : State) : State :=
  let wf := s.fget Fld.HBM_THERM_CFG_WARM_FLOOR
  let df := s.fget Fld.PWR_CFG_DIE_FLOOR
  (List.finRange 8).foldl (fun s n =>
    let v := s.vstep n.val
    let w := warmStep (s.fget Fld.HBM_STACKn_TEMP_TEMP n.val) 85 88 wf v (vget s.pwr.warmT n)
    let d := if 2 ≤ s.quadState n.val then 0 else warmStep (vget s.pwr.quadTemp n) 92 95 df v (vget s.pwr.dieT n)
    { s with pwr := { s.pwr with warmT := vset s.pwr.warmT n w, dieT := vset s.pwr.dieT n d } }) s

/-- The alert target at an epoch end (R389). [DEDUCED, log 27] -/
def State.alertEpoch (s : State) : State :=
  if s.pwr.alertLow then s
  else if s.pwr.alertWait < 10 then { s with pwr := { s.pwr with alertWait := s.pwr.alertWait + 1 } }
  else { s with pwr := { s.pwr with alertT := s.pwr.alertT.map (fun t => min 15 (t + 1)) } }

/-- The cap in force (R387, R395): a report within limits removes the cooling limit at the epoch end. -/
def State.capEpoch (s : State) : State :=
  let lim := s.fbit Fld.PWR_CFG_COOL_CHECK && (s.pwr.coolStale || s.pwr.coolBad)
  let s := { s with pwr := { s.pwr with coolLimit := lim } }
  s.fset Fld.PWR_CAP_CAP_EFF (if lim then min 900 (s.fget Fld.PWR_CAP_CAP_W) else s.fget Fld.PWR_CAP_CAP_W)

/-- The measured rates and powers are published (R20, PWR_SPLIT). -/
def State.publish (s : State) (m : EpochMeas) : State :=
  let one (r v n : Nat) : Word := BitVec.ofNat 32 (min r 0xFFFF + v % 16 * 2 ^ 16 + n % 256 * 2 ^ 20)
  let s := (List.range 8).foldl (fun s n => s.wr .GLB_HSRATE_An n 0 (one (m.hsRate.getD n 0) (s.vstep n) (m.tj.getD n 0))) s
  let s := s.wr .GLB_HSRATE_SOC 0 0 (one (m.hsRate.getD 8 0) (s.vstep 8) (m.tj.getD 8 0))
  s.wr .PWR_SPLIT 0 0 (BitVec.ofNat 32 (min m.totalW 0x7FF + min m.linkW 0x3FF * 2 ^ 11 + min m.memW 0x7FF * 2 ^ 21))

/-! ## The vote (R43 to R45) -/

/-- The bits of a register's triplicated fields. -/
def rwvMask (r : RegName) : Word := (r.spec.fields.filter (fun f => f.acc == .rwv)).foldl (fun m f => m ||| wMask f.hi f.lo) 0

/-- The views in whose block ERR a vote of a register is reported (R44): the owner of a group, the global view where that
partition does not exist, every view for a register of global scope. -/
def State.voteViews (s : State) (r : RegName) (inst : Nat) : List Nat :=
  match r.spec.own with
  | .group => if (s.part (s.groupOwner inst)).valid then [s.groupOwner inst] else [4]
  | _ => [0, 1, 2, 3, 4]

/-- ARR_VMIN is clamped to ARR_VMAX (17, `PWR_CFG`). -/
def pwrCfgCross (w : Word) : Word := wSet w 7 4 (min (wGet w 7 4) (wGet w 3 0))

/-- The cross-field rule with which a majority is checked, as if software had written it (R45): those of `PWR_CFG` and of a group's fields (R324). -/
def State.voteCross (s : State) (r : RegName) (inst : Nat) (w : Word) : Word :=
  match r with
  | .PWR_CFG => pwrCfgCross w
  | .PER_GRPg_X => s.grpDimCross inst 0 w
  | .PER_GRPg_Y => s.grpDimCross inst 1 w
  | .PER_GRPg_Z => s.grpDimCross inst 2 w
  | .PER_GRPg_CTRL => s.grpActiveCross inst w
  | _ => w

/-- Check a majority against its range and clamp it (R45). The record of its clamp goes to the global view, which no write names here. [DESIGN CHOICE, log 93] -/
def State.voteRange (s : State) (r : RegName) (inst : Nat) : State :=
  let m := s.rd r inst
  let own := rangeWord r m m
  let app := s.voteCross r inst own
  if app = m then s else (s.wr r inst 0 app).recordClamps 4 r inst 4 (clampsOf r m own app)

/-- Vote one register instance (R44): copies that differ are rewritten and reported, one event and one count for the register with the XORs of all
its fields and copies in one word; then the majority is checked. [DESIGN CHOICE, log 93] -/
def State.voteOne (s : State) (r : RegName) (inst : Nat) : State :=
  let k := regKey r inst 0
  let d := resetWord r inst
  let a := Sparse.get d s.rf.main k
  let b := Sparse.get d s.rf.copy2 k
  let c := Sparse.get d s.rf.copy3 k
  let m := majority a b c
  let diff := ((a ^^^ m) ||| (b ^^^ m) ||| (c ^^^ m)) &&& rwvMask r
  if diff = 0 then s.voteRange r inst
  else
    let s := s.wr r inst 0 m
    let s := s.errSet 0 4 [Fld.ERR_VOTE_FIX] [Fld.ERR_VOTE_CNT]
    let s := (s.voteViews r inst).foldl (fun s v => s.errSet (regBlock r inst) v [Fld.ERR_VOTE_FIX] [Fld.ERR_VOTE_CNT]) s
    let part := match r.spec.own with | .group => (if (s.part (s.groupOwner inst)).valid then s.groupOwner inst else 0xFF) | _ => 0xFF
    let s := s.event { code := 0x0111, cls := 0, inst := 0, sev := 1, part := part,
                       p1 := regBlock r inst + regOffset r inst * 2 ^ 32, p2 := diff.toNat }
    s.voteRange r inst

/-- The registers with triplicated fields, and their instances. -/
def rwvRegs : List (RegName × Nat) :=
  [(.HBM_THERM_CFG, 1), (.PER_GRPg_X, 64), (.PER_GRPg_Y, 64), (.PER_GRPg_Z, 64), (.PER_GRPg_CTRL, 64), (.COL_CFG, 1),
   (.PWR_CAP, 1), (.PWR_CFG, 1)]

/-- Vote every triplicated field, once per budget epoch (R43). -/
def State.vote (s : State) : State :=
  rwvRegs.foldl (fun s e => (List.range e.2).foldl (fun s i => s.voteOne e.1 i) s) s

/-- The luma samples each decode engine has decoded in the epoch that ends (`DEC_RATE_W`, `DEC_RATE_E`). -/
def State.pixEpoch (s : State) : State := { s with ing := { s.ing with pixNow := [], pixRate := s.ing.pixNow } }

/-- The end of a budget epoch (R383): rates and powers are published, energy and allowances accounted, the cap shared, the
targets moved and every triplicated field voted. -/
def State.epochEnd (s : State) (m : EpochMeas) : State :=
  let s := s.fset Fld.PWR_EPOCH_EPOCH (s.fget Fld.PWR_EPOCH_EPOCH + 1)
  let s := (s.publish m).pixEpoch
  let s := s.addE .PWR_SYS_E_LO .PWR_SYS_E_HI m.sysUj
  let s := (List.finRange 4).foldl (fun s p => s.allowEpoch (m.partIdle.getD p.val 0) p) s
  let s := s.capEpoch
  let s := s.capShare m
  let s := (s.warmEpoch).alertEpoch
  (s.setCauses).vote

end Sys2Proof.Machine
end

