-- ==== Sys2Proof/Machine/Reset.lean ====
section
/-! DEFINITION. Resets (R40): the registers each domain restores, what a partition reset drops (R307), and the state in which bring-up
begins. -/

namespace Sys2Proof.Machine

/-- The reset domain of a register key. -/
def keyDom (k : Nat) : Dom := (keyReg k).spec.dom

/-- The home of a register key: partition or view. -/
def keySel (k : Nat) : Nat := k / 8192 % 8

/-- Whether a partition reset of `p` restores a register: one of the partition-reset domain that describes a resource of `p` (R40). -/
def State.partKey (s : State) (p k : Nat) : Bool :=
  let r := keyReg k
  decide (r.spec.dom = Dom.part) &&
    (if r.spec.scope = Scope.part ∨ r.spec.scope = Scope.view then keySel k == p else s.owns p r (keyInst k))

/-- Clear the shadows and staging words of a requester: they read zero until its first read after reset (R41). [DESIGN CHOICE, log 70] -/
def RegFile.dropReq (f : RegFile) (ok : Nat → Bool) : RegFile :=
  { f with shadow := f.shadow.filter (fun e => !ok (e.1 / 2 ^ 32)), staged := f.staged.filter (fun e => !ok (e.1 / 2 ^ 32)) }

/-- Streams of a partition close at once; HALT goes to each that was RUNNING, and the space they leave lets others resume (R92, R93). -/
def State.closeStreams (s : State) (p : Nat) : State :=
  let s := (List.range 1024).foldl (fun (s : State) n =>
    if s.ownsStream p n && s.strState n != 0 then
      let s := if s.strState n = 1 then s.strSend n 1 0 else s
      s.setStr n strIdle
    else s) s
  (s.dieResume false).dieResume true

/-- The video path of a partition: DECODEs, buffers and pools (R93, R126). -/
def State.dropVideo (s : State) (p : Nat) : State :=
  let s := s.closeStreams p
  let decs := s.ing.decs.filter (fun (d : DecRun) => d.ref.part.val != p)
  let bufs := s.ing.bufs.filter (fun e => s.stageOwner e.1 != p)
  let pools := s.ing.pools.filter (fun e => s.poolOwner (e.1 / 8) != p)
  { s with ing := { s.ing with decs := decs, bufs := bufs, pools := pools } }

/-- The arrays and vector engines of a partition: tiles are discarded, regions freed, programs dropped and their state cleared. [DESIGN CHOICE, log 4] -/
def State.dropCompute (s : State) (p : Part) : State :=
  let gone (x : Panel) : Bool := s.arr.tiles.any (fun t => t.ref.part == p && t.array == x.array && t.piece == x.piece)
  let s := s.setArr { s.arr with jobs := s.arr.jobs.filter (fun j => j.ref.part != p), tiles := s.arr.tiles.filter (fun t => t.ref.part != p),
                                 panels := s.arr.panels.filter (fun x => !gone x), last := s.arr.last.filter (fun e => e.2.part != p),
                                 use := s.arr.use.filter (fun e => s.arrOwner e.1 != p.val) }
  (List.finRange 8).foldl (fun (s : State) e =>
    if s.arrOwner e.val = p.val then (s.setEng e VecSt.reset).fset Fld.VEC_Vn_STATE_BUSY 0 e.val else s) s

/-- The running collectives of a partition's groups are dropped. -/
def State.dropCol (s : State) (p : Part) : State :=
  (List.range 64).foldl (fun (s : State) g =>
    if s.groupOwner g = p.val ∧ ((s.colSt g).run.isSome ∨ (s.colSt g).commit.isSome) then
      (s.modCol g (fun x => { x with run := none, commit := none })).colPhase g 0
    else s) s

/-- What a partition reset drops beside the registers (R307 and the reset rows of the chapters); a host's read of T2 that arrived before it goes on
(R308). [DESIGN CHOICE, log 70] -/
def State.dropPart (s : State) (p : Part) : State :=
  let s := { s with queues := s.queues.filter (fun e => e.1 / 64 != p.val) }
  let s := ((s.dropVideo p.val).dropCompute p).dropCol p
  let s := s.modTier p (fun t => { TierSt.reset with fetches := t.fetches.filter (fun f => f.host.isSome) })
  let s := s.modRcv p (fun x => { RcvSt.reset with ward := x.ward })
  let win (g : Nat) : Bool := s.portOwner (subWindow (g * 4096)) == p.val
  let kept := (List.finRange 4).flatMap (fun q => (vget s.tier q).fetches)
  let used (a : Nat) : Bool := kept.any (fun f => f.base ≤ a && a < f.base + f.len)
  let mem := { s.mem with t2Poison := s.mem.t2Poison.filter (fun g => !win g), t2 := s.mem.t2.filter (fun e => used e.1) }
  let eut := { s.eut with outst := s.eut.outst.filter (fun o => o.ref.part != p), held := s.eut.held.filter (fun h => h.out.ref.part != p) }
  let chk := Vector.ofFn (fun u => let k := vget s.chk u; if k.owner.any (fun r => r.part == p) then { k with owner := none } else k)
  let boot := { s.boot with attest := s.boot.attest.filter (· != p.val), report := s.boot.report.filter (fun e => e.1 != p.val) }
  { s with mem := mem, eut := eut, chk := chk, boot := boot }

/-- The balance and shortfall of a partition return to their reset values (R385). -/
def State.resetBal (s : State) (p : Part) : State :=
  { s with pwr := { s.pwr with bal := vset s.pwr.bal p (s.burst p.val), short := vset s.pwr.short p 0 } }

/-- Whether the reset of a partition is in progress (R307, R308). -/
def State.inReset (s : State) (p : Part) : Bool :=
  match s.boot.resetting with | some (q, _, _) => q == p | none => false

/-- What a partition reset restores (R307). [DESIGN CHOICE, log 70] -/
def State.partReset (s : State) (p : Part) : State :=
  let units := (List.finRange 4).foldl (fun (s : State) u =>
    if (vget s.chk u).owner.any (fun r => r.part == p) then
      (s.fset Fld.CHK_Uu_CTRL_BUSY 0 u.val).fset Fld.CHK_Uu_CTRL_OWNED 0 u.val
    else s) s
  let s := units.dropPart p
  let s := { s with rf := (s.rf.restore (s.partKey p.val)).dropReq (· == p.val) }
  s.resetBal p

/-- GO starts the reset of a partition: BUSY reads 1 until it is complete. One written while BUSY is 1 is ignored and sets ACCESS_ERR in the global view
(R307). -/
def State.partGo (s : State) (r : Requester) (p : Part) : State :=
  if s.boot.resetting.isSome then s.accessErr 4
  else
    let s := { s with boot := { s.boot with resetting := some (p, r, false) } }
    s.fset Fld.EUT_PART_RESET_BUSY 1

/-- The reset that is in progress completes: BUSY clears, the KIND 0x04 note goes out, and EUT_PART_RESET is recorded (R307). [DESIGN CHOICE, log 70] -/
def State.partDone (s : State) : State :=
  match s.boot.resetting with
  | none => s
  | some (p, r, _) =>
    let by_ := match r with | .mgc => 1 | .part _ => 0
    let s := { s with boot := { s.boot with resetting := none } }
    let s := (s.fset Fld.EUT_PART_RESET_BUSY 0).note p.val 4 (padTo 32 [BitVec.ofNat 8 by_])
    s.event { code := 0x0922, cls := 0, inst := 0, sev := 0, part := p.val, p1 := p.val, p2 := by_ }

/-! ## Warm and cold reset -/

/-- Registers of the cold-reset domain that show the state of hardware or are rewritten by bring-up: a warm reset returns them to their reset
values before bring-up (R40). [DEDUCED, log 71] -/
def bringUpReg (r : RegName) : Bool :=
  match r with
  | .GLB_FEATURES | .GLB_IMAGE_ID | .GLB_STRUCT_HEAD | .GLB_BOOT | .ARR_An_CUT | .VEC_Vn_STATE | .LNK_Pp_STATE | .LNK_Pp_LANEl
  | .EUT_Ek_CFG | .EUT_Ek_ADAPTER | .EUT_PART_RESET | .PER_TOPO | .PER_LTOPO | .PER_COORD | .PER_REMAPi_L | .PER_REMAPi_P
  | .PER_GRPg_X | .PER_GRPg_Y | .PER_GRPg_Z | .PER_GRPg_CTRL | .COL_GRPg_STATE | .TIER_CFG | .TIER_PARTNER | .NOC_MAP_An_F
  | .NOC_MAP_An_R | .PWR_ALLOW | .PWR_EPOCH => true
  | _ => false

/-- Whether a warm reset restores a register. -/
def warmKey (k : Nat) : Bool := decide (keyDom k ≠ Dom.cold) || bringUpReg (keyReg k)

/-- Sessions since cold reset (R287) stay through a warm reset, and so does REG_SUSPECT, which only the engine test of bring-up clears
(R251, R405). [DEDUCED, log 71] -/
def keepSession (old new : State) : State :=
  let s := (List.finRange 10).foldl (fun (s : State) p =>
    s.fset Fld.LNK_Pp_STATE_SESSION (old.fget Fld.LNK_Pp_STATE_SESSION p.val) p.val) new
  (List.finRange 8).foldl (fun (s : State) e =>
    s.fset Fld.VEC_Vn_STATE_REG_SUSPECT (old.fget Fld.VEC_Vn_STATE_REG_SUSPECT e.val) e.val) s

/-- What a warm reset stops: a check-value unit, a margin sweep. Their other fields keep their values (R40). [DEDUCED, log 71] -/
def stopUnits (s : State) : State :=
  let s := (List.finRange 4).foldl (fun (s : State) u =>
    (s.fset Fld.CHK_Uu_CTRL_BUSY 0 u.val).fset Fld.CHK_Uu_CTRL_OWNED 0 u.val) s
  s.fset Fld.HBM_MARGIN_CTRL_START 0

/-- The state of every unit as a reset leaves it: queues empty, links down, engines idle, memory unwritten (its contents are undefined after
bring-up, R399). Flash, fuses, pins, thermal readings and the recorder's buffer stay. [DESIGN CHOICE, log 2] -/
def State.quiesce (s : State) : State :=
  let stack (x : StackSt) : StackSt := { x with scrubCe := [], grants := Vector.replicate 5 0, avail := false, selfRef := false, postponed := [] }
  { s with
    mem := State.reset.mem, queues := [], ports := State.reset.ports, hbm := s.hbm.map stack
    arr := State.reset.arr, vec := State.reset.vec, chk := State.reset.chk, eut := State.reset.eut, col := [], rcv := State.reset.rcv
    tier := State.reset.tier, ing := IngSt.reset, usec := 0
    boot := { BootSt.reset with newErr := s.boot.newErr, setInUse := s.boot.setInUse, clampRep := s.boot.clampRep } }

/-- BOOT_COUNT_INCREMENT (R399), then the ROM phase begins; FAULT_N is released (R454). -/
def State.beginBoot (s : State) : State :=
  let n := (s.flash.bootCount + 1) % 65536
  let s := { s with flash := { s.flash with bootCount := n } }
  let s := s.fset Fld.GLB_BOOT_BOOT_COUNT n
  (s.setFault true).enterBoot 0

/-- A warm reset (R40): the warm-reset and partition-reset domains return to reset, and the whole of bring-up runs; the rails and straps stay
as they are (R463). -/
def State.warm (s : State) : State :=
  let s := s.stageStop
  let old := s
  let s := s.quiesce
  let s := { s with rf := (s.rf.restore warmKey).dropReq (fun _ => true) }
  let s := stopUnits (keepSession old s)
  let s := (List.finRange 4).foldl (fun (s : State) p => s.resetBal p) s
  let s := { s with pwr := { s.pwr with critHold := false, critDie := false, admitted := PwrSt.reset.admitted } }
  s.beginBoot

/-- Whether a stack or quadrant holds warm reset off (R166, R392). [DEDUCED, log 73] -/
def State.resetHeld (s : State) : Bool :=
  (s.pwr.critHold && (List.finRange 8).any (fun n => decide (95 ≤ s.fget Fld.HBM_STACKn_TEMP_TEMP n.val)))
    || (s.pwr.critDie && (List.finRange 8).any (fun n => decide (95 ≤ vget s.pwr.quadTemp n)))

/-- A warm reset is requested (R463): ignored while it is held off or after PWR_FAIL_N has asserted. -/
def State.warmReset (s : State) (byBoard : Bool) : State :=
  if s.resetHeld || s.pwr.powerFail || !s.pins.pwrFailN || !s.pins.porstN || s.boot.jtagHeld then s
  else (s.event { code := 0x0122, cls := 0, inst := 0, sev := 0, p1 := b2n byBoard }).warm

/-- WARM_RESET (R463). -/
def execWarmReset (byBoard : Bool) (s : State) : Host.Outcome State Fault Refusal := .next (s.warmReset byBoard)

/-- Everything a cold reset restores: every register, every unit, the recorder's buffer, the power manager. Flash and fuses stay, and
so do the last readings of the die temperatures. [DEDUCED, log 73] -/
def State.cold (s : State) : State :=
  let s := s.stageStop.quiesce
  let straps := s.rd .GLB_STRAPS
  let s := { s with rf := State.reset.rf, evr := State.reset.evr, pwr := { PwrSt.reset with quadTemp := s.pwr.quadTemp }, hbm := State.reset.hbm
                    pins := { s.pins with pwrFailN := true, i3cDyn := none, i3cAddr := 0 }
                    boot := { s.boot with clampRep := [] } }
  s.wr .GLB_STRAPS 0 0 straps

/-- After a cold reset the record numbers continue from the ring in flash (R439), and EVR_LOW is the oldest record it holds. [DEDUCED, log 72] -/
def State.findRing (s : State) : State :=
  let next := match s.flash.ring.getLast? with | some pg => pg.first + pg.recs.length | none => 0
  let low := match s.flash.ring.head? with | some pg => pg.first | none => 0
  (s.wr64 .EVR_NEXT_LO .EVR_NEXT_HI next).wr64 .EVR_LOW_LO .EVR_LOW_HI low

/-- COLD_RESET (R40): the power-on reset deasserts. The straps are sampled (R457), THERMTRIP_N and XSPI_RST_N are released (R458, R462);
THERMTRIP_N asserts again at once where a quadrant's last reading still stands at 115 °C or above (R462). [DEDUCED, log 73] -/
def State.coldReset (s : State) (feed slot : Nat) : State :=
  let hot := (List.finRange 8).find? (fun n => decide (115 ≤ vget s.pwr.quadTemp n))
  let c := s.cold.findRing
  let c := c.wr .GLB_STRAPS 0 0 (BitVec.ofNat 32 (feed % 16 + slot % 64 * 16))
  let c := { c with pins := { c.pins with porstN := true, thermtripN := true, xspiRstN := true } }
  let c := ((c.emit (.pin 0 true)).emit (.pin 2 true)).beginBoot
  match hot with
  | none => c
  | some n => c.thermtrip n

/-- COLD_RESET (R40). -/
def execColdReset (feed slot : Nat) (s : State) : Host.Outcome State Fault Refusal := .next (s.coldReset feed slot)

/-- PORST_N_ASSERT (R458): the part is held in cold reset; a running flush stops and its unprogrammed records are lost; FAULT_N and XSPI_RST_N
are driven low. -/
def execPorstNAssert (s : State) : Host.Outcome State Fault Refusal :=
  let c := s.cold.findRing
  let c := { c with pins := { c.pins with porstN := false, xspiRstN := false, thermtripN := s.pins.thermtripN } }
  .next ((c.emit (.pin 2 false)).setFault false)

/-- PWR_FAIL_RELEASE (R396): the quiesced part enters cold reset with its straps as sampled. [DEDUCED, log 73] -/
def execPwrFailRelease (s : State) : Host.Outcome State Fault Refusal :=
  let st := (s.rd .GLB_STRAPS).toNat
  .next (if !s.pins.pwrFailN then
    (if s.pins.porstN then s.coldReset (bitsOf st 3 0) (bitsOf st 9 4) else { s with pins := { s.pins with pwrFailN := true } })
  else s)

end Sys2Proof.Machine
end

