-- ==== Sys2Proof/Machine/AxzelImage.lean ====
section
/-! DEFINITION. The Axzel image (R406 to R412): its layout, the image selected at ROM, the default image, the feature clamps, the checks of
every field with their structure records, and the registers it fills. -/

namespace Sys2Proof.Machine

/-! ## Layout (R409) -/

/-- Bytes of an image. -/
def imageBytes : Nat := 2576

/-- A partition entry. -/
def parsePart (b : List Byte) (p : Nat) : PartImg :=
  let o := 0x40 + 32 * p
  { valid := bitOf (fieldAt b o 1) 0, flagged := bitOf (fieldAt b o 1) 1, ports := fieldAt b (o + 1) 1 % 16
    t0Mib := fieldAt b (o + 2) 2, t1Gib := fieldAt b (o + 4) 2, allowW := fieldAt b (o + 6) 2, burstDj := fieldAt b (o + 8) 2
    engines := fieldAt b (o + 12) 4, wFirst := fieldAt b (o + 16) 2, wCount := fieldAt b (o + 18) 2
    eFirst := fieldAt b (o + 20) 2, eCount := fieldAt b (o + 22) 2 }

/-- An array entry. -/
def parseArr (b : List Byte) (n : Nat) : ArrImg :=
  let o := 0xC0 + 4 * n
  { cut := fieldAt b o 1 % 8, owner := fieldAt b (o + 1) 1, pair := fieldAt b (o + 2) 1 }

/-- The torus section. -/
def parseTorus (b : List Byte) : TorusImg :=
  let f (i : Nat) : Nat := fieldAt b (0xE0 + i) 1
  { dx := f 0, dy := f 1, dz := f 2, lx := f 3, ly := f 4, lz := f 5, ox := f 6, oy := f 7, oz := f 8, slotExpect := f 9
    partnerGib := fieldAt b 0xEA 2, nbr := (List.range 6).map (fun i => f (12 + i)) }

/-- A region entry. -/
def parseRegion (b : List Byte) (r : Nat) : RegionImg :=
  let o := 0x100 + 8 * r
  { owner := fieldAt b o 1, stack := fieldAt b (o + 1) 1, start := fieldAt b (o + 2) 2, size := fieldAt b (o + 4) 2
    valid := bitOf (fieldAt b (o + 6) 1) 0 }

/-- A staging buffer entry. -/
def parseStage (b : List Byte) (n : Nat) : StageImg := { owner := fieldAt b (0x200 + 4 * n) 1, mib := fieldAt b (0x202 + 4 * n) 2 }

/-- The image that bytes hold. -/
def parseImage (b : List Byte) : Image :=
  { id := fieldAt b 20 4, lic := (List.range 4).map (fun i => fieldAt b (24 + i) 1)
    parts := (List.range 4).map (parsePart b), arrays := (List.range 8).map (parseArr b), torus := parseTorus b
    regions := (List.range 32).map (parseRegion b), staging := (List.range 64).map (parseStage b)
    pools := (List.range 16).map (fun k => fieldAt b (0x300 + k) 1)
    remap := (List.range 64).map (fun i => (fieldAt b (0x400 + 8 * i) 4, fieldAt b (0x404 + 8 * i) 4))
    groups := (List.range 64).map (fun g =>
      let o := 0x600 + 16 * g
      (fieldAt b o 4, fieldAt b (o + 4) 4, fieldAt b (o + 8) 4, fieldAt b (o + 12) 4)) }

/-! ## The default image (R408) -/

/-- The partition entry of P0 in the default image: every port, stream and engine, unified mode. ALLOW_W and BURST_DJ take their reset
values (log 50). [DESIGN CHOICE, log 50] -/
def defaultP0 : List Byte :=
  [1, 15] ++ leBytes 2 0 ++ leBytes 2 0 ++ leBytes 2 0 ++ leBytes 2 1000 ++ leBytes 2 0 ++ leBytes 4 0xFFFFFFFF
    ++ leBytes 2 0 ++ leBytes 2 512 ++ leBytes 2 512 ++ leBytes 2 512

/-- The default image: P0 owns everything, every array at CUT1, a 1 × 1 × 1 torus, no partner share, no ACTIVE group; each staging buffer
has an equal share of its die's 64 MiB (log 50). [DESIGN CHOICE, log 50] -/
def defaultImage : List Byte :=
  let header := padTo 64 (leBytes 4 0x58415653 ++ leBytes 2 1 ++ leBytes 2 0 ++ leBytes 8 0 ++ leBytes 4 2576 ++ leBytes 4 0
    ++ [0xFF, 0xFF, 0xFF, 0xFF])
  let parts := padTo 128 defaultP0
  let arrays := (List.replicate 8 ([0, 0, 0, 0] : List Byte)).flatten
  let torus := padTo 32 ([1, 1, 1, 1, 1, 1, 0, 0, 0, 0xFF, 0, 0] ++ List.replicate 6 (0xFF : Byte))
  let regions := padTo 256 ((List.range 8).flatMap (fun n => [0, BitVec.ofNat 8 n, 0, 0, 128, 0, 1, 0]))
  let staging := (List.replicate 64 ([0, 0, 2, 0] : List Byte)).flatten
  let pools := List.replicate 256 (0 : Byte)
  let remap := List.replicate 512 (0 : Byte)
  let group := leBytes 4 0x1040 ++ leBytes 4 0x1040 ++ leBytes 4 0x1040 ++ leBytes 4 0
  let groups := (List.replicate 64 group).flatten
  header ++ parts ++ arrays ++ torus ++ regions ++ staging ++ pools ++ remap ++ groups ++ List.replicate 16 (0 : Byte)

/-- What fails in an image: bit 0 MAGIC, VERSION or LENGTH, 1 CRC, 2 SERIAL (R408, R415). -/
def imageBad (b : List Byte) : Nat :=
  let form := fieldAt b 0 4 == 0x58415653 && fieldAt b 4 2 == 1 && fieldAt b 16 4 == 2576 && imageBytes ≤ b.length
  let crc := crc32c (b.take 0xA0C) == fieldAt b 0xA0C 4
  let serial := fieldAt b 8 8 == 0 || fieldAt b 8 8 == Config.serial.toNat
  b2n (!form) + 2 * b2n (!crc) + 4 * b2n (!serial)

/-! ## Structure records (R412) -/

/-- Append a record to the structure report: flag bit 0, and bit 1 for a cross-field clamp. -/
def State.structClamp (s : State) (block bit width : Nat) (cross : Bool) (off req app : Nat) : State :=
  let n := s.fget Fld.GLB_STRUCT_HEAD_COUNT
  let rep := putRecord s.boot.structRep 0 n (clampWords block bit width (1 + 2 * b2n cross) off req app)
  let s := { s with boot := { s.boot with structRep := rep } }
  s.fset Fld.GLB_STRUCT_HEAD_COUNT (n + 1)

/-- An image under check: the state that holds the report, and the image's bytes. -/
structure ImgWork where
  s : State
  b : List Byte

/-- Write `n` bytes of a number at an offset. -/
def putField (b : List Byte) (off n v : Nat) : List Byte := b.take off ++ leBytes n v ++ b.drop (off + n)

/-- Replace the field of `width` bits at bit `bit` of the bytes from `off`; a change is a structure record. -/
def ImgWork.fix (x : ImgWork) (block off bit width : Nat) (cross : Bool) (v : Nat) : ImgWork :=
  let n := (bit + width + 7) / 8
  let w := fieldAt x.b off n
  let req := bitsOf w (bit + width - 1) bit
  if req = v then x
  else { s := x.s.structClamp block (bit % 8) width cross (off + bit / 8) req v, b := putField x.b off n (w - req * 2 ^ bit + v * 2 ^ bit) }

/-- Clear reserved bytes: each non-zero one is clamped to zero (R409). -/
def ImgWork.reserved (x : ImgWork) (offs : List Nat) : ImgWork := offs.foldl (fun x o => x.fix 0 o 0 8 false 0) x

/-- The nearest value of a range, rounded down to a step (R48). -/
def nearest (lo hi st v : Nat) : Nat := let y := if v < lo then lo else if hi < v then hi else v; y / st * st

/-- An undefined encoding takes `d` (R48). -/
def defined (ok : Bool) (v d : Nat) : Nat := if ok then v else d

/-! ## Clamps to the feature set (R407) -/

/-- Without the video path: stream counts, engine masks, staging sizes zero, pools without owner. -/
def ImgWork.noVideo (x : ImgWork) : ImgWork :=
  let x := (List.range 4).foldl (fun (x : ImgWork) p =>
    let o := 0x40 + 32 * p
    ((x.fix 10 (o + 12) 0 32 false 0).fix 9 (o + 18) 0 16 false 0).fix 9 (o + 22) 0 16 false 0) x
  let x := (List.range 64).foldl (fun (x : ImgWork) n => x.fix 11 (0x202 + 4 * n) 0 16 false 0) x
  (List.range 16).foldl (fun (x : ImgWork) k => x.fix 12 (0x300 + k) 0 8 false 0xFF) x

/-- The clamps to the effective feature set; none without a base licence (R406). [DEDUCED, log 75] -/
def ImgWork.features (x : ImgWork) : ImgWork :=
  if !x.s.licensed then x
  else
    let parts := x.s.fget Fld.GLB_FEATURES_PARTITIONS
    let x := (List.range 4).foldl (fun (x : ImgWork) p => if bitOf parts p then x else x.fix 0 (0x40 + 32 * p) 0 1 false 0) x
    let x := if x.s.fget Fld.GLB_FEATURES_VARIANT = 2 then (x.fix 15 0xE1 0 8 false 1).fix 15 0xE2 0 8 false 1 else x
    if x.s.fbit Fld.GLB_FEATURES_VIDEO then x else x.noVideo

/-! ## Each field by itself (R410, R48) -/

/-- A partition entry that is VALID: ALLOW_W and BURST_DJ as `PWR_ALLOW`. [DEDUCED, log 75] -/
def ImgWork.partOwn (x : ImgWork) (p : Nat) : ImgWork :=
  let o := 0x40 + 32 * p
  let e := parsePart x.b p
  let x := if e.valid then (x.fix 18 (o + 6) 0 16 false (nearest 0 1500 1 e.allowW)).fix 18 (o + 8) 0 16 false (nearest 1 65535 1 e.burstDj)
    else x
  x.reserved ([10, 11, 24, 25, 26, 27, 28, 29, 30, 31].map (o + ·))

/-- An OWNER byte that names no partition is 0xFF. [DEDUCED, log 75] -/
def ownerOwn (v : Nat) : Nat := defined (v < 4 || v == 0xFF) v 0xFF

/-- An array entry: CUT by its encodings, OWNER. -/
def ImgWork.arrOwn (x : ImgWork) (n : Nat) : ImgWork :=
  let o := 0xC0 + 4 * n
  let e := parseArr x.b n
  ((x.fix 2 o 0 3 false (defined (e.cut ≤ 5) e.cut 0)).fix 2 (o + 1) 0 8 false (ownerOwn e.owner)).reserved [o + 3]

/-- A slot number or 0xFF for any. [DEDUCED, log 75] -/
def slotOwn (v : Nat) : Nat := defined (v < 64 || v == 0xFF) v 0xFF

/-- The torus section: extents 1 to 64, PARTNER_GIB 0 to 256 in steps of 8. -/
def ImgWork.torusOwn (x : ImgWork) : ImgWork :=
  let x := (List.range 6).foldl (fun (x : ImgWork) i => x.fix 15 (0xE0 + i) 0 8 false (nearest 1 64 1 (fieldAt x.b (0xE0 + i) 1))) x
  let x := x.fix 15 0xE9 0 8 false (slotOwn (fieldAt x.b 0xE9 1))
  let x := x.fix 7 0xEA 0 16 false (nearest 0 256 8 (fieldAt x.b 0xEA 2))
  let x := (List.range 6).foldl (fun (x : ImgWork) i => x.fix 15 (0xEC + i) 0 8 false (slotOwn (fieldAt x.b (0xEC + i) 1))) x
  x.reserved ((List.range 14).map (0xF2 + ·))

/-- A region entry: OWNER, STACK 0 to 7. -/
def ImgWork.regionOwn (x : ImgWork) (r : Nat) : ImgWork :=
  let o := 0x100 + 8 * r
  let e := parseRegion x.b r
  ((x.fix 8 o 0 8 false (ownerOwn e.owner)).fix 8 (o + 1) 0 8 false (nearest 0 7 1 e.stack)).reserved [o + 7]

/-- The fields of a register word in the image, each by its own range. -/
def ImgWork.regOwn (x : ImgWork) (off : Nat) (r : RegName) : ImgWork :=
  r.spec.fields.foldl (fun (x : ImgWork) f =>
    if f.writable then x.fix r.spec.block off f.lo (f.hi + 1 - f.lo) false (rangeFix f (bitsOf (fieldAt x.b off 4) f.hi f.lo)) else x) x

/-- Every field by itself, in the order of the offsets. [DEDUCED, log 75] -/
def ImgWork.ownRanges (x : ImgWork) : ImgWork :=
  let x := x.reserved ([6, 7] ++ (List.range 36).map (28 + ·))
  let x := (List.range 4).foldl (fun (x : ImgWork) p => x.partOwn p) x
  let x := ((List.range 8).foldl (fun (x : ImgWork) n => x.arrOwn n) x).torusOwn
  let x := (List.range 32).foldl (fun (x : ImgWork) r => x.regionOwn r) x
  let x := (List.range 64).foldl (fun (x : ImgWork) n =>
    (x.fix 11 (0x200 + 4 * n) 0 8 false (ownerOwn (parseStage x.b n).owner)).reserved [0x201 + 4 * n]) x
  let x := (List.range 16).foldl (fun (x : ImgWork) k => x.fix 12 (0x300 + k) 0 8 false (ownerOwn (fieldAt x.b (0x300 + k) 1))) x
  let x := x.reserved ((List.range 240).map (0x310 + ·))
  let x := (List.range 64).foldl (fun (x : ImgWork) g =>
    let o := 0x600 + 16 * g
    (((x.regOwn o .PER_GRPg_X).regOwn (o + 4) .PER_GRPg_Y).regOwn (o + 8) .PER_GRPg_Z).regOwn (o + 12) .PER_GRPg_CTRL) x
  x.reserved ((List.range 12).map (0xA00 + ·))

/-! ## Cross-field checks (R410) -/

/-- Whether the entry of a partition is VALID in the image. -/
def ImgWork.valid (x : ImgWork) (p : Nat) : Bool := p < 4 && (parsePart x.b p).valid

/-- Every other field of an entry that is not VALID becomes 0. -/
def ImgWork.partGone (x : ImgWork) (p : Nat) : ImgWork :=
  let o := 0x40 + 32 * p
  [(7, 0, 1, 1), (14, 1, 0, 4), (7, 2, 0, 16), (7, 4, 0, 16), (18, 6, 0, 16), (18, 8, 0, 16), (10, 12, 0, 32), (9, 16, 0, 16),
   (9, 18, 0, 16), (9, 20, 0, 16), (9, 22, 0, 16)].foldl
    (fun (x : ImgWork) (f : Nat × Nat × Nat × Nat) => x.fix f.1 (o + f.2.1) f.2.2.1 f.2.2.2 true 0) x

/-- The largest count from `first` within the die's streams [`lo`, `hi`) that meets no range of an earlier partition. -/
def streamCount (lo hi first count : Nat) (earlier : List (Nat × Nat)) : Nat :=
  if first < lo ∨ earlier.any (fun e => e.1 ≤ first && first < e.1 + e.2) = true then 0
  else earlier.foldl (fun c e => if 0 < e.2 ∧ first < e.1 ∧ e.1 < first + c then e.1 - first else c) (min count (hi - first))

/-- A VALID partition entry: its ports, streams and engines against the earlier partitions. -/
def ImgWork.partShares (x : ImgWork) (p : Nat) : ImgWork :=
  let o := 0x40 + 32 * p
  let e := parsePart x.b p
  let before := (List.range p).map (parsePart x.b)
  let ports := before.foldl (fun m (q : PartImg) => m ||| q.ports) 0
  let engines := before.foldl (fun m (q : PartImg) => m ||| q.engines) 0
  let x := x.fix 14 (o + 1) 0 4 true (e.ports - (e.ports &&& ports))
  let x := x.fix 10 (o + 12) 0 32 true (e.engines - (e.engines &&& engines))
  let x := x.fix 9 (o + 18) 0 16 true (streamCount 0 512 e.wFirst e.wCount (before.map (fun (q : PartImg) => (q.wFirst, q.wCount))))
  x.fix 9 (o + 22) 0 16 true (streamCount 512 1024 e.eFirst e.eCount (before.map (fun (q : PartImg) => (q.eFirst, q.eCount))))

/-- Whether array `n` is PAIRED with a partner of the other die, or not mutually (R15, R410). -/
def badPair (b : List Byte) (n : Nat) : Bool :=
  let e := parseArr b n
  let o := parseArr b e.pair
  e.cut == 5 && !(e.pair < 8 && e.pair != n && e.pair / 4 == n / 4 && o.cut == 5 && o.pair == n)

/-- CUT1 on both arrays of a bad pairing (R410). [DEDUCED, log 75] -/
def ImgWork.unpair (x : ImgWork) (n : Nat) : ImgWork :=
  if badPair x.b n then
    let m := (parseArr x.b n).pair
    let both := if 8 ≤ m then [n] else if m < n then [m, n] else [n, m]
    both.foldl (fun (x : ImgWork) k => x.fix 2 (0xC0 + 4 * k) 0 3 true 0) x
  else x

/-- An OWNER byte that names a partition that is not VALID becomes 0xFF. -/
def ImgWork.ownerCross (x : ImgWork) (block off : Nat) : ImgWork :=
  let o := fieldAt x.b off 1
  if o = 0xFF ∨ x.valid o = true then x else x.fix block off 0 8 true 0xFF

/-- The torus section: logical extents within the physical ones, the own coordinate within its extents (R311). -/
def ImgWork.torusCross (x : ImgWork) : ImgWork :=
  (List.range 3).foldl (fun (x : ImgWork) i =>
    let d := fieldAt x.b (0xE0 + i) 1
    let x := x.fix 15 (0xE3 + i) 0 8 true (min d (fieldAt x.b (0xE3 + i) 1))
    if fieldAt x.b (0xE6 + i) 1 < d then x else x.fix 15 (0xE6 + i) 0 8 true 0) x

/-- A region: its owner, its end below the partner share, no overlap with an earlier valid region. -/
def ImgWork.regionCross (x : ImgWork) (r : Nat) : ImgWork :=
  let o := 0x100 + 8 * r
  let x := x.ownerCross 8 o
  let top := 128 - fieldAt x.b 0xEA 2 / 8
  let e := parseRegion x.b r
  let x := if top < e.start + e.size then x.fix 8 (o + 4) 0 16 true (top - e.start) else x
  let e := parseRegion x.b r
  let meets := (List.range r).any (fun q =>
    let f := parseRegion x.b q
    f.valid && f.stack == e.stack && e.start < f.start + f.size && f.start < e.start + e.size)
  if e.valid && meets then x.fix 8 (o + 6) 0 1 true 0 else x

/-- The legal T0 area for a partition of an image (R134, R410). -/
def legalT0 (i : Image) (p : Nat) : Nat :=
  let e := i.parts.getD p default
  let n := (i.arrays.filter (fun a => a.owner == p)).length
  if e.flagged ∨ n = 0 then 0 else nearest 0 (160 * n) n e.t0Mib

/-- The legal T1 area for a partition of an image (R410). -/
def legalT1 (i : Image) (p : Nat) : Nat :=
  let e := i.parts.getD p default
  let tot := (i.regions.filter (fun r => r.valid && r.owner == p)).foldl (fun t r => t + r.size) 0
  if e.flagged then 0 else min e.t1Gib tot

/-- The area fields, after the region section, partition by partition (R410). -/
def ImgWork.areas (x : ImgWork) : ImgWork :=
  (List.range 4).foldl (fun (x : ImgWork) p =>
    let i := parseImage x.b
    if x.valid p then (x.fix 7 (0x42 + 32 * p) 0 16 true (legalT0 i p)).fix 7 (0x44 + 32 * p) 0 16 true (legalT1 i p) else x) x

/-- Staging buffers: owners, and at most 64 MiB on a die; later buffers are reduced (R109). -/
def ImgWork.stagingCross (x : ImgWork) : ImgWork :=
  (List.range 64).foldl (fun (x : ImgWork) n =>
    let x := x.ownerCross 11 (0x200 + 4 * n)
    let sum := ((List.range n).filter (fun m => m / 32 == n / 32)).foldl (fun t m => t + (parseStage x.b m).mib) 0
    x.fix 11 (0x202 + 4 * n) 0 16 true (min (parseStage x.b n).mib (64 - sum))) x

/-- A licence reference to a slot without a verified licence becomes 0xFF (R427). [DEDUCED, log 75] -/
def ImgWork.licenceRefs (x : ImgWork) : ImgWork :=
  (List.range 4).foldl (fun (x : ImgWork) i =>
    let v := fieldAt x.b (24 + i) 1
    if v = 0xFF ∨ (v < 16 ∧ x.s.licenceOk v = true) then x else x.fix 19 (24 + i) 0 8 true 0xFF) x

/-- The cross-field checks of the sections before the remap table, in the order of the offsets. [DEDUCED, log 75] -/
def ImgWork.cross (x : ImgWork) : ImgWork :=
  let x := (List.range 4).foldl (fun (x : ImgWork) p => if x.valid p then x.partShares p else x.partGone p) x.licenceRefs
  let x := (List.range 8).foldl (fun (x : ImgWork) _ => (List.range 8).foldl (fun (x : ImgWork) n => x.unpair n) x) x
  let x := (List.range 8).foldl (fun (x : ImgWork) n => x.ownerCross 2 (0xC1 + 4 * n)) x
  let x := x.torusCross
  let x := (List.range 32).foldl (fun (x : ImgWork) r => x.regionCross r) x
  let x := x.areas.stagingCross
  (List.range 16).foldl (fun (x : ImgWork) k => x.ownerCross 12 (0x300 + k)) x

/-! ## Registers the image fills -/

/-- The registers of the peer torus: extents and own coordinate (14). -/
def State.loadTorus (s : State) (t : TorusImg) : State :=
  let s := s.wr .PER_TOPO 0 0 (BitVec.ofNat 32 (t.dx + t.dy * 2 ^ 7 + t.dz * 2 ^ 14))
  let s := s.wr .PER_LTOPO 0 0 (BitVec.ofNat 32 (t.lx + t.ly * 2 ^ 7 + t.lz * 2 ^ 14))
  s.wr .PER_COORD 0 0 (BitVec.ofNat 32 (coordNum { x := t.ox, y := t.oy, z := t.oz } + 2 ^ 18))

/-- A remap entry: its physical word, then its logical word with VALID judged against the entries before it (R313, R410). -/
def ImgWork.remapEntry (x : ImgWork) (i : Nat) : ImgWork :=
  let o := 0x400 + 8 * i
  let l := BitVec.ofNat 32 (fieldAt x.b o 4)
  let p := BitVec.ofNat 32 (fieldAt x.b (o + 4) 4)
  let x := { x with s := x.s.wr .PER_REMAPi_P i 0 (BitVec.ofNat 32 (wGet p 17 0)) }
  let x := if wGet l 31 31 = 1 ∧ x.s.remapLOk i (wGet l 17 0) = false then x.fix 15 o 31 1 true 0 else x
  let l := fieldAt x.b o 4
  { x with s := x.s.wr .PER_REMAPi_L i 0 (BitVec.ofNat 32 (bitsOf l 17 0 + bitsOf l 31 31 * 2 ^ 31)) }

/-- One word of a group entry under the cross-field rule of its register (R324, R410). -/
def ImgWork.grpWord (x : ImgWork) (g word : Nat) : ImgWork :=
  let o := 0x600 + 16 * g + 4 * word
  let r := if word = 3 then RegName.PER_GRPg_CTRL else grpReg word
  let w := BitVec.ofNat 32 (fieldAt x.b o 4)
  let app := if word = 3 then x.s.grpCtrlCross g w else x.s.grpDimCross g word w
  let x := r.spec.fields.foldl (fun (x : ImgWork) f =>
    if f.writable then x.fix 15 o f.lo (f.hi + 1 - f.lo) true (wGet app f.hi f.lo) else x) x
  { x with s := x.s.wr r g 0 (r.spec.fields.foldl (fun a f => if f.writable then wSet a f.hi f.lo (wGet app f.hi f.lo) else a) 0) }

/-- The remap table and the group table, entry by entry. -/
def ImgWork.tables (x : ImgWork) : ImgWork :=
  let i := parseImage x.b
  let x := { x with s := ({ x.s with boot := { x.s.boot with img := i } } : State).loadTorus i.torus }
  let x := (List.range 64).foldl (fun (x : ImgWork) n => x.remapEntry n) x
  (List.range 64).foldl (fun (x : ImgWork) g => (List.range 4).foldl (fun (x : ImgWork) w => x.grpWord g w) x) x

/-- Array and partition registers that show the image: cuts, modes and areas, allowances, port owners, the partner share. -/
def State.showImage (s : State) : State :=
  let i := s.boot.img
  let s := (List.range 8).foldl (fun (s : State) n =>
    let a := i.arrays.getD n { cut := 0, owner := 0xFF, pair := 0 }
    s.wr .ARR_An_CUT n 0 (BitVec.ofNat 32 (if a.cut = 5 then 5 + b2n (n < a.pair) * 8 + a.pair % 8 * 16 else a.cut))) s
  let s := (List.range 4).foldl (fun (s : State) p =>
    let e := s.part p
    let s := s.wr .TIER_CFG 0 p (BitVec.ofNat 32 (b2n e.flagged + e.t0Mib % 4096 * 2 ^ 8 + e.t1Gib % 4096 * 2 ^ 20))
    let s := s.wr .PWR_ALLOW 0 p (BitVec.ofNat 32 (e.allowW % 2048 + e.burstDj * 2 ^ 11))
    let q := s.portOwner p
    s.wr .EUT_Ek_CFG p 0 (BitVec.ofNat 32 (if q < 4 then q + 4 else 0))) s
  let s := (List.finRange 4).foldl (fun (s : State) p => s.resetBal p) s
  let s := s.wr .TIER_PARTNER 0 0 (BitVec.ofNat 32 i.torus.partnerGib)
  s.wr .GLB_IMAGE_ID 0 0 (BitVec.ofNat 32 i.id)

/-! ## ROM -/

/-- Check an image and put it in force (R406, R407, R410, R412): the structure report starts empty. [DEDUCED, log 75] -/
def State.clampImage (s : State) (b : List Byte) : State :=
  let s := { s with boot := { s.boot with structRep := [] } }.fset Fld.GLB_STRUCT_HEAD_COUNT 0
  let x := ((({ s := s, b := b } : ImgWork).features.ownRanges).cross).tables
  ({ x.s with boot := { x.s.boot with img := parseImage x.b } } : State).showImage

/-- The image that IMAGE_SEL names is measured and put in force, or the default image with GLB_BOOT_IMAGE_BAD where it is rejected (R408). -/
def State.chooseImage (s : State) : State :=
  let b := (s.flash.images.getD s.boot.imageSel []).take imageBytes
  let bad := imageBad b
  if bad = 0 then ((s.measureImage (some b)).fset Fld.GLB_BOOT_IMAGE 0).clampImage b
  else
    let s := s.event { code := 0x0F02, cls := 0, inst := 0, sev := 2, p1 := s.boot.imageSel, p2 := bad }
    ((s.measureImage none).fset Fld.GLB_BOOT_IMAGE 1).clampImage defaultImage

/-! ## Clamps of R404 -/

/-- The area fields of a partition checked again (R134, R410). -/
def State.areaAgain (s : State) (p : Nat) : State :=
  let e := s.part p
  let i := s.boot.img
  let t0 := legalT0 i p
  let t1 := legalT1 i p
  let s := if e.t0Mib = t0 then s else s.structClamp 7 0 16 true (0x42 + 32 * p) e.t0Mib t0
  let s := if e.t1Gib = t1 then s else s.structClamp 7 0 16 true (0x44 + 32 * p) e.t1Gib t1
  let s := { s with boot := { s.boot with img := { i with parts := i.parts.set p { e with t0Mib := t0, t1Gib := t1 } } } }
  s.wr .TIER_CFG 0 p (BitVec.ofNat 32 (b2n e.flagged + t0 % 4096 * 2 ^ 8 + t1 % 4096 * 2 ^ 20))

/-- An array and its slice are unavailable: OWNER is cleared and the areas of its partition are checked again (R404). -/
def State.arrayGone (s : State) (n : Nat) : State :=
  let s := s.fset Fld.NOC_MAP_An_R_ARRAY_OUT 1 n
  let a := s.arrImg n
  if a.owner = 0xFF then s
  else
    let s := s.structClamp 2 0 8 true (0xC1 + 4 * n) a.owner 0xFF
    let i := s.boot.img
    let s := { s with boot := { s.boot with img := { i with arrays := i.arrays.set n { a with owner := 0xFF } } } }
    s.areaAgain a.owner

/-- A stack is unavailable: VALID of its regions is cleared and the areas of their partitions are checked again (R404). -/
def State.stackGone (s : State) (n : Nat) : State :=
  (List.range 32).foldl (fun (s : State) r =>
    let i := s.boot.img
    let e := i.regions.getD r default
    if e.valid && e.stack == n then
      let s := s.structClamp 8 0 1 true (0x106 + 8 * r) 1 0
      let s := { s with boot := { s.boot with img := { i with regions := i.regions.set r { e with valid := false } } } }
      if e.owner < 4 then s.areaAgain e.owner else s
    else s) s

end Sys2Proof.Machine
end

