-- ==== Sys2Proof/Machine/Bringup.lean ====
section
/-! DEFINITION. Bring-up (R398 to R415): one command per phase, which fires at the end of its phase; the logical-to-physical map, memory
qualification, the topology check; and the loss of a reference clock and the JTAG takeover (R456, R460). -/

namespace Sys2Proof.Machine

/-- Whether bring-up is in a phase: PORST_N is high and no takeover holds the part. -/
def State.inPhase (s : State) (st : Nat) : Bool := s.pins.porstN && !s.boot.jtagHeld && s.bootState == st

/-- An event of bring-up (R415). -/
def State.bootEvent (s : State) (code sev p1 p2 : Nat) : State :=
  s.event { code := code, cls := 0, inst := 0, sev := sev, p1 := p1, p2 := p2 }

/-! ## ROM (R399, R406, R421, R424) -/

/-- ROM recovery: E0 alone trains, at G1 (R424). -/
def State.romRecovery (s : State) : State :=
  let s := (s.fset Fld.LNK_Pp_CTRL_ENABLE 1 6).fset Fld.LNK_Pp_CTRL_MAX_GEN 1 6
  s.setLnk ⟨6, by omega⟩ 1

/-- What `GLB_QUAL` shows of the qualification record. -/
def State.showQual (s : State) : State :=
  let q := s.flash.qual
  let since := (s.fget Fld.GLB_BOOT_BOOT_COUNT + 65536 - q.boot % 65536) % 65536
  s.wr .GLB_QUAL 0 0 (BitVec.ofNat 32 (q.boot % 65536 + min 255 since * 2 ^ 16 + b2n q.valid * 2 ^ 24 + b2n s.boot.newErr * 2 ^ 25))

/-- The work of the ROM phase: judgement, measurement, settings, licences, the image (R398, R421). -/
def State.romPhase (s : State) : State :=
  let s := s.judge
  if s.boot.recovery then s.romRecovery
  else
    let s := s.showFirmware.loadSettings.verifyLicences
    s.measureBoot.measureSettings.showQual.chooseImage

/-- ROM ends (R398). -/
def execRom (s : State) : Host.Outcome State Fault Refusal :=
  .next (if s.inPhase 0 then
    let s := s.romPhase
    if s.boot.recovery then s else s.enterBoot 1
  else s)

/-! ## The logical-to-physical map (R403, R404) -/

/-- A repair entry of an on-chip resource. -/
def chipRepair (kind unit index : Nat) : RepairEnt := { kind := kind, unit := unit, hit := { pseudo := 0, bank := index, row := 0, addr := 0 } }

/-- A map-out is recorded: array or engine or stack, kind, index (R415). [DEDUCED, log 76] -/
def State.mapOut (s : State) (unit kind index : Nat) : State := s.bootEvent 0x0F04 1 (unit % 8 + kind * 2 ^ 8) index

/-- A failing facet takes the spare, or stays out; under CUT1 or PAIRED its array is unavailable (R404). -/
def State.mapFacet (s : State) (n f : Nat) : State :=
  if s.fbit Fld.NOC_MAP_An_F_SPARE_USED n then
    let s := s.fset Fld.NOC_MAP_An_F_FACETS_OUT (s.fget Fld.NOC_MAP_An_F_FACETS_OUT n ||| 2 ^ (f % 16)) n
    let s := s.mapOut n 0 f
    if (s.arrImg n).cut = 0 ∨ (s.arrImg n).cut = 5 then s.arrayGone n else s
  else (s.fset Fld.NOC_MAP_An_F_SPARE_FOR (f % 16) n).fset Fld.NOC_MAP_An_F_SPARE_USED 1 n

/-- A failing scratchpad bank takes one of two spares; a third makes the slice and its array unavailable (R404). -/
def State.mapBank (s : State) (n bank : Nat) : State :=
  let used := s.fget Fld.NOC_MAP_An_R_SPD_SPARES n
  if used < 2 then s.fset Fld.NOC_MAP_An_R_SPD_SPARES (used + 1) n
  else ((s.fset Fld.NOC_MAP_An_R_SLICE_OUT 1 n).mapOut n 1 bank).arrayGone n

/-- A vector engine is mapped out (R404). -/
def State.engineGone (s : State) (e index : Nat) : State := (s.fset Fld.NOC_MAP_An_R_ENGINE_OUT 1 e).mapOut e 2 index

/-- A failing lane group takes the spare group, or the engine is mapped out (R404, R405). -/
def State.mapLane (s : State) (e g : Nat) : State :=
  if s.fbit Fld.NOC_MAP_An_R_LANE_SPARE e then s.engineGone e g
  else (s.fset Fld.NOC_MAP_An_R_LANE_GROUP (g % 32) e).fset Fld.NOC_MAP_An_R_LANE_SPARE 1 e

/-- Apply one entry of the factory map or of the repair record (R403). -/
def State.applyMap (s : State) (kind unit index : Nat) : State :=
  match kind with
  | 4 => s.mapBank unit index
  | 5 => s.mapFacet unit index
  | 6 => s.mapLane unit index
  | _ => s

/-- FABRIC ends: the factory map and the field map are loaded and applied together (R403). -/
def State.fabricPhase (s : State) : State :=
  let s := Config.factoryMap.foldl (fun (s : State) e => s.applyMap (e.1 % 8) (e.2.1 % 8) e.2.2) s
  s.flash.repair.foldl (fun (s : State) e => s.applyMap e.kind (e.unit % 8) e.hit.bank) s

/-- FABRIC (R398). -/
def execFabric (s : State) : Host.Outcome State Fault Refusal :=
  .next (if s.inPhase 1 then s.fabricPhase.enterBoot 2 else s)

/-! ## SRAM (R403, R404) -/

/-- An on-chip SRAM macro beyond its spares (R404). -/
def State.sramFail (s : State) (which : Nat) : State := s.enterFailed.bootEvent 0x0F05 3 which 0

/-- One defect that BIST found: it enters the repair record and takes a spare, or acts as R404 states. [DEDUCED, log 76] -/
def State.sramDefect (s : State) (d : SramDefect) : State :=
  match d with
  | .bank n b => (s.addRepair (chipRepair 4 n.val b)).mapBank n.val b
  | .laneGroup e g =>
    let s := s.addRepair (chipRepair 6 e.val g)
    let s := { s with boot := { s.boot with newErr := true } }
    s.mapLane e.val g
  | .cacheRows e out =>
    let s := s.addRepair (chipRepair 7 e.val 0)
    if out then s.engineGone e.val e.val else s
  | .macroRows m out => if out then s.sramFail m else s.addRepair (chipRepair 7 m 0)

/-- SRAM (R403): bring-up goes on unless a macro failed beyond its spares. -/
def execSram (defects : List SramDefect) (s : State) : Host.Outcome State Fault Refusal :=
  .next (if s.inPhase 2 then
    let s := defects.foldl (fun (s : State) d => s.sramDefect d) s
    if s.bootState = 0xA then s else s.enterBoot 3
  else s)

/-! ## HBM training and qualification (R400 to R402) -/

/-- HBM_TRAIN ends: a stack of which a channel failed twice is unavailable (R404). -/
def State.hbmTrain (s : State) (failed : List Quad) : State :=
  (List.finRange 8).foldl (fun (s : State) n =>
    let x := vget s.hbm n
    let s := s.setStack n { x with avail := !failed.contains n, selfRef := false }
    if failed.contains n then (s.mapOut n.val 3 n.val).stackGone n.val else s) s

/-- HBM_TRAIN (R398). -/
def execHbmTrain (failedTwice : List Quad) (s : State) : Host.Outcome State Fault Refusal :=
  .next (if s.inPhase 3 then (s.hbmTrain failedTwice).enterBoot 4 else s)

/-- The rows, pages and banks of a stack as the repair record holds them. -/
def repairRows (l : List RepairEnt) (kind unit : Nat) : List RowHit :=
  (l.filter (fun e => e.kind == kind && e.unit == unit)).map (·.hit)

/-- Each soft repair in the repair record becomes a permanent one (R402). -/
def State.permRepair (s : State) : State :=
  { s with flash := { s.flash with repair := s.flash.repair.map (fun e => if e.kind = 0 then { e with kind := 8 } else e) } }

/-- Load a stack's tables from the repair record; each bank marked for retirement is excluded (R164, R402). -/
def State.loadRepair (s : State) (n : Quad) : State :=
  let get (k : Nat) : List RowHit := repairRows s.flash.repair k n.val
  let pages := get 1
  let weak := (get 3).filter (fun h => !pages.any (fun q => pageOf q.addr == pageOf h.addr))
  let s := s.setStack n { vget s.hbm n with retired := pages, banks := get 2, excluded := get 2, repaired := get 0 ++ get 8, weak := weak }
  let s := s.fset Fld.HBM_STACKn_RETIRED_PAGES pages.length n.val
  let s := s.fset Fld.HBM_STACKn_RETIRED_BANKS (get 2).length n.val
  s.fset Fld.HBM_STACKn_RETIRED_WEAK (min 0xFFF weak.length) n.val

/-- Each page already listed as weak retires (R402). -/
def State.retireWeak (s : State) (n : Quad) : State := (vget s.hbm n).weak.foldl (fun (s : State) h => s.retirePage n h) s

/-- The SHA-384 of the HMC image in force, as a number (R401, R423). -/
def State.hmcMeasure (s : State) : Nat := (Config.sha384 (s.classImage (s.boot.booted.getD 5 0) 5)).toNat

/-- Whether the fast pass runs in place of a full qualification (R401). -/
def State.fastOk (s : State) : Bool :=
  let q := s.flash.qual
  q.valid && (s.fget Fld.GLB_BOOT_BOOT_COUNT + 65536 - q.boot % 65536) % 65536 < 64 && !s.boot.newErr
    && s.hmcMeasure == q.hmcMeas && !s.fbit Fld.GLB_BOOT_CFG_FORCE_FULL

/-- Each failing row is a repair candidate (R402). -/
def State.failingRows (s : State) (failing : List Nat) : State :=
  failing.foldl (fun (s : State) a => s.rowCandidate (stackOf a) (placeOf a) true) s

/-- A full qualification: the candidates are acted on, then the record is written (R402); the margins it measures are free values. [DEDUCED, log 76] -/
def State.fullQual (s : State) (failing : List Nat) : State :=
  let s := (s.failingRows failing).bootEvent 0x0F03 0 0 failing.length
  let (m, s) := s.draw 4096
  let q : QualRec :=
    { valid := true, boot := s.fget Fld.GLB_BOOT_BOOT_COUNT, hmcMeas := s.hmcMeasure, margins := m, repairLen := s.flash.repair.length }
  let s := { s with flash := { s.flash with qual := q }, boot := { s.boot with newErr := false } }
  s.showQual

/-- QUALIFY: the fast pass, which any failing word turns into a full qualification in the same bring-up, or a full one (R401, R402). [DEDUCED, log 76] -/
def State.qualify (s : State) (failing : List Nat) : State :=
  let fast := s.fastOk
  let s := (List.finRange 8).foldl (fun (s : State) n => s.loadRepair n) s.permRepair
  let s := (List.finRange 8).foldl (fun (s : State) n => s.retireWeak n) s
  if fast then
    let s := (s.fset Fld.GLB_BOOT_FAST 1).bootEvent 0x0F03 0 1 failing.length
    if failing.isEmpty then s
    else ({ s with flash := { s.flash with qual := { s.flash.qual with valid := false } } } : State).fullQual failing
  else (s.fset Fld.GLB_BOOT_FAST 0).fullQual failing

/-- LINKS begins: every port that the image uses is enabled and starts training (R282, R291, R310). [DEDUCED, log 77] -/
def State.startLinks (s : State) : State :=
  (List.finRange 10).foldl (fun (s : State) p =>
    let s := s.fset Fld.LNK_Pp_CTRL_ENABLE (if s.portUnused p.val then 0 else 1) p.val
    if s.mayTrain p && s.portState p.val == 0 then s.setLnk p 1 else s) s

/-- QUALIFY (R400). -/
def execQualify (failing : List Nat) (s : State) : Host.Outcome State Fault Refusal :=
  .next (if s.inPhase 4 then ((s.qualify failing).enterBoot 5).startLinks else s)

/-! ## LINKS (R8, R398, R413) -/

/-- Hold with a cause: bit 0 licence, 1 topology, 2 partition rule. -/
def State.hold (s : State) (cause : Nat) : State := (s.fset Fld.GLB_BOOT_HOLD_CAUSE cause).enterBoot 9

/-- The mask of occupied licence slots. -/
def State.licenceSlots (s : State) : Nat :=
  (List.range 16).foldl (fun m i => if (s.flash.licences.getD i []).isEmpty then m else m + 2 ^ i) 0

/-- LINKS ends: without a verified licence the part holds here (R8, R414). -/
def State.linksEnd (s : State) : State :=
  if s.licensed then s.enterBoot 6
  else (s.secEvent 0x0D01 2 s.licenceSlots 0).hold 1

/-- LINKS: every enabled port is ACTIVE (R398). -/
def execLinks (s : State) : Host.Outcome State Fault Refusal :=
  .next (if s.inPhase 5 && (List.finRange 10).all (fun p => !s.mayTrain p || s.portActive p.val) then s.linksEnd else s)

/-- LINK_WAIT_EXPIRY: LINK_WAIT_S has elapsed (R398, R413). -/
def execLinkWaitExpiry (s : State) : Host.Outcome State Fault Refusal := .next (if s.inPhase 5 then s.linksEnd else s)

/-! ## COMPUTE (R405) -/

/-- COMPUTE ends: failing facets and lane groups take spares or are mapped out and enter the repair record; suspects that passed are
cleared. [DEDUCED, log 76] -/
def State.compute (s : State) (facets lanes : List (Quad × Nat)) : State :=
  let s := facets.foldl (fun (s : State) e => (s.addRepair (chipRepair 5 e.1.val e.2)).mapFacet e.1.val e.2) s
  let s := lanes.foldl (fun (s : State) e => (s.addRepair (chipRepair 6 e.1.val e.2)).mapLane e.1.val e.2) s
  (List.range 8).foldl (fun (s : State) n => (s.fset Fld.ARR_An_SUSPECT_FACETS 0 n).fset Fld.VEC_Vn_STATE_REG_SUSPECT 0 n) s

/-- COMPUTE (R405). -/
def execCompute (facets lanes : List (Quad × Nat)) (s : State) : Host.Outcome State Fault Refusal :=
  .next (if s.inPhase 6 then (s.compute facets lanes).enterBoot 7 else s)

/-! ## TOPOLOGY (R411, R413, R414) -/

/-- The rule that an ACTIVE port breaks: 1 role, 2 port index, 3 neighbour slot (R413, R415). -/
def State.portRule (s : State) (p : Nat) : Option Nat :=
  let role := s.fget Fld.LNK_Pp_PEER_ID_ROLE p
  if p < 6 then
    let want := s.boot.img.torus.nbr.getD p 0xFF
    if role ≠ 1 then some 1
    else if s.fget Fld.LNK_Pp_PEER_ID_PORT p ≠ (if p % 2 = 0 then p + 1 else p - 1) then some 2
    else if want ≠ 0xFF ∧ s.fget Fld.LNK_Pp_PEER_ID_SLOT_ID p ≠ want then some 3
    else none
  else if role ≠ 3 then some 1 else none

/-- The disagreements of the topology check as (port, rule); the own straps are reported as port 0xFF (log 51). [DESIGN CHOICE, log 51] -/
def State.disagreements (s : State) : List (Nat × Nat) :=
  let want := s.boot.img.torus.slotExpect
  (if want ≠ 0xFF ∧ s.fget Fld.GLB_STRAPS_SLOT_ID ≠ want then [(0xFF, 0)] else [])
    ++ ((List.range 10).filter (fun p => !s.portUnused p && s.portActive p)).filterMap (fun p => (s.portRule p).map (fun r => (p, r)))

/-- A used port that is not ACTIVE is absent and treated as down (R287, R413). [DEDUCED, log 77] -/
def State.absentPorts (s : State) : State :=
  (List.finRange 10).foldl (fun (s : State) p =>
    if s.mayTrain p && !s.portActive p.val then
      let s := s.bootEvent 0x0F06 1 p.val 0
      if h : p.val < 6 then s.deadLink ⟨p.val, h⟩ else s
    else s) s

/-- Whether a VALID partition has no Euton port, or no array (R291, R411). -/
def State.partitionRule (s : State) : Bool :=
  (List.range 4).any (fun p => (s.part p).valid && ((s.part p).ports == 0 || (s.ownArrays p).isEmpty))

/-- The topology check (R413, R414): HELD on any disagreement or a partition without port or array, otherwise READY. The booted firmware
set becomes ACTIVE (R422). [DEDUCED, log 77] -/
def State.topology (s : State) : State :=
  let bad := s.disagreements
  let s := s.absentPorts
  let s := bad.foldl (fun (s : State) e =>
    s.bootEvent 0x0F07 2 (e.1 + e.2 * 2 ^ 8) (if e.1 < 10 then s.rd64 .LNK_Pp_PEER_LO .LNK_Pp_PEER_HI e.1 else 0)) s
  let cause := (if bad.isEmpty then 0 else 2) + (if s.partitionRule then 4 else 0)
  if cause ≠ 0 then (s.hold cause).activate
  else ((s.enterBoot 8).bootEvent 0x0F08 0 (s.fget Fld.GLB_STRUCT_HEAD_COUNT) (s.fget Fld.GLB_BOOT_BOOT_COUNT)).activate

/-- TOPOLOGY (R413). -/
def execTopology (s : State) : Host.Outcome State Fault Refusal := .next (if s.inPhase 7 then s.topology else s)

/-! ## Reference clocks and JTAG (R456, R460) -/

/-- GLB_REFCLK_LOSS: a reference is lost for 10 µs; the part fails fast (R434, R456). [DEDUCED, log 78] -/
def execGlbRefclkLoss (clk : Fin 4) (s : State) : Host.Outcome State Fault Refusal := .next (s.bootEvent 0x0121 3 clk.val 0)

/-- FAIL on the peer ports alone (R460); the ports sent on are recorded (R288). [DEDUCED, log 78] -/
def State.failPeers (s : State) : State :=
  let m := s.activeMask % 64
  let s := (List.finRange 6).foldl (fun (s : State) p => s.failPort 4 (peerPort p)) s
  s.eventNoFail { code := 0x0906, cls := 0x00, inst := 0, sev := 0, p1 := 4, p2 := m }

/-- GLB_JTAG_TAKEOVER: FAIL on the peer ports, then FAILED until the next cold reset; no command runs in FAILED (R399, R460). While
PORST_N is low nothing is recorded. [DEDUCED, log 78] -/
def State.jtagTakeover (s : State) (code : Nat) : State :=
  if !s.pins.porstN then s
  else
    let s := s.eventNoFail { code := 0x0120, cls := 0, inst := 0, sev := 3, p1 := code }
    let s := s.failPeers
    let s := { s with queues := [], boot := { s.boot with jtagHeld := true } }
    s.enterFailed

/-- GLB_JTAG_TAKEOVER (R460). -/
def execGlbJtagTakeover (code : Nat) (s : State) : Host.Outcome State Fault Refusal := .next (s.jtagTakeover code)

end Sys2Proof.Machine
end

