-- ==== Sys2Proof/Machine/Recorder.lean ====
section
/-! DEFINITION. The event recorder (R437 to R441, R474) and the check-value units (R442 to R445). -/

namespace Sys2Proof.Machine

/-! ## Flush and ring -/

/-- Pages the ring keeps programmed at most: 19,968 less 128 KiB erased ahead (R396, R439). -/
def ringPages : Nat := 19968 - 32

/-- Append records to the pages of the ring: the open page fills first, then further pages (R474). -/
def ringAppend (boot : Nat) : List EvPage → List EvRec → List EvPage
  | ps, [] => ps
  | ps, r :: t =>
    let ps :=
      match ps.getLast? with
      | some pg => if pg.recs.length < 127 then ps.dropLast ++ [{ pg with recs := pg.recs ++ [r] }]
                   else ps ++ [{ boot := boot, first := r.num, recs := [r] }]
      | none => [{ boot := boot, first := r.num, recs := [r] }]
    ringAppend boot ps t

/-- Erase the oldest 64 KiB sectors (16 pages each) as the ring wraps (R439). -/
def ringErase (ps : List EvPage) : List EvPage :=
  if ps.length ≤ ringPages then ps else ps.drop ((ps.length - ringPages + 15) / 16 * 16)

/-- The lowest record number the ring and the buffer still hold. [DEDUCED, log 72] -/
def State.ringLow (s : State) : Nat :=
  match s.flash.ring.head? with
  | some pg => pg.first
  | none => match s.evr.buf.head? with
    | some r => r.num
    | none => s.evNext

/-- Write every waiting record to the ring; each slot is freed (R474). The wrap raises EVR_LOW. [DEDUCED, log 101] -/
def State.flushOnce (s : State) : State :=
  let ring := ringErase (ringAppend (s.fget Fld.GLB_BOOT_BOOT_COUNT) s.flash.ring s.evr.buf)
  let s := { s with flash := { s.flash with ring := ring }, evr := { s.evr with buf := [], flushDue := false } }
  s.wr64 .EVR_LOW_LO .EVR_LOW_HI (max (s.rd64 .EVR_LOW_LO .EVR_LOW_HI) (if ring.isEmpty then 0 else s.ringLow))

/-- A flush: every waiting record is written; a drop episode ends with EVR_LOST, which is stored and written too (R437). [DEDUCED, log 101] -/
def State.flush (s : State) : State :=
  let s := s.flushOnce
  if s.evr.episode then
    let n := s.evr.dropped
    let s := { s with evr := { s.evr with episode := false, dropped := 0 } }
    (s.event { code := 0x0E03, cls := 0, inst := 0, sev := 1, p1 := n }).flushOnce
  else s

/-- EVR_FLUSH: the flush that is due completes (R474). [DESIGN CHOICE, log 7] -/
def execEvrFlush (s : State) : Host.Outcome State Fault Refusal :=
  .next (if s.evr.flushDue && s.pins.porstN then s.flush else s)

/-- EVR_FLUSH_TIMER: FLUSH_MS has passed since the oldest waiting record was stored (R438). -/
def execEvrFlushTimer (s : State) : Host.Outcome State Fault Refusal :=
  .next (if s.evr.buf.isEmpty then s else { s with evr := { s.evr with flushDue := true } })

/-- The records that can be read, oldest first: those of the ring and those still in SRAM (R440). -/
def State.readable (s : State) : List EvRec := s.flash.ring.flatMap (fun pg => pg.recs) ++ s.evr.buf

/-- EVR_ADVANCE of a view: the lowest record at or above the cursor and EVR_LOW, of the view's partition, is copied into the
data registers and the cursor moves past it (R440). -/
def State.evrAdvance (s : State) (view : Nat) : State :=
  let cur := s.rd64 .EVR_CUR_LO .EVR_CUR_HI 0 view
  let low := s.rd64 .EVR_LOW_LO .EVR_LOW_HI
  match s.readable.find? (fun r => cur ≤ r.num && low ≤ r.num && (view == 4 || r.part == view)) with
  | none => s.fset Fld.EVR_RD_CTRL_FOUND 0 0 view
  | some r =>
    let s := (List.range 8).foldl (fun s w => s.wr .EVR_RD_DATAw w view (BitVec.ofNat 32 (fieldAt r.bytes (4 * w) 4))) s
    let s := s.fset Fld.EVR_RD_CTRL_FOUND 1 0 view
    s.wr64 .EVR_CUR_LO .EVR_CUR_HI (r.num + 1) 0 view

/-- EVR_ADVANCE (R440). -/
def execEvrAdvance (v : View) (s : State) : Host.Outcome State Fault Refusal := .next (s.evrAdvance (viewIdx v))

/-- The commit of an anchor by partition `p`: the value is stored and EVR_ANCHOR is recorded with HOST set (R436). -/
def State.evrAnchor (s : State) (p req : Nat) (hi : Word) : State :=
  let lo := s.stagedOr req .EVR_ANCHOR_LO 0 p
  let s := (s.unstage req .EVR_ANCHOR_LO 0 p).wr .EVR_ANCHOR_LO 0 p lo
  let s := s.wr .EVR_ANCHOR_HI 0 p hi
  s.event { code := 0x0E01, cls := 0x0C, inst := 0, sev := 0, part := p, p1 := lo.toNat + 2 ^ 32 * hi.toNat, host := true }

/-- EVR_ANCHOR (R436). -/
def execEvrAnchor (p : Part) (hi : Word) (s : State) : Host.Outcome State Fault Refusal := .next (s.evrAnchor p.val p.val hi)

/-- A write of EVR_CLEAR_CTRL by P0 in the global window or the management core (R441). -/
def State.evrClear (s : State) (r : Requester) (v : Word) : State :=
  if wGet v 16 16 = 0 then s
  else
    let allowed := match r with | .mgc => true | .part p => p.val == 0
    if !allowed || wGet v 15 0 ≠ s.fget Fld.GLB_BOOT_BOOT_COUNT then
      s.accessErr (match r with | .mgc => 4 | .part p => if p.val = 0 then 4 else p.val)
    else
      let upto := s.rd64 .EVR_CLEAR_LO .EVR_CLEAR_HI
      let low := max (s.rd64 .EVR_LOW_LO .EVR_LOW_HI) (min upto s.evNext)
      let s := s.wr64 .EVR_LOW_LO .EVR_LOW_HI low
      let s := s.sqSet .EVR_STATUS 0 0 [Fld.EVR_STATUS_CLEARED] []
      s.event { code := 0x0E02, cls := 0, inst := 0, sev := 1, p1 := upto, p2 := match r with | .mgc => 1 | .part _ => 0 }

/-- EVR_CLEAR (R441). -/
def execEvrClear (r : Requester) (v : Word) (s : State) : Host.Outcome State Fault Refusal := .next (s.evrClear r v)

/-! ## Check-value units -/

/-- Registers of unit `u`: MODE, POLY, RUN, SRC, DST, LEN. -/
def State.chkMode (s : State) (u : Nat) : Nat := s.fget Fld.CHK_Uu_CTRL_MODE u
def State.chkPoly (s : State) (u : Nat) : Nat := s.fget Fld.CHK_Uu_CTRL_POLY u
def State.chkRun (s : State) (u : Nat) : Nat := s.rd64 .CHK_Uu_RUN_LO .CHK_Uu_RUN_HI u
def State.chkSrc (s : State) (u : Nat) : Nat := s.rd64 .CHK_Uu_SRC_LO .CHK_Uu_SRC_HI u
def State.chkDst (s : State) (u : Nat) : Nat := s.rd64 .CHK_Uu_DST_LO .CHK_Uu_DST_HI u
def State.chkLen (s : State) (u : Nat) : Nat := s.rd64 .CHK_Uu_LEN_LO .CHK_Uu_LEN_HI u

/-- Whether a unit is running or held by a DIGEST (R445). -/
def State.chkHeld (s : State) (u : Nat) : Bool := s.fbit Fld.CHK_Uu_CTRL_BUSY u || s.fbit Fld.CHK_Uu_CTRL_OWNED u

/-- A range lies in T0 or T1 (R444). -/
def inT01 (a len : Nat) : Bool := a + len ≤ t0End || (hbmBase ≤ a && a + len ≤ hbmEnd)

/-- Whether the parameters of a START are legal (R444): LEN from 1 to 2⁴⁰, ranges in T0 or T1 outside the partner region (R153), and DST not overlapping the
source range, which in CHECK_STRIP includes the stored value. [DEDUCED, log 100] -/
def State.chkLegal (s : State) (u : Nat) : Bool :=
  let len := s.chkLen u
  let w := checkWidth (s.chkPoly u)
  let srcLen := if s.chkMode u = 2 then len + w else len
  let dstLen := if s.chkMode u = 1 then len + w else len
  let free (a n : Nat) : Bool := inT01 a n && !s.inPartner (a, a + n)
  1 ≤ len && len ≤ 2 ^ 40 && free (s.chkSrc u) srcLen
    && (s.chkMode u = 0 || (free (s.chkDst u) dstLen
        && (s.chkDst u + dstLen ≤ s.chkSrc u || s.chkSrc u + srcLen ≤ s.chkDst u)))

/-- Update a check-value unit. -/
def State.setChk (s : State) (u : Fin 4) (x : ChkSt) : State := { s with chk := vset s.chk u x }

/-- The bytes of a range before its first poisoned word. [DEDUCED, log 100] -/
def State.cleanLen (s : State) (a len : Nat) : Nat :=
  (((List.range (len / 64 + 2)).find? (fun i => s.poisoned ((a / 64 + i) * 64) 64)).map (fun i => (a / 64 + i) * 64 - a)).getD len

/-- A START of unit `u` in the mode its MODE names (R443, R444): an illegal combination sets BAD_PARAM and starts nothing; a
poisoned source word stops the unit, with RUN and DST as the bytes before it leave them; otherwise RUN continues over the source, and APPEND and CHECK_STRIP write their output.
CHK_DONE reports what was found. [DEDUCED, log 100] -/
def State.chkStart (s : State) (u : Fin 4) : State :=
  if s.chkHeld u.val then s
  else if !s.chkLegal u.val then s.sqSet .CHK_Uu_STATUS u.val 0 [Fld.CHK_Uu_STATUS_BAD_PARAM] []
  else
    let poly := s.chkPoly u.val
    let w := checkWidth poly
    let mode := s.chkMode u.val
    let len := s.chkLen u.val
    let srcLen := if mode = 2 then len + w else len
    let s := s.fset Fld.CHK_Uu_CTRL_BUSY 1 u.val
    let ((bs, bad), s) := s.readAs 4 (s.chkSrc u.val) srcLen
    if bad then
      let n := min len (s.cleanLen (s.resolve (s.chkSrc u.val)) srcLen)
      let s := s.wr64 .CHK_Uu_RUN_LO .CHK_Uu_RUN_HI (checkValue poly (s.chkRun u.val) (bs.take n)) u.val
      let s := if mode = 0 then s else (s.writeAs 4 (s.chkDst u.val) (bs.take n)).1
      s.setChk u { vget s.chk u with poison := true }
    else
      let body := bs.take len
      let run := checkValue poly (s.chkRun u.val) body
      let s := s.wr64 .CHK_Uu_RUN_LO .CHK_Uu_RUN_HI run u.val
      match mode with
      | 0 => s
      | 1 => (s.writeAs 4 (s.chkDst u.val) (body ++ checkBytes poly run)).1
      | _ =>
        let s := (s.writeAs 4 (s.chkDst u.val) body).1
        if bs.drop len = checkBytes poly run then s else s.setChk u { vget s.chk u with mismatch := true }

/-- CHK_SCAN: START in SCAN mode (R444). -/
def execChkScan (u : Fin 4) (s : State) : Host.Outcome State Fault Refusal :=
  .next (if s.chkMode u.val = 0 then s.chkStart u else s)

/-- CHK_APPEND: START in APPEND mode (R444). -/
def execChkAppend (u : Fin 4) (s : State) : Host.Outcome State Fault Refusal :=
  .next (if s.chkMode u.val = 1 then s.chkStart u else s)

/-- CHK_CHECK_STRIP: START in CHECK_STRIP mode (R444). -/
def execChkCheckStrip (u : Fin 4) (s : State) : Host.Outcome State Fault Refusal :=
  .next (if s.chkMode u.val = 2 then s.chkStart u else s)

/-- The end of a unit's run: BUSY clears, and MISMATCH with its event or POISON is set where found (R444). -/
def State.chkDone (s : State) (u : Fin 4) : State :=
  if !s.fbit Fld.CHK_Uu_CTRL_BUSY u.val then s
  else
    let x := vget s.chk u
    let s := s.fset Fld.CHK_Uu_CTRL_BUSY 0 u.val
    let s := s.setChk u { x with mismatch := false, poison := false }
    let s := if x.poison then s.sqSet .CHK_Uu_STATUS u.val 0 [Fld.CHK_Uu_STATUS_POISON] [] else s
    if x.mismatch then
      let s := s.sqSet .CHK_Uu_STATUS u.val 0 [Fld.CHK_Uu_STATUS_MISMATCH] []
      s.event { code := 0x0E20, cls := 0x0B, inst := u.val, sev := 2, p1 := u.val, p2 := s.chkSrc u.val }
    else s

/-- CHK_DONE (R444). -/
def execChkDone (u : Fin 4) (s : State) : Host.Outcome State Fault Refusal := .next (s.chkDone u)

end Sys2Proof.Machine
end

