-- ==== Sys2Proof/Machine/Digest.lean ====
section
/-! DEFINITION. DIGEST (R446) on the check-value units, and LEDGER with EXPORT (R231, R237). -/

namespace Sys2Proof.Machine

/-! ## DIGEST -/

/-- The checks of DIGEST after its listed tensors (R446). -/
def checkDigest (c : Cmd) : Nat :=
  let o := c.desc 1
  if cOparg c ≠ 0 ∨ listOk (c.desc 0) = false ∨ o.dtype ≠ 0x0F ∨ o.rank ≠ 1 ∨ o.dim 0 ≠ 2 then 0x0208 else 0

/-- The units that neither run nor are held (R445). -/
def State.freeUnits (s : State) : List (Fin 4) := (List.finRange 4).filter (fun u => !s.chkHeld u.val)

/-- The stream of a digest: each listed tensor packed densely, then the scales of an MX tensor. -/
def State.digestStream (s : State) (ds : List TDesc) : List Byte :=
  ds.flatMap (fun d => s.densePack d ++ (if isMx d.dtype then s.bytes d.scale d.scaleCount else []))

/-- The division of a stream of 64 KiB pieces among `n` units: contiguous ranges in bytes, earlier ranges taking the extra pieces. [DEDUCED, log 87] -/
def digestRanges (total n : Nat) : List (Nat × Nat) :=
  let k := ceilDiv total 65536
  ((List.range n).foldl (fun (a : Nat × List (Nat × Nat)) i =>
    let m := k / n + (if i < k % n then 1 else 0)
    (a.1 + m, a.2 ++ [(min total (a.1 * 65536), min total ((a.1 + m) * 65536))])) (0, [])).2

/-- Hold units for a digest, each with the check value of its range in RUN (R445, R446). [DEDUCED, log 87] -/
def State.holdUnits (s : State) (r : CmdRef) (us : List (Fin 4)) (data : List Byte) : State :=
  let rs := digestRanges data.length us.length
  (List.range us.length).foldl (fun (s : State) i =>
    match us[i]? with
    | none => s
    | some u =>
      let e := rs.getD i (0, 0)
      let s := s.fset Fld.CHK_Uu_CTRL_OWNED 1 u.val
      let s := s.wr64 .CHK_Uu_RUN_LO .CHK_Uu_RUN_HI (crc64 ((data.drop e.1).take (e.2 - e.1))) u.val
      s.setChk u { vget s.chk u with owner := some r }) s

/-- Release the units of a digest. -/
def State.freeChk (s : State) (r : CmdRef) : State :=
  (List.finRange 4).foldl (fun (s : State) u =>
    let k := vget s.chk u
    if k.owner = some r then (s.fset Fld.CHK_Uu_CTRL_OWNED 0 u.val).setChk u { k with owner := none } else s) s

/-- DIGEST (R446): T2 homes are brought first; then it waits for a free unit, and writes the CRC-64 of the whole stream, which does not
depend on its division. [DEDUCED, log 87] -/
def State.digest (s : State) (r : CmdRef) (c : Cmd) : State :=
  let p := r.part.val
  let ds := c.listed
  let (s, ready) := s.t2Stage r (ds.flatMap (fun d => [(d.base, d.extent)] ++ (if isMx d.dtype then [(d.scale, d.scaleCount)] else [])))
  if !ready || s.freeUnits.isEmpty then s
  else
    let (s, st) := s.fetchTensors p ds
    if st ≠ 0 then (s.t2Drop r).failRun r c st
    else
      let data := s.digestStream ds
      let us := s.freeUnits.take (max 1 (ceilDiv data.length 65536))
      let v := crc64 data
      let s := (s.t2Drop r).holdUnits r us data
      let o := c.desc 1
      let code (i : Nat) : FVal := ofInt (BitVec.ofNat 32 (v / 2 ^ (32 * i))).toInt 0
      let (s, st) := s.writeRuns p [(o.base, leBytes 8 v)]
      let rec0 := (List.range 2).foldl (fun (l : LedRec) i => l.count (code i) (bitsOf v (32 * i + 31) (32 * i) == 0) 0)
        { (default : LedRec) with tid := o.tid }
      s.endRun r (c.record o rec0) st

/-- DIGEST (R446). -/
def execDigest (c : CmdRef) (s : State) : Host.Outcome State Fault Refusal :=
  .next (match s.running c 0x0080 with | some d => s.digest c d | none => s)

/-! ## LEDGER and EXPORT (R231, R237) -/

def exDest (c : Cmd) : Nat := fieldAt c.bytes 64 1
def exPort (c : Cmd) : Nat := fieldAt c.bytes 65 1
def exAddr (c : Cmd) : Nat := fieldAt c.bytes 72 8
def exSpace (c : Cmd) : Nat := fieldAt c.bytes 80 8

/-- The checks of EXPORT at step 4 that follow those of LEDGER and of its tensors (R237). [DEDUCED, log 86] -/
def State.checkExport (s : State) (p : Nat) (c : Cmd) : Nat :=
  let total := (s.exportImage 0 c.listedSw).2
  if 1 < exDest c ∨ exAddr c % 4096 ≠ 0 ∨ (fieldAt c.bytes 66 6 ≠ 0) ∨ (c.bytes.drop 88).any (fun b => b != 0) = true then 0x0208
  else if exDest c = 1 then
    (if exSpace c < total ∨ 4 ≤ exPort c ∨ s.portOwner (exPort c) ≠ p then 0x0202 else 0)
  else if exSpace c < total ∨ isHbm (exAddr c) = false ∨ s.ownsT01 p (exAddr c) total = false then 0x0202
  else 0

/-- An EXPORT has ended well: NUM_EXPORT (R239), and the operation ends. -/
def State.exportDone (s : State) (r : CmdRef) (c : Cmd) (total : Nat) : State :=
  (s.numEvent r.part.val 0x0407 0 (leNat c.aux) total).finish r c

/-- Run EXPORT (R237): the tensors are read, and the image goes to HBM or, as snapshot traffic, to the host. `c.aux` holds the STEP in force
when it started; `c.hint` keeps its meaning; `c.pieces` holds the total of an image under way. [DEDUCED, log 86] -/
def State.exportRun (s : State) (r : CmdRef) (c : Cmd) : State :=
  let p := r.part.val
  if c.pieces ≠ 0 then s
  else
    let (s, st) := s.fetchTensors p c.listed
    if st ≠ 0 then s.failRun r c st
    else
      let (runs, total) := s.exportImage (leNat c.aux) c.listedSw
      if exDest c = 0 then
        let (s, st) := s.writeRuns p [(exAddr c, denseRuns 0 runs)]
        if st ≠ 0 then s.failRun r c st else s.exportDone r c total
      else if s.flashAbsent (exPort c) (exAddr c) then
        let (st, s) := s.snapStatus
        s.failRun r c st
      else
        let img := denseRuns 0 runs
        let s := s.setCmd p r.queue.val { c with pieces := total }
        (pieces64 (img.length + 1) (exAddr c) img.length).foldl (fun (s : State) e =>
          s.sendSnapWr (exPort c) r e.1 (e.1 - exAddr c) ((img.drop (e.1 - exAddr c)).take e.2)) s

/-- An UPDATE of the partition starts: a running EXPORT fails with NUM_EXPORT_TORN and its destination is undefined (R237). [DEDUCED, log 86] -/
def State.tearExports (s : State) (p : Part) : State :=
  (List.finRange 64).foldl (fun (s : State) q =>
    (s.queue p.val q.val).cmds.foldl (fun (s : State) c =>
      if c.phase == .running && !c.finished && isExport c then
        let r : CmdRef := { part := p, queue := q, slot := c.slot }
        let s := s.dropOut r
        let s := if exDest c = 0 then s.scramble (exAddr c) (exSpace c) else s
        s.failRun r c 0x0404
      else s) s) s

/-- LEDGER (R231). -/
def State.ledgerRun (s : State) (r : CmdRef) (c : Cmd) : State :=
  let p := r.part.val
  let (s, st) := if cOparg c % 16 = 0 ∨ cOparg c % 16 = 2 then s.fetchTensor p (c.desc 0) else (s, 0)
  if st ≠ 0 then s.failRun r c st
  else match cOparg c % 16 with
    | 0 =>
      let (s, st) := s.ledgerRegister p (s.columns (c.desc 0))
      s.endRun r c st
    | 1 =>
      let (s, st) := s.ledgerReadAll p c
      let o := c.desc 1
      let ws := s.words o
      let rec0 := ws.foldl (fun (l : LedRec) w => l.count (ofInt (BitVec.ofNat 32 w).toInt 0) (w == 0) 0) { (default : LedRec) with tid := o.tid }
      s.endRun r (c.record o rec0) st
    | 2 =>
      let (s, st) := foldSt (s.words (c.desc 0)) (fun s t => s.ledgerMark p t (bitsOf (cOparg c) 5 4) (bitsOf (cOparg c) 7 6)) s
      s.endRun r c st
    | _ => s.exportRun r c

/-- LEDGER (R231). -/
def execLedger (c : CmdRef) (s : State) : Host.Outcome State Fault Refusal :=
  .next (match s.running c 0x0070 with | some d => s.ledgerRun c d | none => s)

end Sys2Proof.Machine
end

