-- ==== Sys2Proof/Machine/Command.lean ====
section
/-! DEFINITION. Start and end of a command: the steps of R71 with the checks of R469, energy admission (R385), and completion (R56, R64, R70,
R78). -/

namespace Sys2Proof.Machine

/-! ## What an opcode takes (R62, R469) -/

/-- The opcodes of level L1 (R62). -/
def opDefined (op : Nat) : Bool :=
  [0x00, 0x01, 0x10, 0x11, 0x12, 0x20, 0x21, 0x30, 0x31, 0x32, 0x40, 0x41, 0x42, 0x50, 0x51, 0x60, 0x61, 0x70, 0x80].contains op

/-- Whether a command takes a number of slots (R469 place 2). -/
def slotsOk (c : Cmd) (n : Nat) : Bool :=
  match cOpcode c with
  | 0x11 => n == (if bitOf (cOparg c) 31 then 2 else 1)
  | 0x30 => n == 1 || n == 2
  | 0x32 | 0x42 | 0x60 | 0x61 => n == 2
  | 0x40 => n == (if stAct c = 0 then 2 else 1)
  | 0x41 => n == 3
  | 0x70 => n == (if cOparg c % 16 = 3 then 2 else 1)
  | _ => n == 1

/-- The reserved fields of the first slot are zero, and SLOTS is the opcode's (R469 place 2). -/
def firstSlotOk (c : Cmd) : Bool :=
  cFlags c < 64 && cSlots c < 4 && fieldAt c.bytes 27 1 == 0 && cW0Lock c < 4096 && cW1Lock c < 4096 && cSigLock c < 4096
    && slotsOk c (cSlots c + 1)

/-- Whether the feature a command addresses is in the effective set (R5 to R7): the video path for STREAM, DECODE and FEED, REF for a
reduction in the reference order. -/
def State.cmdLicensed (s : State) (c : Cmd) : Bool :=
  match cOpcode c with
  | 0x40 | 0x41 | 0x42 => s.fbit Fld.GLB_FEATURES_VIDEO
  | 0x50 => !arRef (cOparg c) || s.fbit Fld.GLB_FEATURES_REF
  | _ => true

/-- Whether a descriptor address must be 0, must not be 0, or may be either. -/
inductive Need where
  | none | some | any
  deriving DecidableEq, Repr

/-- A descriptor field of a command: its address, whether it must be present, whether the operation writes the tensor, and the status of a
breach (R469 place 4). -/
structure DescField where
  addr : Nat
  need : Need
  out  : Bool
  st   : Nat
  deriving DecidableEq, Repr

/-- The tensor descriptor fields of a command: DESC0 to DESC2, then those of the further slots. DESC1 of DECODE names no tensor. [DEDUCED, log 85] -/
def descFields (c : Cmd) : List DescField :=
  let f (i : Nat) (n : Need) (out : Bool) (st : Nat) : DescField := ⟨cDesc c i, n, out, st⟩
  let x (i : Nat) (n : Need) (out : Bool) (st : Nat) : DescField := ⟨fieldAt c.bytes (64 + 8 * i) 8, n, out, st⟩
  let B : Nat := 0x0208
  match cOpcode c with
  | 0x10 => [f 0 .some false B, f 1 .some true B, f 2 .none false 0x0607]
  | 0x11 => [f 0 (if bitOf (cOparg c) 31 then .some else .none) false B, f 1 .none false B, f 2 .none false B]
  | 0x12 => [f 0 .any true B, f 1 .none false B, f 2 .none false B]
  | 0x20 | 0x21 => [f 0 .some false B, f 1 .some false B, f 2 .some true B]
  | 0x30 =>
    [f 0 .any false B, f 1 .any false B, f 2 .some false B]
      ++ (if cSlots c % 4 = 1 then (List.range 8).map (fun i => x i .any false B) else [])
  | 0x31 => [f 0 .some false B, f 1 .some true B, f 2 (if bitOf (cOparg c) 5 then .some else .none) false B]
  | 0x32 =>
    [f 0 .some false 0x0502, f 1 .some false 0x0502, f 2 .some true 0x0502, x 0 .some true 0x0502,
     x 1 (if cOparg c % 16 = 1 then .some else .none) true 0x0502, x 2 .any true B, x 3 .any true B]
  | 0x41 => [f 0 .some true B, ⟨0, .none, false, B⟩, f 2 .none false B]
  | 0x42 => [f 0 .some true B, f 1 .any true B, f 2 .none false B]
  | 0x50 => [f 0 .some false B, f 1 .some true B, f 2 (if arCmode (cOparg c) = 0 then .any else .some) true
      (if cDesc c 2 = 0 then 0x0A03 else B)]
  | 0x60 => [f 0 .some false 0x0B02, f 1 (if snDigest c then .some else .none) false 0x0B02, f 2 .none false 0x0B02]
  | 0x61 => [f 0 .some false 0x0B02, f 1 .none false 0x0B02, f 2 .none false 0x0B02]
  | 0x70 =>
    if 4 ≤ cOparg c % 16 then [f 0 .any false B, f 1 .any false B, f 2 .any false B]
    else [f 0 .some false B, f 1 (if cOparg c % 16 = 1 then .some else .none) true B, f 2 .none false B]
  | 0x80 => [f 0 .some false B, f 1 .some true B, f 2 .none false B]
  | _ => [f 0 .none false B, f 1 .none false B, f 2 .none false B]

/-- Whether a descriptor field is present exactly as the opcode wants it. -/
def DescField.ok (f : DescField) : Bool :=
  match f.need with
  | .none => f.addr == 0
  | .some => f.addr != 0
  | .any => true

/-! ## Reading a descriptor (R469 place 5) -/

/-- Read a descriptor or scale word: in a T2 home that has no copy above it the bytes are the adapter's, which the model does not hold
(log 54). [DESIGN CHOICE, log 54] -/
def State.readSmall (s : State) (p a n : Nat) : (List Byte × Bool) × State :=
  let b := s.resolve a
  if isT2 b then
    let (bs, s) := s.drawBytes n
    ((bs, NSet.mem s.mem.t2Poison (pageOf b)), s)
  else s.readAs p a n

/-- Whether a range touches the region of an array at the top of a scratchpad slice (R173). -/
def inArrayRegion (a len : Nat) : Bool :=
  (List.range 8).any (fun n => rangesMeet (a, a + len) (n * 0x10000000 + 0x0A000000, (n + 1) * 0x10000000))

/-- A range that a descriptor names lies in memory the partition owns, mapped, and outside the arrays' regions (R30, R33, R173). -/
def State.rangeOk (s : State) (p a len : Nat) : Bool := s.ownsMem p a len && !inArrayRegion a len

/-- The scale of a descriptor (place 5d): a status and the scale word. -/
def State.loadScale (s : State) (p : Nat) (d : TDesc) : State × Nat × Nat :=
  if isMx d.dtype then
    (s, if d.scale = 0 ∨ d.scale % 64 ≠ 0 then 0x0441 else if s.rangeOk p d.scale d.scaleCount then 0 else 0x0202, 0)
  else if takesScaleWord d.dtype then
    if d.scale = 0 ∨ d.scale % 16 ≠ 0 then (s, 0x0441, 0)
    else if !s.rangeOk p d.scale 16 then (s, 0x0202, 0)
    else
      let ((b, bad), s) := s.readSmall p d.scale 16
      (s, if bad then 0x0701 else if scaleWordOk b then 0 else 0x0441, leNat b)
  else (s, if d.scale = 0 then 0 else 0x0441, 0)

/-- The engine's areas of a partition as ranges (R134). -/
def State.areaRanges (s : State) (p : Nat) : List (Nat × Nat) :=
  ((s.ownArrays p).map (s.t0Area p) ++ s.t1Area p).map (fun e => (e.1, e.1 + e.2))

/-- The tier rules of a descriptor (place 5f): R138, R128, then R137. -/
def State.tierCheck (s : State) (p : Part) (op : Nat) (out : Bool) (d : TDesc) : Nat :=
  let rs := d.ranges
  let objs := (vget s.tier p).objs.filter (fun e => e.2.valid)
  let meets (ok : TierObj → Bool) : Bool := rs.any (fun r => objs.any (fun e => rangesMeet r e.2.range && ok e.2))
  let inT2 := rs.any (rangesMeet (t2Base, t2End))
  if !s.unified p.val && op != 0x10 && op != 0x80 && inT2 then 0x0606
  else if out && (d.ro || inT2 || meets (·.ro)) then 0x0602
  else if !out && !d.ro && (inT2 || meets (fun o => isT2 o.home)) then 0x0602
  else if !s.unified p.val then 0
  else if rs.any (fun r => objs.any (fun e => rangesMeet r e.2.range && !(e.2.range.1 ≤ r.1 && r.2 ≤ e.2.range.2))) then 0x0605
  else if rs.any (fun r => (s.areaRanges p.val).any (rangesMeet r) || s.inPartner r) then 0x0202
  else 0

/-- Read and check one tensor descriptor (place 5): the status, the descriptor and its scale word. -/
def State.loadDesc (s : State) (p : Part) (op addr : Nat) (out : Bool) : State × Nat × TDesc × Nat :=
  if addr % 64 ≠ 0 then (s, 0x0204, default, 0)
  else if !s.ownsMem p.val addr 64 then (s, 0x0202, default, 0)
  else
    let ((b, bad), s) := s.readSmall p.val addr 64
    let d := parseDesc addr b
    if bad then (s, 0x0701, default, 0)
    else if !descFieldsOk d b then (s, 0x0204, default, 0)
    else if !packOk d then (s, 0x0440, default, 0)
    else
      let (s, st, w) := s.loadScale p.val d
      if st ≠ 0 then (s, st, default, 0)
      else if !s.rangeOk p.val d.base d.extent then (s, 0x0202, default, 0)
      else (s, s.tierCheck p op out d, d, w)

/-- Read descriptors in order until one fails; an absent one has rank 0. -/
def State.loadDescs (s : State) (p : Part) (op : Nat) (fs : List (Nat × Bool)) : State × Nat × List TDesc × List Nat :=
  fs.foldl (fun (a : State × Nat × List TDesc × List Nat) f =>
    if a.2.1 ≠ 0 then a
    else if f.1 = 0 then (a.1, 0, a.2.2.1 ++ [default], a.2.2.2 ++ [0])
    else
      let (s, st, d, w) := a.1.loadDesc p op f.1 f.2
      (s, st, a.2.2.1 ++ [d], a.2.2.2 ++ [w])) (s, 0, [], [])

/-! ## What step 4 reads beside the descriptors -/

/-- The listed tensors of SNAPSHOT, RESTORE and DIGEST, whose descriptors the list in DESC0 names (R361, R373, R446). [DEDUCED, log 85] -/
def State.loadList (s : State) (p : Part) (c : Cmd) : State × Nat × List TDesc × List Nat :=
  let op := cOpcode c
  if (op = 0x60 ∨ op = 0x61 ∨ op = 0x80) ∧ listOk (c.desc 0) = true then
    let (s, st) := s.fetchTensor p.val (c.desc 0)
    if st ≠ 0 then (s, st, [], [])
    else s.loadDescs p op ((s.snList (c.desc 0)).map (fun a => (a, op == 0x61)))
  else (s, 0, [], [])

/-- The program of a VPROG, read with its descriptor. -/
def State.loadProgram (s : State) (p : Part) (c : Cmd) : State × Nat × List Byte :=
  let d := c.desc 2
  if cOpcode c = 0x30 ∧ progTensor d = true ∧ d.dim 0 ≤ 8224 then
    let (s, st) := s.fetchTensor p.val d
    (s, st, s.bytes d.base d.extent)
  else (s, 0, [])

/-- What a LEDGER command reads at step 4 after its own checks: the entries of a READ (R231); the tensors that an EXPORT copies (R237), read and
checked as descriptors in the order of their TENSOR_IDs. [DEDUCED, log 86] -/
def State.loadLedger (s : State) (p : Part) (c : Cmd) : State × Nat × Cmd :=
  if isExport c then
    let (s, st) := s.fetchTensor p.val (c.desc 0)
    if st ≠ 0 then (s, st, c)
    else match s.exportDescs p.val c with
      | none => (s, 0x0401, c)
      | some as =>
        let (s, st, ds, ws) := s.loadDescs p 0x70 (as.map (fun a => (a, false)))
        let c := { c with descs := c.descs ++ ds, deq := c.deq ++ ws }
        if st ≠ 0 then (s, st, c) else (s, s.checkExport p.val c, c)
  else
    let (s, st, b) := s.loadEntries p.val c
    (s, st, { c with aux := b })

/-- The sample descriptor of a DECODE (R111), address first (R469 place 6). -/
def State.loadSample (s : State) (p : Part) (c : Cmd) : State × Nat × List Byte :=
  let a := cDesc c 1
  if a = 0 then (s, 0, [])
  else if a % 64 ≠ 0 then (s, 0x0204, [])
  else if !s.ownsMem p.val a 64 then (s, 0x0202, [])
  else
    let ((b, bad), s) := s.readSmall p.val a 64
    (s, if bad then 0x0701 else 0, b)

/-- The outputs of a command: what it writes, for NUM_NO_ENTRY and for what an end before its time leaves undefined. -/
def outputs (c : Cmd) : List (TDesc × Nat) :=
  match cOpcode c with
  | 0x30 => (storesOf (parseProg c.aux)).eraseDups.map (fun b => ((bindsOf c).getD b default, (bindSws c).getD b 0))
  | 0x61 => c.listedSw
  | _ => ((List.range 7).filter (fun i => ((descFields c)[i]?).any (·.out))).map (fun i => (c.desc i, c.sw i))

/-- NUM_NO_ENTRY (R229): an output with LEDGER set, or whose scale word has DELAYED set, without a valid entry. [DEDUCED, log 85] -/
def State.noEntry (s : State) (p : Nat) (c : Cmd) : Bool :=
  (outputs c).any (fun o =>
    o.1.rank != 0 && (o.1.ledger || (takesScaleWord o.1.dtype && bitOf (o.2 / 2 ^ 32) 0)) && (s.findEnt p o.1.tid).isNone)

/-- The checks of the opcode's own chapter (place 6). -/
def State.checkOwn (s : State) (p : Part) (q : Nat) (c : Cmd) : Nat :=
  match cOpcode c with
  | 0x00 => if cOparg c = 0 then 0 else 0x0208
  | 0x01 => if cOparg c < 4096 then 0 else 0x0208
  | 0x10 => checkCopy c
  | 0x11 => s.checkPrefetch p c
  | 0x12 => s.checkEvict p c
  | 0x20 => if checkMatmul c ≠ 0 then checkMatmul c else if (s.maskArrays p.val q).isEmpty then 0x0304 else 0
  | 0x21 => if checkEwmul c ≠ 0 then checkEwmul c else if (s.maskArrays p.val q).isEmpty then 0x0304 else 0
  | 0x30 => s.checkVprog p.val q c
  | 0x31 => s.checkReduce p.val q c
  | 0x32 => s.checkUpdate p.val q c
  | 0x40 => s.checkStream p c
  | 0x41 => s.checkDecode p c
  | 0x42 => s.checkFeed p c
  | 0x50 => s.checkAllreduce p.val c
  | 0x51 => s.checkCommit p.val c
  | 0x60 => s.checkSnapshot p c
  | 0x61 => s.checkRestore p c
  | 0x70 => s.checkLedger p.val c
  | _ => checkDigest c

/-- The bindings that a program stores are outputs: R128 holds for each, as soon as the program is known. [DEDUCED, log 85] -/
def State.checkStores (s : State) (p : Part) (c : Cmd) : Nat :=
  if cOpcode c = 0x30 then
    ((storesOf (parseProg c.aux)).filterMap (fun b =>
      let d := (bindsOf c).getD b default
      if d.rank = 0 ∨ s.tierCheck p 0x30 true d = 0 then none else some (s.tierCheck p 0x30 true d))).headD 0
  else 0

/-- Step 4 of R71 (R469): the status, and the command with what it has read. SR seed and arithmetic settings are those now in force
(R215). [DEDUCED, log 14] -/
def State.step4 (s : State) (p : Part) (q : Nat) (c : Cmd) : State × Nat × Cmd :=
  let fs := descFields c
  if c.readable ≠ 0 then (s, c.readable, c)
  else if !opDefined (cOpcode c) then (s, 0x0203, c)
  else if !firstSlotOk c then (s, 0x0208, c)
  else if !s.cmdLicensed c then (s, 0x0201, c)
  else match fs.find? (fun f => !f.ok) with
    | some f => (s, f.st, c)
    | none =>
      let (s, st, ds, ws) := s.loadDescs p (cOpcode c) (fs.map (fun f => (f.addr, f.out)))
      let c := { c with
        descs := ds, deq := ws
        seed := s.rd64 .NUM_SR_SEED_LO .NUM_SR_SEED_HI 0 p.val, arith := s.rd .NUM_ARITH_CFG 0 p.val }
      if st ≠ 0 then (s, st, c)
      else
        let (s, st, ls, lw) := s.loadList p c
        let c := { c with descs := c.descs ++ ls, deq := c.deq ++ lw }
        if st ≠ 0 then (s, st, c)
        else
          let (s, st, prog) := s.loadProgram p c
          let c := { c with aux := prog }
          if st ≠ 0 then (s, st, c)
          else if s.checkStores p c ≠ 0 then (s, s.checkStores p c, c)
          else if s.checkOwn p q c ≠ 0 then (s, s.checkOwn p q c, c)
          else if bitOf (cFlags c) 4 && 64 ≤ cGroup c then (s, 0x0208, c)
          else
            let (s, st, c) := s.loadLedger p c
            if st ≠ 0 then (s, st, c) else
            let (s, st, smp) := if cOpcode c = 0x41 then s.loadSample p c else (s, 0, c.aux)
            let c := { c with aux := smp }
            if st ≠ 0 then (s, st, c)
            else if cOpcode c = 0x41 ∧ s.checkSample p c ≠ 0 then (s, s.checkSample p c, c)
            else (s, if s.noEntry p.val c then 0x0401 else 0, c)

/-! ## Steps 5 and 6 (R71, R385) -/

/-- Step 6: the command starts. Its references count in the tiers; an UPDATE tears running EXPORTs; an EXPORT takes its STEP. -/
def State.startNow (s : State) (p : Part) (q : QueueId) (slot : Nat) : State :=
  match s.cmdAt p.val q.val slot with
  | none => s
  | some c =>
    if c.phase ≠ .running then s
    else
      let r : CmdRef := { part := p, queue := q, slot := slot }
      let s := if cOpcode c = 0x32 then s.tearExports p else s
      let c := if isExport c then { c with aux := leBytes 4 (s.rd .NUM_COMMITTED_STEP 0 p.val).toNat } else c
      let s := s.setCmd p.val q.val c
      s.tierStart r c

/-- COMMAND_START: the next command of a queue goes through the steps of R71 as far as they are met. -/
def State.commandStart (s : State) (p : Part) (q : QueueId) : State :=
  if !s.qStarts p.val q.val then s
  else
    let s := s.fetchNext p.val q.val
    match s.front p.val q.val with
    | none => s
    | some c =>
      if s.closedFor p.val q.val c then s.complete p q.val c 0x0802 0
      else if !s.orderMet p.val q.val c then s
      else if !c.firstOk then s.complete p q.val c c.readable 0
      else
        let c := s.latchWaits p.val c
        let s := s.setCmd p.val q.val c
        if !(c.w0 && c.w1) || (cEpochChk c && s.epoch (cGroup c) < cEpoch c) then s
        else if s.staleNow c then s.complete p q.val c 0x0205 0
        else
          let (s, st, c) := s.step4 p q.val c
          if st ≠ 0 then s.complete p q.val c st 0 else (s.admitCmd p q.val c).startNow p q c.slot

/-- COMMAND_START (R71). [DESIGN CHOICE, log 7] -/
def execCommandStart (p : Part) (q : QueueId) (s : State) : Host.Outcome State Fault Refusal := .next (s.commandStart p q)

/-- ENERGY_ADMISSION: a command waiting at step 5 is admitted when the balance covers its hint, and starts (R385). -/
def State.energyAdmission (s : State) (p : Part) (q : QueueId) : State :=
  if s.qStarts p.val q.val then
    match (s.queue p.val q.val).cmds.find? (fun c => c.phase == .admitting) with
    | some c => (s.admitCmd p q.val c).startNow p q c.slot
    | none => s
  else s

/-- ENERGY_ADMISSION (R385). -/
def execEnergyAdmission (p : Part) (q : QueueId) (s : State) : Host.Outcome State Fault Refusal := .next (s.energyAdmission p q)

/-! ## The end of a command -/

/-- Whether a failure leaves the outputs undefined: a poisoned word (R159), a fault of a vector engine (R250), any failure of a COPY (R141). An EVICT
writes no output. -/
def spoils (c : Cmd) (st : Nat) : Bool :=
  cOpcode c != 0x12 && ([0x0701, 0x0503, 0x0504].contains c.fail || (cOpcode c == 0x10 && st != 0))

/-- Whether a tile of a command is in flight: it runs to its commit, and no pre-emption point lies before (R76, R78, R194). -/
def State.inTile (s : State) (r : CmdRef) : Bool := s.arr.tiles.any (fun t => t.ref == r)

/-- What a command that stops before its end, or reads a poisoned word, leaves undefined (R78, R159): its outputs, and the local image of a SNAPSHOT. [DEDUCED, log 29] -/
def State.scrambleOutputs (s : State) (r : CmdRef) (c : Cmd) : State :=
  let s := ((outputs c).filter (fun o => o.1.rank != 0)).foldl (fun (s : State) o => s.scrambleTensor o.1) s
  if cOpcode c = 0x60 ∧ snLayer c = 0 then
    match (vget s.rcv r.part).copies.find? (fun x => x.group == cGroup c && x.step == cStep c) with
    | some x => s.scramble x.addr x.bytes
    | none => s
  else s

/-- The status with which an ended command completes: its own, or CMD_STALE_EPOCH where the epoch has advanced since it started (R71). DECODE
is judged at its own completion. [DEDUCED, log 47] -/
def State.endStatus (s : State) (c : Cmd) : Nat := if c.fail = 0 ∧ cOpcode c ≠ 0x41 ∧ s.staleNow c = true then 0x0205 else c.fail

/-- COMMAND_COMPLETE: a command whose operation has ended completes, and one that is to stop does so at a pre-emption point (R56, R64, R70,
R76, R78, R229, R358, R360, R385). [DEDUCED, log 88] -/
def State.commandComplete (s : State) (r : CmdRef) (energy : Nat) : State :=
  match s.cmdAt r.part.val r.queue.val r.slot with
  | none => s
  | some c =>
    let p := r.part
    if c.phase ≠ .running ∨ s.live = false then s
    else if c.finished then
      let st := s.endStatus c
      let s := if spoils c st then s.scrambleOutputs r c else s
      let s := if st = 0 then s.recordOutputs p.val c else s
      let s := ((s.freeChk r).forget r).complete p r.queue.val c st energy
      let s := if cOpcode c = 0x32 ∧ c.fail = 0 then s.updated p r.queue.val c.slot (cGroup c) (cStep c) else s
      let s := if (cOpcode c = 0x32 ∨ cOpcode c = 0x60) ∧ c.fail = 0 then s.doneTry p else s
      s.tierDemand p
    else if c.stop ≠ 0 ∧ s.inTile r = false then
      let s := ((s.freeChk r).forget r).scrambleOutputs r c
      (s.complete p r.queue.val c c.stop energy).tierDemand p
    else s

/-- COMMAND_COMPLETE (R70). -/
def execCommandComplete (c : CmdRef) (energyUj : Nat) (s : State) : Host.Outcome State Fault Refusal :=
  .next (s.commandComplete c energyUj)

end Sys2Proof.Machine
end

