-- ==== Sys2Proof/Machine/RegWrite.lean ====
section
/-! DEFINITION. What a read or a write of each register does (R38 to R50, R293 and the register tables): live words, cross-field rules,
LO/HI pairs, and the registers whose write is a command of its unit. -/

namespace Sys2Proof.Machine

/-- A number below 4 as a partition. -/
def partOf (p : Nat) : Part := ⟨p % 4, by omega⟩

/-! ## Reads -/

/-- An entry of a stack's retirement list (07): pages first, then banks, whose bit 0 is set; zero for an unused entry (log 52). [DESIGN CHOICE, log 52] -/
def State.retireEntry (s : State) (n : Quad) (i : Nat) : Nat :=
  let x := vget s.hbm n
  match x.retired[i]? with
  | some h => h.addr
  | none => match x.banks[i - x.retired.length]? with
    | some h => (bankPages n h).foldl min t2Base + 1
    | none => 0

/-- The entry that `HBM_RETIRE_IDX` names. -/
def State.retireSel (s : State) : Nat :=
  s.retireEntry ⟨s.fget Fld.HBM_RETIRE_IDX_STACK % 8, by omega⟩ (s.fget Fld.HBM_RETIRE_IDX_ENTRY)

/-- A signed number of µJ in mJ, two's complement. [DESIGN CHOICE, log 82] -/
def mjWord (uj : Int) : Word := BitVec.ofInt 32 (uj / 1000)

/-- The rate of a die's decode engines in a view, in units of 10⁶ luma samples per second (04). -/
def State.rateWord (s : State) (view die : Nat) : Word :=
  let own := (List.range 32).filter (fun m => m / 16 == die && (view == 4 || s.ownsEngine view m))
  BitVec.ofNat 32 (min 0xFFFF (own.foldl (fun t m => t + Sparse.get 0 s.ing.pixRate m) 0 / 1000))

/-- The word a register shows in a view: the stored one, or for the registers that report other state, that state. -/
def State.shown (s : State) (view : Nat) (r : RegName) (inst sel : Nat) : Word :=
  match r with
  | .PER_LCOORD => match s.ownL with | some c => BitVec.ofNat 32 (coordNum c + 2 ^ 18) | none => 0
  | .PER_GRPg_CTRL =>
    match s.ownRank inst with
    | some k => wSet (wSet (s.rd r inst) 7 7 1) 23 8 k
    | none => s.rd r inst
  | .HBM_STACKn_CAP =>
    let n : Quad := ⟨inst % 8, by omega⟩
    BitVec.ofNat 32 (if view < 4 then s.availMibPart view n else s.availMib n)
  | .HBM_RETIRE_ADDR_LO => BitVec.ofNat 32 s.retireSel
  | .HBM_RETIRE_ADDR_HI => BitVec.ofNat 32 (s.retireSel / 2 ^ 32)
  | .TIER_OBJ_STATE => s.objStateWord (partOf sel)
  | .TIER_SPACE => s.spaceWord (partOf sel)
  | .PWR_BAL => mjWord (vget s.pwr.bal (partOf sel))
  | .PWR_SHORT => BitVec.ofNat 32 (vget s.pwr.short (partOf sel) / 1000)
  | .DEC_RATE_W => s.rateWord view 0
  | .DEC_RATE_E => s.rateWord view 1
  | r => s.rd r inst sel

/-- A word of the report of a view (R430). -/
def State.reportWord (s : State) (view w : Nat) : Word :=
  BitVec.ofNat 32 (fieldAt (Sparse.get [] s.boot.report view) (4 * w) 4)

/-- A read of a register: LO latches the shadow of its HI, HI returns the shadow (R41); `HBM_STACKn_TEMP` restarts its PEAK. -/
def State.readReg (s : State) (req view : Nat) (r : RegName) (inst sel : Nat) : Word × State :=
  match r.spec.pair with
  | .lo hi => (s.shown view r inst sel, s.latch req r inst sel (s.shown view hi inst sel))
  | .hi lo => (s.shadow req lo inst sel, s)
  | .single =>
    let w := s.shown view r inst sel
    (w, if r = .HBM_STACKn_TEMP then s.fset Fld.HBM_STACKn_TEMP_PEAK (s.fget Fld.HBM_STACKn_TEMP_TEMP inst) inst else s)

/-- An aligned 32-bit register read at an address (R38, R39, R50). [DEDUCED, log 79] -/
def State.regRead (s : State) (r : Requester) (addr : Nat) : Word × State :=
  match s.target r addr with
  | (.bad, view) => (0, s.accessErr view)
  | (.hidden, _) => (0, s)
  | (.elsewhere, _) => (0, s)
  | (.clampRec v w, _) => (Sparse.get 0 s.boot.clampRep (v * 1024 + w % 1024), s)
  | (.structRec w, _) => (Sparse.get 0 s.boot.structRep w, s)
  | (.report v w, _) => (s.reportWord v w, s)
  | (.reg g inst sel, view) => s.readReg (reqIdx r) view g inst sel

/-! ## Pairs (R42, R48) -/

/-- Whether software may write a register. -/
def RegName.writable (r : RegName) : Bool := r.spec.fields.any (fun f => f.writable || f.acc == .wo)

/-- Whether a pair's value may not change now: the ring of a queue that is not disabled (R58), the base of an enabled pool, a check-value
unit that is running or held (R445). -/
def State.pairHeld (s : State) (hi : RegName) (inst sel : Nat) : Bool :=
  match hi with
  | .CMD_Qn_BASE_HI => !s.qDisabled sel inst
  | .SHF_POOLp_BASE_HI => s.poolOn inst
  | .CHK_Uu_RUN_HI | .CHK_Uu_SRC_HI | .CHK_Uu_DST_HI | .CHK_Uu_LEN_HI => s.chkHeld inst
  | _ => false

/-- `RCV_DOMAIN` keeps only groups of the partition (16). -/
def State.domainMask (s : State) (p : Nat) : Nat :=
  (List.range 64).foldl (fun m g => if s.groupOwner g = p then m + 2 ^ g else m) 0

/-- The table of an enabled ledger leaves its owner's HBM: ENABLE is cleared (10). [DEDUCED, log 81] -/
def State.ledgerMoved (s : State) (view p : Nat) : State :=
  let len := 256 * 2 ^ s.fget Fld.NUM_LEDGER_CTRL_LOG2_ENTRIES 0 p
  if s.ledgerOn p && !covers (s.ownedT1 p) ((s.ownedT1 p).length + 1) (s.entAddr p 0) (s.entAddr p 0 + len) then
    (s.fset Fld.NUM_LEDGER_CTRL_ENABLE 0 0 p).clampRecord view 4 4 1 2 0x38 1 0
  else s

/-- An object table outside its owner's T1: LOADED is cleared (06). [DEDUCED, log 81] -/
def State.objtMoved (s : State) (view p : Nat) : State :=
  if s.fbit Fld.TIER_OBJT_CTRL_LOADED 0 p && !s.objtOwned (partOf p) then
    (s.fset Fld.TIER_OBJT_CTRL_LOADED 0 0 p).clampRecord view 7 9 1 2 0x20 1 0
  else s

/-- The commit of a pair by a write of HI (R42), checked as one value (R48): LEN of a check-value unit takes 1 to 2⁴⁰, `RCV_DOMAIN` the groups of
the partition; every value is legal for the others. -/
def State.commitPair (s : State) (req view : Nat) (lo hi : RegName) (inst sel : Nat) (v : Word) : State :=
  let want := pairReq lo hi (s.stagedOr req lo inst sel) v
  let s := s.unstage req lo inst sel
  if s.pairHeld hi inst sel then
    let own := if hi = .CHK_Uu_LEN_HI then nearest 1 (2 ^ 40) 1 want else want
    s.pairClamp view lo hi inst (if own = want then 2 else 0) want (s.rd64 lo hi inst sel)
  else match hi with
    | .CHK_Uu_LEN_HI => s.pairPut view lo hi inst sel 0 want (nearest 1 (2 ^ 40) 1 want)
    | .RCV_DOMAIN_HI => s.pairPut view lo hi inst sel 2 want (want &&& s.domainMask sel)
    | _ =>
      let was := s.poolOn inst
      let s := s.pairPut view lo hi inst sel 0 want want
      match hi with
      | .NUM_LEDGER_BASE_HI => s.ledgerMoved view sel
      | .TIER_OBJT_BASE_HI => s.objtMoved view sel
      | .SHF_POOLp_BASE_HI => s.poolAfter inst was
      | _ => s

/-! ## Single registers -/

/-- ALLOC of a VC: at least 8 on VC0, and the port's total within its receive buffer, by reducing the field (R281). -/
def State.allocCross (s : State) (inst : Nat) (w : Word) : Word :=
  let port := inst / 32
  let cap := if port < 6 then 8192 else 2048
  let others := ((List.range (numVcs port)).filter (· != inst % 32)).foldl (fun t v => t + s.fget Fld.LNK_Pp_VCv_ALLOC (port * 32 + v)) 0
  let n := min (wGet w 10 0) (cap - others)
  wSet w 10 0 (if inst % 32 = 0 then max 8 n else n)

/-- `COL_GRPg_CFG`: BUF_MIB changes only while ACTIVE is 0, and stays within 64 MiB with the other ACTIVE groups, at least 1 (15). -/
def State.bufCross (s : State) (g : Nat) (w : Word) : Word :=
  if s.grpActive g then wSet w 6 0 (s.fget Fld.COL_GRPg_CFG_BUF_MIB g) else wSet w 6 0 (max 1 (min (wGet w 6 0) (64 - s.otherShares g)))

/-- A write of a pool register (05, R399). -/
def State.poolWrite (s : State) (view : Nat) (r : RegName) (inst : Nat) (v : Word) : State :=
  let was := s.poolOn (poolOf r inst)
  let s := s.phaseWrite view r inst 0 v (if r = .SHF_POOLp_CTRL then s.untilReady else id) (s.poolCross r inst)
  s.poolAfter (poolOf r inst) was

/-- A write of `CHK_Uu_CTRL`: a unit that is running or held keeps its fields (R445); START runs the unit (R444). -/
def State.chkWrite (s : State) (view : Nat) (u : Fin 4) (v : Word) : State :=
  if s.chkHeld u.val then s.keepWrite view .CHK_Uu_CTRL u.val 0 v
  else
    let s := s.fieldWrite view .CHK_Uu_CTRL u.val 0 v id
    if wGet v 4 4 = 1 then s.chkStart u else s

/-- A write of `GLB_BMC_CTRL` (R463): another KEY is ignored and sets ACCESS_ERR. [DEDUCED, log 80] -/
def State.bmcWrite (s : State) (byBoard : Bool) (v : Word) : State :=
  if wGet v 15 8 ≠ 0xA5 then s.accessErr 4 else if wGet v 0 0 = 1 then s.warmReset byBoard else s

/-- A write of `EUT_PART_RESET` (R307). -/
def State.partResetWrite (s : State) (r : Requester) (v : Word) : State :=
  if wGet v 2 2 = 0 then s else s.partGo r (partOf (wGet v 1 0))

/-- A write of a register that is not the HI of a pair (R48): the registers whose write does more than store its fields are named. -/
def State.writeSingle (s : State) (req : Requester) (view : Nat) (r : RegName) (inst sel : Nat) (v : Word) : State :=
  match r with
  | .CMD_Qn_CTRL => s.ctrlWrite view sel inst v
  | .CMD_Qn_TAIL => s.tailWrite sel inst v
  | .CMD_LOCK_ADD_k => s.lockAdd sel inst v.toNat
  | .CMD_LOCK_SET_k => s.lockSet sel inst v.toNat
  | .SHF_POOLp_SHAPE | .SHF_POOLp_FMT | .SHF_POOLp_WIN | .SHF_POOLp_SPW | .SHF_POOLp_SEED | .SHF_POOLp_CTRL | .SHF_POOLp_NORMc =>
    s.poolWrite view r inst v
  | .TIER_OBJT_CTRL =>
    let s := s.fieldWrite view r inst sel v id
    if wGet v 8 8 = 1 then s.objtLoad (partOf sel) else s
  | .TIER_OBJ_SYNC => if wGet v 16 16 = 1 then s.objRepair (partOf sel) (wGet v 15 0) else s.objSync (partOf sel) (wGet v 15 0)
  | .HBM_MARGIN_CTRL => s.marginWrite view v
  | .NUM_LEDGER_CTRL => s.ledgerCtrl view sel v
  | .LNK_FAIL_CMD => s.failCmd view v
  | .LNK_Pp_CTRL => s.lnkCtrlWrite view ⟨inst % 10, by omega⟩ v
  | .LNK_Pp_VCv => s.fieldWrite view r inst sel v (s.allocCross inst)
  | .PER_REMAPi_L => (s.remapLWrite inst v).helloAll
  | .PER_REMAPi_P => (s.remapPWrite inst v).helloAll
  | .PER_DEADi => s.deadPut inst v
  | .PER_GRPg_X => s.grpWrite inst 0 v
  | .PER_GRPg_Y => s.grpWrite inst 1 v
  | .PER_GRPg_Z => s.grpWrite inst 2 v
  | .PER_GRPg_CTRL => s.grpWrite inst 3 v
  | .COL_GRPg_CFG => s.fieldWrite view r inst sel v (s.bufCross inst)
  | .RCV_PARTNER => s.pairingWrite view sel r v
  | .RCV_WARD => s.pairingWrite view sel r v
  | .RCV_GO => s.rcvGo (partOf sel) v.toNat
  | .PWR_CFG => (s.fieldWrite view r inst sel v pwrCfgCross).coolChecked (s.fbit Fld.PWR_CFG_COOL_CHECK)
  | .PWR_COOLANT => s.coolantWrite v
  | .SEC_STAGE_CTRL => s.secStage view v
  | .SEC_STAGE_LEN => s.fieldWrite view r inst sel v s.stageLenCross
  | .SEC_SETTINGS => if wGet v 16 16 = 1 then s.saveSettings else s
  | .SEC_SVN_COMMIT => s.svnWrite req view v
  | .SEC_ATTEST_CTRL => if wGet v 0 0 = 1 then s.attestGo sel else s
  | .EVR_RD_CTRL => if wGet v 0 0 = 1 then s.evrAdvance sel else s
  | .EVR_CLEAR_CTRL => s.evrClear req v
  | .CHK_Uu_CTRL => s.chkWrite view ⟨inst % 4, by omega⟩ v
  | .GLB_BMC_CTRL => s.bmcWrite false v
  | .EUT_PART_RESET => s.partResetWrite req v
  | r => if r.writable then s.fieldWrite view r inst sel v id else s

/-- A write of a register (R42, R47, R48): a clear of an SQ register, a LO word that is staged, a HI word that commits its pair, or a single
register. A read-only register ignores it. -/
def State.writeReg (s : State) (req : Requester) (view : Nat) (r : RegName) (inst sel : Nat) (v : Word) : State :=
  if isSq r then s.sqClearAt view r inst sel v
  else match r.spec.pair with
    | .lo _ => if r.writable then s.stage (reqIdx req) r inst sel v else s
    | .hi lo =>
      if !lo.writable then s
      else if r = .EVR_ANCHOR_HI then s.evrAnchor sel (reqIdx req) v
      else s.commitPair (reqIdx req) view lo r inst sel v
    | .single => s.writeSingle req view r inst sel v

/-- Whether a partition-scope register belongs to a partition other than P0 (R293). [DEDUCED, log 80] -/
def State.foreign (s : State) (r : RegName) (inst sel : Nat) : Bool :=
  match r.spec.scope with
  | .part => sel != 0
  | .owned => !s.owns 0 r inst
  | _ => false

/-- Registers that a partition view shows but does not write: the peer torus is written through the global window alone, and so is
`PWR_ALLOW` (R29, R293). [DEDUCED, log 80] -/
def viewReadOnly (r : RegName) : Bool := r.spec.block == 15 || r == .PWR_ALLOW

/-- An aligned 32-bit register write at an address (R38, R39, R50, R293). P0 writes no partition-scope register of another partition through
the global window, but for `PWR_ALLOW`. -/
def State.regWrite (s : State) (r : Requester) (addr : Nat) (v : Word) : State :=
  match s.target r addr with
  | (.bad, view) => s.accessErr view
  | (.reg g inst sel, view) =>
    if view = 4 then
      if r ≠ .mgc ∧ g ≠ .PWR_ALLOW ∧ s.foreign g inst sel = true then s.accessErr 4
      else s.writeReg r view g inst sel v
    else if viewReadOnly g && !isSq g then s
    else s.writeReg r view g inst sel v
  | (.elsewhere, _) => if r = .mgc then s else s.accessErr 4
  | _ => s

/-- The register an access reaches satisfies a test. -/
def State.reaches (s : State) (r : Requester) (addr : Nat) (ok : RegName → Bool) : Bool :=
  match (s.target r addr).1 with
  | .reg g _ _ => ok g
  | _ => false

/-! ## The rows -/

/-- ACCESS_ERR: an access of another width than 32 bits, unaligned, or outside the requester's reach; a read returns zero (R38, R39). -/
def execAccessErr (r : Requester) (addr width : Nat) (isWrite : Bool) (s : State) : Host.Outcome State Fault Refusal :=
  let bad := width != 32 || decide ((s.target r addr).1 = .bad)
  .next (if bad then
    let s := s.accessErr (errView r addr)
    if isWrite then s else s.emit (.readData r addr 0)
  else s)

/-- LO_READ_LATCH: a read of a LO register (R41). -/
def execLoReadLatch (r : Requester) (addr : Nat) (s : State) : Host.Outcome State Fault Refusal :=
  .next (if s.reaches r addr (fun g => match g.spec.pair with | .lo _ => true | _ => false) then
    let (w, s) := s.regRead r addr
    s.emit (.readData r addr w)
  else s)

/-- LO_WRITE_STAGE: a write of a LO register (R42). -/
def execLoWriteStage (r : Requester) (addr : Nat) (v : Word) (s : State) : Host.Outcome State Fault Refusal :=
  .next (if s.reaches r addr (fun g => match g.spec.pair with | .lo _ => true | _ => false) then s.regWrite r addr v else s)

/-- HI_WRITE_COMMIT: a write of a HI register (R42). -/
def execHiWriteCommit (r : Requester) (addr : Nat) (v : Word) (s : State) : Host.Outcome State Fault Refusal :=
  .next (if s.reaches r addr (fun g => match g.spec.pair with | .hi _ => true | _ => false) then s.regWrite r addr v else s)

/-- SQ_CLEAR: a write-back to an SQ register (R47). -/
def execSqClear (r : Requester) (addr : Nat) (v : Word) (s : State) : Host.Outcome State Fault Refusal :=
  .next (if s.reaches r addr isSq then s.regWrite r addr v else s)

end Sys2Proof.Machine
end

