-- ==== Sys2Proof/Machine/Euton.lean ====
section
/-! DEFINITION. What arrives on the Euton ports (R293 to R308): host requests, T2 and snapshot completions, ADAPTER_INFO; and the I3C
target of the management core (R459). -/

namespace Sys2Proof.Machine

/-- The partition whose host speaks through port E`k`: its owner; in ROM recovery P0, through E0 alone (R292, R424). [DEDUCED, log 83] -/
def State.hostOf (s : State) (k : EPort) : Option Part :=
  if s.boot.recovery then (if k.val = 0 then some 0 else none)
  else if h : s.portOwner k.val < 4 then some ⟨s.portOwner k.val, h⟩ else none

/-- A message discarded under R294 or R295: BAD_TXN. [DEDUCED, log 83] -/
def State.badTag (s : State) (k : EPort) : State := s.sqSet .EUT_Ek_STATUS k.val 0 [Fld.EUT_Ek_STATUS_BAD_TXN] []

/-- Whether a request is posted: it has no completion, so its tag is never outstanding (R297). -/
def HostReq.posted (q : HostReq) : Bool := match q.kind with | .dmaWr _ _ => true | _ => false

/-- Whether a host's tag is outstanding on a port (R295). -/
def State.tagBusy (s : State) (k : EPort) (tag : Nat) : Bool :=
  s.eut.hostTags.contains (k.val, tag % 4096) || s.eut.waiting.any (fun q => q.port == k && !q.posted && q.tag % 4096 == tag % 4096)

/-! ## Register requests (R297) -/

/-- The status of a register access (R296): ACCESS for another width, an address that names no register, or a write of P0 to a register of
another partition. -/
def State.regStatus (s : State) (p : Part) (addr len : Nat) (write : Bool) : Nat :=
  if len ≠ 4 then 1
  else match s.target (.part p) addr with
    | (.bad, _) => 1
    | (.reg g inst sel, view) => if write && view == 4 && g != .PWR_ALLOW && s.foreign g inst sel then 1 else 0
    | (.elsewhere, _) => b2n write
    | _ => 0

/-- ACCESS_ERR in the view through which an access came (R38). -/
def State.accessBad (s : State) (p : Part) (addr : Nat) : State :=
  s.accessErr (errView (.part p) addr)

/-- A register read on a port. -/
def State.hostRead (s : State) (k : EPort) (tag addr len : Nat) (p : Part) : State :=
  if s.regStatus p addr len false ≠ 0 then (s.accessBad p addr).sendCpl k.val 0x01 tag addr 1 []
  else
    let (w, s) := s.regRead (.part p) addr
    (s.emit (.readData (.part p) addr w)).sendCpl k.val 0x01 tag addr 0 (leBytes 4 w.toNat)

/-- A register write on a port. -/
def State.hostWrite (s : State) (k : EPort) (ttype tag addr len : Nat) (v : Word) (p : Part) : State :=
  if s.regStatus p addr len true ≠ 0 then (s.accessBad p addr).sendCpl k.val ttype tag addr 1 []
  else (s.regWrite (.part p) addr v).sendCpl k.val ttype tag addr 0 []

/-- The address of the register that a DOORBELL writes in its partition's view (R297): CODE 0 `CMD_Qn_TAIL`, CODE 1 `CMD_LOCK_ADD_k`. [DEDUCED, log 55] -/
def doorbellAddr (p : Part) (code index : Nat) : Nat :=
  let r : RegName := if code = 0 then .CMD_Qn_TAIL else .CMD_LOCK_ADD_k
  viewBase p.val + r.spec.block * 0x80000 + regOffset r index

/-- A DOORBELL: the same as a REG_WR of its value. An index with no register, or another CODE, reaches no register (log 55). [DEDUCED, log 55] -/
def State.doorbell (s : State) (k : EPort) (tag code index : Nat) (v : Word) (p : Part) : State :=
  if (code = 0 ∧ index < 64) ∨ (code = 1 ∧ index < 4096) then s.hostWrite k 0x05 tag (doorbellAddr p code index) 4 v p
  else (s.accessErr p.val).sendCpl k.val 0x05 tag 0 1 []

/-! ## Memory requests (R297) -/

/-- LEN is from 1 to 65,536 and the range crosses no 64 KiB boundary. -/
def dmaLenOk (addr len : Nat) : Bool := 1 ≤ len && len ≤ 65536 && addr / 65536 == (addr + len - 1) / 65536

/-- The status of a DMA range (R296): UNSUPPORTED for its length, RANGE for memory the request may not reach. In ROM recovery DMA_WR reaches the
management buffer window alone, and DMA_RD nothing (R424). [DEDUCED, log 83] -/
def State.dmaStatus (s : State) (p : Part) (addr len : Nat) (write : Bool) : Nat :=
  if !dmaLenOk addr len then 4
  else if s.boot.recovery then (if write && addr + len ≤ 0xF00000 then 0 else 2)
  else if write then (if s.ownsT01 p.val addr len then 0 else 2)
  else if s.ownsMem p.val addr len then 0 else 2

/-- Whether a write of a range would meet a retired page (R163). -/
def State.meetsRetired (s : State) (a len : Nat) : Bool := (s.pieces a len).any (fun r => s.retiredIn (s.resolve r.1 8 true) r.2)

/-- A DMA_WR: posted; where it fails its checks, or targets a retired page, it is discarded whole, with REQ_ERR and EUT_REQ_ERR; so is what of it falls on a poisoned
word that it covers in part (R297, R472). -/
def State.dmaWr (s : State) (k : EPort) (addr : Nat) (data : List Byte) (p : Part) : State :=
  let st := s.dmaStatus p addr data.length true
  if st ≠ 0 then s.reqErr k.val 0x03 st addr
  else if s.meetsRetired addr data.length then s.reqErr k.val 0x03 2 addr
  else
    let (s, e) := s.writeAs p.val addr data
    if e ≠ 0 then s.reqErr k.val 0x03 3 addr else s

/-- A DMA_RD: of T0, T1 or a copy above T2 at once, with POISON where a word is poisoned, the data then undefined; of T2 through the adapter
(R296, R297, R299). -/
def State.dmaRd (s : State) (k : EPort) (tag addr len : Nat) (p : Part) : State :=
  let st := s.dmaStatus p addr len false
  if st ≠ 0 then s.sendCpl k.val 0x04 tag addr st []
  else if isT2 (s.resolve addr) then
    let b := addr / 4096 * 4096
    let s := { s with eut := { s.eut with hostTags := s.eut.hostTags ++ [(k.val, tag % 4096)] } }
    let f : Fetch := { obj := none, ref := none, host := some (k.val, tag % 4096, addr, len), base := b, len := ceilTo (addr + len) 4096 - b
                       cur := 0, dest := b, bad := [], src := 1, tag := none, got := 0, fail := false }
    (s.addFetch p f).settleTier p
  else
    let ((data, bad), s) := s.readAs p.val addr len
    if bad then
      let (free, s) := s.drawBytes len
      s.sendCpl k.val 0x04 tag addr 3 free
    else s.sendCpl k.val 0x04 tag addr 0 data

/-! ## The order of requests (R140, R160, R297, R308) -/

/-- TTYPE and ADDR of a host request (R295, R297). -/
def HostKind.head : HostKind → Nat × Nat
  | .regRd a _ => (0x01, a)
  | .regWr a _ _ => (0x02, a)
  | .dmaWr a _ => (0x03, a)
  | .dmaRd a _ => (0x04, a)
  | .doorbell _ _ _ => (0x05, 0)

/-- Do what a host request asks. -/
def State.hostDo (s : State) (q : HostReq) (p : Part) : State :=
  match q.kind with
  | .regRd a n => s.hostRead q.port q.tag a n p
  | .regWr a n v => s.hostWrite q.port 0x02 q.tag a n v p
  | .dmaWr a d => s.dmaWr q.port a d p
  | .dmaRd a n => s.dmaRd q.port q.tag a n p
  | .doorbell c i v => s.doorbell q.port q.tag c i v p

/-- Requests of the partition under reset that have arrived and wait are applied now; then the reset takes place (R307, R308). -/
def State.beginReset (s : State) : State :=
  match s.boot.resetting with
  | some (p, r, false) =>
    let mine (q : HostReq) : Bool := s.hostOf q.port == some p
    let s' := { s with eut := { s.eut with waiting := s.eut.waiting.filter (fun q => !mine q) }, boot := { s.boot with resetting := some (p, r, true) } }
    ((s.eut.waiting.filter mine).foldl (fun s q => s.hostDo q p) s').partReset p
  | _ => s

/-- The reset that a write of GO has just started begins (R307). -/
def State.thenReset (s t : State) : State := if s.boot.resetting.isNone then t.beginReset else t

/-- Do what a host request asks, and begin the partition reset that it may have started. -/
def State.hostApply (s : State) (q : HostReq) (p : Part) : State := s.thenReset (s.hostDo q p)

/-- Whether a DMA access waits: its object is in PROMOTING, REFETCH or EVICTING (R140), or the partition's class waits for the next window of the stack (R160). -/
def State.dmaWaits (s : State) (p : Part) (a len : Nat) (write : Bool) : Bool :=
  let b := s.resolve a 8 write
  s.dmaStatus p a len write == 0
    && ((vget s.tier p).objs.any (fun e => e.2.valid && (e.2.state == 1 || e.2.state == 3 || e.2.state == 4) && rangesMeet e.2.range (a, a + len))
      || (isHbm b && s.windowFull (stackOf b) ⟨p.val, by omega⟩))

/-- Whether a host request waits by itself. -/
def State.hostWaits (s : State) (q : HostReq) (p : Part) : Bool :=
  match q.kind with
  | .dmaWr a d => s.dmaWaits p a d.length true
  | .dmaRd a n => s.dmaWaits p a n false
  | _ => false

/-- A request that arrives during the reset of its partition is not applied; a non-posted one completes with RESET, a posted one is discarded (R296, R308). -/
def State.hostRefuse (s : State) (q : HostReq) : State :=
  let (t, a) := q.kind.head
  if q.posted then s.reqErr q.port.val t 5 a else s.sendCpl q.port.val t q.tag a 5 []

/-- A host request arrives: on a port that no partition owns nothing does, and a reused tag is a protocol error (R291, R295). A port's requests are applied in
their order of arrival, so one that waits holds those behind it (R297). -/
def State.onRequest (s : State) (q : HostReq) : State :=
  match s.hostOf q.port with
  | none => s
  | some p =>
    if s.tagBusy q.port q.tag then s.badTag q.port
    else if s.inReset p then s.hostRefuse q
    else if s.eut.waiting.any (fun x => x.port == q.port) || s.hostWaits q p then
      { s with eut := { s.eut with waiting := s.eut.waiting ++ [q] } }
    else s.hostApply q p

/-- The requests that wait are applied as far as they can be, each port's in order. -/
def State.drainHost (s : State) : State :=
  (s.eut.waiting.foldl (fun (a : State × List EPort) q =>
    match a.1.hostOf q.port with
    | none => a
    | some p =>
      if a.2.contains q.port || a.1.hostWaits q p then
        ({ a.1 with eut := { a.1.eut with waiting := a.1.eut.waiting ++ [q] } }, q.port :: a.2)
      else (a.1.hostApply q p, a.2)) ({ s with eut := { s.eut with waiting := [] } }, [])).1

/-- REG_RD (R297). -/
def execRegRd (port : EPort) (tag : Nat) (addr len : Nat) (s : State) : Host.Outcome State Fault Refusal :=
  .next (s.onRequest { port := port, tag := tag, kind := .regRd addr len })

/-- REG_WR (R297). -/
def execRegWr (port : EPort) (tag : Nat) (addr len : Nat) (v : Word) (s : State) : Host.Outcome State Fault Refusal :=
  .next (s.onRequest { port := port, tag := tag, kind := .regWr addr len v })

/-- DMA_WR (R297). -/
def execDmaWr (port : EPort) (tag : Nat) (addr : Nat) (data : List Byte) (s : State) : Host.Outcome State Fault Refusal :=
  .next (s.onRequest { port := port, tag := tag, kind := .dmaWr addr data })

/-- DMA_RD (R297). -/
def execDmaRd (port : EPort) (tag : Nat) (addr len : Nat) (s : State) : Host.Outcome State Fault Refusal :=
  .next (s.onRequest { port := port, tag := tag, kind := .dmaRd addr len })

/-- DOORBELL (R297). -/
def execDoorbell (port : EPort) (tag : Nat) (code index : Nat) (v : Word) (s : State) : Host.Outcome State Fault Refusal :=
  .next (s.onRequest { port := port, tag := tag, kind := .doorbell code index v })

/-- REG_WRITE (R48): a write of `EUT_PART_RESET` begins its reset here. -/
def execRegWrite (r : Requester) (addr : Nat) (v : Word) (s : State) : Host.Outcome State Fault Refusal := .next (s.thenReset (s.regWrite r addr v))

/-- PARTITION_RESET (R307): only P0 and the management core start one. -/
def execPartitionReset (r : Requester) (p : Part) (s : State) : Host.Outcome State Fault Refusal :=
  .next (match r with
    | .mgc => s.thenReset (s.partGo r p)
    | .part q => if q.val = 0 then s.thenReset (s.partGo r p) else s.accessErr q.val)

/-! ## What lets a waiting request go on -/

/-- PROMOTION_COMPLETE (R139). [DESIGN CHOICE, log 7] -/
def execPromotionComplete (p : Part) (obj : Nat) (s : State) : Host.Outcome State Fault Refusal := .next (s.promotionComplete p obj).drainHost

/-- EVICTION_COMPLETE (R145). -/
def execEvictionComplete (p : Part) (obj : Nat) (s : State) : Host.Outcome State Fault Refusal := .next (s.evictionComplete p obj).drainHost

/-- TIER_REPAIR (R151). -/
def execTierRepair (p : Part) (obj : Nat) (s : State) : Host.Outcome State Fault Refusal := .next (s.objRepair p obj).drainHost

/-- REFETCH_SOURCE_TIMEOUT (R148). -/
def execRefetchSourceTimeout (p : Part) (obj : Nat) (s : State) : Host.Outcome State Fault Refusal := .next (s.sourceTimeout p obj).drainHost

/-- TIER_PEER_DATA (R148). -/
def execTierPeerData (_h : RouteHdr) (tag status : Nat) (data : List Byte) (s : State) : Host.Outcome State Fault Refusal :=
  .next (s.peerData tag status data).drainHost

/-- REGULATOR_WINDOW: a new window of a stack begins with nothing granted (R160). -/
def execRegulatorWindow (n : Quad) (s : State) : Host.Outcome State Fault Refusal :=
  .next (s.setStack n { vget s.hbm n with grants := Vector.replicate 5 0 }).drainHost

/-- BUDGET_EPOCH_END (R383); a partition reset that is in progress completes (R307). [DESIGN CHOICE, log 70] -/
def execBudgetEpochEnd (m : EpochMeas) (s : State) : Host.Outcome State Fault Refusal := .next ((s.epochEnd m).partDone).drainHost

/-! ## Bad messages (R294, R295) -/

/-- Whether a VC carries a TTYPE from the adapter (R294). -/
def vcCarries (vc ttype : Nat) : Bool :=
  match vc with
  | 0 | 4 => true
  | 1 => 1 ≤ ttype && ttype ≤ 5
  | 3 => ttype == 0x11
  | 5 => ttype == 0x1A
  | _ => false

/-- BAD_TXN: a message on VC7, or of a family its VC does not carry, is discarded with BAD_TXN and EUT_REQ_ERR; one with a reused TAG with
BAD_TXN (R294, R295). [DEDUCED, log 83] -/
def execBadTxn (port : EPort) (vc : Nat) (h : TxnHdr) (s : State) : Host.Outcome State Fault Refusal :=
  .next (if (s.hostOf port).isNone then s
    else if !vcCarries vc h.ttype then (s.badTag port).reqEvent port.val (h.ttype % 256) 4 h.addr
    else if vc = 1 ∧ s.tagBusy port h.tag = true then s.badTag port
    else s)

/-! ## Completions from the adapter (R299, R300, R304) -/

/-- T2_CPL: the T2 read it answers goes on (R299). -/
def execT2Cpl (port : EPort) (tag status : Nat) (poison : BitVec 16) (data : List Byte) (s : State) :
    Host.Outcome State Fault Refusal :=
  .next (s.t2Cpl port.val (tag % 4096) status poison data).drainHost

/-- A snapshot request of a command has completed (R300, R366, R373, R237). -/
def State.snapServe (s : State) (o : Outst) (status : Nat) (data : List Byte) : State :=
  let r := o.ref
  let p := r.part
  match s.cmdAt p.val r.queue.val r.slot with
  | none => s
  | some c =>
    match cOpcode c with
    | 0x60 =>
      match (vget s.rcv p).snaps.find? (fun x => x.ref == r) with
      | none => s
      | some x =>
        if status ≠ 0 then
          let (st, s) := s.snapStatus
          (s.dropOut r).snapEnd p x st
        else if (s.snapOut r).isEmpty then s.snapDurable p x
        else s
    | 0x61 =>
      match (vget s.rcv p).rests.find? (fun x => x.ref == r) with
      | none => s
      | some x => if status ≠ 0 then s.restNoSource p r else s.restPiece x o.off (padTo o.len (data.take o.len))
    | 0x70 =>
      if c.finished then s
      else if status ≠ 0 then
        let (st, s) := s.snapStatus
        (s.dropOut r).failRun r c st
      else if (s.snapOut r).isEmpty then s.exportDone r c c.pieces
      else s
    | _ => s

/-- SNAP_CPL (R300). -/
def execSnapCpl (port : EPort) (tag status : Nat) (data : List Byte) (s : State) : Host.Outcome State Fault Refusal :=
  .next (match s.eut.outst.find? (fun o => o.port == port.val && o.tag == tag % 4096) with
    | none => s
    | some o =>
      let s := ({ s with eut := { s.eut with outst := s.eut.outst.filter (· != o) } }).snapServe o status data
      (List.finRange 4).foldl (fun s p => s.pumpTier p) s.pumpSnap)

/-- ADAPTER_INFO: installed T2 memory, flash and SECOND_COPY of the adapter, for this session (R304). [DESIGN CHOICE, log 90] -/
def execAdapterInfo (port : EPort) (ddrGib flashGib : Nat) (secondCopy : Bool) (s : State) : Host.Outcome State Fault Refusal :=
  .next (if (s.hostOf port).isNone then s
    else s.wr .EUT_Ek_ADAPTER port.val 0
      (BitVec.ofNat 32 (min ddrGib 4096 + b2n secondCopy * 2 ^ 13 + 2 ^ 14 + min flashGib 0xFFFF * 2 ^ 16)))

/-! ## The I3C target (R459) -/

/-- What an offset of the global window names for the board controller. [DEDUCED, log 80; DEDUCED, log 89] -/
def State.i3cTarget (s : State) (off : Nat) : Target :=
  if off % 4 = 0 ∧ off < 23 * 0x100000 then s.targetGlob (off / 0x100000) (off % 0x100000) else .bad

/-- The register at an offset, read by the management core. [DESIGN CHOICE, log 56] -/
def State.i3cWord (s : State) (off : Nat) : Word × State :=
  match s.i3cTarget off with
  | .reg r i sel => s.readReg 4 4 r i sel
  | .bad => (0, s.accessErr 4)
  | .hidden | .elsewhere => (0, s)
  | .clampRec _ _ | .structRec _ | .report _ _ => s.regRead .mgc (globBase + off)

/-- I3C_SET_ADDRESS (R459). -/
def execI3cSetAddress (offset : Word) (s : State) : Host.Outcome State Fault Refusal :=
  .next (if s.pins.porstN then { s with pins := { s.pins with i3cAddr := offset.toNat } } else s)

/-- I3C_WRITE: only `PWR_COOLANT` and `GLB_BMC_CTRL` are written (R459). -/
def execI3cWrite (offset v : Word) (s : State) : Host.Outcome State Fault Refusal :=
  .next (if !s.pins.porstN then s
    else match s.i3cTarget offset.toNat with
      | .reg .PWR_COOLANT _ _ => s.coolantWrite v
      | .reg .GLB_BMC_CTRL _ _ => s.bmcWrite true v
      | _ => s.accessErr 4)

/-- I3C_READ of 4 bytes: the register at the set address; of 8 bytes at an X_LO address: the pair from one latch. Bytes beyond what R459
describes are free (log 56). [DESIGN CHOICE, log 56] -/
def execI3cRead (bytes : Nat) (s : State) : Host.Outcome State Fault Refusal :=
  .next (if !s.pins.porstN then s
    else
      let off := s.pins.i3cAddr
      let (w, s) := s.i3cWord off
      let (d, s) := match s.i3cTarget off with
        | .reg r _ _ =>
          match r.spec.pair with
          | .lo _ => if bytes = 8 then
              let (h, s) := s.i3cWord (off + 4)
              (leBytes 4 w.toNat ++ leBytes 4 h.toNat, s)
            else (leBytes 4 w.toNat, s)
          | _ => (leBytes 4 w.toNat, s)
        | _ => (leBytes 4 w.toNat, s)
      let (free, s) := s.drawBytes (bytes - d.length)
      s.emit (.i3cData ((d ++ free).take bytes)))

/-- ENTDAA: the controller assigns a dynamic address; the provisioned ID carries the low 32 bits of the serial (R459). [DEDUCED, log 89] -/
def execEntdaa (dynAddr : BitVec 7) (s : State) : Host.Outcome State Fault Refusal :=
  .next (if s.pins.porstN then
    ({ s with pins := { s.pins with i3cDyn := some dynAddr } }).emit (.i3cData (leBytes 4 (Config.serial.toNat % 2 ^ 32)))
  else s)

end Sys2Proof.Machine
end

