-- ==== Sys2Proof/Machine/Dispatch.lean ====
section
/-! DEFINITION. The dispatcher: one arm per constructor of `Instr`. -/

namespace Sys2Proof.Machine

def exec (i : Instr) (s : State) : Host.Outcome State Fault Refusal :=
  match i with
  | .coldReset feed slot => Sys2Proof.Machine.execColdReset feed slot s
  | .warmReset byBoard => Sys2Proof.Machine.execWarmReset byBoard s
  | .rom => Sys2Proof.Machine.execRom s
  | .fabric => Sys2Proof.Machine.execFabric s
  | .sram defects => Sys2Proof.Machine.execSram defects s
  | .hbmTrain failedTwice => Sys2Proof.Machine.execHbmTrain failedTwice s
  | .qualify failing => Sys2Proof.Machine.execQualify failing s
  | .links => Sys2Proof.Machine.execLinks s
  | .linkWaitExpiry => Sys2Proof.Machine.execLinkWaitExpiry s
  | .compute facets lanes => Sys2Proof.Machine.execCompute facets lanes s
  | .topology => Sys2Proof.Machine.execTopology s
  | .partitionReset r p => Sys2Proof.Machine.execPartitionReset r p s
  | .regWrite r addr v => Sys2Proof.Machine.execRegWrite r addr v s
  | .accessErr r addr width isWrite => Sys2Proof.Machine.execAccessErr r addr width isWrite s
  | .loReadLatch r addr => Sys2Proof.Machine.execLoReadLatch r addr s
  | .loWriteStage r addr v => Sys2Proof.Machine.execLoWriteStage r addr v s
  | .hiWriteCommit r addr v => Sys2Proof.Machine.execHiWriteCommit r addr v s
  | .sqClear r addr v => Sys2Proof.Machine.execSqClear r addr v s
  | .cmdQnTailWrite p q t => Sys2Proof.Machine.execCmdQnTailWrite p q t s
  | .queueAbort p q => Sys2Proof.Machine.execQueueAbort p q s
  | .queueCtrlWrite p q v => Sys2Proof.Machine.execQueueCtrlWrite p q v s
  | .cmdLockAdd p k v => Sys2Proof.Machine.execCmdLockAdd p k v s
  | .cmdLockSet p k v => Sys2Proof.Machine.execCmdLockSet p k v s
  | .commandStart p q => Sys2Proof.Machine.execCommandStart p q s
  | .cmdWaitExpired p q => Sys2Proof.Machine.execCmdWaitExpired p q s
  | .energyAdmission p q => Sys2Proof.Machine.execEnergyAdmission p q s
  | .commandComplete c energyUj => Sys2Proof.Machine.execCommandComplete c energyUj s
  | .nop c => Sys2Proof.Machine.execNop c s
  | .lockSet c => Sys2Proof.Machine.execLockSet c s
  | .copy c => Sys2Proof.Machine.execCopy c s
  | .prefetch c => Sys2Proof.Machine.execPrefetch c s
  | .scheduleEntryStart c => Sys2Proof.Machine.execScheduleEntryStart c s
  | .promotionComplete p obj => Sys2Proof.Machine.execPromotionComplete p obj s
  | .refetchSourceTimeout p obj => Sys2Proof.Machine.execRefetchSourceTimeout p obj s
  | .tierSpaceStall p obj => Sys2Proof.Machine.execTierSpaceStall p obj s
  | .evict c => Sys2Proof.Machine.execEvict c s
  | .deferredEviction p obj => Sys2Proof.Machine.execDeferredEviction p obj s
  | .evictionComplete p obj => Sys2Proof.Machine.execEvictionComplete p obj s
  | .tierObjtLoad p => Sys2Proof.Machine.execTierObjtLoad p s
  | .tierObjSync p obj => Sys2Proof.Machine.execTierObjSync p obj s
  | .tierRepair p obj => Sys2Proof.Machine.execTierRepair p obj s
  | .matmul c => Sys2Proof.Machine.execMatmul c s
  | .ewmul c => Sys2Proof.Machine.execEwmul c s
  | .tileIssue c array piece region => Sys2Proof.Machine.execTileIssue c array piece region s
  | .tileCommit array piece => Sys2Proof.Machine.execTileCommit array piece s
  | .tileFault array piece facet cause => Sys2Proof.Machine.execTileFault array piece facet cause s
  | .handshakeStall array piece facet => Sys2Proof.Machine.execHandshakeStall array piece facet s
  | .vprog c => Sys2Proof.Machine.execVprog c s
  | .reduce c => Sys2Proof.Machine.execReduce c s
  | .update c => Sys2Proof.Machine.execUpdate c s
  | .vecNop e f => Sys2Proof.Machine.execVecNop e f s
  | .vAdd e f => Sys2Proof.Machine.execVAdd e f s
  | .vSub e f => Sys2Proof.Machine.execVSub e f s
  | .vMul e f => Sys2Proof.Machine.execVMul e f s
  | .vFma e f => Sys2Proof.Machine.execVFma e f s
  | .vMin e f => Sys2Proof.Machine.execVMin e f s
  | .vMax e f => Sys2Proof.Machine.execVMax e f s
  | .vAnd e f => Sys2Proof.Machine.execVAnd e f s
  | .vOr e f => Sys2Proof.Machine.execVOr e f s
  | .vXor e f => Sys2Proof.Machine.execVXor e f s
  | .vAndn e f => Sys2Proof.Machine.execVAndn e f s
  | .vShl e f => Sys2Proof.Machine.execVShl e f s
  | .vShr e f => Sys2Proof.Machine.execVShr e f s
  | .vSar e f => Sys2Proof.Machine.execVSar e f s
  | .vRshr e f => Sys2Proof.Machine.execVRshr e f s
  | .vCeq e f => Sys2Proof.Machine.execVCeq e f s
  | .vCne e f => Sys2Proof.Machine.execVCne e f s
  | .vClt e f => Sys2Proof.Machine.execVClt e f s
  | .vCle e f => Sys2Proof.Machine.execVCle e f s
  | .vSel e f => Sys2Proof.Machine.execVSel e f s
  | .vMand e f => Sys2Proof.Machine.execVMand e f s
  | .vMor e f => Sys2Proof.Machine.execVMor e f s
  | .vMnot e f => Sys2Proof.Machine.execVMnot e f s
  | .vCvt e f => Sys2Proof.Machine.execVCvt e f s
  | .vExp2 e f => Sys2Proof.Machine.execVExp2 e f s
  | .vLog2 e f => Sys2Proof.Machine.execVLog2 e f s
  | .vRcp e f => Sys2Proof.Machine.execVRcp e f s
  | .vRsqrt e f => Sys2Proof.Machine.execVRsqrt e f s
  | .vTanh e f => Sys2Proof.Machine.execVTanh e f s
  | .vSigm e f => Sys2Proof.Machine.execVSigm e f s
  | .vPerm e f => Sys2Proof.Machine.execVPerm e f s
  | .vTrans e f => Sys2Proof.Machine.execVTrans e f s
  | .vAct e f => Sys2Proof.Machine.execVAct e f s
  | .vDact e f => Sys2Proof.Machine.execVDact e f s
  | .vTld e f => Sys2Proof.Machine.execVTld e f s
  | .vTst e f => Sys2Proof.Machine.execVTst e f s
  | .vCld e f => Sys2Proof.Machine.execVCld e f s
  | .vCst e f => Sys2Proof.Machine.execVCst e f s
  | .vGather e f => Sys2Proof.Machine.execVGather e f s
  | .vRed e f => Sys2Proof.Machine.execVRed e f s
  | .vRget e f => Sys2Proof.Machine.execVRget e f s
  | .vRclr e f => Sys2Proof.Machine.execVRclr e f s
  | .vPass e f => Sys2Proof.Machine.execVPass e f s
  | .stream c => Sys2Proof.Machine.execStream c s
  | .streamClosed str => Sys2Proof.Machine.execStreamClosed str s
  | .barge port bytes => Sys2Proof.Machine.execBarge port bytes s
  | .rewindTimeout str => Sys2Proof.Machine.execRewindTimeout str s
  | .haltAck port str offset => Sys2Proof.Machine.execHaltAck port str offset s
  | .ingAckLate str => Sys2Proof.Machine.execIngAckLate str s
  | .adapterInfo port ddrGib flashGib secondCopy => Sys2Proof.Machine.execAdapterInfo port ddrGib flashGib secondCopy s
  | .decode c => Sys2Proof.Machine.execDecode c s
  | .decodeSpanReady c engine => Sys2Proof.Machine.execDecodeSpanReady c engine s
  | .decStarved c => Sys2Proof.Machine.execDecStarved c s
  | .decodeComplete c => Sys2Proof.Machine.execDecodeComplete c s
  | .conditionSample buf engine => Sys2Proof.Machine.execConditionSample buf engine s
  | .sampleLand buf => Sys2Proof.Machine.execSampleLand buf s
  | .feed c => Sys2Proof.Machine.execFeed c s
  | .feedWindowReady c => Sys2Proof.Machine.execFeedWindowReady c s
  | .allreduce c => Sys2Proof.Machine.execAllreduce c s
  | .agree h ch recs => Sys2Proof.Machine.execAgree h ch recs s
  | .partialSum h ch blocks => Sys2Proof.Machine.execPartialSum h ch blocks s
  | .result h ch blocks => Sys2Proof.Machine.execResult h ch blocks s
  | .signs h ch signs => Sys2Proof.Machine.execSigns h ch signs s
  | .commit c => Sys2Proof.Machine.execCommit c s
  | .tokenReady port m => Sys2Proof.Machine.execTokenReady port m s
  | .tokenCommit port m => Sys2Proof.Machine.execTokenCommit port m s
  | .stepAbort port m => Sys2Proof.Machine.execStepAbort port m s
  | .colWatchdog g => Sys2Proof.Machine.execColWatchdog g s
  | .snapshot c => Sys2Proof.Machine.execSnapshot c s
  | .restore c => Sys2Proof.Machine.execRestore c s
  | .ledger c => Sys2Proof.Machine.execLedger c s
  | .digest c => Sys2Proof.Machine.execDigest c s
  | .ledgerEnable p => Sys2Proof.Machine.execLedgerEnable p s
  | .regRd port tag addr len => Sys2Proof.Machine.execRegRd port tag addr len s
  | .regWr port tag addr len v => Sys2Proof.Machine.execRegWr port tag addr len v s
  | .dmaWr port tag addr data => Sys2Proof.Machine.execDmaWr port tag addr data s
  | .dmaRd port tag addr len => Sys2Proof.Machine.execDmaRd port tag addr len s
  | .doorbell port tag code index v => Sys2Proof.Machine.execDoorbell port tag code index v s
  | .badTxn port vc h => Sys2Proof.Machine.execBadTxn port vc h s
  | .t2Cpl port tag status poison data => Sys2Proof.Machine.execT2Cpl port tag status poison data s
  | .snapCpl port tag status data => Sys2Proof.Machine.execSnapCpl port tag status data s
  | .dataFlit port f => Sys2Proof.Machine.execDataFlit port f s
  | .idleFlit port f => Sys2Proof.Machine.execIdleFlit port f s
  | .nak port f => Sys2Proof.Machine.execNak port f s
  | .nakRepeat port => Sys2Proof.Machine.execNakRepeat port s
  | .replay port => Sys2Proof.Machine.execReplay port s
  | .retrainReq port first rest => Sys2Proof.Machine.execRetrainReq port first rest s
  | .failRx port first second third => Sys2Proof.Machine.execFailRx port first second third s
  | .lnkFailCmdWrite v => Sys2Proof.Machine.execLnkFailCmdWrite v s
  | .laneFail port lanes => Sys2Proof.Machine.execLaneFail port lanes s
  | .detect port lanes => Sys2Proof.Machine.execDetect port lanes s
  | .identify port rec => Sys2Proof.Machine.execIdentify port rec s
  | .identifyTimeout port => Sys2Proof.Machine.execIdentifyTimeout port s
  | .equalise port => Sys2Proof.Machine.execEqualise port s
  | .verify port passing => Sys2Proof.Machine.execVerify port passing s
  | .align port => Sys2Proof.Machine.execAlign port s
  | .retrainTimeout port => Sys2Proof.Machine.execRetrainTimeout port s
  | .lossOfSignal port => Sys2Proof.Machine.execLossOfSignal port s
  | .holdoffExpiry port => Sys2Proof.Machine.execHoldoffExpiry port s
  | .linkRetrain port => Sys2Proof.Machine.execLinkRetrain port s
  | .linkEnableWrite port v => Sys2Proof.Machine.execLinkEnableWrite port v s
  | .messageForward h vc flits => Sys2Proof.Machine.execMessageForward h vc flits s
  | .deadNotice port m => Sys2Proof.Machine.execDeadNotice port m s
  | .perRemapLWrite k v => Sys2Proof.Machine.execPerRemapLWrite k v s
  | .perRemapPWrite k v => Sys2Proof.Machine.execPerRemapPWrite k v s
  | .perDeadRemove k => Sys2Proof.Machine.execPerDeadRemove k s
  | .perGrpWrite r g word v => Sys2Proof.Machine.execPerGrpWrite r g word v s
  | .tierPeerRead h tag addr len => Sys2Proof.Machine.execTierPeerRead h tag addr len s
  | .tierPeerData h tag status data => Sys2Proof.Machine.execTierPeerData h tag status data s
  | .protect h r offset last data => Sys2Proof.Machine.execProtect h r offset last data s
  | .protectAck h r bytes ok => Sys2Proof.Machine.execProtectAck h r bytes ok s
  | .digestMsg h r crc => Sys2Proof.Machine.execDigestMsg h r crc s
  | .hello h r kind feed allowSame => Sys2Proof.Machine.execHello h r kind feed allowSame s
  | .rcvPairingWrite p ward v => Sys2Proof.Machine.execRcvPairingWrite p ward v s
  | .rcvGo p rid => Sys2Proof.Machine.execRcvGo p rid s
  | .census h r spare ward recs => Sys2Proof.Machine.execCensus h r spare ward recs s
  | .censusTimeout p => Sys2Proof.Machine.execCensusTimeout p s
  | .plan h r rstep epoch flash store acts => Sys2Proof.Machine.execPlan h r rstep epoch flash store acts s
  | .fetch h r source bytes offset => Sys2Proof.Machine.execFetch h r source bytes offset s
  | .fetchData h r offset status data => Sys2Proof.Machine.execFetchData h r offset status data s
  | .done h r prot action => Sys2Proof.Machine.execDone h r prot action s
  | .resume h r rstep epoch => Sys2Proof.Machine.execResume h r rstep epoch s
  | .budgetEpochEnd m => Sys2Proof.Machine.execBudgetEpochEnd m s
  | .avsRound bus rails => Sys2Proof.Machine.execAvsRound bus rails s
  | .railCurrentRead current => Sys2Proof.Machine.execRailCurrentRead current s
  | .pmbusAlert => Sys2Proof.Machine.execPmbusAlert s
  | .pmbusAlertRelease => Sys2Proof.Machine.execPmbusAlertRelease s
  | .pwrFail => Sys2Proof.Machine.execPwrFail s
  | .pwrFailRelease => Sys2Proof.Machine.execPwrFailRelease s
  | .thermtrip q => Sys2Proof.Machine.execThermtrip q s
  | .pwrUv rail mv => Sys2Proof.Machine.execPwrUv rail mv s
  | .dieTempSample temps => Sys2Proof.Machine.execDieTempSample temps s
  | .coolantReport r v => Sys2Proof.Machine.execCoolantReport r v s
  | .coolantStale => Sys2Proof.Machine.execCoolantStale s
  | .hbmTempSample stack temp => Sys2Proof.Machine.execHbmTempSample stack temp s
  | .regulatorWindow stack => Sys2Proof.Machine.execRegulatorWindow stack s
  | .refresh stack bank postpone => Sys2Proof.Machine.execRefresh stack bank postpone s
  | .calibration stack domain => Sys2Proof.Machine.execCalibration stack domain s
  | .scrub stack hits late => Sys2Proof.Machine.execScrub stack hits late s
  | .hbmMarginStart r v => Sys2Proof.Machine.execHbmMarginStart r v s
  | .evrFlushTimer => Sys2Proof.Machine.execEvrFlushTimer s
  | .evrFlush => Sys2Proof.Machine.execEvrFlush s
  | .evrAdvance view => Sys2Proof.Machine.execEvrAdvance view s
  | .evrAnchor p hi => Sys2Proof.Machine.execEvrAnchor p hi s
  | .evrClear r v => Sys2Proof.Machine.execEvrClear r v s
  | .chkScan u => Sys2Proof.Machine.execChkScan u s
  | .chkAppend u => Sys2Proof.Machine.execChkAppend u s
  | .chkCheckStrip u => Sys2Proof.Machine.execChkCheckStrip u s
  | .chkDone u => Sys2Proof.Machine.execChkDone u s
  | .secStage r v => Sys2Proof.Machine.execSecStage r v s
  | .stageDone => Sys2Proof.Machine.execStageDone s
  | .settingsSave => Sys2Proof.Machine.execSettingsSave s
  | .secSvnCommit r v => Sys2Proof.Machine.execSecSvnCommit r v s
  | .attestGo view => Sys2Proof.Machine.execAttestGo view s
  | .reportSigned => Sys2Proof.Machine.execReportSigned s
  | .i3cSetAddress offset => Sys2Proof.Machine.execI3cSetAddress offset s
  | .i3cWrite offset v => Sys2Proof.Machine.execI3cWrite offset v s
  | .i3cRead bytes => Sys2Proof.Machine.execI3cRead bytes s
  | .glbRefclkLoss clk => Sys2Proof.Machine.execGlbRefclkLoss clk s
  | .glbJtagTakeover code => Sys2Proof.Machine.execGlbJtagTakeover code s
  | .porstNAssert => Sys2Proof.Machine.execPorstNAssert s
  | .hbmMarginSweepEnd results => Sys2Proof.Machine.execHbmMarginSweepEnd results s
  | .entdaa dynAddr => Sys2Proof.Machine.execEntdaa dynAddr s

end Sys2Proof.Machine
end

