-- ==== Sys2Proof/Machine/Frames.lean ====
section
/-! DEFINITION. What the statements say a command leaves alone: `Quiet` is what recording an event leaves alone, `QuietFail` a FATAL one, `Touched` what a read
of memory leaves alone; and what it means that an event is recorded. -/

namespace Sys2Proof.Machine

/-- The registers that recording an event may change: record numbers and drops (R437, R439), notes (R301, R302), credits spent. -/
def loud : RegName → Bool
  | .EVR_STATUS | .EVR_NEXT_LO | .EVR_NEXT_HI | .EUT_NOTE_SEQ | .EUT_Ek_STATUS | .LNK_Pp_VCv => true
  | _ => false

/-- What recording an event that is not FATAL leaves alone. -/
structure Quiet (s t : State) : Prop where
  mem : t.mem = s.mem
  queues : t.queues = s.queues
  hbm : t.hbm = s.hbm
  pwr : t.pwr = s.pwr
  boot : t.boot = s.boot
  flash : t.flash = s.flash
  arr : t.arr = s.arr
  vec : t.vec = s.vec
  chk : t.chk = s.chk
  eut : t.eut = s.eut
  col : t.col = s.col
  rcv : t.rcv = s.rcv
  tier : t.tier = s.tier
  ing : t.ing = s.ing
  pending : t.pending = s.pending
  rd : ∀ r i a, loud r = false → t.rd r i a = s.rd r i a

/-- What recording a FATAL event leaves alone: every port is held down, and what the hosts had in flight ends with it (R288, R303, R304). -/
structure QuietFail (s t : State) : Prop where
  mem : t.mem = s.mem
  queues : t.queues = s.queues
  hbm : t.hbm = s.hbm
  pwr : t.pwr = s.pwr
  boot : t.boot = s.boot
  flash : t.flash = s.flash
  arr : t.arr = s.arr
  vec : t.vec = s.vec
  chk : t.chk = s.chk
  eut : t.eut = { s.eut with hostTags := t.eut.hostTags, waiting := t.eut.waiting }
  col : t.col = s.col
  rcv : t.rcv = s.rcv
  tier : ∀ p, vget t.tier p = { vget s.tier p with fetches := (vget t.tier p).fetches }
  ing : t.ing = s.ing
  pending : t.pending = s.pending
  rd : ∀ r i a, loud r = false → r ≠ .LNK_Pp_STATE → r ≠ .EUT_Ek_ADAPTER → t.rd r i a = s.rd r i a

/-- The buffer holds a record of an event. -/
def Recorded (t : State) (e : Ev) : Prop :=
  ∃ r ∈ t.evr.buf, r.code = e.code ∧ r.cls = e.cls ∧ r.inst = e.inst ∧ r.sev = e.sev ∧ r.part = e.part ∧ r.p1 = e.p1 % 2 ^ 64
    ∧ r.p2 = e.p2 % 2 ^ 64

/-- Registers that the error handling of a stack may change (R158 to R165). -/
def hbmLoud : RegName → Bool
  | .HBM_STACKn_STATUS | .HBM_STACKn_RETIRED => true
  | r => loud r

/-- What a read of memory leaves alone: bytes, and everything outside the stacks, the repair record and the recorder. -/
structure Touched (s t : State) : Prop where
  cells : t.mem.cells = s.mem.cells
  t2 : t.mem.t2 = s.mem.t2
  t2Poison : t.mem.t2Poison = s.mem.t2Poison
  queues : t.queues = s.queues
  pwr : t.pwr = s.pwr
  arr : t.arr = s.arr
  vec : t.vec = s.vec
  chk : t.chk = s.chk
  eut : t.eut = s.eut
  col : t.col = s.col
  rcv : t.rcv = s.rcv
  tier : t.tier = s.tier
  ing : t.ing = s.ing
  img : t.boot.img = s.boot.img
  pending : t.pending = s.pending
  rd : ∀ r i a, hbmLoud r = false → t.rd r i a = s.rd r i a

/-- Every register but those named, and but those that recording an event may change, reads as before. -/
def KeepsRegs (s t : State) (named : RegName → Bool) : Prop :=
  ∀ r i a, named r = false → loud r = false → t.rd r i a = s.rd r i a

/-- Nothing changes but the registers of the given keys. -/
structure OnlyRegs (s t : State) (keys : List Nat) : Prop where
  rest : t = { s with rf := { s.rf with main := t.rf.main, copy2 := t.rf.copy2, copy3 := t.rf.copy3 } }
  regs : ∀ r i a, regKey r i a ∉ keys → t.rd r i a = s.rd r i a

/-- Every byte of device memory reads as before. -/
def KeepsMem (s t : State) : Prop := ∀ a, t.cell a = s.cell a

end Sys2Proof.Machine
end

