-- ==== Sys2Proof/WellFormed.lean ====
section
/-! DEFINITION. Well-formed commands: each operand within the field that carries it in the message, record or register of its rule.
The meanings are total on every command; these checks say which commands a sender can form. -/

namespace Sys2Proof

/-- A coordinate is three bytes (R310, R321). -/
def Coord.wf (c : Coord) : Bool := decide (c.x < 256) && decide (c.y < 256) && decide (c.z < 256)

/-- The routing header (R321): ROUTE has four bits, GROUP is 0 to 63 or 0xFF, and EPOCH is 0 without a group. -/
def RouteHdr.wf (h : RouteHdr) : Bool :=
  decide (h.mtype < 256) && decide (h.route < 16) && (decide (h.group < 64) || h.group == 0xFF) && h.dst.wf && h.src.wf
    && decide (h.epoch < 2 ^ 32) && (decide (h.group < 64) || h.epoch == 0)

/-- The collective header (R347): NBLK is 1 to 28, a dimension is 0 to 2. -/
def ColHdr.wf (c : ColHdr) : Bool :=
  decide (c.tid < 2 ^ 32) && decide (c.step < 2 ^ 32) && decide (c.first < 2 ^ 32) && decide (1 ≤ c.nblk) && decide (c.nblk ≤ 28)
    && decide (c.dim < 3) && decide (c.attempt < 16) && decide (c.oparg < 2 ^ 16)

/-- An AGREE record (R333). -/
def AgreeRec.wf (a : AgreeRec) : Bool := decide (a.exp < 256) && decide (a.score < 2 ^ 16) && decide (a.scale < 2 ^ 16)

/-- A GR16 block (R334): 64 mantissas of 16 bits. The code −32,768 can arrive: it fails the receive check. -/
def GrBlock.wf (b : GrBlock) : Bool :=
  decide (b.m.length = 64) && b.m.all (fun x => decide (-32768 ≤ x) && decide (x ≤ 32767)) && decide (b.exp < 256)
    && decide (b.res < 2 ^ 16) && decide (b.idx < 2 ^ 32)

/-- A control message (R350). -/
def CtlMsg.wf (m : CtlMsg) : Bool :=
  decide (m.group < 256) && decide (m.rank < 2 ^ 16) && decide (m.epoch < 2 ^ 32) && decide (m.step < 2 ^ 32)
    && decide (m.reason < 256) && decide (m.attempt < 16)

/-- The recovery header (R370). -/
def RecHdr.wf (r : RecHdr) : Bool :=
  decide (r.rid < 2 ^ 32) && decide (r.step < 2 ^ 32) && r.sender.wf && decide (r.group < 256) && decide (r.epoch < 2 ^ 32)

/-- The headers of a recovery message of an MTYPE (R370): RID is 0 for the messages that run outside a recovery. -/
def msgWf (mtype : Nat) (h : RouteHdr) (r : RecHdr) : Bool :=
  h.wf && h.mtype == mtype && r.wf && (decide (0x14 ≤ mtype) || r.rid == 0)

/-- A piece of an image is 1 to 65,536 bytes (R370). -/
def pieceWf (n : Nat) : Bool := decide (1 ≤ n) && decide (n ≤ 65536)

/-- A group record of a CENSUS (R370). -/
def CensusRec.wf (c : CensusRec) : Bool :=
  decide (c.group < 64) && [c.updated, c.prot, c.wstep, c.flash, c.store, c.committed, c.epoch, c.local0, c.local1, c.ward0, c.ward1,
    c.gx, c.gy, c.gz, c.gctrl].all (fun x => decide (x < 2 ^ 32))

/-- An action record of a PLAN (R370). -/
def PlanAct.wf (a : PlanAct) : Bool := a.coord.wf && decide (a.action < 256) && a.wardOf.wf

/-- An identity record (R282). -/
def Identity.wf (i : Identity) : Bool :=
  [i.version, i.role, i.port, i.gen, i.laneEn].all (fun x => decide (x < 256)) && decide (i.slot < 64) && decide (i.feed < 16)
    && decide (i.serial < 2 ^ 64) && decide (i.boot < 2 ^ 16)

/-- A flit has 244 payload bytes (R272). -/
def Flit.wf (f : Flit) : Bool := decide (f.payload.length = 244)

/-- A measurement of a lane (R284). -/
def LaneMeas.wf (m : LaneMeas) : Bool := decide (m.symErr < 2 ^ 32) && decide (m.eyeMv < 256)

/-- An HBM address (R31). -/
def hbmAddr (a : Nat) : Bool := decide (0x010000000000 ≤ a) && decide (a < 0x020000000000)

/-- An on-chip defect: 64 banks and two spares in a slice (R404), 32 lane groups in an engine. -/
def SramDefect.wf : SramDefect → Bool
  | .bank _ b => decide (b < 66)
  | .laneGroup _ g => decide (g < 32)
  | .cacheRows _ _ => true
  | .macroRows _ _ => true

/-- A reference to a command: slot counts are 32 bits (R56). -/
def CmdRef.wf (c : CmdRef) : Bool := decide (c.slot < 2 ^ 32)

/-- A register access that is applied is to an aligned word of the device address space (R38). -/
def regAddrWf (addr : Nat) : Bool := decide (addr < 2 ^ 64) && decide (addr % 4 = 0)

/-- The 12-bit tag and the address of a transaction (R295). -/
def txnWf (tag addr : Nat) : Bool := decide (tag < 2 ^ 12) && decide (addr < 2 ^ 64)

/-- The measurements of a budget epoch cover the nine rails and four partitions (R383). -/
def EpochMeas.wf (m : EpochMeas) : Bool :=
  decide (m.hsRate.length = 9) && decide (m.tj.length = 9) && decide (m.railW.length = 9) && decide (m.partW.length = 4)
    && decide (m.partIdle.length = 4)

/-- The fields of a vector instruction (R247). -/
def VFields.wf (f : VFields) : Bool :=
  decide (f.dst < 32) && decide (f.sa < 32) && decide (f.sb < 32) && decide (f.sc < 32) && decide (f.mask < 8) && decide (f.ty < 8)
    && decide (f.imm < 2 ^ 24)

/-- Whether a command is well formed. [DEDUCED, log 104] -/
def Instr.wf : Instr → Bool
  | .coldReset fd slot => decide (fd < 16) && decide (slot < 64)
  | .warmReset _ => true
  | .rom => true
  | .fabric => true
  | .sram defects => defects.all SramDefect.wf
  | .hbmTrain _ => true
  | .qualify failing => failing.all hbmAddr
  | .links => true
  | .linkWaitExpiry => true
  | .compute facets lanes => facets.all (fun f => decide (f.2 ≤ 16)) && lanes.all (fun f => decide (f.2 < 32))
  | .topology => true
  | .partitionReset _ _ => true
  | .regWrite _ addr _ => regAddrWf addr
  | .accessErr _ addr _ _ => decide (addr < 2 ^ 64)
  | .loReadLatch _ addr => regAddrWf addr
  | .loWriteStage _ addr _ => regAddrWf addr
  | .hiWriteCommit _ addr _ => regAddrWf addr
  | .sqClear _ addr _ => regAddrWf addr
  | .cmdQnTailWrite _ _ _ => true
  | .queueAbort _ _ => true
  | .queueCtrlWrite _ _ _ => true
  | .cmdLockAdd _ _ _ => true
  | .cmdLockSet _ _ _ => true
  | .commandStart _ _ => true
  | .cmdWaitExpired _ _ => true
  | .energyAdmission _ _ => true
  | .commandComplete c _ => c.wf
  | .nop c => c.wf
  | .lockSet c => c.wf
  | .copy c => c.wf
  | .prefetch c => c.wf
  | .scheduleEntryStart c => c.wf
  | .promotionComplete _ obj => decide (obj < 2 ^ 16)
  | .refetchSourceTimeout _ obj => decide (obj < 2 ^ 16)
  | .tierSpaceStall _ obj => decide (obj < 2 ^ 16)
  | .evict c => c.wf
  | .deferredEviction _ obj => decide (obj < 2 ^ 16)
  | .evictionComplete _ obj => decide (obj < 2 ^ 16)
  | .tierObjtLoad _ => true
  | .tierObjSync _ obj => decide (obj < 2 ^ 16)
  | .tierRepair _ obj => decide (obj < 2 ^ 16)
  | .matmul c => c.wf
  | .ewmul c => c.wf
  | .tileIssue c _ piece region => c.wf && decide (piece < 16) && decide (region < 1024)
  | .tileCommit _ piece => decide (piece < 16)
  | .tileFault _ piece facet cause => decide (piece < 16) && decide (facet < 16) && decide (cause < 256)
  | .handshakeStall _ piece facet => decide (piece < 16) && decide (facet < 16)
  | .vprog c => c.wf
  | .reduce c => c.wf
  | .update c => c.wf
  | .vecNop _ f => f.wf
  | .vAdd _ f => f.wf
  | .vSub _ f => f.wf
  | .vMul _ f => f.wf
  | .vFma _ f => f.wf
  | .vMin _ f => f.wf
  | .vMax _ f => f.wf
  | .vAnd _ f => f.wf
  | .vOr _ f => f.wf
  | .vXor _ f => f.wf
  | .vAndn _ f => f.wf
  | .vShl _ f => f.wf
  | .vShr _ f => f.wf
  | .vSar _ f => f.wf
  | .vRshr _ f => f.wf
  | .vCeq _ f => f.wf
  | .vCne _ f => f.wf
  | .vClt _ f => f.wf
  | .vCle _ f => f.wf
  | .vSel _ f => f.wf
  | .vMand _ f => f.wf
  | .vMor _ f => f.wf
  | .vMnot _ f => f.wf
  | .vCvt _ f => f.wf
  | .vExp2 _ f => f.wf
  | .vLog2 _ f => f.wf
  | .vRcp _ f => f.wf
  | .vRsqrt _ f => f.wf
  | .vTanh _ f => f.wf
  | .vSigm _ f => f.wf
  | .vPerm _ f => f.wf
  | .vTrans _ f => f.wf
  | .vAct _ f => f.wf
  | .vDact _ f => f.wf
  | .vTld _ f => f.wf
  | .vTst _ f => f.wf
  | .vCld _ f => f.wf
  | .vCst _ f => f.wf
  | .vGather _ f => f.wf
  | .vRed _ f => f.wf
  | .vRget _ f => f.wf
  | .vRclr _ f => f.wf
  | .vPass _ f => f.wf
  | .stream c => c.wf
  | .streamClosed _ => true
  | .barge _ bytes => decide (bytes.length < 2 ^ 32)
  | .rewindTimeout _ => true
  | .haltAck _ str offset => decide (str < 1024) && decide (offset < 2 ^ 64)
  | .ingAckLate _ => true
  | .adapterInfo _ ddrGib flashGib _ => decide (ddrGib ≤ 4096) && decide (flashGib < 2 ^ 32)
  | .decode c => c.wf
  | .decodeSpanReady c _ => c.wf
  | .decStarved c => c.wf
  | .decodeComplete c => c.wf
  | .conditionSample _ _ => true
  | .sampleLand _ => true
  | .feed c => c.wf
  | .feedWindowReady c => c.wf
  | .allreduce c => c.wf
  | .agree h ch recs => h.wf && h.mtype == 0x01 && ch.wf && decide (recs.length = ch.nblk) && recs.all AgreeRec.wf
  | .partialSum h ch blocks => h.wf && h.mtype == 0x02 && ch.wf && decide (blocks.length = ch.nblk) && blocks.all GrBlock.wf
  | .result h ch blocks => h.wf && h.mtype == 0x03 && ch.wf && decide (blocks.length = ch.nblk) && blocks.all GrBlock.wf
  | .signs h ch sg => h.wf && h.mtype == 0x04 && ch.wf && decide (sg.length = ch.nblk)
  | .commit c => c.wf
  | .tokenReady _ m => m.wf
  | .tokenCommit _ m => m.wf
  | .stepAbort _ m => m.wf
  | .colWatchdog _ => true
  | .snapshot c => c.wf
  | .restore c => c.wf
  | .ledger c => c.wf
  | .digest c => c.wf
  | .ledgerEnable _ => true
  | .regRd _ tag addr len => txnWf tag addr && decide (len < 2 ^ 16)
  | .regWr _ tag addr len _ => txnWf tag addr && decide (len < 2 ^ 16)
  | .dmaWr _ tag addr data => txnWf tag addr && decide (data.length < 2 ^ 32)
  | .dmaRd _ tag addr len => txnWf tag addr && decide (len < 2 ^ 32)
  | .doorbell _ tag code index _ => decide (tag < 2 ^ 12) && decide (code < 256) && decide (index < 2 ^ 32)
  | .badTxn _ vc h => decide (vc < 8) && decide (h.ttype < 256) && txnWf h.tag h.addr && decide (h.len < 2 ^ 32)
  | .t2Cpl _ tag status _ _ => decide (tag < 2 ^ 12) && decide (status < 256)
  | .snapCpl _ tag status _ => decide (tag < 2 ^ 12) && decide (status < 256)
  | .dataFlit _ f => f.wf
  | .idleFlit _ f => f.wf
  | .nak _ f => f.wf
  | .nakRepeat _ => true
  | .replay _ => true
  | .retrainReq _ first rest => first.wf && rest.all Flit.wf
  | .failRx _ first second third => first.wf && second.wf && third.wf
  | .lnkFailCmdWrite _ => true
  | .laneFail port lanes => decide (lanes.length = portLanes port) && lanes.all LaneMeas.wf
  | .detect port lanes => decide (lanes < 2 ^ portLanes port)
  | .identify _ rec => rec.wf
  | .identifyTimeout _ => true
  | .equalise _ => true
  | .verify port passing => decide (passing < 2 ^ portLanes port)
  | .align _ => true
  | .retrainTimeout _ => true
  | .lossOfSignal _ => true
  | .holdoffExpiry _ => true
  | .linkRetrain _ => true
  | .linkEnableWrite _ _ => true
  | .messageForward h vc flits => h.wf && decide (vc < 32) && flits.all (fun f => decide (f.length = 244))
  | .deadNotice _ m => decide (m.hops < 256) && m.coord.wf && decide (m.boot < 2 ^ 16) && decide (m.serial < 2 ^ 64)
  | .perRemapLWrite _ _ => true
  | .perRemapPWrite _ _ => true
  | .perDeadRemove _ => true
  | .perGrpWrite _ _ _ _ => true
  | .tierPeerRead h tag addr len => h.wf && h.mtype == 0x20 && decide (tag < 2 ^ 32) && decide (addr < 2 ^ 64) && decide (len < 2 ^ 32)
  | .tierPeerData h tag status _ => h.wf && h.mtype == 0x21 && decide (tag < 2 ^ 32) && decide (status < 256)
  | .protect h r offset _ data => msgWf 0x10 h r && decide (offset < 2 ^ 64) && pieceWf data.length
  | .protectAck h r bytes _ => msgWf 0x11 h r && decide (bytes < 2 ^ 64)
  | .digestMsg h r _ => msgWf 0x12 h r
  | .hello h r kind fd _ => msgWf 0x13 h r && decide (kind < 256) && decide (fd < 16)
  | .rcvPairingWrite _ _ _ => true
  | .rcvGo _ _ => true
  | .census h r _ ward recs => msgWf 0x14 h r && ward.wf && decide (recs.length < 256) && recs.all CensusRec.wf
  | .censusTimeout _ => true
  | .plan h r rstep epoch _ _ acts => msgWf 0x15 h r && decide (rstep < 2 ^ 32) && decide (epoch < 2 ^ 32) && decide (acts.length < 2 ^ 16) && acts.all PlanAct.wf
  | .fetch h r source bytes offset => msgWf 0x16 h r && decide (source < 256) && pieceWf bytes && decide (offset < 2 ^ 64)
  | .fetchData h r offset status data => msgWf 0x17 h r && decide (offset < 2 ^ 64) && decide (status < 256) && pieceWf data.length
  | .done h r prot action => msgWf 0x18 h r && decide (prot < 2 ^ 32) && decide (action < 256)
  | .resume h r rstep epoch => msgWf 0x19 h r && decide (rstep < 2 ^ 32) && decide (epoch < 2 ^ 32)
  | .budgetEpochEnd m => m.wf
  | .avsRound _ rails => rails.all (fun x => decide (x.vstep < 32))
  | .railCurrentRead current => decide (current.length = 9)
  | .pmbusAlert => true
  | .pmbusAlertRelease => true
  | .pwrFail => true
  | .pwrFailRelease => true
  | .thermtrip _ => true
  | .pwrUv _ _ => true
  | .dieTempSample temps => decide (temps.length = 8)
  | .coolantReport _ _ => true
  | .coolantStale => true
  | .hbmTempSample _ _ => true
  | .regulatorWindow _ => true
  | .refresh _ bank _ => decide (bank.pseudo < 64) && decide (bank.bank < 64)
  | .calibration _ _ => true
  | .scrub _ hits _ => hits.all (fun x => hbmAddr x.addr && decide (1 ≤ x.symbols) && decide (x.symbols ≤ 36))
  | .hbmMarginStart _ _ => true
  | .evrFlushTimer => true
  | .evrFlush => true
  | .evrAdvance _ => true
  | .evrAnchor _ _ => true
  | .evrClear _ _ => true
  | .chkScan _ => true
  | .chkAppend _ => true
  | .chkCheckStrip _ => true
  | .chkDone _ => true
  | .secStage _ _ => true
  | .stageDone => true
  | .settingsSave => true
  | .secSvnCommit _ _ => true
  | .attestGo _ => true
  | .reportSigned => true
  | .i3cSetAddress _ => true
  | .i3cWrite _ _ => true
  | .i3cRead _ => true
  | .glbRefclkLoss _ => true
  | .glbJtagTakeover code => decide (code < 256)
  | .porstNAssert => true
  | .hbmMarginSweepEnd results => results.all (fun x => decide (x.1 < 2 ^ 16) && decide (x.2 < 2 ^ 16))
  | .entdaa _ => true

end Sys2Proof
end

