-- ==== Sys2Proof/Safety.lean ====
section
/-! DEFINITION. What counts as a safe run of the block, in the terms the claims use: the canonical forms that make equal
contents equal data, and a step that stops nowhere. -/

namespace Sys2Proof.Safety

open Sys2Proof.Machine

/-- The register file is in canonical form: in each of its lists the keys rise, so that no register has two entries. -/
def RegCanonical (f : RegFile) : Prop :=
  Sparse.sorted f.main = true ∧ Sparse.sorted f.copy2 = true ∧ Sparse.sorted f.copy3 = true ∧ Sparse.sorted f.shadow = true
    ∧ Sparse.sorted f.staged = true

/-- Device memory is in canonical form: addresses rise and no entry equals what an unlisted byte reads as. -/
def MemCanonical (s : State) : Prop := s.mem.wf = true

/-- A step that answers a next state: neither a fault nor a refusal. -/
def StepsOn (s : State) : Prop := ∃ t, step s = .next t

/-- The operation of a command has ended with a status: 0 is success. -/
def CmdEnded (t : State) (c : CmdRef) (st : Nat) : Prop :=
  ∃ d, t.cmdAt c.part.val c.queue.val c.slot = some d ∧ d.finished = true ∧ d.fail = st

/-- What a vector instruction that reads and writes its engine alone leaves alone: everything but that engine and its count of executed
instructions, which rises by one. -/
structure EngineStep (s t : State) (e : Quad) : Prop where
  rest : t = { s with rf := t.rf, vec := t.vec }
  others : ∀ d, d ≠ e → t.eng d = s.eng d
  count : t.rd64 .VEC_Vn_INSTR_LO .VEC_Vn_INSTR_HI e.val = (s.rd64 .VEC_Vn_INSTR_LO .VEC_Vn_INSTR_HI e.val + 1) % 2 ^ 64
  regs : ∀ r i a, regKey r i a ≠ regKey .VEC_Vn_INSTR_LO e.val 0 → regKey r i a ≠ regKey .VEC_Vn_INSTR_HI e.val 0 →
    t.rd r i a = s.rd r i a

/-- The tile register DST of an engine after an instruction: present lanes on which it acts hold its values, other present lanes zero or
what they held, absent lanes zero (R242, R249); no other tile register, mask or accumulator of the engine changes. What it wrote holds no parity
error any more, and none arises (R250). -/
structure Lanes (s t : State) (e : Quad) (f : VFields) (v : Nat → Word) : Prop where
  dst : ∀ l, (t.eng e).lane f.dst l = if (s.eng e).isPresent l then
    (if (s.eng e).acts f l then v l else if f.mz then 0 else (s.eng e).lane f.dst l) else 0
  tiles : ∀ r l, r ≠ f.dst → (t.eng e).lane r l = (s.eng e).lane r l
  engine : t.eng e = { s.eng e with tr := (t.eng e).tr, bad := (t.eng e).bad }
  clean : ∀ b ∈ (t.eng e).bad, b ∈ (s.eng e).bad ∧ ¬ (b.1 = 0 ∧ b.2.1 = f.dst ∧ (s.eng e).acts f b.2.2 = true)

/-- The mask register DST of an engine after an instruction (R249); M0 always reads as the present lanes (R240). Parity errors as for lanes (R250). -/
structure Masks (s t : State) (e : Quad) (f : VFields) (v : Nat → Bool) : Prop where
  dst : f.dst % 8 ≠ 0 → ∀ l, ((t.eng e).maskReg (f.dst % 8)).contains l = ((s.eng e).isPresent l &&
    if (s.eng e).acts f l then v l else !f.mz && ((s.eng e).maskReg (f.dst % 8)).contains l)
  masks : ∀ m, m ≠ f.dst % 8 → (t.eng e).maskReg m = (s.eng e).maskReg m
  engine : t.eng e = { s.eng e with mask := (t.eng e).mask, bad := (t.eng e).bad }
  clean : ∀ b ∈ (t.eng e).bad, b ∈ (s.eng e).bad ∧ ¬ (b.1 = 1 ∧ b.2.1 = f.dst % 8 ∧ (s.eng e).acts f b.2.2 = true)

end Sys2Proof.Safety
end

