-- ==== Sys2Proof/Certificates/Slice0/Obligations.lean ====
section
/-! DEFINITION. The statements for the provers: `def Obligations.<Name> : Prop`, each with the rules it formalises in its docstring. -/

open Sys2Proof Sys2Proof.Machine Sys2Proof.Safety

/-! ## The block -/

/-- First in, first out: a step of a state whose queue has `c` at its front is `c` executed on the state with the queue's rest. The queue
of commands is the model's own. -/
def Obligations.StepRunsFront : Prop :=
  ∀ (c : Instr) (rest : List Instr) (s : State), s.pending = c :: rest → step s = exec c { s with pending := rest }

/-- On an empty queue a step changes nothing. That the block idles is the model's own choice (log 8). -/
def Obligations.StepIdles : Prop := ∀ s : State, s.pending = [] → step s = .next s

/-- Every command has an effect in every state: none ends in a fault or a refusal. -/
def Obligations.EveryCommandAnswers : Prop := ∀ (c : Instr) (s : State), ∃ t, exec c s = .next t

/-- From every state whose memory and register file are in canonical form, whatever command is at the front of the queue, a step leads to
such a state: no byte of memory and no register ever has two entries, so equal contents stay equal data. -/
def Obligations.StepKeepsCanonical : Prop :=
  ∀ s t : State, MemCanonical s → RegCanonical s.rf → step s = .next t → MemCanonical t ∧ RegCanonical t.rf

/-- Memory and the register file are in canonical form after reset. -/
def Obligations.ResetCanonical : Prop := MemCanonical State.reset ∧ RegCanonical State.reset.rf

/-- Commands come from outside: what the block does adds none to its queue, removes none and reorders none. -/
def Obligations.ExecKeepsPending : Prop := ∀ (c : Instr) (s t : State), exec c s = .next t → t.pending = s.pending

/-! ## Energy, power and heat -/

/-- RAIL_CURRENT_READ reports the current read of each of the nine rails, and changes no other register and no memory. An AVS_ROUND of the
rails' own bus, once a bring-up phase after ROM runs, reports the V-step read back of a rail that answered and writes it one V-step toward its
target, at 550 mV + 20 mV per V-step, where it is not there; a rail at its target is not written. A rail that did not answer keeps its V-step,
is not written, and sets AVS_ERR. During the ROM phase a round changes nothing. -/
def Obligations.RailsReadAndMoved : Prop :=
  (∀ (cur : List Nat) (s : State), (∀ x ∈ cur, x < 2 ^ 16) → ∃ t, exec (.railCurrentRead cur) s = .next t ∧
    (∀ r < 9, t.fget Fld.PWR_RAILr_CURRENT r = cur.getD r 0) ∧ t.mem = s.mem ∧ KeepsRegs s t (· == .PWR_RAILr)) ∧
  (∀ (bus : Fin 2) (r : Fin 9) (v : Nat) (s : State), s.bootState ≠ 0 → busRail bus r = true → v < 16 →
    ∃ t, exec (.avsRound bus [{ rail := r, answered := true, vstep := v }]) s = .next t ∧
      t.fget Fld.PWR_RAILr_VSTEP r.val = v ∧ vget t.pwr.avsBad r = false ∧ t.mem = s.mem ∧ KeepsRegs s t (· == .PWR_RAILr) ∧
      (s.railTarget r < v → t.out = s.out ++ [.avsWrite r.val (550 + 20 * (v - 1))]) ∧
      (v < s.railTarget r → t.out = s.out ++ [.avsWrite r.val (550 + 20 * (v + 1))]) ∧
      (v = s.railTarget r → t.out = s.out)) ∧
  (∀ (bus : Fin 2) (r : Fin 9) (v : Nat) (s : State), s.bootState ≠ 0 → busRail bus r = true →
    ∃ t, exec (.avsRound bus [{ rail := r, answered := false, vstep := v }]) s = .next t ∧
      t.fget Fld.PWR_STATUS_AVS_ERR = 1 ∧ vget t.pwr.avsBad r = true ∧ t.pwr.written = s.pwr.written ∧ t.mem = s.mem ∧
      KeepsRegs s t (· == .PWR_STATUS)) ∧
  (∀ (bus : Fin 2) (rails : List AvsRail) (s : State), s.bootState = 0 → exec (.avsRound bus rails) s = .next s)

/-- A reading of a stack is reported, its PEAK is the higher of the old and the new, its state moves by the thresholds 88, 95 and 100 °C; a
reading of the quadrants is kept for each, and each quadrant's state moves by 95, 102 and 110 °C. No byte of memory changes. A stack that becomes
critical, or a quadrant below critical that reads 110 °C or more, ends in FAILED, with no command left, every stack in self-refresh and warm reset
held off. -/
def Obligations.ThermalSamples : Prop :=
  (∀ (n : Quad) (d : Nat) (s : State), d < 256 → s.fget Fld.HBM_STACKn_TEMP_PEAK n.val < 256 → ∃ t, exec (.hbmTempSample n d) s = .next t ∧
    t.fget Fld.HBM_STACKn_TEMP_TEMP n.val = d ∧ t.fget Fld.HBM_STACKn_TEMP_PEAK n.val = max d (s.fget Fld.HBM_STACKn_TEMP_PEAK n.val) ∧
    t.fget Fld.HBM_STACKn_TEMP_STATE n.val = thermState 88 95 100 (s.fget Fld.HBM_STACKn_TEMP_STATE n.val) d ∧ KeepsMem s t ∧
    (s.fget Fld.HBM_STACKn_TEMP_STATE n.val < 3 → 100 ≤ d →
      t.bootState = 0xA ∧ t.queues = [] ∧ t.pwr.critHold = true ∧ ∀ m, (vget t.hbm m).selfRef = true)) ∧
  (∀ (d : List Nat) (s : State), ∃ t, exec (.dieTempSample d) s = .next t ∧ (∀ n : Quad, vget t.pwr.quadTemp n = d.getD n.val 0) ∧
    (∀ n : Quad, t.quadState n.val = thermState 95 102 110 (s.quadState n.val) (d.getD n.val 0)) ∧ KeepsMem s t ∧
    ((∃ n : Quad, s.quadState n.val < 3 ∧ 110 ≤ d.getD n.val 0) →
      t.bootState = 0xA ∧ t.queues = [] ∧ t.pwr.critDie = true ∧ ∀ m, (vget t.hbm m).selfRef = true))

/-- With PORST_N high, PWR_FAIL holds every port down, no command starts afterwards, every array rail's target is V-step 0, FAULT_N asserts, and the
event buffer is due to be flushed; with PORST_N low only the pin moves. PWR_UV and THERMTRIP are FATAL: FAULT_N asserts, every port is held down,
and the event is recorded where the buffer has room; THERMTRIP also asserts THERMTRIP_N and makes a flush due. None of them changes memory. -/
def Obligations.PowerFailures : Prop :=
  (∀ s : State, s.pins.porstN = true → ∃ t, exec .pwrFail s = .next t ∧ t.pwr.powerFail = true ∧ t.pins.pwrFailN = false ∧
    t.pins.faultN = false ∧ t.evr.flushDue = true ∧ (∀ p q, t.qStarts p q = false) ∧ t.mem = s.mem ∧
    (∀ r : Fin 9, r.val < 8 → t.railTarget r = 0) ∧ (∀ p : PortId, (vget t.ports p).heldFail ≠ 0)) ∧
  (∀ s : State, s.pins.porstN = false → exec .pwrFail s = .next { s with pins := { s.pins with pwrFailN := false } }) ∧
  (∀ (r : Fin 9) (mv : Nat) (s : State), ∃ t, exec (.pwrUv r mv) s = .next t ∧ t.pins.faultN = false ∧ QuietFail s t ∧
    (∀ p : PortId, (vget t.ports p).heldFail ≠ 0) ∧
    (evRoom s.evr.buf.length 3 = true → Recorded t { code := 0x0C0A, cls := 0x0D, inst := 0, sev := 3, p1 := r.val, p2 := mv })) ∧
  (∀ (q : Quad) (s : State), ∃ t, exec (.thermtrip q) s = .next t ∧ t.pins.thermtripN = false ∧ t.pins.faultN = false ∧
    t.evr.flushDue = true ∧ QuietFail s t ∧ (∀ p : PortId, (vget t.ports p).heldFail ≠ 0) ∧
    (evRoom s.evr.buf.length 3 = true → Recorded t { code := 0x0C08, cls := 0x0D, inst := 0, sev := 3, p1 := q.val }))

/-- PMBUS_ALERT sets the alert target of every array rail four V-steps below the V-step in force, but not below 0, and sets ALERT; its release
starts the count of epochs after which the targets rise. Neither changes memory. -/
def Obligations.PmbusAlert : Prop :=
  (∀ s : State, ∃ t, exec .pmbusAlert s = .next t ∧ (∀ n : Quad, vget t.pwr.alertT n = s.vstep n.val - 4) ∧
    t.pins.alertN = false ∧ t.pwr.alertLow = true ∧ t.fget Fld.PWR_STATUS_ALERT = 1 ∧ t.mem = s.mem ∧
    KeepsRegs s t (fun r => r == .PWR_RAILr || r == .PWR_STATUS)) ∧
  (∀ s : State, ∃ t, exec .pmbusAlertRelease s = .next t ∧ t.pins.alertN = true ∧ t.pwr.alertLow = false ∧ t.pwr.alertWait = 0 ∧
    t.rf = s.rf ∧ t.mem = s.mem)

/-- A report by P0 or the management core is held in PWR_COOLANT and ends the staleness. With COOL_CHECK on, an inlet above 40.0 °C or a flow below
2.40 L/min applies the cooling limit and sets COOLING; so does the lack of a report for 5 s. Another partition's report only sets ACCESS_ERR. -/
def Obligations.Cooling : Prop :=
  (∀ (r : Requester) (v : Word) (s : State), r = .mgc ∨ r = .part 0 → ∃ t, exec (.coolantReport r v) s = .next t ∧ t.pwr.coolStale = false ∧
    t.fget Fld.PWR_COOLANT_INLET = wGet v Fld.PWR_COOLANT_INLET.hi Fld.PWR_COOLANT_INLET.lo ∧
    t.fget Fld.PWR_COOLANT_FLOW = wGet v Fld.PWR_COOLANT_FLOW.hi Fld.PWR_COOLANT_FLOW.lo ∧ t.mem = s.mem ∧
    t.pwr.coolBad = (decide (400 < t.fget Fld.PWR_COOLANT_INLET) || decide (t.fget Fld.PWR_COOLANT_FLOW < 240)) ∧
    (t.pwr.coolBad = true → t.fbit Fld.PWR_CFG_COOL_CHECK = true → t.pwr.coolLimit = true ∧ t.fget Fld.PWR_STATUS_COOLING = 1)) ∧
  (∀ (q : Part) (v : Word) (s : State), q.val ≠ 0 → exec (.coolantReport (.part q) v) s = .next (s.accessErr q.val)) ∧
  (∀ s : State, ∃ t, exec .coolantStale s = .next t ∧ t.pwr.coolStale = true ∧ t.mem = s.mem ∧ KeepsRegs s t (· == .PWR_STATUS) ∧
    (s.fbit Fld.PWR_CFG_COOL_CHECK = true → t.pwr.coolLimit = true ∧ t.fget Fld.PWR_STATUS_COOLING = 1) ∧
    (s.fbit Fld.PWR_CFG_COOL_CHECK = false → t.rf = s.rf ∧ t.pwr.coolLimit = s.pwr.coolLimit))

/-- At the end of a budget epoch the epoch number rises by one, each partition's shortfall is repaid by at most half its allowance, and its
balance gains the allowance less its idle energy and the repayment, up to BURST; a partition reset in progress completes (log 70). No byte of memory
changes by this. Host requests that waited for the epoch's work follow; with none waiting that is all. -/
def Obligations.BudgetEpoch : Prop :=
  ∀ (m : EpochMeas) (s : State), ∃ u : State, exec (.budgetEpochEnd m) s = .next u.drainHost ∧ (u.eut.waiting = [] → u.drainHost = u) ∧
    u.eut.waiting = s.eut.waiting ∧
    u.fget Fld.PWR_EPOCH_EPOCH = (s.fget Fld.PWR_EPOCH_EPOCH + 1) % 2 ^ (Fld.PWR_EPOCH_EPOCH.hi + 1 - Fld.PWR_EPOCH_EPOCH.lo) ∧
    u.boot.resetting = none ∧ (s.boot.resetting.isSome = true → u.fget Fld.EUT_PART_RESET_BUSY = 0) ∧ KeepsMem s u ∧
    ∀ p : Part, let r := min (vget s.pwr.short p) (s.allowW p.val * 500)
      vget u.pwr.short p = vget s.pwr.short p - r ∧
      vget u.pwr.bal p = min (s.burst p.val : Int) (vget s.pwr.bal p + s.allowW p.val * 1000 - m.partIdle.getD p.val 0 - r)

/-! ## Upkeep of the stacks -/

/-- REGULATOR_WINDOW restarts the byte counts of a stack, after which host requests that waited for it follow. REFRESH issues a bank's refresh, so
that none of it stays postponed; behind foreground traffic it is postponed once more, and at the limit it is issued all the same. CALIBRATION sets CAL_PREEMPT. A SCRUB whose
words in error have at most two symbols in error leaves no error that it saw behind, and sets SCRUB_LATE where it overran; no byte of memory changes.
HBM_MARGIN_START by P0 or the management core, before READY was ever reached, starts the sweep of the stack it names, whose bytes then read as
unwritten memory while every other byte stays; after READY it starts none. HBM_MARGIN_SWEEP_END ends it and reports the results. -/
def Obligations.StackUpkeep : Prop :=
  (∀ (n : Quad) (s : State), ∃ u : State, exec (.regulatorWindow n) s = .next u.drainHost ∧ (u.eut.waiting = [] → u.drainHost = u) ∧
    (vget u.hbm n).grants = Vector.replicate 5 0 ∧ (∀ m, m ≠ n → vget u.hbm m = vget s.hbm m) ∧ u = { s with hbm := u.hbm }) ∧
  (∀ (n : Quad) (b : BankPlace) (s : State), ∃ t, exec (.refresh n b false) s = .next t ∧
    Sparse.find (vget t.hbm n).postponed (b.pseudo * 64 + b.bank) = none ∧ t.rf = s.rf ∧ t.mem = s.mem) ∧
  (∀ (n : Quad) (b : BankPlace) (s : State), ∃ t, exec (.refresh n b true) s = .next t ∧ t.rf = s.rf ∧ t.mem = s.mem ∧
    let k := Sparse.get 0 (vget s.hbm n).postponed (b.pseudo * 64 + b.bank)
    Sparse.get 0 (vget t.hbm n).postponed (b.pseudo * 64 + b.bank) = if k < Config.refreshPostpone then k + 1 else 0) ∧
  (∀ (n : Quad) (d : Fin 4) (s : State), ∃ t, exec (.calibration n d) s = .next t ∧
    t.fget Fld.HBM_STACKn_STATUS_CAL_PREEMPT n.val = 1 ∧ t.mem = s.mem ∧ KeepsRegs s t (· == .HBM_STACKn_STATUS)) ∧
  (∀ (n : Quad) (hits : List ScrubHit) (late : Bool) (s : State), (∀ h ∈ hits, h.symbols < 3) →
    ∃ t, exec (.scrub n hits late) s = .next t ∧ (late = true → t.fget Fld.HBM_STACKn_STATUS_SCRUB_LATE n.val = 1) ∧ KeepsMem s t ∧
    KeepsRegs s t (fun r => r == .HBM_STACKn_STATUS || r == .HBM_STACKn_RETIRED) ∧
    ((∀ h ∈ hits, h.seen = true) → ∀ w, isHbm (w * 64) = true → stackOf (w * 64) = n → Sparse.find t.mem.errs w = none)) ∧
  (∀ (r : Requester) (v : Word) (s : State), r = .mgc ∨ r = .part 0 → s.boot.wasReady = false → wGet v 0 0 = 1 →
    ∃ t, exec (.hbmMarginStart r v) s = .next t ∧ t.fget Fld.HBM_MARGIN_CTRL_START = 1 ∧
    ∀ a, t.cell a = if hbmBase + t.fget Fld.HBM_MARGIN_CTRL_STACK * 0x2000000000 ≤ a ∧
      a < hbmBase + t.fget Fld.HBM_MARGIN_CTRL_STACK * 0x2000000000 + 0x2000000000 then memDefault else s.cell a) ∧
  (∀ (r : Requester) (v : Word) (s : State), r = .mgc ∨ r = .part 0 → s.boot.wasReady = true →
    ∃ t, exec (.hbmMarginStart r v) s = .next t ∧ t.fget Fld.HBM_MARGIN_CTRL_START = 0 ∧ t.mem = s.mem) ∧
  (∀ (q : Part) (v : Word) (s : State), q.val ≠ 0 → exec (.hbmMarginStart (.part q) v) s = .next (s.accessErr q.val)) ∧
  (∀ (res : List (Nat × Nat)) (s : State), s.fbit Fld.HBM_MARGIN_CTRL_START = true → (∀ x ∈ res, x.1 < 256 ∧ x.2 < 256) →
    ∃ t, exec (.hbmMarginSweepEnd res) s = .next t ∧ t.fget Fld.HBM_MARGIN_CTRL_START = 0 ∧ t.mem = s.mem ∧
    ∀ k < 32, (t.rd .HBM_MARGIN_RESk k).toNat = (res.getD k (0, 0)).1 + (res.getD k (0, 0)).2 * 256)

/-! ## Event recorder and check-value units -/

/-- EVR_FLUSH_TIMER makes a flush due where a record waits, and changes nothing where none does. A flush that is due, with PORST_N high, empties the
buffer and changes no memory byte. Without a drop episode no register but EVR_LOW changes, and while the ring need not erase a sector every record
that waited or stood in the ring stands in the ring; a drop episode ends with EVR_LOST, which names the dropped records and stands in the ring too.
EVR_ADVANCE of a view copies the lowest readable record at or above its cursor and EVR_LOW into the data registers, sets FOUND and moves the cursor
past it; with no such record it clears FOUND and changes no other register. -/
def Obligations.RecorderFlushAndRead : Prop :=
  (∀ s : State, s.evr.buf ≠ [] → ∃ t, exec .evrFlushTimer s = .next t ∧ t.evr.flushDue = true ∧ t.evr.buf = s.evr.buf ∧ t.rf = s.rf ∧
    t.mem = s.mem) ∧
  (∀ s : State, s.evr.buf = [] → exec .evrFlushTimer s = .next s) ∧
  (∀ s : State, s.evr.flushDue = true → s.pins.porstN = true → ∃ t, exec .evrFlush s = .next t ∧ t.evr.buf = [] ∧
    t.evr.flushDue = false ∧ t.mem = s.mem ∧
    (s.evr.episode = false → (∀ r i a, r ≠ .EVR_LOW_LO → r ≠ .EVR_LOW_HI → t.rd r i a = s.rd r i a) ∧
      (s.flash.ring.length + s.evr.buf.length ≤ ringPages → ∀ r ∈ s.readable, ∃ pg ∈ t.flash.ring, r ∈ pg.recs)) ∧
    (s.evr.episode = true → t.evr.episode = false ∧
      ∃ pg ∈ t.flash.ring, ∃ r ∈ pg.recs, r.code = 0x0E03 ∧ r.p1 = s.evr.dropped % 2 ^ 64)) ∧
  (∀ (v : View) (s : State) (r : EvRec),
    s.readable.find? (fun r => s.rd64 .EVR_CUR_LO .EVR_CUR_HI 0 (viewIdx v) ≤ r.num && s.rd64 .EVR_LOW_LO .EVR_LOW_HI ≤ r.num
      && (viewIdx v == 4 || r.part == viewIdx v)) = some r → r.num + 1 < 2 ^ 64 →
    ∃ t, exec (.evrAdvance v) s = .next t ∧ t.fget Fld.EVR_RD_CTRL_FOUND 0 (viewIdx v) = 1 ∧
      t.rd64 .EVR_CUR_LO .EVR_CUR_HI 0 (viewIdx v) = r.num + 1 ∧
      (∀ w < 8, t.rd .EVR_RD_DATAw w (viewIdx v) = BitVec.ofNat 32 (fieldAt r.bytes (4 * w) 4)) ∧ t.mem = s.mem ∧ t.evr = s.evr) ∧
  (∀ (v : View) (s : State),
    s.readable.find? (fun r => s.rd64 .EVR_CUR_LO .EVR_CUR_HI 0 (viewIdx v) ≤ r.num && s.rd64 .EVR_LOW_LO .EVR_LOW_HI ≤ r.num
      && (viewIdx v == 4 || r.part == viewIdx v)) = none →
    ∃ t, exec (.evrAdvance v) s = .next t ∧ t.fget Fld.EVR_RD_CTRL_FOUND 0 (viewIdx v) = 0 ∧
      OnlyRegs s t [regKey .EVR_RD_CTRL 0 (viewIdx v)])

/-- A write of EVR_ANCHOR_HI of partition p stores the staged or held low word and the high word, and records EVR_ANCHOR with the value where the
buffer has room. EVR_CLEAR by P0 or the management core with the current boot count raises EVR_LOW to the value of EVR_CLEAR, at most EVR_NEXT, and
never lowers it, and sets CLEARED; with another boot count, or by another partition, it only sets ACCESS_ERR; without CLEAR it does nothing. -/
def Obligations.RecorderAnchorAndClear : Prop :=
  (∀ (p : Part) (hi : Word) (s : State), ∃ t, exec (.evrAnchor p hi) s = .next t ∧
    t.rd .EVR_ANCHOR_HI 0 p.val = hi ∧ t.rd .EVR_ANCHOR_LO 0 p.val = s.stagedOr p.val .EVR_ANCHOR_LO 0 p.val ∧ t.mem = s.mem ∧
    KeepsRegs s t (fun r => r == .EVR_ANCHOR_LO || r == .EVR_ANCHOR_HI) ∧
    (evRoom s.evr.buf.length 0 = true → Recorded t { code := 0x0E01, cls := 0x0C, inst := 0, sev := 0, part := p.val, host := true
                                                     p1 := (s.stagedOr p.val .EVR_ANCHOR_LO 0 p.val).toNat + 2 ^ 32 * hi.toNat })) ∧
  (∀ (r : Requester) (v : Word) (s : State), r = .mgc ∨ r = .part 0 → wGet v 16 16 = 1 → wGet v 15 0 = s.fget Fld.GLB_BOOT_BOOT_COUNT →
    ∃ t, exec (.evrClear r v) s = .next t ∧ t.mem = s.mem ∧ t.fget Fld.EVR_STATUS_CLEARED = 1 ∧
    t.rd64 .EVR_LOW_LO .EVR_LOW_HI = max (s.rd64 .EVR_LOW_LO .EVR_LOW_HI) (min (s.rd64 .EVR_CLEAR_LO .EVR_CLEAR_HI) s.evNext)) ∧
  (∀ (r : Requester) (v : Word) (s : State), r = .mgc ∨ r = .part 0 → wGet v 16 16 = 1 → wGet v 15 0 ≠ s.fget Fld.GLB_BOOT_BOOT_COUNT →
    exec (.evrClear r v) s = .next (s.accessErr 4)) ∧
  (∀ (p : Part) (v : Word) (s : State), p.val ≠ 0 → wGet v 16 16 = 1 → exec (.evrClear (.part p) v) s = .next (s.accessErr p.val)) ∧
  (∀ (r : Requester) (v : Word) (s : State), wGet v 16 16 = 0 → exec (.evrClear r v) s = .next s)

/-- A free unit with legal parameters and a readable source: in SCAN mode its RUN becomes the check value of the source continued from RUN, and no
byte of memory changes; APPEND also copies the source to DST and puts the check value after it; CHECK_STRIP copies the bytes without the check
value, and CHK_DONE then sets MISMATCH where the stored value differs. A poisoned source runs too, and CHK_DONE then sets POISON. CHK_DONE clears
BUSY. A START with illegal parameters sets BAD_PARAM and runs nothing; a START of a unit that runs or is held does nothing. -/
def Obligations.CheckValueRuns : Prop :=
  (∀ (u : Fin 4) (s : State), s.chkHeld u.val = false → s.chkLegal u.val = false →
    ∃ t, (s.chkMode u.val = 0 → exec (.chkScan u) s = .next t) ∧ (s.chkMode u.val = 1 → exec (.chkAppend u) s = .next t) ∧
      (s.chkMode u.val = 2 → exec (.chkCheckStrip u) s = .next t) ∧ t.fget Fld.CHK_Uu_STATUS_BAD_PARAM u.val = 1 ∧
      t.fbit Fld.CHK_Uu_CTRL_BUSY u.val = false ∧ t.mem = s.mem ∧ KeepsRegs s t (· == .CHK_Uu_STATUS)) ∧
  (∀ (u : Fin 4) (s : State), s.chkHeld u.val = true →
    exec (.chkScan u) s = .next s ∧ exec (.chkAppend u) s = .next s ∧ exec (.chkCheckStrip u) s = .next s) ∧
  (∀ (u : Fin 4) (s : State), s.chkHeld u.val = false → s.chkLegal u.val = true → s.chkMode u.val = 0 →
    let x := (s.fset Fld.CHK_Uu_CTRL_BUSY 1 u.val).readAs 4 (s.chkSrc u.val) (s.chkLen u.val)
    ∃ t, exec (.chkScan u) s = .next t ∧ t.fbit Fld.CHK_Uu_CTRL_BUSY u.val = true ∧ KeepsMem s t ∧
      (x.1.2 = false → t.chkRun u.val = checkValue (s.chkPoly u.val) (s.chkRun u.val) x.1.1 % 2 ^ 64) ∧
      (x.1.2 = true → (vget t.chk u).poison = true)) ∧
  (∀ (u : Fin 4) (s : State), s.chkHeld u.val = false → s.chkLegal u.val = true → s.chkMode u.val = 1 →
    let x := (s.fset Fld.CHK_Uu_CTRL_BUSY 1 u.val).readAs 4 (s.chkSrc u.val) (s.chkLen u.val)
    let run := checkValue (s.chkPoly u.val) (s.chkRun u.val) x.1.1
    ∃ t, exec (.chkAppend u) s = .next t ∧ t.fbit Fld.CHK_Uu_CTRL_BUSY u.val = true ∧
      (x.1.2 = false → t.cell = ((x.2.wr64 .CHK_Uu_RUN_LO .CHK_Uu_RUN_HI run u.val).writeAs 4 (s.chkDst u.val)
        (x.1.1 ++ checkBytes (s.chkPoly u.val) run)).1.cell) ∧
      (x.1.2 = true → (vget t.chk u).poison = true)) ∧
  (∀ (u : Fin 4) (s : State), s.chkHeld u.val = false → s.chkLegal u.val = true → s.chkMode u.val = 2 →
    let w := checkWidth (s.chkPoly u.val)
    let x := (s.fset Fld.CHK_Uu_CTRL_BUSY 1 u.val).readAs 4 (s.chkSrc u.val) (s.chkLen u.val + w)
    let run := checkValue (s.chkPoly u.val) (s.chkRun u.val) (x.1.1.take (s.chkLen u.val))
    ∃ t, exec (.chkCheckStrip u) s = .next t ∧ t.fbit Fld.CHK_Uu_CTRL_BUSY u.val = true ∧
      (x.1.2 = false →
        t.cell = ((x.2.wr64 .CHK_Uu_RUN_LO .CHK_Uu_RUN_HI run u.val).writeAs 4 (s.chkDst u.val) (x.1.1.take (s.chkLen u.val))).1.cell ∧
        (x.1.1.drop (s.chkLen u.val) ≠ checkBytes (s.chkPoly u.val) run → (vget t.chk u).mismatch = true)) ∧
      (x.1.2 = true → (vget t.chk u).poison = true)) ∧
  (∀ (u : Fin 4) (s : State), s.fbit Fld.CHK_Uu_CTRL_BUSY u.val = true → ∃ t, exec (.chkDone u) s = .next t ∧
    t.fbit Fld.CHK_Uu_CTRL_BUSY u.val = false ∧ t.mem = s.mem ∧
    ((vget s.chk u).mismatch = true → t.fget Fld.CHK_Uu_STATUS_MISMATCH u.val = 1) ∧
    ((vget s.chk u).poison = true → t.fget Fld.CHK_Uu_STATUS_POISON u.val = 1))

/-! ## Link layer -/

/-- On a port in ACTIVE, a good DATA flit that carries the FSEQ expected is delivered to its VC: the next FSEQ is expected, no gap is open, its VC gives
one more credit, its payload joins the message that is open on the VC, and with EOM the message is whole and is handed on. One with another FSEQ, and a
flit whose codeword or CRC failed, is discarded: the FSEQ expected and the open messages stay, and a gap opens; where none was open, a flit that failed
is answered by one NAK that names the FSEQ expected. A good header gives the credit count of its VC, and an ACKSEQ that acknowledges a flit ends the
count of replays. A good IDLE flit delivers nothing. None changes memory. -/
def Obligations.FlitsReceived : Prop :=
  (∀ (p : PortId) (f : Flit) (s : State), s.portActive p.val = true → flitWhole f = true → Flit_kind f = 1 →
    flitReservedOk f = true → Flit_vc f < numVcs p.val → Flit_fseq f = (vget s.ports p).rxExp →
    let msg := (if Flit_som f then [] else Sparse.get [] (vget s.ports p).openMsg (Flit_vc f)) ++ f.payload
    ∃ t, exec (.dataFlit p f) s = .next t ∧ (vget t.ports p).rxExp = ((vget s.ports p).rxExp + 1) % 4096 ∧ (vget t.ports p).gap = false ∧
      Sparse.get 0 (vget t.ports p).credGiven (Flit_vc f) = (Sparse.get 0 (vget s.ports p).credGiven (Flit_vc f) + 1) % 2048 ∧
      Sparse.get 0 (vget t.ports p).credSeen (Flit_crvc f) = Flit_crcnt f ∧
      (Flit_eom f = true → .delivered p (Flit_vc f) msg ∈ t.out ∧ Sparse.find (vget t.ports p).openMsg (Flit_vc f) = none) ∧
      (Flit_eom f = false → Sparse.find (vget t.ports p).openMsg (Flit_vc f) = some msg) ∧ Quiet s t) ∧
  (∀ (p : PortId) (f : Flit) (s : State), s.portActive p.val = true → flitWhole f = true → Flit_kind f = 1 →
    flitReservedOk f = true → Flit_vc f < numVcs p.val → Flit_fseq f ≠ (vget s.ports p).rxExp →
    ∃ t, exec (.dataFlit p f) s = .next t ∧ (vget t.ports p).rxExp = (vget s.ports p).rxExp ∧ (vget t.ports p).gap = true ∧
      (vget t.ports p).openMsg = (vget s.ports p).openMsg ∧ Quiet s t) ∧
  (∀ (p : PortId) (f : Flit) (s : State), s.portActive p.val = true → flitWhole f = false →
    ∃ t, exec (.dataFlit p f) s = .next t ∧ (vget t.ports p).gap = true ∧
      (vget t.ports p).rxExp = (vget s.ports p).rxExp ∧ (vget t.ports p).openMsg = (vget s.ports p).openMsg ∧
      ((vget s.ports p).gap = false →
        ∃ g, t.out = s.out ++ [.flit p g] ∧ g.payload = padTo 244 (1 :: leBytes 2 (vget s.ports p).rxExp)) ∧
      t.mem = s.mem ∧ KeepsRegs s t (· == .LNK_Pp_ERR)) ∧
  (∀ (p : PortId) (f : Flit) (s : State), s.portActive p.val = true → flitWhole f = true → Flit_kind f = 0 →
    flitReservedOk f = true → ∃ t, exec (.idleFlit p f) s = .next t ∧
      Sparse.get 0 (vget t.ports p).credSeen (Flit_crvc f) = Flit_crcnt f ∧ (vget t.ports p).rxExp = (vget s.ports p).rxExp ∧
      ((vget s.ports p).retry.any (fun e => e.1 == Flit_ackseq f) = true → (vget t.ports p).replays = 0) ∧ Quiet s t)

/-- On a port in ACTIVE, a NAK, once its header is taken, that names an unacknowledged flit, and a REPLAY of a port with an unacknowledged flit, count a
replay, set RETRY and send again from that flit on, the oldest for a REPLAY; where REPLAY_MAX replays in a row brought no acknowledgement forward the
port enters RETRAIN instead, with its retry buffer. An open gap repeats its NAK, one flit. -/
def Obligations.Retries : Prop :=
  (∀ (p : PortId) (f : Flit) (s : State) (e : Nat × TxFlit), s.portActive p.val = true → flitWhole f = true → Flit_kind f = 2 →
    flitReservedOk f = true → fieldAt f.payload 0 1 = 1 →
    (vget (s.ackHeader p f).ports p).retry.find? (fun e => e.1 == fieldAt f.payload 1 2 % 4096) = some e →
    (vget (s.ackHeader p f).ports p).replays < s.fget Fld.LNK_CFG_REPLAY_MAX →
    ∃ t, exec (.nak p f) s = .next t ∧ (vget t.ports p).replays = (vget (s.ackHeader p f).ports p).replays + 1 ∧
      t.fget Fld.LNK_Pp_STATUS_RETRY p.val = 1 ∧ t.mem = s.mem ∧ KeepsRegs s t (· == .LNK_Pp_STATUS) ∧
      ∃ g l, t.out = s.out ++ .flit p g :: l ∧ g.payload = padTo 244 e.2.payload) ∧
  (∀ (p : PortId) (f : Flit) (s : State), s.portActive p.val = true → flitWhole f = true → Flit_kind f = 2 →
    flitReservedOk f = true → fieldAt f.payload 0 1 = 1 →
    (vget (s.ackHeader p f).ports p).retry.any (fun e => e.1 == fieldAt f.payload 1 2 % 4096) = true →
    s.fget Fld.LNK_CFG_REPLAY_MAX ≤ (vget (s.ackHeader p f).ports p).replays → ∃ t, exec (.nak p f) s = .next t ∧ t.portState p.val = 7 ∧
      (vget t.ports p).retry = (vget (s.ackHeader p f).ports p).retry ∧ t.mem = s.mem ∧ KeepsRegs s t (· == .LNK_Pp_STATE)) ∧
  (∀ (p : PortId) (s : State), s.portActive p.val = true → (vget s.ports p).gap = true → ∃ t, exec (.nakRepeat p) s = .next t ∧
    (∃ g, t.out = s.out ++ [.flit p g] ∧ g.payload = padTo 244 (1 :: leBytes 2 (vget s.ports p).rxExp)) ∧ t.rf = s.rf ∧ t.mem = s.mem) ∧
  (∀ (p : PortId) (s : State) (e : Nat × TxFlit), s.portActive p.val = true → (vget s.ports p).retry.head? = some e →
    (vget s.ports p).replays < s.fget Fld.LNK_CFG_REPLAY_MAX → ∃ t, exec (.replay p) s = .next t ∧
      (vget t.ports p).replays = (vget s.ports p).replays + 1 ∧ t.fget Fld.LNK_Pp_STATUS_RETRY p.val = 1 ∧ t.mem = s.mem ∧
      KeepsRegs s t (· == .LNK_Pp_STATUS) ∧ ∃ g l, t.out = s.out ++ .flit p g :: l ∧ g.payload = padTo 244 e.2.payload) ∧
  (∀ (p : PortId) (s : State), s.portActive p.val = true → (vget s.ports p).retry ≠ [] →
    s.fget Fld.LNK_CFG_REPLAY_MAX ≤ (vget s.ports p).replays → ∃ t, exec (.replay p) s = .next t ∧ t.portState p.val = 7 ∧
      (vget t.ports p).retry = (vget s.ports p).retry ∧ t.mem = s.mem ∧ KeepsRegs s t (· == .LNK_Pp_STATE))

/-- On a port in ACTIVE, a RETRAIN_REQ enters RETRAIN at the generation in use with the lanes of its mask as candidates of the far side; further copies act after it. Measurements
that show a failed lane send three RETRAIN_REQ with the mask of the lanes still received cleanly and enter RETRAIN with them, or with every lane in use
where all have lost lock; measurements that show none are reported and leave the port as it is. Software's RETRAIN enters it with every lane of LANE_EN.
The retry buffer (less what a RETRAIN_REQ's header acknowledges), the sequence numbers and the session stay. -/
def Obligations.RetrainEntered : Prop :=
  (∀ (p : PortId) (f : Flit) (s : State), s.portActive p.val = true → flitWhole f = true → Flit_kind f = 2 → flitReservedOk f = true →
    fieldAt f.payload 0 1 = 4 → ∃ t, exec (.retrainReq p f []) s = .next t ∧ t.portState p.val = 7 ∧
    (vget t.ports p).farLanes = fieldAt f.payload 1 1 ∧ (vget t.ports p).gen = s.fget Fld.LNK_Pp_STATE_GEN p.val ∧
    (vget t.ports p).retry = (vget (s.ackHeader p f).ports p).retry ∧ (vget t.ports p).rxExp = (vget s.ports p).rxExp ∧
    (vget t.ports p).txSeq = (vget s.ports p).txSeq ∧ (vget t.ports p).session = (vget s.ports p).session ∧ t.mem = s.mem ∧
    KeepsRegs s t (fun r => r == .LNK_Pp_STATE || r == .LNK_Pp_LANEl)) ∧
  (∀ (p : PortId) (f g : Flit) (rest : List Flit) (s : State), ∃ t, exec (.retrainReq p f []) s = .next t ∧
    exec (.retrainReq p f (g :: rest)) s = exec (.retrainReq p g rest) t) ∧
  (∀ (p : PortId) (ms : List LaneMeas) (s : State), s.portActive p.val = true →
    let use := s.fget Fld.LNK_Pp_STATE_LANES p.val
    let bad := lanesWhere use ms (laneBad (s.fget Fld.LNK_Pp_STATE_GEN p.val) (s.fget Fld.LNK_Pp_CTRL_SER_EXP p.val))
    ∃ t, exec (.laneFail p ms) s = .next t ∧ (vget t.ports p).retry = (vget s.ports p).retry ∧
      (vget t.ports p).rxExp = (vget s.ports p).rxExp ∧ (vget t.ports p).session = (vget s.ports p).session ∧ t.mem = s.mem ∧
      KeepsRegs s t (fun r => r == .LNK_Pp_STATE || r == .LNK_Pp_LANEl || r == .LNK_Pp_FEC_LO || r == .LNK_Pp_FEC_HI) ∧
      (∀ l < 8, bitOf use l = true → ∀ m, ms[l]? = some m → t.fget Fld.LNK_Pp_LANEl_EYE_MV (p.val * 8 + l) = min 255 m.eyeMv) ∧
      (bad = 0 → t.portState p.val = 6 ∧ t.out = s.out) ∧
      (bad ≠ 0 → lanesWhere use ms (fun m => !m.lock) = use → t.portState p.val = 7 ∧ (vget t.ports p).lockLanes = use) ∧
      (bad ≠ 0 → lanesWhere use ms (fun m => !m.lock) ≠ use → t.portState p.val = 7 ∧ (vget t.ports p).lockLanes = use ^^^ bad ∧
        ∃ a b c : Flit, t.out = s.out ++ [.flit p a, .flit p b, .flit p c] ∧ ∀ g ∈ [a, b, c],
          g.payload = padTo 244 [4, BitVec.ofNat 8 (use ^^^ bad), BitVec.ofNat 8 (s.fget Fld.LNK_Pp_STATE_GEN p.val)])) ∧
  (∀ (p : PortId) (s : State), s.portActive p.val = true → ∃ t, exec (.linkRetrain p) s = .next t ∧ t.portState p.val = 7 ∧
    (vget t.ports p).lockLanes = s.laneEn p ∧ (vget t.ports p).retry = (vget s.ports p).retry ∧
    (vget t.ports p).rxExp = (vget s.ports p).rxExp ∧ (vget t.ports p).session = (vget s.ports p).session ∧ t.mem = s.mem ∧
    KeepsRegs s t (· == .LNK_Pp_STATE))

/-- HOLDOFF that has passed takes a port that may train from DOWN to DETECT. Lock on a lane of LANE_EN that the port has takes it to IDENTIFY, and it
sends its identity record. A valid record of the right role takes a port that listens to EQUALISE at the lowest of the two generations and MAX_GEN, and
is reported; one of the wrong role keeps it in IDENTIFY and is recorded once. No record in time takes it back to DETECT, unless a wrong role was seen.
EQUALISE ends in VERIFY. A passing width takes VERIFY to ALIGN on that many lanes; none runs EQUALISE once more, then EQUALISE one generation lower
with GEN_FALLBACK, and at the lowest generation DETECT. -/
def Obligations.TrainingPhases : Prop :=
  (∀ (p : PortId) (s : State), s.portState p.val = 0 → s.mayTrain p = true → ∃ t, exec (.holdoffExpiry p) s = .next t ∧ t.portState p.val = 1 ∧
    OnlyRegs s t [regKey .LNK_Pp_STATE p.val 0]) ∧
  (∀ (p : PortId) (l : Nat) (s : State), s.mayTrain p = true → s.portState p.val = 1 → l &&& s.laneEn p ≠ 0 →
    ∃ t, exec (.detect p l) s = .next t ∧ t.portState p.val = 2 ∧ t.mem = s.mem ∧ KeepsRegs s t (· == .LNK_Pp_STATE) ∧
      (vget t.ports p).lockLanes = l &&& s.laneEn p ∧ t.out = s.out ++ [.identity p (s.identityBytes p)]) ∧
  (∀ (p : PortId) (r : Identity) (s : State), s.listens p = true → r.valid = true → r.version = 1 →
    r.role = (if p.val < 6 then 1 else 3) → r.serial < 2 ^ 64 → ∃ t, exec (.identify p r) s = .next t ∧ t.portState p.val = 3 ∧
      t.rd64 .LNK_Pp_PEER_LO .LNK_Pp_PEER_HI p.val = r.serial ∧
      (vget t.ports p).gen = min (max r.gen 1) (min 3 (s.fget Fld.LNK_Pp_CTRL_MAX_GEN p.val)) ∧ t.mem = s.mem ∧
      KeepsRegs s t (fun q => q == .LNK_Pp_STATE || q == .LNK_Pp_PEER_LO || q == .LNK_Pp_PEER_HI || q == .LNK_Pp_PEER_ID)) ∧
  (∀ (p : PortId) (r : Identity) (s : State), s.listens p = true → r.valid = true → r.version = 1 →
    r.role ≠ (if p.val < 6 then 1 else 3) → ∃ t, exec (.identify p r) s = .next t ∧ t.portState p.val = 2 ∧ (vget t.ports p).roleSaid = true ∧
      t.mem = s.mem ∧ ((vget s.ports p).roleSaid = false → evRoom s.evr.buf.length 2 = true →
        Recorded t { code := 0x0908, cls := 0x0A, inst := p.val, sev := 2, p1 := p.val, p2 := r.role })) ∧
  (∀ (p : PortId) (s : State), s.portState p.val = 2 → (vget s.ports p).roleSaid = false → ∃ t, exec (.identifyTimeout p) s = .next t ∧
    t.portState p.val = 1 ∧ OnlyRegs s t [regKey .LNK_Pp_STATE p.val 0]) ∧
  (∀ (p : PortId) (s : State), s.portState p.val = 2 → (vget s.ports p).roleSaid = true → exec (.identifyTimeout p) s = .next s) ∧
  (∀ (p : PortId) (s : State), s.portState p.val = 3 ∨ s.portState p.val = 7 → ∃ t, exec (.equalise p) s = .next t ∧ t.portState p.val = 4 ∧
    OnlyRegs s t [regKey .LNK_Pp_STATE p.val 0]) ∧
  (∀ (p : PortId) (m w : Nat) (s : State), s.portState p.val = 4 →
    (widths p.val (vget s.ports p).gen).find?
      (fun w => w ≤ (setBits 8 (m &&& ((vget s.ports p).lockLanes &&& (vget s.ports p).farLanes))).length) = some w →
    ∃ t, exec (.verify p m) s = .next t ∧ t.portState p.val = 5 ∧ popcount 8 (vget t.ports p).lanesIn = w ∧ t.mem = s.mem ∧
      KeepsRegs s t (· == .LNK_Pp_STATE)) ∧
  (∀ (p : PortId) (m : Nat) (s : State), s.portState p.val = 4 →
    (widths p.val (vget s.ports p).gen).find?
      (fun w => w ≤ (setBits 8 (m &&& ((vget s.ports p).lockLanes &&& (vget s.ports p).farLanes))).length) = none →
    ∃ t, exec (.verify p m) s = .next t ∧ t.mem = s.mem ∧
      ((vget s.ports p).eqTries = 0 → t.portState p.val = 3 ∧ (vget t.ports p).eqTries = 1) ∧
      ((vget s.ports p).eqTries ≠ 0 → 1 < (vget s.ports p).gen → t.portState p.val = 3 ∧ (vget t.ports p).gen = (vget s.ports p).gen - 1 ∧
        t.fget Fld.LNK_Pp_STATUS_GEN_FALLBACK p.val = 1) ∧
      ((vget s.ports p).eqTries ≠ 0 → (vget s.ports p).gen ≤ 1 → t.portState p.val = 1))

/-- A port in ALIGN becomes ACTIVE at the width, lanes and generation that VERIFY chose; memory does not change. With a session (a retrain) it keeps the
session and the FSEQ it expects, its count of replays restarts, and a changed width or generation sets DEGRADED. Without one it starts a session:
sequence numbers from 0, no gap, every unit of credit to be given anew, and LNK_UP recorded where the buffer has room. -/
def Obligations.AlignEnds : Prop :=
  (∀ (p : PortId) (s : State), s.portState p.val = 5 → (vget s.ports p).lanesIn < 256 → (vget s.ports p).gen < 4 →
    ∃ t, exec (.align p) s = .next t ∧ t.portActive p.val = true ∧ (vget t.ports p).session = true ∧
      t.fget Fld.LNK_Pp_STATE_WIDTH p.val = popcount 8 (vget s.ports p).lanesIn ∧
      t.fget Fld.LNK_Pp_STATE_LANES p.val = (vget s.ports p).lanesIn ∧ t.fget Fld.LNK_Pp_STATE_GEN p.val = (vget s.ports p).gen ∧ KeepsMem s t ∧
      ((vget s.ports p).session = true → (vget t.ports p).replays = 0 ∧ (vget t.ports p).rxExp = (vget s.ports p).rxExp ∧
        (popcount 8 (vget s.ports p).lanesIn ≠ (vget s.ports p).oldWidth ∨ (vget s.ports p).gen ≠ (vget s.ports p).oldGen →
          t.fget Fld.LNK_Pp_STATUS_DEGRADED p.val = 1)) ∧
      ((vget s.ports p).session = false → (vget t.ports p).txSeq = 0 ∧ (vget t.ports p).rxExp = 0 ∧ (vget t.ports p).gap = false ∧
        (∀ v < numVcs p.val, t.avail p.val v = 0) ∧
        (evRoom s.evr.buf.length 0 = true → Recorded t { code := 0x0901, cls := 0x0A, inst := p.val, sev := 0
                                                         p1 := linkParam p.val (vget s.ports p).gen (popcount 8 (vget s.ports p).lanesIn)
                                                         p2 := s.rd64 .LNK_Pp_PEER_LO .LNK_Pp_PEER_HI p.val })))

/-- A port that trains or is ACTIVE goes down at a loss of signal (cause 0); a second retrain that exceeds RETRAIN_MS takes it down (cause 1), the
first is restarted; the first good one of the three copies of FAIL takes a port in ACTIVE down into FAILED (cause 2) and sets FAIL_RX; clearing ENABLE takes it down (cause 3).
A port that goes down sets DOWN, has no session any more, discards what it held, and is in FAILED for cause 2 and where it was, else in DOWN; for a peer
port the dead coordinate follows (R314), and a Euton port's adapter information is no longer valid. A write of LNK_FAIL_CMD with REASON 0x05 fails every
port; with another REASON it releases the ports it holds. Setting ENABLE of a port that may train takes it to DETECT. -/
def Obligations.LinkDownAndFail : Prop :=
  (∀ (p : PortId) (s : State), 2 ≤ s.portState p.val → s.portState p.val ≤ 7 → exec (.lossOfSignal p) s = .next (s.linkDown p 0)) ∧
  (∀ (p : PortId) (s : State), (vget s.ports p).session = true → s.portState p.val ≠ 0 → s.portState p.val ≠ 6 → s.portState p.val ≠ 8 →
    (vget s.ports p).retrains = 1 →
    ∃ t, exec (.retrainTimeout p) s = .next t ∧ t.portState p.val = 7 ∧ (vget t.ports p).retrains = 2 ∧ t.mem = s.mem) ∧
  (∀ (p : PortId) (s : State), (vget s.ports p).session = true → s.portState p.val ≠ 0 → s.portState p.val ≠ 6 → s.portState p.val ≠ 8 →
    (vget s.ports p).retrains = 2 → exec (.retrainTimeout p) s = .next (s.linkDown p 1)) ∧
  (∀ (p : PortId) (f : Flit) (s : State), s.portActive p.val = true → flitWhole f = true → Flit_kind f = 2 → flitReservedOk f = true →
    fieldAt f.payload 0 1 = 2 →
    (∀ g h, ∃ t, exec (.failRx p f g h) s = .next t ∧ t.fget Fld.LNK_Pp_STATUS_FAIL_RX p.val = 1 ∧
      Quiet ((s.linkDown p 2).sqSet .LNK_Pp_STATUS p.val 0 [Fld.LNK_Pp_STATUS_FAIL_RX] []) t) ∧
    (∀ g h, flitWhole g = false → ∃ t, exec (.failRx p g f h) s = .next t ∧ t.fget Fld.LNK_Pp_STATUS_FAIL_RX p.val = 1 ∧ t.portState p.val = 8) ∧
    (∀ g h, flitWhole g = false → flitWhole h = false → ∃ t, exec (.failRx p g h f) s = .next t ∧
      t.fget Fld.LNK_Pp_STATUS_FAIL_RX p.val = 1 ∧ t.portState p.val = 8 ∧ ∃ u, exec (.failRx p g h g) s = .next u ∧ u.portActive p.val = true)) ∧
  (∀ (p : PortId) (c : Nat) (s : State), (vget s.ports p).session = true ∨ (s.portState p.val ≠ 0 ∧ s.portState p.val ≠ 8) →
    ∃ u : State, (∀ h : p.val < 6, s.linkDown p c = u.deadLink ⟨p.val, h⟩) ∧
    (6 ≤ p.val → s.linkDown p c = u ∧ u.fget Fld.EUT_Ek_ADAPTER_INFO_VALID (p.val - 6) = 0) ∧
    u.fget Fld.LNK_Pp_STATUS_DOWN p.val = 1 ∧ (vget u.ports p).session = false ∧ (vget u.ports p).retry = [] ∧ (vget u.ports p).openMsg = [] ∧
    u.portState p.val = (if c = 2 ∨ s.portState p.val = 8 then 8 else 0) ∧ u.mem = s.mem ∧ u.queues = s.queues) ∧
  (∀ (v : Word) (s : State), wGet v 7 0 = 5 → s.fget Fld.LNK_FAIL_CMD_REASON ≠ 5 →
    (∀ p : PortId, (vget s.ports p).heldFail = 0) →
    ∃ t, exec (.lnkFailCmdWrite v) s = .next t ∧ t.fget Fld.LNK_FAIL_CMD_REASON = 5 ∧ (∀ p : PortId, (vget t.ports p).heldFail = 5) ∧
      (∀ p : PortId, t.portActive p.val = false) ∧ t.mem = s.mem) ∧
  (∀ (v : Word) (s : State), wGet v 7 0 ≠ 5 → ∃ t, exec (.lnkFailCmdWrite v) s = .next t ∧ t.fget Fld.LNK_FAIL_CMD_REASON = 0 ∧
    (∀ p : PortId, (vget t.ports p).heldFail = if (vget s.ports p).heldFail = 5 then 0 else (vget s.ports p).heldFail) ∧ t.mem = s.mem) ∧
  (∀ (p : PortId) (v : Word) (s : State), s.fget Fld.LNK_Pp_CTRL_ENABLE p.val = 0 → s.portState p.val = 0 → wGet v 0 0 = 1 → wGet v 3 3 = 0 →
    s.portUnused p.val = false → (vget s.ports p).heldFail = 0 → s.boot.jtagHeld = false →
    ∃ t, exec (.linkEnableWrite p v) s = .next t ∧ t.fget Fld.LNK_Pp_CTRL_ENABLE p.val = 1 ∧ t.portState p.val = 1 ∧ t.mem = s.mem) ∧
  (∀ (p : PortId) (v : Word) (s : State), s.fget Fld.LNK_Pp_CTRL_ENABLE p.val = 1 → wGet v 0 0 = 0 → wGet v 3 3 = 0 →
    ∃ u : State, exec (.linkEnableWrite p v) s = .next (u.linkDown p 3) ∧ u.fget Fld.LNK_Pp_CTRL_ENABLE p.val = 0 ∧ u.mem = s.mem ∧
      u.portState p.val = s.portState p.val)

/-! ## Register accesses -/

/-- An access of another width than 32 bits, or to an address that names no register within the requester's reach, only sets ACCESS_ERR in
GLB_ERR of the view it came through, which counts one hardware set in SEQ; a read returns zero. A write to a register that the view does not
show changes nothing. An access of 32 bits to any other address is none of these, and changes nothing. -/
def Obligations.AccessErrors : Prop :=
  (∀ (s : State) (v : Nat), OnlyRegs s (s.accessErr v) [regKey .BLK_ERR 0 v] ∧ (s.accessErr v).fget Fld.ERR_ACCESS_ERR 0 v = 1 ∧
    wGet ((s.accessErr v).rd .BLK_ERR 0 v) 31 24 = (wGet (s.rd .BLK_ERR 0 v) 31 24 + 1) % 256) ∧
  (∀ (r : Requester) (addr w : Nat) (s : State), w ≠ 32 ∨ (s.target r addr).1 = .bad →
    exec (.accessErr r addr w true) s = .next (s.accessErr (errView r addr)) ∧
    exec (.accessErr r addr w false) s = .next ((s.accessErr (errView r addr)).emit (.readData r addr 0))) ∧
  (∀ (r : Requester) (addr : Nat) (wr : Bool) (s : State), (s.target r addr).1 ≠ .bad → exec (.accessErr r addr 32 wr) s = .next s) ∧
  (∀ (r : Requester) (addr view : Nat) (v : Word) (s : State), s.target r addr = (.bad, view) →
    exec (.regWrite r addr v) s = .next (s.accessErr view)) ∧
  (∀ (r : Requester) (addr view : Nat) (v : Word) (s : State), s.target r addr = (.hidden, view) → exec (.regWrite r addr v) s = .next s)

/-- After a plain write of a register, each field that software writes holds the requested value, or the nearest legal one, or its reset value
for an undefined encoding; no byte of memory changes and no other register but those of the clamp report. REG_WRITE is such a write for the
arithmetic settings, the tier settings and the note settings of the partition that writes; P0's writes of another partition's registers are
refused with ACCESS_ERR. -/
def Obligations.RegisterWrites : Prop :=
  (∀ (view : Nat) (r : RegName) (inst sel : Nat) (v : Word) (s : State) (f : FieldSpec), f ∈ r.spec.fields → f.writable = true →
    loud r = false → r ≠ .BLK_ERR → r ≠ .GLB_CLAMP_HEAD →
    let t := s.fieldWrite view r inst sel v id
    wGet (t.rd r inst sel) f.hi f.lo = rangeFix f (wGet v f.hi f.lo) ∧ t.mem = s.mem ∧
    KeepsRegs s t (fun q => q == r || q == .BLK_ERR || q == .GLB_CLAMP_HEAD)) ∧
  (∀ (p : Part) (addr : Nat) (v : Word) (g : RegName) (inst : Nat) (s : State), s.target (.part p) addr = (.reg g inst p.val, p.val) →
    g = .NUM_ARITH_CFG ∨ g = .TIER_CFG ∨ g = .EUT_NOTE_CFG →
    exec (.regWrite (.part p) addr v) s = .next (s.fieldWrite p.val g inst p.val v id)) ∧
  (∀ (p : Part) (addr inst sel : Nat) (v : Word) (g : RegName) (s : State), s.target (.part p) addr = (.reg g inst sel, 4) →
    g ≠ .PWR_ALLOW → s.foreign g inst sel = true → exec (.regWrite (.part p) addr v) s = .next (s.accessErr 4))

/-- A read of X_LO returns the live low word and copies the live high word into the requester's shadow of that pair; a read of X_HI returns that
shadow and changes nothing; no read changes a shadow of another requester, whichever window it uses; every shadow is zero after reset. -/
def Obligations.Shadows : Prop :=
  (∀ (r : Requester) (addr inst sel view : Nat) (g h : RegName) (s : State), s.target r addr = (.reg g inst sel, view) →
    g.spec.pair = .lo h → ∃ t, exec (.loReadLatch r addr) s = .next t ∧ t.out = s.out ++ [.readData r addr (s.shown view g inst sel)] ∧
      t.shadow (reqIdx r) g inst sel = s.shown view h inst sel ∧
      (∀ q lo i a, q ≠ reqIdx r → t.shadow q lo i a = s.shadow q lo i a) ∧
      t = { s with rf := { s.rf with shadow := t.rf.shadow }, out := t.out }) ∧
  (∀ (r : Requester) (addr inst sel view : Nat) (g lo : RegName) (s : State), s.target r addr = (.reg g inst sel, view) →
    g.spec.pair = .hi lo → s.regRead r addr = (s.shadow (reqIdx r) lo inst sel, s)) ∧
  (∀ q lo i a, State.reset.shadow q lo i a = 0)

/-- A write of a writable X_LO only changes the requester's staging word of that pair. A write of X_HI of the SR seed commits the high word with
that staging word, or with the low word in force where there is none, as one value, and drops the staging word; nothing else changes. -/
def Obligations.Staging : Prop :=
  (∀ (p : Part) (addr inst : Nat) (v : Word) (g h : RegName) (s : State), s.target (.part p) addr = (.reg g inst p.val, p.val) →
    g.spec.pair = .lo h → g.writable = true → isSq g = false → viewReadOnly g = false →
    ∃ t, exec (.loWriteStage (.part p) addr v) s = .next t ∧ t.stagedOr p.val g inst p.val = v ∧
      (∀ q lo i a, pairKey q lo i a ≠ pairKey p.val g inst p.val → t.stagedOr q lo i a = s.stagedOr q lo i a) ∧
      t = { s with rf := { s.rf with staged := t.rf.staged } }) ∧
  (∀ (p : Part) (addr : Nat) (v : Word) (s : State), s.target (.part p) addr = (.reg .NUM_SR_SEED_HI 0 p.val, p.val) →
    ∃ t, exec (.hiWriteCommit (.part p) addr v) s = .next t ∧
      t.rd64 .NUM_SR_SEED_LO .NUM_SR_SEED_HI 0 p.val = (s.stagedOr p.val .NUM_SR_SEED_LO 0 p.val).toNat + 2 ^ 32 * v.toNat ∧
      Sparse.find t.rf.staged (pairKey p.val .NUM_SR_SEED_LO 0 p.val) = none ∧ t.mem = s.mem ∧ t.queues = s.queues ∧
      ∀ r i a, regKey r i a ≠ regKey .NUM_SR_SEED_LO 0 p.val → regKey r i a ≠ regKey .NUM_SR_SEED_HI 0 p.val → t.rd r i a = s.rd r i a)

/-- A write-back that carries the current SEQ clears the status bits written as 1, zeroes every counter, and leaves the other status bits and
SEQ; one that carries another SEQ changes nothing in it and sets SEQ_MISS in the block's ERR of the view. A hardware set raises SEQ by one
modulo 256, also where the bit is set already. -/
def Obligations.SequenceClear : Prop :=
  (∀ (r : Requester) (addr inst sel view : Nat) (v : Word) (g : RegName) (s : State), s.target r addr = (.reg g inst sel, view) →
    isSq g = true → ¬ (view = 4 ∧ r ≠ .mgc ∧ g ≠ .PWR_ALLOW ∧ s.foreign g inst sel = true) →
    exec (.sqClear r addr v) s = .next (s.sqClearAt view g inst sel v)) ∧
  (∀ (view inst sel : Nat) (v : Word) (g : RegName) (s : State), isSq g = true →
    wGet v 31 24 = wGet (s.rd g inst sel) 31 24 →
    let t := s.sqClearAt view g inst sel v
    (∀ f ∈ sqBits g, wGet (t.rd g inst sel) f.hi f.lo = if wGet v f.hi f.lo = 1 then 0 else wGet (s.rd g inst sel) f.hi f.lo) ∧
    (∀ f ∈ sqCounters g, wGet (t.rd g inst sel) f.hi f.lo = 0) ∧ wGet (t.rd g inst sel) 31 24 = wGet (s.rd g inst sel) 31 24 ∧
    OnlyRegs s t [regKey g inst sel]) ∧
  (∀ (view inst sel : Nat) (v : Word) (g : RegName) (s : State), wGet v 31 24 ≠ wGet (s.rd g inst sel) 31 24 →
    let t := s.sqClearAt view g inst sel v
    t.fget Fld.ERR_SEQ_MISS (regBlock g inst) view = 1 ∧ OnlyRegs s t [regKey .BLK_ERR (regBlock g inst) view]) ∧
  (∀ (r : RegName) (inst sel : Nat) (bits cnts : List Fld) (s : State),
    wGet ((s.sqSet r inst sel bits cnts).rd r inst sel) 31 24 =
      (wGet (cnts.foldl (fun a f => sqCount a f 1) (bits.foldl sqOr (s.rd r inst sel))) 31 24 + 1) % 256)

/-! ## Locks and queues -/

/-- A write of TAIL with a value `t` is accepted exactly where (t − HEAD) ≥ (TAIL − HEAD) and (t − HEAD) ≤ 2^LOG2_SLOTS, modulo 2^32; it then
sets TAIL and nothing else. Any other value leaves TAIL and sets BAD_TAIL, and nothing else: no clamp is recorded. -/
def Obligations.TailDoorbell : Prop :=
  (∀ (p : Part) (q : QueueId) (v : Word) (s : State), v - s.rd .CMD_Qn_HEAD q.val p.val ≥ s.rd .CMD_Qn_TAIL q.val p.val - s.rd .CMD_Qn_HEAD q.val p.val →
    (v - s.rd .CMD_Qn_HEAD q.val p.val).toNat ≤ s.ringSlots p.val q.val →
    ∃ t, exec (.cmdQnTailWrite p q v) s = .next t ∧ t.rd .CMD_Qn_TAIL q.val p.val = v ∧ OnlyRegs s t [regKey .CMD_Qn_TAIL q.val p.val]) ∧
  (∀ (p : Part) (q : QueueId) (v : Word) (s : State),
    ¬ (v - s.rd .CMD_Qn_HEAD q.val p.val ≥ s.rd .CMD_Qn_TAIL q.val p.val - s.rd .CMD_Qn_HEAD q.val p.val ∧
      (v - s.rd .CMD_Qn_HEAD q.val p.val).toNat ≤ s.ringSlots p.val q.val) →
    ∃ t, exec (.cmdQnTailWrite p q v) s = .next t ∧ t.fget Fld.CMD_Qn_STATUS_BAD_TAIL q.val p.val = 1 ∧
      OnlyRegs s t [regKey .CMD_Qn_STATUS q.val p.val])

/-- Each of the 4,096 locks of a partition is a 32-bit counter that is 0 after its partition reset. Either wait of a command is met exactly where the
lock's value, compared unsigned, is at least the wait value. The signal of a command that ends well adds SIG_ADD to its lock, and a write of
CMD_LOCK_ADD adds its value; a sum above 0xFFFF_FFFF saturates at 0xFFFF_FFFF, sets LOCK_SAT and records CMD_LOCK_SAT with the lock index where the
event buffer has room, and a smaller sum changes nothing but the lock. -/
def Obligations.Locks : Prop :=
  (∀ (p : Part) (r : Requester) (s : State), r = .mgc ∨ r = .part 0 → s.boot.resetting = none → ∃ t, exec (.partitionReset r p) s = .next t ∧
    ∀ k : Fin 4096, t.lock p.val k.val = 0) ∧
  (∀ (p : Part) (k : Fin 4096) (s : State), s.lock p.val k.val < 2 ^ 32) ∧
  (∀ (p : Nat) (c : Cmd) (s : State), cW0En c = true → c.w0 = false →
    ((s.latchWaits p c).w0 = true ↔ cW0Value c ≤ s.lock p (cW0Lock c % 4096))) ∧
  (∀ (p : Nat) (c : Cmd) (s : State), cW1En c = true → c.w1 = false →
    ((s.latchWaits p c).w1 = true ↔ cW1Value c ≤ s.lock p (cW1Lock c % 4096))) ∧
  (∀ (p : Part) (q : QueueId) (energy : Nat) (c : Cmd) (s : State), cSigEn c = true →
    (s.complete p q.val c 0 energy).lock p.val (cSigLock c % 4096) = min (2 ^ 32 - 1) (s.lock p.val (cSigLock c % 4096) + cSigAdd c) ∧
    (2 ^ 32 ≤ s.lock p.val (cSigLock c % 4096) + cSigAdd c → (s.complete p q.val c 0 energy).fget Fld.CMD_STATUS_LOCK_SAT 0 p.val = 1)) ∧
  (∀ (p : Part) (k : Fin 4096) (v : Word) (s : State), s.lock p.val k.val + v.toNat < 2 ^ 32 →
    ∃ t, exec (.cmdLockAdd p k v) s = .next t ∧ t.lock p.val k.val = s.lock p.val k.val + v.toNat ∧
      OnlyRegs s t [regKey .CMD_LOCK_VAL_k k.val p.val]) ∧
  (∀ (p : Part) (k : Fin 4096) (v : Word) (s : State), 2 ^ 32 ≤ s.lock p.val k.val + v.toNat →
    ∃ t, exec (.cmdLockAdd p k v) s = .next t ∧ t.lock p.val k.val = 2 ^ 32 - 1 ∧ t.fget Fld.CMD_STATUS_LOCK_SAT 0 p.val = 1 ∧
      KeepsRegs s t (fun r => r == .CMD_LOCK_VAL_k || r == .CMD_STATUS) ∧ t.mem = s.mem ∧ t.queues = s.queues ∧
      (evRoom s.evr.buf.length 1 = true →
        Recorded t { code := 0x0207, cls := 0, inst := 0, sev := 1, part := p.val, p1 := k.val }))

/-! ## Resets and bring-up -/

/-- After reset every register holds its reset word (the one its table gives; where the spec gives none, log 3), no shadow or staged word is held,
no command waits in a queue, the ROM phase of bring-up begins, and memory lists nothing (log 2). -/
def Obligations.ResetLeaves : Prop :=
  (∀ r i a, State.reset.rd r i a = resetWord r i) ∧ State.reset.rf.shadow = [] ∧ State.reset.rf.staged = [] ∧ State.reset.queues = [] ∧
  State.reset.bootState = 0 ∧ State.reset.mem.cells = [] ∧ State.reset.evr.buf = [] ∧ State.reset.pending = []

/-- A cold reset restores every register but the straps, which it samples, the boot count, which rises by one, and those of the recorder; it empties
the queues and memory and begins bring-up, with FAULT_N and THERMTRIP_N released where no quadrant's last reading (log 73) is 115 °C or more, and
asserted otherwise. A warm reset restores the registers of the warm-reset and partition-reset domains and those that bring-up rewrites, stops the
check-value units and a margin sweep, keeps the count of link sessions, and leaves the others; it is ignored while a critical state, a power failure or
a takeover holds it off. -/
def Obligations.ColdAndWarmReset : Prop :=
  (∀ (feed slot : Nat) (s : State), ∃ t, exec (.coldReset feed slot) s = .next t ∧ t.bootState = 0 ∧ t.queues = [] ∧ t.mem = State.reset.mem ∧
    t.pins.porstN = true ∧ (t.pins.thermtripN = true ↔ ∀ n : Quad, vget s.pwr.quadTemp n < 115) ∧ t.pins.faultN = t.pins.thermtripN ∧
    t.rd .GLB_STRAPS = BitVec.ofNat 32 (feed % 16 + slot % 64 * 16) ∧
    t.fget Fld.GLB_BOOT_BOOT_COUNT = (s.flash.bootCount + 1) % 65536 ∧ t.flash.bootCount = (s.flash.bootCount + 1) % 65536 ∧
    (∀ r i a, loud r = false → r ≠ .GLB_BOOT → r ≠ .GLB_STRAPS → r ≠ .EVR_LOW_LO → r ≠ .EVR_LOW_HI → t.rd r i a = resetWord r i)) ∧
  (∀ (b : Bool) (s : State), s.resetHeld = false → s.pwr.powerFail = false → s.pins.pwrFailN = true → s.pins.porstN = true →
    s.boot.jtagHeld = false → ∃ t, exec (.warmReset b) s = .next t ∧ t.bootState = 0 ∧ t.queues = [] ∧ t.mem = State.reset.mem ∧
      t.fget Fld.GLB_BOOT_BOOT_COUNT = (s.flash.bootCount + 1) % 65536 ∧ t.pwr.critHold = false ∧ t.pwr.critDie = false ∧
      (∀ p : PortId, t.portState p.val = 0 ∧ t.fget Fld.LNK_Pp_STATE_SESSION p.val = s.fget Fld.LNK_Pp_STATE_SESSION p.val) ∧
      (∀ u : Fin 4, t.chkHeld u.val = false) ∧ t.fget Fld.HBM_MARGIN_CTRL_START = 0 ∧
      ∀ r i a, loud r = false → r ≠ .GLB_BOOT → r ≠ .VEC_Vn_STATE → r ≠ .LNK_Pp_STATE → r ≠ .CHK_Uu_CTRL → r ≠ .HBM_MARGIN_CTRL →
        t.rd r i a = if r.spec.dom ≠ .cold ∨ bringUpReg r = true then resetWord r i else s.rd r i a) ∧
  (∀ (b : Bool) (s : State), s.resetHeld = true ∨ s.pwr.powerFail = true ∨ s.pins.pwrFailN = false ∨ s.pins.porstN = false ∨
    s.boot.jtagHeld = true → exec (.warmReset b) s = .next s)

/-- A partition reset by P0 or the management core, where none is in progress, sets BUSY, restores the partition-scope registers of the partition-reset
domain of that partition and empties its queues; of its tier state only the host's reads of T2 go on. Where no request of its host waits, no byte of
T0 or T1 changes. Every queue, tier state and such register of another partition stays. While BUSY is 1 another GO only sets ACCESS_ERR; a partition
other than P0 that asks for a reset only gets ACCESS_ERR. -/
def Obligations.PartitionReset : Prop :=
  (∀ (r : Requester) (p : Part) (s : State), r = .mgc ∨ r = .part 0 → s.boot.resetting = none → s.eut.waiting = [] →
    ∃ t, exec (.partitionReset r p) s = .next t ∧ (∀ a, isT2 a = false → t.cell a = s.cell a) ∧
    t.boot.resetting = some (p, r, true) ∧ t.fget Fld.EUT_PART_RESET_BUSY = 1 ∧
    (∀ q < 64, t.queue p.val q = State.reset.queue p.val q) ∧
    (∀ p' : Part, p' ≠ p → ∀ q < 64, t.queue p'.val q = s.queue p'.val q) ∧
    vget t.tier p = { TierSt.reset with fetches := (vget s.tier p).fetches.filter (fun f => f.host.isSome) } ∧
    (∀ p', p' ≠ p → vget t.tier p' = vget s.tier p') ∧
    (vget t.pwr.bal p = s.burst p.val) ∧ vget t.pwr.short p = 0 ∧
    (∀ g i, g.spec.dom = .part → g.spec.scope = .part → loud g = false → t.rd g i p.val = resetWord g i ∧
      ∀ p' : Part, p' ≠ p → t.rd g i p'.val = s.rd g i p'.val)) ∧
  (∀ (r : Requester) (p : Part) (s : State), r = .mgc ∨ r = .part 0 → s.boot.resetting.isSome = true →
    exec (.partitionReset r p) s = .next (s.accessErr 4)) ∧
  (∀ (q p : Part) (s : State), q.val ≠ 0 → exec (.partitionReset (.part q) p) s = .next (s.accessErr q.val))

/-- PORST_N low holds the part in cold reset, with FAULT_N low. The release of PWR_FAIL_N with PORST_N high is a cold reset with the straps as
sampled; with PORST_N low only the pin moves. The loss of a reference clock is FATAL: FAULT_N goes low, every port is held down, and the loss is
recorded where the event buffer has room. A takeover through JTAG with PORST_N high drops every command, holds every peer port down and enters FAILED;
with PORST_N low it does nothing. -/
def Obligations.PinEvents : Prop :=
  (∀ s : State, ∃ t, exec .porstNAssert s = .next t ∧ t.pins.porstN = false ∧ t.pins.faultN = false ∧ t.pins.xspiRstN = false ∧ t.queues = [] ∧
    t.mem = State.reset.mem ∧ (∀ r i a, loud r = false → r ≠ .GLB_STRAPS → r ≠ .EVR_LOW_LO → r ≠ .EVR_LOW_HI → t.rd r i a = resetWord r i)) ∧
  (∀ s : State, s.pins.pwrFailN = false → s.pins.porstN = true → exec .pwrFailRelease s =
    exec (.coldReset (wGet (s.rd .GLB_STRAPS) 3 0) (wGet (s.rd .GLB_STRAPS) 9 4)) s) ∧
  (∀ s : State, s.pins.porstN = false → exec .pwrFailRelease s = .next { s with pins := { s.pins with pwrFailN := true } }) ∧
  (∀ (c : Fin 4) (s : State), ∃ t, exec (.glbRefclkLoss c) s = .next t ∧ t.pins.faultN = false ∧ QuietFail s t ∧
    (∀ p : PortId, (vget t.ports p).heldFail ≠ 0) ∧
    (evRoom s.evr.buf.length 3 = true → Recorded t { code := 0x0121, cls := 0, inst := 0, sev := 3, p1 := c.val })) ∧
  (∀ (code : Nat) (s : State), s.pins.porstN = true → ∃ t, exec (.glbJtagTakeover code) s = .next t ∧ t.bootState = 0xA ∧ t.queues = [] ∧
    t.boot.jtagHeld = true ∧ t.pins.faultN = false ∧ (∀ p : PeerPort, (vget t.ports (peerPort p)).heldFail = 4) ∧ t.mem = s.mem ∧
    (evRoom s.evr.buf.length 3 = true → Recorded t { code := 0x0120, cls := 0, inst := 0, sev := 3, p1 := code })) ∧
  (∀ (code : Nat) (s : State), s.pins.porstN = false → exec (.glbJtagTakeover code) s = .next s)

/-- Each phase does its work and ends in the next: ROM in FABRIC, unless no firmware set verifies and the part stays in ROM recovery, with port E0
training at G1; FABRIC, with the map loaded, in SRAM; SRAM in HBM_TRAIN where no macro failed beyond its spares, else in FAILED; HBM_TRAIN in QUALIFY,
with exactly the stacks that did not fail twice available; QUALIFY in LINKS, with exactly the ports that the image uses enabled. A full
qualification, which a failing word in a fast pass starts too, leaves a valid record of this boot; a fast pass without one leaves the record as it is.
Each of these commands in another phase changes nothing. -/
def Obligations.EarlyPhases : Prop :=
  (∀ s : State, s.inPhase 0 = true → ∃ t, exec .rom s = .next t ∧
    (s.romPhase.boot.recovery = false → t.bootState = 1 ∧ Quiet (s.romPhase.fset Fld.GLB_BOOT_STATE 1) t) ∧
    (s.romPhase.boot.recovery = true → t = s.romPhase)) ∧
  (∀ s : State, s.judge.boot.recovery = true → s.romPhase.boot.recovery = true ∧ s.romPhase.bootState = 0xA ∧ s.romPhase.portState 6 = 1 ∧
    s.romPhase.fget Fld.LNK_Pp_CTRL_ENABLE 6 = 1 ∧ s.romPhase.fget Fld.LNK_Pp_CTRL_MAX_GEN 6 = 1) ∧
  (∀ s : State, s.inPhase 1 = true → ∃ t, exec .fabric s = .next t ∧ t.bootState = 2 ∧ Quiet (s.fabricPhase.fset Fld.GLB_BOOT_STATE 2) t ∧
    t.mem = s.mem) ∧
  (∀ (d : List SramDefect) (s : State), s.inPhase 2 = true → ∃ t, exec (.sram d) s = .next t ∧ t.mem = s.mem ∧
    ((∀ m, SramDefect.macroRows m true ∉ d) → t.bootState = 3) ∧ ((∃ m, SramDefect.macroRows m true ∈ d) → t.bootState = 0xA)) ∧
  (∀ (f : List Quad) (s : State), s.inPhase 3 = true → ∃ t, exec (.hbmTrain f) s = .next t ∧ t.bootState = 4 ∧
    (∀ n : Quad, (vget t.hbm n).avail = true ↔ n ∉ f) ∧ t.mem = s.mem) ∧
  (∀ (f : List Nat) (s : State), s.inPhase 4 = true → ∃ t, exec (.qualify f) s = .next t ∧ t.bootState = 5 ∧
    (∀ p : PortId, t.fget Fld.LNK_Pp_CTRL_ENABLE p.val = if t.portUnused p.val then 0 else 1) ∧
    (s.fastOk = false ∨ f ≠ [] → t.flash.qual.valid = true ∧ t.flash.qual.boot = t.fget Fld.GLB_BOOT_BOOT_COUNT ∧ t.boot.newErr = false) ∧
    (s.fastOk = true → f = [] → t.flash.qual = s.flash.qual ∧ t.fget Fld.GLB_BOOT_FAST = 1)) ∧
  (∀ s : State, s.inPhase 0 = false → exec .rom s = .next s) ∧
  (∀ s : State, s.inPhase 1 = false → exec .fabric s = .next s) ∧
  (∀ (d : List SramDefect) (s : State), s.inPhase 2 = false → exec (.sram d) s = .next s) ∧
  (∀ (f : List Quad) (s : State), s.inPhase 3 = false → exec (.hbmTrain f) s = .next s) ∧
  (∀ (f : List Nat) (s : State), s.inPhase 4 = false → exec (.qualify f) s = .next s)

/-- LINKS ends when every enabled port is ACTIVE, or when its wait expires: in COMPUTE with a base licence, else in HELD with the licence cause.
COMPUTE clears the suspects and ends in TOPOLOGY. TOPOLOGY ends in READY where nothing disagrees and every valid partition has a port and an array,
else in HELD with the causes. Each of these commands in another phase, and LINKS while an enabled port is not ACTIVE, changes nothing. -/
def Obligations.LatePhases : Prop :=
  (∀ s : State, s.inPhase 5 = true → (∀ p : PortId, s.mayTrain p = true → s.portActive p.val = true) → s.licensed = true →
    ∃ t, exec .links s = .next t ∧ t.bootState = 6 ∧ Quiet (s.fset Fld.GLB_BOOT_STATE 6) t) ∧
  (∀ s : State, s.inPhase 5 = true → (∀ p : PortId, s.mayTrain p = true → s.portActive p.val = true) →
    exec .links s = exec .linkWaitExpiry s) ∧
  (∀ s : State, s.inPhase 5 = true → s.licensed = true →
    ∃ t, exec .linkWaitExpiry s = .next t ∧ t.bootState = 6 ∧ Quiet (s.fset Fld.GLB_BOOT_STATE 6) t) ∧
  (∀ s : State, s.inPhase 5 = true → s.licensed = false →
    ∃ t, exec .linkWaitExpiry s = .next t ∧ t.bootState = 9 ∧ t.fget Fld.GLB_BOOT_HOLD_CAUSE = 1 ∧ t.mem = s.mem) ∧
  (∀ (f l : List (Quad × Nat)) (s : State), s.inPhase 6 = true → ∃ t, exec (.compute f l) s = .next t ∧ t.bootState = 7 ∧
    (∀ n : Quad, t.fget Fld.ARR_An_SUSPECT_FACETS n.val = 0 ∧ t.fget Fld.VEC_Vn_STATE_REG_SUSPECT n.val = 0) ∧ t.mem = s.mem) ∧
  (∀ s : State, s.inPhase 7 = true → s.disagreements = [] → s.partitionRule = false →
    ∃ t, exec .topology s = .next t ∧ t.bootState = 8) ∧
  (∀ s : State, s.inPhase 7 = true → s.disagreements ≠ [] ∨ s.partitionRule = true → ∃ t, exec .topology s = .next t ∧ t.bootState = 9 ∧
    t.fget Fld.GLB_BOOT_HOLD_CAUSE = (if s.disagreements = [] then 0 else 2) + (if s.partitionRule then 4 else 0)) ∧
  (∀ s : State, s.inPhase 5 = false ∨ (∃ p : PortId, s.mayTrain p = true ∧ s.portActive p.val = false) → exec .links s = .next s) ∧
  (∀ s : State, s.inPhase 5 = false → exec .linkWaitExpiry s = .next s) ∧
  (∀ (f l : List (Quad × Nat)) (s : State), s.inPhase 6 = false → exec (.compute f l) s = .next s) ∧
  (∀ s : State, s.inPhase 7 = false → exec .topology s = .next s)

/-! ## Firmware, settings, attestation and the board's bus -/

/-- A START of staging by P0 or the management core while one runs only sets ACCESS_ERR; a legal one copies LEN bytes of its source into the region it
names (a class image into the slot that is not ACTIVE for its class, an Axzel image or a licence into slot SLOT) and sets BUSY; STAGE_DONE clears BUSY,
and a class image becomes PENDING and is no longer REJECTED. SETTINGS_SAVE writes the current values into the copy that is not in use. A commit by P0
raises the fused minimum SVN of each class it names to that of its last known good image, at most 32 times, and never lowers it; the management core
raises none. Partitions other than P0 only get ACCESS_ERR. -/
def Obligations.Staged : Prop :=
  (∀ (r : Requester) (v : Word) (s : State), r = .mgc ∨ r = .part 0 → wGet v 8 8 = 1 → s.fbit Fld.SEC_STAGE_CTRL_BUSY = true →
    exec (.secStage r v) s = .next (s.accessErr 4)) ∧
  (∀ (r : Requester) (v : Word) (s : State), let s1 := s.fieldWrite 4 .SEC_STAGE_CTRL 0 0 v stageCross
    let len := s1.fget Fld.SEC_STAGE_LEN_LEN
    let tgt := s1.fget Fld.SEC_STAGE_CTRL_TARGET
    let slot := s1.fget Fld.SEC_STAGE_CTRL_SLOT
    let x := s1.readAs 4 s1.stageAddr len
    r = .mgc ∨ r = .part 0 → wGet v 8 8 = 1 → s.fbit Fld.SEC_STAGE_CTRL_BUSY = false →
    s1.bootState = 8 ∨ s1.bootState = 9 ∨ s1.boot.recovery = true → 1 ≤ len → len ≤ stageRegion tgt →
    s1.stageSourceOk s1.stageAddr len = true → x.1.2 = false → (tgt < 6 → fieldAt x.1.1 4 1 = tgt) →
    ∃ t, exec (.secStage r v) s = .next t ∧ t.fget Fld.SEC_STAGE_CTRL_BUSY = 1 ∧ t.boot.staging = some (tgt, slot) ∧ KeepsMem s t ∧
      (tgt < 6 → t.flash.firmware = (x.2.putClassImage (1 - (x.2.classRec tgt).active) tgt x.1.1).flash.firmware) ∧
      (tgt = 8 → t.flash.images = x.2.flash.images.set slot x.1.1) ∧
      (8 < tgt → t.flash.licences = x.2.flash.licences.set slot x.1.1)) ∧
  (∀ (k slot : Nat) (s : State), s.boot.staging = some (k, slot) → k < s.dir.recs.length ∨ 6 ≤ k → s.flash.dirs.length = 2 →
    ∃ t, exec .stageDone s = .next t ∧ t.fget Fld.SEC_STAGE_CTRL_BUSY = 0 ∧ t.boot.staging = none ∧ t.mem = s.mem ∧
      (k < 6 → (t.classRec k).pending = true ∧ (t.classRec k).rejected = false) ∧ (6 ≤ k → t.flash = s.flash)) ∧
  (∀ s : State, s.boot.setInUse < 2 → s.flash.settings.length = 2 → ∃ t, exec .settingsSave s = .next t ∧
    t.boot.setInUse = 1 - s.boot.setInUse ∧ (t.flash.settings.getD t.boot.setInUse default).valid = true ∧
    (t.flash.settings.getD t.boot.setInUse default).bootCfg = s.rd .GLB_BOOT_CFG ∧
    (t.flash.settings.getD t.boot.setInUse default).imageSel = s.boot.imageSel ∧
    t.flash.settings.getD s.boot.setInUse default = s.flash.settings.getD s.boot.setInUse default ∧ t.rf = s.rf ∧ t.mem = s.mem) ∧
  (∀ (v : Word) (s : State), s.flash.svnRaised.length = 6 →
    ∃ t, exec (.secSvnCommit (.part 0) v) s = .next t ∧ t.mem = s.mem ∧ ∀ c : Fin 6,
      let svn := fieldAt (s.classImage (s.classRec c.val).lkg c.val) 5 1
      let e := s.flash.svnRaised.getD c.val (0, 0)
      s.minSvn c ≤ t.minSvn c ∧
      t.flash.svnRaised.getD c.val (0, 0) = if bitOf v.toNat c.val = false ∨ svn ≤ s.minSvn c ∨ 32 ≤ e.1 then e else (e.1 + 1, svn)) ∧
  (∀ (v : Word) (s : State), exec (.secSvnCommit .mgc v) s = .next s) ∧
  (∀ (p : Part) (v : Word) (s : State), p.val ≠ 0 → exec (.secStage (.part p) v) s = .next (s.accessErr p.val) ∧
    exec (.secSvnCommit (.part p) v) s = .next (s.accessErr p.val))

/-- GO in a view that has no request queues one and sets BUSY; in a busy view it changes nothing. Once bring-up has ended the oldest request is
served: its view's report holds the report's bytes, which carry the nonce of that view, and its BUSY clears. -/
def Obligations.Attestation : Prop :=
  (∀ (w : View) (s : State), s.fbit Fld.SEC_ATTEST_CTRL_BUSY 0 (viewIdx w) = false → ∃ t, exec (.attestGo w) s = .next t ∧
    t.boot.attest = s.boot.attest ++ [viewIdx w] ∧ t.fget Fld.SEC_ATTEST_CTRL_BUSY 0 (viewIdx w) = 1 ∧ t.mem = s.mem ∧
    ∀ r i a, regKey r i a ≠ regKey .SEC_ATTEST_CTRL 0 (viewIdx w) → t.rd r i a = s.rd r i a) ∧
  (∀ (w : View) (s : State), s.fbit Fld.SEC_ATTEST_CTRL_BUSY 0 (viewIdx w) = true → exec (.attestGo w) s = .next s) ∧
  (∀ (w : Nat) (l : List Nat) (s : State), s.boot.attest = w :: l → 8 ≤ s.bootState → ∃ t, exec .reportSigned s = .next t ∧
    t.boot.attest = l ∧ Sparse.find t.boot.report w = some (s.reportBytes w) ∧ t.fget Fld.SEC_ATTEST_CTRL_BUSY 0 w = 0 ∧ t.mem = s.mem ∧
    KeepsRegs s t (· == .SEC_ATTEST_CTRL))

/-- With PORST_N high, a set-address command holds the offset; a write reaches only PWR_COOLANT and GLB_BMC_CTRL, whose keyed WARM_RESET is a
request of the board, and any other write sets ACCESS_ERR; a read of 4 bytes gives the register at the set address, one of 8 bytes at X_LO the pair
from one latch; ENTDAA assigns the dynamic address and reads the low 32 bits of the serial. With PORST_N low none of them does anything. -/
def Obligations.BoardBus : Prop :=
  (∀ (o : Word) (s : State), s.pins.porstN = true → ∃ t, exec (.i3cSetAddress o) s = .next t ∧ t.pins.i3cAddr = o.toNat ∧
    t = { s with pins := t.pins }) ∧
  (∀ (o v : Word) (i a : Nat) (s : State), s.pins.porstN = true → s.i3cTarget o.toNat = .reg .PWR_COOLANT i a →
    exec (.i3cWrite o v) s = exec (.coolantReport .mgc v) s) ∧
  (∀ (o v : Word) (i a : Nat) (s : State), s.pins.porstN = true → s.i3cTarget o.toNat = .reg .GLB_BMC_CTRL i a → wGet v 15 8 = 0xA5 →
    wGet v 0 0 = 1 → exec (.i3cWrite o v) s = exec (.warmReset true) s) ∧
  (∀ (o v : Word) (i a : Nat) (s : State), s.pins.porstN = true → s.i3cTarget o.toNat = .reg .GLB_BMC_CTRL i a → wGet v 15 8 ≠ 0xA5 →
    exec (.i3cWrite o v) s = .next (s.accessErr 4)) ∧
  (∀ (o v : Word) (s : State), s.pins.porstN = true → (∀ i a, s.i3cTarget o.toNat ≠ .reg .PWR_COOLANT i a) →
    (∀ i a, s.i3cTarget o.toNat ≠ .reg .GLB_BMC_CTRL i a) → exec (.i3cWrite o v) s = .next (s.accessErr 4)) ∧
  (∀ s : State, s.pins.porstN = true → ∃ t, exec (.i3cRead 4) s = .next t ∧
    t.out = s.out ++ [.i3cData (leBytes 4 (s.i3cWord s.pins.i3cAddr).1.toNat)] ∧ t.mem = s.mem) ∧
  (∀ (r : RegName) (i a : Nat) (s : State), s.pins.porstN = true → s.i3cTarget s.pins.i3cAddr = .reg r i a → r.spec.pair = .single →
    ∃ t, exec (.i3cRead 4) s = .next t ∧ t.out = s.out ++ [.i3cData (leBytes 4 (s.shown 4 r i a).toNat)] ∧
      (r ≠ .HBM_STACKn_TEMP → t.rf = s.rf) ∧ t.mem = s.mem) ∧
  (∀ (r h : RegName) (i a : Nat) (s : State), s.pins.porstN = true → s.i3cTarget s.pins.i3cAddr = .reg r i a →
    s.i3cTarget (s.pins.i3cAddr + 4) = .reg h i a → r.spec.pair = .lo h → ∃ t, exec (.i3cRead 8) s = .next t ∧
      t.out = s.out ++ [.i3cData (leBytes 4 (s.shown 4 r i a).toNat ++ leBytes 4 (s.shown 4 h i a).toNat)] ∧ t.mem = s.mem ∧
      t.rf.main = s.rf.main) ∧
  (∀ (d : BitVec 7) (s : State), s.pins.porstN = true → ∃ t, exec (.entdaa d) s = .next t ∧ t.pins.i3cDyn = some d ∧ t.rf = s.rf ∧
    t.out = s.out ++ [.i3cData (leBytes 4 (Config.serial.toNat % 2 ^ 32))] ∧ t.mem = s.mem) ∧
  (∀ (o v : Word) (n : Nat) (d : BitVec 7) (s : State), s.pins.porstN = false → exec (.i3cSetAddress o) s = .next s ∧
    exec (.i3cWrite o v) s = .next s ∧ exec (.i3cRead n) s = .next s ∧ exec (.entdaa d) s = .next s)

/-! ## Queues and commands -/

/-- A write of CMD_Qn_CTRL sets STOP, and ENABLE once the part is READY, before which it stays 0; LOG2_SLOTS changes, within 6 to 16, only on a
disabled queue; the array mask keeps only arrays the queue may hold; no memory and no queue changes. With ABORT set the queue is then aborted. An
abort of a queue with nothing running empties it: HEAD becomes TAIL, ABORTED is set and ENABLE cleared. With commands running the queue keeps those
and the completed ones, and every running pre-emptible one that has not ended its operation is told to stop with CMD_ABORTED. An abort changes no
lock. -/
def Obligations.QueueControl : Prop :=
  (∀ (p : Part) (q : QueueId) (v : Word) (s : State), ∃ u : State,
    exec (.queueCtrlWrite p q v) s = .next (if wGet v 2 2 = 1 then u.queueAbort p.val q.val else u) ∧
    u.fget Fld.CMD_Qn_CTRL_STOP q.val p.val = wGet v 1 1 ∧
    u.fget Fld.CMD_Qn_CTRL_ENABLE q.val p.val = (if s.ready then wGet v 0 0 else 0) ∧
    u.fget Fld.CMD_Qn_CTRL_LOG2_SLOTS q.val p.val =
      (if s.qDisabled p.val q.val then max 6 (min 16 (wGet v 8 4)) else s.fget Fld.CMD_Qn_CTRL_LOG2_SLOTS q.val p.val) ∧
    wGet (u.rd .CMD_Qn_CTRL q.val p.val) 23 16 = s.maskOk p.val (wGet v 23 16) % 256 ∧ u.mem = s.mem ∧ u.queues = s.queues ∧
    KeepsRegs s u (fun r => r == .CMD_Qn_CTRL || r == .CMD_Qn_STATUS || r == .BLK_ERR || r == .GLB_CLAMP_HEAD)) ∧
  (∀ (p : Part) (q : QueueId) (s : State), s.qRunning p.val q.val = false → ∃ t, exec (.queueAbort p q) s = .next t ∧
    t.queue p.val q.val = { cmds := [], aborting := false } ∧ t.rd .CMD_Qn_HEAD q.val p.val = s.rd .CMD_Qn_TAIL q.val p.val ∧
    t.fget Fld.CMD_Qn_STATUS_ABORTED q.val p.val = 1 ∧ t.fget Fld.CMD_Qn_CTRL_ENABLE q.val p.val = 0 ∧
    ∀ k < 4096, t.lock p.val k = s.lock p.val k) ∧
  (∀ (p : Part) (q : QueueId) (s : State), s.qRunning p.val q.val = true → ∃ t, exec (.queueAbort p q) s = .next t ∧
    (t.queue p.val q.val).aborting = true ∧
    (t.queue p.val q.val).cmds = ((s.queue p.val q.val).cmds.filter (fun c => c.phase == .running || c.phase == .done)).map (fun c =>
      if c.phase = .running ∧ preemptible (cOpcode c) = true ∧ c.finished = false then { c with stop := 0x0207 } else c) ∧
    ∀ k < 4096, t.lock p.val k = s.lock p.val k)

/-- When a command ends, it and the commands of its queue that have ended before it leave the queue as far as they stand at its front, and HEAD
passes their slots. Its signal is applied only with CMD_OK, and adds SIG_ADD with saturation; a failure other than CMD_ABORTED sets CMD_FAILED; its
energy is counted for its queue; memory changes only as writing its STATUS changes it. At CMD_WAIT_EXPIRED the command at the front ends so, with
CMD_WAIT_EXPIRED, while a wait is unmet or its epoch lies ahead; where a limit of 0, a held queue, no such command, the order condition or an
unreadable slot rules that out, nothing ends. At COMMAND_COMPLETE a command that has ended its operation ends with its status, and one that is to stop
does so once none of its tiles is in flight; every other command goes on. -/
def Obligations.CommandEnds : Prop :=
  (∀ (p : Part) (q : QueueId) (c : Cmd) (st e : Nat) (s : State), (s.queue p.val q.val).aborting = false →
    let t := s.complete p q.val c st e
    let ds := (s.queue p.val q.val).cmds.map (fun d => if d.slot = c.slot then { c with phase := .done, finished := true, fail := st } else d)
    t.qHead p.val q.val = (s.qHead p.val q.val + ((ds.takeWhile (fun d => d.phase == .done)).map (·.nslots)).sum) % 2 ^ 32 ∧
    (t.queue p.val q.val).cmds = ds.dropWhile (fun d => d.phase == .done) ∧
    (∀ k < 4096, t.lock p.val k = if st = 0 ∧ cSigEn c = true ∧ k = cSigLock c % 4096
      then min (2 ^ 32 - 1) (s.lock p.val k + cSigAdd c) else s.lock p.val k) ∧
    (st ≠ 0 → st ≠ 0x0207 → t.fget Fld.CMD_Qn_STATUS_CMD_FAILED q.val p.val = 1) ∧
    t.rd64 .PWR_Qn_E_LO .PWR_Qn_E_HI q.val p.val = (s.rd64 .PWR_Qn_E_LO .PWR_Qn_E_HI q.val p.val + e) % 2 ^ 64 ∧
    t.mem = (if c.firstOk then s.putStatus p.val q.val c.slot st else s).mem) ∧
  (∀ (p : Part) (q : QueueId) (s : State), s.qStarts p.val q.val = false ∨ s.fget Fld.CMD_Qn_WAIT_LIMIT_LIMIT_MS q.val p.val = 0 →
    exec (.cmdWaitExpired p q) s = .next s) ∧
  (∀ (p : Part) (q : QueueId) (s : State), s.qStarts p.val q.val = true → s.fget Fld.CMD_Qn_WAIT_LIMIT_LIMIT_MS q.val p.val ≠ 0 →
    let s1 := s.fetchNext p.val q.val
    (s1.front p.val q.val = none → exec (.cmdWaitExpired p q) s = .next s1) ∧
    ∀ c, s1.front p.val q.val = some c →
      let d := s1.latchWaits p.val c
      let ahead := cEpochChk c = true ∧ s1.epoch (cGroup c) < cEpoch c
      (s1.orderMet p.val q.val c = false ∨ c.firstOk = false → exec (.cmdWaitExpired p q) s = .next s1) ∧
      (s1.orderMet p.val q.val c = true → c.firstOk = true → d.w0 = false ∨ d.w1 = false ∨ ahead →
        exec (.cmdWaitExpired p q) s = .next (s1.complete p q.val d 0x0206 0)) ∧
      (s1.orderMet p.val q.val c = true → c.firstOk = true → d.w0 = true → d.w1 = true → ¬ ahead →
        exec (.cmdWaitExpired p q) s = .next (s1.setCmd p.val q.val d))) ∧
  (∀ (r : CmdRef) (c : Cmd) (e : Nat) (s : State), s.live = true → s.cmdAt r.part.val r.queue.val r.slot = some c → c.phase = .running →
    c.finished = true → (s.queue r.part.val r.queue.val).aborting = false → ∃ u : State,
    let ds := (s.queue r.part.val r.queue.val).cmds.map (fun d =>
      if d.slot = c.slot then { c with phase := .done, finished := true, fail := s.endStatus c } else d)
    let v := if cOpcode c = 0x32 ∧ c.fail = 0 then u.updated r.part r.queue.val c.slot (cGroup c) (cStep c) else u
    exec (.commandComplete r e) s = .next ((if (cOpcode c = 0x32 ∨ cOpcode c = 0x60) ∧ c.fail = 0 then v.doneTry r.part else v).tierDemand r.part) ∧
    (u.queue r.part.val r.queue.val).cmds = ds.dropWhile (fun d => d.phase == .done) ∧
    u.qHead r.part.val r.queue.val =
      (s.qHead r.part.val r.queue.val + ((ds.takeWhile (fun d => d.phase == .done)).map (·.nslots)).sum) % 2 ^ 32 ∧
    ∀ k < 4096, u.lock r.part.val k = if s.endStatus c = 0 ∧ cSigEn c = true ∧ k = cSigLock c % 4096
      then min (2 ^ 32 - 1) (s.lock r.part.val k + cSigAdd c) else s.lock r.part.val k) ∧
  (∀ (r : CmdRef) (c : Cmd) (e : Nat) (s : State), s.live = true → s.cmdAt r.part.val r.queue.val r.slot = some c → c.phase = .running →
    c.finished = false → c.stop ≠ 0 → s.inTile r = false → ∃ u : State, exec (.commandComplete r e) s = .next (u.tierDemand r.part) ∧
      (∀ k < 4096, u.lock r.part.val k = s.lock r.part.val k) ∧ u.cmdAt r.part.val r.queue.val r.slot ≠ some c) ∧
  (∀ (r : CmdRef) (e : Nat) (s : State), s.live = false ∨ s.cmdAt r.part.val r.queue.val r.slot = none ∨
    (∃ c, s.cmdAt r.part.val r.queue.val r.slot = some c ∧ (c.phase ≠ .running ∨ (c.finished = false ∧ (c.stop = 0 ∨ s.inTile r = true)))) →
    exec (.commandComplete r e) s = .next s)

/-- A queue that is disabled, stopped or aborting, or a part that is not READY, starts nothing. A DECODE noted by the CLOSE of its stream ends with
ING_STATE. Else the command at the front waits for the order condition; an unreadable first slot ends it with the reason; it waits while a wait is
unmet or its epoch lies ahead, and ends with CMD_STALE_EPOCH where its epoch is behind. Then it is checked: a failed check ends it with that status;
else it starts, at once without an energy allowance; with one when the balance covers its hint and no queue comes first, which the balance then pays;
otherwise it waits for admission, under which the same holds. -/
def Obligations.CommandStarts : Prop :=
  (∀ (p : Part) (q : QueueId) (s : State), s.qStarts p.val q.val = false →
    exec (.commandStart p q) s = .next s ∧ exec (.energyAdmission p q) s = .next s) ∧
  (∀ (p : Part) (q : QueueId) (s : State), s.qStarts p.val q.val = true →
    let s1 := s.fetchNext p.val q.val
    (s1.front p.val q.val = none → exec (.commandStart p q) s = .next s1) ∧
    ∀ c, s1.front p.val q.val = some c →
      let d := s1.latchWaits p.val c
      let s2 := s1.setCmd p.val q.val d
      let x := s2.step4 p q.val d
      (s1.closedFor p.val q.val c = true → exec (.commandStart p q) s = .next (s1.complete p q.val c 0x0802 0)) ∧
      (s1.closedFor p.val q.val c = false → s1.orderMet p.val q.val c = false → exec (.commandStart p q) s = .next s1) ∧
      (s1.closedFor p.val q.val c = false → s1.orderMet p.val q.val c = true → c.firstOk = false →
        exec (.commandStart p q) s = .next (s1.complete p q.val c c.readable 0)) ∧
      (s1.closedFor p.val q.val c = false → s1.orderMet p.val q.val c = true → c.firstOk = true →
        (d.w0 = false ∨ d.w1 = false ∨ (cEpochChk c = true ∧ s2.epoch (cGroup c) < cEpoch c) → exec (.commandStart p q) s = .next s2) ∧
        (d.w0 = true → d.w1 = true → (cEpochChk c = true → cEpoch c ≤ s2.epoch (cGroup c)) →
          (s2.staleNow d = true → exec (.commandStart p q) s = .next (s2.complete p q.val d 0x0205 0)) ∧
          (s2.staleNow d = false → x.2.1 ≠ 0 → exec (.commandStart p q) s = .next (x.1.complete p q.val x.2.2 x.2.1 0)) ∧
          (s2.staleNow d = false → x.2.1 = 0 →
            (x.1.allowW p.val = 0 ∨ ((x.1.hPrime p.val x.2.2 : Int) ≤ vget x.1.pwr.bal p ∧ x.1.admissionBefore p q.val = false) →
              ∃ t e, exec (.commandStart p q) s = .next t ∧ t.cmdAt p.val q.val c.slot = some e ∧ e.phase = .running ∧
                vget t.pwr.bal p = if x.1.allowW p.val = 0 then vget x.1.pwr.bal p else vget x.1.pwr.bal p - x.1.hPrime p.val x.2.2) ∧
            (x.1.allowW p.val ≠ 0 → vget x.1.pwr.bal p < x.1.hPrime p.val x.2.2 ∨ x.1.admissionBefore p q.val = true →
              exec (.commandStart p q) s = .next (x.1.setCmd p.val q.val { x.2.2 with phase := .admitting })))))) ∧
  (∀ (p : Part) (q : QueueId) (s : State), s.qStarts p.val q.val = true →
    ((s.queue p.val q.val).cmds.find? (fun x => x.phase == .admitting) = none → exec (.energyAdmission p q) s = .next s) ∧
    ∀ c, (s.queue p.val q.val).cmds.find? (fun x => x.phase == .admitting) = some c →
      (s.allowW p.val = 0 ∨ ((s.hPrime p.val c : Int) ≤ vget s.pwr.bal p ∧ s.admissionBefore p q.val = false) →
        ∃ t e, exec (.energyAdmission p q) s = .next t ∧ t.cmdAt p.val q.val c.slot = some e ∧ e.phase = .running ∧
          vget t.pwr.bal p = if s.allowW p.val = 0 then vget s.pwr.bal p else vget s.pwr.bal p - s.hPrime p.val c) ∧
      (s.allowW p.val ≠ 0 → vget s.pwr.bal p < s.hPrime p.val c ∨ s.admissionBefore p q.val = true →
        exec (.energyAdmission p q) s = .next (s.setCmd p.val q.val c)))

/-- NOP ends with CMD_OK and changes nothing else. LOCK_SET sets the lock that OPARG names to SIG_ADD, a write of CMD_LOCK_SET sets its lock to the
value written; neither changes another register or memory. Where no such command runs, NOP and LOCK_SET do nothing. -/
def Obligations.PlainCommands : Prop :=
  (∀ (c : CmdRef) (d : Cmd) (s : State), s.running c 0 = some d → ∃ t, exec (.nop c) s = .next t ∧ CmdEnded t c 0 ∧
    t = { s with queues := t.queues }) ∧
  (∀ (c : CmdRef) (d : Cmd) (s : State), s.running c 1 = some d → ∃ t, exec (.lockSet c) s = .next t ∧ CmdEnded t c 0 ∧
    t.lock c.part.val (cOparg d % 4096) = cSigAdd d ∧ t.mem = s.mem ∧
    ∀ r i a, regKey r i a ≠ regKey .CMD_LOCK_VAL_k (cOparg d % 4096) c.part.val → t.rd r i a = s.rd r i a) ∧
  (∀ (c : CmdRef) (s : State), s.running c 0 = none → exec (.nop c) s = .next s) ∧
  (∀ (c : CmdRef) (s : State), s.running c 1 = none → exec (.lockSet c) s = .next s) ∧
  (∀ (p : Part) (k : Fin 4096) (v : Word) (s : State), ∃ t, exec (.cmdLockSet p k v) s = .next t ∧ t.lock p.val k.val = v.toNat ∧
    OnlyRegs s t [regKey .CMD_LOCK_VAL_k k.val p.val])

/-! ## Memory tiers -/

/-- LOAD of a table in the partition's T1 sets LOADED when every object is in HOME without references; a table that lies elsewhere is not loaded. SYNC
of such an object reads its entry: a legal one that overlaps no valid object becomes valid with the fields of its 64 bytes, any other is invalid and
OBJ_BAD is set; an id beyond the table is not read. With an object in use both only set SYNC_BUSY. REPAIR of an object that is not under migration
takes every page of its range from the poison list and clears its poison; of one that is, it only sets SYNC_BUSY. Host requests that waited for the
object follow a REPAIR. No byte of memory changes by these. -/
def Obligations.ObjectTable : Prop :=
  (∀ (p : Part) (s : State), (vget s.tier p).objs.all (fun e => s.objIdle p e.2) = true → s.objtOwned p = true →
    ∃ t, exec (.tierObjtLoad p) s = .next t ∧ t.fget Fld.TIER_OBJT_CTRL_LOADED 0 p.val = 1 ∧ KeepsMem s t) ∧
  (∀ (p : Part) (s : State), (vget s.tier p).objs.all (fun e => s.objIdle p e.2) = true → s.objtOwned p = false →
    exec (.tierObjtLoad p) s = .next s) ∧
  (∀ (p : Part) (s : State), (vget s.tier p).objs.all (fun e => s.objIdle p e.2) = false → ∃ t, exec (.tierObjtLoad p) s = .next t ∧
    t.fget Fld.TIER_STATUS_SYNC_BUSY 0 p.val = 1 ∧ OnlyRegs s t [regKey .TIER_STATUS 0 p.val]) ∧
  (∀ (p : Part) (id : Nat) (s : State), (∀ o, s.obj p id = some o → s.objIdle p o = true) → id < s.objCount p → s.objtOwned p = true →
    let x := s.readAs p.val (s.objAddr p id) 64
    let overlap := (vget s.tier p).objs.any (fun e => e.1 != id && e.2.valid && rangesMeet e.2.range (parseObj x.1.1).range)
    ∃ t o, exec (.tierObjSync p id) s = .next t ∧ t.obj p id = some o ∧ o.home = fieldAt x.1.1 0 8 ∧ o.size = fieldAt x.1.1 8 8 ∧ o.state = 0 ∧
      (o.valid = true ↔ x.1.2 = false ∧ x.2.entryBad p x.1.1 = none ∧ overlap = false) ∧
      (o.valid = false → t.fget Fld.TIER_STATUS_OBJ_BAD 0 p.val = 1) ∧ KeepsMem s t ∧
      KeepsRegs s t (fun r => hbmLoud r || r == .TIER_STATUS)) ∧
  (∀ (p : Part) (id : Nat) (s : State), (∀ o, s.obj p id = some o → s.objIdle p o = true) → s.objCount p ≤ id ∨ s.objtOwned p = false →
    exec (.tierObjSync p id) s = .next s) ∧
  (∀ (p : Part) (id : Nat) (o : TierObj) (s : State), s.obj p id = some o → s.objIdle p o = false → ∃ t, exec (.tierObjSync p id) s = .next t ∧
    t.fget Fld.TIER_STATUS_SYNC_BUSY 0 p.val = 1 ∧ OnlyRegs s t [regKey .TIER_STATUS 0 p.val]) ∧
  (∀ (p : Part) (id : Nat) (o : TierObj) (s : State), s.obj p id = some o → o.state = 0 ∨ o.state = 2 ∨ o.state = 5 →
    ∃ (u : State) (o' : TierObj), exec (.tierRepair p id) s = .next u.drainHost ∧ (u.eut.waiting = [] → u.drainHost = u) ∧ u.obj p id = some o' ∧
      o'.poison = false ∧ o'.allBad = false ∧ KeepsMem s u ∧
      ∀ g ∈ u.mem.t2Poison, g ∈ s.mem.t2Poison ∧ rangesMeet (g * 4096, g * 4096 + 4096) o.range = false) ∧
  (∀ (p : Part) (id : Nat) (s : State), s.obj p id = none → ∃ u : State, exec (.tierRepair p id) s = .next u.drainHost ∧ KeepsMem s u ∧
    ∀ g ∈ u.mem.t2Poison, g ∈ s.mem.t2Poison) ∧
  (∀ (p : Part) (id : Nat) (o : TierObj) (s : State), s.obj p id = some o → o.state = 1 ∨ o.state = 3 ∨ o.state = 4 →
    ∃ u : State, exec (.tierRepair p id) s = .next u.drainHost ∧ u.fget Fld.TIER_STATUS_SYNC_BUSY 0 p.val = 1 ∧
      OnlyRegs s u [regKey .TIER_STATUS 0 p.val])

/-- PREFETCH of an object already at its target level ends with CMD_OK, of a BROKEN one with TIER_UE, of none with TIER_BAD_OBJ; of another, where
there is room, it makes the object PROMOTING with its copy at the room found, and from a T2 home the transfer starts. Where there is none, one object
at most is evicted. The next entry of a schedule whose trigger is met, within LOOKAHEAD, starts so too; of a BROKEN object it ends the PREFETCH with
TIER_UE; before its trigger nothing starts. When the copy from T1 to T0 is complete the object is RESIDENT at T0 and the copy's bytes are those of its
source. A demand promotion that waits without room for SPACE_MS sets SPACE_STALL, once. -/
def Obligations.Promotions : Prop :=
  (∀ (c : CmdRef) (d : Cmd) (o : TierObj) (s : State), s.running c 0x11 = some d → bitOf (cOparg d) 31 = false →
    s.obj c.part (cOparg d % 65536) = some o → o.state ≠ 5 → o.atLeast (cOparg d / 2 ^ 16 % 4 + 1) = true →
    ∃ t, exec (.prefetch c) s = .next t ∧ CmdEnded t c 0 ∧ t = { s with queues := t.queues }) ∧
  (∀ (c : CmdRef) (d : Cmd) (s : State), s.running c 0x11 = some d → bitOf (cOparg d) 31 = false →
    (∀ o, s.obj c.part (cOparg d % 65536) = some o → o.state = 5) → ∃ t, exec (.prefetch c) s = .next t ∧
    CmdEnded t c (if (s.obj c.part (cOparg d % 65536)).isSome then 0x0601 else 0x0604)) ∧
  (∀ (c : CmdRef) (d : Cmd) (o : TierObj) (a : Nat) (s : State), s.running c 0x11 = some d → bitOf (cOparg d) 31 = false →
    s.obj c.part (cOparg d % 65536) = some o → o.valid = true → o.state = 0 ∨ o.state = 2 → isT2 o.home = false ∨ o.t1.isSome = true →
    o.atLeast (cOparg d / 2 ^ 16 % 4 + 1) = false → cOparg d / 2 ^ 16 % 4 = 1 →
    s.findRoom c.part 2 (bitsOf (cOparg d) 21 18) o.bytes = some a → ∃ t, exec (.prefetch c) s = .next t ∧
      t.obj c.part (cOparg d % 65536) =
        some { o with state := 1, target := 2, tslice := bitsOf (cOparg d) 21 18, t0 := some a, stalled := false } ∧ t.mem = s.mem ∧ t.rf = s.rf) ∧
  (∀ (c : CmdRef) (d : Cmd) (o : TierObj) (a : Nat) (s : State), s.running c 0x11 = some d → bitOf (cOparg d) 31 = false →
    s.obj c.part (cOparg d % 65536) = some o → o.valid = true → o.state = 0 → isT2 o.home = true → o.t1 = none → o.home % 4096 = 0 → 0 < o.size →
    o.allBad = false → s.mem.t2Poison = [] → (vget s.tier c.part).fetches = [] → s.tagFree (subWindow o.home) = true →
    cOparg d / 2 ^ 16 % 4 = 0 → s.findRoom c.part 1 (bitsOf (cOparg d) 21 18) o.bytes = some a →
    ∃ t f, exec (.prefetch c) s = .next t ∧
      t.obj c.part (cOparg d % 65536) =
        some { o with state := 1, target := 1, tslice := bitsOf (cOparg d) 21 18, t1 := some a, stalled := false } ∧
      (vget t.tier c.part).fetches = [f] ∧ f.obj = some (cOparg d % 65536) ∧ f.base = o.home ∧ f.dest = a ∧ f.tag.isSome = true ∧ t.mem = s.mem) ∧
  (∀ (c : CmdRef) (d : Cmd) (o : TierObj) (s : State), s.running c 0x11 = some d → bitOf (cOparg d) 31 = false →
    s.obj c.part (cOparg d % 65536) = some o → o.valid = true → o.state = 0 ∨ o.state = 2 → o.atLeast (cOparg d / 2 ^ 16 % 4 + 1) = false →
    s.findRoom c.part (cOparg d / 2 ^ 16 % 4 + 1) (bitsOf (cOparg d) 21 18) o.bytes = none →
    exec (.prefetch c) s = .next ((s.setCmd c.part.val c.queue.val { d with pieces := 1 }).autoEvict c.part (cOparg d / 2 ^ 16 % 4 + 1)
      (bitsOf (cOparg d) 21 18))) ∧
  (∀ (c : CmdRef) (x : Sched) (e : List Byte) (o : TierObj) (a : Nat) (s : State), s.live = true →
    let s1 := s.schedPoll c.part c
    (vget s1.tier c.part).scheds = [x] → x.ref = c → x.entries[x.next]? = some e → s1.entryGo c.part x e = true →
    s1.obj c.part (entObj e) = some o → o.valid = true → o.state = 0 → isT2 o.home = false → entTarget e = 2 →
    s1.findRoom c.part 2 (entSlice e) o.bytes = some a → ∃ t o', exec (.scheduleEntryStart c) s = .next t ∧
      t.obj c.part (entObj e) = some o' ∧ o'.state = 1 ∧ o'.target = 2 ∧ o'.t0 = some a ∧
      ∀ y ∈ (vget t.tier c.part).scheds, y.ref = c ∧ x.next + 1 ≤ y.next) ∧
  (∀ (c : CmdRef) (x : Sched) (e : List Byte) (o : TierObj) (d : Cmd) (s : State), s.live = true →
    let s1 := s.schedPoll c.part c
    (vget s1.tier c.part).scheds = [x] → x.ref = c → x.entries[x.next]? = some e → s1.entryGo c.part x e = true →
    s1.obj c.part (entObj e) = some o → o.state = 5 → s1.cmdAt c.part.val c.queue.val c.slot = some d →
    ∃ t, exec (.scheduleEntryStart c) s = .next t ∧ CmdEnded t c 0x0601 ∧ t.mem = s1.mem) ∧
  (∀ (c : CmdRef) (x : Sched) (s : State), s.live = true →
    let s1 := s.schedPoll c.part c
    (vget s1.tier c.part).scheds = [x] → x.ref = c → (∀ e, x.entries[x.next]? = some e → s1.entryGo c.part x e = false) →
    exec (.scheduleEntryStart c) s = .next s1) ∧
  (∀ (p : Part) (id b : Nat) (o : TierObj) (s : State), s.obj p id = some o → o.state = 1 → o.target = 2 → o.t0 = some b → b + o.bytes ≤ t2Base →
    (vget s.tier p).fetches = [] → (vget s.tier p).scheds = [] →
    let x := (s.grant p.val (o.t1.getD o.home) o.bytes).readPhys (o.t1.getD o.home) o.bytes
    x.1.2 = false → (x.2.writePhys b x.1.1).2 = 0 →
    ∃ (u : State) (o' : TierObj), exec (.promotionComplete p id) s = .next u.drainHost ∧ (u.eut.waiting = [] → u.drainHost = u) ∧
      u.obj p id = some o' ∧ o'.state = 2 ∧ o'.level = 2 ∧ o'.slice = o.tslice ∧ o'.t0 = some b ∧
      (∀ i < o.bytes, u.cell (b + i) = s.cell (o.t1.getD o.home + i)) ∧ ∀ y, (y < b ∨ b + o.bytes ≤ y) → u.cell y = s.cell y) ∧
  (∀ (p : Part) (id : Nat) (s : State), (∀ o, s.obj p id = some o → o.state ≠ 1) → exec (.promotionComplete p id) s = .next s.drainHost) ∧
  (∀ (p : Part) (id : Nat) (o : TierObj) (s : State), s.obj p id = some o → o.valid = true → o.state = 0 ∨ o.state = 2 → o.stalled = false →
    s.demanded p o = true → (vget s.tier p).scheds = [] → (∀ q < 64, ∀ c ∈ (s.queue p.val q).cmds, cOpcode c ≠ 0x11) →
    s.findRoom p 1 0 o.bytes = none → ∃ t, exec (.tierSpaceStall p id) s = .next t ∧ t.obj p id = some { o with stalled := true } ∧
      t.fget Fld.TIER_STATUS_SPACE_STALL 0 p.val = 1 ∧ t.mem = s.mem ∧ KeepsRegs s t (· == .TIER_STATUS)) ∧
  (∀ (p : Part) (id : Nat) (s : State), (∀ o, s.obj p id = some o → o.stalled = true ∨ o.valid = false) →
    exec (.tierSpaceStall p id) s = .next s)

/-- EVICT of an object in HOME ends at once, of a BROKEN one with TIER_UE, of none with TIER_BAD_OBJ; of a RESIDENT object without references it starts
the eviction, with what is held; of one in use or under promotion it is held and DEFERRED is set; it waits where eight are held or an eviction runs.
Held evictions are served by one when the object is RESIDENT without references, and wait until then. When an eviction ends the copies are released,
but for a T1 copy kept by request, and a mutable T0 copy whose changes were not to be discarded has been written back to the home; host requests that
waited for it follow. -/
def Obligations.Evictions : Prop :=
  (∀ (c : CmdRef) (d : Cmd) (o : TierObj) (s : State), s.running c 0x12 = some d → d.pieces ≠ 1 →
    s.obj c.part (cOparg d % 65536) = some o → o.state = 0 → ∃ t st, exec (.evict c) s = .next t ∧ CmdEnded t c st ∧
    ((d.desc 0).rank = 0 → st = 0 ∧ t = { s with queues := t.queues })) ∧
  (∀ (c : CmdRef) (d : Cmd) (s : State), s.running c 0x12 = some d → d.pieces ≠ 1 →
    (∀ o, s.obj c.part (cOparg d % 65536) = some o → o.state = 5) → ∃ t, exec (.evict c) s = .next t ∧
    CmdEnded t c (if (s.obj c.part (cOparg d % 65536)).isSome then 0x0601 else 0x0604) ∧ t = { s with queues := t.queues }) ∧
  (∀ (c : CmdRef) (d : Cmd) (o : TierObj) (s : State), s.running c 0x12 = some d → d.pieces ≠ 1 →
    s.obj c.part (cOparg d % 65536) = some o → o.state = 2 → (cOparg d / 2 ^ 30 = 1 → o.t0 ≠ none) → s.objRefs c.part o = 0 →
    let rs : List EvictReq := o.pend ++
      [{ lock := if bitOf (cOparg d) 28 then some (bitsOf (cOparg d) 27 16) else none, discard := bitOf (cOparg d) 29, t0Only := cOparg d / 2 ^ 30 == 1 }]
    ∃ t, exec (.evict c) s = .next t ∧
      t.obj c.part (cOparg d % 65536) = some { o with
        state := 3, evict := some { lock := none, discard := rs.all (·.discard), t0Only := rs.all (·.t0Only) }
        freed := rs.filterMap (·.lock), pend := [] } ∧ t.mem = s.mem ∧ t.rf = s.rf) ∧
  (∀ (c : CmdRef) (d : Cmd) (o : TierObj) (s : State), s.running c 0x12 = some d → d.pieces ≠ 1 → (d.desc 0).rank = 0 →
    s.obj c.part (cOparg d % 65536) = some o →
    o.state = 1 ∨ o.state = 4 ∨ (o.state = 2 ∧ (cOparg d / 2 ^ 30 = 1 → o.t0 ≠ none) ∧ s.objRefs c.part o ≠ 0) → o.pend.length < 8 →
    ∃ t o', exec (.evict c) s = .next t ∧ t.obj c.part (cOparg d % 65536) = some o' ∧ o'.pend.length = o.pend.length + 1 ∧ o'.state = o.state ∧
      t.fget Fld.TIER_STATUS_DEFERRED 0 c.part.val = 1 ∧ CmdEnded t c 0 ∧ t.mem = s.mem ∧ KeepsRegs s t (· == .TIER_STATUS)) ∧
  (∀ (c : CmdRef) (d : Cmd) (o : TierObj) (s : State), s.running c 0x12 = some d → s.obj c.part (cOparg d % 65536) = some o →
    d.pieces = 1 ∨ o.state = 3 ∨ ((o.state = 1 ∨ o.state = 4) ∧ 8 ≤ o.pend.length) → exec (.evict c) s = .next s) ∧
  (∀ (p : Part) (id : Nat) (o : TierObj) (s : State), s.obj p id = some o → o.state = 2 → o.pend ≠ [] → s.objRefs p o = 0 →
    ∃ t o', exec (.deferredEviction p id) s = .next t ∧ t.obj p id = some o' ∧ o'.state = 3 ∧ o'.pend = [] ∧
      o'.freed = o.pend.filterMap (·.lock) ∧ t.mem = s.mem ∧ t.rf = s.rf) ∧
  (∀ (p : Part) (id : Nat) (s : State), (∀ o, s.obj p id = some o → o.state ≠ 2 ∨ o.pend = [] ∨ s.objRefs p o ≠ 0) →
    exec (.deferredEviction p id) s = .next s) ∧
  (∀ (p : Part) (id : Nat) (o : TierObj) (r : EvictReq) (s : State), s.obj p id = some o → o.state = 3 → o.evict = some r → s.queues = [] →
    ∃ (u : State) (o' : TierObj), exec (.evictionComplete p id) s = .next u.drainHost ∧ (u.eut.waiting = [] → u.drainHost = u) ∧
      u.obj p id = some o' ∧ o'.t0 = none ∧ o'.t1 = (if r.t0Only then o.t1 else none) ∧ o'.state = (if o'.t1.isSome then 2 else 0) ∧
      (o.ro = true ∨ r.discard = true ∨ o.t0 = none → KeepsMem s u) ∧
      ∀ b, o.t0 = some b → o.ro = false → r.discard = false → o.home + o.bytes ≤ t2Base →
        ((s.grant p.val o.home o.bytes).writePhys o.home (s.cells b o.bytes)).2 = 0 →
        (∀ i < o.bytes, u.cell (o.home + i) = s.cell (b + i)) ∧ ∀ y, (y < o.home ∨ o.home + o.bytes ≤ y) → u.cell y = s.cell y) ∧
  (∀ (p : Part) (id : Nat) (s : State), (∀ o, s.obj p id = some o → o.state ≠ 3) → exec (.evictionComplete p id) s = .next s.drainHost)

/-- A clean page that a T2 read or a peer brings lands where its transfer puts it, and no other byte of T0 or T1 changes; an answer that no transfer
waits for changes nothing; a page that comes poisoned enters the poison list and sets POISON. When the last refetch source has not answered in time
the object is BROKEN and UE is set. Host requests that waited follow. A peer's read of T1 memory outside the partner regions is answered with its
bytes, or with a poison status, and changes no byte; any other is answered with a status alone. -/
def Obligations.Transfers : Prop :=
  (∀ (p : Part) (k : EPort) (f : Fetch) (tag off : Nat) (data : List Byte) (s : State), (vget s.tier p).fetches = [f] →
    (∀ q, q ≠ p → (vget s.tier q).fetches = []) → f.tag = some (k.val, tag % 4096, off, 4096) → f.bad = [] → f.fail = false → f.host = none →
    data.length ≤ 4096 → f.dest + off + data.length ≤ t2Base → ((s.grant p.val (f.dest + off) data.length).writePhys (f.dest + off) data).2 = 0 →
    ∃ u : State, exec (.t2Cpl k tag 0 0 data) s = .next u.drainHost ∧ (u.eut.waiting = [] → u.drainHost = u) ∧
      (∀ i < data.length, u.cell (f.dest + off + i) = data.getD i 0) ∧
      ∀ y, isT2 y = false → (y < f.dest + off ∨ f.dest + off + data.length ≤ y) → u.cell y = s.cell y) ∧
  (∀ (p : Part) (k : EPort) (f : Fetch) (tag off : Nat) (data : List Byte) (s : State), (vget s.tier p).fetches = [f] →
    (∀ q, q ≠ p → (vget s.tier q).fetches = []) → f.tag = some (k.val, tag % 4096, off, 4096) → f.bad = [] → f.fail = false →
    (s.mem.t2Poison.filter (fun g => s.ownsMem p.val (g * 4096) 4096)).length < 4096 →
    ∃ u : State, exec (.t2Cpl k tag 0 1 data) s = .next u.drainHost ∧ NSet.mem u.mem.t2Poison (pageOf (f.base + off)) = true ∧
      u.fget Fld.TIER_STATUS_POISON 0 p.val = 1) ∧
  (∀ (k : EPort) (tag st : Nat) (w : BitVec 16) (data : List Byte) (s : State),
    (∀ (p : Part), ∀ f ∈ (vget s.tier p).fetches, ∀ off n, f.tag ≠ some (k.val, tag % 4096, off, n)) →
    exec (.t2Cpl k tag st w data) s = .next s.drainHost) ∧
  (∀ (h : RouteHdr) (p : Part) (f : Fetch) (tag off : Nat) (data : List Byte) (s : State), (vget s.tier p).fetches = [f] →
    (∀ q, q ≠ p → (vget s.tier q).fetches = []) → f.tag = some (4, tag, off, 4096) → f.bad = [off] → f.fail = false → f.host = none →
    data.length ≤ 4096 → f.dest + off + data.length ≤ t2Base → ((s.grant p.val (f.dest + off) data.length).writePhys (f.dest + off) data).2 = 0 →
    ∃ u : State, exec (.tierPeerData h tag 0 data) s = .next u.drainHost ∧ (u.eut.waiting = [] → u.drainHost = u) ∧
      (∀ i < data.length, u.cell (f.dest + off + i) = data.getD i 0) ∧
      ∀ y, isT2 y = false → (y < f.dest + off ∨ f.dest + off + data.length ≤ y) → u.cell y = s.cell y) ∧
  (∀ (h : RouteHdr) (tag st : Nat) (data : List Byte) (s : State),
    (∀ (p : Part), ∀ f ∈ (vget s.tier p).fetches, ∀ off n, f.tag ≠ some (4, tag, off, n)) →
    exec (.tierPeerData h tag st data) s = .next s.drainHost) ∧
  (∀ (p : Part) (id off k tag : Nat) (f : Fetch) (o : TierObj) (s : State), (vget s.tier p).fetches = [f] → f.obj = some id →
    f.promotes = true → f.tag = some (k, tag, off, 4096) → f.bad = [off] → f.src = 2 → f.fail = false → s.obj p id = some o → o.valid = true →
    ∃ (u : State) (o' : TierObj), exec (.refetchSourceTimeout p id) s = .next u.drainHost ∧ (u.eut.waiting = [] → u.drainHost = u) ∧
      u.obj p id = some o' ∧ o'.state = 5 ∧ o'.t0 = none ∧ o'.t1 = none ∧ u.fget Fld.TIER_STATUS_UE 0 p.val = 1 ∧ u.mem = s.mem) ∧
  (∀ (p : Part) (id : Nat) (s : State), (∀ f ∈ (vget s.tier p).fetches, f.tag = none) →
    exec (.refetchSourceTimeout p id) s = .next s.drainHost) ∧
  (∀ (h : RouteHdr) (tag addr len : Nat) (s : State), isHbm addr = true → addr + len ≤ hbmEnd → 1 ≤ len → len ≤ 65536 →
    s.inPartner (addr, addr + len) = false →
    let x := s.readPhys addr len
    ∃ t, exec (.tierPeerRead h tag addr len) s = .next t ∧ KeepsMem s t ∧
      t = (x.2.sendRouted 0xFF 0x21 h.src (leBytes 2 tag ++ [if x.1.2 then 1 else 0, 0] ++ leBytes 4 len ++ leBytes 8 addr ++
        (if x.1.2 then [] else x.1.1))).1) ∧
  (∀ (h : RouteHdr) (tag addr len : Nat) (s : State), isHbm addr = false ∨ hbmEnd < addr + len ∨ len = 0 ∨ 65536 < len ∨
    s.inPartner (addr, addr + len) = true → ∃ t, exec (.tierPeerRead h tag addr len) s = .next t ∧ t.mem = s.mem ∧
      t = (s.sendRouted 0xFF 0x21 h.src (leBytes 2 tag ++ [2, 0] ++ leBytes 4 len ++ leBytes 8 addr)).1)

/-- A COPY first brings the T2 bytes of its source, and ends once they have arrived, with CMD_OK or the status of what failed; it does nothing where it
does not run. Between two rank-1 tensors of INT16 in scratchpad, in a state that knows no error, it ends with CMD_OK, makes the destination's bytes
those of the source and changes no other byte. -/
def Obligations.Copies : Prop :=
  (∀ (c : CmdRef) (d : Cmd) (s : State), s.running c 0x10 = some d →
    let x := s.t2Stage c ([((d.desc 0).base, (d.desc 0).extent)] ++
      (if isMx (d.desc 0).dtype then [((d.desc 0).scale, (d.desc 0).scaleCount)] else []))
    (x.2 = true → ∃ t st, exec (.copy c) s = .next t ∧ CmdEnded t c st) ∧ (x.2 = false → exec (.copy c) s = .next x.1)) ∧
  (∀ (c : CmdRef) (s : State), s.running c 0x10 = none → exec (.copy c) s = .next s) ∧
  (∀ (c : CmdRef) (d : Cmd) (n : Nat) (s : State), s.running c 0x10 = some d → (d.desc 0).dtype = 0x0E → (d.desc 1).dtype = 0x0E →
    (d.desc 0).rank = 1 → (d.desc 1).rank = 1 → (d.desc 0).dims = [n, 1, 1, 1] → (d.desc 1).dims = [n, 1, 1, 1] → 0 < n →
    s.tier = State.reset.tier → (d.desc 0).base + 2 * n ≤ t0End → (d.desc 1).base + 2 * n ≤ t0End →
    s.mem.poison = [] → s.mem.errs = [] → ∃ t, exec (.copy c) s = .next t ∧ CmdEnded t c 0 ∧
      (∀ i < 2 * n, t.cell ((d.desc 1).base + i) = s.cell ((d.desc 0).base + i)) ∧
      ∀ y, (y < (d.desc 1).base ∨ (d.desc 1).base + 2 * n ≤ y) → t.cell y = s.cell y)

/-! ## Matrix arrays -/

/-- MATMUL and EWMUL start their product where a piece is available, and fail with ARR_NO_PIECE without one; a product that has started, or a command
that does not run, changes nothing. The next tile of a product issues on a free and available piece of its mask when its region is free, no third
output tile is reserved there, its panels find room and, for the last tile of an output tile, a drain credit is free: it carries the 16 bytes of
its instruction, its results are computed from its panels, its group is busy, and only bytes of the panel block change. A poisoned operand fails the
command with HBM_UE, a queue without an available piece with ARR_NO_PIECE; otherwise the piece stays idle. -/
def Obligations.ProductsIssue : Prop :=
  (∀ (c : CmdRef) (d : Cmd) (s : State) (ew : Bool), s.running c (if ew then 0x21 else 0x20) = some d → s.job c = none →
    s.anyPiece c.part.val c.queue.val = true →
    ∃ t, exec (if ew then .ewmul c else .matmul c) s = .next t ∧ t.job c = some { ref := c, grps := [], drained := 0 } ∧
      t = { s with arr := t.arr } ∧ t.arr.tiles = s.arr.tiles) ∧
  (∀ (c : CmdRef) (d : Cmd) (s : State) (ew : Bool), s.running c (if ew then 0x21 else 0x20) = some d → s.job c = none →
    s.anyPiece c.part.val c.queue.val = false → ∃ t, exec (if ew then .ewmul c else .matmul c) s = .next t ∧ CmdEnded t c 0x0304 ∧
    t = { s with queues := t.queues }) ∧
  (∀ (c : CmdRef) (s : State) (ew : Bool), s.running c (if ew then 0x21 else 0x20) = none ∨ s.job c ≠ none →
    exec (if ew then .ewmul c else .matmul c) s = .next s) ∧
  (∀ (c : CmdRef) (d : Cmd) (j : Job) (a : Quad) (piece region grp base : Nat) (g : Grp) (s : State) (ew : Bool),
    s.running c (if ew then 0x21 else 0x20) = some d → s.job c = some j →
    let n := s.leadOf a.val
    let p := planOf d (s.queueCut c.part.val c.queue.val)
    let place := p.place grp
    let reads := (tileReads d p grp g.done).filter (fun x => !s.inPlace n x.1)
    let len := reads.foldl (fun t x => t + x.2) 0
    let y := s.stagePanels c.part.val n base reads
    s.anyPiece c.part.val c.queue.val = true → s.pieceTakes c n piece = true → s.nextGrp j p n = some grp →
    p.final grp (j.doneOf grp) = false ∨ s.creditFree (drainDest (d.desc 2)) = true →
    (Sparse.find j.grps grp = some g ∧ g.array = n) ∨
      (Sparse.find j.grps grp = none ∧ s.regionFree n region g.units = true ∧ s.reserved n piece < 2 ∧
        g = { array := n, piece := piece, region := region, units := p.units (p.block place.2.1 place.2.2.1).2.1, tiles := p.groupTiles grp,
              done := 0, busy := false }) →
    s.panelRoom n len = some base →
    (y.2.2 = false → ∃ t u, exec (.tileIssue c a piece region) s = .next t ∧ t.arr.tiles = s.arr.tiles ++ [u] ∧ u.array = n ∧ u.piece = piece ∧
      u.ref = c ∧ u.grp = grp ∧ u.idx = g.done ∧ u.retried = false ∧ u.instr = tileBytes d p grp piece g.region g.done ∧
      u.results = (y.1.tileCompute d p grp g g.done (y.1.panelByte n y.2.1)).1 ∧
      t.job c = some { j with grps := Sparse.insert j.grps grp { g with busy := true } } ∧ t.queues = s.queues ∧
      (∀ x, x < base ∨ base + len ≤ x → t.cell x = s.cell x) ∧ KeepsRegs s t (fun r => hbmLoud r || r == .NUM_ARITH_STATUS)) ∧
    (y.2.2 = true → ∃ t, exec (.tileIssue c a piece region) s = .next t ∧ CmdEnded t c 0x0701 ∧ t.job c = none)) ∧
  (∀ (c : CmdRef) (d : Cmd) (j : Job) (a : Quad) (piece region : Nat) (s : State) (ew : Bool),
    s.running c (if ew then 0x21 else 0x20) = some d → s.job c = some j → s.anyPiece c.part.val c.queue.val = false →
    ∃ t, exec (.tileIssue c a piece region) s = .next t ∧ CmdEnded t c 0x0304 ∧ t.job c = none) ∧
  (∀ (c : CmdRef) (d : Cmd) (j : Job) (a : Quad) (piece region : Nat) (s : State) (ew : Bool),
    s.running c (if ew then 0x21 else 0x20) = some d → s.job c = some j → s.anyPiece c.part.val c.queue.val = true →
    let n := s.leadOf a.val
    let p := planOf d (s.queueCut c.part.val c.queue.val)
    s.pieceTakes c n piece = false ∨ s.nextGrp j p n = none ∨ (∃ grp, s.nextGrp j p n = some grp ∧ p.final grp (j.doneOf grp) = true ∧
      s.creditFree (drainDest (d.desc 2)) = false) → exec (.tileIssue c a piece region) s = .next s) ∧
  (∀ (c : CmdRef) (a : Quad) (piece region : Nat) (s : State), s.job c = none ∨ (s.running c 0x20 = none ∧ s.running c 0x21 = none) →
    exec (.tileIssue c a piece region) s = .next s)

/-- A tile that commits leaves its piece free and is counted, on both arrays of a pair; one that is not the last of its output tile writes only its
words of the accumulation buffer, and its group goes on; the last one drains its output tile, and the command ends with the last output tile or with
the status of a failed write. The first fault of a tile reissues it, with its results unchanged, and sets REISSUE; the second marks its facet suspect
and fails its command with ARR_FACET_FAULT; both keep the 16 bytes of the tile. A handshake that stalls is a fault of cause 2. Without a tile in
flight there nothing changes. -/
def Obligations.TilesCommitOrFault : Prop :=
  (∀ (a : Quad) (piece : Nat) (u : Tile) (j : Job) (d : Cmd) (s : State),
    s.arr.tiles.find? (fun v => v.array == s.leadOf a.val && v.piece == piece) = some u → s.job u.ref = some j →
    s.cmdAt u.ref.part.val u.ref.queue.val u.ref.slot = some d →
    let pair := (s.arrImg u.array).pair
    ((s.arrImg u.array).cut = 5 → u.array < 8 ∧ pair < 8 ∧ pair ≠ u.array) →
    let g : Grp := { (Sparse.find j.grps u.grp).getD default with done := u.idx + 1, busy := false }
    ∃ t, exec (.tileCommit a piece) s = .next t ∧ (∀ v ∈ t.arr.tiles, v.array ≠ u.array ∨ v.piece ≠ u.piece) ∧
      t.rd64 .ARR_An_TILES_LO .ARR_An_TILES_HI u.array = (s.rd64 .ARR_An_TILES_LO .ARR_An_TILES_HI u.array + 1) % 2 ^ 64 ∧
      ((s.arrImg u.array).cut = 5 →
        t.rd64 .ARR_An_TILES_LO .ARR_An_TILES_HI pair = (s.rd64 .ARR_An_TILES_LO .ARR_An_TILES_HI pair + 1) % 2 ^ 64) ∧
      (bitOf (fieldAt u.instr 0 1) 3 = false → t.queues = s.queues ∧
        t.job u.ref = some { j with grps := Sparse.insert j.grps u.grp g } ∧
        ∀ y, (∀ k < u.results.length, y < s.accBase g k ∨ s.accBase g k + 4 ≤ y) → t.cell y = s.cell y) ∧
      (bitOf (fieldAt u.instr 0 1) 3 = true →
        (∃ st, CmdEnded t u.ref st ∧ t.job u.ref = none ∧ (st = 0 → j.drained + 1 = (planOf d (s.arrImg u.array).cut).outTiles)) ∨
        (∃ j', t.job u.ref = some j' ∧ j'.drained = j.drained + 1))) ∧
  (∀ (a : Quad) (piece : Nat) (s : State), (∀ u, s.arr.tiles.find? (fun v => v.array == s.leadOf a.val && v.piece == piece) = some u →
    s.job u.ref = none ∨ s.cmdAt u.ref.part.val u.ref.queue.val u.ref.slot = none) → exec (.tileCommit a piece) s = .next s) ∧
  (∀ (a : Quad) (piece facet cause : Nat) (u : Tile) (s : State),
    s.arr.tiles.find? (fun v => v.array == s.leadOf a.val && v.piece == piece) = some u → u.retried = false →
    ∃ t, exec (.tileFault a piece facet cause) s = .next t ∧ t.arr.tiles = s.arr.tiles.map (fun v => if v = u then { v with retried := true } else v) ∧
      t.fget Fld.ARR_An_STATUS_REISSUE a.val = 1 ∧ t.mem = s.mem ∧ t.queues = s.queues ∧
      (∀ w < 4, (t.rd .ARR_An_LASTFAULTw (a.val * 4 + w)).toNat = fieldAt u.instr (4 * w) 4) ∧
      KeepsRegs s t (fun r => r == .ARR_An_STATUS || r == .ARR_An_LASTFAULTw)) ∧
  (∀ (a : Quad) (piece facet cause : Nat) (u : Tile) (s : State),
    s.arr.tiles.find? (fun v => v.array == s.leadOf a.val && v.piece == piece) = some u → u.retried = true →
    ∃ t, exec (.tileFault a piece facet cause) s = .next t ∧ bitOf (t.fget Fld.ARR_An_SUSPECT_FACETS a.val) (facet % 16) = true ∧
      t.fget Fld.ARR_An_STATUS_SUSPECT a.val = 1 ∧ t.job u.ref = none ∧
      (∀ w < 4, (t.rd .ARR_An_LASTFAULTw (a.val * 4 + w)).toNat = fieldAt u.instr (4 * w) 4) ∧
      ∀ d, s.cmdAt u.ref.part.val u.ref.queue.val u.ref.slot = some d → CmdEnded t u.ref 0x0301) ∧
  (∀ (a : Quad) (piece facet cause : Nat) (s : State), s.arr.tiles.find? (fun v => v.array == s.leadOf a.val && v.piece == piece) = none →
    exec (.tileFault a piece facet cause) s = .next s) ∧
  (∀ (a : Quad) (piece facet : Nat) (s : State), exec (.handshakeStall a piece facet) s = exec (.tileFault a piece facet 2) s)

/-! ## Vector engines -/

/-- Where no lane on which it acts reads a parity error (TilesAndCache says what happens where one does), each such instruction gives every present lane
on which it acts the result of its operation on that lane's sources, and leaves everything else but the engine's count as it was; ACT and DACT of FN
0x07 take the sum of the accumulator they name, and set EMPTY where it holds none. Of the approximations, results other than the special values are
free within the rule's bounds (log 57). NOP and PASS count and do nothing else. -/
def Obligations.LaneInstructions : Prop :=
  (∀ (e : Quad) (f : VFields) (s : State) (p : Instr × Nat), p ∈ ([(.vAdd e f, 0x01), (.vSub e f, 0x02), (.vMul e f, 0x03), (.vFma e f, 0x04),
      (.vMin e f, 0x05), (.vMax e f, 0x06), (.vAnd e f, 0x08), (.vOr e f, 0x09), (.vXor e f, 0x0A), (.vAndn e f, 0x0B), (.vShl e f, 0x10),
      (.vShr e f, 0x11), (.vSar e f, 0x12), (.vRshr e f, 0x13), (.vCvt e f, 0x20), (.vExp2 e f, 0x28), (.vLog2 e f, 0x29), (.vRcp e f, 0x2A),
      (.vRsqrt e f, 0x2B), (.vTanh e f, 0x2C), (.vSigm e f, 0x2D)] : List (Instr × Nat)) →
    (s.eng e).badLane p.2 f = none → ∃ t, exec p.1 s = .next t ∧ EngineStep s t e ∧
      Lanes s t e f (fun l => laneOp p.2 f.ty f.imm ((s.eng e).lane f.sa l) ((s.eng e).srcB f l) ((s.eng e).lane f.sc l))) ∧
  (∀ (e : Quad) (f : VFields) (s : State), (s.eng e).badLane 0x1C f = none → ∃ t, exec (.vSel e f) s = .next t ∧ EngineStep s t e ∧
    Lanes s t e f (fun l => if ((s.eng e).maskReg (f.sc % 8)).contains l then (s.eng e).lane f.sa l else (s.eng e).srcB f l)) ∧
  (∀ (e : Quad) (f : VFields) (s : State) (d : Bool), (s.eng e).badLane (if d then 0x39 else 0x38) f = none →
    let x := s.eng e
    let fn := f.imm % 256
    let alpha := x.prm.getD (f.imm / 256 % 16) 0
    let sum (l : Nat) : Word := match x.acc (f.imm / 4096 % 8) with | some r => raWord r.op 0 (r.at_ l) | none => 0
    let empty := fn = 7 ∧ ∀ r, x.acc (f.imm / 4096 % 8) = some r → r.emptyIn x = true
    ∃ t, exec (if d then .vDact e f else .vAct e f) s = .next t ∧ t.mem = s.mem ∧ (¬ empty → EngineStep s t e) ∧
      (empty → t.fget Fld.RDU_Vn_STATUS_EMPTY e.val = 1) ∧
      Lanes s t e f (fun l =>
        if d then storeF f.ty (dactF fn alpha (sum l) (laneF f.ty (x.lane f.sa l)) (laneF f.ty (x.srcB f l)))
        else storeF f.ty (actF fn alpha (sum l) (laneF f.ty (x.lane f.sa l))))) ∧
  (∀ (e : Quad) (f : VFields) (s : State) (c : Instr), c ∈ ([.vecNop e f, .vPass e f] : List Instr) →
    ∃ t, exec c s = .next t ∧ EngineStep s t e ∧ t.eng e = s.eng e)

/-- Where no lane on which it acts reads a parity error (TilesAndCache says what happens where one does), a comparison or a mask operation writes the
present lanes of M[DST] on which it acts; M0 stays the present lanes. PERM and TRANS give each lane its source lane, or zero where that lane is
absent, which sets PERM_OOR for an active lane. -/
def Obligations.MasksAndPermutations : Prop :=
  (∀ (e : Quad) (f : VFields) (s : State) (p : Instr × Nat), p ∈ ([(.vCeq e f, 0x18), (.vCne e f, 0x19), (.vClt e f, 0x1A),
      (.vCle e f, 0x1B)] : List (Instr × Nat)) → (s.eng e).badLane p.2 f = none → ∃ t, exec p.1 s = .next t ∧ EngineStep s t e ∧
    Masks s t e f (fun l => laneCmp p.2 f.ty ((s.eng e).lane f.sa l) ((s.eng e).srcB f l))) ∧
  (∀ (e : Quad) (f : VFields) (s : State),
    let a (l : Nat) : Bool := ((s.eng e).maskReg (f.sa % 8)).contains l
    let b (l : Nat) : Bool := ((s.eng e).maskReg (f.sb % 8)).contains l
    ((s.eng e).badLane 0x1D f = none → ∃ t, exec (.vMand e f) s = .next t ∧ EngineStep s t e ∧ Masks s t e f (fun l => a l && b l)) ∧
    ((s.eng e).badLane 0x1E f = none → ∃ t, exec (.vMor e f) s = .next t ∧ EngineStep s t e ∧ Masks s t e f (fun l => a l || b l)) ∧
    ((s.eng e).badLane 0x1F f = none → ∃ t, exec (.vMnot e f) s = .next t ∧ EngineStep s t e ∧ Masks s t e f (fun l => !a l))) ∧
  (∀ (e : Quad) (f : VFields) (s : State) (p : Instr × Nat × (Nat → Nat)), p ∈ ([(.vPerm e f, 0x30, fun l => ((s.eng e).srcB f l).toNat),
      (.vTrans e f, 0x31, fun l => l % 32 * 32 + l / 32)] : List (Instr × Nat × (Nat → Nat))) → (s.eng e).badLane p.2.1 f = none →
    let ok (l : Nat) : Bool := p.2.2 l < 1024 && (s.eng e).isPresent (p.2.2 l)
    ∃ t, exec p.1 s = .next t ∧ Lanes s t e f (fun l => if ok l then (s.eng e).lane f.sa (p.2.2 l) else 0) ∧ t.mem = s.mem ∧
      ((∀ l ∈ (s.eng e).active f, ok l = true) → EngineStep s t e) ∧
      ((∃ l ∈ (s.eng e).active f, ok l = false) → t.fget Fld.VEC_Vn_STATUS_PERM_OOR e.val = 1))

/-- TLD of a bound tensor without poison gives the lanes its elements under the TYPE, and with poison changes no register; TST stores through the
binding's conversion and changes no tile register; neither does anything to an unbound one. CLD and CST move lanes from and to the cache slot they
name, GATHER takes each lane's word; a slot or word outside the cache, or a word address that is not a multiple of 4, is a lane fault, which sets
FAULT and changes no register of the engine. A parity error that an active lane reads is one too, for every instruction that reads: it sets PARITY and
REG_SUSPECT. -/
def Obligations.TilesAndCache : Prop :=
  (∀ (e : Quad) (f : VFields) (s : State), let x := s.eng e
    let d := x.bind (f.imm % 16)
    let st := ((s.countInstr e).touchLanes e x d (x.active f)).2
    d.rank ≠ 0 → x.badLane 0x40 f = none → ∃ t, exec (.vTld e f) s = .next t ∧ KeepsMem s t ∧ (st ≠ 0 → t.eng e = x) ∧
      (st = 0 → Lanes s t e f (fun l => storeVal f.ty (s.elemVal d (x.sws.getD (f.imm % 16) 0) (x.elemIx d l) e.val)))) ∧
  (∀ (e : Quad) (f : VFields) (s : State), ((s.eng e).bind (f.imm % 16)).rank = 0 →
    ((s.eng e).badLane 0x40 f = none → exec (.vTld e f) s = .next (s.countInstr e)) ∧
    ((s.eng e).badLane 0x41 f = none → exec (.vTst e f) s = .next (s.countInstr e))) ∧
  (∀ (e : Quad) (f : VFields) (s : State), let x := s.eng e
    let d := x.bind (f.imm % 16)
    let y := (s.countInstr e).writeTensor x.part d (x.sws.getD (f.imm % 16) 0) (satOf x.arith)
      ((if isMx d.dtype then x.present else x.active f).map (fun l => (x.elemIx d l, laneVal f.ty (x.lane f.sa l))))
    d.rank ≠ 0 → x.badLane 0x41 f = none → ∃ t, exec (.vTst e f) s = .next t ∧ (t.eng e).tr = x.tr ∧ (∀ a, t.cell a = y.1.cell a) ∧ ∀ g, g ≠ e → t.eng g = s.eng g) ∧
  (∀ (e : Quad) (f : VFields) (s : State), let x := s.eng e
    x.slot f < 4096 ∨ x.active f = [] → x.badLane 0x42 f = none → ∃ t, exec (.vCld e f) s = .next t ∧ EngineStep s t e ∧
      Lanes s t e f (fun l => x.cacheWord (x.slot f * 1024 + l))) ∧
  (∀ (e : Quad) (f : VFields) (s : State), let x := s.eng e
    x.slot f < 4096 ∨ x.active f = [] → x.badLane 0x43 f = none → ∃ t, exec (.vCst e f) s = .next t ∧ EngineStep s t e ∧
      (∀ l ∈ x.active f, (t.eng e).cacheWord (x.slot f * 1024 + l) = x.lane f.sa l) ∧ (t.eng e).tr = x.tr ∧ (t.eng e).mask = x.mask) ∧
  (∀ (e : Quad) (f : VFields) (s : State), let x := s.eng e
    let ok := ∀ l ∈ x.active f, (x.lane f.sa l).toNat < 16777216 ∧ (x.lane f.sa l).toNat % 4 = 0
    x.badLane 0x44 f = none → ∃ t, exec (.vGather e f) s = .next t ∧ t.mem = s.mem ∧
      (ok → EngineStep s t e ∧ Lanes s t e f (fun l => wordAs f.ty (x.cacheWord ((x.lane f.sa l).toNat / 4)))) ∧
      (¬ ok → t.fget Fld.VEC_Vn_STATUS_FAULT e.val = 1 ∧ t.eng e = x)) ∧
  (∀ (e : Quad) (f : VFields) (s : State) (p : Instr × Nat), p ∈ ([(.vCld e f, 0x42), (.vCst e f, 0x43)] : List (Instr × Nat)) →
    (s.eng e).active f ≠ [] → 4096 ≤ (s.eng e).slot f → (s.eng e).badLane p.2 f = none →
    ∃ t, exec p.1 s = .next t ∧ t.fget Fld.VEC_Vn_STATUS_FAULT e.val = 1 ∧ t.mem = s.mem ∧ t.eng e = s.eng e) ∧
  (∀ (e : Quad) (f : VFields) (s : State) (p : Instr × Nat) (l : Nat), p ∈ ([(.vAdd e f, 0x01), (.vSub e f, 0x02), (.vMul e f, 0x03),
      (.vFma e f, 0x04), (.vMin e f, 0x05), (.vMax e f, 0x06), (.vAnd e f, 0x08), (.vOr e f, 0x09), (.vXor e f, 0x0A), (.vAndn e f, 0x0B),
      (.vShl e f, 0x10), (.vShr e f, 0x11), (.vSar e f, 0x12), (.vRshr e f, 0x13), (.vCeq e f, 0x18), (.vCne e f, 0x19), (.vClt e f, 0x1A),
      (.vCle e f, 0x1B), (.vSel e f, 0x1C), (.vMand e f, 0x1D), (.vMor e f, 0x1E), (.vMnot e f, 0x1F), (.vCvt e f, 0x20), (.vExp2 e f, 0x28),
      (.vLog2 e f, 0x29), (.vRcp e f, 0x2A), (.vRsqrt e f, 0x2B), (.vTanh e f, 0x2C), (.vSigm e f, 0x2D), (.vPerm e f, 0x30),
      (.vTrans e f, 0x31), (.vAct e f, 0x38), (.vDact e f, 0x39), (.vTld e f, 0x40), (.vTst e f, 0x41), (.vCld e f, 0x42), (.vCst e f, 0x43),
      (.vGather e f, 0x44), (.vRed e f, 0x48), (.vRget e f, 0x49)] : List (Instr × Nat)) →
    (s.eng e).badLane p.2 f = some l → ∃ t, exec p.1 s = .next t ∧ t.fget Fld.VEC_Vn_STATUS_PARITY e.val = 1 ∧
      t.fbit Fld.VEC_Vn_STATE_REG_SUSPECT e.val = true ∧ t.mem = s.mem ∧ t.eng e = s.eng e)

/-- RED joins the active lanes into its accumulator and changes nothing else of the engine; RGET broadcasts it and sets EMPTY where a result of the
present tile is empty; RCLR empties it. RGET of an accumulator in which nothing was reduced gives a free value and sets EMPTY (log 59). REDUCE ends,
where it runs. The sum of integers in the reference order is the exact sum, saturated to INT32. -/
def Obligations.Reductions : Prop :=
  (∀ (e : Quad) (f : VFields) (s : State), (s.eng e).badLane 0x48 f = none → ∃ t r, exec (.vRed e f) s = .next t ∧ EngineStep s t e ∧
    t.eng e = (s.eng e).red f ∧ (t.eng e).acc (f.imm / 32 % 8) = some r ∧ r.op = f.imm % 8 ∧ r.axis = f.imm / 8 % 4 ∧
    (t.eng e).tr = (s.eng e).tr ∧ (t.eng e).mask = (s.eng e).mask ∧ ∀ k, k ≠ f.imm / 32 % 8 → (t.eng e).acc k = (s.eng e).acc k) ∧
  (∀ (e : Quad) (f : VFields) (r : RaSt) (s : State), (s.eng e).acc (f.imm / 32 % 8) = some r → (s.eng e).badLane 0x49 f = none →
    ∃ t, exec (.vRget e f) s = .next t ∧ Lanes s t e f (fun l => raWord r.op f.ty (r.at_ l)) ∧ t.mem = s.mem ∧
    (r.emptyIn (s.eng e) = false → EngineStep s t e) ∧ (r.emptyIn (s.eng e) = true → t.fget Fld.RDU_Vn_STATUS_EMPTY e.val = 1)) ∧
  (∀ (e : Quad) (f : VFields) (s : State), (s.eng e).acc (f.imm / 32 % 8) = none → (s.eng e).badLane 0x49 f = none →
    ∃ t v, exec (.vRget e f) s = .next t ∧ Lanes s t e f (fun _ => v) ∧ t.mem = s.mem ∧ t.fget Fld.RDU_Vn_STATUS_EMPTY e.val = 1) ∧
  (∀ (e : Quad) (f : VFields) (s : State), ∃ t, exec (.vRclr e f) s = .next t ∧ EngineStep s t e ∧ (t.eng e).acc (f.imm / 32 % 8) = none ∧
    (∀ k, k ≠ f.imm / 32 % 8 → (t.eng e).acc k = (s.eng e).acc k) ∧ (t.eng e).tr = (s.eng e).tr ∧ (t.eng e).mask = (s.eng e).mask) ∧
  (∀ (c : CmdRef) (d : Cmd) (s : State), s.running c 0x31 = some d → ∃ t st, exec (.reduce c) s = .next t ∧ CmdEnded t c st) ∧
  (∀ (c : CmdRef) (s : State), s.running c 0x31 = none → exec (.reduce c) s = .next s) ∧
  (∀ (x : Nat → Int) (n : Nat), 0 < n → reduceVal 0 false 0x0F (raSum 0 false (fun k => raOne 0 false 0 (x k) k) n) =
    ofInt (satInt 32 (((List.range n).map x).foldl (· + ·) 0)) 0)

/-- A VPROG with a usable engine, none of them busy with another command, runs to its end; without one it fails with VEC_NO_ENGINE, and it waits for a
busy one. UPDATE ends on the first free engine, with RCV_APPLIED where its step has been applied; without a usable engine it fails with
VEC_NO_ENGINE, and it waits where all are busy. Neither does anything where it does not run. An SGD update of one element without Nesterov momentum
moves the weight by the rate times its momentum, which gathers the scaled gradient with its decay, rounded at each step. -/
def Obligations.ProgramsAndUpdates : Prop :=
  (∀ (c : CmdRef) (d : Cmd) (s : State), s.running c 0x30 = some d →
    let p := parseProg d.aux
    let es := if p.single then (s.progEngines c.part.val c.queue.val p.stream).take 1 else s.progEngines c.part.val c.queue.val p.stream
    ((∀ e ∈ es, s.engBusy c e = false) → ∃ t st, exec (.vprog c) s = .next t ∧ CmdEnded t c st ∧ (es = [] → st = 0x0505)) ∧
    ((∃ e ∈ es, s.engBusy c e = true) → exec (.vprog c) s = .next s)) ∧
  (∀ (c : CmdRef) (d : Cmd) (s : State), s.running c 0x32 = some d →
    let es := s.progEngines c.part.val c.queue.val true
    (es = [] → ∃ t, exec (.update c) s = .next t ∧ CmdEnded t c 0x0505 ∧ t = { s with queues := t.queues }) ∧
    ((∃ e ∈ es, s.engBusy c e = false) → ∃ t st, exec (.update c) s = .next t ∧ CmdEnded t c st ∧
      (s.applied c d = true → st = 0x0B04 ∧ t = { s with queues := t.queues })) ∧
    (es ≠ [] → (∀ e ∈ es, s.engBusy c e = true) → exec (.update c) s = .next s)) ∧
  (∀ (c : CmdRef) (s : State), (s.running c 0x30 = none → exec (.vprog c) s = .next s) ∧ (s.running c 0x32 = none → exec (.update c) s = .next s)) ∧
  (∀ (p : UpdPar) (g w m v : Word), updateElem 0 false p g w m v =
    (f32Sub w (f32Mul p.lr (f32Add (f32Mul p.b1 m) (f32Add (f32Mul g p.gs) (f32Mul p.wd w)))),
     f32Add (f32Mul p.b1 m) (f32Add (f32Mul g p.gs) (f32Mul p.wd w)), v))

/-! ## Barge ingest -/

/-- OPEN takes a CLOSED stream to RUNNING or HALTED at its offset, HALT stops a RUNNING one and marks a halting one, RESUME lets a HALTED one with an
empty weir below its mark run when a grant is free, and CLOSE takes a stream to CLOSING; what does not fit its state ends with ING_STATE. A CLOSING
stream is CLOSED, and its CLOSE ends, when none of its DECODEs is started and no HALT_ACK is out. A HALT_ACK that a stream waits for takes it to HALTED,
ENDED or back to RUNNING; any other is stray. A late one is noted once.
A barge that fails its check values, or names a stream that is closed or not the port's, only counts. One at NEXT, or a discontinuity at or above
it, lands and moves NEXT past it: whole in RUNNING, and outside it as far as the weir holds it, past which OVERRUN is set; with EOS a RUNNING stream is
then ENDED. A barge below NEXT only counts; any other opens a gap and asks for a rewind, unless a gap is open. REWIND is repeated up to three times in a
gap, then the gap is reported as lost, once. ADAPTER_INFO sets the adapter register of a port that a partition owns. No byte of device memory
changes but by the STATUS of DECODEs that a CLOSE ends. -/
def Obligations.Ingest : Prop :=
  let regs : RegName → Bool := fun r => r == .ING_STRn_STATE || r == .ING_STRn_OCC || r == .ING_STRn_NEXT_LO || r == .ING_STRn_NEXT_HI ||
    r == .ING_STRn_REL_LO || r == .ING_STRn_REL_HI || r == .ING_STRn_STATUS || r == .ING_POOL_W || r == .ING_POOL_E
  (∀ (c : CmdRef) (d : Cmd) (s : State), s.running c 0x40 = some d → (s.str (stStr d)).closers.contains c = false →
    (stAct d = 0 → s.strState (stStr d) = 0 → ∃ t, exec (.stream c) s = .next t ∧ CmdEnded t c 0 ∧
      t.strNext (stStr d) = fieldAt d.bytes 80 8 ∧ t.strRel (stStr d) = fieldAt d.bytes 80 8 ∧
      (t.strState (stStr d) = 1 ∨ t.strState (stStr d) = 3) ∧ KeepsMem s t ∧ KeepsRegs s t regs) ∧
    (stAct d = 1 → s.strState (stStr d) = 1 → ∃ t, exec (.stream c) s = .next t ∧ CmdEnded t c 0 ∧ t.strState (stStr d) = 2 ∧
      t.fbit Fld.ING_STRn_STATE_HALT_PROG (stStr d) = true ∧ (t.str (stStr d)).ackOut = true ∧ KeepsMem s t ∧ KeepsRegs s t regs) ∧
    (stAct d = 1 → s.strState (stStr d) = 2 ∨ s.strState (stStr d) = 3 → ∃ t, exec (.stream c) s = .next t ∧ CmdEnded t c 0 ∧
      t.fbit Fld.ING_STRn_STATE_HALT_PROG (stStr d) = true ∧ t.strState (stStr d) = s.strState (stStr d) ∧ t.ing = s.ing ∧ KeepsMem s t ∧
      KeepsRegs s t regs) ∧
    (stAct d = 1 → 4 ≤ s.strState (stStr d) → ∃ t, exec (.stream c) s = .next t ∧ CmdEnded t c 0 ∧ t = { s with queues := t.queues }) ∧
    (stAct d = 2 → s.strState (stStr d) = 3 → (s.str (stStr d)).reserve = 0 →
      (s.str (stStr d)).shared ≤ (s.str (stStr d)).mark * 1024 → s.grantOk (stStr d) = true → ∃ t, exec (.stream c) s = .next t ∧
      CmdEnded t c 0 ∧ t.strState (stStr d) = 1 ∧ t.fbit Fld.ING_STRn_STATE_HALT_PROG (stStr d) = false ∧
      (t.str (stStr d)).grant = true ∧ KeepsMem s t ∧ KeepsRegs s t regs) ∧
    (stAct d = 2 → s.strState (stStr d) ≠ 0 → s.strState (stStr d) ≠ 3 ∨ (s.str (stStr d)).reserve ≠ 0 ∨
      (s.str (stStr d)).mark * 1024 < (s.str (stStr d)).shared ∨ s.grantOk (stStr d) = false → ∃ t, exec (.stream c) s = .next t ∧
      CmdEnded t c 0 ∧ t.strState (stStr d) = s.strState (stStr d) ∧ t.fbit Fld.ING_STRn_STATE_HALT_PROG (stStr d) = false ∧ t.ing = s.ing ∧
      KeepsMem s t ∧ KeepsRegs s t regs) ∧
    (stAct d = 3 → s.strState (stStr d) ≠ 0 → ∃ t, exec (.stream c) s = .next t ∧ t.strState (stStr d) = 6 ∧
      (t.str (stStr d)).closers = (s.str (stStr d)).closers ++ [c]) ∧
    ((stAct d = 0 ∧ s.strState (stStr d) ≠ 0) ∨ (stAct d ≠ 0 ∧ s.strState (stStr d) = 0) → ∃ t, exec (.stream c) s = .next t ∧
      CmdEnded t c 0x0802 ∧ t = { s with queues := t.queues })) ∧
  (∀ (c : CmdRef) (s : State), s.running c 0x40 = none → exec (.stream c) s = .next s) ∧
  (∀ (c : CmdRef) (d : Cmd) (s : State), s.running c 0x40 = some d → (s.str (stStr d)).closers.contains c = true → exec (.stream c) s = .next s) ∧
  (∀ (n : Fin 1024) (s : State), s.strState n.val = 6 → s.decodeStarted n.val = false → (s.str n.val).ackOut = false →
    ∃ t, exec (.streamClosed n) s = .next t ∧ t.strState n.val = 0 ∧ t.str n.val = strIdle ∧ KeepsMem s t ∧ KeepsRegs s t regs ∧
      ∀ r ∈ (s.str n.val).closers, ∀ d, s.running r 0x40 = some d → CmdEnded t r 0) ∧
  (∀ (n : Fin 1024) (s : State), s.strState n.val ≠ 6 ∨ s.decodeStarted n.val = true ∨ (s.str n.val).ackOut = true →
    exec (.streamClosed n) s = .next s) ∧
  (∀ (k : EPort) (n o : Nat) (s : State), n < 1024 →
    let waits := s.portOwner k.val < 4 ∧ s.ownsStream (s.portOwner k.val) n = true ∧ (s.strState n = 2 ∨ s.strState n = 6) ∧ (s.str n).ackOut = true
    (waits → ∃ t, exec (.haltAck k n o) s = .next t ∧ (t.str n).ackOut = false ∧ t.mem = s.mem ∧ KeepsRegs s t regs ∧
      (s.strState n = 6 → t.strState n = 6) ∧
      (s.strState n = 2 → (s.str n).eos = true → t.strState n = 5) ∧
      (s.strState n = 2 → (s.str n).eos = false → t.strState n = 3 ∨ (t.strState n = 1 ∧ s.fbit Fld.ING_STRn_STATE_HALT_PROG n = false))) ∧
    (¬ waits → ∃ t, exec (.haltAck k n o) s = .next t ∧ t.fget Fld.EUT_Ek_STATUS_TP_STRAY k.val = 1 ∧
      OnlyRegs s t [regKey .EUT_Ek_STATUS k.val 0])) ∧
  (∀ (n : Fin 1024) (s : State), (s.str n.val).ackOut = true → (s.str n.val).late = false → ∃ t, exec (.ingAckLate n) s = .next t ∧
    (t.str n.val).late = true ∧ t.fget Fld.ING_STRn_STATUS_ACK_LATE n.val = 1 ∧ t.mem = s.mem ∧ KeepsRegs s t regs ∧
    exec (.ingAckLate n) t = .next t) ∧
  (∀ (n : Fin 1024) (s : State), (s.str n.val).ackOut = false ∨ (s.str n.val).late = true → exec (.ingAckLate n) s = .next s) ∧
  (∀ (k : EPort) (b : List Byte) (s : State), bargeOk b = false → ∃ t, exec (.barge k b) s = .next t ∧
    t.fget Fld.ING_PORTk_CNT_BAD_BARGE k.val = (s.fget Fld.ING_PORTk_CNT_BAD_BARGE k.val + 1) % 65536 ∧ t.ing = s.ing ∧ t.mem = s.mem ∧
    KeepsRegs s t (· == .ING_PORTk_CNT)) ∧
  (∀ (k : EPort) (b : List Byte) (s : State), bargeOk b = true →
    s.strState (bgStr b) = 0 ∨ 4 ≤ s.portOwner k.val ∨ s.ownsStream (s.portOwner k.val) (bgStr b) = false → ∃ t, exec (.barge k b) s = .next t ∧
    t.fget Fld.ING_PORTk_CNT_FOREIGN k.val = (s.fget Fld.ING_PORTk_CNT_FOREIGN k.val + 1) % 65536 ∧ OnlyRegs s t [regKey .ING_PORTk_CNT k.val 0]) ∧
  (∀ (k : EPort) (b : List Byte) (s : State), bargeOk b = true → s.strState (bgStr b) ≠ 0 → s.portOwner k.val < 4 →
    s.ownsStream (s.portOwner k.val) (bgStr b) = true →
    let n := bgStr b
    let disc := bgFlag b 1 = true ∧ bgFlag b 0 = true
    let lands := bgOff b = s.strNext n ∨ (disc ∧ s.strNext n ≤ bgOff b)
    (lands → bgOff b + bgLen b < 2 ^ 64 → s.strState n = 1 → ∃ t, exec (.barge k b) s = .next t ∧
      t.strNext n = bgOff b + bgLen b ∧ t.fbit Fld.ING_STRn_STATE_IN_GAP n = false ∧ KeepsMem s t ∧ KeepsRegs s t regs ∧
      (bgFlag b 2 = true → t.strState n = 5 ∧ (t.str n).eos = true) ∧
      (s.strRel n ≤ bgOff b → (t.str n).shared = (s.str n).shared + bgLen b ∧
        ∀ i < bgLen b, Sparse.find (t.str n).bytes (bgOff b + i) = some (b.getD (16 + i) 0))) ∧
    (lands → bgOff b + bgLen b < 2 ^ 64 → s.strState n ≠ 1 → (s.str n).reserve ≤ 65536 → ∃ t, exec (.barge k b) s = .next t ∧
      (let got := min (bgLen b) (65536 - (s.str n).reserve)
       t.strNext n = bgOff b + got ∧ t.fbit Fld.ING_STRn_STATE_IN_GAP n = false ∧ KeepsMem s t ∧ KeepsRegs s t regs ∧
       (got < bgLen b → t.fget Fld.ING_STRn_STATUS_OVERRUN n = 1) ∧
       (s.strRel n ≤ bgOff b → (t.str n).reserve = (s.str n).reserve + got ∧ (t.str n).shared = (s.str n).shared ∧
         ∀ i < got, Sparse.find (t.str n).bytes (bgOff b + i) = some (b.getD (16 + i) 0)))) ∧
    (bgOff b + bgLen b ≤ s.strNext n → ∃ t, exec (.barge k b) s = .next t ∧ OnlyRegs s t [regKey .ING_STRn_STATUS n 0] ∧
      t.fget Fld.ING_STRn_STATUS_DUP_CNT n = min (s.fget Fld.ING_STRn_STATUS_DUP_CNT n + 1) 255) ∧
    (¬ lands → s.strNext n < bgOff b + bgLen b → s.fbit Fld.ING_STRn_STATE_IN_GAP n = false → ∃ t, exec (.barge k b) s = .next t ∧
      t.fbit Fld.ING_STRn_STATE_IN_GAP n = true ∧ t.fget Fld.ING_STRn_STATUS_GAP n = 1 ∧
      t.strNext n = s.strNext n ∧ (t.str n).bytes = (s.str n).bytes ∧
      Output.towpath (s.fget Fld.ING_STRn_STATE_PORT n) 3 n (s.strNext n) ∈ t.out ∧ KeepsMem s t ∧ KeepsRegs s t regs) ∧
    (¬ lands → s.strNext n < bgOff b + bgLen b → s.fbit Fld.ING_STRn_STATE_IN_GAP n = true → exec (.barge k b) s = .next s)) ∧
  (∀ (n : Fin 1024) (s : State), s.fbit Fld.ING_STRn_STATE_IN_GAP n.val = true →
    ((s.str n.val).rewinds < 3 → ∃ t, exec (.rewindTimeout n) s = .next t ∧ (t.str n.val).rewinds = (s.str n.val).rewinds + 1 ∧
      Output.towpath (s.fget Fld.ING_STRn_STATE_PORT n.val) 3 n.val (s.strNext n.val) ∈ t.out ∧ t.mem = s.mem ∧ KeepsRegs s t regs) ∧
    ((s.str n.val).rewinds = 3 → ∃ t, exec (.rewindTimeout n) s = .next t ∧ (t.str n.val).rewinds = 4 ∧ t.mem = s.mem ∧ KeepsRegs s t regs ∧
      (evRoom s.evr.buf.length 2 = true → ∃ r ∈ t.evr.buf, r.code = 0x0803 ∧ r.p1 = n.val ∧ r.p2 = s.strNext n.val))) ∧
  (∀ (n : Fin 1024) (s : State), s.fbit Fld.ING_STRn_STATE_IN_GAP n.val = false ∨ 3 < (s.str n.val).rewinds →
    exec (.rewindTimeout n) s = .next s) ∧
  (∀ (k : EPort) (ddr flash : Nat) (second : Bool) (s : State), (s.hostOf k).isSome = true →
    ∃ t, exec (.adapterInfo k ddr flash second) s = .next t ∧ t.fbit Fld.EUT_Ek_ADAPTER_INFO_VALID k.val = true ∧
      t.t2Installed k.val = min ddr 4096 * 2 ^ 30 ∧ OnlyRegs s t [regKey .EUT_Ek_ADAPTER k.val 0]) ∧
  (∀ (k : EPort) (ddr flash : Nat) (second : Bool) (s : State), s.hostOf k = none → exec (.adapterInfo k ddr flash second) s = .next s)

/-! ## Decode, conditioning and the shuffle pools -/

/-- DECODE takes its staging buffer, or waits where that is not free or an earlier DECODE waits for it. An engine begins once the buffer is there and the
span has arrived; a span that does not arrive fails the command with DEC_STARVED and frees the buffer it has. An engine that has decoded ends
the command and is free again; where nothing failed the buffer holds a frame of each target with its result record, and the release point has moved, else
the buffer is free; of memory only the result tensor and the DPB change. A decoded sample is conditioned, or is a hole where a target makes it one. A
conditioned sample waits for the release lock, counted once; it is dropped with an event where its window has passed, its slot does not exist or is filled; else
it is written to its slot with its header, and where both are written the slot is filled and the fill lock rises by one; the first sample of a window
clears the headers. FEED fails where its pool is disabled, its window is gone or all its samples are holes, holds where its window is not there or
not full, and else draws and ends. A command that does not run, and an engine or a buffer with nothing to do, changes nothing. Three clauses on memory
are for a machine whose tier engines have no object. -/
def Obligations.Video : Prop :=
  let strs : RegName → Bool := fun r => r == .ING_STRn_STATE || r == .ING_STRn_OCC || r == .ING_STRn_NEXT_LO || r == .ING_STRn_NEXT_HI ||
    r == .ING_STRn_REL_LO || r == .ING_STRn_REL_HI || r == .ING_STRn_STATUS || r == .ING_POOL_W || r == .ING_POOL_E
  let cnd : Nat → Nat → Nat → Nat → Nat → Nat → Ev := fun code inst sev part p1 p2 =>
    { code := code, cls := 0x09, inst := inst, sev := sev, part := part, p1 := p1, p2 := p2 }
  let taken : Cmd → BufSt := fun d => { bufIdle with phase := 1, sample := if cDesc d 1 = 0 then none else some (parseSample d.aux) }
  (∀ (c : CmdRef) (d : Cmd) (s : State), s.running c 0x41 = some d → s.decRun c = none →
    let x : DecRun := { ref := c, str := dcStr d, start := dcStart d, stop := dcEnd d, buf := dcBuf d, hasBuf := false, engine := none }
    (s.mayTake c (dcBuf d) = true → ∃ t, exec (.decode c) s = .next t ∧ t.decRun c = some { x with hasBuf := true } ∧
      t.buf (dcBuf d) = taken d ∧ (∀ b, b ≠ dcBuf d → t.buf b = s.buf b) ∧ (∀ r, r ≠ c → t.decRun r = s.decRun r) ∧
      t = { s with ing := { s.ing with bufs := t.ing.bufs, decs := t.ing.decs } }) ∧
    (s.mayTake c (dcBuf d) = false → ∃ t, exec (.decode c) s = .next t ∧ t.decRun c = some x ∧
      t = { s with ing := { s.ing with decs := s.ing.decs ++ [x] } })) ∧
  (∀ (c : CmdRef) (s : State), s.running c 0x41 = none ∨ (s.decRun c).isSome = true → exec (.decode c) s = .next s) ∧
  (∀ (c : CmdRef) (d : Cmd) (x : DecRun) (m : Fin 32) (s : State), s.running c 0x41 = some d → s.decRun c = some x →
    let can := x.engine = none ∧ (x.hasBuf = true ∨ s.mayTake c x.buf = true) ∧ s.spanReady x = true ∧ s.ownsEngine c.part.val m.val = true ∧
      (x.str < 512 ↔ m.val < 16) ∧ s.fbit Fld.DEC_ENGm_STATE_BUSY m.val = false
    (can → ∃ t, exec (.decodeSpanReady c m) s = .next t ∧ t.decRun c = some { x with hasBuf := true, engine := some m.val } ∧
      t.fbit Fld.DEC_ENGm_STATE_BUSY m.val = true ∧ t.fget Fld.DEC_ENGm_STATE_STREAM m.val = x.str % 1024 ∧
      t.buf x.buf = (if x.hasBuf then s.buf x.buf else taken d) ∧ (∀ b, b ≠ x.buf → t.buf b = s.buf b) ∧
      t = { s with rf := t.rf, ing := { s.ing with bufs := t.ing.bufs, decs := t.ing.decs } } ∧ KeepsRegs s t (· == .DEC_ENGm_STATE)) ∧
    (¬ can → ∃ t, exec (.decodeSpanReady c m) s = .next t ∧ (t.decRun c).map (·.engine) = some x.engine ∧ (x.hasBuf = true → t = s) ∧
      t = { s with ing := { s.ing with bufs := t.ing.bufs, decs := t.ing.decs } })) ∧
  (∀ (c : CmdRef) (m : Fin 32) (s : State), s.running c 0x41 = none ∨ s.decRun c = none → exec (.decodeSpanReady c m) s = .next s) ∧
  (∀ (c : CmdRef) (d : Cmd) (x : DecRun) (s : State), s.running c 0x41 = some d → s.decRun c = some x →
    (x.engine = none → s.spanReady x = false → (s.str x.str).stall ≠ 0 → ∃ t, exec (.decStarved c) s = .next t ∧ CmdEnded t c 0x0821 ∧
      t.decRun c = none ∧ t.buf x.buf = (if x.hasBuf then bufIdle else s.buf x.buf) ∧ (∀ b, b ≠ x.buf → t.buf b = s.buf b) ∧ KeepsMem s t ∧
      KeepsRegs s t strs) ∧
    (x.engine ≠ none ∨ s.spanReady x = true ∨ (s.str x.str).stall = 0 → exec (.decStarved c) s = .next s)) ∧
  (∀ (c : CmdRef) (s : State), s.running c 0x41 = none ∨ s.decRun c = none →
    exec (.decStarved c) s = .next s ∧ exec (.decodeComplete c) s = .next s) ∧
  (∀ (c : CmdRef) (d : Cmd) (x : DecRun) (s : State), s.running c 0x41 = some d → s.decRun c = some x → x.engine = none →
    exec (.decodeComplete c) s = .next s) ∧
  (∀ (c : CmdRef) (d : Cmd) (x : DecRun) (m : Nat) (s : State), s.running c 0x41 = some d → s.decRun c = some x → x.engine = some m →
    let codec := s.fget Fld.ING_STRn_STATE_CODEC x.str
    let span := s.spanBytes x
    let ps := Config.pictures codec span
    let f := decodeSpan codec ps span (s.spanDiscs x) (dcDpbMib d * 2 ^ 20) (dcTargets d)
    let rs := resultsOf codec ps span f ((s.boot.img.staging.getD x.buf { owner := 0xFF, mib := 0 }).mib * 2 ^ 20) (dcTargets d)
    ∃ t st, exec (.decodeComplete c) s = .next t ∧ CmdEnded t c st ∧ t.decRun c = none ∧ t.fbit Fld.DEC_ENGm_STATE_BUSY m = false ∧
      (∀ b, b ≠ x.buf → t.buf b = s.buf b) ∧ (s.staleNow d = true → st = 0x0205) ∧ (st ≠ 0 → x.hasBuf = true → t.buf x.buf = bufIdle) ∧
      (st = 0 → t.buf x.buf = { s.buf x.buf with phase := 2, frames := (List.range (dcTargets d).length).map (fun i =>
          { target := (dcTargets d).getD i 0, recd := resultRec codec (s.str x.str).film ps ((dcTargets d).getD i 0)
              (rs.getD i (7, false, false)), codec := codec, span := span }) } ∧
        t.strRel x.str = max (s.strRel x.str) (dcRelease d)) ∧
      (s.tier = State.reset.tier → (d.desc 0).dtype = 0x0F → ∀ a,
        (∀ i ∈ (d.desc 0).positions, a < (d.desc 0).base + (d.desc 0).bitPos i / 8 ∨ (d.desc 0).base + (d.desc 0).bitPos i / 8 + 4 ≤ a) →
        a < dcDpb d ∨ dcDpb d + dcDpbMib d * 2 ^ 20 ≤ a → t.cell a = s.cell a)) ∧
  (∀ (b : Fin 64) (e : Quad) (d : SampleDesc) (s : State), (s.buf b.val).sample = some d → (s.buf b.val).phase = 2 →
    (b.val < 32 ↔ e.val < 4) → s.live = true →
    ((s.buf b.val).frames.find? (holeTarget d) = none → ∃ t, exec (.conditionSample b e) s = .next t ∧
      t.buf b.val = { s.buf b.val with phase := 3, engine := e.val, data := s.condition d (s.buf b.val).frames, flags := (t.buf b.val).flags } ∧
      bitOf (t.buf b.val).flags 0 = true ∧ bitOf (t.buf b.val).flags 1 = false ∧ bitOf (t.buf b.val).flags 3 = (d.deint == 2) ∧
      bitOf (t.buf b.val).flags 2 = (s.buf b.val).frames.any (fun f => f.result == 3) ∧
      (∀ k, k ≠ b.val → t.buf k = s.buf k) ∧ t = { s with ing := { s.ing with bufs := t.ing.bufs } }) ∧
    (∀ f, (s.buf b.val).frames.find? (holeTarget d) = some f → ∃ t, exec (.conditionSample b e) s = .next t ∧
      t.buf b.val = { s.buf b.val with phase := 3, data := [], flags := 3, engine := e.val } ∧ (∀ k, k ≠ b.val → t.buf k = s.buf k) ∧
      (evRoom s.evr.buf.length 1 = true → Recorded t (cnd 0x0840 e.val 1 (s.poolPart d.pool) (d.pool + d.index * 2 ^ 32)
        (d.wseq + f.result * 2 ^ 32))) ∧
      t.mem = s.mem ∧ t.queues = s.queues ∧ KeepsRegs s t (fun _ => false))) ∧
  (∀ (b : Fin 64) (e : Quad) (s : State), (s.buf b.val).sample = none ∨ (s.buf b.val).phase ≠ 2 ∨ ¬ (b.val < 32 ↔ e.val < 4) ∨ s.live = false →
    exec (.conditionSample b e) s = .next s) ∧
  (∀ (b : Fin 64) (s : State), (s.buf b.val).sample = none ∨ (s.buf b.val).phase ≠ 3 ∨
    (∃ d, (s.buf b.val).sample = some d ∧ (s.poolOn d.pool = false ∨ 4 ≤ s.poolOwner d.pool ∨
      (s.released d.pool d.wseq = false ∧ (s.buf b.val).held = true))) → exec (.sampleLand b) s = .next s) ∧
  (∀ (b : Fin 64) (d : SampleDesc) (s : State), (s.buf b.val).sample = some d → (s.buf b.val).phase = 3 → s.poolOn d.pool = true →
    s.poolOwner d.pool < 4 →
    let k := d.pool
    let x := s.buf b.val
    let ring := d.wseq % max 1 (s.poolNwin k)
    let pos := s.poolPos k ring
    (s.released k d.wseq = false → x.held = false → ∃ t, exec (.sampleLand b) s = .next t ∧ t.buf b.val = { x with held := true } ∧
      t = { s with rf := t.rf, ing := { s.ing with bufs := t.ing.bufs } } ∧ KeepsRegs s t (· == .SHF_POOLp_STATUS)) ∧
    (s.released k d.wseq = true → (∃ q, pos = some q ∧ d.wseq < q.win) ∨ s.poolW k ≤ d.index → ∃ t, exec (.sampleLand b) s = .next t ∧
      t.buf b.val = bufIdle ∧ t.mem = s.mem ∧ t.ing.pools = s.ing.pools ∧ KeepsRegs s t (fun _ => false) ∧
      (evRoom s.evr.buf.length 1 = true → Recorded t (cnd 0x0860 x.engine 1 (s.poolPart k) (k + d.index * 2 ^ 32) d.wseq))) ∧
    (∀ q, s.released k d.wseq = true → d.index < s.poolW k → pos = some q → q.win = d.wseq → NSet.mem q.filled d.index = true →
      ∃ t, exec (.sampleLand b) s = .next t ∧ t.buf b.val = bufIdle ∧ t.mem = s.mem ∧ t.ing.pools = s.ing.pools ∧
      KeepsRegs s t (fun _ => false) ∧ (evRoom s.evr.buf.length 2 = true →
        Recorded t (cnd 0x0861 x.engine 2 (s.poolPart k) (k + d.index * 2 ^ 32) d.wseq))) ∧
    (s.released k d.wseq = true → 0 < s.poolNwin k → d.index < s.poolW k → s.tier = State.reset.tier →
      s.poolSlot k ring d.index + s.slotSize k ≤ t2Base → (∀ q, pos = some q → q.win ≤ d.wseq ∧ (q.win = d.wseq → NSet.mem q.filled d.index = false)) →
      let fresh := pos.all (fun q => q.win != d.wseq)
      let q : PoolPos := if fresh then { win := d.wseq, filled := [], holes := [] } else pos.getD { win := 0, filled := [], holes := [] }
      let hole := bitOf x.flags 1
      let data := x.data.take (s.slotSize k)
      let u := if fresh then (s.setBuf b.val bufIdle).openWindow k ring d.wseq else s.setBuf b.val bufIdle
      let v := if hole then (u, 0) else u.writeAs (s.poolOwner k) (s.poolSlot k ring d.index) data
      let w := v.1.writeAs (s.poolOwner k) (s.poolHead k ring d.index) (slotHeader d x.flags)
      (v.2 = 0 → w.2 = 0 → ∃ t, exec (.sampleLand b) s = .next t ∧ t.buf b.val = bufIdle ∧
        (hole = false → ∀ i < data.length, t.cell (s.poolSlot k ring d.index + i) = data.getD i 0) ∧
        (∀ i < 32, t.cell (s.poolHead k ring d.index + i) = (slotHeader d x.flags).getD i 0) ∧
        t.poolPos k ring = some { win := d.wseq, filled := NSet.insert q.filled d.index,
                                  holes := if hole then NSet.insert q.holes d.index else q.holes } ∧
        (hole = true → t.fget Fld.SHF_POOLp_STATUS_HOLE k = 1) ∧
        (let l := s.fget Fld.SHF_POOLp_CTRL_FILL_LOCK k
         t.lock (s.poolOwner k) l = min (s.lock (s.poolOwner k) l + 1) 0xFFFFFFFF) ∧
        (∀ a, (a < s.poolHead k ring 0 ∨ s.poolHead k ring 0 + s.poolW k * 32 ≤ a) →
          (a < s.poolSlot k ring d.index ∨ s.poolSlot k ring d.index + data.length ≤ a) → t.cell a = s.cell a)) ∧
      (v.2 ≠ 0 ∨ w.2 ≠ 0 → exec (.sampleLand b) s = .next w.1 ∧ w.1.buf b.val = bufIdle ∧ w.1.poolPos k ring = some q))) ∧
  (∀ (c : CmdRef) (d : Cmd) (s : State) (late : Bool), s.running c 0x42 = some d → (d.pieces = 0 ↔ late = false) →
    let i : Instr := if late then .feedWindowReady c else .feed c
    let k := fdPool d
    let w := cStep d / max 1 (s.fget Fld.SHF_POOLp_SPW_SPW k)
    let at' := w % max 1 (s.poolNwin k)
    let pos := s.poolPos k at'
    (s.poolOn k = false → ∃ t, exec i s = .next t ∧ CmdEnded t c 0x0860 ∧ t = { s with queues := t.queues }) ∧
    (s.poolOn k = true → (pos = none ∨ ∃ q, pos = some q ∧ (q.win < w ∨ (q.win = w ∧ q.filled.length < s.poolW k))) →
      (late = true → exec i s = .next s) ∧
      (late = false → ∃ t, exec i s = .next t ∧ t.cmdAt c.part.val c.queue.val c.slot = some { d with pieces := 1 } ∧
        t = { s with rf := t.rf, queues := t.queues } ∧ KeepsRegs s t (· == .SHF_POOLp_STATUS))) ∧
    (∀ q, s.poolOn k = true → pos = some q →
      (w < q.win → ∃ t, exec i s = .next t ∧ CmdEnded t c 0x0862 ∧ t = { s with queues := t.queues }) ∧
      (q.win = w → s.poolW k ≤ q.filled.length →
        (s.poolW k ≤ q.holes.length → ∃ t, exec i s = .next t ∧ CmdEnded t c 0x0863 ∧ t = { s with queues := t.queues }) ∧
        (q.holes.length < s.poolW k → ∃ t st, exec i s = .next t ∧ CmdEnded t c st ∧ t.ing = s.ing ∧
          ((s.feedSlots d q).any (·.2) = true → t.fget Fld.SHF_POOLp_STATUS_SUBST k = 1) ∧
          (s.tier = State.reset.tier → (d.desc 1).rank = 0 → ∀ a,
            (∀ r ∈ (d.desc 0).rows, a < r.1 ∨ r.1 + s.poolTubelet k * s.poolElem k ≤ a) → t.cell a = s.cell a))))) ∧
  (∀ (c : CmdRef) (s : State), s.running c 0x42 = none → exec (.feed c) s = .next s ∧ exec (.feedWindowReady c) s = .next s) ∧
  (∀ (c : CmdRef) (d : Cmd) (s : State), s.running c 0x42 = some d →
    (d.pieces ≠ 0 → exec (.feed c) s = .next s) ∧ (d.pieces = 0 → exec (.feedWindowReady c) s = .next s))

/-! ## Gradient reduction -/

/-- ALLREDUCE starts its group's reduction or ends; it fails where its attempt is marked or its gradient cannot be read; in a group of one member it ends
at once; a second one waits. AGREE, PARTIAL, RESULT and SIGNS are held where no reduction runs, or where the running one does not take them yet, and stay
with their sender where the buffer is full; one for a group the part is not in, of an older or a later epoch, or of a marked attempt, is counted and discarded; one whose
values differ from the running reduction's fails it with COL_RESIDUE and marks the attempt; one that is taken leaves the reduction running or
ends its command. COMMIT fails where its attempt is marked, and waits for a running one; rank 0 sends the token, and alone in its group commits; other
members send it on once they hold it, and otherwise wait for it; R365 holds the first lap back. A token for another member is sent on; one that
is not acted on changes nothing; TOKEN_READY is kept, sent on or, at rank 0, commits the step; TOKEN_COMMIT commits it. STEP_ABORT marks its attempt, once. The
watchdog aborts a reduction or a commit, and reports a commit whose second lap is lost. No other group's state changes. -/
def Obligations.Collective : Prop :=
  let others : State → State → Nat → Prop := fun s t g => ∀ h, h ≠ g → t.colSt h = s.colSt h
  (∀ (c : CmdRef) (d : Cmd) (s : State), s.running c 0x50 = some d → (s.colSt (cGroup d)).run = none →
    (∃ t, exec (.allreduce c) s = .next t ∧ ((t.colSt (cGroup d)).run.isSome = true ∨ ∃ st, CmdEnded t c st) ∧ others s t (cGroup d)) ∧
    (s.colMarked (cGroup d) (cStep d) (arAttempt (cOparg d)) = true → ∃ t, exec (.allreduce c) s = .next t ∧ CmdEnded t c 0x0A02 ∧
      t = { s with queues := t.queues }) ∧
    (s.colMarked (cGroup d) (cStep d) (arAttempt (cOparg d)) = false → (d.desc 2).rank = 0 → (s.fetchTensor c.part.val (d.desc 0)).2 ≠ 0 →
      ∃ t, exec (.allreduce c) s = .next t ∧ CmdEnded t c (s.fetchTensor c.part.val (d.desc 0)).2 ∧ (t.colSt (cGroup d)).run = none ∧
      (cStep d, arAttempt (cOparg d)) ∈ (t.colSt (cGroup d)).failed ∧ KeepsMem s t) ∧
    (s.grpDims (cGroup d) = [] → ∃ t st, exec (.allreduce c) s = .next t ∧ CmdEnded t c st ∧ (t.colSt (cGroup d)).run = none ∧
      (st = 0 → (t.colSt (cGroup d)).arDone = cStep d ∧ t.fget Fld.COL_GRPg_STATE_PHASE (cGroup d) = 0))) ∧
  (∀ (c : CmdRef) (s : State), s.running c 0x50 = none ∨ (∃ d, s.running c 0x50 = some d ∧ (s.colSt (cGroup d)).run.isSome = true) →
    exec (.allreduce c) s = .next s) ∧
  (∀ (h : RouteHdr) (ch : ColHdr) (recs : List AgreeRec) (blocks : List GrBlock) (signs : List (BitVec 64)) (s : State),
    ∀ e ∈ ([(.agree h ch recs, { kind := 1, src := h.src, ch := ch, recs := recs, blocks := [], signs := [] }),
        (.partialSum h ch blocks, { kind := 2, src := h.src, ch := ch, recs := [], blocks := blocks, signs := [] }),
        (.result h ch blocks, { kind := 3, src := h.src, ch := ch, recs := [], blocks := blocks, signs := [] }),
        (.signs h ch signs, { kind := 4, src := h.src, ch := ch, recs := [], blocks := [], signs := signs })] : List (Instr × ColMsg)),
      let g := h.group
      let mine := (s.ownRank g).isSome = true ∧ h.epoch = s.epoch g ∧ s.colMarked g ch.step ch.attempt = false
      (64 ≤ g → exec e.1 s = .next s) ∧
      (g < 64 → mine → (s.colSt g).run = none → s.colFull g e.2 = false → ∃ t, exec e.1 s = .next t ∧
        (t.colSt g).held = (s.colSt g).held ++ [e.2] ∧ t.fbit Fld.COL_GRPg_STATE_HELD g = true ∧ others s t g ∧
        t = { s with rf := t.rf, col := t.col } ∧ KeepsRegs s t (· == .COL_GRPg_STATE)) ∧
      (g < 64 → mine → (s.colSt g).run = none → s.colFull g e.2 = true → exec e.1 s = .next s) ∧
      (g < 64 → s.ownRank g = none ∨ h.epoch < s.epoch g ∨ (h.epoch = s.epoch g ∧ s.colMarked g ch.step ch.attempt = true) →
        ∃ t, exec e.1 s = .next t ∧ t.fget Fld.PER_GRPg_DISC_STALE_CNT g = (s.fget Fld.PER_GRPg_DISC_STALE_CNT g + 1) % 65536 ∧
        OnlyRegs s t [regKey .PER_GRPg_DISC g 0]) ∧
      (g < 64 → (s.ownRank g).isSome = true → s.epoch g < h.epoch → ∃ t, exec e.1 s = .next t ∧
        t.fget Fld.PER_GRPg_DISC_AHEAD_CNT g = (s.fget Fld.PER_GRPg_DISC_AHEAD_CNT g + 1) % 65536 ∧
        OnlyRegs s t [regKey .PER_GRPg_DISC g 0]) ∧
      (∀ run, g < 64 → mine → (s.colSt g).run = some run → ch.step = run.step → ch.attempt = run.attempt → run.same e.2 = false →
        ch.tid = run.tid ∨ e.2.kind ≠ 1 ∨ run.phase < 2 → ∃ t, exec e.1 s = .next t ∧ (t.colSt g).run = none ∧
        t.colMarked g ch.step ch.attempt = true ∧ t.fget Fld.COL_GRPg_STATUS_MISMATCH g = 1 ∧ t.fget Fld.COL_GRPg_STATUS_RESIDUE g = 1 ∧
        others s t g ∧ ∀ d, s.running run.ref 0x50 = some d → CmdEnded t run.ref 0x0A01) ∧
      (∀ run, g < 64 → mine → (s.colSt g).run = some run →
        run.same e.2 = true ∨ ch.step ≠ run.step ∨ ch.attempt ≠ run.attempt ∨ (ch.tid ≠ run.tid ∧ e.2.kind = 1 ∧ 2 ≤ run.phase) →
        (s.colWants g run e.2 = false → s.colFull g e.2 = true → exec e.1 s = .next s) ∧
        (s.colWants g run e.2 = false → s.colFull g e.2 = false → run.bad = none → run.phase ≠ 4 → run.left ≠ [] →
          (s.colSt g).held.find? (s.colWants g run) = none → ∃ t, exec e.1 s = .next t ∧
          t.colSt g = { s.colSt g with held := (s.colSt g).held ++ [e.2] } ∧ others s t g ∧ t = { s with rf := t.rf, col := t.col }) ∧
        (s.colWants g run e.2 = true ∨ s.colFull g e.2 = false → ∃ t, exec e.1 s = .next t ∧ others s t g ∧
          ((t.colSt g).run = none → ∀ d, s.running run.ref 0x50 = some d → ∃ st, CmdEnded t run.ref st)))) ∧
  (∀ (c : CmdRef) (d : Cmd) (s : State), s.running c 0x51 = some d →
    let g := cGroup d
    let a := cOparg d % 16
    let k : ColCommit := { ref := c, step := cStep d, attempt := a, fwd := false }
    ((s.colSt g).commit.isSome = true → exec (.commit c) s = .next s) ∧
    ((s.colSt g).commit = none → s.colMarked g (cStep d) a = true → ∃ t, exec (.commit c) s = .next t ∧ CmdEnded t c 0x0A02 ∧
      t = { s with queues := t.queues }) ∧
    ((s.colSt g).commit = none → s.colMarked g (cStep d) a = false →
      (s.ownRank g = some 0 → s.grpSize g ≤ 1 → s.firstLapFree g (cStep d) = true → ∃ t st, exec (.commit c) s = .next t ∧ CmdEnded t c st ∧
        (s.ledgerOn (s.groupOwner g) = false → st = 0) ∧ (t.rd .COL_GRPg_CSTEP g).toNat = cStep d ∧ (t.colSt g).commit = none ∧
        (t.colSt g).held = [] ∧ (t.colSt g).marks = [] ∧ others s t g) ∧
      (∀ r, s.ownRank g = some r → r = 0 ∨ (s.colSt g).tokens.contains (cStep d, a) = true → 1 < s.grpSize g → s.firstLapFree g (cStep d) = true →
        ∃ t, exec (.commit c) s = .next t ∧ (t.colSt g).commit = some { k with fwd := true } ∧
        (t.colSt g).tokens.contains (cStep d, a) = false ∧ t.fget Fld.COL_GRPg_STATE_PHASE g = 5 ∧ t.queues = s.queues ∧ t.mem = s.mem ∧
        others s t g ∧ (∀ z n l ls, s.route g (s.toPhys (s.memberAt g (s.nextRank g r false))) = some (z, n, l :: ls) → ∃ p b,
          Output.peerCtl p b ∈ t.out ∧ fieldAt b 0 1 = 1 ∧ fieldAt b 1 1 = g % 256 ∧ fieldAt b 8 4 = cStep d)) ∧
      (∀ r, s.ownRank g = some r → (r ≠ 0 ∧ (s.colSt g).tokens.contains (cStep d, a) = false) ∨ s.firstLapFree g (cStep d) = false →
        ∃ t, exec (.commit c) s = .next t ∧ (t.colSt g).commit = some k ∧ t.fget Fld.COL_GRPg_STATE_PHASE g = 4 ∧ others s t g ∧
        t = { s with rf := t.rf, col := t.col } ∧ KeepsRegs s t (· == .COL_GRPg_STATE)))) ∧
  (∀ (c : CmdRef) (s : State), s.running c 0x51 = none → exec (.commit c) s = .next s) ∧
  (∀ (port : PeerPort) (m : CtlMsg) (s : State), s.portActive port.val = false ∨ 64 ≤ m.group ∨ s.grpSize m.group = 0 →
    exec (.tokenReady port m) s = .next s ∧ exec (.tokenCommit port m) s = .next s ∧ exec (.stepAbort port m) s = .next s) ∧
  (∀ (port : PeerPort) (m : CtlMsg) (s : State), s.portActive port.val = true → m.group < 64 → s.grpSize m.group ≠ 0 →
    (s.tokenHere m = false → ∀ i ∈ ([.tokenReady port m, .tokenCommit port m] : List Instr), ∃ t, exec i s = .next t ∧ t.col = s.col ∧
      t.queues = s.queues ∧ t.mem = s.mem) ∧
    (s.tokenHere m = true → s.ctlTaken m = false → exec (.tokenReady port m) s = .next s ∧ exec (.tokenCommit port m) s = .next s) ∧
    (s.tokenHere m = true → s.ownRank m.group = some 0 → exec (.tokenCommit port m) s = .next s) ∧
    (s.ownRank m.group = none → ∃ t, exec (.stepAbort port m) s = .next t ∧ t.col = s.col ∧ t.queues = s.queues ∧ t.mem = s.mem) ∧
    ((s.ownRank m.group).isSome = true → s.ctlTaken m = false → exec (.stepAbort port m) s = .next s)) ∧
  (∀ (port : PeerPort) (m : CtlMsg) (s : State), s.portActive port.val = true → m.group < 64 → s.grpSize m.group ≠ 0 → s.ctlTaken m = true →
    (∀ r, s.ownRank m.group = some (r + 1) → s.tokenHere m = true →
      ((s.colSt m.group).commit = none → ∃ t, exec (.tokenReady port m) s = .next t ∧ (m.step, m.attempt) ∈ (t.colSt m.group).tokens ∧
        others s t m.group ∧ t = { s with rf := t.rf, col := t.col } ∧ KeepsRegs s t (· == .COL_GRPg_STATE)) ∧
      (∀ k, (s.colSt m.group).commit = some k → k.step = m.step → k.attempt = m.attempt →
        (k.fwd = true → exec (.tokenReady port m) s = .next s) ∧
        (k.fwd = false → s.firstLapFree m.group m.step = true → 1 < s.grpSize m.group → ∃ t, exec (.tokenReady port m) s = .next t ∧
          (t.colSt m.group).commit = some { k with fwd := true } ∧ t.queues = s.queues ∧ t.mem = s.mem) ∧
        (k.fwd = false → s.firstLapFree m.group m.step = false → ∃ t, exec (.tokenReady port m) s = .next t ∧
          (t.colSt m.group).commit = some k ∧ (m.step, m.attempt) ∈ (t.colSt m.group).tokens ∧ t = { s with rf := t.rf, col := t.col }))) ∧
    (∀ k d, s.ownRank m.group = some 0 → s.tokenHere m = true → (s.colSt m.group).commit = some k → k.fwd = true → k.step = m.step →
      k.attempt = m.attempt → s.running k.ref 0x51 = some d → ∃ t st, exec (.tokenReady port m) s = .next t ∧
        t.rd .COL_GRPg_CSTEP m.group = BitVec.ofNat 32 m.step ∧ CmdEnded t k.ref st ∧ (s.ledgerOn (s.groupOwner m.group) = false → st = 0) ∧
        (t.colSt m.group).commit = none) ∧
    (s.ownRank m.group = some 0 → s.tokenHere m = true →
      (∀ k, (s.colSt m.group).commit = some k → k.fwd = false ∨ k.step ≠ m.step ∨ k.attempt ≠ m.attempt) →
      exec (.tokenReady port m) s = .next s) ∧
    (∀ r, s.ownRank m.group = some (r + 1) → s.tokenHere m = true → ∃ t, exec (.tokenCommit port m) s = .next t ∧
      t.rd .COL_GRPg_CSTEP m.group = BitVec.ofNat 32 m.step ∧ (t.colSt m.group).held = [] ∧ (t.colSt m.group).marks = [] ∧
      ∀ k d, (s.colSt m.group).commit = some k → k.step = m.step → k.attempt = m.attempt → s.running k.ref 0x51 = some d →
        (t.colSt m.group).commit = none ∧ ∃ st, CmdEnded t k.ref st) ∧
    ((s.ownRank m.group).isSome = true → ∃ t, exec (.stepAbort port m) s = .next t ∧ t.colMarked m.group m.step m.attempt = true ∧
      t.fget Fld.COL_GRPg_STATUS_ABORT_RX m.group = 1 ∧ others s t m.group ∧ exec (.stepAbort port m) t = .next t)) ∧
  (∀ (g : GroupId) (s : State),
    (∀ r, (s.colSt g.val).run = some r → ∃ t, exec (.colWatchdog g) s = .next t ∧ t.colMarked g.val r.step r.attempt = true ∧
      (t.colSt g.val).run = none ∧ t.fget Fld.COL_GRPg_STATUS_ABORT_TX g.val = 1 ∧ others s t g.val ∧
      ∀ d, s.running r.ref 0x50 = some d → CmdEnded t r.ref 0x0A02) ∧
    (∀ k, (s.colSt g.val).run = none → (s.colSt g.val).commit = some k → k.fwd = true → ∃ t, exec (.colWatchdog g) s = .next t ∧
      t.fget Fld.COL_GRPg_STATUS_COMMIT_LOST g.val = 1 ∧ (t.colSt g.val).commit = none ∧ t.mem = s.mem ∧ others s t g.val ∧
      ∀ d, s.running k.ref 0x51 = some d → CmdEnded t k.ref 0x0A05) ∧
    (∀ k, (s.colSt g.val).run = none → (s.colSt g.val).commit = some k → k.fwd = false → ∃ t, exec (.colWatchdog g) s = .next t ∧
      t.colMarked g.val k.step k.attempt = true ∧ (t.colSt g.val).commit = none ∧ t.fget Fld.COL_GRPg_STATUS_ABORT_TX g.val = 1 ∧
      others s t g.val ∧ ∀ d, s.running k.ref 0x51 = some d → CmdEnded t k.ref 0x0A02) ∧
    ((s.colSt g.val).run = none → (s.colSt g.val).commit = none → exec (.colWatchdog g) s = .next s))

/-! ## Snapshots, restores, the ledger and digests -/

/-- SNAPSHOT waits for its update record, and fails where its group is held, a byte cannot be read or its image does not fit. A PARTNER snapshot
without digest neighbours and without a live partner is complete with its local copy: PROTECTED_STEP is its step and the command has ended; with a live partner
it goes on until that answers. One to flash or the store sends its writes, or ends where the adapter has no flash; it ends when its last write
has completed, and FLASH_STEP or STORE_STEP is its step; a failed write ends it with a status other than 0. RESTORE from the local copy ends, or with it the
recovery; from the partner, the replicas, flash or the store it asks for pieces, or ends with RCV_NO_SOURCE where it cannot. REGISTER, READ and MARK of
LEDGER end; REGISTER with a record that fails its checks ends with NUM_BAD_ENTRY and changes no byte; READ writes what was read of an entry. EXPORT to
HBM ends; to the host it sends its writes and ends with the last. Setting ENABLE of the ledger counts its entries, and does not stand where the
table leaves the partition's memory. DIGEST waits for its bytes and a free unit, then writes the CRC-64 of its stream and holds units. A command that does
not run, and a completion of no request, change nothing. Clauses on bytes are for a machine whose tier engines have no object. -/
def Obligations.SnapshotsAndDigests : Prop :=
  (∀ (c : CmdRef) (d : Cmd) (s : State), s.running c 0x60 = some d →
    let p := c.part
    let g := cGroup d
    let waits := (vget s.rcv p).snaps.any (fun x => x.ref == c) || (vget s.rcv p).due.any (fun e => e.2.2 == (g, cStep d))
    let x := s.fetchTensors p.val (d.listed ++ (if snDigest d then [d.desc 1] else []))
    let y := x.1.readLedger p.val
    let img := y.1.imageOf p d
    let a := snAddr d + cStep d % 2 * snSpace d
    (waits = true → exec (.snapshot c) s = .next s) ∧
    (waits = false → s.snapHeld p d = true → ∃ t, exec (.snapshot c) s = .next t ∧ CmdEnded t c 0x0B01 ∧ t = { s with queues := t.queues }) ∧
    (waits = false → s.snapHeld p d = false → x.2 ≠ 0 → ∃ t, exec (.snapshot c) s = .next t ∧ CmdEnded t c x.2 ∧ KeepsMem s t) ∧
    (waits = false → s.snapHeld p d = false → x.2 = 0 → y.2 ≠ 0 → ∃ t, exec (.snapshot c) s = .next t ∧ CmdEnded t c y.2) ∧
    (waits = false → s.snapHeld p d = false → x.2 = 0 → y.2 = 0 → snSpace d < img.length → ∃ t, exec (.snapshot c) s = .next t ∧
      CmdEnded t c 0x0B02) ∧
    (waits = false → s.snapHeld p d = false → x.2 = 0 → y.2 = 0 → img.length ≤ snSpace d →
      (snLayer d = 0 → (y.1.writeAs p.val a img).2 ≠ 0 → ∃ t, exec (.snapshot c) s = .next t ∧ CmdEnded t c (y.1.writeAs p.val a img).2) ∧
      (snLayer d = 0 → (y.1.writeAs p.val a img).2 = 0 → s.partnerLive p = false → snDigest d = false ∨ s.digestRanks g = [] →
        (s.colSt g).commit = none → ∃ t, exec (.snapshot c) s = .next t ∧ CmdEnded t c 0 ∧
        t.rd .RCV_GRPg_PROT g p.val = BitVec.ofNat 32 (cStep d) ∧ (snDigest d = true → t.rd .RCV_GRPg_W g p.val = BitVec.ofNat 32 (cStep d)) ∧
        (∃ k ∈ (vget t.rcv p).copies, k.group = g ∧ k.step = cStep d ∧ k.addr = a ∧ k.bytes = img.length ∧ k.whole = true) ∧
        (s.tier = State.reset.tier → a + img.length ≤ t2Base → (∀ i < img.length, t.cell (a + i) = img.getD i 0) ∧
          ∀ b, (b < a ∨ a + img.length ≤ b) → t.cell b = y.1.cell b)) ∧
      (snLayer d = 0 → (y.1.writeAs p.val a img).2 = 0 → s.partnerLive p = true → ∃ t, exec (.snapshot c) s = .next t ∧ t.queues = s.queues ∧
        ∃ z ∈ (vget t.rcv p).snaps, z.ref = c ∧ z.layer = 0 ∧ z.group = g ∧ z.step = cStep d ∧ z.acked = false) ∧
      (snLayer d ≠ 0 → s.flashAbsent (snPort d) (snAddr d) = true → ∃ t st, exec (.snapshot c) s = .next t ∧ CmdEnded t c st ∧ st ≠ 0) ∧
      (snLayer d ≠ 0 → s.flashAbsent (snPort d) (snAddr d) = false → ∃ t, exec (.snapshot c) s = .next t ∧ t.queues = s.queues ∧
        t.snapOut c ≠ [] ∧ ∃ z ∈ (vget t.rcv p).snaps, z.ref = c ∧ z.layer = snLayer d ∧ z.group = g ∧ z.step = cStep d))) ∧
  (∀ (c : CmdRef) (s : State), s.running c 0x60 = none → exec (.snapshot c) s = .next s) ∧
  (∀ (k : EPort) (tag st : Nat) (data : List Byte) (s : State), s.eut.outst.find? (fun o => o.port == k.val && o.tag == tag % 4096) = none →
    exec (.snapCpl k tag st data) s = .next s) ∧
  (∀ (k : EPort) (o : Outst) (d : Cmd) (tag st : Nat) (data : List Byte) (s : State),
    s.eut.outst.find? (fun o => o.port == k.val && o.tag == tag % 4096) = some o →
    let more := (s.eut.outst.filter (· != o)).any (fun z => z.ref == o.ref) || s.eut.held.any (fun z => z.out.ref == o.ref)
    (∀ x, s.running o.ref 0x60 = some d → (vget s.rcv o.ref.part).snaps.find? (fun y => y.ref == o.ref) = some x →
      (st = 0 → more = false → ∃ t, exec (.snapCpl k tag st data) s = .next t ∧ CmdEnded t o.ref 0 ∧ t.mem = s.mem ∧
        t.rd (if x.layer = 1 then .RCV_GRPg_FLASH else .RCV_GRPg_STORE) x.group o.ref.part.val = BitVec.ofNat 32 x.step ∧
        KeepsRegs s t (fun r => r == .RCV_GRPg_FLASH || r == .RCV_GRPg_STORE || r == .PER_STATUS)) ∧
      (st = 0 → more = true → ∃ t, exec (.snapCpl k tag st data) s = .next t ∧ t.queues = s.queues ∧ t.mem = s.mem ∧ t.rcv = s.rcv ∧
        KeepsRegs s t (· == .PER_STATUS)) ∧
      (st ≠ 0 → ∃ t e, exec (.snapCpl k tag st data) s = .next t ∧ e ≠ 0 ∧ CmdEnded t o.ref e ∧ t.snapOut o.ref = [] ∧ t.mem = s.mem ∧
        KeepsRegs s t (· == .PER_STATUS))) ∧
    (s.running o.ref 0x70 = some d →
      (st = 0 → more = false → ∃ t, exec (.snapCpl k tag st data) s = .next t ∧ CmdEnded t o.ref 0 ∧ t.mem = s.mem ∧
        (evRoom s.evr.buf.length 0 = true → ∃ r ∈ t.evr.buf, r.code = 0x0407)) ∧
      (st = 0 → more = true → ∃ t, exec (.snapCpl k tag st data) s = .next t ∧ t.queues = s.queues ∧ t.mem = s.mem) ∧
      (st ≠ 0 → ∃ t e, exec (.snapCpl k tag st data) s = .next t ∧ e ≠ 0 ∧ CmdEnded t o.ref e ∧ t.mem = s.mem)) ∧
    (∀ x, s.running o.ref 0x61 = some d → (vget s.rcv o.ref.part).rests.find? (fun y => y.ref == o.ref) = some x → st ≠ 0 →
      ∃ t, exec (.snapCpl k tag st data) s = .next t ∧ CmdEnded t o.ref 0x0B07 ∧ t.mem = s.mem)) ∧
  (∀ (c : CmdRef) (d : Cmd) (s : State), s.running c 0x61 = some d → (vget s.rcv c.part).rests.any (fun x => x.ref == c) = false →
    let p := c.part
    let asks (t : State) (n : Nat) : Prop := t.mem = s.mem ∧ t.queues = s.queues ∧ ∃ x, (vget t.rcv p).rests = (vget s.rcv p).rests ++ [x] ∧
      x.ref = c ∧ x.source = n ∧ x.group = cGroup d ∧ x.step = cStep d
    let dst := coordOf (coordNum (s.copyHolder p))
    (rsSource d = 0 → ∃ t, exec (.restore c) s = .next t ∧
      ((∃ st, CmdEnded t c st ∧ (st = 0 → t.rd .RCV_GRPg_UPD (cGroup d) p.val = BitVec.ofNat 32 (cStep d))) ∨
        (s.rcvState p = 3 ∧ t.rcvState p = 0))) ∧
    (rsSource d = 1 → s.route 0xFF (s.toPhys dst) ≠ none → ∃ t, exec (.restore c) s = .next t ∧ asks t 1 ∧ KeepsRegs s t (fun _ => false)) ∧
    (rsSource d = 1 → s.route 0xFF (s.toPhys dst) = none → ∃ t, exec (.restore c) s = .next t ∧ CmdEnded t c 0x0B07 ∧
      t.fget Fld.PER_STATUS_UNREACH = 1 ∧ (vget t.rcv p).rests = (vget s.rcv p).rests ∧ t.mem = s.mem ∧
      (s.recovering p = false → KeepsRegs s t (· == .PER_STATUS))) ∧
    (rsSource d = 2 → s.replicas p (cGroup d) = [] → ∃ t, exec (.restore c) s = .next t ∧ CmdEnded t c 0x0B07 ∧ t.mem = s.mem) ∧
    (rsSource d = 2 → s.replicas p (cGroup d) ≠ [] → ∃ t, exec (.restore c) s = .next t ∧ (asks t 2 ∨ CmdEnded t c 0x0B07)) ∧
    (3 ≤ rsSource d → ∃ t, exec (.restore c) s = .next t ∧ asks t (rsSource d) ∧ (0 < snSpace d → t.snapOut c ≠ []) ∧
      KeepsRegs s t (fun _ => false))) ∧
  (∀ (c : CmdRef) (s : State), s.running c 0x61 = none ∨ (vget s.rcv c.part).rests.any (fun x => x.ref == c) = true →
    exec (.restore c) s = .next s) ∧
  (∀ (c : CmdRef) (d : Cmd) (s : State), s.running c 0x70 = some d →
    (cOparg d % 16 < 3 → ∃ t st, exec (.ledger c) s = .next t ∧ CmdEnded t c st ∧
      (cOparg d % 16 = 1 → st = 0 → (d.desc 1).dim 1 = 1 → s.tier = State.reset.tier →
        let a := (d.desc 1).base + (d.desc 1).bitPos (0, 0, 0, 0) / 8
        a + 256 ≤ t2Base → ∀ i < min 256 d.aux.length, t.cell (a + i) = d.aux.getD i 0)) ∧
    (let x := s.fetchTensor c.part.val (d.desc 0)
     cOparg d % 16 = 0 → x.2 = 0 → (x.1.columns (d.desc 0)).all (x.1.recordOk c.part.val) = false →
      ∃ t, exec (.ledger c) s = .next t ∧ CmdEnded t c 0x0403 ∧ KeepsMem s t ∧
        ∀ r i a, hbmLoud r = false → t.rd r i a = s.rd r i a) ∧
    (3 ≤ cOparg d % 16 →
      let x := s.fetchTensors c.part.val d.listed
      (d.pieces ≠ 0 → exec (.ledger c) s = .next s) ∧
      (d.pieces = 0 → x.2 ≠ 0 → ∃ t, exec (.ledger c) s = .next t ∧ CmdEnded t c x.2 ∧ KeepsMem s t) ∧
      (d.pieces = 0 → x.2 = 0 → exDest d = 0 → ∃ t st, exec (.ledger c) s = .next t ∧ CmdEnded t c st ∧
        st = (x.1.writeRuns c.part.val [(exAddr d, denseRuns 0 (x.1.exportImage (leNat d.aux) d.listedSw).1)]).2) ∧
      (d.pieces = 0 → x.2 = 0 → exDest d ≠ 0 → s.flashAbsent (exPort d) (exAddr d) = true → ∃ t st, exec (.ledger c) s = .next t ∧
        CmdEnded t c st ∧ st ≠ 0) ∧
      (d.pieces = 0 → x.2 = 0 → exDest d ≠ 0 → s.flashAbsent (exPort d) (exAddr d) = false → ∃ t, exec (.ledger c) s = .next t ∧
        t.cmdAt c.part.val c.queue.val c.slot = some { d with pieces := (x.1.exportImage (leNat d.aux) d.listedSw).2 } ∧ KeepsMem s t))) ∧
  (∀ (c : CmdRef) (s : State), s.running c 0x70 = none → exec (.ledger c) s = .next s) ∧
  (∀ (p : Part) (s : State), 6 ≤ s.fget Fld.NUM_LEDGER_CTRL_LOG2_ENTRIES 0 p.val → s.fget Fld.NUM_LEDGER_CTRL_LOG2_ENTRIES 0 p.val ≤ 14 →
    let fits := covers (s.ownedT1 p.val) ((s.ownedT1 p.val).length + 1) (s.entAddr p.val 0) (s.entAddr p.val 0 + 256 * s.ledgerSize p.val)
    (s.ledgerOn p.val = false → fits = true → ∃ t, exec (.ledgerEnable p) s = .next t ∧ t.ledgerOn p.val = true ∧
      t.ledgerSize p.val = s.ledgerSize p.val ∧
      t.fget Fld.NUM_LEDGER_CTRL_USED 0 p.val = ((List.range (t.ledgerSize p.val)).filter (t.entInForce p.val)).length ∧
      t.queues = s.queues) ∧
    (s.ledgerOn p.val = true → fits = true → ∃ t, exec (.ledgerEnable p) s = .next t ∧ t.ledgerOn p.val = true ∧
      t.ledgerSize p.val = s.ledgerSize p.val ∧ t.mem = s.mem ∧ t.queues = s.queues) ∧
    (fits = false → ∃ t, exec (.ledgerEnable p) s = .next t ∧ t.ledgerOn p.val = false ∧ t.mem = s.mem ∧ t.queues = s.queues)) ∧
  (∀ (c : CmdRef) (d : Cmd) (s : State), s.running c 0x80 = some d →
    let x := s.t2Stage c (d.listed.flatMap (fun e => [(e.base, e.extent)] ++ (if isMx e.dtype then [(e.scale, e.scaleCount)] else [])))
    let y := x.1.fetchTensors c.part.val d.listed
    let v := leBytes 8 (crc64 (y.1.digestStream d.listed))
    (x.2 = false ∨ x.1.freeUnits = [] → exec (.digest c) s = .next x.1) ∧
    (x.2 = true → x.1.freeUnits ≠ [] → y.2 ≠ 0 → ∃ t, exec (.digest c) s = .next t ∧ CmdEnded t c y.2) ∧
    (x.2 = true → x.1.freeUnits ≠ [] → y.2 = 0 → ∃ t st u, exec (.digest c) s = .next t ∧ CmdEnded t c st ∧
      (vget t.chk u).owner = some c ∧ t.fbit Fld.CHK_Uu_CTRL_OWNED u.val = true ∧
      (s.tier = State.reset.tier → st = (y.1.writeAs c.part.val (d.desc 1).base v).2 ∧
        (st = 0 → (d.desc 1).base + 8 ≤ t2Base → (∀ i < 8, t.cell ((d.desc 1).base + i) = v.getD i 0) ∧
          ∀ a, (a < (d.desc 1).base ∨ (d.desc 1).base + 8 ≤ a) → t.cell a = s.cell a)))) ∧
  (∀ (c : CmdRef) (s : State), s.running c 0x80 = none → exec (.digest c) s = .next s)

/-! ## Host requests and the peer torus -/

/-- A host request on a port of no partition changes nothing; one that reuses a TAG sets BAD_TXN; one that arrives during its partition's reset completes with
RESET, or is discarded where it is posted; one behind a waiting request of its port, or one that itself waits, is kept in order; any other is applied. A register
request is answered with its status; a legal read brings the word, a legal write or DOORBELL has the write's effect, and starts the reset it asks
for; an illegal one sets ACCESS_ERR. A DMA_WR the partition may make stores its bytes and no other; one it may not make, or that meets a retired page, sets REQ_ERR and
stores nothing. A clean DMA_RD brings the bytes, a poisoned one completes with POISON, one of T2 is outstanding or answered, one it may not make brings the
status. A message that its VC does not carry, or of a reused TAG, sets BAD_TXN. A message on its way leaves on its leg's port and is counted, or is
dropped. A DEAD_NOTICE adds its coordinate to the dead table, or sets DEAD_FULL; one of a dead or the own coordinate changes nothing; software removes
entries. A remap entry is valid only where R313 lets it be. A group becomes ACTIVE where R324 lets it; while it is, PAIR, OWNER and its dimensions
stand; else they take what is written, the dimensions within the extents; a view other than the global one writes nothing. Clauses on bytes are for a
machine whose tier engines have no object. -/
def Obligations.PortsAndTorus : Prop :=
  let instr : HostReq → Instr := fun q => match q.kind with
    | .regRd a n => .regRd q.port q.tag a n | .regWr a n v => .regWr q.port q.tag a n v | .dmaWr a d => .dmaWr q.port q.tag a d
    | .dmaRd a n => .dmaRd q.port q.tag a n | .doorbell c i v => .doorbell q.port q.tag c i v
  let free : State → EPort → Prop := fun s k => s.eut.waiting.any (fun x => x.port == k) = false
  (∀ (q : HostReq) (s : State), s.hostOf q.port = none → exec (instr q) s = .next s) ∧
  (∀ (q : HostReq) (p : Part) (s : State), s.hostOf q.port = some p →
    (s.tagBusy q.port q.tag = true → ∃ t, exec (instr q) s = .next t ∧ t.fget Fld.EUT_Ek_STATUS_BAD_TXN q.port.val = 1 ∧
      OnlyRegs s t [regKey .EUT_Ek_STATUS q.port.val 0]) ∧
    (s.tagBusy q.port q.tag = false → s.inReset p = true → ∃ t, exec (instr q) s = .next t ∧ t.mem = s.mem ∧ t.queues = s.queues ∧
      t.fget Fld.EUT_Ek_STATUS_REQ_ERR q.port.val = 1 ∧ (q.posted = false → Output.cpl q.port q.tag 5 [] ∈ t.out) ∧ KeepsRegs s t (fun _ => false)) ∧
    (s.tagBusy q.port q.tag = false → s.inReset p = false → ¬ free s q.port ∨ s.hostWaits q p = true →
      exec (instr q) s = .next { s with eut := { s.eut with waiting := s.eut.waiting ++ [q] } })) ∧
  (∀ (k : EPort) (tag addr len : Nat) (p : Part) (s : State), s.hostOf k = some p → s.tagBusy k tag = false → s.inReset p = false → free s k →
    (s.regStatus p addr len false = 0 → ∃ t, exec (.regRd k tag addr len) s = .next t ∧
      Output.cpl k tag 0 (leBytes 4 (s.regRead (.part p) addr).1.toNat) ∈ t.out ∧ t.mem = s.mem ∧ t.queues = s.queues) ∧
    (s.regStatus p addr len false ≠ 0 → ∃ t, exec (.regRd k tag addr len) s = .next t ∧ Output.cpl k tag 1 [] ∈ t.out ∧
      t.mem = s.mem ∧ t.queues = s.queues ∧ KeepsRegs s t (· == .BLK_ERR)) ∧
    (∀ v, s.regStatus p addr len true = 0 → ∃ t, exec (.regWr k tag addr len v) s = .next (s.thenReset t) ∧ Output.cpl k tag 0 [] ∈ t.out ∧
      t = (s.regWrite (.part p) addr v).sendCpl k.val 0x02 tag addr 0 []) ∧
    (∀ v, s.regStatus p addr len true ≠ 0 → ∃ t, exec (.regWr k tag addr len v) s = .next t ∧ Output.cpl k tag 1 [] ∈ t.out ∧
      t.mem = s.mem ∧ t.queues = s.queues ∧ KeepsRegs s t (· == .BLK_ERR)) ∧
    (∀ code index v,
      ((code = 0 ∧ index < 64) ∨ (code = 1 ∧ index < 4096) → s.regStatus p (doorbellAddr p code index) 4 true = 0 →
        ∃ t, exec (.doorbell k tag code index v) s = .next (s.thenReset t) ∧ Output.cpl k tag 0 [] ∈ t.out ∧
        t = (s.regWrite (.part p) (doorbellAddr p code index) v).sendCpl k.val 0x05 tag (doorbellAddr p code index) 0 []) ∧
      (¬ ((code = 0 ∧ index < 64) ∨ (code = 1 ∧ index < 4096)) → ∃ t, exec (.doorbell k tag code index v) s = .next t ∧
        Output.cpl k tag 1 [] ∈ t.out ∧ t.mem = s.mem ∧ t.queues = s.queues ∧ KeepsRegs s t (· == .BLK_ERR))) ∧
    (∀ data, s.dmaWaits p addr data.length true = false →
      (s.dmaStatus p addr data.length true = 0 → s.meetsRetired addr data.length = false → s.tier = State.reset.tier →
        addr + data.length ≤ t2Base → (s.writePhys addr data).2 = 0 → ∃ t, exec (.dmaWr k tag addr data) s = .next t ∧
        (∀ i < data.length, t.cell (addr + i) = data.getD i 0) ∧ (∀ y, (y < addr ∨ addr + data.length ≤ y) → t.cell y = s.cell y) ∧
        t.queues = s.queues ∧ ∀ r i a, hbmLoud r = false → t.rd r i a = s.rd r i a) ∧
      (s.dmaStatus p addr data.length true = 0 → s.meetsRetired addr data.length = false → (s.writeAs p.val addr data).2 ≠ 0 →
        ∃ t, exec (.dmaWr k tag addr data) s = .next t ∧ t.fget Fld.EUT_Ek_STATUS_REQ_ERR k.val = 1 ∧ t.queues = s.queues) ∧
      (s.dmaStatus p addr data.length true ≠ 0 ∨ s.meetsRetired addr data.length = true → ∃ t, exec (.dmaWr k tag addr data) s = .next t ∧
        t.fget Fld.EUT_Ek_STATUS_REQ_ERR k.val = 1 ∧ t.mem = s.mem ∧ t.queues = s.queues ∧ KeepsRegs s t (fun _ => false))) ∧
    (s.dmaWaits p addr len false = false →
      (s.dmaStatus p addr len false = 0 → isT2 (s.resolve addr) = false → (s.readAs p.val addr len).1.2 = false →
        ∃ t, exec (.dmaRd k tag addr len) s = .next t ∧ Output.cpl k tag 0 (s.readAs p.val addr len).1.1 ∈ t.out ∧
        (s.tier = State.reset.tier → (s.readAs p.val addr len).1.1 = s.cells addr len) ∧ KeepsMem s t ∧ t.queues = s.queues) ∧
      (s.dmaStatus p addr len false = 0 → isT2 (s.resolve addr) = false → (s.readAs p.val addr len).1.2 = true →
        ∃ t data, exec (.dmaRd k tag addr len) s = .next t ∧ data.length = len ∧ Output.cpl k tag 3 data ∈ t.out ∧ KeepsMem s t ∧
        t.queues = s.queues) ∧
      (s.dmaStatus p addr len false = 0 → isT2 (s.resolve addr) = true → ∃ t, exec (.dmaRd k tag addr len) s = .next t ∧
        ((k.val, tag % 4096) ∈ t.eut.hostTags ∨ ∃ st data, Output.cpl k (tag % 4096) st data ∈ t.out)) ∧
      (s.dmaStatus p addr len false ≠ 0 → ∃ t, exec (.dmaRd k tag addr len) s = .next t ∧
        Output.cpl k tag (s.dmaStatus p addr len false) [] ∈ t.out ∧ t.mem = s.mem ∧ t.queues = s.queues ∧ KeepsRegs s t (fun _ => false)))) ∧
  (∀ (k : EPort) (vc : Nat) (h : TxnHdr) (s : State),
    (s.hostOf k = none → exec (.badTxn k vc h) s = .next s) ∧
    ((s.hostOf k).isSome = true → vcCarries vc h.ttype = false → ∃ t, exec (.badTxn k vc h) s = .next t ∧
      t.fget Fld.EUT_Ek_STATUS_BAD_TXN k.val = 1 ∧ t.mem = s.mem ∧ t.queues = s.queues ∧ KeepsRegs s t (fun _ => false)) ∧
    ((s.hostOf k).isSome = true → vcCarries vc h.ttype = true → vc = 1 → s.tagBusy k h.tag = true → ∃ t, exec (.badTxn k vc h) s = .next t ∧
      t.fget Fld.EUT_Ek_STATUS_BAD_TXN k.val = 1 ∧ OnlyRegs s t [regKey .EUT_Ek_STATUS k.val 0]) ∧
    ((s.hostOf k).isSome = true → vcCarries vc h.ttype = true → vc ≠ 1 ∨ s.tagBusy k h.tag = false → exec (.badTxn k vc h) s = .next s)) ∧
  (∀ (h : RouteHdr) (vc : Nat) (flits : List (List Byte)) (s : State),
    (nextHop s.extP h s.ownP (vc - vc % 2) = none → exec (.messageForward h vc flits) s = .next s) ∧
    (∀ port out, nextHop s.extP h s.ownP (vc - vc % 2) = some (port, out) → s.portActive port = true →
      ∃ t, exec (.messageForward h vc flits) s = .next t ∧
      t.rd64 .PER_FWD_LO .PER_FWD_HI = (s.rd64 .PER_FWD_LO .PER_FWD_HI + flits.length) % 2 ^ 64 ∧ t.mem = s.mem ∧
      KeepsRegs s t (fun r => r == .PER_FWD_LO || r == .PER_FWD_HI)) ∧
    (∀ port out, nextHop s.extP h s.ownP (vc - vc % 2) = some (port, out) → s.portActive port = false →
      ∃ t, exec (.messageForward h vc flits) s = .next t ∧ t.fget Fld.PER_STATUS_DROP = 1 ∧ t.mem = s.mem ∧ KeepsRegs s t (· == .PER_STATUS))) ∧
  (∀ (port : PeerPort) (m : DeadMsg) (s : State),
    (s.portActive port.val = false ∨ s.isDead m.coord = true ∨ coordNum m.coord = coordNum s.ownP → exec (.deadNotice port m) s = .next s) ∧
    (s.portActive port.val = true → s.isDead m.coord = false → coordNum m.coord ≠ coordNum s.ownP →
      (∀ i < 64, s.fbit Fld.PER_DEADi_VALID i = true) → ∃ t, exec (.deadNotice port m) s = .next t ∧ t.deads = s.deads ∧
      t.fget Fld.PER_STATUS_DEAD_FULL = 1 ∧ t.mem = s.mem ∧ t.queues = s.queues ∧ KeepsRegs s t (· == .PER_STATUS)) ∧
    (∀ i, s.portActive port.val = true → s.isDead m.coord = false → coordNum m.coord ≠ coordNum s.ownP → i < 64 →
      s.fbit Fld.PER_DEADi_VALID i = false → ∃ t, exec (.deadNotice port m) s = .next t ∧ t.isDead m.coord = true ∧
      (∀ n ∈ s.deads, n ∈ t.deads) ∧ t.fget Fld.PER_STATUS_DEAD_ADD = 1)) ∧
  (∀ (i : GroupId) (s : State), ∃ t, exec (.perDeadRemove i) s = .next t ∧ t.fbit Fld.PER_DEADi_VALID i.val = false ∧
    OnlyRegs s t [regKey .PER_DEADi i.val 0]) ∧
  (∀ (i : GroupId) (v : Word) (s : State), ∃ t, exec (.perRemapLWrite i v) s = .next t ∧ t.remapLog i.val = wGet v 17 0 ∧
    (t.remapValid i.val = true ↔ wGet v 31 31 = 1 ∧ s.remapLOk i.val (wGet v 17 0) = true) ∧ t.mem = s.mem ∧ t.queues = s.queues ∧
    KeepsRegs s t (fun r => r == .PER_REMAPi_L || r == .PER_STATUS || r == .BLK_ERR || r == .GLB_CLAMP_HEAD)) ∧
  (∀ (i : GroupId) (v : Word) (s : State), ∃ t, exec (.perRemapPWrite i v) s = .next t ∧
    t.remapPhys i.val = (if s.remapValid i.val && !s.remapPOk i.val (wGet v 17 0) then s.remapPhys i.val else wGet v 17 0) ∧ t.mem = s.mem ∧
    t.queues = s.queues ∧ KeepsRegs s t (fun r => r == .PER_REMAPi_P || r == .PER_STATUS || r == .BLK_ERR || r == .GLB_CLAMP_HEAD)) ∧
  (∀ (r : Requester) (g : GroupId) (word : Fin 4) (v : Word) (s : State), globalWriter r = false → exec (.perGrpWrite r g word v) s = .next s) ∧
  (∀ (r : Requester) (g : GroupId) (word : Fin 4) (v : Word) (s : State), globalWriter r = true → word.val = 3 →
    ∃ t, exec (.perGrpWrite r g word v) s = .next t ∧ t.mem = s.mem ∧ t.queues = s.queues ∧
      KeepsRegs s t (fun r => r == .PER_GRPg_CTRL || r == .BLK_ERR || r == .GLB_CLAMP_HEAD) ∧
      (s.grpActive g.val = true → (t.grpActive g.val = true ↔ wGet v 0 0 = 1) ∧
        t.fget Fld.PER_GRPg_CTRL_PAIR g.val = s.fget Fld.PER_GRPg_CTRL_PAIR g.val ∧
        t.fget Fld.PER_GRPg_CTRL_OWNER g.val = s.fget Fld.PER_GRPg_CTRL_OWNER g.val) ∧
      (s.grpActive g.val = false → wGet v 4 1 ≤ 13 → t.fget Fld.PER_GRPg_CTRL_PAIR g.val = wGet v 4 1 ∧
        t.fget Fld.PER_GRPg_CTRL_OWNER g.val = wGet v 6 5 ∧
        (t.grpActive g.val = true ↔ wGet v 0 0 = 1 ∧ (s.part (wGet v 6 5)).valid = true ∧
          s.fget Fld.COL_GRPg_CFG_BUF_MIB g.val + s.otherShares g.val ≤ 64 ∧
          ∀ h < 64, h ≠ g.val → s.grpActive h = true → s.fget Fld.PER_GRPg_CTRL_PAIR h ≠ wGet v 4 1))) ∧
  (∀ (r : Requester) (g : GroupId) (word : Fin 4) (v : Word) (s : State), globalWriter r = true → word.val ≠ 3 →
    ∃ t, exec (.perGrpWrite r g word v) s = .next t ∧ t.mem = s.mem ∧ t.queues = s.queues ∧
      KeepsRegs s t (fun r => r == grpReg word.val || r == .BLK_ERR || r == .GLB_CLAMP_HEAD) ∧
      (s.grpActive g.val = true → t.rd (grpReg word.val) g.val = s.rd (grpReg word.val) g.val) ∧
      (s.grpActive g.val = false →
        let w := t.rd (grpReg word.val) g.val
        let e := max 1 (coordGet s.extL word.val)
        wGet w 5 0 = min (wGet v 5 0) (e - 1) ∧ 1 ≤ wGet w 11 6 ∧ 1 ≤ wGet w 18 12 ∧ wGet w 18 12 * Nat.gcd (wGet w 11 6) e ≤ e))

/-! ## Surviving failures -/

/-- A piece of PROTECT of an accepted ward that follows the one before is written into its ward slot and recorded; one out of order or beyond the slot loses the
slot's copy; one of no pairing changes nothing. PROTECT_ACK ends the snapshot it acknowledges. A digest is kept; the one that a snapshot waits for ends
it: with PROTECTED_STEP and WSTEP where it agrees, with RCV_SPLIT and in HOLD where it differs in a group of two. HELLO of KIND 1 accepts the pairing it
names, of KIND 2 refuses it; a request of the ward is accepted on another feed, and refused on the same one unless that is allowed. A pairing write makes the
pairing new. GO with a RID above the last one starts a recovery, of a spare where the part was not in HOLD; another only sets ACCESS_ERR. CENSUS is kept; with the last one
the leader plans, or is back in HOLD; a late census restarts in HOLD. PLAN gives a member its action, RSTEP and the epoch. FETCH is answered with the
bytes, with POISON or with ABSENT; a piece of a replica is written where it stood, and the last one ends RESTORE; a piece that a source does not have
ends it with RCV_NO_SOURCE. DONE is kept, and the last one resumes; RESUME empties the queues and ends the recovery. A message of another MTYPE or RID, or in another
state, changes nothing. Clauses on bytes are for a machine whose tier engines have no object. -/
def Obligations.Recovery : Prop :=
  (∀ (h : RouteHdr) (r : RecHdr) (o : Nat) (last : Bool) (data : List Byte) (s : State),
    (h.mtype ≠ 0x10 ∨ (s.pairPart .RCV_WARD r.sender = none ∧ last = false) → exec (.protect h r o last data) s = .next s) ∧
    (h.mtype = 0x10 → s.pairPart .RCV_WARD r.sender = none → last = true → ∃ t, exec (.protect h r o last data) s = .next t ∧
      t.mem = s.mem ∧ t.queues = s.queues ∧ t.rcv = s.rcv ∧ KeepsRegs s t (· == .PER_STATUS))) ∧
  (∀ (h : RouteHdr) (r : RecHdr) (o : Nat) (last : Bool) (data : List Byte) (p : Part) (s : State), h.mtype = 0x10 →
    s.pairPart .RCV_WARD r.sender = some p.val →
    let j := r.step % 2
    let follows := o = 0 ∨ ∃ c, Sparse.find (vget s.rcv p).ward j = some c ∧ c.group = r.group ∧ c.step = r.step ∧ c.coord = coordNum r.sender ∧
      c.bytes = o ∧ c.whole = false
    let fits := s.pairAccepted .RCV_WARD p.val = true ∧ o + data.length ≤ s.wardCap ∧ follows
    let a := s.wardAddr j o
    let w := s.writeAs 4 a data
    (fits → 0 < data.length → o % 65536 + data.length ≤ 65536 → w.2 = 0 → ∃ t k, exec (.protect h r o last data) s = .next t ∧
      Sparse.find (vget t.rcv p).ward j = some k ∧ k.group = r.group ∧ k.step = r.step ∧ k.coord = coordNum r.sender ∧
      k.bytes = o + data.length ∧ k.whole = last ∧ t.queues = s.queues ∧
      (s.tier = State.reset.tier → a + data.length ≤ t2Base → (∀ i < data.length, t.cell (a + i) = data.getD i 0) ∧
        ∀ y, (y < a ∨ a + data.length ≤ y) → t.cell y = s.cell y)) ∧
    (fits → 0 < data.length → o % 65536 + data.length ≤ 65536 → w.2 ≠ 0 → ∃ t, exec (.protect h r o last data) s = .next t ∧
      Sparse.find (vget t.rcv p).ward j = none ∧ t.queues = s.queues) ∧
    (¬ fits → ∃ t, exec (.protect h r o last data) s = .next t ∧ t.mem = s.mem ∧ t.queues = s.queues ∧
      Sparse.find (vget t.rcv p).ward j =
        (if s.pairAccepted .RCV_WARD p.val then none else Sparse.find (vget s.rcv p).ward j))) ∧
  (∀ (h : RouteHdr) (r : RecHdr) (bytes : Nat) (ok : Bool) (s : State),
    let p := s.groupPart r.group
    (h.mtype ≠ 0x11 ∨ s.pairNames .RCV_PARTNER p.val r.sender = false → exec (.protectAck h r bytes ok) s = .next s) ∧
    (∀ x d, h.mtype = 0x11 → s.pairNames .RCV_PARTNER p.val r.sender = true → (vget s.rcv p).snaps = [x] → x.ref.part = p → x.layer = 0 →
      x.group = r.group → x.step = r.step → x.acked = false → x.digest = none → s.running x.ref 0x60 = some d →
      (s.colSt x.group).commit = none → ∃ t, exec (.protectAck h r bytes ok) s = .next t ∧ CmdEnded t x.ref 0 ∧ (vget t.rcv p).snaps = [] ∧
      t.rd .RCV_GRPg_PROT x.group p.val = BitVec.ofNat 32 x.step ∧ t.mem = s.mem ∧
      KeepsRegs s t (fun q => q == .RCV_GRPg_PROT || q == .RCV_STATUS))) ∧
  (∀ (h : RouteHdr) (r : RecHdr) (crc : BitVec 64) (s : State),
    let p := s.groupPart r.group
    (h.mtype ≠ 0x12 ∨ 64 ≤ r.group → exec (.digestMsg h r crc) s = .next s) ∧
    (h.mtype = 0x12 → r.group < 64 → (vget s.rcv p).snaps = [] → ∃ t, exec (.digestMsg h r crc) s = .next t ∧
      ({ group := r.group, step := r.step, coord := coordNum r.sender, crc := crc.toNat } : DigRec) ∈ (vget t.rcv p).digs ∧
      t = { s with rcv := t.rcv } ∧ ∀ q, q ≠ p → vget t.rcv q = vget s.rcv q) ∧
    (∀ x d mine k, h.mtype = 0x12 → r.group < 64 → (vget s.rcv p).snaps = [x] → x.ref.part = p → x.layer = 0 → x.acked = true →
      x.digest = some mine → x.group = r.group → x.step = r.step → s.digestAlive x.group = [k] →
      coordNum (s.memberAt x.group k) = coordNum r.sender → s.running x.ref 0x60 = some d → (s.colSt x.group).commit = none →
      (crc.toNat = mine → ∃ t, exec (.digestMsg h r crc) s = .next t ∧ CmdEnded t x.ref 0 ∧
        t.rd .RCV_GRPg_PROT x.group p.val = BitVec.ofNat 32 x.step ∧ t.rd .RCV_GRPg_W x.group p.val = BitVec.ofNat 32 x.step) ∧
      (crc.toNat ≠ mine → s.grpSize x.group = 2 → ∃ t, exec (.digestMsg h r crc) s = .next t ∧ CmdEnded t x.ref 0x0B06 ∧ t.rcvState p = 1 ∧
        t.fget Fld.RCV_STATUS_HOLD 0 p.val = 1))) ∧
  (∀ (h : RouteHdr) (r : RecHdr) (kind feed : Nat) (same : Bool) (s : State),
    (h.mtype ≠ 0x13 ∨ 2 < kind ∨ (kind ≠ 0 ∧ s.pairPart .RCV_PARTNER r.sender = none) → exec (.hello h r kind feed same) s = .next s) ∧
    (∀ p : Part, h.mtype = 0x13 → s.pairPart .RCV_PARTNER r.sender = some p.val →
      (kind = 1 → ∃ t, exec (.hello h r kind feed same) s = .next t ∧ t.pairAccepted .RCV_PARTNER p.val = true ∧
        t.fbit Fld.RCV_PARTNER_REFUSED 0 p.val = false ∧ OnlyRegs s t [regKey .RCV_PARTNER 0 p.val]) ∧
      (kind = 2 → ∃ t, exec (.hello h r kind feed same) s = .next t ∧ t.pairAccepted .RCV_PARTNER p.val = false ∧
        t.fbit Fld.RCV_PARTNER_REFUSED 0 p.val = true ∧ t.fget Fld.RCV_STATUS_SAME_FEED 0 p.val = 1 ∧ t.mem = s.mem ∧ t.queues = s.queues ∧
        KeepsRegs s t (fun q => q == .RCV_PARTNER || q == .RCV_STATUS))) ∧
    (∀ p : Part, h.mtype = 0x13 → kind = 0 → s.pairPart .RCV_WARD r.sender = some p.val → ∃ t, exec (.hello h r kind feed same) s = .next t ∧
      (t.pairAccepted .RCV_WARD p.val = true ↔
        (s.fbit Fld.RCV_CFG_ALLOW_SAME_FEED 0 p.val = true ∨ feed ≠ s.fget Fld.GLB_STRAPS_FEED_ID)) ∧ t.mem = s.mem ∧ t.queues = s.queues ∧
      KeepsRegs s t (fun q => q == .RCV_WARD || q == .PER_STATUS || q == .RCV_STATUS)) ∧
    (h.mtype = 0x13 → kind = 0 → s.pairPart .RCV_WARD r.sender = none → ∃ t, exec (.hello h r kind feed same) s = .next t ∧ t.mem = s.mem ∧
      t.queues = s.queues ∧ KeepsRegs s t (fun q => q == .PER_STATUS || q == .RCV_STATUS))) ∧
  (∀ (p : Part) (ward : Bool) (v : Word) (s : State),
    let q : RegName := if ward then .RCV_WARD else .RCV_PARTNER
    ∃ t, exec (.rcvPairingWrite p ward v) s = .next t ∧ wGet (t.rd q 0 p.val) 18 0 = wGet v 18 0 ∧ wGet (t.rd q 0 p.val) 20 19 = 0 ∧
      t.mem = s.mem ∧ t.queues = s.queues ∧ KeepsRegs s t (fun r => r == q || r == .PER_STATUS)) ∧
  (∀ (p : Part) (rid : Word) (s : State),
    (rid.toNat ≤ (vget s.rcv p).rid → ∃ t, exec (.rcvGo p rid) s = .next t ∧ t.fget Fld.ERR_ACCESS_ERR 0 p.val = 1 ∧
      OnlyRegs s t [regKey .BLK_ERR 0 p.val]) ∧
    ((vget s.rcv p).rid < rid.toNat → ∃ t, exec (.rcvGo p rid) s = .next t ∧ (vget t.rcv p).rid = rid.toNat) ∧
    ((vget s.rcv p).rid < rid.toNat → (((vget s.rcv p).spare = false ∧ s.rcvState p ≠ 0) ∨ s.remaps = []) → s.leader p ≠ s.selfNum →
      ∃ t, exec (.rcvGo p rid) s = .next t ∧ t.rcvState p = 2 ∧ t.rd .RCV_RSTEP 0 p.val = 0xFFFFFFFF ∧ t.mem = s.mem ∧ t.queues = s.queues ∧
        (vget t.rcv p).spare = ((vget s.rcv p).spare || s.rcvState p == 0) ∧
        KeepsRegs s t (fun q => q == .RCV_STATE || q == .RCV_RSTEP || q == .PER_STATUS))) ∧
  (∀ (h : RouteHdr) (r : RecHdr) (spare : Bool) (ward : Coord) (recs : List CensusRec) (s : State),
    let p := s.rcvPart r
    let c : CensusSt := { rid := r.rid, sender := r.sender, spare := spare, ward := ward, recs := recs }
    let all := (vget s.rcv p).census.filter (fun d => d.sender != r.sender || d.rid != r.rid) ++ [c]
    let cs := all.filter (fun c => c.rid == (vget s.rcv p).rid)
    let full := (s.domainMembers p).all (fun m => cs.any (fun c => coordNum c.sender == m))
    (h.mtype ≠ 0x14 ∨ r.rid < (vget s.rcv p).rid → exec (.census h r spare ward recs) s = .next s) ∧
    (h.mtype = 0x14 → (vget s.rcv p).rid ≤ r.rid → s.rcvState p ≠ 2 ∨ s.leader p ≠ s.selfNum ∨ full = false →
      ∃ t, exec (.census h r spare ward recs) s = .next t ∧ c ∈ (vget t.rcv p).census ∧ t = { s with rcv := t.rcv }) ∧
    (h.mtype = 0x14 → (vget s.rcv p).rid ≤ r.rid → s.rcvState p = 2 → s.leader p = s.selfNum → full = true →
      (makePlan cs (s.domain p) = none → ∃ t, exec (.census h r spare ward recs) s = .next t ∧ t.rcvState p = 1 ∧
        (vget t.rcv p).census = [] ∧ t.mem = s.mem ∧ KeepsRegs s t (· == .RCV_STATE)) ∧
      (∀ rs fl acts a, makePlan cs (s.domain p) = some (rs, fl, acts) → acts.find? (fun b => coordNum b.coord == s.selfNum) = some a →
        ∃ t, exec (.census h r spare ward recs) s = .next t ∧ (t.rcvState p = 3 ∨ t.rcvState p = 0)))) ∧
  (∀ (p : Part) (s : State),
    (s.rcvState p = 2 → ∃ t, exec (.censusTimeout p) s = .next t ∧ t.rcvState p = 1 ∧
      t.rd .RCV_RSTEP 0 p.val = 0xFFFFFFFF ∧ t.fget Fld.RCV_STATUS_RESTART 0 p.val = 1 ∧ (vget t.rcv p).census = [] ∧ t.mem = s.mem ∧
      KeepsRegs s t (fun q => q == .RCV_STATE || q == .RCV_RSTEP || q == .RCV_STATUS)) ∧
    (s.rcvState p ≠ 2 → exec (.censusTimeout p) s = .next s)) ∧
  (∀ (h : RouteHdr) (r : RecHdr) (rs ep : Nat) (fl st : Bool) (acts : List PlanAct) (s : State),
    let p := s.rcvPart r
    (h.mtype ≠ 0x15 ∨ r.rid ≠ (vget s.rcv p).rid ∨ s.rcvState p ≠ 2 ∨ acts.find? (fun b => coordNum b.coord == s.selfNum) = none →
      exec (.plan h r rs ep fl st acts) s = .next s) ∧
    (∀ a, h.mtype = 0x15 → r.rid = (vget s.rcv p).rid → s.rcvState p = 2 → s.leader p ≠ s.selfNum →
      acts.find? (fun b => coordNum b.coord == s.selfNum) = some a → a.action < 7 → ep < 2 ^ 32 →
      ∃ t, exec (.plan h r rs ep fl st acts) s = .next t ∧ t.rcvState p = 3 ∧ t.fget Fld.RCV_STATE_ACTION 0 p.val = a.action ∧
        t.rd .RCV_RSTEP 0 p.val = BitVec.ofNat 32 rs ∧ (∀ g ∈ s.domain p, t.epoch g = ep) ∧
        (a.action = 1 → ∀ g ∈ s.domain p, t.rd .COL_GRPg_CSTEP g = BitVec.ofNat 32 rs))) ∧
  (∀ (h : RouteHdr) (r : RecHdr) (source bytes off : Nat) (s : State),
    let p := s.groupPart r.group
    let takes := h.mtype = 0x16 ∧ (vget s.rcv p).rid ≤ r.rid ∧ 1 ≤ bytes ∧ bytes ≤ 65536
    let answer (t : State) (st : Nat) (b : List Byte) : State :=
      (t.sendRec 0x17 r.sender (t.recHdr r.rid r.step r.group) (leBytes 8 off ++ leBytes 4 b.length ++ leBytes 4 st ++ b)).1
    let x := s.readAs p.val off bytes
    (¬ takes → exec (.fetch h r source bytes off) s = .next s) ∧
    (takes → source = 2 → s.ownsT01 p.val off bytes = true → x.1.2 = false → ∃ t, exec (.fetch h r source bytes off) s = .next t ∧
      KeepsMem s t ∧ t.queues = s.queues ∧ t = answer x.2 0 x.1.1) ∧
    (takes → source = 2 → s.ownsT01 p.val off bytes = true → x.1.2 = true → exec (.fetch h r source bytes off) s = .next (answer x.2 1 [])) ∧
    (takes → (source ≠ 1 ∧ source ≠ 2) ∨ (source = 2 ∧ s.ownsT01 p.val off bytes = false) ∨ (source = 1 ∧ ∀ q c,
        Sparse.find (vget s.rcv q).ward (r.step % 2) = some c → c.whole = false ∨ c.group ≠ r.group ∨ c.step ≠ r.step ∨ c.coord ≠ coordNum r.sender) →
      exec (.fetch h r source bytes off) s = .next (answer s 2 [])) ∧
    (∀ q c, takes → source = 1 → Sparse.find (vget s.rcv q).ward (r.step % 2) = some c → c.whole = true → c.group = r.group →
      c.step = r.step → c.coord = coordNum r.sender → (∀ q', q' ≠ q → Sparse.find (vget s.rcv q').ward (r.step % 2) = none) → off < c.bytes →
      let y := s.wardRead (r.step % 2) off (min bytes (c.bytes - off))
      (y.1.2 = false → exec (.fetch h r source bytes off) s = .next (answer y.2 0 y.1.1)) ∧
      (y.1.2 = true → ∃ t, exec (.fetch h r source bytes off) s = .next t ∧ Sparse.find (vget t.rcv q).ward (r.step % 2) = none ∧
        KeepsMem s t))) ∧
  (∀ (h : RouteHdr) (r : RecHdr) (off st : Nat) (data : List Byte) (s : State),
    let p := s.groupPart r.group
    let mine : RestRun → Bool := fun x => x.group == r.group && x.step == r.step && (x.source == 1 || x.source == 2) &&
      x.asked.contains (coordNum r.sender) && x.left.any (fun e => e.1 == off)
    (h.mtype ≠ 0x17 ∨ r.rid < (vget s.rcv p).rid ∨ (vget s.rcv p).rests.find? mine = none → exec (.fetchData h r off st data) s = .next s) ∧
    (∀ x d, h.mtype = 0x17 → (vget s.rcv p).rid ≤ r.rid → (vget s.rcv p).rests.find? mine = some x → x.ref.part = p →
      s.running x.ref 0x61 = some d → st ≠ 0 → ∃ t, exec (.fetchData h r off st data) s = .next t ∧ CmdEnded t x.ref 0x0B07 ∧ t.mem = s.mem ∧
      ∀ z ∈ (vget t.rcv p).rests, z.ref ≠ x.ref) ∧
    (∀ x d, h.mtype = 0x17 → (vget s.rcv p).rid ≤ r.rid → (vget s.rcv p).rests = [x] → mine x = true → x.ref.part = p → x.source = 2 →
      s.running x.ref 0x61 = some d → st = 0 →
      let w := s.writeAs p.val off data
      let last := x.left.all (fun e => e.1 == off)
      (w.2 ≠ 0 → ∃ t, exec (.fetchData h r off st data) s = .next t ∧ CmdEnded t x.ref w.2) ∧
      (w.2 = 0 → last = false → ∃ t, exec (.fetchData h r off st data) s = .next t ∧ t.queues = s.queues ∧
        (vget t.rcv p).rests = [{ x with left := x.left.filter (fun e => e.1 != off) }] ∧
        (s.tier = State.reset.tier → off + data.length ≤ t2Base → (∀ i < data.length, t.cell (off + i) = data.getD i 0) ∧
          ∀ y, (y < off ∨ off + data.length ≤ y) → t.cell y = s.cell y)) ∧
      (w.2 = 0 → last = true → s.rcvState p ≠ 3 → (s.colSt x.group).commit = none → ∃ t, exec (.fetchData h r off st data) s = .next t ∧
        CmdEnded t x.ref 0 ∧ t.rd .RCV_GRPg_W x.group p.val = BitVec.ofNat 32 x.step ∧
        t.rd .RCV_GRPg_UPD x.group p.val = BitVec.ofNat 32 x.step ∧ t.rd .COL_GRPg_CSTEP x.group = BitVec.ofNat 32 x.step))) ∧
  (∀ (h : RouteHdr) (r : RecHdr) (prot act : Nat) (s : State),
    let p := s.rcvPart r
    let takes := h.mtype = 0x18 ∧ r.rid = (vget s.rcv p).rid ∧ s.recovering p = true
    let done := (vget s.rcv p).done ++ [coordNum r.sender]
    let lead := s.leader p = s.selfNum ∧ s.rcvState p = 3 ∧ (s.domainMembers p).all done.contains = true
    (¬ takes → exec (.done h r prot act) s = .next s) ∧
    (takes → ¬ lead → ∃ t, exec (.done h r prot act) s = .next t ∧ coordNum r.sender ∈ (vget t.rcv p).done ∧ t = { s with rcv := t.rcv }) ∧
    (takes → lead → ∃ t, exec (.done h r prot act) s = .next t ∧ t.rcvState p = 0 ∧ t.rd .RCV_RSTEP 0 p.val = 0xFFFFFFFF ∧
      ∀ q < 64, (t.queue p.val q).cmds = [])) ∧
  (∀ (h : RouteHdr) (r : RecHdr) (rs ep : Nat) (s : State),
    let p := s.rcvPart r
    (h.mtype ≠ 0x19 ∨ r.rid ≠ (vget s.rcv p).rid ∨ s.rcvState p ≠ 3 → exec (.resume h r rs ep) s = .next s) ∧
    (h.mtype = 0x19 → r.rid = (vget s.rcv p).rid → s.rcvState p = 3 → ∃ t, exec (.resume h r rs ep) s = .next t ∧ t.rcvState p = 0 ∧
      t.rd .RCV_RSTEP 0 p.val = 0xFFFFFFFF ∧ (∀ q < 64, (t.queue p.val q).cmds = []) ∧ (∀ g < 64, s.groupOwner g = p.val → (t.colSt g).held = []) ∧
      (∀ q k, q ≠ p → t.queue q.val k = s.queue q.val k ∨ 64 ≤ k)))
end

