-- ==== Sys2Proof/Laws/Bits.lean ====
section
/-! SUPPORT. Laws of bit fields of register words: a field reads as it was set, and setting it leaves the fields beside it alone. -/

namespace Sys2Proof.Machine

theorem bitsOf_lt (n hi lo : Nat) : bitsOf n hi lo < 2 ^ (hi + 1 - lo) := Nat.mod_lt _ (by positivity)

/-- A number cut at a field. -/
theorem bits_split (n lo k : Nat) : n = n / 2 ^ (lo + k) * 2 ^ (lo + k) + n / 2 ^ lo % 2 ^ k * 2 ^ lo + n % 2 ^ lo := by
  have h1 : n / 2 ^ (lo + k) = n / 2 ^ lo / 2 ^ k := by rw [Nat.pow_add, Nat.div_div_eq_div_mul]
  have h2 := Nat.div_add_mod (n / 2 ^ lo) (2 ^ k)
  have h3 := Nat.div_add_mod n (2 ^ lo)
  rw [h1, Nat.pow_add]
  calc n = 2 ^ lo * (n / 2 ^ lo) + n % 2 ^ lo := h3.symm
    _ = 2 ^ lo * (2 ^ k * (n / 2 ^ lo / 2 ^ k) + n / 2 ^ lo % 2 ^ k) + n % 2 ^ lo := by rw [h2]
    _ = _ := by ring

theorem mul_add_lt {x m r l : Nat} (h : x < m) (k : r < l) : x * l + r < m * l := by
  have := Nat.mul_le_mul_right l (show x + 1 ≤ m from h)
  rw [Nat.add_mul] at this
  omega

/-- The word after setting a field, as a number. -/
theorem wSet_toNat (w : Word) {hi lo : Nat} (v : Nat) (h : lo ≤ hi) (k : hi < 32) :
    (wSet w hi lo v).toNat = w.toNat / 2 ^ (hi + 1) * 2 ^ (hi + 1) + v % 2 ^ (hi + 1 - lo) * 2 ^ lo + w.toNat % 2 ^ lo := by
  have e : lo + (hi + 1 - lo) = hi + 1 := by omega
  have s := bits_split w.toNat lo (hi + 1 - lo)
  rw [e] at s
  have hv : v % 2 ^ (hi + 1 - lo) * 2 ^ lo + w.toNat % 2 ^ lo < 2 ^ (hi + 1) := by
    have h1 : v % 2 ^ (hi + 1 - lo) < 2 ^ (hi + 1 - lo) := Nat.mod_lt _ (by positivity)
    have h2 : w.toNat % 2 ^ lo < 2 ^ lo := Nat.mod_lt _ (by positivity)
    rw [show 2 ^ (hi + 1) = 2 ^ (hi + 1 - lo) * 2 ^ lo by rw [← Nat.pow_add, show hi + 1 - lo + lo = hi + 1 by omega]]
    exact mul_add_lt h1 h2
  have hq : w.toNat / 2 ^ (hi + 1) * 2 ^ (hi + 1) + 2 ^ (hi + 1) ≤ 2 ^ 32 := by
    have h1 : w.toNat / 2 ^ (hi + 1) < 2 ^ (32 - (hi + 1)) := by
      apply Nat.div_lt_of_lt_mul
      rw [← Nat.pow_add, show hi + 1 + (32 - (hi + 1)) = 32 by omega]
      exact w.isLt
    have h2 : (2 : Nat) ^ 32 = 2 ^ (32 - (hi + 1)) * 2 ^ (hi + 1) := by rw [← Nat.pow_add, show 32 - (hi + 1) + (hi + 1) = 32 by omega]
    have h3 := Nat.mul_le_mul_right (2 ^ (hi + 1)) (show w.toNat / 2 ^ (hi + 1) + 1 ≤ _ from h1)
    rw [Nat.add_mul, ← h2] at h3
    omega
  unfold wSet
  rw [BitVec.toNat_ofNat, Nat.mod_eq_of_lt]
  · unfold bitsOf; omega
  · unfold bitsOf; omega

/-- A field reads as it was set, modulo its width. -/
theorem wGet_wSet_same (w : Word) {hi lo : Nat} (v : Nat) (h : lo ≤ hi) (k : hi < 32) :
    wGet (wSet w hi lo v) hi lo = v % 2 ^ (hi + 1 - lo) := by
  unfold wGet bitsOf
  rw [wSet_toNat w v h k]
  have e : 2 ^ (hi + 1) = 2 ^ (hi + 1 - lo) * 2 ^ lo := by rw [← Nat.pow_add, show hi + 1 - lo + lo = hi + 1 by omega]
  have h2 : w.toNat % 2 ^ lo < 2 ^ lo := Nat.mod_lt _ (by positivity)
  have p : 0 < 2 ^ lo := by positivity
  rw [e, show w.toNat / (2 ^ (hi + 1 - lo) * 2 ^ lo) * (2 ^ (hi + 1 - lo) * 2 ^ lo) + v % 2 ^ (hi + 1 - lo) * 2 ^ lo + w.toNat % 2 ^ lo
    = w.toNat % 2 ^ lo + (w.toNat / (2 ^ (hi + 1 - lo) * 2 ^ lo) * 2 ^ (hi + 1 - lo) + v % 2 ^ (hi + 1 - lo)) * 2 ^ lo by ring,
    Nat.add_mul_div_right _ _ p, Nat.div_eq_of_lt h2, Nat.zero_add, Nat.add_comm, Nat.add_mul_mod_self_right, Nat.mod_mod]

/-- Setting a field leaves every field above or below it alone. -/
theorem wGet_wSet_ne (w : Word) {hi lo a b : Nat} (v : Nat) (h : lo ≤ hi) (k : hi < 32) (hb : b ≤ a) (d : a < lo ∨ hi < b) :
    wGet (wSet w hi lo v) a b = wGet w a b := by
  unfold wGet bitsOf
  rw [wSet_toNat w v h k]
  have e : lo + (hi + 1 - lo) = hi + 1 := by omega
  have s := bits_split w.toNat lo (hi + 1 - lo)
  rw [e] at s
  rcases d with d | d
  · have q : 2 ^ lo = 2 ^ (lo - (a + 1)) * 2 ^ (a + 1) := by rw [← Nat.pow_add, show lo - (a + 1) + (a + 1) = lo by omega]
    have q2 : 2 ^ (a + 1) = 2 ^ (a + 1 - b) * 2 ^ b := by rw [← Nat.pow_add, show a + 1 - b + b = a + 1 by omega]
    have q3 : 2 ^ (hi + 1) = 2 ^ (hi + 1 - lo) * 2 ^ lo := by rw [← Nat.pow_add, show hi + 1 - lo + lo = hi + 1 by omega]
    have low : ∀ x y : Nat, (x * 2 ^ lo + y) / 2 ^ b % 2 ^ (a + 1 - b) = y / 2 ^ b % 2 ^ (a + 1 - b) := by
      intro x y
      rw [q, q2, show x * (2 ^ (lo - (a + 1)) * (2 ^ (a + 1 - b) * 2 ^ b)) + y
        = y + (x * 2 ^ (lo - (a + 1)) * 2 ^ (a + 1 - b)) * 2 ^ b by ring, Nat.add_mul_div_right _ _ (by positivity),
        Nat.add_mul_mod_self_right]
    rw [q3, show w.toNat / (2 ^ (hi + 1 - lo) * 2 ^ lo) * (2 ^ (hi + 1 - lo) * 2 ^ lo) + v % 2 ^ (hi + 1 - lo) * 2 ^ lo + w.toNat % 2 ^ lo
      = (w.toNat / (2 ^ (hi + 1 - lo) * 2 ^ lo) * 2 ^ (hi + 1 - lo) + v % 2 ^ (hi + 1 - lo)) * 2 ^ lo + w.toNat % 2 ^ lo by ring, low]
    conv_rhs => rw [← Nat.div_add_mod w.toNat (2 ^ lo), Nat.mul_comm, low]
  · have q : 2 ^ b = 2 ^ (hi + 1) * 2 ^ (b - (hi + 1)) := by rw [← Nat.pow_add, show hi + 1 + (b - (hi + 1)) = b by omega]
    have hv : v % 2 ^ (hi + 1 - lo) * 2 ^ lo + w.toNat % 2 ^ lo < 2 ^ (hi + 1) := by
      have h1 : v % 2 ^ (hi + 1 - lo) < 2 ^ (hi + 1 - lo) := Nat.mod_lt _ (by positivity)
      have h2 : w.toNat % 2 ^ lo < 2 ^ lo := Nat.mod_lt _ (by positivity)
      rw [show 2 ^ (hi + 1) = 2 ^ (hi + 1 - lo) * 2 ^ lo by rw [← Nat.pow_add, show hi + 1 - lo + lo = hi + 1 by omega]]
      exact mul_add_lt h1 h2
    rw [q, ← Nat.div_div_eq_div_mul, ← Nat.div_div_eq_div_mul]
    congr 2
    rw [show w.toNat / 2 ^ (hi + 1) * 2 ^ (hi + 1) + v % 2 ^ (hi + 1 - lo) * 2 ^ lo + w.toNat % 2 ^ lo
      = (v % 2 ^ (hi + 1 - lo) * 2 ^ lo + w.toNat % 2 ^ lo) + w.toNat / 2 ^ (hi + 1) * 2 ^ (hi + 1) by ring,
      Nat.add_mul_div_right _ _ (by positivity), Nat.div_eq_of_lt hv, Nat.zero_add]

end Sys2Proof.Machine
end

