-- ==== Sys2Proof/Laws/Sparse.lean ====
section
/-! SUPPORT. Laws of the sorted lists: what a read after a write gives, and that every operation keeps the canonical form. -/

namespace Sys2Proof.Machine

variable {α : Type}

@[simp] theorem Sparse.find_insert_same (l : List (Nat × α)) (a : Nat) (x : α) :
    Sparse.find (Sparse.insert l a x) a = some x := by
  induction l with
  | nil => simp [Sparse.insert, Sparse.find]
  | cons e t ih =>
    obtain ⟨k, v⟩ := e
    simp only [Sparse.insert]
    split
    · simp [Sparse.find]
    · split
      · simp [Sparse.find]
      · simp [Sparse.find, *]

theorem Sparse.find_insert_ne (l : List (Nat × α)) {a b : Nat} (x : α) (h : b ≠ a) :
    Sparse.find (Sparse.insert l a x) b = Sparse.find l b := by
  induction l with
  | nil => simp [Sparse.insert, Sparse.find, h]
  | cons e t ih =>
    obtain ⟨k, v⟩ := e
    simp only [Sparse.insert]
    split
    · simp [Sparse.find, h]
    · split
      · subst_vars; simp [Sparse.find, h]
      · simp [Sparse.find, ih]

@[simp] theorem Sparse.find_erase_same (l : List (Nat × α)) (a : Nat) : Sparse.find (Sparse.erase l a) a = none := by
  induction l with
  | nil => rfl
  | cons e t ih =>
    obtain ⟨k, v⟩ := e
    simp only [Sparse.erase]
    split
    · exact ih
    · simp [Sparse.find, *]

theorem Sparse.find_erase_ne (l : List (Nat × α)) {a b : Nat} (h : b ≠ a) :
    Sparse.find (Sparse.erase l a) b = Sparse.find l b := by
  induction l with
  | nil => rfl
  | cons e t ih =>
    obtain ⟨k, v⟩ := e
    simp only [Sparse.erase]
    split
    · subst_vars; simp [Sparse.find, h, ih]
    · simp [Sparse.find, ih]

@[simp] theorem Sparse.get_nil (d : α) (a : Nat) : Sparse.get d [] a = d := rfl

@[simp] theorem Sparse.get_insert_same (d : α) (l : List (Nat × α)) (a : Nat) (x : α) :
    Sparse.get d (Sparse.insert l a x) a = x := by simp [Sparse.get]

theorem Sparse.get_insert_ne (d : α) (l : List (Nat × α)) {a b : Nat} (x : α) (h : b ≠ a) :
    Sparse.get d (Sparse.insert l a x) b = Sparse.get d l b := by simp [Sparse.get, Sparse.find_insert_ne l x h]

/-- A read after a write to the same key gives the value written. -/
@[simp] theorem Sparse.get_set_same [DecidableEq α] (d : α) (l : List (Nat × α)) (a : Nat) (x : α) :
    Sparse.get d (Sparse.set d l a x) a = x := by
  unfold Sparse.set
  split
  · simp [Sparse.get, *]
  · simp

/-- A write leaves every other key alone, whatever default either side uses. -/
theorem Sparse.get_set_ne [DecidableEq α] (d e : α) (l : List (Nat × α)) {a b : Nat} (x : α) (h : b ≠ a) :
    Sparse.get d (Sparse.set e l a x) b = Sparse.get d l b := by
  unfold Sparse.set
  split
  · simp [Sparse.get, Sparse.find_erase_ne l h]
  · exact Sparse.get_insert_ne d l x h

/-! ## Canonical forms -/

theorem Sparse.mem_insert {l : List (Nat × α)} {a : Nat} {x : α} {e : Nat × α} (h : e ∈ Sparse.insert l a x) :
    e = (a, x) ∨ e ∈ l := by
  induction l with
  | nil => simpa [Sparse.insert] using h
  | cons c t ih =>
    obtain ⟨k, v⟩ := c
    simp only [Sparse.insert] at h
    split at h
    · simpa using h
    · split at h
      · simp only [List.mem_cons] at h ⊢; tauto
      · simp only [List.mem_cons] at h ⊢
        rcases h with h | h
        · tauto
        · rcases ih h with h | h <;> tauto

theorem Sparse.mem_erase {l : List (Nat × α)} {a : Nat} {e : Nat × α} (h : e ∈ Sparse.erase l a) : e ∈ l := by
  induction l with
  | nil => simp [Sparse.erase] at h
  | cons c t ih =>
    obtain ⟨k, v⟩ := c
    simp only [Sparse.erase] at h
    split at h
    · exact List.mem_cons_of_mem _ (ih h)
    · simp only [List.mem_cons] at h ⊢
      rcases h with h | h
      · exact .inl h
      · exact .inr (ih h)

theorem Sparse.sorted_cons {k : Nat} {v : α} {t : List (Nat × α)} :
    Sparse.sorted ((k, v) :: t) = true ↔ (∀ e ∈ t, k < e.1) ∧ Sparse.sorted t = true := by
  simp [Sparse.sorted, List.all_eq_true]

theorem Sparse.sorted_insert {l : List (Nat × α)} (a : Nat) (x : α) (h : Sparse.sorted l = true) :
    Sparse.sorted (Sparse.insert l a x) = true := by
  induction l with
  | nil => simp [Sparse.insert, Sparse.sorted]
  | cons c t ih =>
    obtain ⟨k, v⟩ := c
    have h' := Sparse.sorted_cons.mp h
    simp only [Sparse.insert]
    split
    · rename_i hlt
      refine Sparse.sorted_cons.mpr ⟨fun e he => ?_, h⟩
      rcases List.mem_cons.mp he with rfl | he
      · exact hlt
      · exact Nat.lt_trans hlt (h'.1 e he)
    · split
      · subst_vars; exact Sparse.sorted_cons.mpr h'
      · refine Sparse.sorted_cons.mpr ⟨fun e he => ?_, ih h'.2⟩
        rcases Sparse.mem_insert he with rfl | he
        · show k < a; omega
        · exact h'.1 e he

theorem Sparse.sorted_erase {l : List (Nat × α)} (a : Nat) (h : Sparse.sorted l = true) :
    Sparse.sorted (Sparse.erase l a) = true := by
  induction l with
  | nil => rfl
  | cons c t ih =>
    obtain ⟨k, v⟩ := c
    have h' := Sparse.sorted_cons.mp h
    simp only [Sparse.erase]
    split
    · exact ih h'.2
    · exact Sparse.sorted_cons.mpr ⟨fun e he => h'.1 e (Sparse.mem_erase he), ih h'.2⟩

theorem Sparse.sorted_filter {l : List (Nat × α)} (f : Nat × α → Bool) (h : Sparse.sorted l = true) :
    Sparse.sorted (l.filter f) = true := by
  induction l with
  | nil => rfl
  | cons c t ih =>
    obtain ⟨k, v⟩ := c
    have h' := Sparse.sorted_cons.mp h
    simp only [List.filter]
    split
    · exact Sparse.sorted_cons.mpr ⟨fun e he => h'.1 e (List.mem_of_mem_filter he), ih h'.2⟩
    · exact ih h'.2

theorem Sparse.sorted_set [DecidableEq α] (d : α) {l : List (Nat × α)} (a : Nat) (x : α) (h : Sparse.sorted l = true) :
    Sparse.sorted (Sparse.set d l a x) = true := by
  unfold Sparse.set
  split
  · exact Sparse.sorted_erase a h
  · exact Sparse.sorted_insert a x h

theorem Sparse.wf_iff [DecidableEq α] {d : Nat → α} {l : List (Nat × α)} :
    Sparse.wf d l = true ↔ Sparse.sorted l = true ∧ ∀ e ∈ l, e.2 ≠ d e.1 := by
  simp [Sparse.wf, List.all_eq_true]

/-- A write keeps the canonical form. -/
theorem Sparse.wf_set [DecidableEq α] {d : Nat → α} {l : List (Nat × α)} (a : Nat) (x : α) (h : Sparse.wf d l = true) :
    Sparse.wf d (Sparse.set (d a) l a x) = true := by
  rw [Sparse.wf_iff] at *
  refine ⟨Sparse.sorted_set _ _ _ h.1, fun e he => ?_⟩
  unfold Sparse.set at he
  split at he
  · exact h.2 e (Sparse.mem_erase he)
  · rcases Sparse.mem_insert he with rfl | he
    · assumption
    · exact h.2 e he

/-- Dropping entries keeps the canonical form. -/
theorem Sparse.wf_filter [DecidableEq α] {d : Nat → α} {l : List (Nat × α)} (f : Nat × α → Bool) (h : Sparse.wf d l = true) :
    Sparse.wf d (l.filter f) = true := by
  rw [Sparse.wf_iff] at *
  exact ⟨Sparse.sorted_filter f h.1, fun e he => h.2 e (List.mem_of_mem_filter he)⟩

end Sys2Proof.Machine
end

