-- ==== Sys2Proof/Laws/Regs.lean ====
section
/-! SUPPORT. Laws of the register file: what a read gives after a write, for every register and instance. -/

namespace Sys2Proof.Machine

theorem majority_self (v : Word) : majority v v v = v := by simp [majority]

/-- The list of registers is in the order of their numbers. -/
theorem allRegs_getD (r : RegName) : allRegs.getD r.ctorIdx .BLK_ID = r := by cases r <;> rfl

theorem RegName.ctorIdx_inj {r q : RegName} (h : r.ctorIdx = q.ctorIdx) : r = q := by
  rw [← allRegs_getD r, ← allRegs_getD q, h]

/-- Instances of different registers have different keys. -/
theorem regKey_ne_reg {r q : RegName} (h : r ≠ q) (i j a b : Nat) : regKey r i a ≠ regKey q j b := by
  intro e
  refine h (RegName.ctorIdx_inj ?_)
  unfold regKey at e
  omega

/-- Instances of one register with different numbers have different keys. -/
theorem regKey_ne_inst (r : RegName) {i j : Nat} (a b : Nat) (h : i % 8192 ≠ j % 8192) : regKey r i a ≠ regKey r j b := by
  intro e
  unfold regKey at e
  omega

/-- Homes of one register in different partitions or views have different keys. -/
theorem regKey_ne_sel (r : RegName) (i j : Nat) {a b : Nat} (h : a % 8 ≠ b % 8) : regKey r i a ≠ regKey r j b := by
  intro e
  unfold regKey at e
  omega

/-- A register reads as it was last written. -/
@[simp] theorem RegFile.rd_wr_same (f : RegFile) (r : RegName) (i a : Nat) (v : Word) : (f.wr r i a v).rd r i a = v := by
  unfold RegFile.wr RegFile.rd
  by_cases h : r.rwv = true <;> simp [h, majority_self]

/-- A write leaves every register with another key alone. -/
theorem RegFile.rd_wr_ne (f : RegFile) {r q : RegName} {i j a b : Nat} (v : Word) (h : regKey q j b ≠ regKey r i a) :
    (f.wr r i a v).rd q j b = f.rd q j b := by
  unfold RegFile.wr RegFile.rd
  by_cases hr : r.rwv = true <;> by_cases hq : q.rwv = true <;> simp [hr, hq, Sparse.get_set_ne _ _ _ _ h]

@[simp] theorem State.rd_wr_same (s : State) (r : RegName) (i a : Nat) (v : Word) : (s.wr r i a v).rd r i a = v :=
  RegFile.rd_wr_same _ _ _ _ _

theorem State.rd_wr_ne (s : State) {r q : RegName} {i j a b : Nat} (v : Word) (h : regKey q j b ≠ regKey r i a) :
    (s.wr r i a v).rd q j b = s.rd q j b := RegFile.rd_wr_ne _ _ h

/-- A write leaves every other register alone. -/
theorem State.rd_wr_reg (s : State) {r q : RegName} (i j a b : Nat) (v : Word) (h : q ≠ r) :
    (s.wr r i a v).rd q j b = s.rd q j b := s.rd_wr_ne v (regKey_ne_reg h _ _ _ _)

end Sys2Proof.Machine
end

