-- ==== Sys2Proof/Laws/State.lean ====
section
/-! SUPPORT. What each named update of the state leaves alone, field by field, and what it puts into its own field. -/

namespace Sys2Proof.Machine

@[simp] theorem vget_vset_same {α : Type} {n : Nat} (v : Vector α n) (i : Fin n) (x : α) : vget (vset v i x) i = x := by
  simp [vget, vset, Vector.get_eq_getElem]

theorem vget_vset_ne {α : Type} {n : Nat} (v : Vector α n) {i j : Fin n} (x : α) (h : j ≠ i) : vget (vset v i x) j = vget v j := by
  have : i.val ≠ j.val := fun e => h (Fin.ext e.symm)
  simp [vget, vset, Vector.get_eq_getElem, this]


@[simp] theorem State.wr_mem (s : State) (r : RegName) (i a : Nat) (v : Word) : (s.wr r i a v).mem = s.mem := by cases s; rfl
@[simp] theorem State.wr_queues (s : State) (r : RegName) (i a : Nat) (v : Word) : (s.wr r i a v).queues = s.queues := by cases s; rfl
@[simp] theorem State.wr_ports (s : State) (r : RegName) (i a : Nat) (v : Word) : (s.wr r i a v).ports = s.ports := by cases s; rfl
@[simp] theorem State.wr_hbm (s : State) (r : RegName) (i a : Nat) (v : Word) : (s.wr r i a v).hbm = s.hbm := by cases s; rfl
@[simp] theorem State.wr_pwr (s : State) (r : RegName) (i a : Nat) (v : Word) : (s.wr r i a v).pwr = s.pwr := by cases s; rfl
@[simp] theorem State.wr_boot (s : State) (r : RegName) (i a : Nat) (v : Word) : (s.wr r i a v).boot = s.boot := by cases s; rfl
@[simp] theorem State.wr_flash (s : State) (r : RegName) (i a : Nat) (v : Word) : (s.wr r i a v).flash = s.flash := by cases s; rfl
@[simp] theorem State.wr_arr (s : State) (r : RegName) (i a : Nat) (v : Word) : (s.wr r i a v).arr = s.arr := by cases s; rfl
@[simp] theorem State.wr_vec (s : State) (r : RegName) (i a : Nat) (v : Word) : (s.wr r i a v).vec = s.vec := by cases s; rfl
@[simp] theorem State.wr_evr (s : State) (r : RegName) (i a : Nat) (v : Word) : (s.wr r i a v).evr = s.evr := by cases s; rfl
@[simp] theorem State.wr_chk (s : State) (r : RegName) (i a : Nat) (v : Word) : (s.wr r i a v).chk = s.chk := by cases s; rfl
@[simp] theorem State.wr_eut (s : State) (r : RegName) (i a : Nat) (v : Word) : (s.wr r i a v).eut = s.eut := by cases s; rfl
@[simp] theorem State.wr_col (s : State) (r : RegName) (i a : Nat) (v : Word) : (s.wr r i a v).col = s.col := by cases s; rfl
@[simp] theorem State.wr_rcv (s : State) (r : RegName) (i a : Nat) (v : Word) : (s.wr r i a v).rcv = s.rcv := by cases s; rfl
@[simp] theorem State.wr_tier (s : State) (r : RegName) (i a : Nat) (v : Word) : (s.wr r i a v).tier = s.tier := by cases s; rfl
@[simp] theorem State.wr_ing (s : State) (r : RegName) (i a : Nat) (v : Word) : (s.wr r i a v).ing = s.ing := by cases s; rfl
@[simp] theorem State.wr_pins (s : State) (r : RegName) (i a : Nat) (v : Word) : (s.wr r i a v).pins = s.pins := by cases s; rfl
@[simp] theorem State.wr_usec (s : State) (r : RegName) (i a : Nat) (v : Word) : (s.wr r i a v).usec = s.usec := by cases s; rfl
@[simp] theorem State.wr_out (s : State) (r : RegName) (i a : Nat) (v : Word) : (s.wr r i a v).out = s.out := by cases s; rfl
@[simp] theorem State.wr_freeCtr (s : State) (r : RegName) (i a : Nat) (v : Word) : (s.wr r i a v).freeCtr = s.freeCtr := by cases s; rfl
@[simp] theorem State.wr_pending (s : State) (r : RegName) (i a : Nat) (v : Word) : (s.wr r i a v).pending = s.pending := by cases s; rfl

@[simp] theorem State.fset_mem (s : State) (f : Fld) (v i a : Nat) : (s.fset f v i a).mem = s.mem := State.wr_mem _ _ _ _ _
@[simp] theorem State.fset_queues (s : State) (f : Fld) (v i a : Nat) : (s.fset f v i a).queues = s.queues := State.wr_queues _ _ _ _ _
@[simp] theorem State.fset_ports (s : State) (f : Fld) (v i a : Nat) : (s.fset f v i a).ports = s.ports := State.wr_ports _ _ _ _ _
@[simp] theorem State.fset_hbm (s : State) (f : Fld) (v i a : Nat) : (s.fset f v i a).hbm = s.hbm := State.wr_hbm _ _ _ _ _
@[simp] theorem State.fset_pwr (s : State) (f : Fld) (v i a : Nat) : (s.fset f v i a).pwr = s.pwr := State.wr_pwr _ _ _ _ _
@[simp] theorem State.fset_boot (s : State) (f : Fld) (v i a : Nat) : (s.fset f v i a).boot = s.boot := State.wr_boot _ _ _ _ _
@[simp] theorem State.fset_flash (s : State) (f : Fld) (v i a : Nat) : (s.fset f v i a).flash = s.flash := State.wr_flash _ _ _ _ _
@[simp] theorem State.fset_arr (s : State) (f : Fld) (v i a : Nat) : (s.fset f v i a).arr = s.arr := State.wr_arr _ _ _ _ _
@[simp] theorem State.fset_vec (s : State) (f : Fld) (v i a : Nat) : (s.fset f v i a).vec = s.vec := State.wr_vec _ _ _ _ _
@[simp] theorem State.fset_evr (s : State) (f : Fld) (v i a : Nat) : (s.fset f v i a).evr = s.evr := State.wr_evr _ _ _ _ _
@[simp] theorem State.fset_chk (s : State) (f : Fld) (v i a : Nat) : (s.fset f v i a).chk = s.chk := State.wr_chk _ _ _ _ _
@[simp] theorem State.fset_eut (s : State) (f : Fld) (v i a : Nat) : (s.fset f v i a).eut = s.eut := State.wr_eut _ _ _ _ _
@[simp] theorem State.fset_col (s : State) (f : Fld) (v i a : Nat) : (s.fset f v i a).col = s.col := State.wr_col _ _ _ _ _
@[simp] theorem State.fset_rcv (s : State) (f : Fld) (v i a : Nat) : (s.fset f v i a).rcv = s.rcv := State.wr_rcv _ _ _ _ _
@[simp] theorem State.fset_tier (s : State) (f : Fld) (v i a : Nat) : (s.fset f v i a).tier = s.tier := State.wr_tier _ _ _ _ _
@[simp] theorem State.fset_ing (s : State) (f : Fld) (v i a : Nat) : (s.fset f v i a).ing = s.ing := State.wr_ing _ _ _ _ _
@[simp] theorem State.fset_pins (s : State) (f : Fld) (v i a : Nat) : (s.fset f v i a).pins = s.pins := State.wr_pins _ _ _ _ _
@[simp] theorem State.fset_usec (s : State) (f : Fld) (v i a : Nat) : (s.fset f v i a).usec = s.usec := State.wr_usec _ _ _ _ _
@[simp] theorem State.fset_out (s : State) (f : Fld) (v i a : Nat) : (s.fset f v i a).out = s.out := State.wr_out _ _ _ _ _
@[simp] theorem State.fset_freeCtr (s : State) (f : Fld) (v i a : Nat) : (s.fset f v i a).freeCtr = s.freeCtr := State.wr_freeCtr _ _ _ _ _
@[simp] theorem State.fset_pending (s : State) (f : Fld) (v i a : Nat) : (s.fset f v i a).pending = s.pending := State.wr_pending _ _ _ _ _

@[simp] theorem State.wr64_mem (s : State) (l h : RegName) (v i a : Nat) : (s.wr64 l h v i a).mem = s.mem := by
  simp only [State.wr64, State.wr_mem]
@[simp] theorem State.wr64_queues (s : State) (l h : RegName) (v i a : Nat) : (s.wr64 l h v i a).queues = s.queues := by
  simp only [State.wr64, State.wr_queues]
@[simp] theorem State.wr64_ports (s : State) (l h : RegName) (v i a : Nat) : (s.wr64 l h v i a).ports = s.ports := by
  simp only [State.wr64, State.wr_ports]
@[simp] theorem State.wr64_hbm (s : State) (l h : RegName) (v i a : Nat) : (s.wr64 l h v i a).hbm = s.hbm := by
  simp only [State.wr64, State.wr_hbm]
@[simp] theorem State.wr64_pwr (s : State) (l h : RegName) (v i a : Nat) : (s.wr64 l h v i a).pwr = s.pwr := by
  simp only [State.wr64, State.wr_pwr]
@[simp] theorem State.wr64_boot (s : State) (l h : RegName) (v i a : Nat) : (s.wr64 l h v i a).boot = s.boot := by
  simp only [State.wr64, State.wr_boot]
@[simp] theorem State.wr64_flash (s : State) (l h : RegName) (v i a : Nat) : (s.wr64 l h v i a).flash = s.flash := by
  simp only [State.wr64, State.wr_flash]
@[simp] theorem State.wr64_arr (s : State) (l h : RegName) (v i a : Nat) : (s.wr64 l h v i a).arr = s.arr := by
  simp only [State.wr64, State.wr_arr]
@[simp] theorem State.wr64_vec (s : State) (l h : RegName) (v i a : Nat) : (s.wr64 l h v i a).vec = s.vec := by
  simp only [State.wr64, State.wr_vec]
@[simp] theorem State.wr64_evr (s : State) (l h : RegName) (v i a : Nat) : (s.wr64 l h v i a).evr = s.evr := by
  simp only [State.wr64, State.wr_evr]
@[simp] theorem State.wr64_chk (s : State) (l h : RegName) (v i a : Nat) : (s.wr64 l h v i a).chk = s.chk := by
  simp only [State.wr64, State.wr_chk]
@[simp] theorem State.wr64_eut (s : State) (l h : RegName) (v i a : Nat) : (s.wr64 l h v i a).eut = s.eut := by
  simp only [State.wr64, State.wr_eut]
@[simp] theorem State.wr64_col (s : State) (l h : RegName) (v i a : Nat) : (s.wr64 l h v i a).col = s.col := by
  simp only [State.wr64, State.wr_col]
@[simp] theorem State.wr64_rcv (s : State) (l h : RegName) (v i a : Nat) : (s.wr64 l h v i a).rcv = s.rcv := by
  simp only [State.wr64, State.wr_rcv]
@[simp] theorem State.wr64_tier (s : State) (l h : RegName) (v i a : Nat) : (s.wr64 l h v i a).tier = s.tier := by
  simp only [State.wr64, State.wr_tier]
@[simp] theorem State.wr64_ing (s : State) (l h : RegName) (v i a : Nat) : (s.wr64 l h v i a).ing = s.ing := by
  simp only [State.wr64, State.wr_ing]
@[simp] theorem State.wr64_pins (s : State) (l h : RegName) (v i a : Nat) : (s.wr64 l h v i a).pins = s.pins := by
  simp only [State.wr64, State.wr_pins]
@[simp] theorem State.wr64_usec (s : State) (l h : RegName) (v i a : Nat) : (s.wr64 l h v i a).usec = s.usec := by
  simp only [State.wr64, State.wr_usec]
@[simp] theorem State.wr64_out (s : State) (l h : RegName) (v i a : Nat) : (s.wr64 l h v i a).out = s.out := by
  simp only [State.wr64, State.wr_out]
@[simp] theorem State.wr64_freeCtr (s : State) (l h : RegName) (v i a : Nat) : (s.wr64 l h v i a).freeCtr = s.freeCtr := by
  simp only [State.wr64, State.wr_freeCtr]
@[simp] theorem State.wr64_pending (s : State) (l h : RegName) (v i a : Nat) : (s.wr64 l h v i a).pending = s.pending := by
  simp only [State.wr64, State.wr_pending]

@[simp] theorem State.sqSet_mem (s : State) (r : RegName) (i a : Nat) (b c : List Fld) : (s.sqSet r i a b c).mem = s.mem := State.wr_mem _ _ _ _ _
@[simp] theorem State.sqSet_queues (s : State) (r : RegName) (i a : Nat) (b c : List Fld) : (s.sqSet r i a b c).queues = s.queues := State.wr_queues _ _ _ _ _
@[simp] theorem State.sqSet_ports (s : State) (r : RegName) (i a : Nat) (b c : List Fld) : (s.sqSet r i a b c).ports = s.ports := State.wr_ports _ _ _ _ _
@[simp] theorem State.sqSet_hbm (s : State) (r : RegName) (i a : Nat) (b c : List Fld) : (s.sqSet r i a b c).hbm = s.hbm := State.wr_hbm _ _ _ _ _
@[simp] theorem State.sqSet_pwr (s : State) (r : RegName) (i a : Nat) (b c : List Fld) : (s.sqSet r i a b c).pwr = s.pwr := State.wr_pwr _ _ _ _ _
@[simp] theorem State.sqSet_boot (s : State) (r : RegName) (i a : Nat) (b c : List Fld) : (s.sqSet r i a b c).boot = s.boot := State.wr_boot _ _ _ _ _
@[simp] theorem State.sqSet_flash (s : State) (r : RegName) (i a : Nat) (b c : List Fld) : (s.sqSet r i a b c).flash = s.flash := State.wr_flash _ _ _ _ _
@[simp] theorem State.sqSet_arr (s : State) (r : RegName) (i a : Nat) (b c : List Fld) : (s.sqSet r i a b c).arr = s.arr := State.wr_arr _ _ _ _ _
@[simp] theorem State.sqSet_vec (s : State) (r : RegName) (i a : Nat) (b c : List Fld) : (s.sqSet r i a b c).vec = s.vec := State.wr_vec _ _ _ _ _
@[simp] theorem State.sqSet_evr (s : State) (r : RegName) (i a : Nat) (b c : List Fld) : (s.sqSet r i a b c).evr = s.evr := State.wr_evr _ _ _ _ _
@[simp] theorem State.sqSet_chk (s : State) (r : RegName) (i a : Nat) (b c : List Fld) : (s.sqSet r i a b c).chk = s.chk := State.wr_chk _ _ _ _ _
@[simp] theorem State.sqSet_eut (s : State) (r : RegName) (i a : Nat) (b c : List Fld) : (s.sqSet r i a b c).eut = s.eut := State.wr_eut _ _ _ _ _
@[simp] theorem State.sqSet_col (s : State) (r : RegName) (i a : Nat) (b c : List Fld) : (s.sqSet r i a b c).col = s.col := State.wr_col _ _ _ _ _
@[simp] theorem State.sqSet_rcv (s : State) (r : RegName) (i a : Nat) (b c : List Fld) : (s.sqSet r i a b c).rcv = s.rcv := State.wr_rcv _ _ _ _ _
@[simp] theorem State.sqSet_tier (s : State) (r : RegName) (i a : Nat) (b c : List Fld) : (s.sqSet r i a b c).tier = s.tier := State.wr_tier _ _ _ _ _
@[simp] theorem State.sqSet_ing (s : State) (r : RegName) (i a : Nat) (b c : List Fld) : (s.sqSet r i a b c).ing = s.ing := State.wr_ing _ _ _ _ _
@[simp] theorem State.sqSet_pins (s : State) (r : RegName) (i a : Nat) (b c : List Fld) : (s.sqSet r i a b c).pins = s.pins := State.wr_pins _ _ _ _ _
@[simp] theorem State.sqSet_usec (s : State) (r : RegName) (i a : Nat) (b c : List Fld) : (s.sqSet r i a b c).usec = s.usec := State.wr_usec _ _ _ _ _
@[simp] theorem State.sqSet_out (s : State) (r : RegName) (i a : Nat) (b c : List Fld) : (s.sqSet r i a b c).out = s.out := State.wr_out _ _ _ _ _
@[simp] theorem State.sqSet_freeCtr (s : State) (r : RegName) (i a : Nat) (b c : List Fld) : (s.sqSet r i a b c).freeCtr = s.freeCtr := State.wr_freeCtr _ _ _ _ _
@[simp] theorem State.sqSet_pending (s : State) (r : RegName) (i a : Nat) (b c : List Fld) : (s.sqSet r i a b c).pending = s.pending := State.wr_pending _ _ _ _ _

@[simp] theorem State.errSet_mem (s : State) (k w : Nat) (b c : List Fld) : (s.errSet k w b c).mem = s.mem := State.sqSet_mem _ _ _ _ _ _
@[simp] theorem State.errSet_queues (s : State) (k w : Nat) (b c : List Fld) : (s.errSet k w b c).queues = s.queues := State.sqSet_queues _ _ _ _ _ _
@[simp] theorem State.errSet_ports (s : State) (k w : Nat) (b c : List Fld) : (s.errSet k w b c).ports = s.ports := State.sqSet_ports _ _ _ _ _ _
@[simp] theorem State.errSet_hbm (s : State) (k w : Nat) (b c : List Fld) : (s.errSet k w b c).hbm = s.hbm := State.sqSet_hbm _ _ _ _ _ _
@[simp] theorem State.errSet_pwr (s : State) (k w : Nat) (b c : List Fld) : (s.errSet k w b c).pwr = s.pwr := State.sqSet_pwr _ _ _ _ _ _
@[simp] theorem State.errSet_boot (s : State) (k w : Nat) (b c : List Fld) : (s.errSet k w b c).boot = s.boot := State.sqSet_boot _ _ _ _ _ _
@[simp] theorem State.errSet_flash (s : State) (k w : Nat) (b c : List Fld) : (s.errSet k w b c).flash = s.flash := State.sqSet_flash _ _ _ _ _ _
@[simp] theorem State.errSet_arr (s : State) (k w : Nat) (b c : List Fld) : (s.errSet k w b c).arr = s.arr := State.sqSet_arr _ _ _ _ _ _
@[simp] theorem State.errSet_vec (s : State) (k w : Nat) (b c : List Fld) : (s.errSet k w b c).vec = s.vec := State.sqSet_vec _ _ _ _ _ _
@[simp] theorem State.errSet_evr (s : State) (k w : Nat) (b c : List Fld) : (s.errSet k w b c).evr = s.evr := State.sqSet_evr _ _ _ _ _ _
@[simp] theorem State.errSet_chk (s : State) (k w : Nat) (b c : List Fld) : (s.errSet k w b c).chk = s.chk := State.sqSet_chk _ _ _ _ _ _
@[simp] theorem State.errSet_eut (s : State) (k w : Nat) (b c : List Fld) : (s.errSet k w b c).eut = s.eut := State.sqSet_eut _ _ _ _ _ _
@[simp] theorem State.errSet_col (s : State) (k w : Nat) (b c : List Fld) : (s.errSet k w b c).col = s.col := State.sqSet_col _ _ _ _ _ _
@[simp] theorem State.errSet_rcv (s : State) (k w : Nat) (b c : List Fld) : (s.errSet k w b c).rcv = s.rcv := State.sqSet_rcv _ _ _ _ _ _
@[simp] theorem State.errSet_tier (s : State) (k w : Nat) (b c : List Fld) : (s.errSet k w b c).tier = s.tier := State.sqSet_tier _ _ _ _ _ _
@[simp] theorem State.errSet_ing (s : State) (k w : Nat) (b c : List Fld) : (s.errSet k w b c).ing = s.ing := State.sqSet_ing _ _ _ _ _ _
@[simp] theorem State.errSet_pins (s : State) (k w : Nat) (b c : List Fld) : (s.errSet k w b c).pins = s.pins := State.sqSet_pins _ _ _ _ _ _
@[simp] theorem State.errSet_usec (s : State) (k w : Nat) (b c : List Fld) : (s.errSet k w b c).usec = s.usec := State.sqSet_usec _ _ _ _ _ _
@[simp] theorem State.errSet_out (s : State) (k w : Nat) (b c : List Fld) : (s.errSet k w b c).out = s.out := State.sqSet_out _ _ _ _ _ _
@[simp] theorem State.errSet_freeCtr (s : State) (k w : Nat) (b c : List Fld) : (s.errSet k w b c).freeCtr = s.freeCtr := State.sqSet_freeCtr _ _ _ _ _ _
@[simp] theorem State.errSet_pending (s : State) (k w : Nat) (b c : List Fld) : (s.errSet k w b c).pending = s.pending := State.sqSet_pending _ _ _ _ _ _

@[simp] theorem State.accessErr_mem (s : State) (w : Nat) : (s.accessErr w).mem = s.mem := State.errSet_mem _ _ _ _ _
@[simp] theorem State.accessErr_queues (s : State) (w : Nat) : (s.accessErr w).queues = s.queues := State.errSet_queues _ _ _ _ _
@[simp] theorem State.accessErr_ports (s : State) (w : Nat) : (s.accessErr w).ports = s.ports := State.errSet_ports _ _ _ _ _
@[simp] theorem State.accessErr_hbm (s : State) (w : Nat) : (s.accessErr w).hbm = s.hbm := State.errSet_hbm _ _ _ _ _
@[simp] theorem State.accessErr_pwr (s : State) (w : Nat) : (s.accessErr w).pwr = s.pwr := State.errSet_pwr _ _ _ _ _
@[simp] theorem State.accessErr_boot (s : State) (w : Nat) : (s.accessErr w).boot = s.boot := State.errSet_boot _ _ _ _ _
@[simp] theorem State.accessErr_flash (s : State) (w : Nat) : (s.accessErr w).flash = s.flash := State.errSet_flash _ _ _ _ _
@[simp] theorem State.accessErr_arr (s : State) (w : Nat) : (s.accessErr w).arr = s.arr := State.errSet_arr _ _ _ _ _
@[simp] theorem State.accessErr_vec (s : State) (w : Nat) : (s.accessErr w).vec = s.vec := State.errSet_vec _ _ _ _ _
@[simp] theorem State.accessErr_evr (s : State) (w : Nat) : (s.accessErr w).evr = s.evr := State.errSet_evr _ _ _ _ _
@[simp] theorem State.accessErr_chk (s : State) (w : Nat) : (s.accessErr w).chk = s.chk := State.errSet_chk _ _ _ _ _
@[simp] theorem State.accessErr_eut (s : State) (w : Nat) : (s.accessErr w).eut = s.eut := State.errSet_eut _ _ _ _ _
@[simp] theorem State.accessErr_col (s : State) (w : Nat) : (s.accessErr w).col = s.col := State.errSet_col _ _ _ _ _
@[simp] theorem State.accessErr_rcv (s : State) (w : Nat) : (s.accessErr w).rcv = s.rcv := State.errSet_rcv _ _ _ _ _
@[simp] theorem State.accessErr_tier (s : State) (w : Nat) : (s.accessErr w).tier = s.tier := State.errSet_tier _ _ _ _ _
@[simp] theorem State.accessErr_ing (s : State) (w : Nat) : (s.accessErr w).ing = s.ing := State.errSet_ing _ _ _ _ _
@[simp] theorem State.accessErr_pins (s : State) (w : Nat) : (s.accessErr w).pins = s.pins := State.errSet_pins _ _ _ _ _
@[simp] theorem State.accessErr_usec (s : State) (w : Nat) : (s.accessErr w).usec = s.usec := State.errSet_usec _ _ _ _ _
@[simp] theorem State.accessErr_out (s : State) (w : Nat) : (s.accessErr w).out = s.out := State.errSet_out _ _ _ _ _
@[simp] theorem State.accessErr_freeCtr (s : State) (w : Nat) : (s.accessErr w).freeCtr = s.freeCtr := State.errSet_freeCtr _ _ _ _ _
@[simp] theorem State.accessErr_pending (s : State) (w : Nat) : (s.accessErr w).pending = s.pending := State.errSet_pending _ _ _ _ _

@[simp] theorem State.draw_rf (s : State) (w : Nat) : ((s.draw w).2).rf = s.rf := by cases s; rfl
@[simp] theorem State.draw_mem (s : State) (w : Nat) : ((s.draw w).2).mem = s.mem := by cases s; rfl
@[simp] theorem State.draw_queues (s : State) (w : Nat) : ((s.draw w).2).queues = s.queues := by cases s; rfl
@[simp] theorem State.draw_ports (s : State) (w : Nat) : ((s.draw w).2).ports = s.ports := by cases s; rfl
@[simp] theorem State.draw_hbm (s : State) (w : Nat) : ((s.draw w).2).hbm = s.hbm := by cases s; rfl
@[simp] theorem State.draw_pwr (s : State) (w : Nat) : ((s.draw w).2).pwr = s.pwr := by cases s; rfl
@[simp] theorem State.draw_boot (s : State) (w : Nat) : ((s.draw w).2).boot = s.boot := by cases s; rfl
@[simp] theorem State.draw_flash (s : State) (w : Nat) : ((s.draw w).2).flash = s.flash := by cases s; rfl
@[simp] theorem State.draw_arr (s : State) (w : Nat) : ((s.draw w).2).arr = s.arr := by cases s; rfl
@[simp] theorem State.draw_vec (s : State) (w : Nat) : ((s.draw w).2).vec = s.vec := by cases s; rfl
@[simp] theorem State.draw_evr (s : State) (w : Nat) : ((s.draw w).2).evr = s.evr := by cases s; rfl
@[simp] theorem State.draw_chk (s : State) (w : Nat) : ((s.draw w).2).chk = s.chk := by cases s; rfl
@[simp] theorem State.draw_eut (s : State) (w : Nat) : ((s.draw w).2).eut = s.eut := by cases s; rfl
@[simp] theorem State.draw_col (s : State) (w : Nat) : ((s.draw w).2).col = s.col := by cases s; rfl
@[simp] theorem State.draw_rcv (s : State) (w : Nat) : ((s.draw w).2).rcv = s.rcv := by cases s; rfl
@[simp] theorem State.draw_tier (s : State) (w : Nat) : ((s.draw w).2).tier = s.tier := by cases s; rfl
@[simp] theorem State.draw_ing (s : State) (w : Nat) : ((s.draw w).2).ing = s.ing := by cases s; rfl
@[simp] theorem State.draw_pins (s : State) (w : Nat) : ((s.draw w).2).pins = s.pins := by cases s; rfl
@[simp] theorem State.draw_usec (s : State) (w : Nat) : ((s.draw w).2).usec = s.usec := by cases s; rfl
@[simp] theorem State.draw_out (s : State) (w : Nat) : ((s.draw w).2).out = s.out := by cases s; rfl
@[simp] theorem State.draw_pending (s : State) (w : Nat) : ((s.draw w).2).pending = s.pending := by cases s; rfl
@[simp] theorem State.draw_rd (s : State) (w : Nat) (rr : RegName) (jj ww : Nat) : ((s.draw w).2).rd rr jj ww = s.rd rr jj ww := by simp only [State.rd, State.draw_rf]

@[simp] theorem State.drawBytes_rf (s : State) (n : Nat) : ((s.drawBytes n).2).rf = s.rf := by cases s; rfl
@[simp] theorem State.drawBytes_mem (s : State) (n : Nat) : ((s.drawBytes n).2).mem = s.mem := by cases s; rfl
@[simp] theorem State.drawBytes_queues (s : State) (n : Nat) : ((s.drawBytes n).2).queues = s.queues := by cases s; rfl
@[simp] theorem State.drawBytes_ports (s : State) (n : Nat) : ((s.drawBytes n).2).ports = s.ports := by cases s; rfl
@[simp] theorem State.drawBytes_hbm (s : State) (n : Nat) : ((s.drawBytes n).2).hbm = s.hbm := by cases s; rfl
@[simp] theorem State.drawBytes_pwr (s : State) (n : Nat) : ((s.drawBytes n).2).pwr = s.pwr := by cases s; rfl
@[simp] theorem State.drawBytes_boot (s : State) (n : Nat) : ((s.drawBytes n).2).boot = s.boot := by cases s; rfl
@[simp] theorem State.drawBytes_flash (s : State) (n : Nat) : ((s.drawBytes n).2).flash = s.flash := by cases s; rfl
@[simp] theorem State.drawBytes_arr (s : State) (n : Nat) : ((s.drawBytes n).2).arr = s.arr := by cases s; rfl
@[simp] theorem State.drawBytes_vec (s : State) (n : Nat) : ((s.drawBytes n).2).vec = s.vec := by cases s; rfl
@[simp] theorem State.drawBytes_evr (s : State) (n : Nat) : ((s.drawBytes n).2).evr = s.evr := by cases s; rfl
@[simp] theorem State.drawBytes_chk (s : State) (n : Nat) : ((s.drawBytes n).2).chk = s.chk := by cases s; rfl
@[simp] theorem State.drawBytes_eut (s : State) (n : Nat) : ((s.drawBytes n).2).eut = s.eut := by cases s; rfl
@[simp] theorem State.drawBytes_col (s : State) (n : Nat) : ((s.drawBytes n).2).col = s.col := by cases s; rfl
@[simp] theorem State.drawBytes_rcv (s : State) (n : Nat) : ((s.drawBytes n).2).rcv = s.rcv := by cases s; rfl
@[simp] theorem State.drawBytes_tier (s : State) (n : Nat) : ((s.drawBytes n).2).tier = s.tier := by cases s; rfl
@[simp] theorem State.drawBytes_ing (s : State) (n : Nat) : ((s.drawBytes n).2).ing = s.ing := by cases s; rfl
@[simp] theorem State.drawBytes_pins (s : State) (n : Nat) : ((s.drawBytes n).2).pins = s.pins := by cases s; rfl
@[simp] theorem State.drawBytes_usec (s : State) (n : Nat) : ((s.drawBytes n).2).usec = s.usec := by cases s; rfl
@[simp] theorem State.drawBytes_out (s : State) (n : Nat) : ((s.drawBytes n).2).out = s.out := by cases s; rfl
@[simp] theorem State.drawBytes_pending (s : State) (n : Nat) : ((s.drawBytes n).2).pending = s.pending := by cases s; rfl
@[simp] theorem State.drawBytes_rd (s : State) (n : Nat) (rr : RegName) (jj ww : Nat) : ((s.drawBytes n).2).rd rr jj ww = s.rd rr jj ww := by simp only [State.rd, State.drawBytes_rf]

@[simp] theorem State.setPort_rf (s : State) (p : PortId) (x : PortSt) : (s.setPort p x).rf = s.rf := by cases s; rfl
@[simp] theorem State.setPort_mem (s : State) (p : PortId) (x : PortSt) : (s.setPort p x).mem = s.mem := by cases s; rfl
@[simp] theorem State.setPort_queues (s : State) (p : PortId) (x : PortSt) : (s.setPort p x).queues = s.queues := by cases s; rfl
@[simp] theorem State.setPort_hbm (s : State) (p : PortId) (x : PortSt) : (s.setPort p x).hbm = s.hbm := by cases s; rfl
@[simp] theorem State.setPort_pwr (s : State) (p : PortId) (x : PortSt) : (s.setPort p x).pwr = s.pwr := by cases s; rfl
@[simp] theorem State.setPort_boot (s : State) (p : PortId) (x : PortSt) : (s.setPort p x).boot = s.boot := by cases s; rfl
@[simp] theorem State.setPort_flash (s : State) (p : PortId) (x : PortSt) : (s.setPort p x).flash = s.flash := by cases s; rfl
@[simp] theorem State.setPort_arr (s : State) (p : PortId) (x : PortSt) : (s.setPort p x).arr = s.arr := by cases s; rfl
@[simp] theorem State.setPort_vec (s : State) (p : PortId) (x : PortSt) : (s.setPort p x).vec = s.vec := by cases s; rfl
@[simp] theorem State.setPort_evr (s : State) (p : PortId) (x : PortSt) : (s.setPort p x).evr = s.evr := by cases s; rfl
@[simp] theorem State.setPort_chk (s : State) (p : PortId) (x : PortSt) : (s.setPort p x).chk = s.chk := by cases s; rfl
@[simp] theorem State.setPort_eut (s : State) (p : PortId) (x : PortSt) : (s.setPort p x).eut = s.eut := by cases s; rfl
@[simp] theorem State.setPort_col (s : State) (p : PortId) (x : PortSt) : (s.setPort p x).col = s.col := by cases s; rfl
@[simp] theorem State.setPort_rcv (s : State) (p : PortId) (x : PortSt) : (s.setPort p x).rcv = s.rcv := by cases s; rfl
@[simp] theorem State.setPort_tier (s : State) (p : PortId) (x : PortSt) : (s.setPort p x).tier = s.tier := by cases s; rfl
@[simp] theorem State.setPort_ing (s : State) (p : PortId) (x : PortSt) : (s.setPort p x).ing = s.ing := by cases s; rfl
@[simp] theorem State.setPort_pins (s : State) (p : PortId) (x : PortSt) : (s.setPort p x).pins = s.pins := by cases s; rfl
@[simp] theorem State.setPort_usec (s : State) (p : PortId) (x : PortSt) : (s.setPort p x).usec = s.usec := by cases s; rfl
@[simp] theorem State.setPort_out (s : State) (p : PortId) (x : PortSt) : (s.setPort p x).out = s.out := by cases s; rfl
@[simp] theorem State.setPort_freeCtr (s : State) (p : PortId) (x : PortSt) : (s.setPort p x).freeCtr = s.freeCtr := by cases s; rfl
@[simp] theorem State.setPort_pending (s : State) (p : PortId) (x : PortSt) : (s.setPort p x).pending = s.pending := by cases s; rfl
@[simp] theorem State.setPort_rd (s : State) (p : PortId) (x : PortSt) (rr : RegName) (jj ww : Nat) : (s.setPort p x).rd rr jj ww = s.rd rr jj ww := by simp only [State.rd, State.setPort_rf]

@[simp] theorem State.modPort_rf (s : State) (p : PortId) (f : PortSt → PortSt) : (s.modPort p f).rf = s.rf := State.setPort_rf _ _ _
@[simp] theorem State.modPort_mem (s : State) (p : PortId) (f : PortSt → PortSt) : (s.modPort p f).mem = s.mem := State.setPort_mem _ _ _
@[simp] theorem State.modPort_queues (s : State) (p : PortId) (f : PortSt → PortSt) : (s.modPort p f).queues = s.queues := State.setPort_queues _ _ _
@[simp] theorem State.modPort_hbm (s : State) (p : PortId) (f : PortSt → PortSt) : (s.modPort p f).hbm = s.hbm := State.setPort_hbm _ _ _
@[simp] theorem State.modPort_pwr (s : State) (p : PortId) (f : PortSt → PortSt) : (s.modPort p f).pwr = s.pwr := State.setPort_pwr _ _ _
@[simp] theorem State.modPort_boot (s : State) (p : PortId) (f : PortSt → PortSt) : (s.modPort p f).boot = s.boot := State.setPort_boot _ _ _
@[simp] theorem State.modPort_flash (s : State) (p : PortId) (f : PortSt → PortSt) : (s.modPort p f).flash = s.flash := State.setPort_flash _ _ _
@[simp] theorem State.modPort_arr (s : State) (p : PortId) (f : PortSt → PortSt) : (s.modPort p f).arr = s.arr := State.setPort_arr _ _ _
@[simp] theorem State.modPort_vec (s : State) (p : PortId) (f : PortSt → PortSt) : (s.modPort p f).vec = s.vec := State.setPort_vec _ _ _
@[simp] theorem State.modPort_evr (s : State) (p : PortId) (f : PortSt → PortSt) : (s.modPort p f).evr = s.evr := State.setPort_evr _ _ _
@[simp] theorem State.modPort_chk (s : State) (p : PortId) (f : PortSt → PortSt) : (s.modPort p f).chk = s.chk := State.setPort_chk _ _ _
@[simp] theorem State.modPort_eut (s : State) (p : PortId) (f : PortSt → PortSt) : (s.modPort p f).eut = s.eut := State.setPort_eut _ _ _
@[simp] theorem State.modPort_col (s : State) (p : PortId) (f : PortSt → PortSt) : (s.modPort p f).col = s.col := State.setPort_col _ _ _
@[simp] theorem State.modPort_rcv (s : State) (p : PortId) (f : PortSt → PortSt) : (s.modPort p f).rcv = s.rcv := State.setPort_rcv _ _ _
@[simp] theorem State.modPort_tier (s : State) (p : PortId) (f : PortSt → PortSt) : (s.modPort p f).tier = s.tier := State.setPort_tier _ _ _
@[simp] theorem State.modPort_ing (s : State) (p : PortId) (f : PortSt → PortSt) : (s.modPort p f).ing = s.ing := State.setPort_ing _ _ _
@[simp] theorem State.modPort_pins (s : State) (p : PortId) (f : PortSt → PortSt) : (s.modPort p f).pins = s.pins := State.setPort_pins _ _ _
@[simp] theorem State.modPort_usec (s : State) (p : PortId) (f : PortSt → PortSt) : (s.modPort p f).usec = s.usec := State.setPort_usec _ _ _
@[simp] theorem State.modPort_out (s : State) (p : PortId) (f : PortSt → PortSt) : (s.modPort p f).out = s.out := State.setPort_out _ _ _
@[simp] theorem State.modPort_freeCtr (s : State) (p : PortId) (f : PortSt → PortSt) : (s.modPort p f).freeCtr = s.freeCtr := State.setPort_freeCtr _ _ _
@[simp] theorem State.modPort_pending (s : State) (p : PortId) (f : PortSt → PortSt) : (s.modPort p f).pending = s.pending := State.setPort_pending _ _ _
@[simp] theorem State.modPort_rd (s : State) (p : PortId) (f : PortSt → PortSt) (rr : RegName) (jj ww : Nat) : (s.modPort p f).rd rr jj ww = s.rd rr jj ww := by simp only [State.rd, State.modPort_rf]

@[simp] theorem State.emit_rf (s : State) (o : Output) : (s.emit o).rf = s.rf := by cases s; rfl
@[simp] theorem State.emit_mem (s : State) (o : Output) : (s.emit o).mem = s.mem := by cases s; rfl
@[simp] theorem State.emit_queues (s : State) (o : Output) : (s.emit o).queues = s.queues := by cases s; rfl
@[simp] theorem State.emit_ports (s : State) (o : Output) : (s.emit o).ports = s.ports := by cases s; rfl
@[simp] theorem State.emit_hbm (s : State) (o : Output) : (s.emit o).hbm = s.hbm := by cases s; rfl
@[simp] theorem State.emit_pwr (s : State) (o : Output) : (s.emit o).pwr = s.pwr := by cases s; rfl
@[simp] theorem State.emit_boot (s : State) (o : Output) : (s.emit o).boot = s.boot := by cases s; rfl
@[simp] theorem State.emit_flash (s : State) (o : Output) : (s.emit o).flash = s.flash := by cases s; rfl
@[simp] theorem State.emit_arr (s : State) (o : Output) : (s.emit o).arr = s.arr := by cases s; rfl
@[simp] theorem State.emit_vec (s : State) (o : Output) : (s.emit o).vec = s.vec := by cases s; rfl
@[simp] theorem State.emit_evr (s : State) (o : Output) : (s.emit o).evr = s.evr := by cases s; rfl
@[simp] theorem State.emit_chk (s : State) (o : Output) : (s.emit o).chk = s.chk := by cases s; rfl
@[simp] theorem State.emit_eut (s : State) (o : Output) : (s.emit o).eut = s.eut := by cases s; rfl
@[simp] theorem State.emit_col (s : State) (o : Output) : (s.emit o).col = s.col := by cases s; rfl
@[simp] theorem State.emit_rcv (s : State) (o : Output) : (s.emit o).rcv = s.rcv := by cases s; rfl
@[simp] theorem State.emit_tier (s : State) (o : Output) : (s.emit o).tier = s.tier := by cases s; rfl
@[simp] theorem State.emit_ing (s : State) (o : Output) : (s.emit o).ing = s.ing := by cases s; rfl
@[simp] theorem State.emit_pins (s : State) (o : Output) : (s.emit o).pins = s.pins := by cases s; rfl
@[simp] theorem State.emit_usec (s : State) (o : Output) : (s.emit o).usec = s.usec := by cases s; rfl
@[simp] theorem State.emit_freeCtr (s : State) (o : Output) : (s.emit o).freeCtr = s.freeCtr := by cases s; rfl
@[simp] theorem State.emit_pending (s : State) (o : Output) : (s.emit o).pending = s.pending := by cases s; rfl
@[simp] theorem State.emit_rd (s : State) (o : Output) (rr : RegName) (jj ww : Nat) : (s.emit o).rd rr jj ww = s.rd rr jj ww := by simp only [State.rd, State.emit_rf]

@[simp] theorem State.setStack_rf (s : State) (n : Quad) (x : StackSt) : (s.setStack n x).rf = s.rf := by cases s; rfl
@[simp] theorem State.setStack_mem (s : State) (n : Quad) (x : StackSt) : (s.setStack n x).mem = s.mem := by cases s; rfl
@[simp] theorem State.setStack_queues (s : State) (n : Quad) (x : StackSt) : (s.setStack n x).queues = s.queues := by cases s; rfl
@[simp] theorem State.setStack_ports (s : State) (n : Quad) (x : StackSt) : (s.setStack n x).ports = s.ports := by cases s; rfl
@[simp] theorem State.setStack_pwr (s : State) (n : Quad) (x : StackSt) : (s.setStack n x).pwr = s.pwr := by cases s; rfl
@[simp] theorem State.setStack_boot (s : State) (n : Quad) (x : StackSt) : (s.setStack n x).boot = s.boot := by cases s; rfl
@[simp] theorem State.setStack_flash (s : State) (n : Quad) (x : StackSt) : (s.setStack n x).flash = s.flash := by cases s; rfl
@[simp] theorem State.setStack_arr (s : State) (n : Quad) (x : StackSt) : (s.setStack n x).arr = s.arr := by cases s; rfl
@[simp] theorem State.setStack_vec (s : State) (n : Quad) (x : StackSt) : (s.setStack n x).vec = s.vec := by cases s; rfl
@[simp] theorem State.setStack_evr (s : State) (n : Quad) (x : StackSt) : (s.setStack n x).evr = s.evr := by cases s; rfl
@[simp] theorem State.setStack_chk (s : State) (n : Quad) (x : StackSt) : (s.setStack n x).chk = s.chk := by cases s; rfl
@[simp] theorem State.setStack_eut (s : State) (n : Quad) (x : StackSt) : (s.setStack n x).eut = s.eut := by cases s; rfl
@[simp] theorem State.setStack_col (s : State) (n : Quad) (x : StackSt) : (s.setStack n x).col = s.col := by cases s; rfl
@[simp] theorem State.setStack_rcv (s : State) (n : Quad) (x : StackSt) : (s.setStack n x).rcv = s.rcv := by cases s; rfl
@[simp] theorem State.setStack_tier (s : State) (n : Quad) (x : StackSt) : (s.setStack n x).tier = s.tier := by cases s; rfl
@[simp] theorem State.setStack_ing (s : State) (n : Quad) (x : StackSt) : (s.setStack n x).ing = s.ing := by cases s; rfl
@[simp] theorem State.setStack_pins (s : State) (n : Quad) (x : StackSt) : (s.setStack n x).pins = s.pins := by cases s; rfl
@[simp] theorem State.setStack_usec (s : State) (n : Quad) (x : StackSt) : (s.setStack n x).usec = s.usec := by cases s; rfl
@[simp] theorem State.setStack_out (s : State) (n : Quad) (x : StackSt) : (s.setStack n x).out = s.out := by cases s; rfl
@[simp] theorem State.setStack_freeCtr (s : State) (n : Quad) (x : StackSt) : (s.setStack n x).freeCtr = s.freeCtr := by cases s; rfl
@[simp] theorem State.setStack_pending (s : State) (n : Quad) (x : StackSt) : (s.setStack n x).pending = s.pending := by cases s; rfl
@[simp] theorem State.setStack_rd (s : State) (n : Quad) (x : StackSt) (rr : RegName) (jj ww : Nat) : (s.setStack n x).rd rr jj ww = s.rd rr jj ww := by simp only [State.rd, State.setStack_rf]

@[simp] theorem State.addRepair_rf (s : State) (e : RepairEnt) : (s.addRepair e).rf = s.rf := by cases s; rfl
@[simp] theorem State.addRepair_mem (s : State) (e : RepairEnt) : (s.addRepair e).mem = s.mem := by cases s; rfl
@[simp] theorem State.addRepair_queues (s : State) (e : RepairEnt) : (s.addRepair e).queues = s.queues := by cases s; rfl
@[simp] theorem State.addRepair_ports (s : State) (e : RepairEnt) : (s.addRepair e).ports = s.ports := by cases s; rfl
@[simp] theorem State.addRepair_hbm (s : State) (e : RepairEnt) : (s.addRepair e).hbm = s.hbm := by cases s; rfl
@[simp] theorem State.addRepair_pwr (s : State) (e : RepairEnt) : (s.addRepair e).pwr = s.pwr := by cases s; rfl
@[simp] theorem State.addRepair_arr (s : State) (e : RepairEnt) : (s.addRepair e).arr = s.arr := by cases s; rfl
@[simp] theorem State.addRepair_vec (s : State) (e : RepairEnt) : (s.addRepair e).vec = s.vec := by cases s; rfl
@[simp] theorem State.addRepair_evr (s : State) (e : RepairEnt) : (s.addRepair e).evr = s.evr := by cases s; rfl
@[simp] theorem State.addRepair_chk (s : State) (e : RepairEnt) : (s.addRepair e).chk = s.chk := by cases s; rfl
@[simp] theorem State.addRepair_eut (s : State) (e : RepairEnt) : (s.addRepair e).eut = s.eut := by cases s; rfl
@[simp] theorem State.addRepair_col (s : State) (e : RepairEnt) : (s.addRepair e).col = s.col := by cases s; rfl
@[simp] theorem State.addRepair_rcv (s : State) (e : RepairEnt) : (s.addRepair e).rcv = s.rcv := by cases s; rfl
@[simp] theorem State.addRepair_tier (s : State) (e : RepairEnt) : (s.addRepair e).tier = s.tier := by cases s; rfl
@[simp] theorem State.addRepair_ing (s : State) (e : RepairEnt) : (s.addRepair e).ing = s.ing := by cases s; rfl
@[simp] theorem State.addRepair_pins (s : State) (e : RepairEnt) : (s.addRepair e).pins = s.pins := by cases s; rfl
@[simp] theorem State.addRepair_usec (s : State) (e : RepairEnt) : (s.addRepair e).usec = s.usec := by cases s; rfl
@[simp] theorem State.addRepair_out (s : State) (e : RepairEnt) : (s.addRepair e).out = s.out := by cases s; rfl
@[simp] theorem State.addRepair_freeCtr (s : State) (e : RepairEnt) : (s.addRepair e).freeCtr = s.freeCtr := by cases s; rfl
@[simp] theorem State.addRepair_pending (s : State) (e : RepairEnt) : (s.addRepair e).pending = s.pending := by cases s; rfl
@[simp] theorem State.addRepair_rd (s : State) (e : RepairEnt) (rr : RegName) (jj ww : Nat) : (s.addRepair e).rd rr jj ww = s.rd rr jj ww := by simp only [State.rd, State.addRepair_rf]

@[simp] theorem State.putByte_rf (s : State) (a : Nat) (y : Byte) : (s.putByte a y).rf = s.rf := by cases s; rfl
@[simp] theorem State.putByte_queues (s : State) (a : Nat) (y : Byte) : (s.putByte a y).queues = s.queues := by cases s; rfl
@[simp] theorem State.putByte_ports (s : State) (a : Nat) (y : Byte) : (s.putByte a y).ports = s.ports := by cases s; rfl
@[simp] theorem State.putByte_hbm (s : State) (a : Nat) (y : Byte) : (s.putByte a y).hbm = s.hbm := by cases s; rfl
@[simp] theorem State.putByte_pwr (s : State) (a : Nat) (y : Byte) : (s.putByte a y).pwr = s.pwr := by cases s; rfl
@[simp] theorem State.putByte_boot (s : State) (a : Nat) (y : Byte) : (s.putByte a y).boot = s.boot := by cases s; rfl
@[simp] theorem State.putByte_flash (s : State) (a : Nat) (y : Byte) : (s.putByte a y).flash = s.flash := by cases s; rfl
@[simp] theorem State.putByte_arr (s : State) (a : Nat) (y : Byte) : (s.putByte a y).arr = s.arr := by cases s; rfl
@[simp] theorem State.putByte_vec (s : State) (a : Nat) (y : Byte) : (s.putByte a y).vec = s.vec := by cases s; rfl
@[simp] theorem State.putByte_evr (s : State) (a : Nat) (y : Byte) : (s.putByte a y).evr = s.evr := by cases s; rfl
@[simp] theorem State.putByte_chk (s : State) (a : Nat) (y : Byte) : (s.putByte a y).chk = s.chk := by cases s; rfl
@[simp] theorem State.putByte_eut (s : State) (a : Nat) (y : Byte) : (s.putByte a y).eut = s.eut := by cases s; rfl
@[simp] theorem State.putByte_col (s : State) (a : Nat) (y : Byte) : (s.putByte a y).col = s.col := by cases s; rfl
@[simp] theorem State.putByte_rcv (s : State) (a : Nat) (y : Byte) : (s.putByte a y).rcv = s.rcv := by cases s; rfl
@[simp] theorem State.putByte_tier (s : State) (a : Nat) (y : Byte) : (s.putByte a y).tier = s.tier := by cases s; rfl
@[simp] theorem State.putByte_ing (s : State) (a : Nat) (y : Byte) : (s.putByte a y).ing = s.ing := by cases s; rfl
@[simp] theorem State.putByte_pins (s : State) (a : Nat) (y : Byte) : (s.putByte a y).pins = s.pins := by cases s; rfl
@[simp] theorem State.putByte_usec (s : State) (a : Nat) (y : Byte) : (s.putByte a y).usec = s.usec := by cases s; rfl
@[simp] theorem State.putByte_out (s : State) (a : Nat) (y : Byte) : (s.putByte a y).out = s.out := by cases s; rfl
@[simp] theorem State.putByte_freeCtr (s : State) (a : Nat) (y : Byte) : (s.putByte a y).freeCtr = s.freeCtr := by cases s; rfl
@[simp] theorem State.putByte_pending (s : State) (a : Nat) (y : Byte) : (s.putByte a y).pending = s.pending := by cases s; rfl
@[simp] theorem State.putByte_rd (s : State) (a : Nat) (y : Byte) (rr : RegName) (jj ww : Nat) : (s.putByte a y).rd rr jj ww = s.rd rr jj ww := by simp only [State.rd, State.putByte_rf]

@[simp] theorem State.lockSet_mem (s : State) (p k v : Nat) : (s.lockSet p k v).mem = s.mem := State.wr_mem _ _ _ _ _
@[simp] theorem State.lockSet_queues (s : State) (p k v : Nat) : (s.lockSet p k v).queues = s.queues := State.wr_queues _ _ _ _ _
@[simp] theorem State.lockSet_ports (s : State) (p k v : Nat) : (s.lockSet p k v).ports = s.ports := State.wr_ports _ _ _ _ _
@[simp] theorem State.lockSet_hbm (s : State) (p k v : Nat) : (s.lockSet p k v).hbm = s.hbm := State.wr_hbm _ _ _ _ _
@[simp] theorem State.lockSet_pwr (s : State) (p k v : Nat) : (s.lockSet p k v).pwr = s.pwr := State.wr_pwr _ _ _ _ _
@[simp] theorem State.lockSet_boot (s : State) (p k v : Nat) : (s.lockSet p k v).boot = s.boot := State.wr_boot _ _ _ _ _
@[simp] theorem State.lockSet_flash (s : State) (p k v : Nat) : (s.lockSet p k v).flash = s.flash := State.wr_flash _ _ _ _ _
@[simp] theorem State.lockSet_arr (s : State) (p k v : Nat) : (s.lockSet p k v).arr = s.arr := State.wr_arr _ _ _ _ _
@[simp] theorem State.lockSet_vec (s : State) (p k v : Nat) : (s.lockSet p k v).vec = s.vec := State.wr_vec _ _ _ _ _
@[simp] theorem State.lockSet_evr (s : State) (p k v : Nat) : (s.lockSet p k v).evr = s.evr := State.wr_evr _ _ _ _ _
@[simp] theorem State.lockSet_chk (s : State) (p k v : Nat) : (s.lockSet p k v).chk = s.chk := State.wr_chk _ _ _ _ _
@[simp] theorem State.lockSet_eut (s : State) (p k v : Nat) : (s.lockSet p k v).eut = s.eut := State.wr_eut _ _ _ _ _
@[simp] theorem State.lockSet_col (s : State) (p k v : Nat) : (s.lockSet p k v).col = s.col := State.wr_col _ _ _ _ _
@[simp] theorem State.lockSet_rcv (s : State) (p k v : Nat) : (s.lockSet p k v).rcv = s.rcv := State.wr_rcv _ _ _ _ _
@[simp] theorem State.lockSet_tier (s : State) (p k v : Nat) : (s.lockSet p k v).tier = s.tier := State.wr_tier _ _ _ _ _
@[simp] theorem State.lockSet_ing (s : State) (p k v : Nat) : (s.lockSet p k v).ing = s.ing := State.wr_ing _ _ _ _ _
@[simp] theorem State.lockSet_pins (s : State) (p k v : Nat) : (s.lockSet p k v).pins = s.pins := State.wr_pins _ _ _ _ _
@[simp] theorem State.lockSet_usec (s : State) (p k v : Nat) : (s.lockSet p k v).usec = s.usec := State.wr_usec _ _ _ _ _
@[simp] theorem State.lockSet_out (s : State) (p k v : Nat) : (s.lockSet p k v).out = s.out := State.wr_out _ _ _ _ _
@[simp] theorem State.lockSet_freeCtr (s : State) (p k v : Nat) : (s.lockSet p k v).freeCtr = s.freeCtr := State.wr_freeCtr _ _ _ _ _
@[simp] theorem State.lockSet_pending (s : State) (p k v : Nat) : (s.lockSet p k v).pending = s.pending := State.wr_pending _ _ _ _ _

@[simp] theorem State.latch_mem (s : State) (n : Nat) (r : RegName) (i a : Nat) (v : Word) : (s.latch n r i a v).mem = s.mem := by cases s; rfl
@[simp] theorem State.latch_queues (s : State) (n : Nat) (r : RegName) (i a : Nat) (v : Word) : (s.latch n r i a v).queues = s.queues := by cases s; rfl
@[simp] theorem State.latch_ports (s : State) (n : Nat) (r : RegName) (i a : Nat) (v : Word) : (s.latch n r i a v).ports = s.ports := by cases s; rfl
@[simp] theorem State.latch_hbm (s : State) (n : Nat) (r : RegName) (i a : Nat) (v : Word) : (s.latch n r i a v).hbm = s.hbm := by cases s; rfl
@[simp] theorem State.latch_pwr (s : State) (n : Nat) (r : RegName) (i a : Nat) (v : Word) : (s.latch n r i a v).pwr = s.pwr := by cases s; rfl
@[simp] theorem State.latch_boot (s : State) (n : Nat) (r : RegName) (i a : Nat) (v : Word) : (s.latch n r i a v).boot = s.boot := by cases s; rfl
@[simp] theorem State.latch_flash (s : State) (n : Nat) (r : RegName) (i a : Nat) (v : Word) : (s.latch n r i a v).flash = s.flash := by cases s; rfl
@[simp] theorem State.latch_arr (s : State) (n : Nat) (r : RegName) (i a : Nat) (v : Word) : (s.latch n r i a v).arr = s.arr := by cases s; rfl
@[simp] theorem State.latch_vec (s : State) (n : Nat) (r : RegName) (i a : Nat) (v : Word) : (s.latch n r i a v).vec = s.vec := by cases s; rfl
@[simp] theorem State.latch_evr (s : State) (n : Nat) (r : RegName) (i a : Nat) (v : Word) : (s.latch n r i a v).evr = s.evr := by cases s; rfl
@[simp] theorem State.latch_chk (s : State) (n : Nat) (r : RegName) (i a : Nat) (v : Word) : (s.latch n r i a v).chk = s.chk := by cases s; rfl
@[simp] theorem State.latch_eut (s : State) (n : Nat) (r : RegName) (i a : Nat) (v : Word) : (s.latch n r i a v).eut = s.eut := by cases s; rfl
@[simp] theorem State.latch_col (s : State) (n : Nat) (r : RegName) (i a : Nat) (v : Word) : (s.latch n r i a v).col = s.col := by cases s; rfl
@[simp] theorem State.latch_rcv (s : State) (n : Nat) (r : RegName) (i a : Nat) (v : Word) : (s.latch n r i a v).rcv = s.rcv := by cases s; rfl
@[simp] theorem State.latch_tier (s : State) (n : Nat) (r : RegName) (i a : Nat) (v : Word) : (s.latch n r i a v).tier = s.tier := by cases s; rfl
@[simp] theorem State.latch_ing (s : State) (n : Nat) (r : RegName) (i a : Nat) (v : Word) : (s.latch n r i a v).ing = s.ing := by cases s; rfl
@[simp] theorem State.latch_pins (s : State) (n : Nat) (r : RegName) (i a : Nat) (v : Word) : (s.latch n r i a v).pins = s.pins := by cases s; rfl
@[simp] theorem State.latch_usec (s : State) (n : Nat) (r : RegName) (i a : Nat) (v : Word) : (s.latch n r i a v).usec = s.usec := by cases s; rfl
@[simp] theorem State.latch_out (s : State) (n : Nat) (r : RegName) (i a : Nat) (v : Word) : (s.latch n r i a v).out = s.out := by cases s; rfl
@[simp] theorem State.latch_freeCtr (s : State) (n : Nat) (r : RegName) (i a : Nat) (v : Word) : (s.latch n r i a v).freeCtr = s.freeCtr := by cases s; rfl
@[simp] theorem State.latch_pending (s : State) (n : Nat) (r : RegName) (i a : Nat) (v : Word) : (s.latch n r i a v).pending = s.pending := by cases s; rfl

@[simp] theorem State.stage_mem (s : State) (n : Nat) (r : RegName) (i a : Nat) (v : Word) : (s.stage n r i a v).mem = s.mem := by cases s; rfl
@[simp] theorem State.stage_queues (s : State) (n : Nat) (r : RegName) (i a : Nat) (v : Word) : (s.stage n r i a v).queues = s.queues := by cases s; rfl
@[simp] theorem State.stage_ports (s : State) (n : Nat) (r : RegName) (i a : Nat) (v : Word) : (s.stage n r i a v).ports = s.ports := by cases s; rfl
@[simp] theorem State.stage_hbm (s : State) (n : Nat) (r : RegName) (i a : Nat) (v : Word) : (s.stage n r i a v).hbm = s.hbm := by cases s; rfl
@[simp] theorem State.stage_pwr (s : State) (n : Nat) (r : RegName) (i a : Nat) (v : Word) : (s.stage n r i a v).pwr = s.pwr := by cases s; rfl
@[simp] theorem State.stage_boot (s : State) (n : Nat) (r : RegName) (i a : Nat) (v : Word) : (s.stage n r i a v).boot = s.boot := by cases s; rfl
@[simp] theorem State.stage_flash (s : State) (n : Nat) (r : RegName) (i a : Nat) (v : Word) : (s.stage n r i a v).flash = s.flash := by cases s; rfl
@[simp] theorem State.stage_arr (s : State) (n : Nat) (r : RegName) (i a : Nat) (v : Word) : (s.stage n r i a v).arr = s.arr := by cases s; rfl
@[simp] theorem State.stage_vec (s : State) (n : Nat) (r : RegName) (i a : Nat) (v : Word) : (s.stage n r i a v).vec = s.vec := by cases s; rfl
@[simp] theorem State.stage_evr (s : State) (n : Nat) (r : RegName) (i a : Nat) (v : Word) : (s.stage n r i a v).evr = s.evr := by cases s; rfl
@[simp] theorem State.stage_chk (s : State) (n : Nat) (r : RegName) (i a : Nat) (v : Word) : (s.stage n r i a v).chk = s.chk := by cases s; rfl
@[simp] theorem State.stage_eut (s : State) (n : Nat) (r : RegName) (i a : Nat) (v : Word) : (s.stage n r i a v).eut = s.eut := by cases s; rfl
@[simp] theorem State.stage_col (s : State) (n : Nat) (r : RegName) (i a : Nat) (v : Word) : (s.stage n r i a v).col = s.col := by cases s; rfl
@[simp] theorem State.stage_rcv (s : State) (n : Nat) (r : RegName) (i a : Nat) (v : Word) : (s.stage n r i a v).rcv = s.rcv := by cases s; rfl
@[simp] theorem State.stage_tier (s : State) (n : Nat) (r : RegName) (i a : Nat) (v : Word) : (s.stage n r i a v).tier = s.tier := by cases s; rfl
@[simp] theorem State.stage_ing (s : State) (n : Nat) (r : RegName) (i a : Nat) (v : Word) : (s.stage n r i a v).ing = s.ing := by cases s; rfl
@[simp] theorem State.stage_pins (s : State) (n : Nat) (r : RegName) (i a : Nat) (v : Word) : (s.stage n r i a v).pins = s.pins := by cases s; rfl
@[simp] theorem State.stage_usec (s : State) (n : Nat) (r : RegName) (i a : Nat) (v : Word) : (s.stage n r i a v).usec = s.usec := by cases s; rfl
@[simp] theorem State.stage_out (s : State) (n : Nat) (r : RegName) (i a : Nat) (v : Word) : (s.stage n r i a v).out = s.out := by cases s; rfl
@[simp] theorem State.stage_freeCtr (s : State) (n : Nat) (r : RegName) (i a : Nat) (v : Word) : (s.stage n r i a v).freeCtr = s.freeCtr := by cases s; rfl
@[simp] theorem State.stage_pending (s : State) (n : Nat) (r : RegName) (i a : Nat) (v : Word) : (s.stage n r i a v).pending = s.pending := by cases s; rfl

@[simp] theorem State.unstage_mem (s : State) (n : Nat) (r : RegName) (i a : Nat) : (s.unstage n r i a).mem = s.mem := by cases s; rfl
@[simp] theorem State.unstage_queues (s : State) (n : Nat) (r : RegName) (i a : Nat) : (s.unstage n r i a).queues = s.queues := by cases s; rfl
@[simp] theorem State.unstage_ports (s : State) (n : Nat) (r : RegName) (i a : Nat) : (s.unstage n r i a).ports = s.ports := by cases s; rfl
@[simp] theorem State.unstage_hbm (s : State) (n : Nat) (r : RegName) (i a : Nat) : (s.unstage n r i a).hbm = s.hbm := by cases s; rfl
@[simp] theorem State.unstage_pwr (s : State) (n : Nat) (r : RegName) (i a : Nat) : (s.unstage n r i a).pwr = s.pwr := by cases s; rfl
@[simp] theorem State.unstage_boot (s : State) (n : Nat) (r : RegName) (i a : Nat) : (s.unstage n r i a).boot = s.boot := by cases s; rfl
@[simp] theorem State.unstage_flash (s : State) (n : Nat) (r : RegName) (i a : Nat) : (s.unstage n r i a).flash = s.flash := by cases s; rfl
@[simp] theorem State.unstage_arr (s : State) (n : Nat) (r : RegName) (i a : Nat) : (s.unstage n r i a).arr = s.arr := by cases s; rfl
@[simp] theorem State.unstage_vec (s : State) (n : Nat) (r : RegName) (i a : Nat) : (s.unstage n r i a).vec = s.vec := by cases s; rfl
@[simp] theorem State.unstage_evr (s : State) (n : Nat) (r : RegName) (i a : Nat) : (s.unstage n r i a).evr = s.evr := by cases s; rfl
@[simp] theorem State.unstage_chk (s : State) (n : Nat) (r : RegName) (i a : Nat) : (s.unstage n r i a).chk = s.chk := by cases s; rfl
@[simp] theorem State.unstage_eut (s : State) (n : Nat) (r : RegName) (i a : Nat) : (s.unstage n r i a).eut = s.eut := by cases s; rfl
@[simp] theorem State.unstage_col (s : State) (n : Nat) (r : RegName) (i a : Nat) : (s.unstage n r i a).col = s.col := by cases s; rfl
@[simp] theorem State.unstage_rcv (s : State) (n : Nat) (r : RegName) (i a : Nat) : (s.unstage n r i a).rcv = s.rcv := by cases s; rfl
@[simp] theorem State.unstage_tier (s : State) (n : Nat) (r : RegName) (i a : Nat) : (s.unstage n r i a).tier = s.tier := by cases s; rfl
@[simp] theorem State.unstage_ing (s : State) (n : Nat) (r : RegName) (i a : Nat) : (s.unstage n r i a).ing = s.ing := by cases s; rfl
@[simp] theorem State.unstage_pins (s : State) (n : Nat) (r : RegName) (i a : Nat) : (s.unstage n r i a).pins = s.pins := by cases s; rfl
@[simp] theorem State.unstage_usec (s : State) (n : Nat) (r : RegName) (i a : Nat) : (s.unstage n r i a).usec = s.usec := by cases s; rfl
@[simp] theorem State.unstage_out (s : State) (n : Nat) (r : RegName) (i a : Nat) : (s.unstage n r i a).out = s.out := by cases s; rfl
@[simp] theorem State.unstage_freeCtr (s : State) (n : Nat) (r : RegName) (i a : Nat) : (s.unstage n r i a).freeCtr = s.freeCtr := by cases s; rfl
@[simp] theorem State.unstage_pending (s : State) (n : Nat) (r : RegName) (i a : Nat) : (s.unstage n r i a).pending = s.pending := by cases s; rfl

@[simp] theorem State.setQueue_rf (s : State) (p q : Nat) (x : QueueSt) : (s.setQueue p q x).rf = s.rf := by cases s; rfl
@[simp] theorem State.setQueue_mem (s : State) (p q : Nat) (x : QueueSt) : (s.setQueue p q x).mem = s.mem := by cases s; rfl
@[simp] theorem State.setQueue_ports (s : State) (p q : Nat) (x : QueueSt) : (s.setQueue p q x).ports = s.ports := by cases s; rfl
@[simp] theorem State.setQueue_hbm (s : State) (p q : Nat) (x : QueueSt) : (s.setQueue p q x).hbm = s.hbm := by cases s; rfl
@[simp] theorem State.setQueue_pwr (s : State) (p q : Nat) (x : QueueSt) : (s.setQueue p q x).pwr = s.pwr := by cases s; rfl
@[simp] theorem State.setQueue_boot (s : State) (p q : Nat) (x : QueueSt) : (s.setQueue p q x).boot = s.boot := by cases s; rfl
@[simp] theorem State.setQueue_flash (s : State) (p q : Nat) (x : QueueSt) : (s.setQueue p q x).flash = s.flash := by cases s; rfl
@[simp] theorem State.setQueue_arr (s : State) (p q : Nat) (x : QueueSt) : (s.setQueue p q x).arr = s.arr := by cases s; rfl
@[simp] theorem State.setQueue_vec (s : State) (p q : Nat) (x : QueueSt) : (s.setQueue p q x).vec = s.vec := by cases s; rfl
@[simp] theorem State.setQueue_evr (s : State) (p q : Nat) (x : QueueSt) : (s.setQueue p q x).evr = s.evr := by cases s; rfl
@[simp] theorem State.setQueue_chk (s : State) (p q : Nat) (x : QueueSt) : (s.setQueue p q x).chk = s.chk := by cases s; rfl
@[simp] theorem State.setQueue_eut (s : State) (p q : Nat) (x : QueueSt) : (s.setQueue p q x).eut = s.eut := by cases s; rfl
@[simp] theorem State.setQueue_col (s : State) (p q : Nat) (x : QueueSt) : (s.setQueue p q x).col = s.col := by cases s; rfl
@[simp] theorem State.setQueue_rcv (s : State) (p q : Nat) (x : QueueSt) : (s.setQueue p q x).rcv = s.rcv := by cases s; rfl
@[simp] theorem State.setQueue_tier (s : State) (p q : Nat) (x : QueueSt) : (s.setQueue p q x).tier = s.tier := by cases s; rfl
@[simp] theorem State.setQueue_ing (s : State) (p q : Nat) (x : QueueSt) : (s.setQueue p q x).ing = s.ing := by cases s; rfl
@[simp] theorem State.setQueue_pins (s : State) (p q : Nat) (x : QueueSt) : (s.setQueue p q x).pins = s.pins := by cases s; rfl
@[simp] theorem State.setQueue_usec (s : State) (p q : Nat) (x : QueueSt) : (s.setQueue p q x).usec = s.usec := by cases s; rfl
@[simp] theorem State.setQueue_out (s : State) (p q : Nat) (x : QueueSt) : (s.setQueue p q x).out = s.out := by cases s; rfl
@[simp] theorem State.setQueue_freeCtr (s : State) (p q : Nat) (x : QueueSt) : (s.setQueue p q x).freeCtr = s.freeCtr := by cases s; rfl
@[simp] theorem State.setQueue_pending (s : State) (p q : Nat) (x : QueueSt) : (s.setQueue p q x).pending = s.pending := by cases s; rfl
@[simp] theorem State.setQueue_rd (s : State) (p q : Nat) (x : QueueSt) (rr : RegName) (jj ww : Nat) : (s.setQueue p q x).rd rr jj ww = s.rd rr jj ww := by simp only [State.rd, State.setQueue_rf]

@[simp] theorem State.setCmd_rf (s : State) (p q : Nat) (c : Cmd) : (s.setCmd p q c).rf = s.rf := State.setQueue_rf _ _ _ _
@[simp] theorem State.setCmd_mem (s : State) (p q : Nat) (c : Cmd) : (s.setCmd p q c).mem = s.mem := State.setQueue_mem _ _ _ _
@[simp] theorem State.setCmd_ports (s : State) (p q : Nat) (c : Cmd) : (s.setCmd p q c).ports = s.ports := State.setQueue_ports _ _ _ _
@[simp] theorem State.setCmd_hbm (s : State) (p q : Nat) (c : Cmd) : (s.setCmd p q c).hbm = s.hbm := State.setQueue_hbm _ _ _ _
@[simp] theorem State.setCmd_pwr (s : State) (p q : Nat) (c : Cmd) : (s.setCmd p q c).pwr = s.pwr := State.setQueue_pwr _ _ _ _
@[simp] theorem State.setCmd_boot (s : State) (p q : Nat) (c : Cmd) : (s.setCmd p q c).boot = s.boot := State.setQueue_boot _ _ _ _
@[simp] theorem State.setCmd_flash (s : State) (p q : Nat) (c : Cmd) : (s.setCmd p q c).flash = s.flash := State.setQueue_flash _ _ _ _
@[simp] theorem State.setCmd_arr (s : State) (p q : Nat) (c : Cmd) : (s.setCmd p q c).arr = s.arr := State.setQueue_arr _ _ _ _
@[simp] theorem State.setCmd_vec (s : State) (p q : Nat) (c : Cmd) : (s.setCmd p q c).vec = s.vec := State.setQueue_vec _ _ _ _
@[simp] theorem State.setCmd_evr (s : State) (p q : Nat) (c : Cmd) : (s.setCmd p q c).evr = s.evr := State.setQueue_evr _ _ _ _
@[simp] theorem State.setCmd_chk (s : State) (p q : Nat) (c : Cmd) : (s.setCmd p q c).chk = s.chk := State.setQueue_chk _ _ _ _
@[simp] theorem State.setCmd_eut (s : State) (p q : Nat) (c : Cmd) : (s.setCmd p q c).eut = s.eut := State.setQueue_eut _ _ _ _
@[simp] theorem State.setCmd_col (s : State) (p q : Nat) (c : Cmd) : (s.setCmd p q c).col = s.col := State.setQueue_col _ _ _ _
@[simp] theorem State.setCmd_rcv (s : State) (p q : Nat) (c : Cmd) : (s.setCmd p q c).rcv = s.rcv := State.setQueue_rcv _ _ _ _
@[simp] theorem State.setCmd_tier (s : State) (p q : Nat) (c : Cmd) : (s.setCmd p q c).tier = s.tier := State.setQueue_tier _ _ _ _
@[simp] theorem State.setCmd_ing (s : State) (p q : Nat) (c : Cmd) : (s.setCmd p q c).ing = s.ing := State.setQueue_ing _ _ _ _
@[simp] theorem State.setCmd_pins (s : State) (p q : Nat) (c : Cmd) : (s.setCmd p q c).pins = s.pins := State.setQueue_pins _ _ _ _
@[simp] theorem State.setCmd_usec (s : State) (p q : Nat) (c : Cmd) : (s.setCmd p q c).usec = s.usec := State.setQueue_usec _ _ _ _
@[simp] theorem State.setCmd_out (s : State) (p q : Nat) (c : Cmd) : (s.setCmd p q c).out = s.out := State.setQueue_out _ _ _ _
@[simp] theorem State.setCmd_freeCtr (s : State) (p q : Nat) (c : Cmd) : (s.setCmd p q c).freeCtr = s.freeCtr := State.setQueue_freeCtr _ _ _ _
@[simp] theorem State.setCmd_pending (s : State) (p q : Nat) (c : Cmd) : (s.setCmd p q c).pending = s.pending := State.setQueue_pending _ _ _ _
@[simp] theorem State.setCmd_rd (s : State) (p q : Nat) (c : Cmd) (rr : RegName) (jj ww : Nat) : (s.setCmd p q c).rd rr jj ww = s.rd rr jj ww := by simp only [State.rd, State.setCmd_rf]

@[simp] theorem State.setArr_rf (s : State) (x : ArrSt) : (s.setArr x).rf = s.rf := by cases s; rfl
@[simp] theorem State.setArr_mem (s : State) (x : ArrSt) : (s.setArr x).mem = s.mem := by cases s; rfl
@[simp] theorem State.setArr_queues (s : State) (x : ArrSt) : (s.setArr x).queues = s.queues := by cases s; rfl
@[simp] theorem State.setArr_ports (s : State) (x : ArrSt) : (s.setArr x).ports = s.ports := by cases s; rfl
@[simp] theorem State.setArr_hbm (s : State) (x : ArrSt) : (s.setArr x).hbm = s.hbm := by cases s; rfl
@[simp] theorem State.setArr_pwr (s : State) (x : ArrSt) : (s.setArr x).pwr = s.pwr := by cases s; rfl
@[simp] theorem State.setArr_boot (s : State) (x : ArrSt) : (s.setArr x).boot = s.boot := by cases s; rfl
@[simp] theorem State.setArr_flash (s : State) (x : ArrSt) : (s.setArr x).flash = s.flash := by cases s; rfl
@[simp] theorem State.setArr_vec (s : State) (x : ArrSt) : (s.setArr x).vec = s.vec := by cases s; rfl
@[simp] theorem State.setArr_evr (s : State) (x : ArrSt) : (s.setArr x).evr = s.evr := by cases s; rfl
@[simp] theorem State.setArr_chk (s : State) (x : ArrSt) : (s.setArr x).chk = s.chk := by cases s; rfl
@[simp] theorem State.setArr_eut (s : State) (x : ArrSt) : (s.setArr x).eut = s.eut := by cases s; rfl
@[simp] theorem State.setArr_col (s : State) (x : ArrSt) : (s.setArr x).col = s.col := by cases s; rfl
@[simp] theorem State.setArr_rcv (s : State) (x : ArrSt) : (s.setArr x).rcv = s.rcv := by cases s; rfl
@[simp] theorem State.setArr_tier (s : State) (x : ArrSt) : (s.setArr x).tier = s.tier := by cases s; rfl
@[simp] theorem State.setArr_ing (s : State) (x : ArrSt) : (s.setArr x).ing = s.ing := by cases s; rfl
@[simp] theorem State.setArr_pins (s : State) (x : ArrSt) : (s.setArr x).pins = s.pins := by cases s; rfl
@[simp] theorem State.setArr_usec (s : State) (x : ArrSt) : (s.setArr x).usec = s.usec := by cases s; rfl
@[simp] theorem State.setArr_out (s : State) (x : ArrSt) : (s.setArr x).out = s.out := by cases s; rfl
@[simp] theorem State.setArr_freeCtr (s : State) (x : ArrSt) : (s.setArr x).freeCtr = s.freeCtr := by cases s; rfl
@[simp] theorem State.setArr_pending (s : State) (x : ArrSt) : (s.setArr x).pending = s.pending := by cases s; rfl
@[simp] theorem State.setArr_rd (s : State) (x : ArrSt) (rr : RegName) (jj ww : Nat) : (s.setArr x).rd rr jj ww = s.rd rr jj ww := by simp only [State.rd, State.setArr_rf]

@[simp] theorem State.setEng_rf (s : State) (e : Quad) (x : VecSt) : (s.setEng e x).rf = s.rf := by cases s; rfl
@[simp] theorem State.setEng_mem (s : State) (e : Quad) (x : VecSt) : (s.setEng e x).mem = s.mem := by cases s; rfl
@[simp] theorem State.setEng_queues (s : State) (e : Quad) (x : VecSt) : (s.setEng e x).queues = s.queues := by cases s; rfl
@[simp] theorem State.setEng_ports (s : State) (e : Quad) (x : VecSt) : (s.setEng e x).ports = s.ports := by cases s; rfl
@[simp] theorem State.setEng_hbm (s : State) (e : Quad) (x : VecSt) : (s.setEng e x).hbm = s.hbm := by cases s; rfl
@[simp] theorem State.setEng_pwr (s : State) (e : Quad) (x : VecSt) : (s.setEng e x).pwr = s.pwr := by cases s; rfl
@[simp] theorem State.setEng_boot (s : State) (e : Quad) (x : VecSt) : (s.setEng e x).boot = s.boot := by cases s; rfl
@[simp] theorem State.setEng_flash (s : State) (e : Quad) (x : VecSt) : (s.setEng e x).flash = s.flash := by cases s; rfl
@[simp] theorem State.setEng_arr (s : State) (e : Quad) (x : VecSt) : (s.setEng e x).arr = s.arr := by cases s; rfl
@[simp] theorem State.setEng_evr (s : State) (e : Quad) (x : VecSt) : (s.setEng e x).evr = s.evr := by cases s; rfl
@[simp] theorem State.setEng_chk (s : State) (e : Quad) (x : VecSt) : (s.setEng e x).chk = s.chk := by cases s; rfl
@[simp] theorem State.setEng_eut (s : State) (e : Quad) (x : VecSt) : (s.setEng e x).eut = s.eut := by cases s; rfl
@[simp] theorem State.setEng_col (s : State) (e : Quad) (x : VecSt) : (s.setEng e x).col = s.col := by cases s; rfl
@[simp] theorem State.setEng_rcv (s : State) (e : Quad) (x : VecSt) : (s.setEng e x).rcv = s.rcv := by cases s; rfl
@[simp] theorem State.setEng_tier (s : State) (e : Quad) (x : VecSt) : (s.setEng e x).tier = s.tier := by cases s; rfl
@[simp] theorem State.setEng_ing (s : State) (e : Quad) (x : VecSt) : (s.setEng e x).ing = s.ing := by cases s; rfl
@[simp] theorem State.setEng_pins (s : State) (e : Quad) (x : VecSt) : (s.setEng e x).pins = s.pins := by cases s; rfl
@[simp] theorem State.setEng_usec (s : State) (e : Quad) (x : VecSt) : (s.setEng e x).usec = s.usec := by cases s; rfl
@[simp] theorem State.setEng_out (s : State) (e : Quad) (x : VecSt) : (s.setEng e x).out = s.out := by cases s; rfl
@[simp] theorem State.setEng_freeCtr (s : State) (e : Quad) (x : VecSt) : (s.setEng e x).freeCtr = s.freeCtr := by cases s; rfl
@[simp] theorem State.setEng_pending (s : State) (e : Quad) (x : VecSt) : (s.setEng e x).pending = s.pending := by cases s; rfl
@[simp] theorem State.setEng_rd (s : State) (e : Quad) (x : VecSt) (rr : RegName) (jj ww : Nat) : (s.setEng e x).rd rr jj ww = s.rd rr jj ww := by simp only [State.rd, State.setEng_rf]

@[simp] theorem State.setChk_rf (s : State) (u : Fin 4) (x : ChkSt) : (s.setChk u x).rf = s.rf := by cases s; rfl
@[simp] theorem State.setChk_mem (s : State) (u : Fin 4) (x : ChkSt) : (s.setChk u x).mem = s.mem := by cases s; rfl
@[simp] theorem State.setChk_queues (s : State) (u : Fin 4) (x : ChkSt) : (s.setChk u x).queues = s.queues := by cases s; rfl
@[simp] theorem State.setChk_ports (s : State) (u : Fin 4) (x : ChkSt) : (s.setChk u x).ports = s.ports := by cases s; rfl
@[simp] theorem State.setChk_hbm (s : State) (u : Fin 4) (x : ChkSt) : (s.setChk u x).hbm = s.hbm := by cases s; rfl
@[simp] theorem State.setChk_pwr (s : State) (u : Fin 4) (x : ChkSt) : (s.setChk u x).pwr = s.pwr := by cases s; rfl
@[simp] theorem State.setChk_boot (s : State) (u : Fin 4) (x : ChkSt) : (s.setChk u x).boot = s.boot := by cases s; rfl
@[simp] theorem State.setChk_flash (s : State) (u : Fin 4) (x : ChkSt) : (s.setChk u x).flash = s.flash := by cases s; rfl
@[simp] theorem State.setChk_arr (s : State) (u : Fin 4) (x : ChkSt) : (s.setChk u x).arr = s.arr := by cases s; rfl
@[simp] theorem State.setChk_vec (s : State) (u : Fin 4) (x : ChkSt) : (s.setChk u x).vec = s.vec := by cases s; rfl
@[simp] theorem State.setChk_evr (s : State) (u : Fin 4) (x : ChkSt) : (s.setChk u x).evr = s.evr := by cases s; rfl
@[simp] theorem State.setChk_eut (s : State) (u : Fin 4) (x : ChkSt) : (s.setChk u x).eut = s.eut := by cases s; rfl
@[simp] theorem State.setChk_col (s : State) (u : Fin 4) (x : ChkSt) : (s.setChk u x).col = s.col := by cases s; rfl
@[simp] theorem State.setChk_rcv (s : State) (u : Fin 4) (x : ChkSt) : (s.setChk u x).rcv = s.rcv := by cases s; rfl
@[simp] theorem State.setChk_tier (s : State) (u : Fin 4) (x : ChkSt) : (s.setChk u x).tier = s.tier := by cases s; rfl
@[simp] theorem State.setChk_ing (s : State) (u : Fin 4) (x : ChkSt) : (s.setChk u x).ing = s.ing := by cases s; rfl
@[simp] theorem State.setChk_pins (s : State) (u : Fin 4) (x : ChkSt) : (s.setChk u x).pins = s.pins := by cases s; rfl
@[simp] theorem State.setChk_usec (s : State) (u : Fin 4) (x : ChkSt) : (s.setChk u x).usec = s.usec := by cases s; rfl
@[simp] theorem State.setChk_out (s : State) (u : Fin 4) (x : ChkSt) : (s.setChk u x).out = s.out := by cases s; rfl
@[simp] theorem State.setChk_freeCtr (s : State) (u : Fin 4) (x : ChkSt) : (s.setChk u x).freeCtr = s.freeCtr := by cases s; rfl
@[simp] theorem State.setChk_pending (s : State) (u : Fin 4) (x : ChkSt) : (s.setChk u x).pending = s.pending := by cases s; rfl
@[simp] theorem State.setChk_rd (s : State) (u : Fin 4) (x : ChkSt) (rr : RegName) (jj ww : Nat) : (s.setChk u x).rd rr jj ww = s.rd rr jj ww := by simp only [State.rd, State.setChk_rf]

@[simp] theorem State.modRcv_rf (s : State) (p : Part) (f : RcvSt → RcvSt) : (s.modRcv p f).rf = s.rf := by cases s; rfl
@[simp] theorem State.modRcv_mem (s : State) (p : Part) (f : RcvSt → RcvSt) : (s.modRcv p f).mem = s.mem := by cases s; rfl
@[simp] theorem State.modRcv_queues (s : State) (p : Part) (f : RcvSt → RcvSt) : (s.modRcv p f).queues = s.queues := by cases s; rfl
@[simp] theorem State.modRcv_ports (s : State) (p : Part) (f : RcvSt → RcvSt) : (s.modRcv p f).ports = s.ports := by cases s; rfl
@[simp] theorem State.modRcv_hbm (s : State) (p : Part) (f : RcvSt → RcvSt) : (s.modRcv p f).hbm = s.hbm := by cases s; rfl
@[simp] theorem State.modRcv_pwr (s : State) (p : Part) (f : RcvSt → RcvSt) : (s.modRcv p f).pwr = s.pwr := by cases s; rfl
@[simp] theorem State.modRcv_boot (s : State) (p : Part) (f : RcvSt → RcvSt) : (s.modRcv p f).boot = s.boot := by cases s; rfl
@[simp] theorem State.modRcv_flash (s : State) (p : Part) (f : RcvSt → RcvSt) : (s.modRcv p f).flash = s.flash := by cases s; rfl
@[simp] theorem State.modRcv_arr (s : State) (p : Part) (f : RcvSt → RcvSt) : (s.modRcv p f).arr = s.arr := by cases s; rfl
@[simp] theorem State.modRcv_vec (s : State) (p : Part) (f : RcvSt → RcvSt) : (s.modRcv p f).vec = s.vec := by cases s; rfl
@[simp] theorem State.modRcv_evr (s : State) (p : Part) (f : RcvSt → RcvSt) : (s.modRcv p f).evr = s.evr := by cases s; rfl
@[simp] theorem State.modRcv_chk (s : State) (p : Part) (f : RcvSt → RcvSt) : (s.modRcv p f).chk = s.chk := by cases s; rfl
@[simp] theorem State.modRcv_eut (s : State) (p : Part) (f : RcvSt → RcvSt) : (s.modRcv p f).eut = s.eut := by cases s; rfl
@[simp] theorem State.modRcv_col (s : State) (p : Part) (f : RcvSt → RcvSt) : (s.modRcv p f).col = s.col := by cases s; rfl
@[simp] theorem State.modRcv_tier (s : State) (p : Part) (f : RcvSt → RcvSt) : (s.modRcv p f).tier = s.tier := by cases s; rfl
@[simp] theorem State.modRcv_ing (s : State) (p : Part) (f : RcvSt → RcvSt) : (s.modRcv p f).ing = s.ing := by cases s; rfl
@[simp] theorem State.modRcv_pins (s : State) (p : Part) (f : RcvSt → RcvSt) : (s.modRcv p f).pins = s.pins := by cases s; rfl
@[simp] theorem State.modRcv_usec (s : State) (p : Part) (f : RcvSt → RcvSt) : (s.modRcv p f).usec = s.usec := by cases s; rfl
@[simp] theorem State.modRcv_out (s : State) (p : Part) (f : RcvSt → RcvSt) : (s.modRcv p f).out = s.out := by cases s; rfl
@[simp] theorem State.modRcv_freeCtr (s : State) (p : Part) (f : RcvSt → RcvSt) : (s.modRcv p f).freeCtr = s.freeCtr := by cases s; rfl
@[simp] theorem State.modRcv_pending (s : State) (p : Part) (f : RcvSt → RcvSt) : (s.modRcv p f).pending = s.pending := by cases s; rfl
@[simp] theorem State.modRcv_rd (s : State) (p : Part) (f : RcvSt → RcvSt) (rr : RegName) (jj ww : Nat) : (s.modRcv p f).rd rr jj ww = s.rd rr jj ww := by simp only [State.rd, State.modRcv_rf]

@[simp] theorem State.modTier_rf (s : State) (p : Part) (f : TierSt → TierSt) : (s.modTier p f).rf = s.rf := by cases s; rfl
@[simp] theorem State.modTier_mem (s : State) (p : Part) (f : TierSt → TierSt) : (s.modTier p f).mem = s.mem := by cases s; rfl
@[simp] theorem State.modTier_queues (s : State) (p : Part) (f : TierSt → TierSt) : (s.modTier p f).queues = s.queues := by cases s; rfl
@[simp] theorem State.modTier_ports (s : State) (p : Part) (f : TierSt → TierSt) : (s.modTier p f).ports = s.ports := by cases s; rfl
@[simp] theorem State.modTier_hbm (s : State) (p : Part) (f : TierSt → TierSt) : (s.modTier p f).hbm = s.hbm := by cases s; rfl
@[simp] theorem State.modTier_pwr (s : State) (p : Part) (f : TierSt → TierSt) : (s.modTier p f).pwr = s.pwr := by cases s; rfl
@[simp] theorem State.modTier_boot (s : State) (p : Part) (f : TierSt → TierSt) : (s.modTier p f).boot = s.boot := by cases s; rfl
@[simp] theorem State.modTier_flash (s : State) (p : Part) (f : TierSt → TierSt) : (s.modTier p f).flash = s.flash := by cases s; rfl
@[simp] theorem State.modTier_arr (s : State) (p : Part) (f : TierSt → TierSt) : (s.modTier p f).arr = s.arr := by cases s; rfl
@[simp] theorem State.modTier_vec (s : State) (p : Part) (f : TierSt → TierSt) : (s.modTier p f).vec = s.vec := by cases s; rfl
@[simp] theorem State.modTier_evr (s : State) (p : Part) (f : TierSt → TierSt) : (s.modTier p f).evr = s.evr := by cases s; rfl
@[simp] theorem State.modTier_chk (s : State) (p : Part) (f : TierSt → TierSt) : (s.modTier p f).chk = s.chk := by cases s; rfl
@[simp] theorem State.modTier_eut (s : State) (p : Part) (f : TierSt → TierSt) : (s.modTier p f).eut = s.eut := by cases s; rfl
@[simp] theorem State.modTier_col (s : State) (p : Part) (f : TierSt → TierSt) : (s.modTier p f).col = s.col := by cases s; rfl
@[simp] theorem State.modTier_rcv (s : State) (p : Part) (f : TierSt → TierSt) : (s.modTier p f).rcv = s.rcv := by cases s; rfl
@[simp] theorem State.modTier_ing (s : State) (p : Part) (f : TierSt → TierSt) : (s.modTier p f).ing = s.ing := by cases s; rfl
@[simp] theorem State.modTier_pins (s : State) (p : Part) (f : TierSt → TierSt) : (s.modTier p f).pins = s.pins := by cases s; rfl
@[simp] theorem State.modTier_usec (s : State) (p : Part) (f : TierSt → TierSt) : (s.modTier p f).usec = s.usec := by cases s; rfl
@[simp] theorem State.modTier_out (s : State) (p : Part) (f : TierSt → TierSt) : (s.modTier p f).out = s.out := by cases s; rfl
@[simp] theorem State.modTier_freeCtr (s : State) (p : Part) (f : TierSt → TierSt) : (s.modTier p f).freeCtr = s.freeCtr := by cases s; rfl
@[simp] theorem State.modTier_pending (s : State) (p : Part) (f : TierSt → TierSt) : (s.modTier p f).pending = s.pending := by cases s; rfl
@[simp] theorem State.modTier_rd (s : State) (p : Part) (f : TierSt → TierSt) (rr : RegName) (jj ww : Nat) : (s.modTier p f).rd rr jj ww = s.rd rr jj ww := by simp only [State.rd, State.modTier_rf]

@[simp] theorem State.setBuf_rf (s : State) (b : Nat) (x : BufSt) : (s.setBuf b x).rf = s.rf := by cases s; rfl
@[simp] theorem State.setBuf_mem (s : State) (b : Nat) (x : BufSt) : (s.setBuf b x).mem = s.mem := by cases s; rfl
@[simp] theorem State.setBuf_queues (s : State) (b : Nat) (x : BufSt) : (s.setBuf b x).queues = s.queues := by cases s; rfl
@[simp] theorem State.setBuf_ports (s : State) (b : Nat) (x : BufSt) : (s.setBuf b x).ports = s.ports := by cases s; rfl
@[simp] theorem State.setBuf_hbm (s : State) (b : Nat) (x : BufSt) : (s.setBuf b x).hbm = s.hbm := by cases s; rfl
@[simp] theorem State.setBuf_pwr (s : State) (b : Nat) (x : BufSt) : (s.setBuf b x).pwr = s.pwr := by cases s; rfl
@[simp] theorem State.setBuf_boot (s : State) (b : Nat) (x : BufSt) : (s.setBuf b x).boot = s.boot := by cases s; rfl
@[simp] theorem State.setBuf_flash (s : State) (b : Nat) (x : BufSt) : (s.setBuf b x).flash = s.flash := by cases s; rfl
@[simp] theorem State.setBuf_arr (s : State) (b : Nat) (x : BufSt) : (s.setBuf b x).arr = s.arr := by cases s; rfl
@[simp] theorem State.setBuf_vec (s : State) (b : Nat) (x : BufSt) : (s.setBuf b x).vec = s.vec := by cases s; rfl
@[simp] theorem State.setBuf_evr (s : State) (b : Nat) (x : BufSt) : (s.setBuf b x).evr = s.evr := by cases s; rfl
@[simp] theorem State.setBuf_chk (s : State) (b : Nat) (x : BufSt) : (s.setBuf b x).chk = s.chk := by cases s; rfl
@[simp] theorem State.setBuf_eut (s : State) (b : Nat) (x : BufSt) : (s.setBuf b x).eut = s.eut := by cases s; rfl
@[simp] theorem State.setBuf_col (s : State) (b : Nat) (x : BufSt) : (s.setBuf b x).col = s.col := by cases s; rfl
@[simp] theorem State.setBuf_rcv (s : State) (b : Nat) (x : BufSt) : (s.setBuf b x).rcv = s.rcv := by cases s; rfl
@[simp] theorem State.setBuf_tier (s : State) (b : Nat) (x : BufSt) : (s.setBuf b x).tier = s.tier := by cases s; rfl
@[simp] theorem State.setBuf_pins (s : State) (b : Nat) (x : BufSt) : (s.setBuf b x).pins = s.pins := by cases s; rfl
@[simp] theorem State.setBuf_usec (s : State) (b : Nat) (x : BufSt) : (s.setBuf b x).usec = s.usec := by cases s; rfl
@[simp] theorem State.setBuf_out (s : State) (b : Nat) (x : BufSt) : (s.setBuf b x).out = s.out := by cases s; rfl
@[simp] theorem State.setBuf_freeCtr (s : State) (b : Nat) (x : BufSt) : (s.setBuf b x).freeCtr = s.freeCtr := by cases s; rfl
@[simp] theorem State.setBuf_pending (s : State) (b : Nat) (x : BufSt) : (s.setBuf b x).pending = s.pending := by cases s; rfl
@[simp] theorem State.setBuf_rd (s : State) (b : Nat) (x : BufSt) (rr : RegName) (jj ww : Nat) : (s.setBuf b x).rd rr jj ww = s.rd rr jj ww := by simp only [State.rd, State.setBuf_rf]

@[simp] theorem State.setPos_rf (s : State) (k r : Nat) (x : PoolPos) : (s.setPos k r x).rf = s.rf := by cases s; rfl
@[simp] theorem State.setPos_mem (s : State) (k r : Nat) (x : PoolPos) : (s.setPos k r x).mem = s.mem := by cases s; rfl
@[simp] theorem State.setPos_queues (s : State) (k r : Nat) (x : PoolPos) : (s.setPos k r x).queues = s.queues := by cases s; rfl
@[simp] theorem State.setPos_ports (s : State) (k r : Nat) (x : PoolPos) : (s.setPos k r x).ports = s.ports := by cases s; rfl
@[simp] theorem State.setPos_hbm (s : State) (k r : Nat) (x : PoolPos) : (s.setPos k r x).hbm = s.hbm := by cases s; rfl
@[simp] theorem State.setPos_pwr (s : State) (k r : Nat) (x : PoolPos) : (s.setPos k r x).pwr = s.pwr := by cases s; rfl
@[simp] theorem State.setPos_boot (s : State) (k r : Nat) (x : PoolPos) : (s.setPos k r x).boot = s.boot := by cases s; rfl
@[simp] theorem State.setPos_flash (s : State) (k r : Nat) (x : PoolPos) : (s.setPos k r x).flash = s.flash := by cases s; rfl
@[simp] theorem State.setPos_arr (s : State) (k r : Nat) (x : PoolPos) : (s.setPos k r x).arr = s.arr := by cases s; rfl
@[simp] theorem State.setPos_vec (s : State) (k r : Nat) (x : PoolPos) : (s.setPos k r x).vec = s.vec := by cases s; rfl
@[simp] theorem State.setPos_evr (s : State) (k r : Nat) (x : PoolPos) : (s.setPos k r x).evr = s.evr := by cases s; rfl
@[simp] theorem State.setPos_chk (s : State) (k r : Nat) (x : PoolPos) : (s.setPos k r x).chk = s.chk := by cases s; rfl
@[simp] theorem State.setPos_eut (s : State) (k r : Nat) (x : PoolPos) : (s.setPos k r x).eut = s.eut := by cases s; rfl
@[simp] theorem State.setPos_col (s : State) (k r : Nat) (x : PoolPos) : (s.setPos k r x).col = s.col := by cases s; rfl
@[simp] theorem State.setPos_rcv (s : State) (k r : Nat) (x : PoolPos) : (s.setPos k r x).rcv = s.rcv := by cases s; rfl
@[simp] theorem State.setPos_tier (s : State) (k r : Nat) (x : PoolPos) : (s.setPos k r x).tier = s.tier := by cases s; rfl
@[simp] theorem State.setPos_pins (s : State) (k r : Nat) (x : PoolPos) : (s.setPos k r x).pins = s.pins := by cases s; rfl
@[simp] theorem State.setPos_usec (s : State) (k r : Nat) (x : PoolPos) : (s.setPos k r x).usec = s.usec := by cases s; rfl
@[simp] theorem State.setPos_out (s : State) (k r : Nat) (x : PoolPos) : (s.setPos k r x).out = s.out := by cases s; rfl
@[simp] theorem State.setPos_freeCtr (s : State) (k r : Nat) (x : PoolPos) : (s.setPos k r x).freeCtr = s.freeCtr := by cases s; rfl
@[simp] theorem State.setPos_pending (s : State) (k r : Nat) (x : PoolPos) : (s.setPos k r x).pending = s.pending := by cases s; rfl
@[simp] theorem State.setPos_rd (s : State) (k r : Nat) (x : PoolPos) (rr : RegName) (jj ww : Nat) : (s.setPos k r x).rd rr jj ww = s.rd rr jj ww := by simp only [State.rd, State.setPos_rf]

@[simp] theorem State.setPort_port (s : State) (p : PortId) (x : PortSt) : vget (s.setPort p x).ports p = x := vget_vset_same _ _ _
@[simp] theorem State.modPort_port (s : State) (p : PortId) (f : PortSt → PortSt) : vget (s.modPort p f).ports p = f (vget s.ports p) :=
  vget_vset_same _ _ _
@[simp] theorem State.emit_out (s : State) (o : Output) : (s.emit o).out = s.out ++ [o] := rfl
@[simp] theorem State.setStack_stack (s : State) (n : Quad) (x : StackSt) : vget (s.setStack n x).hbm n = x := vget_vset_same _ _ _
@[simp] theorem State.setEng_eng (s : State) (e : Quad) (x : VecSt) : vget (s.setEng e x).vec e = x := vget_vset_same _ _ _
@[simp] theorem State.setChk_chk (s : State) (u : Fin 4) (x : ChkSt) : vget (s.setChk u x).chk u = x := vget_vset_same _ _ _
@[simp] theorem State.modRcv_rcv_same (s : State) (p : Part) (f : RcvSt → RcvSt) : vget (s.modRcv p f).rcv p = f (vget s.rcv p) :=
  vget_vset_same _ _ _
@[simp] theorem State.modTier_tier_same (s : State) (p : Part) (f : TierSt → TierSt) : vget (s.modTier p f).tier p = f (vget s.tier p) :=
  vget_vset_same _ _ _
@[simp] theorem State.setArr_arr (s : State) (x : ArrSt) : (s.setArr x).arr = x := rfl

/-- A byte of T0 or T1 reads as it was last written. -/
theorem State.cell_putByte_same (s : State) {a : Nat} (b : Byte) (h : isT2 a = false) : (s.putByte a b).cell a = b := by
  simp [State.cell, State.putByte, h]

/-- A write of one byte leaves every other byte alone. -/
theorem State.cell_putByte_ne (s : State) {a x : Nat} (b : Byte) (h : x ≠ a) : (s.putByte a b).cell x = s.cell x := by
  unfold State.cell State.putByte
  split
  · rfl
  · exact Sparse.get_set_ne _ _ _ _ h

@[simp] theorem State.queue_setQueue_same (s : State) (p q : Nat) (x : QueueSt) : (s.setQueue p q x).queue p q = x :=
  Sparse.get_set_same _ _ _ _

theorem State.queue_setQueue_ne (s : State) {p q p' q' : Nat} (x : QueueSt) (h : p' * 64 + q' ≠ p * 64 + q) :
    (s.setQueue p q x).queue p' q' = s.queue p' q' := Sparse.get_set_ne _ _ _ _ h

/-- A field reads as it was set, modulo its width. -/
theorem State.fget_fset_same (s : State) (f : Fld) (v i a : Nat) (h : f.lo ≤ f.hi) (k : f.hi < 32) :
    (s.fset f v i a).fget f i a = v % 2 ^ (f.hi + 1 - f.lo) := by
  unfold State.fget State.fset
  rw [State.rd_wr_same, wGet_wSet_same _ _ h k]

/-- Setting a field leaves the other fields of its register alone. -/
theorem State.fget_fset_ne (s : State) {f g : Fld} (v i a : Nat) (e : g.reg = f.reg) (h : f.lo ≤ f.hi) (k : f.hi < 32)
    (hg : g.lo ≤ g.hi) (d : g.hi < f.lo ∨ f.hi < g.lo) : (s.fset f v i a).fget g i a = s.fget g i a := by
  unfold State.fget State.fset
  rw [e, State.rd_wr_same, wGet_wSet_ne _ _ h k hg d]

/-- A hardware set of one status bit sets it (R46). -/
theorem State.sqSet_bit (s : State) (f : Fld) (i a : Nat) (h : f.hi = f.lo) (k : f.hi < 24) :
    (s.sqSet f.reg i a [f] []).fget f i a = 1 := by
  unfold State.sqSet State.fget sqWord
  rw [State.rd_wr_same]
  simp only [List.foldl_cons, List.foldl_nil]
  rw [wGet_wSet_ne _ _ (by omega) (by omega) (by omega) (.inl k), sqOr, wGet_wSet_same _ _ (by omega) (by omega)]
  have : f.hi + 1 - f.lo = 1 := by omega
  simp [this]

/-- A hardware set of one status bit with its counter: the bit is set (R46). -/
theorem State.sqSet_bit_cnt (s : State) (f c : Fld) (i a : Nat) (h : f.hi = f.lo) (k : f.hi < 24) (hc : c.lo ≤ c.hi) (kc : c.hi < 24)
    (d : f.hi < c.lo ∨ c.hi < f.lo) : (s.sqSet f.reg i a [f] [c]).fget f i a = 1 := by
  unfold State.sqSet State.fget sqWord
  rw [State.rd_wr_same]
  simp only [List.foldl_cons, List.foldl_nil]
  rw [wGet_wSet_ne _ _ (by omega) (by omega) (by omega) (.inl k), sqCount, wGet_wSet_ne _ _ hc (by omega) (by omega) d, sqOr,
    wGet_wSet_same _ _ (by omega) (by omega)]
  have : f.hi + 1 - f.lo = 1 := by omega
  simp [this]

/-- A field read after a field write of another register. -/
theorem State.fget_fset_reg (s : State) {f g : Fld} (v i a j b : Nat) (h : g.reg ≠ f.reg) : (s.fset f v i a).fget g j b = s.fget g j b := by
  simp [State.fget, State.fset, State.rd_wr_reg s _ _ _ _ _ h]

theorem State.fget_wr_reg (s : State) {r : RegName} {g : Fld} (v : Word) (i a j b : Nat) (h : g.reg ≠ r) :
    (s.wr r i a v).fget g j b = s.fget g j b := by simp [State.fget, State.rd_wr_reg s _ _ _ _ _ h]

end Sys2Proof.Machine
end

