-- ==== Sys2Proof/Laws/Events.lean ====
section
/-! SUPPORT. What recording an event can do, said once through `Quiet` and `Recorded` of Machine/Frames. Every law about an event
goes through them. -/

namespace Sys2Proof.Machine

theorem Quiet.refl (s : State) : Quiet s s := ⟨rfl, rfl, rfl, rfl, rfl, rfl, rfl, rfl, rfl, rfl, rfl, rfl, rfl, rfl, rfl, fun _ _ _ _ => rfl⟩

theorem Quiet.trans {s t u : State} (h : Quiet s t) (k : Quiet t u) : Quiet s u :=
  ⟨k.mem.trans h.mem, k.queues.trans h.queues, k.hbm.trans h.hbm, k.pwr.trans h.pwr, k.boot.trans h.boot, k.flash.trans h.flash,
   k.arr.trans h.arr, k.vec.trans h.vec, k.chk.trans h.chk, k.eut.trans h.eut, k.col.trans h.col, k.rcv.trans h.rcv,
   k.tier.trans h.tier, k.ing.trans h.ing, k.pending.trans h.pending, fun r i a n => (k.rd r i a n).trans (h.rd r i a n)⟩

/-- A field of a register that events leave alone. -/
theorem Quiet.fget {s t : State} (h : Quiet s t) (f : Fld) (i a : Nat) (n : loud f.reg = false) : t.fget f i a = s.fget f i a := by
  simp [State.fget, h.rd _ _ _ n]

theorem Quiet.rd64 {s t : State} (h : Quiet s t) (l k : RegName) (i a : Nat) (n : loud l = false) (m : loud k = false) :
    t.rd64 l k i a = s.rd64 l k i a := by simp [State.rd64, h.rd _ _ _ n, h.rd _ _ _ m]

theorem Quiet.cell {s t : State} (h : Quiet s t) (a : Nat) : t.cell a = s.cell a := by simp [State.cell, h.mem]

/-- Writing a register that events may change is quiet. -/
theorem Quiet.wr (s : State) (r : RegName) (i a : Nat) (v : Word) (n : loud r = true) : Quiet s (s.wr r i a v) := by
  refine ⟨by simp, by simp, by simp, by simp, by simp, by simp, by simp, by simp, by simp, by simp, by simp, by simp, by simp, by simp,
    by simp, fun q j b m => s.rd_wr_reg _ _ _ _ _ ?_⟩
  rintro rfl
  simp [n] at m

theorem Quiet.fset (s : State) (f : Fld) (v i a : Nat) (n : loud f.reg = true) : Quiet s (s.fset f v i a) := Quiet.wr _ _ _ _ _ n
theorem Quiet.sqSet (s : State) (r : RegName) (i a : Nat) (b c : List Fld) (n : loud r = true) : Quiet s (s.sqSet r i a b c) :=
  Quiet.wr _ _ _ _ _ n
theorem Quiet.wr64 (s : State) (l h : RegName) (v i a : Nat) (n : loud l = true) (m : loud h = true) : Quiet s (s.wr64 l h v i a) :=
  (Quiet.wr _ _ _ _ _ n).trans (Quiet.wr _ _ _ _ _ m)

theorem Quiet.modPort (s : State) (p : PortId) (f : PortSt → PortSt) : Quiet s (s.modPort p f) :=
  ⟨by simp, by simp, by simp, by simp, by simp, by simp, by simp, by simp, by simp, by simp, by simp, by simp, by simp, by simp,
   by simp, fun _ _ _ _ => by simp⟩
theorem Quiet.emit (s : State) (o : Output) : Quiet s (s.emit o) :=
  ⟨by simp, by simp, by simp, by simp, by simp, by simp, by simp, by simp, by simp, by simp, by simp, by simp, by simp, by simp,
   by simp, fun _ _ _ _ => by simp⟩
theorem Quiet.draw (s : State) (w : Nat) : Quiet s (s.draw w).2 :=
  ⟨by simp, by simp, by simp, by simp, by simp, by simp, by simp, by simp, by simp, by simp, by simp, by simp, by simp, by simp,
   by simp, fun _ _ _ _ => by simp⟩

/-- A fold of quiet steps is quiet. -/
theorem Quiet.foldl {β : Type} {f : State → β → State} (h : ∀ s x, Quiet s (f s x)) (l : List β) (s : State) :
    Quiet s (l.foldl f s) := by
  induction l generalizing s with
  | nil => exact Quiet.refl s
  | cons x t ih => exact (h s x).trans (ih _)

/-! ## Sending -/

theorem Quiet.putFlit (s : State) (p : PortId) (k : Nat) (x y : Bool) (v n : Nat) (b : List Byte) : Quiet s (s.putFlit p k x y v n b) :=
  (Quiet.modPort _ _ _).trans (Quiet.emit _ _)
theorem Quiet.putCtrl (s : State) (p : PortId) (b : List Byte) : Quiet s (s.putCtrl p b) := Quiet.putFlit _ _ _ _ _ _ _ _

theorem Quiet.pumpOne (s : State) (p : PortId) : Quiet s (s.pumpOne p) := by
  unfold State.pumpOne
  dsimp only
  split
  · split
    · exact Quiet.refl s
    · split
      · exact Quiet.refl s
      · exact ((Quiet.fset _ _ _ _ _ rfl).trans (Quiet.putFlit _ _ _ _ _ _ _ _)).trans (Quiet.modPort _ _ _)
  · exact Quiet.refl s

theorem Quiet.pump (s : State) (p : PortId) : Quiet s (s.pump p) := Quiet.foldl (fun s _ => Quiet.pumpOne s p) _ _

theorem Quiet.sendMsg (s : State) (p : PortId) (v : Nat) (b : List Byte) : Quiet s (s.sendMsg p v b) := by
  unfold State.sendMsg
  split
  · exact (Quiet.modPort _ _ _).trans (Quiet.pump _ _)
  · exact Quiet.refl s

theorem Quiet.forwardFlits (s : State) (p : PortId) (v : Nat) (b : List (List Byte)) : Quiet s (s.forwardFlits p v b) :=
  (Quiet.modPort _ _ _).trans (Quiet.pump _ _)

/-! ## Recording -/

theorem Quiet.evr (s : State) (x : EvrSt) : Quiet s { s with evr := x } :=
  ⟨rfl, rfl, rfl, rfl, rfl, rfl, rfl, rfl, rfl, rfl, rfl, rfl, rfl, rfl, rfl, fun _ _ _ _ => rfl⟩
theorem Quiet.usec (s : State) (n : Nat) : Quiet s { s with usec := n } :=
  ⟨rfl, rfl, rfl, rfl, rfl, rfl, rfl, rfl, rfl, rfl, rfl, rfl, rfl, rfl, rfl, fun _ _ _ _ => rfl⟩
theorem Quiet.pins (s : State) (x : PinSt) : Quiet s { s with pins := x } :=
  ⟨rfl, rfl, rfl, rfl, rfl, rfl, rfl, rfl, rfl, rfl, rfl, rfl, rfl, rfl, rfl, fun _ _ _ _ => rfl⟩

theorem Quiet.storeRec (s : State) (e : Ev) : Quiet s (s.storeRec e) := by
  unfold State.storeRec
  dsimp only
  split
  · exact (Quiet.evr _ _).trans (Quiet.wr64 _ _ _ _ _ _ rfl rfl)
  · exact (Quiet.evr _ _).trans (Quiet.sqSet _ _ _ _ _ _ rfl)

theorem Quiet.setFault (s : State) (b : Bool) : Quiet s (s.setFault b) := (Quiet.pins _ _).trans (Quiet.emit _ _)

theorem Quiet.stamp (s : State) : Quiet s s.stamp := (Quiet.draw s 16).trans (Quiet.usec _ _)

theorem Quiet.eventCore (s : State) (e : Ev) : Quiet s (s.eventCore e) := by
  unfold State.eventCore
  dsimp only
  have h : Quiet s (s.storeRec e) := Quiet.storeRec _ _
  have h2 : ∀ t, Quiet s t → Quiet s (if 2 ≤ e.sev then t.emit (.ibi (BitVec.ofNat 8 (e.code / 256))) else t) := by
    intro t ht
    split
    · exact ht.trans (Quiet.emit _ _)
    · exact ht
  split
  · exact (h2 _ h).trans (Quiet.setFault _ _)
  · exact h2 _ h

theorem Quiet.noteRaw (s : State) (p k : Nat) (b : List Byte) : Quiet s (s.noteRaw p k b).1 := by
  unfold State.noteRaw
  dsimp only
  split
  · split
    · exact ((Quiet.wr _ _ _ _ _ rfl).trans (Quiet.sendMsg _ _ _ _)).trans (Quiet.emit _ _)
    · exact (Quiet.wr _ _ _ _ _ rfl).trans (Quiet.sqSet _ _ _ _ _ _ rfl)
  · exact (Quiet.wr _ _ _ _ _ rfl).trans (Quiet.sqSet _ _ _ _ _ _ rfl)

theorem Quiet.note (s : State) (p k : Nat) (b : List Byte) : Quiet s (s.note p k b) := by
  unfold State.note
  dsimp only
  have h := Quiet.noteRaw s p k b
  split
  · rename_i t he; rw [he] at h; exact h
  · rename_i t he
    rw [he] at h
    have k := h.trans (Quiet.stamp t)
    split
    · exact (k.trans (Quiet.eventCore _ _)).trans (Quiet.noteRaw _ _ _ _)
    · exact k.trans (Quiet.eventCore _ _)

theorem Quiet.eventNoFail (s : State) (e : Ev) : Quiet s (s.eventNoFail e) := by
  unfold State.eventNoFail
  dsimp only
  have h := (Quiet.stamp s).trans (Quiet.eventCore s.stamp e)
  split
  · exact h.trans (Quiet.note _ _ _ _)
  · exact h

/-- What recording an event that is not FATAL can do: nothing outside the recorder, the notes, the pins and the ports. -/
theorem Quiet.event (s : State) (e : Ev) (h : e.sev ≠ 3) : Quiet s (s.event e) := by
  unfold State.event State.eventFail
  simp only [h, if_false]
  exact Quiet.eventNoFail _ _

/-! ## A FATAL event -/

theorem Quiet.fail {s t : State} (h : Quiet s t) : QuietFail s t :=
  ⟨h.mem, h.queues, h.hbm, h.pwr, h.boot, h.flash, h.arr, h.vec, h.chk, by rw [h.eut], h.col, h.rcv, fun p => by rw [h.tier], h.ing,
   h.pending, fun r i a n _ _ => h.rd r i a n⟩

theorem QuietFail.refl (s : State) : QuietFail s s := (Quiet.refl s).fail

theorem QuietFail.trans {s t u : State} (h : QuietFail s t) (k : QuietFail t u) : QuietFail s u :=
  ⟨k.mem.trans h.mem, k.queues.trans h.queues, k.hbm.trans h.hbm, k.pwr.trans h.pwr, k.boot.trans h.boot, k.flash.trans h.flash,
   k.arr.trans h.arr, k.vec.trans h.vec, k.chk.trans h.chk, by rw [k.eut, h.eut], k.col.trans h.col, k.rcv.trans h.rcv,
   fun p => by rw [k.tier p, h.tier p], k.ing.trans h.ing, k.pending.trans h.pending,
   fun r i a n m l => (k.rd r i a n m l).trans (h.rd r i a n m l)⟩

theorem QuietFail.foldl {β : Type} {f : State → β → State} (h : ∀ s x, QuietFail s (f s x)) (l : List β) (s : State) :
    QuietFail s (l.foldl f s) := by
  induction l generalizing s with
  | nil => exact QuietFail.refl s
  | cons x t ih => exact (h s x).trans (ih _)

/-- Writing a register that FAIL may change. -/
theorem QuietFail.wr (s : State) (r : RegName) (i a : Nat) (v : Word) (n : r = .LNK_Pp_STATE ∨ r = .EUT_Ek_ADAPTER) :
    QuietFail s (s.wr r i a v) := by
  refine ⟨by simp, by simp, by simp, by simp, by simp, by simp, by simp, by simp, by simp, by simp, by simp, by simp, by simp, by simp,
    by simp, fun q j b _ m l => s.rd_wr_reg _ _ _ _ _ ?_⟩
  rintro rfl
  exact n.elim m l

theorem QuietFail.failPort (s : State) (n : Nat) (p : PortId) : QuietFail s (s.failPort n p) := by
  unfold State.failPort
  dsimp only
  refine QuietFail.trans ?_ (Quiet.modPort _ _ _).fail
  refine QuietFail.trans ?_ (QuietFail.wr _ _ _ _ _ (Or.inl rfl))
  split
  · exact (((Quiet.putCtrl _ _ _).trans (Quiet.putCtrl _ _ _)).trans (Quiet.putCtrl _ _ _)).fail
  · exact QuietFail.refl s

theorem QuietFail.failAll (s : State) (n : Nat) : QuietFail s (s.failAll n) := QuietFail.foldl (fun s p => QuietFail.failPort s n p) _ _

theorem QuietFail.hostEnd (s : State) (k : Nat) : QuietFail s (s.hostEnd k) := by
  unfold State.hostEnd
  dsimp only
  refine QuietFail.trans ?_ (QuietFail.wr _ _ _ _ _ (Or.inr rfl))
  exact ⟨rfl, rfl, rfl, rfl, rfl, rfl, rfl, rfl, rfl, rfl, rfl, rfl, fun p => by simp [vget], rfl, rfl, fun _ _ _ _ _ _ => rfl⟩

theorem QuietFail.sendFail (s : State) (n : Nat) : QuietFail s (s.sendFail n) := by
  unfold State.sendFail
  split
  · exact QuietFail.refl s
  · dsimp only
    refine QuietFail.trans ?_ (Quiet.eventNoFail _ _).fail
    refine QuietFail.trans ?_ (QuietFail.foldl (fun s p => (Quiet.eventNoFail s _).fail) _ _)
    exact (QuietFail.failAll _ _).trans (QuietFail.foldl (fun s k => QuietFail.hostEnd s k) _ _)

theorem QuietFail.eventFail (s : State) (e : Ev) (n : Nat) : QuietFail s (s.eventFail e n) := by
  unfold State.eventFail
  dsimp only
  split
  · exact (Quiet.eventNoFail _ _).fail.trans (QuietFail.sendFail _ _)
  · exact (Quiet.eventNoFail _ _).fail

/-- What recording any event can do: a FATAL one also ends what the ports and their hosts had in flight. -/
theorem QuietFail.event (s : State) (e : Ev) : QuietFail s (s.event e) := QuietFail.eventFail _ _ _

/-! ## What is recorded -/

/-- No record leaves the buffer: it grows at its end. -/
def Grows (s t : State) : Prop := s.evr.buf <+: t.evr.buf

theorem Grows.refl (s : State) : Grows s s := List.prefix_rfl
theorem Grows.trans {s t u : State} (h : Grows s t) (k : Grows t u) : Grows s u := List.IsPrefix.trans h k
theorem Grows.of_eq {s t : State} (h : t.evr = s.evr) : Grows s t := by unfold Grows; rw [h]

@[simp] theorem State.putFlit_evr (s : State) (p : PortId) (k : Nat) (x y : Bool) (v n : Nat) (b : List Byte) :
    (s.putFlit p k x y v n b).evr = s.evr := by simp [State.putFlit]

theorem foldl_evr {β : Type} {f : State → β → State} (h : ∀ s x, (f s x).evr = s.evr) (l : List β) (s : State) :
    (l.foldl f s).evr = s.evr := by
  induction l generalizing s with
  | nil => rfl
  | cons x t ih => simp [ih, h]

@[simp] theorem State.pumpOne_evr (s : State) (p : PortId) : (s.pumpOne p).evr = s.evr := by
  unfold State.pumpOne
  dsimp only
  split
  · split
    · rfl
    · split
      · rfl
      · simp
  · rfl

@[simp] theorem State.pump_evr (s : State) (p : PortId) : (s.pump p).evr = s.evr := foldl_evr (fun s _ => State.pumpOne_evr s p) _ _

@[simp] theorem State.sendMsg_evr (s : State) (p : PortId) (v : Nat) (b : List Byte) : (s.sendMsg p v b).evr = s.evr := by
  unfold State.sendMsg
  split <;> simp

@[simp] theorem State.failPort_evr (s : State) (n : Nat) (p : PortId) : (s.failPort n p).evr = s.evr := by
  unfold State.failPort
  by_cases h : s.portActive p.val = true <;> simp [h, State.putCtrl]

@[simp] theorem State.failAll_evr (s : State) (n : Nat) : (s.failAll n).evr = s.evr := foldl_evr (fun s p => State.failPort_evr s n p) _ _

theorem Grows.failAll (s : State) (n : Nat) : Grows s (s.failAll n) := Grows.of_eq (by simp)

theorem Grows.storeRec (s : State) (e : Ev) : Grows s (s.storeRec e) := by
  unfold State.storeRec Grows
  dsimp only
  split <;> simp

@[simp] theorem State.stamp_evr (s : State) : s.stamp.evr = s.evr := by simp [State.stamp]
@[simp] theorem State.stamp_pins (s : State) : s.stamp.pins = s.pins := by simp [State.stamp]
@[simp] theorem State.stamp_rf (s : State) : s.stamp.rf = s.rf := rfl

theorem State.eventCore_evr (s : State) (e : Ev) : (s.eventCore e).evr = (s.storeRec e).evr := by
  unfold State.eventCore State.setFault
  dsimp only
  by_cases h : 2 ≤ e.sev <;> by_cases k : e.sev = 3 <;> simp [h, k]

theorem Grows.eventCore (s : State) (e : Ev) : Grows s (s.eventCore e) := by
  unfold Grows
  rw [State.eventCore_evr]
  exact Grows.storeRec s e

theorem Grows.stamp (s : State) : Grows s s.stamp := Grows.of_eq (by simp)

theorem Grows.noteRaw (s : State) (p k : Nat) (b : List Byte) : Grows s (s.noteRaw p k b).1 := by
  unfold State.noteRaw
  dsimp only
  split
  · split <;> exact Grows.of_eq (by simp)
  · exact Grows.of_eq (by simp)

theorem Grows.note (s : State) (p k : Nat) (b : List Byte) : Grows s (s.note p k b) := by
  unfold State.note
  dsimp only
  have h := Grows.noteRaw s p k b
  split
  · rename_i t he; rw [he] at h; exact h
  · rename_i t he
    rw [he] at h
    have k := h.trans (Grows.stamp t)
    split
    · exact (k.trans (Grows.eventCore _ _)).trans (Grows.noteRaw _ _ _ _)
    · exact k.trans (Grows.eventCore _ _)

theorem Grows.afterCore (s : State) (e : Ev) : Grows (s.stamp.eventCore e) (s.eventNoFail e) := by
  unfold State.eventNoFail
  dsimp only
  split
  · exact Grows.note _ _ _ _
  · exact Grows.refl _

theorem Grows.eventNoFail (s : State) (e : Ev) : Grows s (s.eventNoFail e) :=
  ((Grows.stamp s).trans (Grows.eventCore _ _)).trans (Grows.afterCore s e)

theorem Grows.foldl {β : Type} {f : State → β → State} (h : ∀ s x, Grows s (f s x)) (l : List β) (s : State) : Grows s (l.foldl f s) := by
  induction l generalizing s with
  | nil => exact Grows.refl s
  | cons x t ih => exact (h s x).trans (ih _)

@[simp] theorem State.hostEnd_evr (s : State) (k : Nat) : (s.hostEnd k).evr = s.evr := by simp [State.hostEnd]
@[simp] theorem State.hostEnd_pins (s : State) (k : Nat) : (s.hostEnd k).pins = s.pins := by simp [State.hostEnd]

theorem Grows.sendFail (s : State) (n : Nat) : Grows s (s.sendFail n) := by
  unfold State.sendFail
  split
  · exact Grows.refl s
  · dsimp only
    refine Grows.trans ?_ (Grows.eventNoFail _ _)
    refine Grows.trans ?_ (Grows.foldl (fun s p => Grows.eventNoFail s _) _ _)
    exact (Grows.failAll _ _).trans (Grows.foldl (fun s k => Grows.of_eq (State.hostEnd_evr s k)) _ _)

theorem Grows.afterNoFail (s : State) (e : Ev) (n : Nat) : Grows (s.eventNoFail e) (s.eventFail e n) := by
  unfold State.eventFail
  dsimp only
  split
  · exact Grows.sendFail _ _
  · exact Grows.refl _

/-- Recording an event drops no record. -/
theorem Grows.event (s : State) (e : Ev) : Grows s (s.event e) :=
  (Grows.eventNoFail s e).trans (Grows.afterNoFail s e 4)

theorem Recorded.grows {s t : State} {e : Ev} (h : Recorded s e) (g : Grows s t) : Recorded t e := by
  obtain ⟨r, hr, k⟩ := h
  exact ⟨r, List.IsPrefix.subset g hr, k⟩

/-- While the buffer has room for its severity, an event is recorded (R437). -/
theorem Recorded.event (s : State) (e : Ev) (h : evRoom s.evr.buf.length e.sev = true) : Recorded (s.event e) e := by
  refine Recorded.grows ?_ ((Grows.afterCore s e).trans (Grows.afterNoFail s e 4))
  unfold Recorded
  rw [State.eventCore_evr]
  unfold State.storeRec
  simp only [State.stamp_evr, h, if_true, State.wr64_evr]
  exact ⟨_, List.mem_append_right _ (List.mem_singleton.mpr rfl), rfl, rfl, rfl, rfl, rfl, rfl, rfl⟩

/-! ## Pins, and folds -/

/-- A fold keeps what each of its steps keeps. -/
theorem foldl_keep {β γ : Type} (l : List β) (f : State → β → State) (g : State → γ) (h : ∀ s x, g (f s x) = g s) (s : State) :
    g (l.foldl f s) = g s := by
  induction l generalizing s with
  | nil => rfl
  | cons x t ih => rw [List.foldl_cons, ih, h]

/-- A fold whose steps write one register leaves every other register alone. -/
theorem foldl_reg {β : Type} (l : List β) (f : State → β → State) (q : RegName)
    (h : ∀ s x r i a, r ≠ q → (f s x).rd r i a = s.rd r i a) (s : State) (r : RegName) (i a : Nat) (hr : r ≠ q) :
    (l.foldl f s).rd r i a = s.rd r i a := by
  induction l generalizing s with
  | nil => rfl
  | cons x t ih => rw [List.foldl_cons, ih, h _ _ _ _ _ hr]

@[simp] theorem State.storeRec_pins (s : State) (e : Ev) : (s.storeRec e).pins = s.pins := by
  unfold State.storeRec
  dsimp only
  split <;> simp

@[simp] theorem State.pumpOne_pins (s : State) (p : PortId) : (s.pumpOne p).pins = s.pins := by
  unfold State.pumpOne
  dsimp only
  split
  · split
    · rfl
    · split
      · rfl
      · simp [State.putFlit]
  · rfl

@[simp] theorem State.sendMsg_pins (s : State) (p : PortId) (v : Nat) (b : List Byte) : (s.sendMsg p v b).pins = s.pins := by
  unfold State.sendMsg
  split
  · unfold State.pump
    rw [foldl_keep _ _ State.pins (fun s _ => State.pumpOne_pins s p)]
    simp
  · rfl

@[simp] theorem State.failAll_pins (s : State) (n : Nat) : (s.failAll n).pins = s.pins := by
  refine foldl_keep _ _ State.pins (fun s p => ?_) s
  unfold State.failPort
  by_cases h : s.portActive p.val = true <;> simp [h, State.putCtrl, State.putFlit]

theorem State.eventCore_pins (s : State) (e : Ev) :
    (s.eventCore e).pins = if e.sev = 3 then { s.pins with faultN := false } else s.pins := by
  unfold State.eventCore State.setFault
  dsimp only
  by_cases h : 2 ≤ e.sev <;> by_cases k : e.sev = 3 <;> simp [h, k]

@[simp] theorem State.noteRaw_pins (s : State) (p k : Nat) (b : List Byte) : (s.noteRaw p k b).1.pins = s.pins := by
  unfold State.noteRaw
  dsimp only
  split
  · split <;> simp
  · simp

@[simp] theorem State.note_pins (s : State) (p k : Nat) (b : List Byte) : (s.note p k b).pins = s.pins := by
  unfold State.note
  dsimp only
  have h := State.noteRaw_pins s p k b
  split
  · rename_i t he
    rw [he] at h
    exact h
  · rename_i t he
    rw [he] at h
    split
    · rw [State.noteRaw_pins, State.eventCore_pins]
      simpa using h
    · rw [State.eventCore_pins]
      simpa using h

theorem State.eventNoFail_pins (s : State) (e : Ev) :
    (s.eventNoFail e).pins = if e.sev = 3 then { s.pins with faultN := false } else s.pins := by
  unfold State.eventNoFail
  dsimp only
  split <;> simp [State.eventCore_pins]

@[simp] theorem State.sendFail_pins (s : State) (n : Nat) : (s.sendFail n).pins = s.pins := by
  unfold State.sendFail
  split
  · rfl
  · dsimp only
    rw [State.eventNoFail_pins, if_neg (by simp), foldl_keep _ _ State.pins (fun s p => by rw [State.eventNoFail_pins, if_neg (by simp)]),
      foldl_keep _ _ State.pins (fun s k => State.hostEnd_pins s k)]
    simp

theorem State.eventFail_pins (s : State) (e : Ev) (n : Nat) :
    (s.eventFail e n).pins = if e.sev = 3 then { s.pins with faultN := false } else s.pins := by
  unfold State.eventFail
  by_cases k : e.sev = 3 <;> simp [k, State.eventNoFail_pins]

/-- A FATAL event asserts FAULT_N; no event moves another pin (R434, R454). -/
theorem State.event_pins (s : State) (e : Ev) : (s.event e).pins = if e.sev = 3 then { s.pins with faultN := false } else s.pins :=
  State.eventFail_pins _ _ _

/-! ## Port states -/

/-- `t` shows every port in the training state that `s` shows. -/
def SamePorts (s t : State) : Prop := ∀ i a, t.rd .LNK_Pp_STATE i a = s.rd .LNK_Pp_STATE i a

theorem SamePorts.refl (s : State) : SamePorts s s := fun _ _ => rfl
theorem SamePorts.trans {s t u : State} (h : SamePorts s t) (k : SamePorts t u) : SamePorts s u := fun i a => (k i a).trans (h i a)
theorem SamePorts.wr (s : State) (r : RegName) (i a : Nat) (v : Word) (n : r ≠ .LNK_Pp_STATE) : SamePorts s (s.wr r i a v) :=
  fun _ _ => s.rd_wr_reg _ _ _ _ _ n.symm
theorem SamePorts.of_rf {s t : State} (h : t.rf = s.rf) : SamePorts s t := fun _ _ => by simp [State.rd, h]

theorem SamePorts.modPort (s : State) (p : PortId) (f : PortSt → PortSt) : SamePorts s (s.modPort p f) := SamePorts.of_rf (by simp)
theorem SamePorts.emit (s : State) (o : Output) : SamePorts s (s.emit o) := SamePorts.of_rf (by simp)

theorem SamePorts.foldl {β : Type} {f : State → β → State} (h : ∀ s x, SamePorts s (f s x)) (l : List β) (s : State) :
    SamePorts s (l.foldl f s) := by
  induction l generalizing s with
  | nil => exact SamePorts.refl s
  | cons x t ih => exact (h s x).trans (ih _)

theorem SamePorts.putFlit (s : State) (p : PortId) (k : Nat) (x y : Bool) (v n : Nat) (b : List Byte) :
    SamePorts s (s.putFlit p k x y v n b) := SamePorts.of_rf (by simp [State.putFlit])

theorem SamePorts.pumpOne (s : State) (p : PortId) : SamePorts s (s.pumpOne p) := by
  unfold State.pumpOne
  dsimp only
  split
  · split
    · exact SamePorts.refl s
    · split
      · exact SamePorts.refl s
      · exact ((SamePorts.wr s .LNK_Pp_VCv _ _ _ (by decide)).trans (SamePorts.putFlit _ _ _ _ _ _ _ _)).trans (SamePorts.modPort _ _ _)
  · exact SamePorts.refl s

theorem SamePorts.pump (s : State) (p : PortId) : SamePorts s (s.pump p) := SamePorts.foldl (fun s _ => SamePorts.pumpOne s p) _ _

theorem SamePorts.sendMsg (s : State) (p : PortId) (v : Nat) (b : List Byte) : SamePorts s (s.sendMsg p v b) := by
  unfold State.sendMsg
  split
  · exact (SamePorts.of_rf (by simp)).trans (SamePorts.pump _ _)
  · exact SamePorts.refl s

theorem SamePorts.replayFrom (s : State) (p : PortId) (q : Nat) : SamePorts s (s.replayFrom p q) :=
  (SamePorts.foldl (fun s _ => SamePorts.putFlit s p _ _ _ _ _ _) _ _).trans (SamePorts.pump _ _)

theorem SamePorts.storeRec (s : State) (e : Ev) : SamePorts s (s.storeRec e) := by
  unfold State.storeRec
  dsimp only
  split
  · exact ((SamePorts.of_rf rfl).trans (SamePorts.wr _ .EVR_NEXT_LO _ _ _ (by decide))).trans (SamePorts.wr _ .EVR_NEXT_HI _ _ _ (by decide))
  · exact (SamePorts.of_rf rfl).trans (SamePorts.wr _ .EVR_STATUS _ _ _ (by decide))

theorem SamePorts.eventCore (s : State) (e : Ev) : SamePorts s (s.eventCore e) := by
  have h : SamePorts s (s.storeRec e) := SamePorts.storeRec _ _
  unfold State.eventCore
  dsimp only
  split <;> split <;> exact h

theorem SamePorts.noteRaw (s : State) (p k : Nat) (b : List Byte) : SamePorts s (s.noteRaw p k b).1 := by
  unfold State.noteRaw
  dsimp only
  split
  · split
    · exact ((SamePorts.wr s .EUT_NOTE_SEQ _ _ _ (by decide)).trans (SamePorts.sendMsg _ _ _ _)).trans (SamePorts.emit _ _)
    · exact (SamePorts.wr s .EUT_NOTE_SEQ _ _ _ (by decide)).trans (SamePorts.wr _ .EUT_Ek_STATUS _ _ _ (by decide))
  · exact (SamePorts.wr s .EUT_NOTE_SEQ _ _ _ (by decide)).trans (SamePorts.wr _ .EUT_Ek_STATUS _ _ _ (by decide))

theorem SamePorts.note (s : State) (p k : Nat) (b : List Byte) : SamePorts s (s.note p k b) := by
  unfold State.note
  dsimp only
  have h := SamePorts.noteRaw s p k b
  split
  · rename_i t he
    rw [he] at h
    exact h
  · rename_i t he
    rw [he] at h
    have k := h.trans (SamePorts.of_rf (State.stamp_rf t))
    split
    · exact (k.trans (SamePorts.eventCore _ _)).trans (SamePorts.noteRaw _ _ _ _)
    · exact k.trans (SamePorts.eventCore _ _)

theorem SamePorts.eventNoFail (s : State) (e : Ev) : SamePorts s (s.eventNoFail e) := by
  unfold State.eventNoFail
  dsimp only
  have h := (SamePorts.of_rf (State.stamp_rf s)).trans (SamePorts.eventCore s.stamp e)
  split
  · exact h.trans (SamePorts.note _ _ _ _)
  · exact h

/-- An event that is not FATAL leaves every port in its training state. -/
theorem SamePorts.event (s : State) (e : Ev) (h : e.sev ≠ 3) : SamePorts s (s.event e) := by
  unfold State.event State.eventFail
  simp only [h, if_false]
  exact SamePorts.eventNoFail _ _

end Sys2Proof.Machine
end

