-- ==== Sys2Proof/Laws/Memory.lean ====
section
/-! SUPPORT. What the memory operations can do: a read changes no byte and touches only the stacks' error state, a write changes only the
bytes it names, and every operation keeps the canonical form. -/

namespace Sys2Proof.Machine

theorem Touched.refl (s : State) : Touched s s := ⟨rfl, rfl, rfl, rfl, rfl, rfl, rfl, rfl, rfl, rfl, rfl, rfl, rfl, rfl, rfl, fun _ _ _ _ => rfl⟩

theorem Touched.trans {s t u : State} (h : Touched s t) (k : Touched t u) : Touched s u :=
  ⟨k.cells.trans h.cells, k.t2.trans h.t2, k.t2Poison.trans h.t2Poison, k.queues.trans h.queues, k.pwr.trans h.pwr, k.arr.trans h.arr, k.vec.trans h.vec,
   k.chk.trans h.chk, k.eut.trans h.eut, k.col.trans h.col, k.rcv.trans h.rcv, k.tier.trans h.tier, k.ing.trans h.ing,
   k.img.trans h.img, k.pending.trans h.pending, fun r i a n => (k.rd r i a n).trans (h.rd r i a n)⟩

theorem loud_of_hbmLoud {r : RegName} (h : hbmLoud r = false) : loud r = false := by
  unfold hbmLoud at h
  split at h <;> simp_all

theorem Quiet.touched {s t : State} (h : Quiet s t) : Touched s t :=
  ⟨by rw [h.mem], by rw [h.mem], by rw [h.mem], h.queues, h.pwr, h.arr, h.vec, h.chk, h.eut, h.col, h.rcv, h.tier, h.ing, by rw [h.boot], h.pending,
   fun r i a n => h.rd r i a (loud_of_hbmLoud n)⟩

theorem Touched.cell {s t : State} (h : Touched s t) (a : Nat) : t.cell a = s.cell a := by simp [State.cell, h.cells, h.t2]

theorem Touched.fget {s t : State} (h : Touched s t) (f : Fld) (i a : Nat) (n : hbmLoud f.reg = false) : t.fget f i a = s.fget f i a := by
  simp [State.fget, h.rd _ _ _ n]

theorem Touched.wr (s : State) (r : RegName) (i a : Nat) (v : Word) (n : hbmLoud r = true) : Touched s (s.wr r i a v) := by
  refine ⟨by simp, by simp, by simp, by simp, by simp, by simp, by simp, by simp, by simp, by simp, by simp, by simp, by simp, by simp, by simp,
    fun q j b m => s.rd_wr_reg _ _ _ _ _ ?_⟩
  rintro rfl
  simp [n] at m

theorem Touched.setStack (s : State) (n : Quad) (x : StackSt) : Touched s (s.setStack n x) :=
  ⟨by simp, by simp, by simp, by simp, by simp, by simp, by simp, by simp, by simp, by simp, by simp, by simp, by simp, by simp, by simp,
   fun _ _ _ _ => by simp⟩

theorem Touched.addRepair (s : State) (e : RepairEnt) : Touched s (s.addRepair e) :=
  ⟨by simp, by simp, by simp, by simp, by simp, by simp, by simp, by simp, by simp, by simp, by simp, by simp, by simp, rfl, by simp,
   fun _ _ _ _ => by simp⟩

theorem Touched.hbmEvent (s : State) (n : Quad) (c v p q : Nat) (h : v ≠ 3) : Touched s (s.hbmEvent n c v p q) :=
  (Quiet.event s _ h).touched

theorem Touched.markBank (s : State) (n : Quad) (h : RowHit) : Touched s (s.markBank n h) := by
  unfold State.markBank
  dsimp only
  split
  · exact Touched.refl s
  · exact ((((Touched.setStack _ _ _).trans (Touched.addRepair _ _)).trans (Touched.wr _ _ _ _ _ rfl)).trans
      (Touched.wr _ _ _ _ _ rfl)).trans (Touched.hbmEvent _ _ _ _ _ _ (by decide))

theorem Touched.retirePage (s : State) (n : Quad) (h : RowHit) : Touched s (s.retirePage n h) := by
  unfold State.retirePage
  dsimp only
  split
  · exact Touched.refl s
  · split
    · exact Touched.markBank _ _ _
    · have k : ∀ (s : State) (x : StackSt) (e : RepairEnt) (v w c p q : Nat) (b d : List Fld),
          Touched s ((((((s.setStack n x).addRepair e).fset Fld.HBM_STACKn_RETIRED_PAGES v n.val).fset Fld.HBM_STACKn_RETIRED_WEAK w
            n.val).sqSet .HBM_STACKn_STATUS n.val 0 b d).hbmEvent n c 2 p q) := fun s x e v w c p q b d =>
        (((((Touched.setStack _ _ _).trans (Touched.addRepair _ _)).trans (Touched.wr _ _ _ _ _ rfl)).trans
          (Touched.wr _ _ _ _ _ rfl)).trans (Touched.wr _ _ _ _ _ rfl)).trans (Touched.hbmEvent _ _ _ _ _ _ (by decide))
      split
      · exact (k _ _ _ _ _ _ _ _ _ _).trans (Touched.markBank _ _ _)
      · exact k _ _ _ _ _ _ _ _ _ _

theorem Touched.weakPage (s : State) (n : Quad) (h : RowHit) : Touched s (s.weakPage n h) := by
  unfold State.weakPage
  dsimp only
  split
  · exact (Touched.wr _ _ _ _ _ rfl).trans (Touched.hbmEvent _ _ _ _ _ _ (by decide))
  · exact (((Touched.setStack _ _ _).trans (Touched.addRepair _ _)).trans (Touched.wr _ _ _ _ _ rfl)).trans (Touched.hbmEvent _ _ _ _ _ _ (by decide))

theorem Touched.withMem (s : State) (m : MemSt) (h : m.cells = s.mem.cells) (l : m.t2 = s.mem.t2)
    (k : m.t2Poison = s.mem.t2Poison) : Touched s { s with mem := m } :=
  ⟨h, l, k, rfl, rfl, rfl, rfl, rfl, rfl, rfl, rfl, rfl, rfl, rfl, rfl, fun _ _ _ _ => rfl⟩

theorem Touched.withBoot (s : State) (b : BootSt) (h : b.img = s.boot.img) : Touched s { s with boot := b } :=
  ⟨rfl, rfl, rfl, rfl, rfl, rfl, rfl, rfl, rfl, rfl, rfl, rfl, rfl, h, rfl, fun _ _ _ _ => rfl⟩

theorem Touched.wordCe (s : State) (w : Nat) : Touched s (s.wordCe w) :=
  (Touched.withMem s { s.mem with errs := Sparse.erase s.mem.errs w } rfl rfl rfl).trans (Touched.wr _ _ _ _ _ rfl)

theorem Touched.poisonWord (s : State) (w : Nat) : Touched s (s.poisonWord w) := by
  unfold State.poisonWord
  dsimp only
  refine Touched.trans ?_ (Touched.hbmEvent _ _ _ _ _ _ (by decide))
  refine Touched.trans ?_ (Touched.withBoot _ _ rfl)
  exact (Touched.withMem s { s.mem with poison := NSet.insert s.mem.poison w, errs := Sparse.erase s.mem.errs w } rfl rfl rfl).trans
    (Touched.wr _ _ _ _ _ rfl)

theorem Touched.foldl {β : Type} {f : State → β → State} (h : ∀ s x, Touched s (f s x)) (l : List β) (s : State) :
    Touched s (l.foldl f s) := by
  induction l generalizing s with
  | nil => exact Touched.refl s
  | cons x t ih => exact (h s x).trans (ih _)

theorem Touched.repairRead (s : State) (h : RowHit) : Touched s (s.repairRead h) := by
  refine Touched.foldl (fun s e => ?_) _ _
  split
  · exact Touched.wordCe _ _
  · exact Touched.poisonWord _ _

theorem Touched.rowCandidate (s : State) (n : Quad) (h : RowHit) (u : Bool) : Touched s (s.rowCandidate n h u) := by
  unfold State.rowCandidate
  dsimp only
  split
  · split
    · exact Touched.retirePage _ _ _
    · exact Touched.weakPage _ _ _
  · refine Touched.trans ?_ (Touched.hbmEvent _ _ _ _ _ _ (by decide))
    exact (((Touched.setStack _ _ _).trans (Touched.repairRead _ _)).trans (Touched.addRepair _ _)).trans (Touched.wr _ _ _ _ _ rfl)

theorem Touched.wordUe (s : State) (w : Nat) : Touched s (s.wordUe w) := by
  unfold State.wordUe
  split
  · exact Touched.withMem s { s.mem with errs := Sparse.erase s.mem.errs w } rfl rfl rfl
  · exact (Touched.poisonWord _ _).trans (Touched.rowCandidate _ _ _ _)

theorem Touched.readErr (s : State) (w : Nat) : Touched s (s.readErr w) := by
  unfold State.readErr
  split
  · exact Touched.refl s
  · split
    · exact Touched.wordCe _ _
    · exact Touched.wordUe _ _

/-- What a read of a range can do. -/
theorem Touched.touch (s : State) (a n : Nat) : Touched s (s.touch a n) := Touched.foldl (fun s w => Touched.readErr s w) _ _

theorem Touched.readPhys (s : State) (a n : Nat) : Touched s (s.readPhys a n).2 := Touched.touch _ _ _

/-- A fold that carries a result beside the state does what its steps do. -/
theorem Touched.foldlSnd {β γ : Type} {f : γ × State → β → γ × State} (h : ∀ x b, Touched x.2 (f x b).2) (l : List β) (x : γ × State) :
    Touched x.2 (l.foldl f x).2 := by
  induction l generalizing x with
  | nil => exact Touched.refl _
  | cons b t ih => exact (h x b).trans (ih _)

theorem Touched.readMem (s : State) (a n u : Nat) : Touched s (s.readMem a n u).2 := by
  unfold State.readMem
  refine Touched.foldlSnd (fun x b => ?_) _ (([], false), s)
  exact Touched.readPhys x.2 (x.2.resolve b.1 u) b.2

theorem Touched.grant (s : State) (c a n : Nat) : Touched s (s.grant c a n) := by
  unfold State.grant
  split
  · exact Touched.setStack _ _ _
  · exact Touched.refl s

theorem Touched.readAs (s : State) (c a n u : Nat) : Touched s (s.readAs c a n u).2 :=
  (Touched.grant _ _ _ _).trans (Touched.readMem _ _ _ _)

/-! ## Writes -/

/-- The bytes after writing some of a range: each position that is allowed takes its byte, the rest stay. -/
def putCells (ok : Nat → Bool) (a : Nat) (data : List Byte) (n : Nat) (c : List Host.Cell) : List Host.Cell :=
  (List.range n).foldl (fun c i => if ok (a + i) then Sparse.set memDefault c (a + i) (data.getD i 0) else c) c

theorem putCells_succ (ok : Nat → Bool) (a : Nat) (data : List Byte) (n : Nat) (c : List Host.Cell) :
    putCells ok a data (n + 1) c =
      if ok (a + n) then Sparse.set memDefault (putCells ok a data n c) (a + n) (data.getD n 0) else putCells ok a data n c := by
  simp [putCells, List.range_succ]

/-- Writing a range keeps the canonical form. -/
theorem putCells_wf (ok : Nat → Bool) (a : Nat) (data : List Byte) (n : Nat) {c : List Host.Cell}
    (h : Sparse.wf (fun _ => memDefault) c = true) : Sparse.wf (fun _ => memDefault) (putCells ok a data n c) = true := by
  induction n with
  | zero => exact h
  | succ n ih =>
    rw [putCells_succ]
    split
    · exact Sparse.wf_set (d := fun _ => memDefault) _ _ ih
    · exact ih

/-- A byte after writing a range. -/
theorem putCells_get (ok : Nat → Bool) (a : Nat) (data : List Byte) (n : Nat) (c : List Host.Cell) (x : Nat) :
    Sparse.get memDefault (putCells ok a data n c) x =
      if a ≤ x ∧ x < a + n ∧ ok x = true then data.getD (x - a) 0 else Sparse.get memDefault c x := by
  induction n with
  | zero => simp [putCells]; omega
  | succ n ih =>
    rw [putCells_succ]
    by_cases hx : x = a + n
    · subst hx
      by_cases ho : ok (a + n) = true
      · simp [ho]
      · simp [ho, ih]
    · have e : (a ≤ x ∧ x < a + (n + 1) ∧ ok x = true) ↔ (a ≤ x ∧ x < a + n ∧ ok x = true) := by
        constructor <;> rintro ⟨h1, h2, h3⟩ <;> exact ⟨h1, by omega, h3⟩
      split
      · rw [Sparse.get_set_ne _ _ _ _ hx, ih]; simp only [e]
      · rw [ih]; simp only [e]

/-- Reading the words a write covers in part, before it. -/
def State.readParts (s : State) (a n : Nat) : State :=
  (if isHbm a then partWords a n else []).foldl (fun s w => s.touch (w * 64) 64) s

/-- Whether a write of a range reaches a byte: its word is not blocked by poison, its page not retired, and it is no byte of the T2
window (R128, R159, R163, R472). -/
def State.reachesByte (s : State) (a n x : Nat) : Bool :=
  !((if isHbm a then partWords a n else []).filter (fun w => NSet.mem (s.readParts a n).mem.poison w)).contains (x / 64)
    && !(s.readParts a n).retiredAt x && !isT2 x

theorem Touched.readParts (s : State) (a n : Nat) : Touched s (s.readParts a n) := Touched.foldl (fun s _ => Touched.touch s _ _) _ _

theorem State.writePhys_cells (s : State) (a : Nat) (data : List Byte) :
    (s.writePhys a data).1.mem.cells = putCells (s.reachesByte a data.length) a data data.length s.mem.cells := by
  rw [← (Touched.readParts s a data.length).cells]
  rfl

/-- A write keeps the canonical form of memory. -/
theorem State.writePhys_wf (s : State) (a : Nat) (data : List Byte) (h : s.mem.wf = true) : (s.writePhys a data).1.mem.wf = true := by
  unfold MemSt.wf
  rw [s.writePhys_cells]
  exact putCells_wf _ _ _ _ h

/-- A byte after a write: the written one where the write reaches it, the old one everywhere else. -/
theorem State.cell_writePhys (s : State) (a : Nat) (data : List Byte) (x : Nat) :
    (s.writePhys a data).1.cell x =
      if a ≤ x ∧ x < a + data.length ∧ s.reachesByte a data.length x = true then data.getD (x - a) 0 else s.cell x := by
  have k : (s.writePhys a data).1.mem.t2 = s.mem.t2 := (Touched.readParts s a data.length).t2
  unfold State.cell
  rw [k, s.writePhys_cells, putCells_get]
  split
  · rename_i h
    simp [State.reachesByte, h]
  · rfl

/-- What a write leaves alone, beside bytes. -/
structure Written (s t : State) : Prop where
  t2 : t.mem.t2 = s.mem.t2
  t2Poison : t.mem.t2Poison = s.mem.t2Poison
  queues : t.queues = s.queues
  pwr : t.pwr = s.pwr
  arr : t.arr = s.arr
  vec : t.vec = s.vec
  chk : t.chk = s.chk
  eut : t.eut = s.eut
  col : t.col = s.col
  rcv : t.rcv = s.rcv
  tier : t.tier = s.tier
  ing : t.ing = s.ing
  img : t.boot.img = s.boot.img
  pending : t.pending = s.pending
  rd : ∀ r i a, hbmLoud r = false → t.rd r i a = s.rd r i a

theorem Touched.written {s t : State} (h : Touched s t) : Written s t :=
  ⟨h.t2, h.t2Poison, h.queues, h.pwr, h.arr, h.vec, h.chk, h.eut, h.col, h.rcv, h.tier, h.ing, h.img, h.pending, h.rd⟩

theorem Written.trans {s t u : State} (h : Written s t) (k : Written t u) : Written s u :=
  ⟨k.t2.trans h.t2, k.t2Poison.trans h.t2Poison, k.queues.trans h.queues, k.pwr.trans h.pwr, k.arr.trans h.arr, k.vec.trans h.vec,
   k.chk.trans h.chk, k.eut.trans h.eut, k.col.trans h.col, k.rcv.trans h.rcv, k.tier.trans h.tier, k.ing.trans h.ing,
   k.img.trans h.img, k.pending.trans h.pending, fun r i a n => (k.rd r i a n).trans (h.rd r i a n)⟩

theorem Written.withMem (s : State) (m : MemSt)  (l : m.t2 = s.mem.t2) (k : m.t2Poison = s.mem.t2Poison) :
    Written s { s with mem := m } :=
  ⟨l, k, rfl, rfl, rfl, rfl, rfl, rfl, rfl, rfl, rfl, rfl, rfl, rfl, fun _ _ _ _ => rfl⟩

/-- What a write can do beside its bytes. -/
theorem Written.writePhys (s : State) (a : Nat) (data : List Byte) : Written s (s.writePhys a data).1 :=
  (Touched.readParts s a data.length).written.trans (Written.withMem _ _ rfl rfl)

/-- A fold that carries a result behind the state keeps a relation that each of its steps keeps. -/
theorem foldlFst_rel {β γ : Type} {R : State → State → Prop} (r : ∀ s, R s s) (tr : ∀ {s t u}, R s t → R t u → R s u)
    {f : State × γ → β → State × γ} (h : ∀ x b, R x.1 (f x b).1) (l : List β) (x : State × γ) : R x.1 (l.foldl f x).1 := by
  induction l generalizing x with
  | nil => exact r _
  | cons b l ih => exact tr (h x b) (ih _)

/-- A write of pieces does what writes of its pieces do: a relation that holds of every write, of none and of two in turn, holds of it. -/
theorem State.writeMem_rel {R : State → State → Prop} (r : ∀ s, R s s) (tr : ∀ {s t u}, R s t → R t u → R s u)
    (w : ∀ s a data, R s (State.writePhys s a data).1) (s : State) (a : Nat) (data : List Byte) : R s (s.writeMem a data).1 := by
  unfold State.writeMem
  refine foldlFst_rel r tr (fun x b => ?_) _ (s, 0)
  exact w x.1 (x.1.resolve b.1 8 true) ((data.drop (b.1 - a)).take b.2)

theorem Written.refl (s : State) : Written s s := (Touched.refl s).written

theorem Written.writeMem (s : State) (a : Nat) (data : List Byte) : Written s (s.writeMem a data).1 :=
  State.writeMem_rel Written.refl Written.trans Written.writePhys s a data

theorem Written.writeAs (s : State) (c a : Nat) (data : List Byte) : Written s (s.writeAs c a data).1 :=
  (Touched.grant _ _ _ _).written.trans (Written.writeMem _ _ _)

theorem State.putByte_wf (s : State) (a : Nat) (y : Byte) (h : s.mem.wf = true) : (s.putByte a y).mem.wf = true :=
  Sparse.wf_set (d := fun _ => memDefault) _ _ h

theorem MemSt.wf_of_cells {m k : MemSt} (e : k.cells = m.cells) (h : m.wf = true) : k.wf = true := by
  unfold MemSt.wf at *; rw [e]; exact h

theorem State.writeMem_wf (s : State) (a : Nat) (data : List Byte) (h : s.mem.wf = true) : (s.writeMem a data).1.mem.wf = true :=
  State.writeMem_rel (R := fun s t => s.mem.wf = true → t.mem.wf = true) (fun _ h => h) (fun h k x => k (h x))
    (fun s a d => s.writePhys_wf a d) s a data h

theorem State.writeAs_wf (s : State) (c a : Nat) (data : List Byte) (h : s.mem.wf = true) : (s.writeAs c a data).1.mem.wf = true :=
  State.writeMem_wf _ _ _ (MemSt.wf_of_cells (Touched.grant _ _ _ _).cells h)

theorem State.scramble_wf (s : State) (a n : Nat) (h : s.mem.wf = true) : (s.scramble a n).mem.wf = true :=
  State.writeMem_wf _ _ _ (by simpa using h)

end Sys2Proof.Machine
end

