-- ==== Sys2Proof/Laws/Clean.lean ====
section
/-! SUPPORT. Healthy memory: where nothing is poisoned and no error, retired page or excluded bank is there, reads and writes find none. -/

namespace Sys2Proof.Machine

/-- Memory without poison, words in error, retired pages or excluded banks. -/
structure State.Clean (s : State) : Prop where
  poison : s.mem.poison = []
  errs : s.mem.errs = []
  hbm : ∀ n : Quad, (vget s.hbm n).retired = [] ∧ (vget s.hbm n).excluded = []

theorem State.Clean.touch {s : State} (h : s.Clean) (a n : Nat) : s.touch a n = s := by simp [State.touch, wordsIn, h.errs]

theorem State.Clean.retiredIn {s : State} (h : s.Clean) (a n : Nat) : s.retiredIn a n = false := by
  simp [State.retiredIn, h.hbm]

theorem State.Clean.writePhys {s : State} (h : s.Clean) (a : Nat) (data : List Byte) : (s.writePhys a data).2 = 0 := by
  have f : ∀ l : List Nat, l.foldl (fun s w => s.touch (w * 64) 64) s = s := by
    intro l; induction l with
    | nil => rfl
    | cons w l ih => rw [List.foldl_cons, h.touch, ih]
  simp [State.writePhys, f, h.retiredIn, h.poison, NSet.mem]

theorem State.Clean.readPhys {s : State} (h : s.Clean) (a n : Nat) : s.readPhys a n = ((s.cells a n, false), s) := by
  simp [State.readPhys, h.touch, State.poisoned, wordsIn, h.poison, h.retiredIn]

theorem State.Clean.grant {s : State} (h : s.Clean) (c a n : Nat) : (s.grant c a n).Clean := by
  unfold State.grant
  split
  · exact ⟨h.poison, h.errs, fun m => by
      by_cases e : m = stackOf a
      · subst e; simp [State.setStack, h.hbm]
      · simp [State.setStack, vget_vset_ne, e, h.hbm]⟩
  · exact h

/-- A write of clean memory leaves it clean. -/
theorem State.Clean.written {s : State} (h : s.Clean) (a : Nat) (data : List Byte) : (s.writePhys a data).1.Clean := by
  have f : ∀ l : List Nat, l.foldl (fun s w => s.touch (w * 64) 64) s = s := by
    intro l; induction l with
    | nil => rfl
    | cons w l ih => rw [List.foldl_cons, h.touch, ih]
  refine ⟨?_, ?_, ?_⟩ <;> simp [State.writePhys, f, h.poison, h.errs, h.hbm]

theorem State.Clean.writeMem {s : State} (h : s.Clean) (a : Nat) (data : List Byte) : (s.writeMem a data).2 = 0 := by
  unfold State.writeMem
  have k : ∀ (l : List (Nat × Nat)) (x : State × Nat), x.1.Clean → x.2 = 0 → (l.foldl (fun acc r =>
      let y := acc.1.writePhys (acc.1.resolve r.1 8 true) ((data.drop (r.1 - a)).take r.2)
      (y.1, if acc.2 = 0 then y.2 else acc.2)) x).2 = 0 := by
    intro l
    induction l with
    | nil => intro x _ e; exact e
    | cons b l ih => intro x c e; exact ih _ (c.written _ _) (by simp [e, c.writePhys])
  exact k _ (s, 0) h rfl

theorem State.Clean.writeAs {s : State} (h : s.Clean) (c a : Nat) (data : List Byte) : (s.writeAs c a data).2 = 0 :=
  (h.grant c _ _).writeMem _ data

end Sys2Proof.Machine
end

