-- ==== Sys2Proof/Tests/Slice0.lean ====
section
/-! SUPPORT. The author's own tests: ill-formed commands that the checks refuse, worked examples and small values of the spec, one small
test of a command each, and, for every statement with hypotheses, states and operands that meet them together (`witness_…`). -/

namespace Sys2Proof.Tests

set_option Elab.async false

open Sys2Proof.Machine

/-! ## States used by the tests -/

/-- The image that gives partition 0 everything. -/
def ownImage : Image :=
  { (default : Image) with
    parts := [{ valid := true, flagged := false, ports := 15, t0Mib := 0, t1Gib := 0, allowW := 1000, burstDj := 1000, engines := 4294967295
                wFirst := 0, wCount := 512, eFirst := 512, eCount := 512 }]
    arrays := List.replicate 8 { cut := 0, owner := 0, pair := 0 }
    torus := { dx := 2, dy := 2, dz := 2, lx := 2, ly := 2, lz := 2, ox := 0, oy := 0, oz := 0, slotExpect := 0xFF, partnerGib := 1, nbr := [] }
    regions := [{ owner := 0, stack := 0, start := 0, size := 1, valid := true }]
    staging := List.replicate 64 { owner := 0, mib := 2 }, pools := List.replicate 16 0 }

/-- A machine in READY that belongs to partition 0. -/
def base : State := { State.reset with boot := { State.reset.boot with img := ownImage } }.fset Fld.GLB_BOOT_STATE 8

/-- The bytes of a command: opcode, OPARG, STEP, and the slots that follow. -/
def cmdBytes (op oparg step : Nat) (more : List Byte) : List Byte :=
  leBytes 2 op ++ List.replicate 24 0 ++ leBytes 2 0 ++ leBytes 4 0 ++ leBytes 4 step ++ leBytes 4 oparg ++ List.replicate 24 0 ++ more

/-- The first slot of queue 0 of partition 0. -/
def ref0 : CmdRef := { part := 0, queue := 0, slot := 0 }

/-- A running command in it. -/
def run0 (b : List Byte) (ds : List TDesc) : Cmd :=
  { (default : Cmd) with nslots := 1, bytes := b, firstOk := true, phase := .running, descs := ds }

/-- A state with that command in queue 0. -/
def withCmd (s : State) (c : Cmd) : State := s.setQueue 0 0 { cmds := [c], aborting := false }

/-- A state after a command. -/
def after (c : Instr) (s : State) : State := match exec c s with | .next t => t | _ => s

/-- A state with a link port in a training state. -/
def inLnk (s : State) (p : PortId) (st : Nat) : State := s.fset Fld.LNK_Pp_STATE_STATE st p.val

/-- The address of a register in the view of a partition, and in the global window for a register of partition p. -/
def viewAddr (p : Nat) (r : RegName) (inst : Nat) : Nat := viewBase p + r.spec.block * 0x80000 + regOffset r inst
def globAddr (r : RegName) (inst p : Nat) : Nat := globBase + r.spec.block * 0x100000 + p * 0x20000 + regOffset r inst

/-- A tensor descriptor of DIM0 × DIM1 elements. -/
def tens (dt base n m : Nat) : TDesc :=
  { base := base, dtype := dt, rank := if m = 1 then 1 else 2, flags := 0, tid := 0, dims := [n, m, 1, 1], stride := [n, 0, 0], scale := 0, addr := 64 }

/-- A machine whose queue 0 runs one command. -/
def running (op oparg step : Nat) (ds : List TDesc) : State := withCmd base (run0 (cmdBytes op oparg step []) ds)

/-- The command of `running`. -/
def theCmd (op oparg step : Nat) (ds : List TDesc) : Cmd := run0 (cmdBytes op oparg step []) ds

/-! ## Witnesses: the block, energy, the recorder -/

theorem witness_StepRunsFront : ({ State.reset with pending := [.pwrFail, .sram []] } : State).pending = .pwrFail :: [.sram []] := rfl

theorem witness_StepIdles : base.pending = [] := rfl

theorem witness_StepKeepsCanonical :
    let s : State := { base with mem := { base.mem with cells := [(5, 1), (9, 2)] } }
    Safety.MemCanonical s ∧ Safety.RegCanonical s.rf ∧ step s = .next s := ⟨rfl, ⟨rfl, rfl, rfl, rfl, rfl⟩, rfl⟩

theorem witness_ExecKeepsPending : exec .evrFlushTimer base = .next base := rfl

theorem witness_RailsReadAndMoved_current : ∀ x ∈ [65535, 0, 7], x < 2 ^ 16 := by decide

theorem witness_RailsReadAndMoved_round : base.bootState ≠ 0 ∧ busRail 0 0 = true ∧ 15 < 16 ∧
    base.railTarget 0 = 15 ∧ ({ base with pwr := { base.pwr with dieT := Vector.replicate 8 3 } } : State).railTarget 0 < 15 ∧
    10 < base.railTarget 0 := by decide

theorem witness_ThermalSamples_stack : 255 < 256 ∧ base.fget Fld.HBM_STACKn_TEMP_PEAK 7 < 256 ∧
    base.fget Fld.HBM_STACKn_TEMP_STATE 7 < 3 ∧ 100 ≤ 100 := by decide

theorem witness_ThermalSamples_die : ∃ n : Quad, base.quadState n.val < 3 ∧ 110 ≤ [0, 110].getD n.val 0 := ⟨1, by decide⟩

theorem witness_RailsReadAndMoved_unanswered : base.bootState ≠ 0 ∧ busRail 0 0 = true ∧ busRail 1 7 = true ∧ State.reset.bootState = 0 := by decide

theorem witness_PowerFailures : base.pins.porstN = true ∧
    ({ base with pins := { base.pins with porstN := false } } : State).pins.porstN = false ∧ evRoom base.evr.buf.length 3 = true := by decide

theorem witness_Cooling_report :
    let t := after (.coolantReport .mgc (BitVec.ofNat 32 401)) (base.fset Fld.PWR_CFG_COOL_CHECK 1)
    t.pwr.coolBad = true ∧ t.fbit Fld.PWR_CFG_COOL_CHECK = true := by decide

theorem witness_Cooling_stale : (base.fset Fld.PWR_CFG_COOL_CHECK 1).fbit Fld.PWR_CFG_COOL_CHECK = true ∧
    (base.fset Fld.PWR_CFG_COOL_CHECK 0).fbit Fld.PWR_CFG_COOL_CHECK = false ∧ (1 : Part).val ≠ 0 := by decide

theorem witness_BudgetEpoch : base.eut.waiting = [] ∧
    ({ base with boot := { base.boot with resetting := some (3, .mgc, false) } } : State).boot.resetting.isSome = true := by decide

theorem witness_StackUpkeep_margin : State.reset.boot.wasReady = false ∧ wGet (1 : Word) 0 0 = 1 ∧
    ({ base with boot := { base.boot with wasReady := true } } : State).boot.wasReady = true ∧ (3 : Part).val ≠ 0 := by decide

theorem witness_StackUpkeep_scrub : base.eut.waiting = [] ∧
    (∀ h ∈ [ScrubHit.mk hbmBase 2 true, .mk (hbmBase + 64) 1 true], h.symbols < 3 ∧ h.seen = true) ∧ isHbm (hbmBase / 64 * 64) = true ∧
    stackOf (hbmBase / 64 * 64) = 0 := by decide

theorem witness_StackUpkeep_sweep : (State.reset.fset Fld.HBM_MARGIN_CTRL_START 1).fbit Fld.HBM_MARGIN_CTRL_START = true ∧
    ∀ x ∈ [(255, 255), (0, 0)], x.1 < 256 ∧ x.2 < 256 := by decide

/-- A record of partition 0 in the buffer. -/
def rec0 : EvRec := { (default : EvRec) with num := 3, code := 0x0E01 }

/-- A recorder with one record, and a flush due. -/
def recorded : State := { base with evr := { base.evr with buf := [rec0], flushDue := true } }

theorem witness_RecorderFlushAndRead_flush : recorded.evr.buf ≠ [] ∧ recorded.evr.flushDue = true ∧ recorded.pins.porstN = true ∧
    recorded.evr.episode = false := by decide

theorem witness_RecorderFlushAndRead_advance : recorded.readable.find? (fun r => recorded.rd64 .EVR_CUR_LO .EVR_CUR_HI 0 (viewIdx (.part 0)) ≤ r.num &&
    recorded.rd64 .EVR_LOW_LO .EVR_LOW_HI ≤ r.num && (viewIdx (.part 0) == 4 || r.part == viewIdx (.part 0))) = some rec0 ∧
    rec0.num + 1 < 2 ^ 64 ∧ base.readable.find? (fun r => base.rd64 .EVR_CUR_LO .EVR_CUR_HI 0 (viewIdx .glob) ≤ r.num &&
    base.rd64 .EVR_LOW_LO .EVR_LOW_HI ≤ r.num && (viewIdx .glob == 4 || r.part == viewIdx .glob)) = none := by decide

theorem witness_RecorderFlushAndRead_ring : base.evr.buf = [] ∧ recorded.flash.ring.length + recorded.evr.buf.length ≤ ringPages ∧
    rec0 ∈ recorded.readable ∧ ({ recorded with evr := { recorded.evr with episode := true } } : State).evr.episode = true := by decide

theorem witness_RecorderAnchorAndClear_anchor : evRoom base.evr.buf.length 0 = true := by decide

theorem witness_RecorderAnchorAndClear_clear : wGet (0x10000 : Word) 16 16 = 1 ∧ wGet (0x10000 : Word) 15 0 = base.fget Fld.GLB_BOOT_BOOT_COUNT ∧
    wGet (0 : Word) 16 16 = 0 ∧ (2 : Part).val ≠ 0 ∧ wGet (0x10001 : Word) 16 16 = 1 ∧ wGet (0x10001 : Word) 15 0 ≠ base.fget Fld.GLB_BOOT_BOOT_COUNT := by decide

/-- A check-value unit that may run over 16 bytes of scratchpad in a mode. -/
def chkReady (mode : Nat) : State :=
  ((((base.fset Fld.CHK_Uu_CTRL_MODE mode 0).wr64 .CHK_Uu_SRC_LO .CHK_Uu_SRC_HI 64 0).wr64 .CHK_Uu_DST_LO .CHK_Uu_DST_HI 256 0).wr64
    .CHK_Uu_LEN_LO .CHK_Uu_LEN_HI 16 0)

theorem witness_CheckValueRuns_bad : base.chkHeld 0 = false ∧ base.chkLegal 0 = false ∧ base.chkMode 0 = 0 ∧
    (base.fset Fld.CHK_Uu_CTRL_MODE 1 0).chkLegal 0 = false ∧ (base.fset Fld.CHK_Uu_CTRL_MODE 1 0).chkMode 0 = 1 ∧
    (base.fset Fld.CHK_Uu_CTRL_MODE 2 0).chkLegal 0 = false ∧ (base.fset Fld.CHK_Uu_CTRL_MODE 2 0).chkMode 0 = 2 ∧
    (base.fset Fld.CHK_Uu_CTRL_BUSY 1 3).chkHeld 3 = true := by decide

/-- A poisoned source is one that a unit may run over too. -/
theorem witness_CheckValueRuns_poison :
    let bad (s : State) : State := { s with mem := { s.mem with poison := [1] } }
    ∀ m < 3, (bad (chkReady m)).chkHeld 0 = false ∧ (bad (chkReady m)).chkLegal 0 = true ∧ (bad (chkReady m)).chkMode 0 = m ∧
      (((bad (chkReady m)).fset Fld.CHK_Uu_CTRL_BUSY 1 0).readAs 4 ((bad (chkReady m)).chkSrc 0) ((bad (chkReady m)).chkLen 0 + (if m = 2 then
        checkWidth ((bad (chkReady m)).chkPoly 0) else 0))).1.2 = true := by decide +kernel

theorem witness_CheckValueRuns_scan : (chkReady 0).chkHeld 0 = false ∧ (chkReady 0).chkLegal 0 = true ∧ (chkReady 0).chkMode 0 = 0 ∧
    (let x := ((chkReady 0).fset Fld.CHK_Uu_CTRL_BUSY 1 0).readAs 4 ((chkReady 0).chkSrc 0) ((chkReady 0).chkLen 0)
     x.1.2 = false ∧ checkValue ((chkReady 0).chkPoly 0) ((chkReady 0).chkRun 0) x.1.1 < 2 ^ 64) := by decide +kernel

theorem witness_CheckValueRuns_append : (chkReady 1).chkHeld 0 = false ∧ (chkReady 1).chkLegal 0 = true ∧ (chkReady 1).chkMode 0 = 1 ∧
    (((chkReady 1).fset Fld.CHK_Uu_CTRL_BUSY 1 0).readAs 4 ((chkReady 1).chkSrc 0) ((chkReady 1).chkLen 0)).1.2 = false := by decide

theorem witness_CheckValueRuns_strip : (chkReady 2).chkHeld 0 = false ∧ (chkReady 2).chkLegal 0 = true ∧ (chkReady 2).chkMode 0 = 2 ∧
    (let w := checkWidth ((chkReady 2).chkPoly 0)
     let x := ((chkReady 2).fset Fld.CHK_Uu_CTRL_BUSY 1 0).readAs 4 ((chkReady 2).chkSrc 0) ((chkReady 2).chkLen 0 + w)
     let run := checkValue ((chkReady 2).chkPoly 0) ((chkReady 2).chkRun 0) (x.1.1.take ((chkReady 2).chkLen 0))
     x.1.2 = false ∧ x.1.1.drop ((chkReady 2).chkLen 0) ≠ checkBytes ((chkReady 2).chkPoly 0) run) := by decide +kernel

theorem witness_CheckValueRuns_done :
    let s := (base.fset Fld.CHK_Uu_CTRL_BUSY 1 3).setChk 3 { owner := none, mismatch := true, poison := true }
    s.fbit Fld.CHK_Uu_CTRL_BUSY 3 = true ∧ (vget s.chk 3).mismatch = true ∧ (vget s.chk 3).poison = true := by decide

/-! ## Witnesses: the link layer -/

/-- A flit that is a whole message of VC 31 with FSEQ 0, and an IDLE flit that counts 2,047 credits of VC 31. -/
def data0 : Flit := mkFlit (flitHeader 1 true true 31 0 0 0 0) [1]
def idle0 : Flit := mkFlit (flitHeader 0 false false 0 0 0 31 2047) []

/-- A CTRL flit of a code with its bytes. -/
def ctl0 (b : List Byte) : Flit := mkFlit (flitHeader 2 false false 0 0 0 0 0) (padTo 244 b)

theorem witness_FlitsReceived_data : (inLnk base 0 6).portActive 0 = true ∧ flitWhole data0 = true ∧ Flit_kind data0 = 1 ∧
    flitReservedOk data0 = true ∧ Flit_vc data0 < numVcs 0 ∧ Flit_fseq data0 = (vget (inLnk base 0 6).ports 0).rxExp ∧ Flit_som data0 = true ∧
    Flit_eom data0 = true := by decide +kernel

theorem witness_FlitsReceived_part : flitWhole (mkFlit (flitHeader 1 true false 7 0 0 0 0) [1]) = true ∧
    Flit_kind (mkFlit (flitHeader 1 true false 7 0 0 0 0) [1]) = 1 ∧ flitReservedOk (mkFlit (flitHeader 1 true false 7 0 0 0 0) [1]) = true ∧
    Flit_vc (mkFlit (flitHeader 1 true false 7 0 0 0 0) [1]) < numVcs 9 ∧ Flit_eom (mkFlit (flitHeader 1 true false 7 0 0 0 0) [1]) = false ∧
    Flit_fseq (mkFlit (flitHeader 1 true false 7 0 0 0 0) [1]) = (vget (inLnk base 9 6).ports 9).rxExp := by decide +kernel

theorem witness_FlitsReceived_order : (inLnk base 9 6).portActive 9 = true ∧ flitWhole (mkFlit (flitHeader 1 true true 7 4095 0 0 0) [1]) = true ∧
    Flit_kind (mkFlit (flitHeader 1 true true 7 4095 0 0 0) [1]) = 1 ∧ flitReservedOk (mkFlit (flitHeader 1 true true 7 4095 0 0 0) [1]) = true ∧
    Flit_vc (mkFlit (flitHeader 1 true true 7 4095 0 0 0) [1]) < numVcs 9 ∧
    Flit_fseq (mkFlit (flitHeader 1 true true 7 4095 0 0 0) [1]) ≠ (vget (inLnk base 9 6).ports 9).rxExp := by decide +kernel

theorem witness_FlitsReceived_bad : (inLnk base 9 6).portActive 9 = true ∧ flitWhole ({ data0 with fecOk := false } : Flit) = false ∧
    (vget (inLnk base 9 6).ports 9).gap = false := by decide +kernel

/-- A port in ACTIVE with one unacknowledged flit, an open gap and n replays. -/
def retrying (n : Nat) : State :=
  (inLnk base 9 6).modPort 9 (fun x => { x with retry := [(5, { vc := 0, som := true, eom := true, fwd := false, payload := [] })], gap := true, replays := n })

theorem witness_FlitsReceived_idle : (inLnk base 0 6).portActive 0 = true ∧ flitWhole idle0 = true ∧ Flit_kind idle0 = 0 ∧
    flitReservedOk idle0 = true ∧ (vget (retrying 3).ports 9).retry.any (fun e => e.1 == Flit_ackseq (mkFlit (flitHeader 0 false false 0 0 5 0 0) [])) = true := by
  decide +kernel

theorem witness_Retries_nak (n : Nat) (h : n = 0 ∨ n = 255) :
    (retrying n).portActive 9 = true ∧ flitWhole (ctl0 [1, 5, 0]) = true ∧ Flit_kind (ctl0 [1, 5, 0]) = 2 ∧ flitReservedOk (ctl0 [1, 5, 0]) = true ∧
    fieldAt (ctl0 [1, 5, 0]).payload 0 1 = 1 ∧
    ((vget ((retrying n).ackHeader 9 (ctl0 [1, 5, 0])).ports 9).retry.find? (fun e => e.1 == fieldAt (ctl0 [1, 5, 0]).payload 1 2 % 4096)).isSome = true ∧
    (if n = 0 then (vget ((retrying n).ackHeader 9 (ctl0 [1, 5, 0])).ports 9).replays < (retrying n).fget Fld.LNK_CFG_REPLAY_MAX
     else (retrying n).fget Fld.LNK_CFG_REPLAY_MAX ≤ (vget ((retrying n).ackHeader 9 (ctl0 [1, 5, 0])).ports 9).replays) := by
  rcases h with rfl | rfl <;> decide +kernel

theorem witness_Retries : (retrying 0).portActive 9 = true ∧
    (vget (retrying 0).ports 9).gap = true ∧ ((vget (retrying 0).ports 9).retry.head?).isSome = true ∧ (vget (retrying 0).ports 9).retry ≠ [] ∧
    (vget (retrying 0).ports 9).replays < (retrying 0).fget Fld.LNK_CFG_REPLAY_MAX ∧
    (retrying 255).fget Fld.LNK_CFG_REPLAY_MAX ≤ (vget (retrying 255).ports 9).replays := by decide

theorem witness_RetrainEntered_req : (inLnk base 0 6).portActive 0 = true ∧ flitWhole (ctl0 [4, 0x0F, 3]) = true ∧ Flit_kind (ctl0 [4, 0x0F, 3]) = 2 ∧
    flitReservedOk (ctl0 [4, 0x0F, 3]) = true ∧ fieldAt (ctl0 [4, 0x0F, 3]).payload 0 1 = 4 := by decide +kernel

/-- Measurements of eight lanes of which the first n have lost lock. -/
def lostLanes (n : Nat) : List LaneMeas := (List.range 8).map (fun l => ⟨n ≤ l, 0, 255⟩)

theorem witness_RetrainEntered_lanes :
    let s := (inLnk base 0 6).fset Fld.LNK_Pp_STATE_LANES 255 0
    let bad (n : Nat) : Nat := lanesWhere 255 (lostLanes n) (laneBad (s.fget Fld.LNK_Pp_STATE_GEN 0) (s.fget Fld.LNK_Pp_CTRL_SER_EXP 0))
    s.portActive 0 = true ∧ s.fget Fld.LNK_Pp_STATE_LANES 0 = 255 ∧ bad 0 = 0 ∧ bad 8 ≠ 0 ∧ lanesWhere 255 (lostLanes 8) (fun m => !m.lock) = 255 ∧
    bad 3 ≠ 0 ∧ lanesWhere 255 (lostLanes 3) (fun m => !m.lock) ≠ 255 ∧ bitOf 255 7 = true ∧ (lostLanes 3)[7]? = some ⟨true, 0, 255⟩ := by decide +kernel

/-- Port E0 enabled, in a training state. -/
def training (st : Nat) : State := (inLnk base 6 st).fset Fld.LNK_Pp_CTRL_ENABLE 1 6

/-- An identity record of an adapter. -/
def ident : Identity := { (default : Identity) with version := 1, role := 3, gen := 1, serial := 2 ^ 64 - 1, valid := true }

theorem witness_TrainingPhases_detect : (training 0).portState 6 = 0 ∧ (training 0).mayTrain 6 = true ∧ (training 1).mayTrain 6 = true ∧
    (training 1).portState 6 = 1 ∧ 1 &&& (training 1).laneEn 6 ≠ 0 := by decide

theorem witness_TrainingPhases_identify : (training 2).listens 6 = true ∧ ident.valid = true ∧ ident.version = 1 ∧
    ident.role = (if 6 < 6 then 1 else 3) ∧ ident.serial < 2 ^ 64 ∧ (training 3).portState 6 = 3 := by decide

theorem witness_TrainingPhases_role : (training 2).listens 6 = true ∧ ({ ident with role := 2 } : Identity).role ≠ (if 6 < 6 then 1 else 3) ∧
    (vget (training 2).ports 6).roleSaid = false ∧ (training 2).portState 6 = 2 ∧ evRoom (training 2).evr.buf.length 2 = true ∧
    (vget ((training 2).modPort 6 (fun x => { x with roleSaid := true })).ports 6).roleSaid = true := by decide

theorem witness_TrainingPhases_verify :
    let s := (training 4).modPort 6 (fun x => { x with gen := 1, lockLanes := 255, farLanes := 255, eqTries := 0 })
    s.portState 6 = 4 ∧ (widths 6 (vget s.ports 6).gen).find?
      (fun w => w ≤ (setBits 8 (255 &&& ((vget s.ports 6).lockLanes &&& (vget s.ports 6).farLanes))).length) = some 4 ∧
    (vget s.ports 6).eqTries = 0 ∧ (vget s.ports 6).gen ≤ 1 ∧ (widths 6 (vget s.ports 6).gen).find?
      (fun w => w ≤ (setBits 8 (0 &&& ((vget s.ports 6).lockLanes &&& (vget s.ports 6).farLanes))).length) = none := by decide

theorem witness_TrainingPhases_fallback :
    let s := (training 4).modPort 6 (fun x => { x with gen := 3, lockLanes := 1, farLanes := 255, eqTries := 1 })
    s.portState 6 = 4 ∧ (widths 6 (vget s.ports 6).gen).find?
      (fun w => w ≤ (setBits 8 (1 &&& ((vget s.ports 6).lockLanes &&& (vget s.ports 6).farLanes))).length) = none ∧
    (vget s.ports 6).eqTries ≠ 0 ∧ 1 < (vget s.ports 6).gen := by decide

theorem witness_AlignEnds :
    let s := (training 5).modPort 6 (fun x => { x with session := true, lanesIn := 15, oldWidth := 4, gen := 2, oldGen := 3 })
    s.portState 6 = 5 ∧ (vget s.ports 6).session = true ∧ (vget s.ports 6).lanesIn < 256 ∧ (vget s.ports 6).gen < 4 ∧
    (vget s.ports 6).gen ≠ (vget s.ports 6).oldGen ∧ (vget (training 5).ports 6).session = false ∧ (vget (training 5).ports 6).lanesIn < 256 ∧
    (vget (training 5).ports 6).gen < 4 ∧ evRoom (training 5).evr.buf.length 0 = true := by decide

/-- Port E3 in RETRAIN of a session, n retrains long. -/
def retraining (n : Nat) : State := (inLnk base 9 7).modPort 9 (fun x => { x with session := true, retrains := n })

theorem witness_LinkDownAndFail_down : 2 ≤ (retraining 1).portState 9 ∧ (retraining 1).portState 9 ≤ 7 ∧
    (∀ n ∈ [1, 2], (vget (retraining n).ports 9).session = true ∧ (retraining n).portState 9 ≠ 0 ∧ (retraining n).portState 9 ≠ 6 ∧
      (retraining n).portState 9 ≠ 8 ∧ (vget (retraining n).ports 9).retrains = n) := by decide

theorem witness_LinkDownAndFail_rx : (inLnk base 0 6).portActive 0 = true ∧ flitWhole (ctl0 [2, 5]) = true ∧ Flit_kind (ctl0 [2, 5]) = 2 ∧
    flitReservedOk (ctl0 [2, 5]) = true ∧ fieldAt (ctl0 [2, 5]).payload 0 1 = 2 ∧ flitWhole { ctl0 [2, 5] with fecOk := false } = false := by decide +kernel

theorem witness_LinkDownAndFail_fail : wGet (5 : Word) 7 0 = 5 ∧ base.fget Fld.LNK_FAIL_CMD_REASON ≠ 5 ∧ wGet (0x104 : Word) 7 0 ≠ 5 ∧
    ∀ p : PortId, (vget base.ports p).heldFail = 0 := by decide

theorem witness_LinkDownAndFail_enable : base.fget Fld.LNK_Pp_CTRL_ENABLE 6 = 0 ∧ base.portState 6 = 0 ∧ wGet (1 : Word) 0 0 = 1 ∧
    wGet (1 : Word) 3 3 = 0 ∧ base.portUnused 6 = false ∧ (vget base.ports 6).heldFail = 0 ∧ base.boot.jtagHeld = false ∧
    (training 6).fget Fld.LNK_Pp_CTRL_ENABLE 6 = 1 ∧ wGet (0 : Word) 0 0 = 0 ∧ wGet (0 : Word) 3 3 = 0 := by decide

/-! ## Witnesses: register accesses, locks and queues -/

theorem witness_AccessErrors_bad : 16 ≠ 32 ∧ (base.target .mgc 0x30).1 = .bad ∧ base.target .mgc 0x30 = (.bad, 4) ∧
    base.target (.part 3) (globAddr .GLB_BOOT 0 0) = (.bad, 3) ∧ (base.target (.part 3) (viewAddr 3 .CMD_STATUS 0)).1 ≠ .bad := by decide

theorem witness_AccessErrors_hidden : base.target (.part 1) (viewAddr 1 .ING_STRn_STATE 0) = (.hidden, 1) := by decide +kernel

/-- The field of the queue's wait limit, as an example of one that software writes. -/
theorem witness_RegisterWrites_field : ∃ f ∈ RegName.CMD_Qn_WAIT_LIMIT.spec.fields, f.writable = true ∧ loud .CMD_Qn_WAIT_LIMIT = false ∧
    RegName.CMD_Qn_WAIT_LIMIT ≠ .BLK_ERR ∧ RegName.CMD_Qn_WAIT_LIMIT ≠ .GLB_CLAMP_HEAD := by decide

theorem witness_RegisterWrites_write : base.target (.part 2) (viewAddr 2 .NUM_ARITH_CFG 0) = (.reg .NUM_ARITH_CFG 0 2, 2) ∧
    base.target (.part 2) (viewAddr 2 .TIER_CFG 0) = (.reg .TIER_CFG 0 2, 2) ∧
    base.target (.part 2) (viewAddr 2 .EUT_NOTE_CFG 0) = (.reg .EUT_NOTE_CFG 0 2, 2) := by decide +kernel

theorem witness_RegisterWrites_foreign : base.target (.part 0) (globAddr .NUM_ARITH_CFG 0 1) = (.reg .NUM_ARITH_CFG 0 1, 4) ∧
    RegName.NUM_ARITH_CFG ≠ .PWR_ALLOW ∧ base.foreign .NUM_ARITH_CFG 0 1 = true := by decide +kernel

theorem witness_Shadows : base.target (.part 2) (viewAddr 2 .NUM_SR_SEED_LO 0) = (.reg .NUM_SR_SEED_LO 0 2, 2) ∧
    RegName.NUM_SR_SEED_LO.spec.pair = .lo .NUM_SR_SEED_HI ∧
    base.target (.part 2) (viewAddr 2 .NUM_SR_SEED_HI 0) = (.reg .NUM_SR_SEED_HI 0 2, 2) ∧
    RegName.NUM_SR_SEED_HI.spec.pair = .hi .NUM_SR_SEED_LO ∧ 4 ≠ reqIdx (.part 2) := by decide +kernel

theorem witness_Staging : base.target (.part 2) (viewAddr 2 .NUM_SR_SEED_LO 0) = (.reg .NUM_SR_SEED_LO 0 2, 2) ∧
    RegName.NUM_SR_SEED_LO.spec.pair = .lo .NUM_SR_SEED_HI ∧ RegName.NUM_SR_SEED_LO.writable = true ∧ isSq .NUM_SR_SEED_LO = false ∧
    viewReadOnly .NUM_SR_SEED_LO = false ∧ base.target (.part 2) (viewAddr 2 .NUM_SR_SEED_HI 0) = (.reg .NUM_SR_SEED_HI 0 2, 2) := by
  decide +kernel

theorem witness_SequenceClear : base.target (.part 1) (viewAddr 1 .CMD_STATUS 0) = (.reg .CMD_STATUS 0 1, 1) ∧ isSq .CMD_STATUS = true ∧
    ¬ (1 = 4 ∧ Requester.part 1 ≠ .mgc ∧ RegName.CMD_STATUS ≠ .PWR_ALLOW ∧ base.foreign .CMD_STATUS 0 1 = true) ∧
    wGet (1 : Word) 31 24 = wGet (base.rd .CMD_STATUS 0 1) 31 24 ∧ wGet (0x01000001 : Word) 31 24 ≠ wGet (base.rd .CMD_STATUS 0 1) 31 24 := by
  decide +kernel

/-- A queue whose HEAD and TAIL stand before the wrap of the count. -/
def wrapping : State := ((base.fset Fld.CMD_Qn_CTRL_LOG2_SLOTS 6 63 3).wr .CMD_Qn_HEAD 63 3 0xFFFFFFFE).wr .CMD_Qn_TAIL 63 3 0xFFFFFFFF

theorem witness_TailDoorbell_accepted : (62 : Word) - wrapping.rd .CMD_Qn_HEAD 63 3 ≥ wrapping.rd .CMD_Qn_TAIL 63 3 - wrapping.rd .CMD_Qn_HEAD 63 3 ∧
    ((62 : Word) - wrapping.rd .CMD_Qn_HEAD 63 3).toNat ≤ wrapping.ringSlots 3 63 ∧
    (0xFFFFFFFF : Word) - wrapping.rd .CMD_Qn_HEAD 63 3 ≥ wrapping.rd .CMD_Qn_TAIL 63 3 - wrapping.rd .CMD_Qn_HEAD 63 3 := by decide

theorem witness_TailDoorbell_refused : ¬ ((63 : Word) - wrapping.rd .CMD_Qn_HEAD 63 3 ≥ wrapping.rd .CMD_Qn_TAIL 63 3 - wrapping.rd .CMD_Qn_HEAD 63 3 ∧
    ((63 : Word) - wrapping.rd .CMD_Qn_HEAD 63 3).toNat ≤ wrapping.ringSlots 3 63) ∧
    ¬ ((0xFFFFFFFE : Word) - wrapping.rd .CMD_Qn_HEAD 63 3 ≥ wrapping.rd .CMD_Qn_TAIL 63 3 - wrapping.rd .CMD_Qn_HEAD 63 3 ∧
    ((0xFFFFFFFE : Word) - wrapping.rd .CMD_Qn_HEAD 63 3).toNat ≤ wrapping.ringSlots 3 63) := by decide

theorem witness_Locks_reset : (Requester.mgc = .mgc ∨ Requester.mgc = .part 0) ∧ base.boot.resetting = none := by decide

/-- A command with a wait on lock 4,095 (WAIT0_EN is flag 1). -/
def waiting0 : Cmd := run0 ([0, 0, 2, 0, 255, 15, 0, 0, 0, 0, 0, 0, 0, 0, 0, 0] ++ List.replicate 48 0) []

/-- One with a wait on lock 4,095 by WAIT1, and one that signals lock 4,095 by 1 (flags 2 and 3). -/
def waiting1 : Cmd := run0 ([0, 0, 4, 0, 0, 0, 255, 15, 0, 0, 0, 0, 0, 0, 0, 0] ++ List.replicate 48 0) []

theorem witness_Locks_wait : cW0En waiting0 = true ∧ waiting0.w0 = false ∧ cW1En waiting1 = true ∧ waiting1.w1 = false := by decide

theorem witness_Locks_signal : ∃ c : Cmd, cSigEn c = true := ⟨run0 (List.replicate 64 255) [], by decide⟩

theorem witness_Locks_add : (base.lockSet 3 4095 (2 ^ 32 - 2)).lock 3 4095 + (1 : Word).toNat < 2 ^ 32 ∧
    2 ^ 32 ≤ (base.lockSet 3 4095 (2 ^ 32 - 2)).lock 3 4095 + (2 : Word).toNat ∧ evRoom base.evr.buf.length 1 = true := by decide

/-! ## Witnesses: resets, bring-up, firmware, attestation, the board's bus -/

theorem witness_ColdAndWarmReset : base.resetHeld = false ∧ base.pwr.powerFail = false ∧ base.pins.pwrFailN = true ∧ base.pins.porstN = true ∧
    base.boot.jtagHeld = false ∧ loud .CMD_STATUS = false ∧ RegName.CMD_STATUS ≠ .GLB_BOOT ∧ RegName.CMD_STATUS ≠ .GLB_STRAPS ∧
    RegName.CMD_STATUS ≠ .EVR_LOW_LO ∧ RegName.CMD_STATUS ≠ .EVR_LOW_HI ∧ RegName.CMD_STATUS ≠ .VEC_Vn_STATE ∧ RegName.CMD_STATUS ≠ .LNK_Pp_STATE ∧ RegName.CMD_STATUS ≠ .CHK_Uu_CTRL ∧
    RegName.CMD_STATUS ≠ .HBM_MARGIN_CTRL := by decide

theorem witness_ColdAndWarmReset_held :
    ({ base with pwr := { base.pwr with critDie := true, quadTemp := Vector.replicate 8 95 } } : State).resetHeld = true ∧
    (({ base with pwr := { base.pwr with critHold := true } } : State).fset Fld.HBM_STACKn_TEMP_TEMP 95 7).resetHeld = true ∧
    ({ base with boot := { base.boot with jtagHeld := true } } : State).boot.jtagHeld = true := by decide

theorem witness_PartitionReset : base.boot.resetting = none ∧ base.eut.waiting = [] ∧
    ({ base with boot := { base.boot with resetting := some (2, .mgc, true) } } : State).boot.resetting.isSome = true ∧ (Requester.part 0 = .mgc ∨ Requester.part 0 = .part 0) ∧ (3 : Part) ≠ 0 ∧
    RegName.NUM_ARITH_CFG.spec.dom = .part ∧ RegName.NUM_ARITH_CFG.spec.scope = .part ∧ loud .NUM_ARITH_CFG = false ∧ (3 : Part).val ≠ 0 := by decide

theorem witness_PinEvents : ({ base with pins := { base.pins with pwrFailN := false } } : State).pins.pwrFailN = false ∧
    base.pins.porstN = true ∧ ({ base with pins := { base.pins with porstN := false } } : State).pins.porstN = false ∧
    evRoom base.evr.buf.length 3 = true := by decide

/-- A state in a phase of bring-up. -/
def inBoot (n : Nat) : State := base.fset Fld.GLB_BOOT_STATE n

theorem witness_EarlyPhases : State.reset.inPhase 0 = true ∧ (inBoot 1).inPhase 1 = true ∧ (inBoot 2).inPhase 2 = true ∧
    (inBoot 3).inPhase 3 = true ∧ (inBoot 4).inPhase 4 = true ∧ (inBoot 1).inPhase 0 = false ∧ (inBoot 4).fastOk = false := by decide

theorem witness_EarlyPhases_sram : ∀ x ∈ [SramDefect.bank 0 65, .macroRows 3 false], ∀ m, x ≠ SramDefect.macroRows m true := by
  simp

theorem witness_EarlyPhases_fast : ∃ s : State, s.inPhase 4 = true ∧ s.fastOk = true := by
  refine ⟨{ inBoot 4 with flash := { (inBoot 4).flash with qual := { (inBoot 4).flash.qual with
    valid := true, hmcMeas := (inBoot 4).hmcMeasure } } }, by decide, ?_⟩
  rw [State.fastOk, Bool.and_eq_true, Bool.and_eq_true]
  exact ⟨⟨by decide +kernel, beq_self_eq_true _⟩, by decide +kernel⟩

/-- An empty region holds no image that verifies. -/
theorem imageFault_empty (s : State) (c : Fin 6) : s.imageFault c [] ≠ 0 := by
  have h : (fieldAt ([] : List Byte) 0 4 == 0x57465653) = false := by decide
  simp only [State.imageFault, h, Bool.false_and, Bool.not_false, b2n]
  simp only [if_true]
  omega

theorem witness_EarlyPhases_recovery : State.reset.judge.boot.recovery = true := by
  have h : ∀ (s : State) (slots : List Nat), s.flash = FlashSt.erased → (∀ c < 6, slots.getD c 0 = 0) →
      (List.finRange 6).find? (fun c => s.imageFault c (s.classImage (slots.getD c.val 0) c.val) != 0) = some 0 := by
    intro s slots hf hs
    have e : s.classImage (slots.getD (0 : Fin 6).val 0) (0 : Fin 6).val = [] := by
      have h0 : slots.getD (0 : Fin 6).val 0 = 0 := hs 0 (by omega)
      rw [h0, State.classImage, hf]; rfl
    rw [show List.finRange 6 = 0 :: [1, 2, 3, 4, 5] from rfl, List.find?_cons_of_pos]
    rw [e]
    simpa using imageFault_empty s 0
  have hj : (List.finRange 6).foldl (fun s c => s.judgePending c) State.reset = State.reset := by
    rfl
  have hl : (List.range 6).map (fun c => (State.reset.classRec c).lkg) = [0, 0, 0, 0, 0, 0] := by decide
  have hb := h State.reset [0, 0, 0, 0, 0, 0] rfl (by decide)
  have hc : (List.range 6).map (fun c => State.reset.candidateSlot c) = [0, 0, 0, 0, 0, 0] := by decide
  have ha : (List.finRange 6).any (fun c => State.reset.imageFault c (State.reset.classImage (([0, 0, 0, 0, 0, 0] : List Nat).getD c.val 0) c.val) != 0) = true := by
    rw [List.any_eq_true]
    exact ⟨0, List.mem_of_find?_eq_some hb, by
      simpa [show State.reset.classImage 0 0 = [] from rfl] using imageFault_empty State.reset 0⟩
  simp only [State.judge, hj, hc, ha, if_true, State.bootLkg, hl, hb]

theorem witness_LatePhases : (inBoot 5).inPhase 5 = true ∧ (∀ p : PortId,
    ((inBoot 5).fset Fld.GLB_FEATURES_VARIANT 0).mayTrain p = true → ((inBoot 5).fset Fld.GLB_FEATURES_VARIANT 0).portActive p.val = true) ∧
    ((inBoot 5).fset Fld.GLB_FEATURES_VARIANT 0).inPhase 5 = true ∧ ((inBoot 5).fset Fld.GLB_FEATURES_VARIANT 0).licensed = true ∧
    (inBoot 5).licensed = false ∧ (inBoot 6).inPhase 6 = true := by decide

theorem witness_LatePhases_topology : (inBoot 7).inPhase 7 = true ∧ (inBoot 7).disagreements = [] ∧ (inBoot 7).partitionRule = false := by decide

theorem witness_LatePhases_held :
    let s : State := { inBoot 7 with boot := { base.boot with img := { ownImage with
      parts := ownImage.parts.map (fun p => { p with ports := 0 }), torus := { ownImage.torus with slotExpect := 5 } } } }
    s.inPhase 7 = true ∧ s.disagreements ≠ [] ∧ s.partitionRule = true := by decide

theorem witness_Staged_busy : wGet (0x108 : Word) 8 8 = 1 ∧ (base.fset Fld.SEC_STAGE_CTRL_BUSY 1).fbit Fld.SEC_STAGE_CTRL_BUSY = true := by decide

theorem witness_Staged_start :
    let s := base.fset Fld.SEC_STAGE_LEN_LEN 1
    let s1 := s.fieldWrite 4 .SEC_STAGE_CTRL 0 0 0x138 stageCross
    let len := s1.fget Fld.SEC_STAGE_LEN_LEN
    let x := s1.readAs 4 s1.stageAddr len
    wGet (0x138 : Word) 8 8 = 1 ∧ s.fbit Fld.SEC_STAGE_CTRL_BUSY = false ∧ (s1.bootState = 8 ∨ s1.bootState = 9) ∧
    s1.fget Fld.SEC_STAGE_CTRL_TARGET = 8 ∧ 1 ≤ len ∧ len ≤ stageRegion 8 ∧ s1.stageSourceOk s1.stageAddr len = true ∧ x.1.2 = false := by decide +kernel

theorem witness_Staged_class :
    let s := base.fset Fld.SEC_STAGE_LEN_LEN 1
    let s1 := s.fieldWrite 4 .SEC_STAGE_CTRL 0 0 0x100 stageCross
    let x := s1.readAs 4 s1.stageAddr 1
    s1.bootState = 8 ∧ s1.fget Fld.SEC_STAGE_CTRL_TARGET = 0 ∧ s1.fget Fld.SEC_STAGE_LEN_LEN = 1 ∧ 1 ≤ stageRegion 0 ∧
    s1.stageSourceOk s1.stageAddr 1 = true ∧ x.1.2 = false ∧ fieldAt x.1.1 4 1 = 0 := by decide +kernel

theorem witness_Staged_done : ({ base with boot := { base.boot with staging := some (5, 0) } } : State).boot.staging = some (5, 0) ∧ 5 < 6 ∧
    5 < base.dir.recs.length ∧ base.flash.dirs.length = 2 := by decide

theorem witness_Staged_settings : base.boot.setInUse < 2 ∧ base.flash.settings.length = 2 ∧ base.flash.svnRaised.length = 6 := by decide

theorem witness_Attestation : base.fbit Fld.SEC_ATTEST_CTRL_BUSY 0 (viewIdx .glob) = false ∧
    (base.fset Fld.SEC_ATTEST_CTRL_BUSY 1 0 (viewIdx .glob)).fbit Fld.SEC_ATTEST_CTRL_BUSY 0 (viewIdx .glob) = true ∧
    (base.attestGo 4).boot.attest = 4 :: [] ∧ 8 ≤ (base.attestGo 4).bootState := by decide

/-- Offsets in the global window. -/
def offOf (r : RegName) (inst : Nat) : Nat := globAddr r inst 0 - globBase

theorem witness_BoardBus_write : base.pins.porstN = true ∧
    base.i3cTarget (BitVec.ofNat 32 (offOf .PWR_COOLANT 0)).toNat = .reg .PWR_COOLANT 0 0 ∧
    base.i3cTarget (BitVec.ofNat 32 (offOf .GLB_BMC_CTRL 0)).toNat = .reg .GLB_BMC_CTRL 0 0 ∧ wGet (0xA501 : Word) 15 8 = 0xA5 ∧
    wGet (1 : Word) 15 8 ≠ 0xA5 ∧ ({ base with pins := { base.pins with porstN := false } } : State).pins.porstN = false ∧
    wGet (0xA501 : Word) 0 0 = 1 := by decide +kernel

theorem witness_BoardBus_other : base.i3cTarget 0 = .reg .BLK_ID 0 0 := by decide +kernel

theorem witness_BoardBus_read :
    let s := after (.i3cSetAddress (BitVec.ofNat 32 (offOf .GLB_SERIAL_LO 0))) base
    s.pins.porstN = true ∧ s.i3cTarget s.pins.i3cAddr = .reg .GLB_SERIAL_LO 0 0 ∧ s.i3cTarget (s.pins.i3cAddr + 4) = .reg .GLB_SERIAL_HI 0 0 ∧
    RegName.GLB_SERIAL_LO.spec.pair = .lo .GLB_SERIAL_HI ∧ RegName.BLK_ID.spec.pair = .single := by decide +kernel

/-! ## Witnesses: queues and commands -/

theorem witness_QueueControl : base.qRunning 0 0 = false ∧ (running 0 0 0 []).qRunning 0 0 = true := by decide

/-- A command behind the first one, and one that has ended its operation. -/
def second : Cmd := { run0 (cmdBytes 0 0 0 []) [] with slot := 1, phase := .waiting }
def ended0 : Cmd := { theCmd 0 0 0 [] with finished := true }

theorem witness_CommandEnds_complete : ((withCmd base ended0).queue 0 0).aborting = false ∧ (base.queue 3 63).aborting = false := by decide

theorem witness_CommandEnds_stop :
    let c : Cmd := { theCmd 0x20 0 0 [] with stop := 0x0207 }
    (withCmd base c).live = true ∧ (withCmd base c).cmdAt 0 0 0 = some c ∧ c.phase = .running ∧ c.finished = false ∧ c.stop ≠ 0 ∧
    (withCmd base c).inTile ref0 = false ∧ base.cmdAt 0 0 0 = none ∧ State.reset.live = false := by decide

theorem witness_CommandEnds : ((base.setQueue 0 0 { cmds := [ended0, second], aborting := false }).queue 0 0).cmds = ended0 :: [second] ∧
    ((base.setQueue 0 0 { cmds := [ended0, second], aborting := false }).queue 0 0).aborting = false ∧ ended0.slot = ref0.slot ∧
    (∀ x ∈ [second], x.slot ≠ ended0.slot ∧ x.phase ≠ .done) ∧ (base.setQueue 0 0 { cmds := [ended0, second], aborting := false }).live = true ∧
    (base.setQueue 0 0 { cmds := [ended0, second], aborting := false }).cmdAt 0 0 0 = some ended0 ∧ ended0.phase = .running ∧ ended0.finished = true ∧ cOpcode ended0 ≠ 0x32 ∧ base.endStatus ended0 = 0 ∧
    base.endStatus { ended0 with fail := 0x0205 } ≠ 0 := by decide

/-- A NOP that waits at the front of queue 0: with WAIT0_EN and a value of 1, or without, or with an energy hint of 10 µJ. -/
def waitNop (fl hint : Nat) : Cmd :=
  { run0 (leBytes 2 0 ++ [BitVec.ofNat 8 fl, 0] ++ leBytes 4 0 ++ leBytes 4 1 ++ leBytes 6 0 ++ leBytes 2 hint ++ List.replicate 44 0) [] with phase := .waiting }
def startable (c : Cmd) : State := (withCmd base c).fset Fld.CMD_Qn_CTRL_ENABLE 1 0 0

theorem witness_CommandEnds_wait :
    let s := (startable (waitNop 2 1)).fset Fld.CMD_Qn_WAIT_LIMIT_LIMIT_MS 1 0 0
    s.qStarts 0 0 = true ∧ s.fget Fld.CMD_Qn_WAIT_LIMIT_LIMIT_MS 0 0 ≠ 0 ∧ (s.fetchNext 0 0).front 0 0 = some (waitNop 2 1) ∧
    (s.fetchNext 0 0).orderMet 0 0 (waitNop 2 1) = true ∧ (waitNop 2 1).firstOk = true ∧
    ((s.fetchNext 0 0).latchWaits 0 (waitNop 2 1)).w0 = false := by decide

/-- With STOP set, without a limit, with no command, and with the front command behind one that runs without OVERLAP. -/
theorem witness_CommandEnds_held :
    let s := (startable (waitNop 2 1)).fset Fld.CMD_Qn_WAIT_LIMIT_LIMIT_MS 1 0 0
    let busy := ((s.setQueue 0 0 { cmds := [theCmd 0 0 0 [], { waitNop 2 1 with slot := 1 }], aborting := false }).fset Fld.CMD_Qn_CTRL_ENABLE 1 0 0)
    base.qStarts 0 0 = false ∧ (startable (waitNop 2 1)).fget Fld.CMD_Qn_WAIT_LIMIT_LIMIT_MS 0 0 = 0 ∧
    ((s.setQueue 0 0 { cmds := [], aborting := false }).fetchNext 0 0).front 0 0 = none ∧
    (busy.fetchNext 0 0).front 0 0 = some { waitNop 2 1 with slot := 1 } ∧ (busy.fetchNext 0 0).orderMet 0 0 { waitNop 2 1 with slot := 1 } = false ∧
    ((s.lockSet 0 0 5).fetchNext 0 0).front 0 0 = some (waitNop 2 1) ∧ (((s.lockSet 0 0 5).fetchNext 0 0).latchWaits 0 (waitNop 2 1)).w0 = true ∧
    (((s.lockSet 0 0 5).fetchNext 0 0).latchWaits 0 (waitNop 2 1)).w1 = true ∧ cEpochChk (waitNop 2 1) = false := by decide +kernel

/-- A DECODE of stream 7 that stood unread when the stream was closed. -/
theorem witness_CommandStarts_closed :
    let c : Cmd := { run0 (cmdBytes 0x41 0 0 [7, 0]) [] with phase := .waiting }
    let s := (base.setQueue 0 0 { cmds := [c], aborting := false, closed := [(7, 2)] }).fset Fld.CMD_Qn_CTRL_ENABLE 1 0 0
    s.qStarts 0 0 = true ∧ (s.fetchNext 0 0).front 0 0 = some c ∧ (s.fetchNext 0 0).closedFor 0 0 c = true := by decide +kernel

/-- A command whose first slot could not be read, and one whose epoch is behind (EPOCH_CHK is flag 4). -/
theorem witness_CommandStarts_unread :
    let c : Cmd := { waitNop 0 1 with firstOk := false, readable := 0x0202 }
    let e : Cmd := { run0 ([0, 0, 0x10] ++ List.replicate 61 0) [] with phase := .waiting }
    let s0 := (startable e).fset Fld.PER_GRPg_EPOCH_EPOCH 9 0
    let s2 := s0.setCmd 0 0 (s0.latchWaits 0 e)
    (startable c).qStarts 0 0 = true ∧ ((startable c).fetchNext 0 0).front 0 0 = some c ∧ ((startable c).fetchNext 0 0).closedFor 0 0 c = false ∧
    ((startable c).fetchNext 0 0).orderMet 0 0 c = true ∧ c.firstOk = false ∧ s2.qStarts 0 0 = true ∧ s2.staleNow (s0.latchWaits 0 e) = true := by
  decide +kernel

theorem witness_CommandStarts :
    let s := (startable (waitNop 0 1)).wr .PWR_ALLOW 0 0 0
    let c := waitNop 0 1
    let s1 := s.fetchNext 0 0
    let d := s1.latchWaits 0 c
    let x := (s1.setCmd 0 0 d).step4 0 0 d
    base.qStarts 0 0 = false ∧ s.qStarts 0 0 = true ∧ s1.front 0 0 = some c ∧ s1.closedFor 0 0 c = false ∧ s1.orderMet 0 0 c = true ∧
    c.firstOk = true ∧ d.w0 = true ∧ d.w1 = true ∧ cEpochChk c = false ∧ (s1.setCmd 0 0 d).staleNow d = false ∧ x.2.1 = 0 ∧ x.1.allowW 0 = 0 := by decide +kernel

/-- The same with a reserved OPARG fails its check. -/
theorem witness_CommandStarts_check :
    let c : Cmd := { run0 (cmdBytes 0 1 0 []) [] with phase := .waiting }
    let s := startable c
    let s1 := s.fetchNext 0 0
    let d := s1.latchWaits 0 c
    s.qStarts 0 0 = true ∧ s1.front 0 0 = some c ∧ s1.closedFor 0 0 c = false ∧ s1.orderMet 0 0 c = true ∧ c.firstOk = true ∧ d.w0 = true ∧ d.w1 = true ∧
    (s1.setCmd 0 0 d).staleNow d = false ∧ ((s1.setCmd 0 0 d).step4 0 0 d).2.1 ≠ 0 := by decide +kernel

theorem witness_CommandStarts_energy :
    let c := { waitNop 0 1 with phase := .admitting }
    let s := (startable c).fset Fld.PWR_ALLOW_ALLOW_W 1 0 0
    let z : State := { s with pwr := { s.pwr with bal := Vector.replicate 4 9 } }
    s.qStarts 0 0 = true ∧ s.allowW 0 ≠ 0 ∧ (s.queue 0 0).cmds.find? (fun x => x.phase == .admitting) = some c ∧ s.admissionBefore 0 0 = false ∧
    (s.hPrime 0 c : Int) ≤ vget s.pwr.bal 0 ∧ z.qStarts 0 0 = true ∧ z.allowW 0 ≠ 0 ∧
    (z.queue 0 0).cmds.find? (fun x => x.phase == .admitting) = some c ∧ vget z.pwr.bal 0 < z.hPrime 0 c := by decide

theorem witness_PlainCommands : (running 0 0 0 []).running ref0 0 = some (theCmd 0 0 0 []) ∧
    (running 1 4095 0 []).running ref0 1 = some (theCmd 1 4095 0 []) ∧ base.running ref0 0 = none ∧ base.running ref0 1 = none := by decide

/-! ## Witnesses: memory tiers -/

/-- An object of 4 KiB at a home address. -/
def obj0 (home : Nat) : TierObj := { parseObj [] with home := home, size := 4096, valid := true }

/-- A machine whose partition 0 has that object as number 7, with T0 and T1 areas for its copies. -/
def withObj (s : State) (o : TierObj) : State :=
  (((s.fset Fld.TIER_CFG_T0_AREA_MIB 80 0 0).fset Fld.TIER_CFG_T1_AREA_GIB 1 0 0).setObj 0 7 o)

theorem witness_ObjectTable_load :
    let s := base.wr64 .TIER_OBJT_BASE_LO .TIER_OBJT_BASE_HI hbmBase 0 0
    (vget s.tier 0).objs.all (fun e => s.objIdle 0 e.2) = true ∧ s.objtOwned 0 = true ∧
    (vget (withObj base { obj0 hbmBase with state := 2 }).tier 0).objs.all (fun e => (withObj base { obj0 hbmBase with state := 2 }).objIdle 0 e.2) = false ∧
    (withObj base { obj0 hbmBase with state := 2 }).obj 0 7 = some { obj0 hbmBase with state := 2 } ∧
    (withObj base { obj0 hbmBase with state := 2 }).objIdle 0 { obj0 hbmBase with state := 2 } = false ∧
    (base.wr64 .TIER_OBJT_BASE_LO .TIER_OBJT_BASE_HI t2Base 0 0).objtOwned 0 = false ∧ base.objCount 0 ≤ 2 ^ 20 := by decide

/-- The entry of a mutable object of 4 KiB at hbmBase + 0x1000. -/
def entry0 : List Byte :=
  let b := leBytes 8 (hbmBase + 0x1000) ++ leBytes 8 4096 ++ [1] ++ List.replicate 43 0
  b ++ leBytes 4 (crc32c b)

theorem witness_ObjectTable_sync :
    let s := (base.writePhys hbmBase entry0).1.wr64 .TIER_OBJT_BASE_LO .TIER_OBJT_BASE_HI hbmBase 0 0
    s.obj 0 0 = none ∧ 0 < s.objCount 0 ∧ s.objtOwned 0 = true ∧
    (let x := s.readAs 0 (s.objAddr 0 0) 64
     x.1.2 = false ∧ x.2.entryBad 0 x.1.1 = none) ∧ (vget s.tier 0).objs = [] := by decide +kernel

theorem witness_ObjectTable_repair : (withObj base (obj0 t2Base)).obj 0 7 = some (obj0 t2Base) ∧ (obj0 t2Base).state = 0 ∧
    base.obj 0 7 = none ∧ base.eut.waiting = [] ∧ (withObj base { obj0 t2Base with state := 1 }).obj 0 7 = some { obj0 t2Base with state := 1 } := by decide

/-- A PREFETCH of object 7 to T0 (TARGET 1), slice 2. -/
def prefetch7 : Nat := 7 + 2 ^ 16 + 2 * 2 ^ 18

theorem witness_Promotions_there :
    let o : TierObj := { obj0 t2Base with state := 2, level := 2 }
    let s := withObj (running 0x11 prefetch7 0 []) o
    s.running ref0 0x11 = some (theCmd 0x11 prefetch7 0 []) ∧ bitOf (cOparg (theCmd 0x11 prefetch7 0 [])) 31 = false ∧
    s.obj 0 (cOparg (theCmd 0x11 prefetch7 0 []) % 65536) = some o ∧ o.state ≠ 5 ∧
    o.atLeast (cOparg (theCmd 0x11 prefetch7 0 []) / 2 ^ 16 % 4 + 1) = true := by decide

theorem witness_Promotions_broken :
    let o : TierObj := { obj0 t2Base with state := 5 }
    let s := withObj (running 0x11 prefetch7 0 []) o
    s.running ref0 0x11 = some (theCmd 0x11 prefetch7 0 []) ∧ s.obj 0 (cOparg (theCmd 0x11 prefetch7 0 []) % 65536) = some o ∧ o.state = 5 := by decide

theorem witness_Promotions_room :
    let o := obj0 hbmBase
    let d := theCmd 0x11 prefetch7 0 []
    let s := withObj (running 0x11 prefetch7 0 []) o
    s.running ref0 0x11 = some d ∧ bitOf (cOparg d) 31 = false ∧ s.obj 0 (cOparg d % 65536) = some o ∧ o.valid = true ∧ o.state = 0 ∧
    isT2 o.home = false ∧ o.atLeast (cOparg d / 2 ^ 16 % 4 + 1) = false ∧ cOparg d / 2 ^ 16 % 4 = 1 ∧
    s.findRoom 0 2 (bitsOf (cOparg d) 21 18) o.bytes = some 0x29600000 := by decide

/-- A schedule of one entry: object 7, TARGET T1, at lock value 0. -/
def sched7 : Sched :=
  { ref := ref0, entries := [leBytes 2 7 ++ List.replicate 14 0], base := 0, ready := none, look := 1, next := 0, home := [], gone := [] }

/-- A PREFETCH of object 7 to T1 from a T2 home, and the same where the T1 area has no room. -/
theorem witness_Promotions_t2 :
    let o := obj0 t2Base
    let d := theCmd 0x11 7 0 []
    let s := withObj (running 0x11 7 0 []) o
    let n := (running 0x11 7 0 []).setObj 0 7 o
    s.running ref0 0x11 = some d ∧ bitOf (cOparg d) 31 = false ∧ s.obj 0 (cOparg d % 65536) = some o ∧ o.valid = true ∧ o.state = 0 ∧
    isT2 o.home = true ∧ o.t1 = none ∧ o.home % 4096 = 0 ∧ 0 < o.size ∧ o.allBad = false ∧ s.mem.t2Poison = [] ∧ (vget s.tier 0).fetches = [] ∧
    s.tagFree (subWindow o.home) = true ∧ cOparg d / 2 ^ 16 % 4 = 0 ∧ (s.findRoom 0 1 (bitsOf (cOparg d) 21 18) o.bytes).isSome = true ∧
    n.running ref0 0x11 = some d ∧ n.obj 0 (cOparg d % 65536) = some o ∧ o.atLeast (cOparg d / 2 ^ 16 % 4 + 1) = false ∧
    n.findRoom 0 (cOparg d / 2 ^ 16 % 4 + 1) (bitsOf (cOparg d) 21 18) o.bytes = none := by decide +kernel

theorem witness_Promotions_schedule :
    let o := obj0 hbmBase
    let e : List Byte := leBytes 2 7 ++ [1] ++ List.replicate 13 0
    let x : Sched := { sched7 with entries := [e] }
    let s := (withObj base o).modTier 0 (fun t => { t with scheds := [x] })
    let s1 := s.schedPoll 0 ref0
    s.live = true ∧ (vget s1.tier 0).scheds = [x] ∧ x.ref = ref0 ∧ x.entries[x.next]? = some e ∧ s1.entryGo 0 x e = true ∧
    s1.obj 0 (entObj e) = some o ∧ o.valid = true ∧ o.state = 0 ∧ isT2 o.home = false ∧ entTarget e = 2 ∧
    (s1.findRoom 0 2 (entSlice e) o.bytes).isSome = true := by decide +kernel

theorem witness_Promotions_schedule_broken :
    let o : TierObj := { obj0 hbmBase with state := 5 }
    let s := (withObj (running 0x11 (2 ^ 31) 0 []) o).modTier 0 (fun t => { t with scheds := [sched7] })
    let s1 := s.schedPoll 0 ref0
    let e : List Byte := leBytes 2 7 ++ List.replicate 14 0
    s.live = true ∧ (vget s1.tier 0).scheds = [sched7] ∧ sched7.ref = ref0 ∧ sched7.entries[sched7.next]? = some e ∧ s1.entryGo 0 sched7 e = true ∧
    s1.obj 0 (entObj e) = some o ∧ o.state = 5 ∧ (s1.cmdAt 0 0 0).isSome = true ∧
    s1.entryGo 0 { sched7 with look := 0 } e = false := by decide +kernel

theorem witness_Promotions_complete :
    let o : TierObj := { obj0 hbmBase with state := 1, target := 2, t0 := some 0x29600000 }
    let s := withObj base o
    let x := (s.grant 0 (o.t1.getD o.home) o.bytes).readPhys (o.t1.getD o.home) o.bytes
    s.obj 0 7 = some o ∧ o.state = 1 ∧ o.target = 2 ∧ o.t0 = some 0x29600000 ∧ 0x29600000 + o.bytes ≤ t2Base ∧ (vget s.tier 0).fetches = [] ∧
    (vget s.tier 0).scheds = [] ∧ x.1.2 = false ∧ (x.2.writePhys 0x29600000 x.1.1).2 = 0 ∧ s.eut.waiting = [] := by decide +kernel

theorem witness_Promotions_stall :
    let o : TierObj := { obj0 t2Base with }
    let d : Cmd := { theCmd 0x20 0 0 [tens 1 t2Base 16 1] with phase := .running }
    let s := ((withCmd base d).fset Fld.CMD_Qn_CTRL_ARRAY_MASK 1 0 0).setObj 0 7 o
    s.obj 0 7 = some o ∧ o.valid = true ∧ o.state = 0 ∧ o.stalled = false ∧ s.demanded 0 o = true ∧ (vget s.tier 0).scheds = [] ∧
    (∀ q < 64, ∀ c ∈ (s.queue 0 q).cmds, cOpcode c ≠ 0x11) ∧ s.findRoom 0 1 0 o.bytes = none := by decide +kernel

/-- An EVICT of object 7 with FREED_LOCK 4,095. -/
def evict7 : Nat := 7 + 4095 * 2 ^ 16 + 2 ^ 28

theorem witness_Evictions_home :
    let s := withObj (running 0x12 evict7 0 []) (obj0 hbmBase)
    s.running ref0 0x12 = some (theCmd 0x12 evict7 0 []) ∧ (theCmd 0x12 evict7 0 []).pieces = 0 ∧ ((theCmd 0x12 evict7 0 []).desc 0).rank = 0 ∧
    s.obj 0 (cOparg (theCmd 0x12 evict7 0 []) % 65536) = some (obj0 hbmBase) ∧ (obj0 hbmBase).state = 0 ∧
    (theCmd 0x12 evict7 0 []).pieces ≠ 1 ∧ (running 0x12 evict7 0 []).obj 0 (cOparg (theCmd 0x12 evict7 0 []) % 65536) = none := by decide

/-- One held already (pieces 1), and one of an object that is being evicted. -/
theorem witness_Evictions_waits :
    let d : Cmd := { theCmd 0x12 evict7 0 [] with pieces := 1 }
    let o : TierObj := { obj0 hbmBase with state := 3 }
    (withObj (withCmd base d) o).running ref0 0x12 = some d ∧ d.pieces = 1 ∧ (withObj (withCmd base d) o).obj 0 (cOparg d % 65536) = some o ∧
    o.state ≠ 2 ∧ base.obj 0 7 = none := by decide

theorem witness_Evictions_resident :
    let o : TierObj := { obj0 hbmBase with state := 2, level := 2, t0 := some 0x29600000 }
    let s := withObj (running 0x12 evict7 0 []) o
    s.running ref0 0x12 = some (theCmd 0x12 evict7 0 []) ∧ s.obj 0 (cOparg (theCmd 0x12 evict7 0 []) % 65536) = some o ∧ o.state = 2 ∧
    (theCmd 0x12 evict7 0 []).pieces ≠ 1 ∧ cOparg (theCmd 0x12 evict7 0 []) / 2 ^ 30 ≠ 1 ∧ s.objRefs 0 o = 0 ∧ o.pend = [] := by decide

theorem witness_Evictions_deferred :
    let o : TierObj := { obj0 hbmBase with state := 2, level := 2, t0 := some 0x29600000, pend := [{ lock := some 5, discard := false, t0Only := false }] }
    let u : Cmd := { theCmd 0x20 0 0 [tens 1 hbmBase 16 1] with slot := 1 }
    let s := withObj (base.setQueue 0 0 { cmds := [theCmd 0x12 evict7 0 [], u], aborting := false }) o
    s.running ref0 0x12 = some (theCmd 0x12 evict7 0 []) ∧ s.obj 0 (cOparg (theCmd 0x12 evict7 0 []) % 65536) = some o ∧ o.state = 2 ∧ o.t0 ≠ none ∧
    ((theCmd 0x12 evict7 0 []).desc 0).rank = 0 ∧ s.objRefs 0 o ≠ 0 ∧ o.pend.length < 8 ∧ (withObj base o).objRefs 0 o = 0 ∧ o.pend ≠ [] ∧ (withObj base o).obj 0 7 = some o := by decide +kernel

theorem witness_Evictions_complete :
    let r : EvictReq := { lock := none, discard := false, t0Only := false }
    let o : TierObj := { obj0 hbmBase with state := 3, level := 2, t0 := some 0x29600000, evict := some r }
    let s := withObj base o
    s.obj 0 7 = some o ∧ o.state = 3 ∧ o.evict = some r ∧ o.home + o.bytes ≤ t2Base ∧ o.t0 = some 0x29600000 ∧ o.ro = false ∧
    r.discard = false ∧ s.queues = [] ∧ s.eut.waiting = [] ∧ ((s.grant 0 o.home o.bytes).writePhys o.home (s.cells 0x29600000 o.bytes)).2 = 0 := by decide +kernel

/-- A promotion of object 7 that has asked port k for the page at offset 4,096. -/
def fetch7 (k : Nat) (bad : List Nat) : Fetch :=
  { obj := some 7, ref := none, host := none, base := t2Base, len := 8192, cur := 8192, dest := hbmBase, bad := bad, src := 2
    tag := some (k, 4095, 4096, 4096), got := 0, fail := false }
def fetching (k : Nat) (bad : List Nat) : State :=
  (withObj base { obj0 t2Base with state := 1, size := 8192 }).setFetches 0 [fetch7 k bad]

theorem witness_Transfers_t2 : (vget (fetching 3 []).tier 0).fetches = [fetch7 3 []] ∧ (∀ q, q ≠ (0 : Part) → (vget (fetching 3 []).tier q).fetches = []) ∧
    (fetch7 3 []).tag = some ((3 : EPort).val, 4095 % 4096, 4096, 4096) ∧ (fetch7 3 []).bad = [] ∧ (fetch7 3 []).fail = false ∧ (fetch7 3 []).host = none ∧
    (List.replicate 4096 (1 : Byte)).length ≤ 4096 ∧ (fetch7 3 []).dest + 4096 + 4096 ≤ t2Base ∧
    (fetching 3 []).eut.waiting = [] ∧ (base.mem.t2Poison.filter (fun g => base.ownsMem 0 (g * 4096) 4096)).length < 4096 ∧
    (((fetching 3 []).grant 0 ((fetch7 3 []).dest + 4096) 64).writePhys ((fetch7 3 []).dest + 4096) (List.replicate 64 1)).2 = 0 := by decide +kernel

theorem witness_Transfers_peer : (vget (fetching 4 [4096]).tier 0).fetches = [fetch7 4 [4096]] ∧
    (∀ q, q ≠ (0 : Part) → (vget (fetching 4 [4096]).tier q).fetches = []) ∧ (fetch7 4 [4096]).tag = some (4, 4095, 4096, 4096) ∧
    (fetch7 4 [4096]).bad = [4096] ∧ (fetch7 4 [4096]).src = 2 ∧ (fetch7 4 [4096]).obj = some 7 ∧ (fetch7 4 [4096]).promotes = true ∧
    (fetching 4 [4096]).obj 0 7 = some { obj0 t2Base with state := 1, size := 8192 } ∧
    (fetch7 4 [4096]).fail = false ∧ (fetch7 4 [4096]).host = none ∧ (obj0 t2Base).valid = true ∧ (vget base.tier 0).fetches = [] ∧
    (((fetching 4 [4096]).grant 0 ((fetch7 4 [4096]).dest + 4096) 64).writePhys ((fetch7 4 [4096]).dest + 4096) (List.replicate 64 1)).2 = 0 := by decide +kernel

theorem witness_Transfers_read : isHbm (hbmEnd - 65536) = true ∧ hbmEnd - 65536 + 65536 ≤ hbmEnd ∧ 1 ≤ 65536 ∧ 65536 ≤ 65536 ∧
    base.inPartner (hbmEnd - 65536, hbmEnd) = false ∧
    (base.fset Fld.TIER_PARTNER_PARTNER_GIB 8).inPartner (hbmEnd - 65536, hbmEnd) = true ∧ isHbm 0 = false := by decide +kernel

theorem witness_Copies_stage : base.running ref0 0x10 = none ∧
    (let d := theCmd 0x10 0 0 [tens 0x0E t2Base 3 1, tens 0x0E 0 3 1]
     let s := running 0x10 0 0 [tens 0x0E t2Base 3 1, tens 0x0E 0 3 1]
     s.running ref0 0x10 = some d ∧ (s.t2Stage ref0 ([((d.desc 0).base, (d.desc 0).extent)] ++ [])).2 = false) := by decide +kernel

theorem witness_Copies :
    let ds := [tens 0x0E 0 3 1, tens 0x0E (t0End - 6) 3 1]
    let d := theCmd 0x10 0 0 ds
    let s := running 0x10 0 0 ds
    s.running ref0 0x10 = some d ∧ (d.desc 0).dtype = 0x0E ∧ (d.desc 1).dtype = 0x0E ∧ (d.desc 0).rank = 1 ∧ (d.desc 1).rank = 1 ∧
    (d.desc 0).dims = [3, 1, 1, 1] ∧ (d.desc 1).dims = [3, 1, 1, 1] ∧ s.tier = State.reset.tier ∧ (d.desc 0).base + 2 * 3 ≤ t0End ∧
    (d.desc 1).base + 2 * 3 ≤ t0End ∧ s.mem.poison = [] ∧ s.mem.errs = [] ∧
    (s.t2Stage ref0 ([((d.desc 0).base, (d.desc 0).extent)] ++ (if isMx (d.desc 0).dtype then [((d.desc 0).scale, (d.desc 0).scaleCount)] else []))).2
      = true := by decide +kernel

/-! ## Witnesses: matrix arrays -/

/-- A product of two 16 × 16 BF16 tensors on array 0. -/
def mmDescs : List TDesc := [tens 2 0 16 16, tens 2 4096 16 16, tens 1 8192 16 16]
def product (op : Nat) : State := (running op 0 0 mmDescs).fset Fld.CMD_Qn_CTRL_ARRAY_MASK 1 0 0

theorem witness_ProductsIssue_start : (product 0x20).running ref0 (if false then 0x21 else 0x20) = some (theCmd 0x20 0 0 mmDescs) ∧
    (product 0x20).job ref0 = none ∧ (product 0x20).anyPiece 0 0 = true ∧
    (product 0x21).running ref0 (if true then 0x21 else 0x20) = some (theCmd 0x21 0 0 mmDescs) ∧ (product 0x21).job ref0 = none ∧
    (running 0x20 0 0 mmDescs).running ref0 0x20 = some (theCmd 0x20 0 0 mmDescs) ∧ (running 0x20 0 0 mmDescs).job ref0 = none ∧
    ((running 0x20 0 0 mmDescs).fset Fld.CMD_Qn_CTRL_ARRAY_MASK 0 0 0).anyPiece 0 0 = false := by decide +kernel

/-- A product 2,048 deep, whose first tile is not FINAL, on operands in the array's own slice: its job, and that tile in flight. -/
def deepDescs (base : Nat) : List TDesc := [tens 2 base 2048 16, tens 2 0x100000 16 2048, tens 1 0x200000 16 16]
def deep (base : Nat) : State := (running 0x20 0 0 (deepDescs base)).fset Fld.CMD_Qn_CTRL_ARRAY_MASK 1 0 0
def job0 : Job := { ref := ref0, grps := [], drained := 0 }
def issuing (base : Nat) : State := (deep base).setArr { (deep base).arr with jobs := [job0] }
def inFlight (retried : Bool) : State :=
  let u : Tile := { array := 0, piece := 0, ref := ref0, grp := 0, idx := 0, instr := List.replicate 16 0, retried := retried, results := [], dest := none }
  (product 0x20).setArr { (product 0x20).arr with
    jobs := [{ job0 with grps := [(0, { array := 0, piece := 0, region := 0, units := 16, tiles := 1, done := 0, busy := true })] }], tiles := [u] }

theorem witness_ProductsIssue_tile :
    let s := issuing 0
    let d := theCmd 0x20 0 0 (deepDescs 0)
    let p := planOf d (s.queueCut 0 0)
    let u := p.units (p.block (p.place 0).2.1 (p.place 0).2.2.1).2.1
    s.running ref0 0x20 = some d ∧ s.job ref0 = some job0 ∧ s.anyPiece 0 0 = true ∧ s.pieceTakes ref0 (s.leadOf 0) 0 = true ∧
    s.nextGrp job0 p (s.leadOf 0) = some 0 ∧ p.final 0 (job0.doneOf 0) = false ∧ Sparse.find job0.grps 0 = none ∧
    s.regionFree (s.leadOf 0) 0 u = true ∧ s.reserved (s.leadOf 0) 0 < 2 ∧ (tileReads d p 0 0).filter (fun x => !s.inPlace (s.leadOf 0) x.1) = [] ∧
    (s.panelRoom (s.leadOf 0) 0).isSome = true ∧ (s.stagePanels 0 (s.leadOf 0) 0x0C000000 []).2.2 = false := by decide +kernel

/-- An operand in HBM is staged, and a poisoned word of it is found there. -/
theorem witness_ProductsIssue_poison :
    let s : State := { base with mem := { base.mem with poison := [hbmBase / 64] } }
    s.inPlace 0 hbmBase = false ∧ (s.stagePanels 0 0 0x0C000000 [(hbmBase, 2)]).2.2 = true := by decide +kernel

theorem witness_ProductsIssue_idle :
    let s := ((issuing 0).fset Fld.CMD_Qn_CTRL_ARRAY_MASK 0 0 0)
    s.running ref0 0x20 = some (theCmd 0x20 0 0 (deepDescs 0)) ∧ s.job ref0 = some job0 ∧ s.anyPiece 0 0 = false ∧
    (issuing 0).pieceTakes ref0 5 0 = false ∧ base.job ref0 = none ∧ base.running ref0 0x20 = none ∧ base.running ref0 0x21 = none := by decide +kernel

theorem witness_TilesCommitOrFault : ((inFlight false).arr.tiles.find? (fun v => v.array == (inFlight false).leadOf 0 && v.piece == 0)).isSome = true ∧
    ((inFlight false).job ref0).isSome = true ∧ (inFlight false).cmdAt 0 0 0 = some (theCmd 0x20 0 0 mmDescs) ∧ ((inFlight false).arrImg 0).cut ≠ 5 ∧
    ((inFlight true).arr.tiles.find? (fun v => v.array == (inFlight true).leadOf 0 && v.piece == 0)).map (·.retried) = some true ∧
    ((inFlight false).arr.tiles.find? (fun v => v.array == (inFlight false).leadOf 0 && v.piece == 0)).map (·.retried) = some false ∧
    bitOf (fieldAt (List.replicate 16 (0 : Byte)) 0 1) 3 = false ∧ bitOf (fieldAt (8 :: List.replicate 15 (0 : Byte)) 0 1) 3 = true ∧
    base.arr.tiles.find? (fun v => v.array == base.leadOf 0 && v.piece == 0) = none := by decide +kernel

/-! ## Witnesses: vector engines -/

/-- Engine 5 on a tile of 2 × 1 lanes, with a binding, a tile register and an accumulator. -/
def eng5 : VecSt :=
  { VecSt.reset with
    binds := [tens 1 0 2 1], sws := [0], prm := [0x3F800000], dims := [2, 1, 1, 1], tr := [(1, [(0, 4), (1, 1024 * 1024)])]
    ra := [(3, { op := 7, axis := 2, ty := 0, ents := [] })] }
def vecBase : State := base.setEng 5 eng5

/-- Instruction fields: SA is register 1; IMM as given. -/
def vf (imm : Nat) : VFields := { (default : VFields) with dst := 2, sa := 1, sb := 1, imm := imm }

theorem witness_LaneInstructions : (Instr.vAdd 5 (vf 0), 0x01) ∈ [(Instr.vAdd 5 (vf 0), 0x01), (.vSub 5 (vf 0), 0x02)] ∧ (vf 6).imm % 256 ≠ 7 ∧
    (vf (3 * 4096 + 7)).imm % 256 = 7 ∧ (vecBase.eng 5).acc ((vf (3 * 4096 + 7)).imm / 4096 % 8) = some { op := 7, axis := 2, ty := 0, ents := [] } ∧
    ({ op := 7, axis := 2, ty := 0, ents := [] } : RaSt).emptyIn (vecBase.eng 5) = true ∧
    (∀ op f, (vecBase.eng 5).badLane op f = none) := ⟨by decide, by decide, by decide, by decide, by decide, fun _ _ => rfl⟩

theorem witness_MasksAndPermutations :
    (∀ l ∈ (vecBase.eng 5).active (vf 0), (l % 32 * 32 + l / 32 < 1024 && (vecBase.eng 5).isPresent (l % 32 * 32 + l / 32)) = (l == 0)) ∧
    (vecBase.eng 5).active (vf 0) = [0, 1] ∧
    (∀ l ∈ ((base.setEng 5 { eng5 with dims := [1, 1, 1, 1] }).eng 5).active (vf 0),
      ((base.setEng 5 { eng5 with dims := [1, 1, 1, 1] }).eng 5).isPresent (l % 32 * 32 + l / 32) = true) ∧ (vecBase.eng 5).badLane 0x31 (vf 0) = none := by decide

theorem witness_TilesAndCache_bound : ((vecBase.eng 5).bind ((vf 0).imm % 16)).rank ≠ 0 ∧
    ((vecBase.countInstr 5).touchLanes 5 (vecBase.eng 5) ((vecBase.eng 5).bind 0) ((vecBase.eng 5).active (vf 0))).2 = 0 ∧
    ((vecBase.eng 5).bind ((vf 15).imm % 16)).rank = 0 ∧ (vecBase.eng 5).badLane 0x40 (vf 0) = none := by decide +kernel

theorem witness_TilesAndCache_cache : (vecBase.eng 5).slot (vf 4095) < 4096 ∧ (vecBase.eng 5).active (vf 4095) ≠ [] ∧
    (∀ l ∈ (vecBase.eng 5).active (vf 0), ((vecBase.eng 5).lane (vf 0).sa l).toNat < 16777216 ∧ ((vecBase.eng 5).lane (vf 0).sa l).toNat % 4 = 0) ∧
    4096 ≤ ((base.setEng 5 { eng5 with pos := (1, 0, 0, 0), dims := [64, 1, 1, 1] }).eng 5).slot (vf 8191) ∧
    ((base.setEng 5 { eng5 with pos := (1, 0, 0, 0), dims := [64, 1, 1, 1] }).eng 5).active (vf 8191) ≠ [] ∧
    (vecBase.eng 5).badLane 0x43 (vf 4095) = none ∧ (vecBase.eng 5).badLane 0x44 (vf 0) = none := by decide

/-- A poisoned operand of TLD, and a word address of GATHER that is no multiple of 4. -/
theorem witness_TilesAndCache_bad :
    let s : State := { vecBase with mem := { vecBase.mem with poison := [hbmBase / 64] } }
    ((s.countInstr 5).touchLanes 5 (s.eng 5) (tens 1 hbmBase 2 1) ((s.eng 5).active (vf 0))).2 ≠ 0 ∧
    (let x := (base.setEng 5 { eng5 with tr := [(1, [(0, 2)])] }).eng 5
     x.active (vf 0) = [0, 1] ∧ (x.lane (vf 0).sa 0).toNat % 4 ≠ 0) := by decide +kernel

theorem witness_TilesAndCache_parity : ((base.setEng 5 { eng5 with bad := [(0, 1, 1)] }).eng 5).badLane 0x01 (vf 0) = some 1 := by decide

theorem witness_Reductions : (vecBase.eng 5).acc ((vf 96).imm / 32 % 8) = some { op := 7, axis := 2, ty := 0, ents := [] } ∧
    ({ op := 7, axis := 2, ty := 0, ents := [] } : RaSt).emptyIn (vecBase.eng 5) = true ∧ (vecBase.eng 5).acc ((vf 128).imm / 32 % 8) = none ∧
    (running 0x31 0 0 [tens 1 0 4 1, tens 1 4096 1 1]).running ref0 0x31 = some (theCmd 0x31 0 0 [tens 1 0 4 1, tens 1 4096 1 1]) ∧
    (4 : Nat) ≠ 3 := by decide +kernel

/-- A program of no instruction, with SINGLE. -/
def prog0 : List Byte := [0, 0, 0, 8] ++ List.replicate 124 0

theorem witness_ProgramsAndUpdates :
    let d : Cmd := { theCmd 0x30 0 0 [] with aux := prog0 }
    let s := (withCmd base d).fset Fld.CMD_Qn_CTRL_ARRAY_MASK 255 0 0
    let es := s.progEngines 0 0 (parseProg d.aux).stream
    s.running ref0 0x30 = some d ∧ (∀ e ∈ (if (parseProg d.aux).single then es.take 1 else es), s.engBusy ref0 e = false) ∧ es ≠ [] ∧
    (s.fset Fld.CMD_Qn_CTRL_ARRAY_MASK 0 0 0).progEngines 0 0 (parseProg d.aux).stream = [] ∧
    (running 0x32 0 0 []).running ref0 0x32 = some (theCmd 0x32 0 0 []) ∧ (running 0x32 0 0 []).progEngines 0 0 true = [] ∧
    base.running ref0 0x30 = none ∧ base.running ref0 0x32 = none := by decide +kernel

/-- An UPDATE on the engines of the whole mask: all free, its step not applied and applied; and all busy. -/
theorem witness_ProgramsAndUpdates_update :
    let s := (running 0x32 0 5 []).fset Fld.CMD_Qn_CTRL_ARRAY_MASK 255 0 0
    let b := (List.range 8).foldl (fun (s : State) e => s.fset Fld.VEC_Vn_STATE_BUSY 1 e) s
    let d := theCmd 0x32 0 5 []
    s.running ref0 0x32 = some d ∧ (∃ e ∈ s.progEngines 0 0 true, s.engBusy ref0 e = false) ∧ s.applied ref0 d = false ∧
    (s.wr .RCV_GRPg_UPD 0 0 5).applied ref0 d = true ∧ b.running ref0 0x32 = some d ∧ b.progEngines 0 0 true ≠ [] ∧
    (∀ e ∈ b.progEngines 0 0 true, b.engBusy ref0 e = true) := by decide +kernel

/-! ## Witnesses: ingest and video -/

/-- A STREAM command on stream 1,023: an action, and an OPEN at offset 0. -/
def stCmd (act : Nat) : Cmd := theCmd 0x40 (1023 * 2 ^ 16 + act) 0 []
def streaming (st : Nat) (x : StreamSt) (act : Nat) : State := ((withCmd base (stCmd act)).setStr 1023 x).fset Fld.ING_STRn_STATE_STATE st 1023
def open0 : StreamSt := { strIdle with cap := 64, mark := 32 }

theorem witness_Ingest_stream :
    (streaming 0 strIdle 0).running ref0 0x40 = some (stCmd 0) ∧ stStr (stCmd 0) = 1023 ∧ stAct (stCmd 0) = 0 ∧
    ((streaming 0 strIdle 0).str 1023).closers = [] ∧ (streaming 0 strIdle 0).strState 1023 = 0 ∧
    (streaming 1 open0 1).running ref0 0x40 = some (stCmd 1) ∧ stAct (stCmd 1) = 1 ∧ (streaming 1 open0 1).strState 1023 = 1 ∧
    ((streaming 1 open0 1).str 1023).closers = [] ∧
    (streaming 3 open0 2).running ref0 0x40 = some (stCmd 2) ∧ stAct (stCmd 2) = 2 ∧ (streaming 3 open0 2).strState 1023 = 3 ∧
    ((streaming 3 open0 2).str 1023).reserve = 0 ∧ ((streaming 3 open0 2).str 1023).shared ≤ ((streaming 3 open0 2).str 1023).mark * 1024 ∧
    (streaming 3 open0 2).grantOk 1023 = true ∧ ((streaming 3 open0 2).str 1023).closers = [] ∧
    (streaming 5 open0 3).running ref0 0x40 = some (stCmd 3) ∧ stAct (stCmd 3) = 3 ∧ (streaming 5 open0 3).strState 1023 ≠ 0 ∧
    ((streaming 5 open0 3).str 1023).closers = [] := by decide +kernel

/-- A second HALT, a HALT of an ENDED stream, a RESUME of a RUNNING one, an OPEN of an open one and a HALT of a closed one. -/
theorem witness_Ingest_other : ∀ x ∈ [(1, 2), (1, 3), (1, 4), (2, 1), (0, 1), (1, 0)],
    (streaming x.2 open0 x.1).running ref0 0x40 = some (stCmd x.1) ∧ stAct (stCmd x.1) = x.1 ∧ (streaming x.2 open0 x.1).strState 1023 = x.2 ∧
    ((streaming x.2 open0 x.1).str 1023).closers.contains ref0 = false := by decide +kernel

theorem witness_Ingest_idle : base.running ref0 0x40 = none ∧
    (streaming 6 { open0 with closers := [ref0] } 3).running ref0 0x40 = some (stCmd 3) ∧
    ((streaming 6 { open0 with closers := [ref0] } 3).str 1023).closers.contains ref0 = true ∧ (streaming 1 open0 0).strState 1023 ≠ 6 := by
  decide +kernel

theorem witness_Ingest_closed :
    let s := streaming 6 { open0 with closers := [ref0] } 3
    s.strState 1023 = 6 ∧ s.decodeStarted 1023 = false ∧ (s.str 1023).ackOut = false ∧ ref0 ∈ (s.str 1023).closers ∧
    s.running ref0 0x40 = some (stCmd 3) := by decide +kernel

/-- A barge of one byte for stream 1,023 at an offset. -/
def barge1 (off : Nat) : List Byte :=
  let b : List Byte := [1, 0] ++ leBytes 2 1023 ++ leBytes 4 1 ++ leBytes 8 off ++ [7, 0, 0, 0, 0, 0, 0, 0]
  b ++ leBytes 4 (crc32c b) ++ leBytes 4 1

/-- Stream 1,023 RUNNING with NEXT at 5. -/
def flowing : State := (streaming 1 open0 0).wr64 .ING_STRn_NEXT_LO .ING_STRn_NEXT_HI 5 1023

theorem witness_Ingest_barge : bargeOk [1] = false ∧ bargeOk (barge1 5) = true ∧ flowing.strState (bgStr (barge1 5)) = 1 ∧ flowing.portOwner 3 < 4 ∧
    flowing.ownsStream (flowing.portOwner 3) (bgStr (barge1 5)) = true ∧ bgFlag (barge1 5) 1 = false ∧ bgFlag (barge1 5) 2 = false ∧
    bgOff (barge1 5) = flowing.strNext (bgStr (barge1 5)) ∧ flowing.strRel (bgStr (barge1 5)) ≤ bgOff (barge1 5) ∧ bgOff (barge1 5) + bgLen (barge1 5) < 2 ^ 64 ∧
    bargeOk (barge1 4) = true ∧ bgOff (barge1 4) + bgLen (barge1 4) ≤ flowing.strNext (bgStr (barge1 4)) ∧
    bargeOk (barge1 6) = true ∧ flowing.strNext (bgStr (barge1 6)) < bgOff (barge1 6) ∧
    flowing.fbit Fld.ING_STRn_STATE_IN_GAP (bgStr (barge1 6)) = false := by decide +kernel

/-- A barge that no stream of the port takes; a HALTED stream with an empty weir; a stream with a gap open. -/
theorem witness_Ingest_barge_other : base.strState (bgStr (barge1 5)) = 0 ∧ flowing.fbit Fld.ING_STRn_STATE_IN_GAP 1023 = false ∧
    (let s := (streaming 3 open0 0).wr64 .ING_STRn_NEXT_LO .ING_STRn_NEXT_HI 5 1023
     s.strState (bgStr (barge1 5)) ≠ 1 ∧ s.strState (bgStr (barge1 5)) ≠ 0 ∧ (s.str (bgStr (barge1 5))).reserve ≤ 65536 ∧
     bgOff (barge1 5) = s.strNext (bgStr (barge1 5)) ∧ s.strRel (bgStr (barge1 5)) ≤ bgOff (barge1 5)) ∧
    (let s := flowing.fset Fld.ING_STRn_STATE_IN_GAP 1 1023
     bgOff (barge1 6) ≠ s.strNext (bgStr (barge1 6)) ∧ bgFlag (barge1 6) 1 = false ∧ s.strNext (bgStr (barge1 6)) < bgOff (barge1 6) + bgLen (barge1 6) ∧
     s.fbit Fld.ING_STRn_STATE_IN_GAP (bgStr (barge1 6)) = true) := by decide +kernel

theorem witness_Ingest_rewind : (flowing.fset Fld.ING_STRn_STATE_IN_GAP 1 1023).fbit Fld.ING_STRn_STATE_IN_GAP 1023 = true ∧
    (flowing.str 1023).rewinds < 3 ∧ ((streaming 1 { open0 with rewinds := 3 } 0).str 1023).rewinds = 3 ∧
    evRoom flowing.evr.buf.length 2 = true := by decide

theorem witness_Ingest_ack :
    let s := (streaming 2 { open0 with ackOut := true } 0).fset Fld.ING_STRn_STATE_HALT_PROG 1 1023
    1023 < 1024 ∧ s.portOwner 3 < 4 ∧ s.ownsStream (s.portOwner 3) 1023 = true ∧ s.strState 1023 = 2 ∧ (s.str 1023).ackOut = true ∧
    s.fbit Fld.ING_STRn_STATE_HALT_PROG 1023 = true ∧ (flowing.str 1023).ackOut = false ∧ (s.str 1023).late = false ∧
    (s.hostOf 3).isSome = true ∧ (streaming 6 { open0 with ackOut := true } 0).strState 1023 = 6 ∧
    (streaming 2 { open0 with ackOut := true, eos := true } 0).strState 1023 = 2 ∧
    (({ base with boot := { base.boot with img := { ownImage with parts := [] } } } : State).hostOf 3) = none := by decide

/-- A DECODE of stream 512 into buffer 63: span 0 to 8, one target. -/
def dcCmd : Cmd :=
  { run0 (cmdBytes 0x41 0 0 (leBytes 2 512 ++ [1, 0] ++ leBytes 4 63 ++ leBytes 8 0 ++ leBytes 8 8 ++ leBytes 8 8 ++ List.replicate 32 0 ++ leBytes 2 0 ++
    List.replicate 62 0)) [tens 0x0F 0 16 1] with nslots := 3 }
def dec0 (m : Option Nat) : DecRun := { ref := ref0, str := 512, start := 0, stop := 8, buf := 63, hasBuf := true, engine := m }
def decoding (m : Option Nat) (next : Nat) : State :=
  let s := ((withCmd base dcCmd).setStr 512 { open0 with stall := 1 }).wr64 .ING_STRn_NEXT_LO .ING_STRn_NEXT_HI next 512
  { s with ing := { s.ing with decs := [dec0 m] } }

theorem witness_Video_decode : (withCmd base dcCmd).running ref0 0x41 = some dcCmd ∧ (withCmd base dcCmd).decRun ref0 = none ∧
    (withCmd base dcCmd).mayTake ref0 (dcBuf dcCmd) = true ∧ ((withCmd base dcCmd).setBuf 63 { bufIdle with phase := 1 }).mayTake ref0 (dcBuf dcCmd) = false ∧
    ((withCmd base dcCmd).setBuf 63 { bufIdle with phase := 1 }).running ref0 0x41 = some dcCmd ∧ base.running ref0 0x41 = none ∧ (decoding none 8).running ref0 0x41 = some dcCmd ∧
    (decoding none 8).decRun ref0 = some (dec0 none) ∧ (dec0 none).engine = none ∧ (dec0 none).hasBuf = true ∧ (decoding none 8).spanReady (dec0 none) = true ∧
    (decoding none 8).ownsEngine 0 16 = true ∧ ((dec0 none).str < 512 ↔ 16 < 16) ∧ (decoding none 8).fbit Fld.DEC_ENGm_STATE_BUSY 16 = false ∧
    (decoding none 7).decRun ref0 = some (dec0 none) ∧ (decoding none 7).running ref0 0x41 = some dcCmd ∧
    (decoding none 7).spanReady (dec0 none) = false ∧ ((decoding none 7).str 512).stall ≠ 0 ∧
    (decoding (some 16) 8).running ref0 0x41 = some dcCmd ∧ (decoding (some 16) 8).decRun ref0 = some (dec0 (some 16)) ∧
    (dec0 (some 16)).engine = some 16 ∧ (decoding (some 16) 8).tier = State.reset.tier ∧ (dcCmd.desc 0).dtype = 0x0F ∧
    (decoding (some 16) 8).staleNow dcCmd = false := by decide +kernel

/-- A sample for slot 0 of window 1 of pool 0, and a frame that is there or not. -/
def samp0 : SampleDesc := { id := 9, pool := 0, deint := 0, wseq := 1, index := 0, cropX := 0, cropY := 0, cropW := 2, cropH := 2 }
def frame0 (result : Nat) : DecFrame :=
  { target := 0, recd := [0, 0, BitVec.ofNat 8 result, 0, 2, 0, 2, 0] ++ List.replicate 24 0, codec := 1, span := [] }
def buf0 (phase : Nat) (fs : List DecFrame) : BufSt := { phase := phase, sample := some samp0, frames := fs, data := [1, 2, 3], flags := 0, held := false, engine := 0 }

theorem witness_Video_condition :
    let s := base.setBuf 63 (buf0 2 [frame0 0])
    (s.buf 63).sample = some samp0 ∧ (s.buf 63).phase = 2 ∧ (63 < 32 ↔ 7 < 4) ∧ s.live = true ∧ (s.buf 63).frames.find? (holeTarget samp0) = none ∧
    ((base.setBuf 63 (buf0 2 [frame0 1])).buf 63).frames.find? (holeTarget samp0) = some (frame0 1) ∧
    (base.buf 63).sample = none ∧ (base.buf 63).phase ≠ 2 ∧ State.reset.live = false := by decide

/-- Pool 0 on, with two windows of one slot; window 1 at position 1, empty or full. -/
def pooled (q : PoolPos) : State :=
  let s := ((base.fset Fld.SHF_POOLp_CTRL_ENABLE 1 0).fset Fld.SHF_POOLp_WIN_W 1 0).fset Fld.SHF_POOLp_WIN_NWIN 2 0
  (((s.wr64 .SHF_POOLp_BASE_LO .SHF_POOLp_BASE_HI hbmBase 0).setPos 0 1 q).setBuf 63 (buf0 3 [])).setBuf 62 { buf0 3 [] with sample := some { samp0 with wseq := 3 } }

theorem witness_Video_land :
    let s := pooled { win := 1, filled := [], holes := [] }
    (s.buf 63).sample = some samp0 ∧ (s.buf 63).phase = 3 ∧ s.poolOn 0 = true ∧ s.poolOwner 0 < 4 ∧ s.released 0 1 = true ∧ 0 < s.poolNwin 0 ∧
    0 < s.poolW 0 ∧ s.poolPos 0 (1 % s.poolNwin 0) = some { win := 1, filled := [], holes := [] } ∧ NSet.mem ([] : List Nat) 0 = false ∧
    bitOf (s.buf 63).flags 1 = false ∧ s.tier = State.reset.tier ∧
    (let v := (s.setBuf 63 bufIdle).writeAs (s.poolOwner 0) (s.poolSlot 0 (1 % s.poolNwin 0) 0) ((s.buf 63).data.take (s.slotSize 0))
     v.2 = 0 ∧ (v.1.writeAs (s.poolOwner 0) (s.poolHead 0 (1 % s.poolNwin 0) 0) (slotHeader samp0 0)).2 = 0) ∧ s.released 0 3 = false ∧
    (s.buf 62).held = false ∧ (s.buf 62).phase = 3 := by decide +kernel

/-- A landing on a poisoned header; a window that has passed; a slot that is filled; a pool that is off. -/
theorem witness_Video_land_bad :
    let s := pooled { win := 1, filled := [], holes := [] }
    let b : State := { s with mem := { s.mem with poison := [s.poolHead 0 1 0 / 64] } }
    (b.writeAs (b.poolOwner 0) (b.poolHead 0 1 0) (slotHeader samp0 0)).2 ≠ 0 ∧ (pooled { win := 3, filled := [], holes := [] }).released 0 1 = true ∧
    (pooled { win := 3, filled := [], holes := [] }).poolPos 0 1 = some { win := 3, filled := [], holes := [] } ∧ samp0.wseq < 3 ∧
    (pooled { win := 1, filled := [0], holes := [] }).poolPos 0 1 = some { win := 1, filled := [0], holes := [] } ∧ NSet.mem [0] samp0.index = true ∧
    (base.setBuf 63 (buf0 3 [])).poolOn 0 = false ∧ ((base.setBuf 63 (buf0 3 [])).buf 63).sample = some samp0 := by decide +kernel

/-- A FEED of step 1 from pool 0, new or held. -/
def fdCmd (late : Bool) : Cmd := { theCmd 0x42 0 1 [tens 1 0x10000 4 1] with pieces := b2n late }

theorem witness_Video_feed :
    let full : PoolPos := { win := 1, filled := [0], holes := [] }
    let s := withCmd (pooled full) (fdCmd false)
    let w := cStep (fdCmd false) / max 1 (s.fget Fld.SHF_POOLp_SPW_SPW 0)
    s.running ref0 0x42 = some (fdCmd false) ∧ ((fdCmd false).pieces = 0 ↔ false = false) ∧ ((fdCmd true).pieces = 0 ↔ true = false) ∧
    (withCmd base (fdCmd true)).running ref0 0x42 = some (fdCmd true) ∧ base.poolOn 0 = false ∧ s.poolOn (fdPool (fdCmd false)) = true ∧
    w = 1 ∧ s.poolPos 0 (w % max 1 (s.poolNwin 0)) = some full ∧ full.win = w ∧ s.poolW 0 ≤ full.filled.length ∧ full.holes.length < s.poolW 0 ∧
    (withCmd (pooled { full with win := 2 }) (fdCmd false)).poolPos 0 (w % 2) = some { full with win := 2 } ∧ w < 2 ∧
    s.poolW 0 ≤ ({ full with holes := [0] } : PoolPos).holes.length ∧ (pooled full).poolPos 0 0 = none := by decide +kernel

/-! ## Witnesses: gradient reduction, snapshots -/

/-- A 2 × 2 × 2 torus, with group 5 of two members along X; the part's own x coordinate. -/
def torus (x : Nat) : State :=
  let s := ((base.fset Fld.PER_TOPO_DXLX 2).fset Fld.PER_TOPO_DYLY 2).fset Fld.PER_TOPO_DZLZ 2
  let s := ((s.fset Fld.PER_LTOPO_DXLX 2).fset Fld.PER_LTOPO_DYLY 2).fset Fld.PER_LTOPO_DZLZ 2
  let s := (s.wr .PER_COORD 0 0 (BitVec.ofNat 32 x)).wr .PER_LCOORD 0 0 (BitVec.ofNat 32 x)
  let s := ((s.wr .PER_GRPg_X 5 0 0x2040).wr .PER_GRPg_Y 5 0 0x1040).wr .PER_GRPg_Z 5 0 0x1040
  s.fset Fld.PER_GRPg_CTRL_ACTIVE 1 5

/-- A command of group 5. -/
def grpCmd (op oparg step : Nat) (more : List Byte) (ds : List TDesc) : Cmd :=
  { theCmd op oparg step ds with bytes := (cmdBytes op oparg step more).set 26 5 }

theorem witness_Collective_allreduce :
    let d := grpCmd 0x50 0 1 [] [tens 2 0 64 1]
    let s := withCmd (torus 0) d
    s.running ref0 0x50 = some d ∧ (s.colSt (cGroup d)).run = none ∧ cGroup d = 5 ∧ s.colMarked 5 1 0 = false ∧ s.grpDims 5 = [0] ∧
    (s.modCol 5 (fun x => { x with marks := [(1, 0)] })).colMarked (cGroup d) (cStep d) (arAttempt (cOparg d)) = true ∧
    (withCmd base d).grpDims (cGroup d) = [] ∧ (withCmd base d).running ref0 0x50 = some d ∧ base.running ref0 0x50 = none := by decide +kernel

/-- A gradient in HBM with a poisoned word. -/
theorem witness_Collective_poison :
    let d := grpCmd 0x50 0 1 [] [tens 2 hbmBase 64 1]
    let s : State := withCmd { torus 0 with mem := { base.mem with poison := [hbmBase / 64] } } d
    s.running ref0 0x50 = some d ∧ (s.colSt (cGroup d)).run = none ∧ s.colMarked (cGroup d) (cStep d) (arAttempt (cOparg d)) = false ∧
    (d.desc 2).rank = 0 ∧ (s.fetchTensor 0 (d.desc 0)).2 ≠ 0 := by decide +kernel

/-- A routing and a collective header of group 5, and a control message. -/
def hdr5 (epoch : Nat) : RouteHdr := { (default : RouteHdr) with group := 5, epoch := epoch }
def colh : ColHdr := { (default : ColHdr) with step := 1, nblk := 1 }
def ctl5 : CtlMsg := { (default : CtlMsg) with group := 5, step := 1 }

theorem witness_Collective_messages : (hdr5 0).group < 64 ∧ ((torus 0).ownRank 5).isSome = true ∧ (hdr5 0).epoch = (torus 0).epoch 5 ∧
    (torus 0).colMarked 5 1 0 = false ∧ ((torus 0).colSt 5).run = none ∧
    (hdr5 0).epoch < ((torus 0).fset Fld.PER_GRPg_EPOCH_EPOCH 1 5).epoch 5 ∧
    ((torus 0).modCol 5 (fun x => { x with marks := [(1, 0)] })).colMarked 5 colh.step colh.attempt = true := by decide +kernel

/-- A reduction under way. -/
def run5 : ColRun :=
  { ref := ref0, step := 1, tid := 0, attempt := 0, oparg := 0, mode := 0, v := [], want := false, agreed := [], kept := [], items := [], phase := 0
    stage := 0, ranges := [], left := [0], bad := none }
def reducing : State :=
  (withCmd (torus 0) (grpCmd 0x50 0 1 [] [tens 2 0 64 1])).modCol 5 (fun x => { x with run := some run5 })
def msg5 (ch : ColHdr) : ColMsg := { kind := 1, src := ⟨0, 0, 0⟩, ch := ch, recs := [], blocks := [], signs := [] }
def roomy (s : State) : State := s.fset Fld.COL_GRPg_CFG_BUF_MIB 1 5
def tight (s : State) : State := s.fset Fld.COL_GRPg_CFG_BUF_MIB 0 5

theorem witness_Collective_messages_other : (tight (torus 0)).colFull 5 (msg5 colh) = true ∧
    (roomy (torus 0)).colFull 5 (msg5 colh) = false ∧ (torus 0).epoch 5 < (hdr5 1).epoch ∧ ((torus 0).wr .PER_GRPg_X 5 0 0x1041).ownRank 5 = none ∧
    64 ≤ ({ hdr5 0 with group := 0xFF } : RouteHdr).group := by decide +kernel

theorem witness_Collective_messages_run : (reducing.ownRank 5).isSome = true ∧ (hdr5 0).epoch = reducing.epoch 5 ∧
    reducing.colMarked 5 colh.step colh.attempt = false ∧ (reducing.colSt 5).run = some run5 ∧ colh.step = run5.step ∧ colh.attempt = run5.attempt ∧
    run5.same (msg5 { colh with oparg := 1 }) = false ∧ ({ colh with oparg := 1 } : ColHdr).tid = run5.tid ∧
    ({ colh with step := 2 } : ColHdr).step ≠ run5.step ∧ reducing.colWants 5 run5 (msg5 { colh with step := 2 }) = false ∧
    (roomy reducing).colFull 5 (msg5 { colh with step := 2 }) = false ∧
    (tight reducing).colFull 5 (msg5 { colh with step := 2 }) = true ∧ run5.bad = none ∧ run5.phase ≠ 4 ∧ run5.left ≠ [] ∧
    (reducing.colSt 5).held.find? (reducing.colWants 5 run5) = none := by decide +kernel

theorem witness_Collective_commit :
    let d := grpCmd 0x51 0 0 [] []
    let s := withCmd (torus 1) d
    let one := (withCmd (torus 0) d).wr .PER_GRPg_X 5 0 0x1040
    s.running ref0 0x51 = some d ∧ (s.colSt (cGroup d)).commit = none ∧ s.colMarked 5 0 0 = false ∧ s.ownRank (cGroup d) = some (0 + 1) ∧
    (s.colSt (cGroup d)).tokens.contains (cStep d, cOparg d % 16) = false ∧ one.running ref0 0x51 = some d ∧ one.ownRank (cGroup d) = some 0 ∧
    one.grpSize (cGroup d) ≤ 1 ∧ one.firstLapFree (cGroup d) (cStep d) = true ∧ base.running ref0 0x51 = none := by decide +kernel

/-- Rank 0 of two; rank 1 that holds the token; a marked attempt; a commit under way; and a step that R365 holds back. -/
theorem witness_Collective_commit_other :
    let d := grpCmd 0x51 0 0 [] []
    let s := withCmd (torus 0) d
    let tok := (withCmd (torus 1) d).modCol 5 (fun x => { x with tokens := [(0, 0)] })
    s.running ref0 0x51 = some d ∧ (s.colSt 5).commit = none ∧ s.colMarked 5 0 0 = false ∧ s.ownRank 5 = some 0 ∧ 1 < s.grpSize 5 ∧
    s.firstLapFree 5 (cStep d) = true ∧ tok.ownRank 5 = some 1 ∧ (tok.colSt 5).tokens.contains (cStep d, 0) = true ∧
    (s.modCol 5 (fun x => { x with marks := [(0, 0)] })).colMarked 5 (cStep d) (cOparg d % 16) = true ∧
    ((s.modCol 5 (fun x => { x with commit := some { ref := ref0, step := 0, attempt := 0, fwd := false } })).colSt 5).commit.isSome = true := by
  decide +kernel

/-- Rank 1 of group 5 with port X− (1) ACTIVE; rank 0 whose COMMIT has passed its first lap. -/
def tokenAt1 : State := inLnk (torus 1) 1 6
def commit5 : ColCommit := { ref := ref0, step := 1, attempt := 0, fwd := true }
def tokenAt0 : State := (inLnk (withCmd (torus 0) (grpCmd 0x51 0 1 [] [])) 1 6).modCol 5 (fun x => { x with commit := some commit5 })

theorem witness_Collective_tokens : tokenAt1.portActive 1 = true ∧ ctl5.group < 64 ∧ tokenAt1.grpSize ctl5.group ≠ 0 ∧ tokenAt1.ctlTaken ctl5 = true ∧
    tokenAt1.ownRank ctl5.group = some (0 + 1) ∧ tokenAt1.tokenHere ctl5 = true ∧ (tokenAt1.colSt ctl5.group).commit = none ∧
    tokenAt0.portActive 1 = true ∧ tokenAt0.ctlTaken { ctl5 with rank := 1 } = true ∧ tokenAt0.ownRank 5 = some 0 ∧
    tokenAt0.tokenHere { ctl5 with rank := 1 } = true ∧ (tokenAt0.colSt 5).commit = some commit5 ∧
    tokenAt0.running commit5.ref 0x51 = some (grpCmd 0x51 0 1 [] []) := by decide +kernel

/-- Tokens that go on, that come too soon, that are not taken, and for a group that this part is not in. -/
theorem witness_Collective_tokens_other :
    let k : ColCommit := { commit5 with step := 0, fwd := false }
    let m : CtlMsg := { ctl5 with step := 0 }
    let w := tokenAt1.modCol 5 (fun x => { x with commit := some k })
    (tokenAt0.tokenHere ctl5 = false ∨ tokenAt0.tokenHere { ctl5 with rank := 1 } = true) ∧ base.portActive 0 = false ∧ ((torus 0).wr .PER_GRPg_X 5 0 0x40).grpSize 5 = 0 ∧
    (w.colSt 5).commit = some k ∧ w.ctlTaken m = true ∧ k.step = m.step ∧ k.attempt = m.attempt ∧ k.fwd = false ∧ w.firstLapFree 5 m.step = true ∧
    w.firstLapFree 5 ctl5.step = false ∧ 1 < w.grpSize 5 ∧
    (w.fset Fld.PER_GRPg_EPOCH_EPOCH 1 5).ctlTaken ctl5 = false ∧ (w.fset Fld.PER_GRPg_EPOCH_EPOCH 1 5).tokenHere ctl5 = true ∧
    (w.ownRank ctl5.group).isSome = true ∧ tokenAt1.tokenHere { ctl5 with rank := 1 } = false := by decide +kernel

theorem witness_Collective_watchdog :
    let d := grpCmd 0x50 0 1 [] [tens 2 0 64 1]
    let s := reducing
    (s.colSt 5).run = some run5 ∧ s.running run5.ref 0x50 = some d ∧ ({ commit5 with fwd := false } : ColCommit).fwd = false ∧ (tokenAt0.colSt 5).run = none ∧ (tokenAt0.colSt 5).commit = some commit5 ∧
    commit5.fwd = true ∧ ((torus 0).colSt 5).run = none ∧ ((torus 0).colSt 5).commit = none := by decide +kernel

/-- A PARTNER snapshot of group 5 at step 3 to two local images. -/
def snapCmd (layer : Nat) : Cmd := grpCmd 0x60 layer 3 (leBytes 8 hbmBase ++ leBytes 8 0x100000 ++ List.replicate 48 0) []

theorem witness_SnapshotsAndDigests_snapshot :
    let d := snapCmd 0
    let s := withCmd (torus 0) d
    s.running ref0 0x60 = some d ∧ ((vget s.rcv 0).snaps.any (fun x => x.ref == ref0) || (vget s.rcv 0).due.any (fun e => e.2.2 == (5, 3))) = false ∧
    s.snapHeld 0 d = false ∧ snDigest d = false ∧ snLayer d = 0 ∧ ((s.fetchTensors 0 d.listed).1.readLedger 0).2 = 0 ∧ base.running ref0 0x60 = none ∧
    s.partnerLive 0 = false ∧ (s.colSt (cGroup d)).commit = none ∧ s.tier = State.reset.tier ∧ (s.fetchTensors 0 d.listed).2 = 0 ∧
    snAddr d + cStep d % 2 * snSpace d = hbmBase + 0x100000 := by decide +kernel

theorem witness_SnapshotsAndDigests_written :
    let d := snapCmd 0
    let s := withCmd (torus 0) d
    (s.writeAs 0 (snAddr d + cStep d % 2 * snSpace d) (s.imageOf 0 d)).2 = 0 :=
  State.Clean.writeAs ⟨rfl, rfl, by decide⟩ _ _ _

theorem witness_SnapshotsAndDigests_fits : ((withCmd (torus 0) (snapCmd 0)).imageOf 0 (snapCmd 0)).length ≤ snSpace (snapCmd 0) := by decide +kernel

theorem witness_SnapshotsAndDigests_cpl :
    let x : SnapRun := { ref := ref0, layer := 1, group := 5, step := 3, digest := none, acked := false, safe := false }
    let o : Outst := { port := 3, tag := 4095, ref := ref0, off := 0, len := 0 }
    let s0 := (withCmd (torus 0) (snapCmd 1)).modRcv 0 (fun r => { r with snaps := [x] })
    let s : State := { s0 with eut := { s0.eut with outst := [o] } }
    s.eut.outst = [o] ∧ o.port = (3 : EPort).val ∧ o.tag = 8191 % 4096 ∧ s.running o.ref 0x60 = some (snapCmd 1) ∧
    (vget s.rcv o.ref.part).snaps.find? (fun y => y.ref == o.ref) = some x := by decide +kernel

/-- A RESTORE of group 5 from a source, on a part whose partner is at x = 1, dead or not. -/
def restoring (src : Nat) (dead : Bool) : State :=
  let s := (withCmd (torus 0) (grpCmd 0x61 src 3 [] [])).wr .RCV_PARTNER 0 0 0xC0001
  if dead then (s.deadAdd { x := 1, y := 0, z := 0 } 1).1 else s

theorem witness_SnapshotsAndDigests_restore :
    let s := restoring 1 false
    let dst := coordOf (coordNum (s.copyHolder 0))
    s.running ref0 0x61 = some (grpCmd 0x61 1 3 [] []) ∧ (vget s.rcv 0).rests = [] ∧ s.rcvState 0 = 0 ∧ rsSource (grpCmd 0x61 1 3 [] []) = 1 ∧
    s.route 0xFF (s.toPhys dst) ≠ none ∧ (restoring 1 true).route 0xFF ((restoring 1 true).toPhys dst) = none ∧
    (restoring 0 false).running ref0 0x61 = some (grpCmd 0x61 0 3 [] []) ∧ rsSource (grpCmd 0x61 0 3 [] []) = 0 := by decide +kernel

theorem witness_SnapshotsAndDigests_ledger :
    let d := theCmd 0x70 0 0 [tens 0x0F 0 16 1]
    let s := running 0x70 0 0 [tens 0x0F 0 16 1]
    let e := (s.wr64 .NUM_LEDGER_BASE_LO .NUM_LEDGER_BASE_HI hbmBase 0 0).fset Fld.NUM_LEDGER_CTRL_LOG2_ENTRIES 14 0 0
    s.running ref0 0x70 = some d ∧ cOparg d % 16 < 3 ∧ cOparg d % 16 = 0 ∧ (s.fetchTensor 0 (d.desc 0)).2 = 0 ∧
    ((s.fetchTensor 0 (d.desc 0)).1.columns (d.desc 0)).all ((s.fetchTensor 0 (d.desc 0)).1.recordOk 0) = false ∧ e.ledgerOn 0 = false ∧
    6 ≤ e.fget Fld.NUM_LEDGER_CTRL_LOG2_ENTRIES 0 0 ∧ e.fget Fld.NUM_LEDGER_CTRL_LOG2_ENTRIES 0 0 ≤ 14 ∧
    covers (e.ownedT1 0) ((e.ownedT1 0).length + 1) (e.entAddr 0 0) (e.entAddr 0 0 + 256 * e.ledgerSize 0) = true := by decide +kernel

theorem witness_SnapshotsAndDigests_digest :
    let d : Cmd := theCmd 0x80 0 0 [tens 0x0F 0 2 1, tens 0x0F (t0End - 64) 2 1, default, tens 1 4096 3 1]
    let s := withCmd base d
    let x := s.t2Stage ref0 (d.listed.flatMap (fun e => [(e.base, e.extent)] ++ (if isMx e.dtype then [(e.scale, e.scaleCount)] else [])))
    s.running ref0 0x80 = some d ∧ s.tier = State.reset.tier ∧ x.2 = true ∧ x.1.freeUnits ≠ [] ∧ (x.1.fetchTensors 0 d.listed).2 = 0 ∧
    (d.desc 1).base + 8 ≤ t0End ∧ d.listed.length = 1 := by decide +kernel

/-- Stops and waits of SNAPSHOT: one under way or an update record due, a held group, a poisoned tensor, an image too long for its space, no flash; a live
partner; a layer of the store. -/
theorem witness_SnapshotsAndDigests_other :
    let s := withCmd (torus 0) (snapCmd 0)
    let due := s.modRcv 0 (fun r => { r with due := [(0, 0, 5, 3)] })
    let short := grpCmd 0x60 0 3 (leBytes 8 hbmBase ++ leBytes 8 4096 ++ List.replicate 48 0) [default, default, default, tens 2 hbmBase 2048 1]
    let s2 : State := withCmd { torus 0 with mem := { base.mem with poison := [hbmBase / 64] } } short
    (vget due.rcv 0).due.any (fun e => e.2.2 == (cGroup (snapCmd 0), cStep (snapCmd 0))) = true ∧ due.running ref0 0x60 = some (snapCmd 0) ∧
    ((s.fset Fld.RCV_STATE_STATE 1 0 0).wr64 .RCV_DOMAIN_LO .RCV_DOMAIN_HI 32 0 0).snapHeld 0 (snapCmd 0) = true ∧ s2.running ref0 0x60 = some short ∧ (s2.fetchTensors 0 short.listed).2 ≠ 0 ∧
    snSpace short < 4096 + 1 ∧ s.flashAbsent 0 0 = true ∧ s.flashAbsent 0 (2 ^ 62) = false ∧ snLayer (snapCmd 2) = 2 ∧
    (s.wr .RCV_PARTNER 0 0 0xC0001).partnerLive 0 = true := by decide +kernel

/-- A snapshot to flash with a second write out; the writes of an EXPORT and of a RESTORE. -/
theorem witness_SnapshotsAndDigests_cpl_other :
    let o : Outst := { port := 3, tag := 4095, ref := ref0, off := 0, len := 0 }
    let y : RestRun := { ref := ref0, source := 3, group := 5, step := 3, total := 0, got := [], left := [], asked := [] }
    let e : State := { running 0x70 3 0 [] with eut := { base.eut with outst := [o] } }
    let s0 := (withCmd (torus 0) (grpCmd 0x61 3 3 [] [])).modRcv 0 (fun r => { r with rests := [y] })
    let two : State := { s0 with eut := { s0.eut with outst := [o, { o with tag := 1 }] } }
    e.running o.ref 0x70 = some (theCmd 0x70 3 0 []) ∧ e.eut.outst.find? (fun z => z.port == (3 : EPort).val && z.tag == 8191 % 4096) = some o ∧
    two.eut.outst.find? (fun z => z.port == (3 : EPort).val && z.tag == 8191 % 4096) = some o ∧
    ((two.eut.outst.filter (· != o)).any (fun z => z.ref == o.ref) || two.eut.held.any (fun z => z.out.ref == o.ref)) = true ∧
    two.running o.ref 0x61 = some (grpCmd 0x61 3 3 [] []) ∧ (vget two.rcv o.ref.part).rests.find? (fun z => z.ref == o.ref) = some y ∧
    base.eut.outst.find? (fun z => z.port == 3 && z.tag == 0) = none := by decide +kernel

/-- A RESTORE from the replicas with none, and from flash; the ledger switched on, and one whose table leaves the partition's memory. -/
theorem witness_SnapshotsAndDigests_ledger_other :
    let s := withCmd (torus 0) (grpCmd 0x61 2 3 [] [])
    let x := (base.wr64 .NUM_LEDGER_BASE_LO .NUM_LEDGER_BASE_HI 4096 0 0).fset Fld.NUM_LEDGER_CTRL_LOG2_ENTRIES 6 0 0
    let d := theCmd 0x70 3 0 []
    s.running ref0 0x61 = some (grpCmd 0x61 2 3 [] []) ∧ rsSource (grpCmd 0x61 2 3 [] []) = 2 ∧ s.replicas 0 5 = [] ∧
    rsSource (grpCmd 0x61 3 3 [] []) = 3 ∧ (base.fset Fld.NUM_LEDGER_CTRL_ENABLE 1 0 0).ledgerOn 0 = true ∧
    covers (x.ownedT1 0) ((x.ownedT1 0).length + 1) (x.entAddr 0 0) (x.entAddr 0 0 + 256 * x.ledgerSize 0) = false ∧
    (running 0x70 3 0 []).running ref0 0x70 = some d ∧ 3 ≤ cOparg d % 16 ∧ d.pieces = 0 ∧ exDest d = 0 ∧
    ((running 0x70 3 0 []).fetchTensors 0 d.listed).2 = 0 ∧ base.flashAbsent 0 0 = true ∧ base.flashAbsent 0 (2 ^ 62) = false := by decide +kernel

/-- A DIGEST with every unit held, and one of a poisoned tensor. -/
theorem witness_SnapshotsAndDigests_digest_other :
    let d : Cmd := theCmd 0x80 0 0 [default, tens 0x0F (t0End - 64) 2 1, default, tens 1 hbmBase 3 1]
    let s : State := withCmd { base with mem := { base.mem with poison := [hbmBase / 64] } } d
    let b := [0, 1, 2, 3].foldl (fun (s : State) u => s.fset Fld.CHK_Uu_CTRL_OWNED 1 u) base
    let x := s.t2Stage ref0 (d.listed.flatMap (fun e => [(e.base, e.extent)] ++ (if isMx e.dtype then [(e.scale, e.scaleCount)] else [])))
    s.running ref0 0x80 = some d ∧ x.2 = true ∧ x.1.freeUnits ≠ [] ∧ (x.1.fetchTensors 0 d.listed).2 ≠ 0 ∧
    (b.t2Stage ref0 []).1.freeUnits = [] := by decide +kernel

/-! ## Witnesses: host requests, the torus, recovery -/

theorem witness_PortsAndTorus_regs : base.hostOf 3 = some 0 ∧ base.tagBusy 3 4095 = false ∧ base.regStatus 0 (viewAddr 0 .CMD_STATUS 0) 4 false = 0 ∧
    base.regStatus 0 (viewAddr 0 .CMD_STATUS 0) 4 true = 0 ∧ base.regStatus 0 (viewAddr 0 .CMD_STATUS 0) 8 true ≠ 0 ∧
    base.regStatus 0 (doorbellAddr 0 0 63) 4 true = 0 ∧ base.regStatus 0 (doorbellAddr 0 1 4095) 4 true = 0 ∧ vcCarries 7 1 = false := by decide +kernel

theorem witness_PortsAndTorus_dma : base.dmaStatus 0 (t0End - 64) (List.replicate 64 (1 : Byte)).length true = 0 ∧ base.tier = State.reset.tier ∧
    (base.writePhys (t0End - 64) (List.replicate 64 1)).2 = 0 ∧ base.dmaStatus 0 t0End (List.replicate 64 (1 : Byte)).length true ≠ 0 ∧
    base.dmaStatus 0 hbmBase 64 false = 0 ∧ isT2 hbmBase = false ∧ (base.readAs 0 hbmBase 64).1.2 = false := by decide +kernel

/-- A header for the part at x = 1. -/
def hdrX : RouteHdr := { (default : RouteHdr) with dst := { x := 1, y := 0, z := 0 } }

theorem witness_PortsAndTorus_forward : nextHop (torus 0).extP hdrX (torus 0).ownP (3 - 3 % 2) = some (0, 2) ∧ (inLnk (torus 0) 0 6).portActive 0 = true ∧
    nextHop (inLnk (torus 0) 0 6).extP hdrX (inLnk (torus 0) 0 6).ownP 2 = some (0, 2) ∧ (torus 0).portActive 0 = false := by decide +kernel

theorem witness_PortsAndTorus_dead :
    let s := inLnk (torus 0) 5 6
    let m : DeadMsg := { (default : DeadMsg) with hops := 1, coord := { x := 1, y := 1, z := 1 } }
    s.portActive 5 = true ∧ s.isDead m.coord = false ∧ coordNum m.coord ≠ coordNum s.ownP ∧ 63 < 64 ∧ s.fbit Fld.PER_DEADi_VALID 63 = false := by
  decide +kernel

theorem witness_PortsAndTorus_group : globalWriter (.part 1) = false ∧ globalWriter (.part 0) = true ∧ globalWriter .mgc = true ∧
    (torus 0).grpActive 6 = false ∧ wGet (0x1B : Word) 0 0 = 1 ∧ wGet (0x1B : Word) 4 1 ≤ 13 ∧ (torus 0).grpActive 5 = true ∧ (3 : Fin 4).val = 3 ∧
    (0 : Fin 4).val ≠ 3 := by decide +kernel

/-- Partition 0 with an accepted ward and partner at x = 1, and a partner region. -/
def paired : State := ((torus 0).wr .RCV_WARD 0 0 0xC0001).wr .RCV_PARTNER 0 0 0xC0001 |>.fset Fld.TIER_PARTNER_PARTNER_GIB 8
def recH (rid : Nat) : RecHdr := { (default : RecHdr) with rid := rid, step := 3, sender := { x := 1, y := 0, z := 0 }, group := 5 }
def mt (n : Nat) : RouteHdr := { (default : RouteHdr) with mtype := n }

theorem witness_Recovery_protect : (mt 0x10).mtype = 0x10 ∧ paired.pairPart .RCV_WARD (recH 0).sender = some (0 : Part).val ∧
    paired.pairAccepted .RCV_WARD 0 = true ∧ 0 < (List.replicate 64 (1 : Byte)).length ∧ (List.replicate 64 (1 : Byte)).length ≤ 65536 ∧
    (List.replicate 64 (1 : Byte)).length ≤ paired.wardCap ∧ paired.tier = State.reset.tier ∧
    (paired.writePhys (paired.wardAddr ((recH 0).step % 2) 0) (List.replicate 64 1)).2 = 0 := by decide +kernel

theorem witness_Recovery_ack :
    let x : SnapRun := { ref := ref0, layer := 0, group := 5, step := 3, digest := none, acked := false, safe := false }
    let s := (paired.setQueue 0 0 { cmds := [snapCmd 0], aborting := false }).modRcv 0 (fun r => { r with snaps := [x] })
    s.groupPart (recH 0).group = 0 ∧ s.pairNames .RCV_PARTNER 0 (recH 0).sender = true ∧ (vget s.rcv 0).snaps = [x] ∧ x.ref.part = 0 ∧
    x.group = (recH 0).group ∧ x.step = (recH 0).step ∧ s.running x.ref 0x60 = some (snapCmd 0) ∧ (s.colSt x.group).commit = none ∧
    (vget paired.rcv 0).snaps = [] ∧ (recH 0).group < 64 := by decide +kernel

theorem witness_Recovery_hello : (mt 0x13).mtype = 0x13 ∧ paired.pairPart .RCV_PARTNER (recH 0).sender = some (0 : Part).val ∧
    paired.pairPart .RCV_WARD (recH 0).sender = some (0 : Part).val ∧ 15 ≠ paired.fget Fld.GLB_STRAPS_FEED_ID := by decide +kernel

/-- Partition 0 recovers group 5 with RID 7, in a state; the part is at x. -/
def rescuing (x st : Nat) : State :=
  ((((torus x).wr64 .RCV_DOMAIN_LO .RCV_DOMAIN_HI 32 0 0).fset Fld.RCV_STATE_STATE st 0 0).modRcv 0 (fun r => { r with rid := 7 }))

theorem witness_Recovery_go : (7 : Word).toNat ≤ (vget (rescuing 1 1).rcv 0).rid ∧ (vget (rescuing 1 1).rcv 0).rid < (8 : Word).toNat ∧
    (vget (rescuing 1 1).rcv 0).spare = false ∧ (rescuing 1 1).rcvState 0 ≠ 0 ∧ (rescuing 1 1).leader 0 ≠ (rescuing 1 1).selfNum := by decide +kernel

theorem witness_Recovery_census : (mt 0x14).mtype = 0x14 ∧ (rescuing 1 1).rcvPart (recH 7) = 0 ∧ (vget (rescuing 1 1).rcv 0).rid ≤ (recH 7).rid ∧
    (rescuing 1 1).rcvState 0 ≠ 2 ∧ (rescuing 1 2).rcvState 0 = 2 := by decide +kernel

theorem witness_Recovery_plan :
    let a : PlanAct := { (default : PlanAct) with coord := { x := 1, y := 0, z := 0 }, action := 1 }
    let s := rescuing 1 2
    (mt 0x15).mtype = 0x15 ∧ s.rcvPart (recH 7) = 0 ∧ (recH 7).rid = (vget s.rcv 0).rid ∧ s.rcvState 0 = 2 ∧ s.leader 0 ≠ s.selfNum ∧
    [a].find? (fun b => coordNum b.coord == s.selfNum) = some a ∧ a.action < 7 ∧ 2 ^ 32 - 1 < 2 ^ 32 := by decide +kernel

theorem witness_Recovery_fetch : (mt 0x16).mtype = 0x16 ∧ 1 ≤ 64 ∧ 64 ≤ 65536 ∧ (rescuing 1 3).groupPart (recH 7).group = 0 ∧
    (vget (rescuing 1 3).rcv 0).rid ≤ (recH 7).rid ∧ (rescuing 1 3).ownsT01 0 hbmBase 64 = true ∧ ((rescuing 1 3).readAs 0 hbmBase 64).1.2 = false := by
  decide +kernel

theorem witness_Recovery_data :
    let x : RestRun := { ref := ref0, source := 2, group := 5, step := 3, total := 0, got := [], left := [(hbmBase, 64), (hbmBase + 64, 64)], asked := [1] }
    let s := (rescuing 0 3).modRcv 0 (fun r => { r with rests := [x] })
    (mt 0x17).mtype = 0x17 ∧ s.groupPart (recH 7).group = 0 ∧ (vget s.rcv 0).rid ≤ (recH 7).rid ∧ (vget s.rcv 0).rests = [x] ∧ x.ref.part = 0 ∧
    x.group = (recH 7).group ∧ x.step = (recH 7).step ∧ x.source = 2 ∧ x.asked.contains (coordNum (recH 7).sender) = true ∧
    x.left.any (fun e => e.1 == hbmBase) = true ∧ x.left.any (fun e => e.1 != hbmBase) = true ∧ s.tier = State.reset.tier ∧
    (s.writePhys hbmBase (List.replicate 64 1)).2 = 0 := by decide +kernel

theorem witness_Recovery_done : (mt 0x18).mtype = 0x18 ∧ (recH 7).rid = (vget (rescuing 1 3).rcv 0).rid ∧ (rescuing 1 3).recovering 0 = true ∧
    (rescuing 1 3).leader 0 ≠ (rescuing 1 3).selfNum ∧ (mt 0x19).mtype = 0x19 ∧ (rescuing 1 3).rcvState 0 = 3 := by decide +kernel

/-- The other outcomes of host requests: a port of no partition, a TAG in use, a reset under way, requests that wait, a retired page, T2, poison. -/
theorem witness_PortsAndTorus_other :
    let tagged : State := { base with eut := { base.eut with hostTags := [(3, 4095)] } }
    let resetting : State := { base with boot := { base.boot with resetting := some (0, .mgc, false) } }
    let q : HostReq := { port := 3, tag := 4095, kind := .dmaRd hbmBase 64 }
    let queued : State := { base with eut := { base.eut with waiting := [q] } }
    let moving := withObj base { obj0 hbmBase with state := 1 }
    let retired := base.setStack 0 { (default : StackSt) with avail := true, retired := [{ pseudo := 0, bank := 0, row := 0, addr := hbmBase }] }
    let bad : State := { base with mem := { base.mem with poison := [hbmBase / 64] } }
    let far := (base.fset Fld.EUT_Ek_ADAPTER_INFO_VALID 1 3).fset Fld.EUT_Ek_ADAPTER_DDR_GIB 8 3
    State.reset.hostOf 3 = none ∧ tagged.tagBusy 3 8191 = true ∧ base.tagBusy 3 4095 = false ∧ resetting.inReset 0 = true ∧ resetting.tagBusy 3 4095 = false ∧
    queued.eut.waiting.any (fun x => x.port == 3) = true ∧ base.eut.waiting = [] ∧ moving.hostWaits q 0 = true ∧
    base.dmaWaits 0 hbmBase 64 true = false ∧ base.dmaWaits 0 hbmBase 64 false = false ∧ retired.dmaWaits 0 hbmBase 64 true = false ∧
    retired.dmaStatus 0 hbmBase 64 true = 0 ∧ retired.meetsRetired hbmBase 64 = true ∧ base.meetsRetired hbmBase 64 = false ∧
    bad.dmaWaits 0 hbmBase 64 false = false ∧ bad.dmaStatus 0 hbmBase 64 false = 0 ∧ isT2 (bad.resolve hbmBase) = false ∧ (bad.readAs 0 hbmBase 64).1.2 = true ∧
    far.dmaStatus 0 (t2Base + 3 * 0x40000000000) 64 false = 0 ∧ isT2 (far.resolve (t2Base + 3 * 0x40000000000)) = true ∧
    vcCarries 1 1 = true ∧ vcCarries 1 0x11 = false ∧ vcCarries 3 0x11 = true ∧ (base.hostOf 3).isSome = true ∧ base.dmaStatus 0 t2Base 64 false ≠ 0 := by
  decide +kernel

/-- A message at its destination; a full dead table, a coordinate that it holds, the own coordinate; remap entries; groups. -/
theorem witness_PortsAndTorus_torus_other :
    let full := (List.range 64).foldl (fun (s : State) i => s.fset Fld.PER_DEADi_VALID 1 i) (inLnk (torus 0) 5 6)
    let one := (inLnk (torus 0) 5 6).deadAdd ⟨1, 1, 1⟩ 1
    nextHop (torus 0).extP { hdrX with dst := ⟨0, 0, 0⟩ } (torus 0).ownP 2 = none ∧ full.portActive 5 = true ∧ full.isDead ⟨1, 1, 1⟩ = false ∧
    (List.range 64).all (fun i => full.fbit Fld.PER_DEADi_VALID i) = true ∧ one.1.isDead ⟨1, 1, 1⟩ = true ∧ (torus 0).portActive 5 = false ∧
    coordNum (⟨0, 0, 0⟩ : Coord) = coordNum (torus 0).ownP ∧ (torus 0).remapLOk 63 0 = true ∧ (torus 0).remapLOk 63 (2 ^ 6) = false ∧
    ((torus 0).part 0).valid = true ∧ wGet (0x2041 : Word) 5 0 = 1 ∧ wGet (0x1D : Word) 4 1 = 14 := by decide +kernel

/-- PROTECT: a piece that follows, and others that do not fit; a poisoned ward slot; the other outcomes of PROTECT_ACK and HELLO. -/
theorem witness_Recovery_protect_other :
    let k : CopyRec := { group := 5, step := 3, coord := 1, addr := 0, bytes := 64, whole := false }
    let s := paired.modRcv 0 (fun r => { r with ward := [(1, k)] })
    let new := paired.fset Fld.RCV_WARD_ACCEPTED 0 0 0
    Sparse.find (vget s.rcv 0).ward ((recH 0).step % 2) = some k ∧ k.group = (recH 0).group ∧ k.step = (recH 0).step ∧
    k.coord = coordNum (recH 0).sender ∧ 64 % 65536 + 64 ≤ 65536 ∧ Sparse.find (vget paired.rcv 0).ward 1 = none ∧
    new.pairAccepted .RCV_WARD 0 = false ∧ new.pairPart .RCV_WARD (recH 0).sender = some 0 ∧ paired.wardCap < paired.wardCap + 1 ∧
    base.pairPart .RCV_WARD (recH 0).sender = none ∧ base.pairPart .RCV_PARTNER (recH 0).sender = none ∧
    base.pairNames .RCV_PARTNER 0 (recH 0).sender = false ∧ paired.fget Fld.GLB_STRAPS_FEED_ID = 0 := by decide +kernel

/-- A digest that a snapshot waits for, from the one neighbour. -/
theorem witness_Recovery_digest :
    let x : SnapRun := { ref := ref0, layer := 0, group := 5, step := 3, digest := some 7, acked := true, safe := false }
    let s := (withCmd paired (snapCmd 0)).modRcv 0 (fun r => { r with snaps := [x] })
    (mt 0x12).mtype = 0x12 ∧ s.groupPart 5 = 0 ∧ s.digestAlive 5 = [1] ∧ coordNum (s.memberAt 5 1) = coordNum (recH 0).sender ∧
    s.running x.ref 0x60 = some (snapCmd 0) ∧ (s.colSt 5).commit = none ∧ s.grpSize 5 = 2 ∧ (vget s.rcv 0).snaps = [x] ∧ (vget paired.rcv 0).snaps = [] ∧
    (7 : BitVec 64).toNat = 7 ∧ (8 : BitVec 64).toNat ≠ 7 := by decide +kernel

/-- A census of the two members of group 5: with the leader's it is full; from it a plan follows where the local copies are there, and none else. -/
def cens (x : Nat) (copy : Nat) : CensusSt :=
  { rid := 7, sender := ⟨x, 0, 0⟩, spare := false, ward := ⟨1 - x, 0, 0⟩
    recs := [{ (default : CensusRec) with group := 5, updated := 3, prot := 3, wstep := 3, flash := 3, store := 3, committed := 3, local1 := copy }] }

theorem witness_Recovery_lead :
    let s := (rescuing 0 2).modRcv 0 (fun r => { r with census := [cens 0 3] })
    let late := (rescuing 0 3).modRcv 0 (fun r => { r with done := [0] })
    (vget s.rcv 0).rid ≤ 7 ∧ s.rcvState 0 = 2 ∧ s.leader 0 = s.selfNum ∧
    (s.domainMembers 0).all (fun m => ((vget s.rcv 0).census ++ [cens 1 3]).any (fun c => coordNum c.sender == m)) = true ∧
    (s.domainMembers 0).all (fun m => [cens 0 3].any (fun c => coordNum c.sender == m)) = false ∧
    (makePlan [cens 0 3, cens 1 3] (s.domain 0)).isSome = true ∧ makePlan [] (s.domain 0) = none ∧
    late.leader 0 = late.selfNum ∧ late.rcvState 0 = 3 ∧ (late.domainMembers 0).all ((vget late.rcv 0).done ++ [coordNum (recH 7).sender]).contains = true ∧
    (rescuing 0 0).remaps = [] ∧ (rescuing 1 2).rcvState 0 = 2 ∧ (rescuing 1 3).rcvState 0 ≠ 2 := by decide +kernel

/-- FETCH: a whole ward copy, one that is not there, a range that the partition does not own; FETCH_DATA without its bytes and with the last ones. -/
theorem witness_Recovery_fetch_other :
    let k : CopyRec := { group := 5, step := 3, coord := 1, addr := 0, bytes := 64, whole := true }
    let s := (rescuing 1 3).modRcv 0 (fun r => { r with ward := [(1, k)] })
    let x : RestRun := { ref := ref0, source := 2, group := 5, step := 3, total := 0, got := [], left := [(hbmBase, 64)], asked := [1] }
    let f := (withCmd (rescuing 0 1) (grpCmd 0x61 2 3 [] [])).modRcv 0 (fun r => { r with rests := [x] })
    Sparse.find (vget s.rcv 0).ward ((recH 7).step % 2) = some k ∧ k.coord = coordNum (recH 7).sender ∧ 63 < k.bytes ∧
    (List.finRange 4).all (fun q => q == 0 || (vget s.rcv q).ward.isEmpty) = true ∧ (vget (rescuing 1 3).rcv 0).ward = [] ∧
    (s.wardRead 1 0 64).1.2 = false ∧ (rescuing 1 3).ownsT01 0 t2Base 64 = false ∧ f.running x.ref 0x61 = some (grpCmd 0x61 2 3 [] []) ∧
    x.left.all (fun e => e.1 == hbmBase) = true ∧ f.rcvState 0 ≠ 3 ∧ (f.colSt 5).commit = none ∧ (vget (rescuing 1 3).rcv 0).rests = [] := by decide +kernel

/-! ## Ill-formed commands are refused -/

/-- A well-formed command of each kind of check, and one ill-formed in just what the check is about. -/
theorem test_wf_coord : Coord.wf ⟨255, 0, 255⟩ = true ∧ Coord.wf ⟨0, 256, 0⟩ = false := by decide
theorem test_wf_route : (hdr5 0).wf = true ∧ RouteHdr.wf { hdr5 0 with route := 16 } = false ∧ RouteHdr.wf { hdr5 0 with group := 64 } = false ∧
    RouteHdr.wf { hdr5 1 with group := 0xFF } = false := by decide
theorem test_wf_col : ColHdr.wf { colh with nblk := 28 } = true ∧ ColHdr.wf { colh with nblk := 29 } = false ∧ ColHdr.wf { colh with dim := 3 } = false := by decide
theorem test_wf_agree : AgreeRec.wf ⟨255, 65535, 0⟩ = true ∧ AgreeRec.wf ⟨256, 0, 0⟩ = false := by decide
theorem test_wf_block : GrBlock.wf ⟨List.replicate 64 (-32768), 0, 0, 0⟩ = true ∧ GrBlock.wf ⟨List.replicate 63 0, 0, 0, 0⟩ = false ∧
    GrBlock.wf ⟨List.replicate 64 32768, 0, 0, 0⟩ = false := by decide
theorem test_wf_ctl : ctl5.wf = true ∧ CtlMsg.wf { ctl5 with attempt := 16 } = false := by decide
theorem test_wf_rec : (recH 7).wf = true ∧ RecHdr.wf { recH 7 with group := 256 } = false := by decide
theorem test_wf_msg : msgWf 0x14 (mt 0x14) (recH 7) = true ∧ msgWf 0x13 (mt 0x13) (recH 7) = false ∧ msgWf 0x14 (mt 0x15) (recH 7) = false := by decide
theorem test_wf_piece : pieceWf 65536 = true ∧ pieceWf 0 = false ∧ pieceWf 65537 = false := by decide
theorem test_wf_census : CensusRec.wf { (default : CensusRec) with group := 64 } = false := by decide
theorem test_wf_plan : PlanAct.wf { (default : PlanAct) with action := 256 } = false := by decide
theorem test_wf_identity : ident.wf = true ∧ Identity.wf { ident with feed := 16 } = false := by decide
theorem test_wf_flit : Instr.wf (.dataFlit 0 { data0 with payload := [1] }) = false := by decide
theorem test_wf_scrub : Instr.wf (.scrub 0 [⟨hbmBase, 36, true⟩] false) = true ∧ Instr.wf (.scrub 0 [⟨hbmBase, 37, true⟩] false) = false ∧
    Instr.wf (.compute [] [(0, 32)]) = false ∧ Instr.wf (.verify 9 16) = false ∧ Instr.wf (.qualify [hbmBase]) = true ∧ Instr.wf (.qualify [hbmBase - 1]) = false := by decide
theorem test_wf_lane : LaneMeas.wf ⟨true, 2 ^ 32 - 1, 255⟩ = true ∧ LaneMeas.wf ⟨true, 0, 256⟩ = false ∧ Instr.wf (.laneFail 9 []) = false := by decide
theorem test_wf_defect : SramDefect.wf (.bank 0 65) = true ∧ SramDefect.wf (.bank 0 66) = false ∧ SramDefect.wf (.laneGroup 0 32) = false := by decide
theorem test_wf_ref : Instr.wf (.nop ref0) = true ∧ Instr.wf (.nop { ref0 with slot := 2 ^ 32 }) = false := by decide
theorem test_wf_reg : Instr.wf (.regWrite .mgc 4 0) = true ∧ Instr.wf (.regWrite .mgc 6 0) = false := by decide
theorem test_wf_txn : Instr.wf (.regRd 0 4095 0 4) = true ∧ Instr.wf (.regRd 0 4096 0 4) = false := by decide
theorem test_wf_epoch : EpochMeas.wf { (default : EpochMeas) with hsRate := [1] } = false := by decide
theorem test_wf_vec : (vf 0).wf = true ∧ VFields.wf { vf 0 with dst := 32 } = false ∧ VFields.wf (vf (2 ^ 24)) = false := by decide
theorem test_wf_tile : Instr.wf (.tileIssue ref0 0 15 1023) = true ∧ Instr.wf (.tileIssue ref0 0 16 0) = false := by decide
theorem test_wf_lists : Instr.wf (.railCurrentRead [1]) = false ∧ Instr.wf (.dieTempSample []) = false ∧
    Instr.wf (.agree (mt 1) colh []) = false ∧ Instr.wf (.messageForward (mt 1) 3 [[1]]) = false := by decide

/-! ## Worked examples and tables of the spec -/

/-- The first worked example of chapter 2: a clear of HBM_ERR that misses, then one that does not. -/
theorem test_sq_worked_example :
    let s := (base.wr .BLK_ERR 8 1 0x17010004).errSet 8 1 [Fld.ERR_VOTE_FIX] [Fld.ERR_VOTE_CNT]
    let t := s.sqClearAt 1 .BLK_ERR 8 1 0x17010004
    s.rd .BLK_ERR 8 1 = 0x18010106 ∧ t.rd .BLK_ERR 8 1 = 0x19010107 ∧ (t.sqClearAt 1 .BLK_ERR 8 1 0x19010107).rd .BLK_ERR 8 1 = 0x19000000 := by
  decide +kernel

/-- The address of the example under R51: GLB_HSRATE_A2 in the view of P1. -/
theorem test_view_address : viewAddr 1 .GLB_HSRATE_An 2 = 0x0F1001000208 := by decide

/-- "123456789". -/
def nine : List Byte := [0x31, 0x32, 0x33, 0x34, 0x35, 0x36, 0x37, 0x38, 0x39]

/-- The table of R442, and the split of R443. -/
theorem test_check_values : checkValue 0 0 nine = 0xE3069283 ∧ checkValue 1 0 nine = 0x995DC9BBDF1939FA ∧ checkValue 2 0 nine = 0xD0DB ∧
    checkValue 0 (checkValue 0 0 (nine.take 5)) (nine.drop 5) = 0xE3069283 := by decide +kernel

/-- The pool of chapter 5's example. -/
def pool24 : State :=
  let s := ((base.fset Fld.SHF_POOLp_SHAPE_OUT_W 256 0).fset Fld.SHF_POOLp_SHAPE_OUT_H 256 0).fset Fld.SHF_POOLp_SHAPE_FRAMES 16 0
  let s := ((s.fset Fld.SHF_POOLp_FMT_P 2 0).fset Fld.SHF_POOLp_FMT_T 1 0).fset Fld.SHF_POOLp_FMT_DTYPE 2 0
  ((s.fset Fld.SHF_POOLp_WIN_W 3840 0).fset Fld.SHF_POOLp_WIN_NWIN 2 0).fset Fld.SHF_POOLp_SPW_SPW 160 0

theorem test_pool_worked_example : pool24.sampleSize 0 = 6291456 ∧ pool24.poolHeads 0 = 245760 ∧ ceilDiv (pool24.poolSize 0) (2 ^ 20) = 46081 ∧
    pool24.poolSlot 0 1 485 = pool24.poolBase 0 + 245760 + (3840 + 485) * 6291456 := by decide +kernel

/-- Chapter 7: stack S2 with five pages retired outside a marked bank, and with one bank marked (R165). -/
theorem test_capacity_worked_example :
    let pg (i : Nat) : RowHit := { pseudo := 17, bank := 3, row := 0, addr := hbmBase + 2 * 0x2000000000 + i * 4096 }
    let m := { ownImage with torus := { ownImage.torus with partnerGib := 256 } }
    let s : State := { base with boot := { base.boot with img := m } }
    (s.setStack 2 { (default : StackSt) with avail := true, retired := (List.range 5).map pg }).availKib 2 = 134217728 - 33554432 - 20 ∧
    (s.setStack 2 { (default : StackSt) with avail := true, banks := [pg 0] }).availMib 2 = 131072 - 32768 - 128 := by decide +kernel

/-- Chapter 8: the tiles of the expansion layer under CUT1 and of the product that pre-empts it. -/
theorem test_tiles_worked_example :
    let d := theCmd 0x20 0 0 [tens 2 0 2560 8192, tens 2 0 10240 2560, tens 2 0 10240 8192]
    let e := theCmd 0x20 0 0 [tens 2 0 1024 4096, tens 2 0 2048 1024, tens 2 0 2048 4096]
    (planOf d 0).groups * (planOf d 0).groupTiles 0 = 60 ∧ (planOf d 0).split = 1 ∧ (planOf d 0).bh = 8192 ∧ (planOf d 0).depth = 1024 ∧
    (planOf e 0).groups * (planOf e 0).groupTiles 0 = 4 := by decide +kernel

/-- Chapter 9: 0.27 in a block with amax 3.5 (X = −7) and in one with amax 0.9 (X = −8); 10⁻⁴ in both, subnormal in the first. -/
theorem test_mx_worked_example :
    mxBlock 0x06 true [f32Val 0x40600000, f32Val 0x3E8A3D71, f32Val 0x38D1B717] = (120, [0x7E, 0x61, 0x07], [false, false, false]) ∧
    (mxBlock 0x06 true [f32Val 0x3F666666, f32Val 0x3E8A3D71, f32Val 0x38D1B717]).1 = 119 ∧
    (mxBlock 0x06 true [f32Val 0x3F666666, f32Val 0x3E8A3D71, f32Val 0x38D1B717]).2.1.drop 1 = [0x69, 0x0D] := by decide +kernel

/-- Chapter 12: lane 6 fails on a G3 × 8 link: VERIFY leaves lanes 0 to 3. -/
theorem test_lane_worked_example :
    let s := (inLnk base 0 4).modPort 0 (fun x => { x with gen := 3, lockLanes := 255, farLanes := 0xBF, session := true })
    (after (.verify 0 0xBF) s).portState 0 = 5 ∧ (vget (after (.verify 0 0xBF) s).ports 0).lanesIn = 0x0F := by decide +kernel

/-- Chapter 14: routes in the 9 × 4 torus with (3, 1) dead, and the dateline hop. -/
theorem test_routes_worked_example :
    let dead (c : Coord) : Bool := decide (c = ⟨3, 1, 0⟩)
    classRoute dead ⟨9, 4, 1⟩ ⟨2, 1, 0⟩ ⟨8, 1, 0⟩ false = some [(0, true)] ∧ classRoute dead ⟨9, 4, 1⟩ ⟨8, 1, 0⟩ ⟨4, 1, 0⟩ false = some [(0, true)] ∧
    classRoute dead ⟨9, 4, 1⟩ ⟨3, 0, 0⟩ ⟨3, 2, 0⟩ false = some [(1, true)] ∧
    nextHop ⟨9, 4, 1⟩ { hdrX with route := 2, dst := ⟨8, 1, 0⟩, src := ⟨2, 1, 0⟩ } ⟨0, 1, 0⟩ 8 = some (1, 9) ∧
    nextHop ⟨9, 4, 1⟩ { hdrX with route := 2, dst := ⟨8, 1, 0⟩, src := ⟨2, 1, 0⟩ } ⟨1, 1, 0⟩ 8 = some (1, 8) := by decide +kernel

/-- Chapter 15: one block through two adders. -/
def grBlk (l : List Int) (e : Nat) : GrBlock := mkBlock (l ++ List.replicate 61 0) e 0
theorem test_adder_worked_example :
    let a := grBlk [20000, -12345, 30001] 130
    let b := grBlk [15000, -3000, 28000] 130
    let c := grBlk [-5000, 1000, 2000] 130
    let x := addBlocks false 130 b a (fun i => if i = 1 then 2 ^ 31 - 1 else 2 ^ 31)
    let y := addBlocks false 130 c x.blk (fun _ => 0)
    a.res = 37656 ∧ b.res = 40000 ∧ c.res = 63535 ∧ x.blk.m.take 3 = [17500, -7673, 29000] ∧ x.blk.exp = 131 ∧ x.blk.res = 38827 ∧ x.check = none ∧
    y.blk.m.take 3 = [15000, -7173, 30000] ∧ y.blk.exp = 131 ∧ y.blk.res = 37827 ∧ y.check = none := by decide +kernel

/-- A flipped bit in the adder's sums is found (the end of the example). -/
theorem test_adder_flipped : adderOk 130 (grBlk [-5000, 1000, 2000] 130) (grBlk [17500, -7673, 29000] 131)
    ([30000, -14346, 60016] ++ List.replicate 61 0) = false := by decide +kernel

/-- Chapter 17: all rails at V-step 10 and 1,410 W over a cap of 1,200 W go to V-step 6. -/
theorem test_cap_worked_example :
    let s0 := (List.range 8).foldl (fun s n => s.fset Fld.PWR_RAILr_VSTEP 10 n) ((base.fset Fld.PWR_CAP_CAP_EFF 1200).fset Fld.PWR_ALLOW_ALLOW_W 1000 0 0)
    let m : EpochMeas := { (default : EpochMeas) with totalW := 1410, linkW := 60, memW := 240, railW := List.replicate 8 120 ++ [150], partW := [1410, 0, 0, 0] }
    (List.finRange 8).all (fun n => (s0.capShare m).railTarget ⟨n.val, by omega⟩ == 6) = true := by decide +kernel

/-- Chapter 20: the ranges of a DIGEST of 8 × 10⁹ bytes on four units. -/
theorem test_digest_worked_example : (digestRanges 8000000000 4).map (fun r => ceilDiv (r.2 - r.1) 65536) = [30518, 30518, 30518, 30517] ∧
    ((digestRanges 8000000000 4).headD (0, 0)).2 = 2000027648 := by decide +kernel

/-- Chapter 21: PMBUS_ALERT at V-step 15 lowers every array rail to 11 (R389). -/
theorem test_alert_worked_example :
    let s := (List.range 8).foldl (fun s n => s.fset Fld.PWR_RAILr_VSTEP 15 n) base
    (List.finRange 8).all (fun n => (after .pmbusAlert s).railTarget ⟨n.val, by omega⟩ == 11) = true := by decide +kernel

/-! ## Small tests of single commands -/

theorem test_nop_ends : ((after (.nop ref0) (running 0 0 0 [])).cmdAt 0 0 0).map (fun c => (c.finished, c.fail)) = some (true, 0) := by decide
theorem test_lock_saturates : (after (.cmdLockAdd 1 7 5) (base.lockSet 1 7 0xFFFFFFFE)).lock 1 7 = 0xFFFFFFFF := by decide +kernel
theorem test_wait_met : (base.lockSet 0 4095 0).latchWaits 0 waiting0 = { waiting0 with w0 := true, w1 := true } := by decide
/-- COPY of three INT16 elements. -/
theorem test_copy : (after (.copy ref0) ((running 0x10 0 0 [tens 0x0E 0 3 1, tens 0x0E 128 3 1]).writePhys 0 [1, 2, 3, 4, 5, 6]).1).cells 126 10 =
    [0, 0, 1, 2, 3, 4, 5, 6, 0, 0] := by decide +kernel
/-- COPY of FP32 1.0 and −1.5 to BF16. -/
theorem test_copy_converts : (after (.copy ref0)
    ((running 0x10 0 0 [tens 1 0 2 1, tens 2 128 2 1]).writePhys 0 [0, 0, 0x80, 0x3F, 0, 0, 0xC0, 0xBF]).1).cells 128 4 = [0x80, 0x3F, 0xC0, 0xBF] := by
  decide +kernel
/-- ADD of two INT32 lanes to themselves, saturated (R241). -/
theorem test_vadd : ((after (.vAdd 5 { vf 0 with ty := 4 }) (base.setEng 5 { eng5 with tr := [(1, [(0, 4), (1, 0x7FFFFFFF)])] })).eng 5).tr =
    [(1, [(0, 4), (1, 0x7FFFFFFF)]), (2, [(0, 8), (1, 0x7FFFFFFF)])] := by decide +kernel

theorem test_queue_abort : ((after (.queueAbort 0 0) ((withCmd base second).wr .CMD_Qn_TAIL 0 0 9)).qHead 0 0,
    (after (.queueAbort 0 0) ((withCmd base second).wr .CMD_Qn_TAIL 0 0 9)).queue 0 0) = (9, { cmds := [], aborting := false }) := by decide +kernel
theorem test_barge_lands : (after (.barge 3 (barge1 5)) flowing).strNext 1023 = 6 ∧ (after (.barge 3 (barge1 6)) flowing).strNext 1023 = 5 := by decide +kernel
theorem test_plan_restores_step : (after (.plan (mt 0x15) (recH 7) 9 3 false false [{ (default : PlanAct) with coord := ⟨1, 0, 0⟩, action := 1 }])
    (rescuing 1 2)).rd .COL_GRPg_CSTEP 5 = 9 := by decide +kernel
/-- The message is delivered, and an IDLE carries its acknowledgement. -/
theorem test_flit_delivered : (after (.dataFlit 0 data0) (inLnk base 0 6)).out.map (fun o => match o with | .flit _ f => f.header.toNat % 4 | _ => 7) =
    [7, 0] := by decide +kernel
theorem test_evict_frees : ((after (.evict ref0) (withObj (running 0x12 evict7 0 []) { obj0 hbmBase with state := 2, t0 := some 0x29600000 })).obj 0 7).map
    (fun o => (o.state, o.freed)) = some (3, [4095]) := by decide +kernel
theorem test_foreign_write : (after (.regWrite (.part 0) (globAddr .NUM_ARITH_CFG 0 1) 0) base).fbit Fld.ERR_ACCESS_ERR 0 4 = true := by decide +kernel
theorem test_thermtrip_pin : (after (.thermtrip 0) base).pins.thermtripN = false := by decide +kernel

/-- 11 R250, R251: a parity error in a lane that an instruction reads sets REG_SUSPECT. -/
theorem test_parity : (after (.vAdd 5 (vf 0)) (base.setEng 5 { eng5 with bad := [(0, 1, 1)] })).fbit Fld.VEC_Vn_STATE_REG_SUSPECT 5 = true := by decide

end Sys2Proof.Tests
end

section
/-! SUPPORT. The Axzel image in force: what the memory, the ledger, the collective engine and the recovery engine do never changes it. Partition, array
and port ownership are read from it, so they stay as they are wherever one of these engines works on behalf of a lost neighbour. -/

namespace Sys2Proof.Machine

/-! ## Events, messages and memory -/

@[simp] theorem State.event_boot (s : State) (e : Ev) : (s.event e).boot = s.boot := (QuietFail.event s e).boot
@[simp] theorem State.event_mem (s : State) (e : Ev) : (s.event e).mem = s.mem := (QuietFail.event s e).mem
@[simp] theorem State.sendMsg_boot (s : State) (p : PortId) (v : Nat) (b : List Byte) : (s.sendMsg p v b).boot = s.boot :=
  (Quiet.sendMsg s p v b).boot
@[simp] theorem State.grant_img (s : State) (c a n : Nat) : (s.grant c a n).boot.img = s.boot.img := (Touched.grant s c a n).img
@[simp] theorem State.touch_img (s : State) (a n : Nat) : (s.touch a n).boot.img = s.boot.img := (Touched.touch s a n).img
@[simp] theorem State.readAs_img (s : State) (c a n u : Nat) : (s.readAs c a n u).2.boot.img = s.boot.img := (Touched.readAs s c a n u).img
@[simp] theorem State.writeMem_img (s : State) (a : Nat) (b : List Byte) : (s.writeMem a b).1.boot.img = s.boot.img :=
  (Written.writeMem s a b).img
@[simp] theorem State.writeAs_img (s : State) (c a : Nat) (b : List Byte) : (s.writeAs c a b).1.boot.img = s.boot.img :=
  (Written.writeAs s c a b).img
@[simp] theorem State.scramble_img (s : State) (a n : Nat) : (s.scramble a n).boot.img = s.boot.img := by simp [State.scramble]
@[simp] theorem State.scrambleTensor_img (s : State) (d : TDesc) : (s.scrambleTensor d).boot.img = s.boot.img := by
  unfold State.scrambleTensor
  refine foldl_keep _ _ (·.boot.img) (fun s r => ?_) s
  simp

/-! ## Commands and the ledger -/

@[simp] theorem State.endCmd_boot (s : State) (r : CmdRef) (st : Nat) : (s.endCmd r st).boot = s.boot := by
  unfold State.endCmd State.endRun State.finish State.failRun
  split
  · split
    · split <;> simp
    · rfl
  · rfl

@[simp] theorem State.numEvent_boot (s : State) (p c v a b : Nat) : (s.numEvent p c v a b).boot = s.boot := s.event_boot _
@[simp] theorem State.ledStatus_boot (s : State) (p : Nat) (b c : List Fld) : (s.ledStatus p b c).boot = s.boot := s.sqSet_boot _ _ _ _ _
@[simp] theorem State.scaleClamp_boot (s : State) (p t : Nat) (e : Int) : (s.scaleClamp p t e).boot = s.boot := by simp [State.scaleClamp]

/-- A second step that keeps the image keeps what the first one left. -/
theorem seqSt_img (x : State × Nat) {f : State → State × Nat} (h : ∀ t, (f t).1.boot.img = t.boot.img) :
    (seqSt x f).1.boot.img = x.1.boot.img := h x.1

theorem foldSt_img {α : Type} (l : List α) {f : State → α → State × Nat} (h : ∀ t a, (f t a).1.boot.img = t.boot.img) (s : State) :
    (foldSt l f s).1.boot.img = s.boot.img :=
  foldlFst_rel (R := fun s t => t.boot.img = s.boot.img) (fun _ => rfl) (fun h k => k.trans h)
    (fun x a => seqSt_img x (fun t => h t a)) l (s, 0)

@[simp] theorem State.putEnt_img (s : State) (p i : Nat) (b : List Byte) : (s.putEnt p i b).1.boot.img = s.boot.img := s.writeAs_img _ _ _

@[simp] theorem State.rewriteDesc_img (s : State) (p a d c : Nat) (x : Option Nat) : (s.rewriteDesc p a d c x).1.boot.img = s.boot.img := by
  unfold State.rewriteDesc
  dsimp only
  split
  · rfl
  · split <;> simp

@[simp] theorem State.setFormat_img (s : State) (p : Nat) (b : List Byte) (l : Nat) : (s.setFormat p b l).1.boot.img = s.boot.img := by
  unfold State.setFormat
  dsimp only
  split <;> simp [seqSt_img]

@[simp] theorem State.loseHistory_img (s : State) (p i c : Nat) : (s.loseHistory p i c).1.boot.img = s.boot.img := by
  unfold State.loseHistory
  simp only [State.numEvent_boot, State.ledStatus_boot]
  rw [seqSt_img]
  · simp
  · intro t
    split <;> simp

@[simp] theorem State.checkEnt_img (s : State) (p i : Nat) : (s.checkEnt p i).1.boot.img = s.boot.img := by
  unfold State.checkEnt
  dsimp only
  split <;> simp

@[simp] theorem State.rewriteDeq_img (s : State) (p n : Nat) (b : List Byte) : (s.rewriteDeq p n b).1.boot.img = s.boot.img := by
  unfold State.rewriteDeq
  dsimp only
  split
  · rfl
  · split
    · simp
    · split
      · simp
      · rw [State.writeAs_img]
        split_ifs <;> simp

@[simp] theorem State.changeLevel_img (s : State) (p n : Nat) (b : List Byte) (l c : Nat) :
    (s.changeLevel p n b l c).1.boot.img = s.boot.img := by simp [State.changeLevel]

@[simp] theorem State.zeroRun_img (s : State) (p n : Nat) (b : List Byte) : (s.zeroRun p n b).1.1.boot.img = s.boot.img := by
  unfold State.zeroRun
  dsimp only
  split
  · rfl
  · split <;> split <;> simp

@[simp] theorem State.demote_img (s : State) (p n : Nat) (b : List Byte) : (s.demote p n b).1.1.boot.img = s.boot.img := by
  unfold State.demote
  dsimp only
  split
  · rfl
  · split_ifs <;> simp [seqSt_img]

@[simp] theorem State.commitEnt_img (s : State) (p n i : Nat) : (s.commitEnt p n i).1.boot.img = s.boot.img := by
  unfold State.commitEnt
  rw [seqSt_img _ (fun t => ?_), State.checkEnt_img]
  dsimp only
  rw [State.putEnt_img]
  split_ifs <;> simp

@[simp] theorem State.ledgerCommit_img (s : State) (p n : Nat) : (s.ledgerCommit p n).1.boot.img = s.boot.img := by
  unfold State.ledgerCommit
  dsimp only
  rw [State.wr_boot]
  split
  · split <;> simp [foldSt_img]
  · rfl

/-! ## The collective engine -/

@[simp] theorem State.modCol_boot (s : State) (g : Nat) (f : ColSt → ColSt) : (s.modCol g f).boot = s.boot := by
  simp [State.modCol, State.setCol]
@[simp] theorem State.colPhase_boot (s : State) (g n : Nat) : (s.colPhase g n).boot = s.boot := s.fset_boot _ _ _ _
@[simp] theorem State.colEvent_boot (s : State) (g c v a b : Nat) : (s.colEvent g c v a b).boot = s.boot := s.event_boot _
@[simp] theorem State.perEvent_boot (s : State) (c v a b : Nat) : (s.perEvent c v a b).boot = s.boot := s.event_boot _
@[simp] theorem State.sendCtl_boot (s : State) (p : PeerPort) (b : List Byte) : (s.sendCtl p b).boot = s.boot := by simp [State.sendCtl]

@[simp] theorem State.sendToward_boot (s : State) (c : Nat) (m : CtlMsg) (r : Nat) : (s.sendToward c m r).boot = s.boot := by
  unfold State.sendToward
  dsimp only
  split <;> simp

@[simp] theorem State.colFailRun_img (s : State) (g st : Nat) : (s.colFailRun g st).boot.img = s.boot.img := by
  unfold State.colFailRun
  split
  · rfl
  · dsimp only
    split <;> simp

@[simp] theorem State.colFailCommit_boot (s : State) (g st : Nat) : (s.colFailCommit g st).boot = s.boot := by
  unfold State.colFailCommit
  split <;> simp

@[simp] theorem State.colModeRule_boot (s : State) (g n : Nat) : (s.colModeRule g n).boot = s.boot := by
  unfold State.colModeRule
  dsimp only
  split
  · rfl
  · split
    · split <;> simp
    · split
      · split <;> simp
      · rfl

@[simp] theorem State.colCommitSteps_img (s : State) (g n : Nat) : (s.colCommitSteps g n).1.boot.img = s.boot.img := by
  simp [State.colCommitSteps]

@[simp] theorem State.colCommit_img (s : State) (g n a : Nat) : (s.colCommit g n a).boot.img = s.boot.img := by
  unfold State.colCommit
  dsimp only
  split
  · split <;> simp
  · simp

@[simp] theorem State.colForward_img (s : State) (g : Nat) : (s.colForward g).boot.img = s.boot.img := by
  unfold State.colForward
  split
  · rfl
  · dsimp only
    split
    · rfl
    · split <;> simp [State.sendToken]

@[simp] theorem State.colMemberLost_img (s : State) (c : Coord) : (s.colMemberLost c).boot.img = s.boot.img := by
  unfold State.colMemberLost
  refine foldl_keep _ _ (·.boot.img) (fun s g => ?_) s
  dsimp only
  split <;> simp

/-! ## The recovery engine -/

@[simp] theorem State.rcvEvent_boot (s : State) (p c v a b : Nat) : (s.rcvEvent p c v a b).boot = s.boot := s.event_boot _
@[simp] theorem State.rcvStatus_boot (s : State) (p : Nat) (b c : List Fld) : (s.rcvStatus p b c).boot = s.boot := s.sqSet_boot _ _ _ _ _
@[simp] theorem State.setStep_boot (s : State) (r : RegName) (p : Part) (g n : Nat) : (s.setStep r p g n).boot = s.boot := s.wr_boot _ _ _ _
@[simp] theorem State.dropOut_boot (s : State) (r : CmdRef) : (s.dropOut r).boot = s.boot := rfl
@[simp] theorem State.snapEnd_boot (s : State) (p : Part) (x : SnapRun) (st : Nat) : (s.snapEnd p x st).boot = s.boot := by simp [State.snapEnd]
@[simp] theorem State.restEnd_boot (s : State) (p : Part) (r : CmdRef) (st : Nat) : (s.restEnd p r st).boot = s.boot := by simp [State.restEnd]
@[simp] theorem State.abandon_boot (s : State) (p : Part) (b : Nat) : (s.abandon p b).boot = s.boot := by simp [State.abandon]

@[simp] theorem State.enterHold_img (s : State) (p : Part) (l : Option Nat) : (s.enterHold p l).boot.img = s.boot.img := by
  simp only [State.enterHold, State.rcvEvent_boot, State.rcvStatus_boot, State.fset_boot, State.modRcv_boot]
  exact foldl_keep _ _ (·.boot.img) (fun s g => by simp) s

@[simp] theorem State.snapPartner_img (s : State) (p : Part) (x : SnapRun) : (s.snapPartner p x).boot.img = s.boot.img := by
  unfold State.snapPartner
  simp only [State.colForward_img, State.snapEnd_boot]
  split <;> split <;> simp

@[simp] theorem State.snapTry_img (s : State) (p : Part) (x : SnapRun) : (s.snapTry p x).boot.img = s.boot.img := by
  unfold State.snapTry
  split
  · rfl
  · split
    · simp
    · dsimp only
      split
      · rfl
      · split
        · simp
        · split
          · simp
          · rw [State.snapPartner_img]
            split <;> simp

@[simp] theorem State.snapTryAll_img (s : State) (p : Part) : (s.snapTryAll p).boot.img = s.boot.img :=
  foldl_keep _ _ (·.boot.img) (fun s x => s.snapTry_img p x) s

@[simp] theorem State.restNoSource_boot (s : State) (p : Part) (r : CmdRef) : (s.restNoSource p r).boot = s.boot := by
  unfold State.restNoSource
  dsimp only
  split <;> split <;> simp

/-! ## A coordinate enters the dead table (R314) -/

@[simp] theorem State.deadAdd_boot (s : State) (c : Coord) (h : Nat) : (s.deadAdd c h).1.boot = s.boot := by
  unfold State.deadAdd
  split <;> simp

@[simp] theorem State.sendDead_boot (s : State) (m : DeadMsg) (b : Nat) : (s.sendDead m b).boot = s.boot := by
  refine foldl_keep _ _ State.boot (fun s p => ?_) s
  split <;> simp

@[simp] theorem State.deadEntered_img (s : State) (c : Coord) : (s.deadEntered c).boot.img = s.boot.img := by
  unfold State.deadEntered
  dsimp only
  rw [foldl_keep _ _ (·.boot.img) (fun s p => ?_), State.colMemberLost_img]
  -- One partition's part in turn: its recovery abandoned, its domain held, its snapshots tried, its restores without a source ended.
  rw [foldl_keep _ _ (·.boot.img) (fun s x => ?_), State.snapTryAll_img]
  · have h : (if s.recovering p = true then s.abandon p 0 else s).boot = s.boot := by split <;> simp
    generalize (if s.recovering p = true then s.abandon p 0 else s) = t at h ⊢
    split <;> split_ifs <;> simp [h]
  · split <;> simp

@[simp] theorem State.deadLink_img (s : State) (p : PeerPort) : (s.deadLink p).boot.img = s.boot.img := by
  unfold State.deadLink
  dsimp only
  split
  · rfl
  · split <;> split <;> simp

end Sys2Proof.Machine
end

section
/-! SUPPORT. The late phases of bring-up: what entering a boot state and HELD show, and what each of LINKS, COMPUTE and TOPOLOGY ends in. -/

namespace Sys2Proof.Machine

/-! ## Boot states and HELD (R398, R414) -/

/-- Beside GLB_BOOT, entering a boot state leaves alone what recording an event leaves alone. -/
theorem State.enterBoot_rd (s : State) (st : Nat) (r : RegName) (i a : Nat) (n : loud r = false) :
    (s.enterBoot st).rd r i a = (s.fset Fld.GLB_BOOT_STATE st).rd r i a := (Quiet.event _ _ (by simp)).rd r i a n

theorem State.enterBoot_fget (s : State) (st : Nat) (f : Fld) (i a : Nat) (n : loud f.reg = false) :
    (s.enterBoot st).fget f i a = (s.fset Fld.GLB_BOOT_STATE st).fget f i a := by simp only [State.fget, s.enterBoot_rd st _ i a n]

/-- Entering any state but READY only sets the state and records it. -/
theorem Quiet.enterBoot (s : State) {st : Nat} (h : st ≠ 8) : Quiet (s.fset Fld.GLB_BOOT_STATE st) (s.enterBoot st) := by
  have e : (s.boot.wasReady || st == 8) = s.boot.wasReady := by simp [h]
  unfold State.enterBoot
  dsimp only
  rw [State.fset_boot, e]
  exact Quiet.event _ _ (by simp)

@[simp] theorem State.enterBoot_mem (s : State) (st : Nat) : (s.enterBoot st).mem = s.mem := by simp [State.enterBoot]

theorem State.enterBoot_bootState (s : State) {st : Nat} (h : st < 16) : (s.enterBoot st).bootState = st := by
  unfold State.bootState
  rw [s.enterBoot_fget st _ _ _ rfl, s.fget_fset_same _ _ _ _ (by decide) (by decide)]
  exact Nat.mod_eq_of_lt h

theorem State.hold_bootState (s : State) (c : Nat) : (s.hold c).bootState = 9 := State.enterBoot_bootState _ (by decide)

/-- HELD shows its causes (R8, R414). -/
theorem State.hold_cause (s : State) {c : Nat} (h : c < 8) : (s.hold c).fget Fld.GLB_BOOT_HOLD_CAUSE = c := by
  unfold State.hold
  rw [State.enterBoot_fget _ _ _ _ _ rfl,
    State.fget_fset_ne _ (f := Fld.GLB_BOOT_STATE) (g := Fld.GLB_BOOT_HOLD_CAUSE) _ _ _ rfl
    (by decide) (by decide) (by decide) (by decide), State.fget_fset_same _ _ _ _ _ (by decide) (by decide)]
  exact Nat.mod_eq_of_lt h

@[simp] theorem State.hold_mem (s : State) (c : Nat) : (s.hold c).mem = s.mem := by simp [State.hold]

/-! ## LINKS (R398, R413) -/

/-- LINKS may end: bring-up is there, and every port that may train is ACTIVE. -/
theorem State.linksDone_iff (s : State) :
    (s.inPhase 5 && (List.finRange 10).all (fun p => !s.mayTrain p || s.portActive p.val)) = true ↔
      s.inPhase 5 = true ∧ ∀ p : PortId, s.mayTrain p = true → s.portActive p.val = true := by
  simp [List.all_eq_true, imp_iff_not_or]

/-- With a base licence the part goes on to COMPUTE. -/
theorem State.linksEnd_licensed (s : State) (h : s.licensed = true) :
    s.linksEnd.bootState = 6 ∧ Quiet (s.fset Fld.GLB_BOOT_STATE 6) s.linksEnd := by
  simp only [State.linksEnd, h, if_true]
  exact ⟨s.enterBoot_bootState (by decide), Quiet.enterBoot s (by decide)⟩

/-- Without one it holds, with the licence cause. -/
theorem State.linksEnd_unlicensed (s : State) (h : s.licensed = false) :
    s.linksEnd.bootState = 9 ∧ s.linksEnd.fget Fld.GLB_BOOT_HOLD_CAUSE = 1 ∧ s.linksEnd.mem = s.mem := by
  simp only [State.linksEnd, h, Bool.false_eq_true, if_false]
  refine ⟨State.hold_bootState _ _, State.hold_cause _ (by decide), ?_⟩
  rw [State.hold_mem, State.secEvent, State.event_mem]

/-! ## COMPUTE (R404, R405) -/

@[simp] theorem State.structClamp_mem (s : State) (b o w : Nat) (x : Bool) (f r a : Nat) : (s.structClamp b o w x f r a).mem = s.mem := by
  simp [State.structClamp]

@[simp] theorem State.areaAgain_mem (s : State) (p : Nat) : (s.areaAgain p).mem = s.mem := by
  unfold State.areaAgain
  dsimp only
  rw [State.wr_mem]
  split_ifs <;> simp

@[simp] theorem State.arrayGone_mem (s : State) (n : Nat) : (s.arrayGone n).mem = s.mem := by
  unfold State.arrayGone
  dsimp only
  split <;> simp

@[simp] theorem State.mapOut_mem (s : State) (u k i : Nat) : (s.mapOut u k i).mem = s.mem := s.event_mem _

@[simp] theorem State.mapFacet_mem (s : State) (n f : Nat) : (s.mapFacet n f).mem = s.mem := by
  unfold State.mapFacet
  dsimp only
  split
  · split <;> simp
  · simp

@[simp] theorem State.mapLane_mem (s : State) (e g : Nat) : (s.mapLane e g).mem = s.mem := by
  unfold State.mapLane
  split <;> simp [State.engineGone]

/-- The suspects of array and engine `n` are cleared. -/
def State.clearSuspects (s : State) (n : Nat) : State := (s.fset Fld.ARR_An_SUSPECT_FACETS 0 n).fset Fld.VEC_Vn_STATE_REG_SUSPECT 0 n

/-- Neither the array nor the engine `n` has a suspect. -/
def State.NoSuspects (s : State) (n : Nat) : Prop := s.fget Fld.ARR_An_SUSPECT_FACETS n = 0 ∧ s.fget Fld.VEC_Vn_STATE_REG_SUSPECT n = 0

theorem State.clearSuspects_same (s : State) (n : Nat) : (s.clearSuspects n).NoSuspects n := by
  unfold State.clearSuspects State.NoSuspects
  rw [State.fget_fset_reg _ _ _ _ _ _ (by decide), State.fget_fset_same _ _ _ _ _ (by decide) (by decide),
    State.fget_fset_same _ _ _ _ _ (by decide) (by decide)]
  exact ⟨rfl, rfl⟩

theorem State.NoSuspects.clearSuspects {s : State} {m : Nat} (h : s.NoSuspects m) {n : Nat} (k : m % 8192 ≠ n % 8192) :
    (s.clearSuspects n).NoSuspects m := by
  have e (r : RegName) := regKey_ne_inst r 0 0 k
  unfold State.NoSuspects State.clearSuspects State.fset State.fget at *
  rwa [State.rd_wr_reg _ _ _ _ _ _ (by decide), State.rd_wr_ne _ _ (e _), State.rd_wr_ne _ _ (e _),
    State.rd_wr_reg _ _ _ _ _ _ (by decide)]

theorem State.NoSuspects.enterBoot {s : State} {n : Nat} (h : s.NoSuspects n) (st : Nat) : (s.enterBoot st).NoSuspects n := by
  unfold State.NoSuspects at *
  rwa [State.enterBoot_fget _ _ _ _ _ rfl, State.enterBoot_fget _ _ _ _ _ rfl, State.fget_fset_reg _ _ _ _ _ _ (by decide),
    State.fget_fset_reg _ _ _ _ _ _ (by decide)]

theorem State.noSuspects_foldl (s : State) {k : Nat} (h : k ≤ 8192) :
    ∀ m < k, ((List.range k).foldl State.clearSuspects s).NoSuspects m := by
  induction k with
  | zero => intro m hm; omega
  | succ k ih =>
    intro m hm
    rw [List.range_succ, List.foldl_append]
    rcases Nat.lt_succ_iff_lt_or_eq.mp hm with hm | rfl
    · exact (ih (by omega) m hm).clearSuspects (by omega)
    · exact State.clearSuspects_same _ _

theorem State.compute_noSuspects (s : State) (f l : List (Quad × Nat)) (n : Quad) : (s.compute f l).NoSuspects n.val :=
  State.noSuspects_foldl _ (by decide) n.val n.isLt

@[simp] theorem State.compute_mem (s : State) (f l : List (Quad × Nat)) : (s.compute f l).mem = s.mem := by
  unfold State.compute
  dsimp only
  rw [foldl_keep _ _ State.mem (fun s n => by simp), foldl_keep _ _ State.mem (fun s e => by simp),
    foldl_keep _ _ State.mem (fun s e => by simp)]

/-! ## TOPOLOGY (R411, R413, R414) -/

/-- The partition rule speaks of the image alone. -/
theorem State.partitionRule_congr {s t : State} (h : t.boot.img = s.boot.img) : t.partitionRule = s.partitionRule := by
  simp only [State.partitionRule, State.part, State.ownArrays, State.arrOwner, State.arrImg, h]

@[simp] theorem State.absentPorts_img (s : State) : s.absentPorts.boot.img = s.boot.img := by
  unfold State.absentPorts
  refine foldl_keep _ _ (·.boot.img) (fun s p => ?_) s
  dsimp only
  split
  · split <;> simp [State.bootEvent]
  · rfl

/-- FIRMWARE_ACTIVATION changes no register but those that show the firmware. -/
theorem State.activate_rd (s : State) (r : RegName) (i a : Nat) (h : r ≠ .SEC_FWc) (n : loud r = false) : s.activate.rd r i a = s.rd r i a := by
  have k (t : State) : t.showFirmware.rd r i a = t.rd r i a := foldl_reg _ _ .SEC_FWc (fun s c r i a h => s.rd_wr_reg _ _ _ _ _ h) t r i a h
  unfold State.activate
  dsimp only
  split
  · split
    · rw [k]; rfl
    · rw [State.secEvent, (Quiet.event _ _ (by simp)).rd _ _ _ n, k]; rfl
  · rfl

theorem State.activate_fget (s : State) (f : Fld) (i a : Nat) (h : f.reg ≠ .SEC_FWc) (n : loud f.reg = false) :
    s.activate.fget f i a = s.fget f i a := by simp only [State.fget, s.activate_rd _ i a h n]

theorem State.activate_bootState (s : State) : s.activate.bootState = s.bootState := s.activate_fget _ _ _ (by decide) rfl

/-- The causes of HELD that TOPOLOGY finds: bit 1 a disagreement, bit 2 the partition rule. -/
def State.topologyCause (s : State) : Nat := (if s.disagreements = [] then 0 else 2) + (if s.partitionRule then 4 else 0)

theorem State.topologyCause_lt (s : State) : s.topologyCause < 8 := by
  unfold State.topologyCause
  split <;> split <;> decide

theorem State.topologyCause_eq_zero_iff (s : State) : s.topologyCause = 0 ↔ s.disagreements = [] ∧ s.partitionRule = false := by
  simp [State.topologyCause]

/-- TOPOLOGY, once absent ports and disagreements are recorded: neither changes the image, so the causes are those of the state before. -/
theorem State.topology_eq (s : State) : ∃ u : State, ∃ x y : Nat, s.topology =
    if s.topologyCause ≠ 0 then (u.hold s.topologyCause).activate else ((u.enterBoot 8).bootEvent 0x0F08 0 x y).activate := by
  unfold State.topology
  dsimp only
  rw [State.partitionRule_congr (s := s)]
  · simp only [List.isEmpty_iff]
    exact ⟨_, _, _, rfl⟩
  · rw [foldl_keep _ _ (·.boot.img) (fun s e => by simp [State.bootEvent])]
    exact s.absentPorts_img

theorem State.topology_ready (s : State) (h : s.topologyCause = 0) : s.topology.bootState = 8 := by
  obtain ⟨u, x, y, e⟩ := s.topology_eq
  have q : Quiet (u.enterBoot 8) ((u.enterBoot 8).bootEvent 0x0F08 0 x y) := Quiet.event _ _ (by simp)
  rw [e, if_neg (by simp [h]), State.activate_bootState, State.bootState, q.fget _ _ _ rfl]
  exact u.enterBoot_bootState (by decide)

theorem State.topology_held (s : State) (h : s.topologyCause ≠ 0) :
    s.topology.bootState = 9 ∧ s.topology.fget Fld.GLB_BOOT_HOLD_CAUSE = s.topologyCause := by
  obtain ⟨u, x, y, e⟩ := s.topology_eq
  rw [e, if_pos h, State.activate_bootState, State.activate_fget _ _ _ _ (by decide) rfl]
  exact ⟨u.hold_bootState _, u.hold_cause s.topologyCause_lt⟩

/-! ## The commands -/

/-- LINKS in its phase, with every port that may train ACTIVE, ends the phase. -/
theorem exec_links (s : State) (h : s.inPhase 5 = true) (a : ∀ p : PortId, s.mayTrain p = true → s.portActive p.val = true) :
    exec .links s = .next s.linksEnd := by simp only [exec, execLinks, if_pos (s.linksDone_iff.mpr ⟨h, a⟩)]

/-- LINKS in another phase, or while a port that may train is not ACTIVE, changes nothing. -/
theorem exec_links_stays (s : State) (h : s.inPhase 5 = false ∨ ∃ p : PortId, s.mayTrain p = true ∧ s.portActive p.val = false) :
    exec .links s = .next s := by
  have n : ¬ (s.inPhase 5 = true ∧ ∀ p : PortId, s.mayTrain p = true → s.portActive p.val = true) := by
    rintro ⟨a, b⟩
    rcases h with h | ⟨p, m, k⟩
    · simp [h] at a
    · simp [b p m] at k
  simp only [exec, execLinks, if_neg (mt s.linksDone_iff.mp n)]

theorem exec_linkWaitExpiry (s : State) : exec .linkWaitExpiry s = .next (if s.inPhase 5 then s.linksEnd else s) := rfl
theorem exec_compute (f l : List (Quad × Nat)) (s : State) :
    exec (.compute f l) s = .next (if s.inPhase 6 then (s.compute f l).enterBoot 7 else s) := rfl
theorem exec_topology (s : State) : exec .topology s = .next (if s.inPhase 7 then s.topology else s) := rfl

/-- Settles O35: in its phase each command is `linksEnd`, `compute` or `topology`, whose ends the lemmas above give. -/
theorem latePhases : Obligations.LatePhases := by
  unfold Obligations.LatePhases
  have expiry (s : State) (h : s.inPhase 5 = true) : exec .linkWaitExpiry s = .next s.linksEnd := by rw [exec_linkWaitExpiry, if_pos h]
  have topology (s : State) (h : s.inPhase 7 = true) : exec .topology s = .next s.topology := by rw [exec_topology, if_pos h]
  refine ⟨?_, ?_, ?_, ?_, ?_, ?_, ?_, exec_links_stays, ?_, ?_, ?_⟩
  · exact fun s h a l => ⟨_, exec_links s h a, s.linksEnd_licensed l⟩
  · exact fun s h a => (exec_links s h a).trans (expiry s h).symm
  · exact fun s h l => ⟨_, expiry s h, s.linksEnd_licensed l⟩
  · exact fun s h l => ⟨_, expiry s h, s.linksEnd_unlicensed l⟩
  · exact fun f l s h => ⟨_, by rw [exec_compute, if_pos h], State.enterBoot_bootState _ (by decide),
      fun n => (s.compute_noSuspects f l n).enterBoot 7, by simp⟩
  · exact fun s h d r => ⟨_, topology s h, s.topology_ready (s.topologyCause_eq_zero_iff.mpr ⟨d, r⟩)⟩
  · intro s h c
    refine ⟨_, topology s h, s.topology_held fun z => ?_⟩
    obtain ⟨d, r⟩ := s.topologyCause_eq_zero_iff.mp z
    simp [d, r] at c
  · exact fun s h => by simp [exec_linkWaitExpiry, h]
  · exact fun f l s h => by simp [exec_compute, h]
  · exact fun s h => by simp [exec_topology, h]

end Sys2Proof.Machine
end

section
/-! SUPPORT. How the operation of a command ends: what a reference names while it runs, and what setting its end leaves at its slot. -/

namespace Sys2Proof.Machine

open Sys2Proof.Safety

theorem State.cmdAt_slot {s : State} {p q n : Nat} {d : Cmd} (h : s.cmdAt p q n = some d) : d.slot = n := by
  simpa using List.find?_some h

theorem State.cmdAt_congr {s t : State} (h : t.queues = s.queues) (p q n : Nat) : t.cmdAt p q n = s.cmdAt p q n := by
  simp only [State.cmdAt, State.queue, h]

/-- Setting the command of a slot that holds one puts it there. -/
theorem State.cmdAt_setCmd_same {s : State} {p q n : Nat} {d : Cmd} (h : s.cmdAt p q n = some d) (e : Cmd) (k : e.slot = n) :
    (s.setCmd p q e).cmdAt p q n = some e := by
  subst k
  have m (c : Cmd) : ((if c.slot = e.slot then e else c).slot == e.slot) = (c.slot == e.slot) := by split <;> simp_all
  simp only [State.cmdAt, State.setCmd, State.queue_setQueue_same, List.find?_map, Function.comp_def, m]
  rw [show (s.queue p q).cmds.find? (fun c => c.slot == e.slot) = some d from h]
  simp [State.cmdAt_slot h]

/-- What it says of a command that it runs: it is the one at its slot, of the opcode asked for, and has not failed. -/
theorem State.running_some {s : State} {c : CmdRef} {op : Nat} {d : Cmd} (h : s.running c op = some d) :
    s.cmdAt c.part.val c.queue.val c.slot = some d ∧ cOpcode d = op ∧ d.fail = 0 := by
  unfold State.running at h
  split at h
  · next e he =>
    split_ifs at h with k
    obtain rfl := Option.some.inj h
    obtain ⟨-, op_eq, -, ok, -⟩ := k
    exact ⟨he, op_eq, ok⟩
  · cases h

/-- A running command runs under its own opcode alone. -/
theorem State.running_other {s : State} {c : CmdRef} {a b : Nat} {d : Cmd} (h : s.running c a = some d) (n : b ≠ a) :
    s.running c b = none := by
  by_contra k
  obtain ⟨e, he⟩ := Option.ne_none_iff_exists'.mp k
  obtain ⟨hd, ha, -⟩ := State.running_some h
  obtain ⟨hd', hb, -⟩ := State.running_some he
  obtain rfl := Option.some.inj (hd.symm.trans hd')
  exact n (hb.symm.trans ha)

/-- A command fails with the status it is failed with. -/
theorem CmdEnded.failRun {s : State} {r : CmdRef} {c d : Cmd} (h : s.cmdAt r.part.val r.queue.val r.slot = some d) (k : c.slot = r.slot)
    (st : Nat) : CmdEnded (s.failRun r c st) r st :=
  ⟨_, State.cmdAt_setCmd_same h _ k, rfl, rfl⟩

/-- A command that has not failed succeeds when its writes are made. -/
theorem CmdEnded.finish {s : State} {r : CmdRef} {c d : Cmd} (h : s.cmdAt r.part.val r.queue.val r.slot = some d) (k : c.slot = r.slot)
    (f : c.fail = 0) : CmdEnded (s.finish r c) r 0 :=
  ⟨_, State.cmdAt_setCmd_same h _ k, rfl, f⟩

/-- And it ends with the status it is ended with. -/
theorem CmdEnded.endRun {s : State} {r : CmdRef} {c d : Cmd} (h : s.cmdAt r.part.val r.queue.val r.slot = some d) (k : c.slot = r.slot)
    (f : c.fail = 0) (st : Nat) : CmdEnded (s.endRun r c st) r st := by
  unfold State.endRun
  split
  · next z => exact z ▸ CmdEnded.finish h k f
  · exact CmdEnded.failRun h k st

@[simp] theorem State.failRun_job (s : State) (r q : CmdRef) (c : Cmd) (st : Nat) : (s.failRun r c st).job q = s.job q := by
  simp only [State.job, State.failRun, State.setCmd_arr]

end Sys2Proof.Machine
end

section
/-! SUPPORT. Operand panels and jobs (R159, R174, R193): what staging panels can do to memory, how a product starts, and what a tile that issues puts
into the arrays' state. -/

namespace Sys2Proof.Machine

/-! ## Reads give the bytes that were asked for -/

theorem cutAt_length (l : List Nat) : ∀ {a e : Nat}, a ≤ e → ((cutAt a e l).map (·.2)).sum = e - a := by
  induction l with
  | nil => intro a e _; simp [cutAt]
  | cons x l ih =>
    intro a e h
    unfold cutAt
    split
    · next k => simp only [List.map_cons, List.sum_cons, ih (Nat.le_of_lt k.2)]; omega
    · exact ih h

/-- One piece of a read: what `readMem` does with it. -/
def State.readPiece (u : Nat) (a : (List Byte × Bool) × State) (r : Nat × Nat) : (List Byte × Bool) × State :=
  let x := a.2.readPhys (a.2.resolve r.1 u) r.2
  ((a.1.1 ++ x.1.1, a.1.2 || x.1.2), x.2)

theorem State.readMem_eq (s : State) (a n u : Nat) : s.readMem a n u = (s.pieces a n).foldl (State.readPiece u) (([], false), s) := rfl

theorem State.readPieces_length (u : Nat) (l : List (Nat × Nat)) (x : (List Byte × Bool) × State) :
    (l.foldl (State.readPiece u) x).1.1.length = x.1.1.length + (l.map (·.2)).sum := by
  induction l generalizing x with
  | nil => rfl
  | cons r l ih =>
    rw [List.foldl_cons, ih]
    simp [State.readPiece, State.readPhys, State.cells, Nat.add_assoc]

theorem State.readMem_length (s : State) (a n u : Nat) : (s.readMem a n u).1.1.length = n := by
  rw [State.readMem_eq, State.readPieces_length, State.pieces, cutAt_length _ (Nat.le_add_right a n)]
  simp

theorem State.readAs_length (s : State) (c a n u : Nat) : (s.readAs c a n u).1.1.length = n := State.readMem_length _ _ _ _

/-! ## Panels (R16, R159, R174) -/

/-- One range staged: the state of `stagePanels` is that of these in turn. -/
def State.stageOne (p n : Nat) (a : State × List (Nat × Nat × Nat) × Nat × Bool) (x : Nat × Nat) :
    State × List (Nat × Nat × Nat) × Nat × Bool :=
  let y := a.1.readAs p x.1 x.2 n
  ((y.2.writePhys a.2.2.1 y.1.1).1, a.2.1 ++ [(x.1, x.2, a.2.2.1)], a.2.2.1 + x.2, a.2.2.2 || y.1.2)

/-- What staging can do beside the bytes of its block. -/
theorem Written.stagePanels (s : State) (p n base : Nat) (reads : List (Nat × Nat)) : Written s (s.stagePanels p n base reads).1 :=
  foldlFst_rel (f := State.stageOne p n) Written.refl Written.trans
    (fun a x => (Touched.readAs a.1 p x.1 x.2 n).written.trans (Written.writePhys _ _ _)) reads (s, [], base, false)

/-- Staging one range changes no byte outside its part of the block. -/
theorem State.stageOne_cell (p n : Nat) (a : State × List (Nat × Nat × Nat) × Nat × Bool) (x : Nat × Nat) (y : Nat)
    (h : y < a.2.2.1 ∨ a.2.2.1 + x.2 ≤ y) : (State.stageOne p n a x).1.cell y = a.1.cell y := by
  unfold State.stageOne
  rw [State.cell_writePhys, State.readAs_length, if_neg (by omega), (Touched.readAs a.1 p x.1 x.2 n).cell]

theorem State.stageAll_cell (p n y : Nat) (l : List (Nat × Nat)) (a : State × List (Nat × Nat × Nat) × Nat × Bool)
    (h : y < a.2.2.1 ∨ a.2.2.1 + (l.map (·.2)).sum ≤ y) : (l.foldl (State.stageOne p n) a).1.cell y = a.1.cell y := by
  induction l generalizing a with
  | nil => rfl
  | cons x l ih =>
    rw [List.map_cons, List.sum_cons] at h
    have k : (State.stageOne p n a x).2.2.1 = a.2.2.1 + x.2 := rfl
    rw [List.foldl_cons, ih _ (by omega), State.stageOne_cell p n a x y (by omega)]

/-- The bytes of a list of ranges. -/
def readsLen (l : List (Nat × Nat)) : Nat := l.foldl (fun t x => t + x.2) 0

theorem readsLen_eq_sum (l : List (Nat × Nat)) : readsLen l = (l.map (·.2)).sum := by
  rw [readsLen, List.sum_eq_foldl, List.foldl_map]

/-- Staging changes bytes of its block alone. -/
theorem State.stagePanels_cell (s : State) (p n base : Nat) (reads : List (Nat × Nat)) (y : Nat)
    (h : y < base ∨ base + readsLen reads ≤ y) : (s.stagePanels p n base reads).1.cell y = s.cell y := by
  rw [readsLen_eq_sum] at h
  exact State.stageAll_cell p n y reads (s, [], base, false) h

/-! ## Jobs -/

theorem State.job_ref {s : State} {r : CmdRef} {j : Job} (h : s.job r = some j) : j.ref = r := by
  simpa using List.find?_some h

theorem State.job_congr {s t : State} (h : t.arr = s.arr) (r : CmdRef) : t.job r = s.job r := by simp only [State.job, h]

@[simp] theorem State.dropJob_job (s : State) (r : CmdRef) : (s.dropJob r).job r = none := by
  simp [State.job, State.dropJob, List.find?_eq_none]

/-- Replacing the job of a command puts the new one in its place. -/
theorem State.job_setJob_same {s : State} {r : CmdRef} {j : Job} (h : s.job r = some j) (k : Job) (e : k.ref = r) :
    (s.setJob k).job r = some k := by
  subst e
  have m (j : Job) : ((if j.ref = k.ref then k else j).ref == k.ref) = (j.ref == k.ref) := by split <;> simp_all
  simp only [State.job, State.setJob, State.setArr_arr, List.find?_map, Function.comp_def, m]
  rw [show s.arr.jobs.find? (fun j => j.ref == k.ref) = some j from h]
  simp [State.job_ref h]

/-! ## Starting a product (R193) -/

variable {s : State} {r : CmdRef} {c : Cmd}

theorem State.startJob_started (h : s.job r ≠ none) : s.startJob r c = s := by
  unfold State.startJob
  rw [if_pos (Option.isSome_iff_ne_none.mpr h)]

theorem State.startJob_noPiece (h : s.job r = none) (k : s.anyPiece r.part.val r.queue.val = false) :
    s.startJob r c = s.failRun r c 0x0304 := by simp [State.startJob, h, k]

theorem State.startJob_starts (h : s.job r = none) (k : s.anyPiece r.part.val r.queue.val = true) :
    s.startJob r c = s.setArr { s.arr with jobs := s.arr.jobs ++ [{ ref := r, grps := [], drained := 0 }] } := by
  simp [State.startJob, h, k]

/-- MATMUL and EWMUL start the same way; `ew` says which of the two a command is. -/
theorem exec_product {ew : Bool} (h : s.running r (if ew then 0x21 else 0x20) = some c) :
    exec (if ew then .ewmul r else .matmul r) s = .next (s.startJob r c) := by
  cases ew
  · have h : s.running r 0x20 = some c := h
    show execMatmul r s = _
    simp only [execMatmul, h]
  · have h : s.running r 0x21 = some c := h
    show execEwmul r s = _
    simp only [execEwmul, h]

/-- And neither does anything where it does not run. -/
theorem exec_product_none {ew : Bool} (h : s.running r (if ew then 0x21 else 0x20) = none) :
    exec (if ew then .ewmul r else .matmul r) s = .next s := by
  cases ew
  · have h : s.running r 0x20 = none := h
    show execMatmul r s = _
    simp only [execMatmul, h]
  · have h : s.running r 0x21 = none := h
    show execEwmul r s = _
    simp only [execEwmul, h]

/-! ## The tile in flight -/

/-- A tile that issues: its group's job, the tile, its panel, and the array's last command. -/
def State.putTile (s : State) (j : Job) (t : Tile) (x : Panel) : State :=
  (s.setJob j).setArr { (s.setJob j).arr with
    tiles := (s.setJob j).arr.tiles ++ [t], panels := (s.setJob j).arr.panels ++ [x], last := Sparse.insert (s.setJob j).arr.last t.array t.ref }

@[simp] theorem State.putTile_tiles (s : State) (j : Job) (t : Tile) (x : Panel) : (s.putTile j t x).arr.tiles = s.arr.tiles ++ [t] := rfl
@[simp] theorem State.putTile_queues (s : State) (j : Job) (t : Tile) (x : Panel) : (s.putTile j t x).queues = s.queues := rfl
@[simp] theorem State.putTile_cell (s : State) (j : Job) (t : Tile) (x : Panel) (a : Nat) : (s.putTile j t x).cell a = s.cell a := rfl
@[simp] theorem State.putTile_rd (s : State) (j : Job) (t : Tile) (x : Panel) (r : RegName) (i a : Nat) :
    (s.putTile j t x).rd r i a = s.rd r i a := rfl

theorem State.putTile_job {j : Job} (h : s.job r = some j) (k : Job) (e : k.ref = r) (t : Tile) (x : Panel) :
    (s.putTile k t x).job r = some k := State.job_setJob_same h k e

end Sys2Proof.Machine
end

section
/-! SUPPORT. Issuing: a tile whose operands are staged is put in flight or fails its command, and a command issues the next tile of the first group
that may (R75, R184, R193); O48 from both. -/

namespace Sys2Proof.Machine

open Sys2Proof.Safety

section
variable {s : State} {r : CmdRef} {c : Cmd}

/-! ## Staging and issuing one tile -/

/-- What a tile of a group reads from elsewhere than its array's own slice, and so has staged (R184). -/
def State.stagedReads (s : State) (c : Cmd) (p : Plan) (grp n t : Nat) : List (Nat × Nat) :=
  (tileReads c p grp t).filter (fun x => !s.inPlace n x.1)

/-- The state in which a tile's results are in: its operands staged, and SR_INF where a rounding gave an infinity (R213). -/
def State.computed (y : State) (p : Nat) (inf : Bool) : State := if inf then y.srInf p else y

theorem State.computed_queues (y : State) (p : Nat) (inf : Bool) : (y.computed p inf).queues = y.queues := by
  cases inf <;> simp [State.computed, State.srInf]

theorem State.computed_arr (y : State) (p : Nat) (inf : Bool) : (y.computed p inf).arr = y.arr := by
  cases inf <;> simp [State.computed, State.srInf]

theorem State.computed_cell (y : State) (p : Nat) (inf : Bool) (a : Nat) : (y.computed p inf).cell a = y.cell a := by
  cases inf <;> simp [State.computed, State.srInf, State.cell]

theorem State.computed_rd (y : State) (p : Nat) (inf : Bool) (r : RegName) (i a : Nat) (h : r ≠ .NUM_ARITH_STATUS) :
    (y.computed p inf).rd r i a = y.rd r i a := by
  cases inf
  · rfl
  · exact y.rd_wr_reg _ _ _ _ _ h

section
variable {p : Plan} {j : Job} {grp n piece base : Nat} {g : Grp}
  (room : s.panelRoom n (readsLen (s.stagedReads c p grp n g.done)) = some base)
include room

/-- A tile whose panels find room: its operands are staged, and it fails its command with HBM_UE where one is poisoned (R159); else it is put in
flight, with its instruction and the results computed from its panels (R174, R183). -/
theorem State.issueTile_staged :
    let y := s.stagePanels r.part.val n base (s.stagedReads c p grp n g.done)
    let x := y.1.tileCompute c p grp g g.done (y.1.panelByte n y.2.1)
    s.issueTile r c p j grp n piece g = if y.2.2 then (y.1.dropJob r).failRun r c 0x0701 else
      (y.1.computed r.part.val x.2).putTile
        { j with grps := Sparse.insert j.grps grp { g with busy := true } }
        { array := n, piece := piece, ref := r, grp := grp, idx := g.done, instr := tileBytes c p grp piece g.region g.done, retried := false,
          results := x.1, dest := if p.final grp g.done then some (drainDest (c.desc 2)) else none }
        { array := n, piece := piece, base := base, len := readsLen (s.stagedReads c p grp n g.done), segs := y.2.1 } := by
  unfold readsLen State.stagedReads at *
  unfold State.issueTile
  dsimp only
  rw [room]
  rfl

/-- A tile that issues is in flight with its bytes and results, and its group is busy; only bytes of its panel block change. -/
theorem State.issueTile_issues (job : s.job r = some j)
    (good : (s.stagePanels r.part.val n base (s.stagedReads c p grp n g.done)).2.2 = false) :
    let y := s.stagePanels r.part.val n base (s.stagedReads c p grp n g.done)
    let t := s.issueTile r c p j grp n piece g
    ∃ u : Tile, t.arr.tiles = s.arr.tiles ++ [u] ∧ u.array = n ∧ u.piece = piece ∧ u.ref = r ∧ u.grp = grp ∧ u.idx = g.done ∧
      u.retried = false ∧ u.instr = tileBytes c p grp piece g.region g.done ∧
      u.results = (y.1.tileCompute c p grp g g.done (y.1.panelByte n y.2.1)).1 ∧
      t.job r = some { j with grps := Sparse.insert j.grps grp { g with busy := true } } ∧ t.queues = s.queues ∧
      (∀ x, x < base ∨ base + readsLen (s.stagedReads c p grp n g.done) ≤ x → t.cell x = s.cell x) ∧
      KeepsRegs s t (fun r => hbmLoud r || r == .NUM_ARITH_STATUS) := by
  intro y t
  have w : Written s y.1 := Written.stagePanels _ _ _ _ _
  have arr (b : Bool) : (y.1.computed r.part.val b).arr = s.arr := (State.computed_arr _ _ _).trans w.arr
  have e := State.issueTile_staged (r := r) (j := j) (piece := piece) room
  dsimp only at e
  rw [if_neg (by simpa using good)] at e
  subst t
  rw [e]
  refine ⟨_, by rw [State.putTile_tiles, arr], rfl, rfl, rfl, rfl, rfl, rfl, rfl, rfl, ?_, ?_, ?_, ?_⟩
  · refine State.putTile_job ((State.job_congr (arr _) r).trans job) _ ?_ _ _
    show j.ref = r
    exact State.job_ref job
  · rw [State.putTile_queues, State.computed_queues, w.queues]
  · intro x hx
    rw [State.putTile_cell, State.computed_cell, s.stagePanels_cell _ _ _ _ x hx]
  · intro q i a hq _
    obtain ⟨hl, hn⟩ : hbmLoud q = false ∧ q ≠ .NUM_ARITH_STATUS := by simpa using hq
    rw [State.putTile_rd, State.computed_rd _ _ _ q i a hn, w.rd q i a hl]

/-- A tile with a poisoned operand ends its command with HBM_UE, and drops its job (R159). -/
theorem State.issueTile_poisoned {d : Cmd} (cmd : s.cmdAt r.part.val r.queue.val r.slot = some d) (slot : c.slot = r.slot)
    (bad : (s.stagePanels r.part.val n base (s.stagedReads c p grp n g.done)).2.2 = true) :
    CmdEnded (s.issueTile r c p j grp n piece g) r 0x0701 ∧ (s.issueTile r c p j grp n piece g).job r = none := by
  have w := Written.stagePanels s r.part.val n base (s.stagedReads c p grp n g.done)
  rw [State.issueTile_staged room, if_pos bad]
  exact ⟨CmdEnded.failRun ((State.cmdAt_congr w.queues _ _ _).trans cmd) slot _, by simp⟩

end

/-! ## The next tile of a command (R75, R184, R193) -/

/-- The schedule under which a command's tiles issue. -/
def State.planFor (s : State) (r : CmdRef) (c : Cmd) : Plan := planOf c (s.queueCut r.part.val r.queue.val)

/-- The group of a next tile, as the tile finds it: kept on the array, or begun there on a free region with room beside the tiles reserved (R183, R187). -/
def State.GroupReady (s : State) (j : Job) (p : Plan) (n piece region grp : Nat) (g : Grp) : Prop :=
  (Sparse.find j.grps grp = some g ∧ g.array = n) ∨
  (Sparse.find j.grps grp = none ∧ s.regionFree n region g.units = true ∧ s.reserved n piece < 2 ∧
    g = { array := n, piece := piece, region := region, units := p.units (p.block (p.place grp).2.1 (p.place grp).2.2.1).2.1,
          tiles := p.groupTiles grp, done := 0, busy := false })

section
variable {j : Job} {a : Quad} {piece region : Nat}

theorem State.tileIssue_noJob (h : s.job r = none) : s.tileIssue r a piece region c = s := by
  simp only [State.tileIssue, h]

variable (job : s.job r = some j)
include job

theorem State.tileIssue_noPiece (h : s.anyPiece r.part.val r.queue.val = false) :
    s.tileIssue r a piece region c = (s.dropJob r).failRun r c 0x0304 := by
  simp [State.tileIssue, job, h]

variable (any : s.anyPiece r.part.val r.queue.val = true)
include any

/-- The piece stays idle where it takes no tile of the command, no group has one ready, or the drain credit of a FINAL one is not free. -/
theorem State.tileIssue_idle (h : s.pieceTakes r (s.leadOf a.val) piece = false ∨ s.nextGrp j (s.planFor r c) (s.leadOf a.val) = none ∨
      ∃ grp, s.nextGrp j (s.planFor r c) (s.leadOf a.val) = some grp ∧ (s.planFor r c).final grp (j.doneOf grp) = true ∧
        s.creditFree (drainDest (c.desc 2)) = false) :
    s.tileIssue r a piece region c = s := by
  unfold State.planFor at h
  rcases h with h | h | ⟨grp, h, f, k⟩
  · simp [State.tileIssue, job, any, h]
  · simp [State.tileIssue, job, any, h]
  · simp [State.tileIssue, job, any, h, f, k]

/-- Else the next tile issues, of a group that is kept on the array or begins there. -/
theorem State.tileIssue_issues {grp : Nat} {g : Grp} (take : s.pieceTakes r (s.leadOf a.val) piece = true)
    (next : s.nextGrp j (s.planFor r c) (s.leadOf a.val) = some grp)
    (credit : (s.planFor r c).final grp (j.doneOf grp) = false ∨ s.creditFree (drainDest (c.desc 2)) = true)
    (ready : s.GroupReady j (s.planFor r c) (s.leadOf a.val) piece region grp g) :
    s.tileIssue r a piece region c = s.issueTile r c (s.planFor r c) j grp (s.leadOf a.val) piece g := by
  have k : ((s.planFor r c).final grp (j.doneOf grp) && !s.creditFree (drainDest (c.desc 2))) = false := by
    rcases credit with h | h <;> simp [h]
  unfold State.planFor at *
  rcases ready with ⟨found, here⟩ | ⟨found, free, few, rfl⟩
  · simp [State.tileIssue, job, any, take, next, k, found, here]
  · simp [State.tileIssue, job, any, take, next, k, found, free, few]

end

/-- TILE_ISSUE of a running product, MATMUL or EWMUL. -/
theorem exec_tileIssue {ew : Bool} (h : s.running r (if ew then 0x21 else 0x20) = some c) (a : Quad) (piece region : Nat) :
    exec (.tileIssue r a piece region) s = .next (s.tileIssue r a piece region c) := by
  show execTileIssue r a piece region s = _
  cases ew
  · have h : s.running r 0x20 = some c := h
    simp only [execTileIssue, h]
  · have h : s.running r 0x21 = some c := h
    simp only [execTileIssue, h, State.running_other h (b := 0x20) (by decide)]

/-- TILE_ISSUE of a command that runs no product. -/
theorem exec_tileIssue_none (h : s.running r 0x20 = none) (k : s.running r 0x21 = none) (a : Quad) (piece region : Nat) :
    exec (.tileIssue r a piece region) s = .next s := by
  show execTileIssue r a piece region s = _
  simp only [execTileIssue, h, k]

end

/-- Settles O48: a start is `startJob`, and TILE_ISSUE is `tileIssue` of the command that runs, which issues its next tile by `issueTile`. -/
theorem productsIssue : Obligations.ProductsIssue := by
  unfold Obligations.ProductsIssue
  refine ⟨?_, ?_, ?_, ?_, ?_, ?_, ?_⟩
  · intro c d s ew run job any
    refine ⟨_, (exec_product run).trans (congrArg _ (State.startJob_starts job any)), ?_, rfl, rfl⟩
    have none_before : s.arr.jobs.find? (fun j => j.ref == c) = none := job
    simp [State.job, List.find?_append, none_before]
  · intro c d s ew run job any
    obtain ⟨cmd, -, -⟩ := State.running_some run
    exact ⟨_, (exec_product run).trans (congrArg _ (State.startJob_noPiece job any)), CmdEnded.failRun cmd (State.cmdAt_slot cmd) _, rfl⟩
  · intro c s ew h
    rcases run : s.running c (if ew then 0x21 else 0x20) with _ | d
    · exact exec_product_none run
    · exact (exec_product run).trans (congrArg _ (State.startJob_started (h.resolve_left (by simp [run]))))
  · intro c d j a piece region grp base g s ew run job n p place reads len y any take next credit ready room
    obtain ⟨cmd, -, -⟩ := State.running_some run
    have issues : exec (.tileIssue c a piece region) s = .next (s.issueTile c d p j grp n piece g) :=
      (exec_tileIssue run a piece region).trans (congrArg _ (State.tileIssue_issues job any take next credit ready))
    constructor
    · intro good
      obtain ⟨u, h⟩ := State.issueTile_issues room job good
      exact ⟨_, u, issues, h⟩
    · intro bad
      exact ⟨_, issues, State.issueTile_poisoned room cmd (State.cmdAt_slot cmd) bad⟩
  · intro c d j a piece region s ew run job any
    obtain ⟨cmd, -, -⟩ := State.running_some run
    exact ⟨_, (exec_tileIssue run a piece region).trans (congrArg _ (State.tileIssue_noPiece job any)),
      CmdEnded.failRun cmd (State.cmdAt_slot cmd) _, by simp⟩
  · intro c d j a piece region s ew run job any n p idle
    exact (exec_tileIssue run a piece region).trans (congrArg _ (State.tileIssue_idle job any idle))
  · intro c a piece region s h
    rcases m : s.running c 0x20 with _ | d
    · rcases e : s.running c 0x21 with _ | d
      · exact exec_tileIssue_none m e a piece region
      · have job : s.job c = none := h.resolve_right (by simp [e])
        exact (exec_tileIssue (ew := true) e a piece region).trans (congrArg _ (State.tileIssue_noJob job))
    · have job : s.job c = none := h.resolve_right (by simp [m])
      exact (exec_tileIssue (ew := false) m a piece region).trans (congrArg _ (State.tileIssue_noJob job))

end Sys2Proof.Machine
end

section
/-! SUPPORT. What a vector engine runs leaves every queue as it is: reads and writes of tensors, each instruction, and whole programs in tile and in
streaming mode (R240 to R263). -/

namespace Sys2Proof.Machine

/-! ## Memory and flags -/

theorem foldl_queues {β : Type} {f : State → β → State} (h : ∀ s b, (f s b).queues = s.queues) (l : List β) (s : State) :
    (l.foldl f s).queues = s.queues := foldl_keep l f State.queues h s

/-- A fold that carries a result behind the state. -/
theorem foldlFst_queues {β γ : Type} {f : State × γ → β → State × γ} (h : ∀ x b, (f x b).1.queues = x.1.queues) (l : List β) (x : State × γ) :
    (l.foldl f x).1.queues = x.1.queues :=
  foldlFst_rel (R := fun s t => t.queues = s.queues) (fun _ => rfl) (fun h k => k.trans h) h l x

/-- A fold that stops at the first status that is not 0. -/
theorem foldlOk_queues {β : Type} {g : VRes → β → VRes} (h : ∀ x b, (g x b).1.queues = x.1.queues) (l : List β) (x : VRes) :
    (l.foldl (fun a b => if a.2 ≠ 0 then a else g a b) x).1.queues = x.1.queues :=
  foldlFst_queues (fun x b => by split; exacts [rfl, h x b]) l x

theorem ite_queues {c : Prop} [Decidable c] {x y : VRes} {s : State} (h : x.1.queues = s.queues) (k : y.1.queues = s.queues) :
    (if c then x else y).1.queues = s.queues := by
  split
  · exact h
  · exact k

@[simp] theorem State.event_queues (s : State) (e : Ev) : (s.event e).queues = s.queues := (QuietFail.event s e).queues
@[simp] theorem State.readAs_queues (s : State) (c a n u : Nat) : (s.readAs c a n u).2.queues = s.queues := (Touched.readAs s c a n u).queues
@[simp] theorem State.writeAs_queues (s : State) (c a : Nat) (b : List Byte) : (s.writeAs c a b).1.queues = s.queues :=
  (Written.writeAs s c a b).queues

@[simp] theorem State.permOor_queues (s : State) (e : Nat) : (s.permOor e).queues = s.queues := s.sqSet_queues _ _ _ _ _
@[simp] theorem State.rduEmpty_queues (s : State) (e : Nat) : (s.rduEmpty e).queues = s.queues := s.sqSet_queues _ _ _ _ _
@[simp] theorem State.rduNone_queues (s : State) (e : Nat) : (s.rduNone e).queues = s.queues := s.sqSet_queues _ _ _ _ _
@[simp] theorem State.nanBlocks_queues (s : State) (p n : Nat) : (s.nanBlocks p n).queues = s.queues :=
  foldl_queues (fun s _ => s.sqSet_queues _ _ _ _ _) _ s

/-! ## Tensors -/

@[simp] theorem State.fetchTensor_queues (s : State) (c : Nat) (d : TDesc) (u : Nat) : (s.fetchTensor c d u).1.queues = s.queues :=
  foldlFst_queues (fun x _ => x.1.readAs_queues _ _ _ _) _ (s, 0)

@[simp] theorem State.fetchTensors_queues (s : State) (c : Nat) (ds : List TDesc) (u : Nat) : (s.fetchTensors c ds u).1.queues = s.queues :=
  foldlFst_queues (fun x d => by simp) ds (s, 0)

@[simp] theorem State.writeRuns_queues (s : State) (c : Nat) (rs : List (Nat × List Byte)) : (s.writeRuns c rs).1.queues = s.queues :=
  foldlFst_queues (fun x r => by simp) rs (s, 0)

@[simp] theorem State.writeTensor_queues (s : State) (p : Nat) (d : TDesc) (q : Nat) (sat : Bool) (xs : List (Ix × FVal)) :
    (s.writeTensor p d q sat xs).1.queues = s.queues := by
  unfold State.writeTensor
  split <;> simp

@[simp] theorem State.touchLanes_queues (s : State) (e : Quad) (x : VecSt) (d : TDesc) (ls : List Nat) :
    (s.touchLanes e x d ls).1.queues = s.queues := by
  refine foldlFst_queues (fun y l => ?_) ls (s, 0)
  dsimp only
  split <;> simp

@[simp] theorem State.storeLanes_queues (s : State) (e : Quad) (b : Nat) (ls : List Nat) (v : Nat → FVal) :
    (s.storeLanes e b ls v).1.queues = s.queues := by simp [State.storeLanes]

/-! ## Instructions -/

@[simp] theorem State.countInstr_queues (s : State) (e : Quad) : (s.countInstr e).queues = s.queues := s.wr64_queues _ _ _ _ _

@[simp] theorem State.vecFault_queues (s : State) (e : Quad) (k l : Nat) : (s.vecFault e k l).1.queues = s.queues := by
  unfold State.vecFault
  dsimp only
  split <;> split <;> simp

@[simp] theorem State.vLoad_queues (s : State) (e : Quad) (f : VFields) : (s.vLoad e f).1.queues = s.queues := by
  unfold State.vLoad
  dsimp only
  split
  · rfl
  · split <;> simp

@[simp] theorem State.vStore_queues (s : State) (e : Quad) (f : VFields) : (s.vStore e f).1.queues = s.queues := by
  unfold State.vStore
  dsimp only
  split <;> simp

@[simp] theorem State.vCacheLoad_queues (s : State) (e : Quad) (f : VFields) : (s.vCacheLoad e f).1.queues = s.queues := by
  unfold State.vCacheLoad
  dsimp only
  split
  · simp
  · split <;> simp

@[simp] theorem State.vCacheStore_queues (s : State) (e : Quad) (f : VFields) : (s.vCacheStore e f).1.queues = s.queues := by
  unfold State.vCacheStore
  dsimp only
  split
  · rfl
  · split <;> simp

@[simp] theorem State.vGatherWord_queues (s : State) (e : Quad) (f : VFields) : (s.vGatherWord e f).1.queues = s.queues := by
  unfold State.vGatherWord
  dsimp only
  split <;> simp

@[simp] theorem State.vReadAcc_queues (s : State) (e : Quad) (f : VFields) : (s.vReadAcc e f).1.queues = s.queues := by
  unfold State.vReadAcc
  dsimp only
  split
  · dsimp only
    split <;> simp
  · simp

@[simp] theorem State.vPermute_queues (s : State) (e : Quad) (f : VFields) (g : VecSt → Nat → Nat) : (s.vPermute e f g).1.queues = s.queues := by
  unfold State.vPermute
  dsimp only
  split <;> simp

@[simp] theorem State.vActivate_queues (s : State) (d : Bool) (e : Quad) (f : VFields) : (s.vActivate d e f).1.queues = s.queues := by
  unfold State.vActivate
  dsimp only
  split <;> simp

/-- An instruction changes its engine, memory, registers and the recorder, and no queue. -/
@[simp] theorem State.vInstr_queues (s : State) (op : Nat) (e : Quad) (f : VFields) : (s.vInstr op e f).1.queues = s.queues := by
  have clean (t : State) : (t.vClean op e f).1.queues = t.queues := by
    unfold State.vClean
    split <;> simp [State.vCmp, State.vSelect, State.vMask, State.vPermReg, State.vTransReg, State.vReduce, State.vClearAcc, State.vLane]
  unfold State.vInstr
  dsimp only
  split
  · simp
  · rw [clean, State.countInstr_queues]

/-! ## Programs -/

@[simp] theorem State.takeEngine_queues (s : State) (e : Quad) (r : CmdRef) (b : Bool) : (s.takeEngine e r b).queues = s.queues :=
  s.wr_queues _ _ _ _

@[simp] theorem State.loadProg_queues (s : State) (e : Quad) (r : CmdRef) (c : Cmd) (p : Prog) : (s.loadProg e r c p).queues = s.queues := by
  simp [State.loadProg]

@[simp] theorem State.runCode_queues (s : State) (e : Quad) (code : List (Nat × Nat × VFields)) : (s.runCode e code).1.queues = s.queues :=
  foldlOk_queues (fun a i => by simp) code (s, 0)

@[simp] theorem State.passEmpty_queues (s : State) (e : Quad) (code : List (Nat × Nat × VFields)) : (s.passEmpty e code).queues = s.queues := by
  unfold State.passEmpty
  dsimp only
  split <;> simp

@[simp] theorem State.runUnit_queues (s : State) (e : Quad) (passes : List (List (Nat × Nat × VFields)))
    (ps : List (Nat × Nat × Nat × Nat)) : (s.runUnit e passes ps).1.queues = s.queues := by
  unfold State.runUnit
  refine (foldlFst_queues (fun a code => ?_) passes _).trans (s.setEng_queues _ _)
  have positions := foldlOk_queues (g := fun a pos => (a.1.setEng e { a.1.eng e with pos := pos }).runCode e code) (fun a pos => by simp) ps a
  dsimp only
  split
  · exact positions
  · exact (State.passEmpty_queues _ _ _).trans positions

@[simp] theorem State.fillBind_queues (s : State) (e : Quad) (b n : Nat) : (s.fillBind e b n).1.queues = s.queues := by
  simp [State.fillBind]

@[simp] theorem State.runFills_queues (s : State) (e : Quad) (p : Prog) : (s.runFills e p).1.queues = s.queues :=
  foldlOk_queues (fun a _ => a.1.fillBind_queues _ _ _) _ (s, 0)

@[simp] theorem State.runTile_queues (s : State) (e : Quad) (p : Prog) (units : List (List (Nat × Nat × Nat × Nat))) :
    (s.runTile e p units).1.queues = s.queues :=
  foldlOk_queues (fun a _ => a.1.runUnit_queues _ _ _) units (s, 0)

@[simp] theorem State.runTiles_queues (s : State) (es : List Quad) (p : Prog) (units : List (List (Nat × Nat × Nat × Nat))) :
    (s.runTiles es p units).1.queues = s.queues := by
  have fills := foldlOk_queues (g := fun a e => a.1.runFills e p) (fun a e => a.1.runFills_queues _ _) es (s, 0)
  exact (foldlOk_queues (fun a k => a.1.runTile_queues _ _ _) _ _).trans fills

@[simp] theorem State.streamAt_queues (s : State) (e : Quad) (op : Nat) (f : VFields) (pos : Nat × Nat × Nat × Nat) :
    (s.streamAt e op f pos).1.queues = s.queues := by
  unfold State.streamAt
  dsimp only
  split
  · simp
  · have read (t : State) (x : VecSt) (l : List Nat) := foldlOk_queues (g := fun a b => a.1.touchLanes e x (x.bind b) x.present)
      (fun a _ => a.1.touchLanes_queues _ _ _ _) l (t, 0)
    have start := ((s.countInstr e).setEng_queues e { s.eng e with pos := pos }).trans (s.countInstr_queues e)
    exact ite_queues ((read _ _ _).trans start) ((State.storeLanes_queues _ _ _ _ _).trans ((read _ _ _).trans start))

@[simp] theorem State.runStream_queues (s : State) (es : List Quad) (p : Prog) (units : List (Nat × Nat × Nat × Nat)) :
    (s.runStream es p units).1.queues = s.queues :=
  foldlFst_queues (fun a _ => foldlFst_queues (fun a _ => foldlOk_queues (fun a pos => by simp) _ a) _ a) _ (s, 0)

end Sys2Proof.Machine
end

section
/-! SUPPORT. VPROG and UPDATE end (R27, R246, R266): which engines they take, when they wait, and that what they run leaves the command in its slot to
be ended; O54 from both. -/

namespace Sys2Proof.Machine

open Sys2Proof.Safety

section
variable {s : State} {r : CmdRef} {c d : Cmd}

/-! ## What a run records with its command -/

@[simp] theorem State.gatherRecs_slot (s : State) (r : CmdRef) (c : Cmd) : (s.gatherRecs r c).slot = c.slot := rfl
@[simp] theorem State.gatherRecs_fail (s : State) (r : CmdRef) (c : Cmd) : (s.gatherRecs r c).fail = c.fail := rfl

@[simp] theorem Cmd.record_slot (c : Cmd) (d : TDesc) (x : LedRec) : (c.record d x).slot = c.slot := by
  unfold Cmd.record
  split
  · split <;> rfl
  · rfl

@[simp] theorem Cmd.record_fail (c : Cmd) (d : TDesc) (x : LedRec) : (c.record d x).fail = c.fail := by
  unfold Cmd.record
  split
  · split <;> rfl
  · rfl

/-! ## VPROG (R244, R246) -/

/-- The engines that a program takes: those that its queue allows it, or the first of them where it says SINGLE. -/
def State.vprogEngines (s : State) (r : CmdRef) (c : Cmd) : List Quad :=
  let p := parseProg c.aux
  if p.single then (s.progEngines r.part.val r.queue.val p.stream).take 1 else s.progEngines r.part.val r.queue.val p.stream

/-- A program loaded on its engines and run there, in its mode. -/
def State.vprogRun (s : State) (r : CmdRef) (c : Cmd) : VRes :=
  let p := parseProg c.aux
  let es := s.vprogEngines r c
  let t := es.foldl (fun s e => s.loadProg e r c p) s
  let units := unitsOf p ((bindsOf c).getD p.iter default)
  if p.stream then t.runStream es p units.flatten else t.runTiles es p units

theorem State.vprogRun_queues (s : State) (r : CmdRef) (c : Cmd) : (s.vprogRun r c).1.queues = s.queues := by
  have loaded := foldl_queues (fun s e => s.loadProg_queues e r c (parseProg c.aux)) (s.vprogEngines r c) s
  exact ite_queues ((State.runStream_queues _ _ _ _).trans loaded) ((State.runTiles_queues _ _ _ _).trans loaded)

/-- VPROG fails without an engine, waits for a busy one, and else runs to its end. -/
theorem State.runVprog_eq (s : State) (r : CmdRef) (c : Cmd) : s.runVprog r c =
    if (s.vprogEngines r c).isEmpty then s.failRun r c 0x0505
    else if (s.vprogEngines r c).any (s.engBusy r) then s
    else
      let x := s.vprogRun r c
      if x.2 = 0 then x.1.finish r (x.1.gatherRecs r c) else x.1.failRun r { x.1.gatherRecs r c with recs := [] } x.2 := rfl

theorem State.runVprog_noEngine (h : s.vprogEngines r c = []) : s.runVprog r c = s.failRun r c 0x0505 := by
  simp [State.runVprog_eq, h]

theorem State.runVprog_waits (h : ∃ e ∈ s.vprogEngines r c, s.engBusy r e = true) : s.runVprog r c = s := by
  have some_engine : (s.vprogEngines r c).isEmpty = false := by
    obtain ⟨e, he, -⟩ := h
    exact List.isEmpty_eq_false_iff.mpr (List.ne_nil_of_mem he)
  have busy : (s.vprogEngines r c).any (s.engBusy r) = true := List.any_eq_true.mpr h
  rw [State.runVprog_eq, if_neg (by simp [some_engine]), if_pos busy]

/-- A program that has engines, none of them busy, ends with the status of its run. -/
theorem State.runVprog_ended (cmd : s.cmdAt r.part.val r.queue.val r.slot = some d) (slot : c.slot = r.slot) (ok : c.fail = 0)
    (some_engine : s.vprogEngines r c ≠ []) (free : ∀ e ∈ s.vprogEngines r c, s.engBusy r e = false) :
    CmdEnded (s.runVprog r c) r (s.vprogRun r c).2 := by
  have kept := (State.cmdAt_congr (s.vprogRun_queues r c) _ _ _).trans cmd
  rw [State.runVprog_eq, if_neg (by simpa using some_engine), if_neg (by simpa using free)]
  dsimp only
  split
  · next z =>
    rw [z]
    exact CmdEnded.finish kept (by simpa using slot) (by simpa using ok)
  · refine CmdEnded.failRun kept ?_ _
    simpa using slot

/-! ## UPDATE (R264 to R266) -/

theorem State.runUpdate_noEngine (h : s.progEngines r.part.val r.queue.val true = []) : s.runUpdate r c = s.failRun r c 0x0505 := by
  simp [State.runUpdate, h]

theorem State.runUpdate_waits (some_engine : s.progEngines r.part.val r.queue.val true ≠ [])
    (busy : ∀ e ∈ s.progEngines r.part.val r.queue.val true, s.engBusy r e = true) : s.runUpdate r c = s := by
  have none_free : (s.progEngines r.part.val r.queue.val true).find? (fun e => !s.engBusy r e) = none := by simpa using busy
  simp [State.runUpdate, some_engine, none_free]

/-- With a free engine, an UPDATE that has been applied ends with RCV_APPLIED and any other writes its tensors. -/
theorem State.runUpdate_free (h : ∃ e ∈ s.progEngines r.part.val r.queue.val true, s.engBusy r e = false) :
    ∃ e, s.runUpdate r c = if s.applied r c then s.failRun r c 0x0B04
      else ((s.setEng e { s.eng e with ref := some r, recs := [] }).takeEngine e r true).writeUpdate r c := by
  obtain ⟨e, he, free⟩ := h
  have some_engine := List.ne_nil_of_mem he
  obtain ⟨g, first⟩ := Option.isSome_iff_exists.mp (List.find?_isSome.mpr ⟨e, he, by simp [free]⟩ :
    ((s.progEngines r.part.val r.queue.val true).find? (fun e => !s.engBusy r e)).isSome)
  exact ⟨g, by simp [State.runUpdate, some_engine, first]⟩

/-- One output of an UPDATE written: the first status that is not 0 stands, and the counts join the command. -/
def State.writeOut (r : CmdRef) (c : Cmd) (a : State × Nat × Cmd) (o : Nat × List (Ix × FVal)) : State × Nat × Cmd :=
  let x := a.1.writeTensor r.part.val (c.desc o.1) (c.sw o.1) (satOf c.arith) o.2
  (x.1, if a.2.1 = 0 then x.2.1 else a.2.1, a.2.2.record (c.desc o.1) x.2.2)

/-- Queues, slot and status stay through the outputs of an UPDATE. -/
theorem State.writeOuts_keep (s : State) (r : CmdRef) (c : Cmd) (outs : List (Nat × List (Ix × FVal))) :
    let a := outs.foldl (State.writeOut r c) (s, 0, c)
    a.1.queues = s.queues ∧ a.2.2.slot = c.slot ∧ a.2.2.fail = c.fail :=
  List.foldlRecOn (motive := fun a : State × Nat × Cmd => a.1.queues = s.queues ∧ a.2.2.slot = c.slot ∧ a.2.2.fail = c.fail) outs
    (State.writeOut r c) ⟨rfl, rfl, rfl⟩ (fun a h o _ => by simpa [State.writeOut] using h)

/-- An UPDATE that writes reads its tensors, fails where one is poisoned, and else writes its outputs in turn. -/
theorem State.writeUpdate_eq (s : State) (r : CmdRef) (c : Cmd) : ∃ (ds : List TDesc) (outs : List (Nat × List (Ix × FVal))),
    s.writeUpdate r c =
      let x := s.fetchTensors r.part.val ds
      let a := outs.foldl (State.writeOut r c) (x.1, 0, c)
      if x.2 ≠ 0 then x.1.failRun r c x.2 else a.1.endRun r a.2.2 a.2.1 := by
  unfold State.writeUpdate
  dsimp only
  exact ⟨_, _, rfl⟩

theorem State.writeUpdate_ended (cmd : s.cmdAt r.part.val r.queue.val r.slot = some d) (slot : c.slot = r.slot) (ok : c.fail = 0) :
    ∃ st, CmdEnded (s.writeUpdate r c) r st := by
  obtain ⟨ds, outs, e⟩ := s.writeUpdate_eq r c
  have read := (State.cmdAt_congr (s.fetchTensors_queues r.part.val ds 8) _ _ _).trans cmd
  obtain ⟨kept, same_slot, same_fail⟩ := (s.fetchTensors r.part.val ds).1.writeOuts_keep r c outs
  rw [e]
  dsimp only
  split
  · exact ⟨_, CmdEnded.failRun read slot _⟩
  · exact ⟨_, CmdEnded.endRun ((State.cmdAt_congr kept _ _ _).trans read) (same_slot.trans slot) (same_fail.trans ok) _⟩

end

/-- Settles O54: VPROG and UPDATE are `runVprog` and `runUpdate` of the command that runs; the formula of SGD is `updateElem`'s own. -/
theorem programsAndUpdates : Obligations.ProgramsAndUpdates := by
  unfold Obligations.ProgramsAndUpdates
  refine ⟨?_, ?_, ?_, fun p g w m v => rfl⟩
  · intro c d s run p es
    obtain ⟨cmd, -, ok⟩ := State.running_some run
    have prog : exec (.vprog c) s = .next (s.runVprog c d) := by
      show execVprog c s = _
      simp only [execVprog, run]
    refine ⟨fun free => ?_, fun busy => prog.trans (congrArg _ (State.runVprog_waits busy))⟩
    by_cases none_usable : es = []
    · exact ⟨_, _, prog.trans (congrArg _ (State.runVprog_noEngine none_usable)), CmdEnded.failRun cmd (State.cmdAt_slot cmd) _, fun _ => rfl⟩
    · exact ⟨_, _, prog, State.runVprog_ended cmd (State.cmdAt_slot cmd) ok none_usable free, fun h => absurd h none_usable⟩
  · intro c d s run es
    obtain ⟨cmd, -, ok⟩ := State.running_some run
    have slot := State.cmdAt_slot cmd
    have update : exec (.update c) s = .next (s.runUpdate c d) := by
      show execUpdate c s = _
      simp only [execUpdate, run]
    refine ⟨fun none_usable => ?_, fun free => ?_, fun some_engine busy => update.trans (congrArg _ (State.runUpdate_waits some_engine busy))⟩
    · exact ⟨_, update.trans (congrArg _ (State.runUpdate_noEngine none_usable)), CmdEnded.failRun cmd slot _, rfl⟩
    · obtain ⟨e, h⟩ := State.runUpdate_free (c := d) free
      by_cases done : s.applied c d = true
      · rw [if_pos done] at h
        exact ⟨_, _, update.trans (congrArg _ h), CmdEnded.failRun cmd slot _, fun _ => ⟨rfl, rfl⟩⟩
      · rw [if_neg done] at h
        have kept : ((s.setEng e { s.eng e with ref := some c, recs := [] }).takeEngine e c true).queues = s.queues := by simp
        obtain ⟨st, ended⟩ := State.writeUpdate_ended ((State.cmdAt_congr kept _ _ _).trans cmd) slot ok
        exact ⟨_, st, update.trans (congrArg _ h), ended, fun k => absurd k done⟩
  · intro c s
    constructor <;> intro idle
    · show execVprog c s = _
      simp only [execVprog, idle]
    · show execUpdate c s = _
      simp only [execUpdate, idle]

end Sys2Proof.Machine
end

section
/-! SUPPORT. Words and the register file: what folds over the fields of a register leave in each field, the fields that are apart in every register, what
one write leaves alone, and what a clamp record leaves alone. -/

namespace Sys2Proof.Machine

/-! ## Fields of a word (R46 to R48) -/

/-- Two fields of a word that share no bit. -/
abbrev FieldSpec.Apart (f g : FieldSpec) : Prop := f.hi < g.lo ∨ g.hi < f.lo

/-- A fold whose steps leave a field alone leaves it alone. -/
theorem wGet_foldl_keep {β : Type} (l : List β) (step : Word → β → Word) {a b : Nat}
    (h : ∀ w, ∀ x ∈ l, wGet (step w x) a b = wGet w a b) (w : Word) : wGet (l.foldl step w) a b = wGet w a b := by
  induction l generalizing w with
  | nil => rfl
  | cons x l ih => rw [List.foldl_cons, ih (fun w y hy => h w y (List.mem_cons_of_mem _ hy)), h w x List.mem_cons_self]

/-- A fold over fields that are apart, each of whose steps touches its own field alone, leaves in a field what the step of that field puts there. -/
theorem wGet_foldl_field {l : List FieldSpec} (step : Word → FieldSpec → Word) (ap : l.Pairwise FieldSpec.Apart)
    (own : ∀ w, ∀ f ∈ l, ∀ g ∈ l, f.Apart g → wGet (step w f) g.hi g.lo = wGet w g.hi g.lo) {f : FieldSpec} (hf : f ∈ l) (w : Word) :
    ∃ u : Word, wGet u f.hi f.lo = wGet w f.hi f.lo ∧ wGet (l.foldl step w) f.hi f.lo = wGet (step u f) f.hi f.lo := by
  obtain ⟨l₁, l₂, rfl⟩ := List.append_of_mem hf
  obtain ⟨-, ap₂, cross⟩ := List.pairwise_append.mp ap
  refine ⟨l₁.foldl step w, wGet_foldl_keep l₁ step (fun u g hg => ?_) w, ?_⟩
  · exact own u g (by simp [hg]) f (by simp) (cross g hg f List.mem_cons_self)
  · rw [List.foldl_append, List.foldl_cons]
    refine wGet_foldl_keep l₂ step (fun u g hg => ?_) _
    exact own u g (by simp [hg]) f (by simp) (Or.symm ((List.pairwise_cons.mp ap₂).1 g hg))

/-- The fields of every register lie in its word and share no bit. -/
theorem fields_apart (r : RegName) : r.spec.fields.Pairwise FieldSpec.Apart ∧ ∀ f ∈ r.spec.fields, f.lo ≤ f.hi ∧ f.hi < 32 := by
  cases r <;> decide

/-- The status bits and the counters of every register lie below SEQ and share no bit. -/
theorem sqFields_apart (r : RegName) :
    (sqBits r ++ sqCounters r).Pairwise FieldSpec.Apart ∧ ∀ f ∈ sqBits r ++ sqCounters r, f.lo ≤ f.hi ∧ f.hi < 24 := by
  cases r <;> decide

/-- The bounds of a field's range, or its reset value where the range is a list of encodings, fit into its width. -/
def FieldSpec.rangeFits (f : FieldSpec) : Bool :=
  match f.range with
  | .full => true
  | .num lo hi _ => decide (lo < 2 ^ (f.hi + 1 - f.lo)) && decide (hi < 2 ^ (f.hi + 1 - f.lo))
  | .enum _ => decide (f.reset < 2 ^ (f.hi + 1 - f.lo))

theorem fields_rangeFit (r : RegName) : ∀ f ∈ r.spec.fields, f.rangeFits = true := by
  cases r <;> decide

/-- The legal value for a value of a field's width fits into the width (R48). -/
theorem rangeFix_lt {f : FieldSpec} (h : f.rangeFits = true) {v : Nat} (hv : v < 2 ^ (f.hi + 1 - f.lo)) :
    rangeFix f v < 2 ^ (f.hi + 1 - f.lo) := by
  unfold FieldSpec.rangeFits at h
  unfold rangeFix
  cases e : f.range with
  | full => exact hv
  | num lo hi st =>
    simp only [e, Bool.and_eq_true, decide_eq_true_eq] at h
    have near : (if v < lo then lo else if hi < v then hi else v) < 2 ^ (f.hi + 1 - f.lo) := by
      split
      · exact h.1
      · split
        · exact h.2
        · exact hv
    dsimp only
    split
    · exact near
    · exact (Nat.div_mul_le_self _ _).trans_lt near
  | enum l =>
    simp only [e, decide_eq_true_eq] at h
    dsimp only
    split
    · exact hv
    · exact h

/-- Each field that software writes takes the legal value for what was requested (R48). -/
theorem wGet_rangeWord (r : RegName) (old req : Word) {f : FieldSpec} (hf : f ∈ r.spec.fields) (w : f.writable = true) :
    wGet (rangeWord r old req) f.hi f.lo = rangeFix f (wGet req f.hi f.lo) := by
  obtain ⟨ap, bd⟩ := fields_apart r
  obtain ⟨u, -, e⟩ := wGet_foldl_field
    (fun w f => if f.writable then wSet w f.hi f.lo (rangeFix f (wGet req f.hi f.lo)) else w) ap
    (fun w f hf g hg d => by
      split
      · exact wGet_wSet_ne _ _ (bd f hf).1 (bd f hf).2 (bd g hg).1 d.symm
      · rfl) hf old
  rw [rangeWord, e, if_pos w, wGet_wSet_same _ _ (bd f hf).1 (bd f hf).2,
    Nat.mod_eq_of_lt (rangeFix_lt (fields_rangeFit r f hf) (show wGet req f.hi f.lo < _ from bitsOf_lt _ _ _))]

/-- Clearing some of the fields of a list that are apart, all below bit 24: a field that is chosen reads zero, another as before. -/
theorem wGet_clear {l : List FieldSpec} (ap : l.Pairwise FieldSpec.Apart) (bd : ∀ f ∈ l, f.lo ≤ f.hi ∧ f.hi < 24) (c : FieldSpec → Prop)
    [DecidablePred c] (w : Word) {f : FieldSpec} (hf : f ∈ l) :
    wGet (l.foldl (fun w f => if c f then wSet w f.hi f.lo 0 else w) w) f.hi f.lo = if c f then 0 else wGet w f.hi f.lo := by
  obtain ⟨u, hu, e⟩ := wGet_foldl_field (fun w f => if c f then wSet w f.hi f.lo 0 else w) ap
    (fun w f hf g hg d => by
      split
      · exact wGet_wSet_ne _ _ (bd f hf).1 ((bd f hf).2.trans (by decide)) (bd g hg).1 d.symm
      · rfl) hf w
  rw [e]
  split
  · rw [wGet_wSet_same _ _ (bd f hf).1 ((bd f hf).2.trans (by decide)), Nat.zero_mod]
  · exact hu

/-- Clearing fields of a list leaves every field apart from them alone. -/
theorem wGet_clear_keep {l : List FieldSpec} (bd : ∀ f ∈ l, f.lo ≤ f.hi ∧ f.hi < 24) (c : FieldSpec → Prop) [DecidablePred c] (w : Word)
    {a b : Nat} (hb : b ≤ a) (d : ∀ f ∈ l, a < f.lo ∨ f.hi < b) :
    wGet (l.foldl (fun w f => if c f then wSet w f.hi f.lo 0 else w) w) a b = wGet w a b := by
  refine wGet_foldl_keep _ _ (fun w f hf => ?_) _
  split
  · exact wGet_wSet_ne _ _ (bd f hf).1 ((bd f hf).2.trans (by decide)) hb (d f hf)
  · rfl

/-- The counters of a clear, as fields of which each is chosen. -/
theorem sqCleared_eq (r : RegName) (w v : Word) :
    sqCleared r w v = (sqCounters r).foldl (fun w f => if True then wSet w f.hi f.lo 0 else w)
      ((sqBits r).foldl (fun w f => if wGet v f.hi f.lo = 1 then wSet w f.hi f.lo 0 else w) w) := by
  simp only [sqCleared, if_true]

section Cleared

variable (r : RegName) (w v : Word)

/-- A clear that matches clears the status bits written as 1 and leaves the others (R47). -/
theorem wGet_sqCleared_bit {f : FieldSpec} (hf : f ∈ sqBits r) :
    wGet (sqCleared r w v) f.hi f.lo = if wGet v f.hi f.lo = 1 then 0 else wGet w f.hi f.lo := by
  obtain ⟨ap, bd⟩ := sqFields_apart r
  obtain ⟨apb, -, cross⟩ := List.pairwise_append.mp ap
  rw [sqCleared_eq, wGet_clear_keep (fun g hg => bd g (List.mem_append_right _ hg)) _ _ (bd f (List.mem_append_left _ hf)).1
    (fun g hg => cross f hf g hg), wGet_clear apb (fun g hg => bd g (List.mem_append_left _ hg)) _ _ hf]

/-- It zeroes every counter (R47). -/
theorem wGet_sqCleared_counter {f : FieldSpec} (hf : f ∈ sqCounters r) : wGet (sqCleared r w v) f.hi f.lo = 0 := by
  obtain ⟨ap, bd⟩ := sqFields_apart r
  obtain ⟨-, apc, -⟩ := List.pairwise_append.mp ap
  rw [sqCleared_eq, wGet_clear apc (fun g hg => bd g (List.mem_append_right _ hg)) _ _ hf, if_pos trivial]

/-- It leaves SEQ (R47). -/
theorem wGet_sqCleared_seq : wGet (sqCleared r w v) 31 24 = wGet w 31 24 := by
  obtain ⟨-, bd⟩ := sqFields_apart r
  rw [sqCleared_eq, wGet_clear_keep (fun g hg => bd g (List.mem_append_right _ hg)) _ _ (by decide)
      (fun g hg => Or.inr (bd g (List.mem_append_right _ hg)).2),
    wGet_clear_keep (fun g hg => bd g (List.mem_append_left _ hg)) _ _ (by decide)
      (fun g hg => Or.inr (bd g (List.mem_append_left _ hg)).2)]

end Cleared

/-- A hardware set raises SEQ by one modulo 256 (R46). -/
theorem wGet_sqWord_seq (w : Word) (bits cnts : List Fld) :
    wGet (sqWord w bits cnts) 31 24 = (wGet (cnts.foldl (fun a f => sqCount a f 1) (bits.foldl sqOr w)) 31 24 + 1) % 256 :=
  wGet_wSet_same _ _ (by decide) (by decide)

/-! ## One write, one hardware set -/

/-- A write of a register changes nothing else. -/
theorem OnlyRegs.wr (s : State) (r : RegName) (i a : Nat) (v : Word) : OnlyRegs s (s.wr r i a v) [regKey r i a] := by
  refine ⟨?_, fun q j b h => s.rd_wr_ne v (by simpa using h)⟩
  unfold State.wr RegFile.wr
  split <;> rfl

@[simp] theorem State.wr_staged (s : State) (r : RegName) (i a : Nat) (v : Word) : (s.wr r i a v).rf.staged = s.rf.staged := by
  rw [(OnlyRegs.wr s r i a v).rest]

/-- A field write leaves every other register alone. -/
theorem State.rd_fset_reg (s : State) {f : Fld} {r : RegName} (v i a j b : Nat) (h : r ≠ f.reg) :
    (s.fset f v i a).rd r j b = s.rd r j b := s.rd_wr_reg _ _ _ _ _ h

/-- So does a hardware set of an ERR register. -/
theorem State.rd_errSet_reg (s : State) {r : RegName} (k v j b : Nat) (x y : List Fld) (h : r ≠ .BLK_ERR) :
    (s.errSet k v x y).rd r j b = s.rd r j b := s.rd_wr_reg _ _ _ _ _ h

/-! ## Clamp records (R49) -/

/-- What a clamp record leaves alone. -/
structure Clamped (s t : State) : Prop where
  mem : t.mem = s.mem
  resetting : t.boot.resetting = s.boot.resetting
  regs : KeepsRegs s t (fun q => q == .BLK_ERR || q == .GLB_CLAMP_HEAD)

theorem Clamped.refl (s : State) : Clamped s s := ⟨rfl, rfl, fun _ _ _ _ _ => rfl⟩

theorem Clamped.trans {s t u : State} (h : Clamped s t) (k : Clamped t u) : Clamped s u :=
  ⟨k.mem.trans h.mem, k.resetting.trans h.resetting, fun r i a n l => (k.regs r i a n l).trans (h.regs r i a n l)⟩

theorem Clamped.clampRecord (s : State) (view block bit width flags off req app : Nat) :
    Clamped s (s.clampRecord view block bit width flags off req app) := by
  unfold State.clampRecord
  dsimp only
  refine ⟨by simp, by simp, fun r i a n l => ?_⟩
  obtain ⟨e, c⟩ := Bool.or_eq_false_iff.mp n
  rw [(Quiet.event _ _ (by simp)).rd r i a l, State.rd_errSet_reg _ _ _ _ _ _ _ (by simpa using e),
    State.rd_fset_reg _ _ _ _ _ _ (by simpa [Fld.GLB_CLAMP_HEAD_COUNT] using c)]
  rfl

theorem Clamped.recordClamps (s : State) (view : Nat) (r : RegName) (inst flags : Nat) (cs : List (FieldSpec × Nat × Nat × Bool)) :
    Clamped s (s.recordClamps view r inst flags cs) := by
  unfold State.recordClamps
  induction cs generalizing s with
  | nil => exact Clamped.refl s
  | cons c cs ih => exact (Clamped.clampRecord s _ _ _ _ _ _ _ _).trans (ih _)

end Sys2Proof.Machine
end

section
/-! SUPPORT. Register accesses: bad accesses, plain writes, shadows, staging words and clears, each said once for the access and then for its command. -/

namespace Sys2Proof.Machine

/-! ## Accesses that reach no register (R38, R39) -/

theorem OnlyRegs.accessErr (s : State) (v : Nat) : OnlyRegs s (s.accessErr v) [regKey .BLK_ERR 0 v] := OnlyRegs.wr _ _ _ _ _

theorem State.accessErr_bit (s : State) (v : Nat) : (s.accessErr v).fget Fld.ERR_ACCESS_ERR 0 v = 1 :=
  s.sqSet_bit Fld.ERR_ACCESS_ERR 0 v rfl (by decide)

/-- A hardware set of a register: SEQ after it (R46). -/
theorem State.sqSet_seq (s : State) (r : RegName) (i a : Nat) (bits cnts : List Fld) :
    wGet ((s.sqSet r i a bits cnts).rd r i a) 31 24 =
      (wGet (cnts.foldl (fun a f => sqCount a f 1) (bits.foldl sqOr (s.rd r i a))) 31 24 + 1) % 256 := by
  rw [State.sqSet, State.rd_wr_same, wGet_sqWord_seq]

theorem State.accessErr_seq (s : State) (v : Nat) :
    wGet ((s.accessErr v).rd .BLK_ERR 0 v) 31 24 = (wGet (s.rd .BLK_ERR 0 v) 31 24 + 1) % 256 := by
  rw [State.accessErr, State.errSet, s.sqSet_seq]
  simp only [List.foldl_nil, List.foldl_cons, sqOr]
  rw [wGet_wSet_ne _ _ (by decide) (by decide) (by decide) (by decide)]

/-- A command that leaves the partition resets alone begins none. -/
theorem State.thenReset_of_resetting {s t : State} (h : t.boot.resetting = s.boot.resetting) : s.thenReset t = t := by
  unfold State.thenReset State.beginReset
  rw [h]
  cases s.boot.resetting with
  | none => rfl
  | some x => rfl

/-- A write whose access leaves the partition resets alone is that access. -/
theorem exec_regWrite {r : Requester} {addr : Nat} {v : Word} {s t : State} (h : s.regWrite r addr v = t)
    (k : t.boot.resetting = s.boot.resetting) : exec (.regWrite r addr v) s = .next t := by
  show Host.Outcome.next (s.thenReset (s.regWrite r addr v)) = _
  rw [h, State.thenReset_of_resetting k]

theorem exec_accessErr (r : Requester) (addr w : Nat) (wr : Bool) (s : State) :
    exec (.accessErr r addr w wr) s = .next (if w ≠ 32 ∨ (s.target r addr).1 = .bad then
      (if wr then s.accessErr (errView r addr) else (s.accessErr (errView r addr)).emit (.readData r addr 0)) else s) := by
  show execAccessErr r addr w wr s = _
  simp [execAccessErr]

/-- Settles O23: a bad access is `accessErr`, one hardware set of GLB_ERR; the other writes are the branches of `regWrite`. -/
theorem accessErrors : Obligations.AccessErrors := by
  unfold Obligations.AccessErrors
  refine ⟨fun s v => ⟨OnlyRegs.accessErr s v, s.accessErr_bit v, s.accessErr_seq v⟩, ?_, ?_, ?_, ?_⟩
  · intro r addr w s h
    simp only [exec_accessErr, if_pos h, if_true, Bool.false_eq_true, if_false, and_self]
  · intro r addr wr s h
    rw [exec_accessErr, if_neg (by simp [h])]
  · intro r addr view v s h
    exact exec_regWrite (by simp only [State.regWrite, h]) (by simp)
  · intro r addr view v s h
    exact exec_regWrite (by simp only [State.regWrite, h]) rfl

/-! ## Plain writes (R48, R49, R293) -/

/-- After a plain write only the clamp report differs from the register with its range-checked word. -/
theorem Clamped.fieldWrite (s : State) (view : Nat) (r : RegName) (inst sel : Nat) (v : Word) :
    Clamped (s.wr r inst sel (rangeWord r (s.rd r inst sel) v)) (s.fieldWrite view r inst sel v id) :=
  Clamped.recordClamps _ _ _ _ _ _

/-- A write within a partition's own view of a register that it may write there. -/
theorem State.regWrite_own {s : State} {p : Part} {addr : Nat} {g : RegName} {inst : Nat} (v : Word)
    (h : s.target (.part p) addr = (.reg g inst p.val, p.val)) (ro : (viewReadOnly g && !isSq g) = false) :
    s.regWrite (.part p) addr v = s.writeReg (.part p) p.val g inst p.val v := by
  have n : p.val ≠ 4 := by omega
  simp only [State.regWrite, h, n, ro, if_false, Bool.false_eq_true]

/-- The arithmetic and note settings are registers whose write only stores their fields. -/
theorem State.writeReg_plain (s : State) (r : Requester) (view : Nat) {g : RegName} (inst sel : Nat) (v : Word)
    (h : g = .NUM_ARITH_CFG ∨ g = .EUT_NOTE_CFG) : s.writeReg r view g inst sel v = s.fieldWrite view g inst sel v id := by
  rcases h with rfl | rfl <;> rfl

/-- Software writes no field of the tier settings, so a write of them does nothing. -/
theorem State.writeReg_tierCfg (s : State) (r : Requester) (view inst sel : Nat) (v : Word) :
    s.writeReg r view .TIER_CFG inst sel v = s := rfl

/-- The first claim of O24, which holds: the fields of a plain write (R48) and what it leaves alone. -/
theorem State.fieldWrite_fields (view : Nat) (r : RegName) (inst sel : Nat) (v : Word) (s : State) {f : FieldSpec} (hf : f ∈ r.spec.fields)
    (w : f.writable = true) (l : loud r = false) (ne : r ≠ .BLK_ERR) (nc : r ≠ .GLB_CLAMP_HEAD) :
    wGet ((s.fieldWrite view r inst sel v id).rd r inst sel) f.hi f.lo = rangeFix f (wGet v f.hi f.lo) ∧
    (s.fieldWrite view r inst sel v id).mem = s.mem ∧
    KeepsRegs s (s.fieldWrite view r inst sel v id) (fun q => q == r || q == .BLK_ERR || q == .GLB_CLAMP_HEAD) := by
  have c := Clamped.fieldWrite s view r inst sel v
  refine ⟨?_, by rw [c.mem, State.wr_mem], fun q i a n lq => ?_⟩
  · rw [c.regs r inst sel (by simp [ne, nc]) l, State.rd_wr_same, wGet_rangeWord r _ _ hf w]
  · simp only [Bool.or_eq_false_iff, beq_eq_false_iff_ne, ne_eq] at n
    rw [c.regs q i a (by simp [n]) lq, s.rd_wr_reg _ _ _ _ _ n.1.1]

/-- Its second claim as it holds: a partition's write of its arithmetic or note settings in its own view is a plain write. -/
theorem exec_regWrite_settings {p : Part} {addr : Nat} {g : RegName} {inst : Nat} {s : State} (v : Word)
    (t : s.target (.part p) addr = (.reg g inst p.val, p.val)) (h : g = .NUM_ARITH_CFG ∨ g = .EUT_NOTE_CFG) :
    exec (.regWrite (.part p) addr v) s = .next (s.fieldWrite p.val g inst p.val v id) := by
  have ro : (viewReadOnly g && !isSq g) = false := by rcases h with rfl | rfl <;> rfl
  refine exec_regWrite (by rw [State.regWrite_own v t ro, State.writeReg_plain _ _ _ _ _ _ h]) ?_
  rw [(Clamped.fieldWrite s p.val g inst p.val v).resetting, State.wr_boot]

/-- Its third claim, which holds: through the global window a partition writes no register of another one but `PWR_ALLOW` (R293). -/
theorem exec_regWrite_foreign {p : Part} {addr inst sel : Nat} {g : RegName} {s : State} (v : Word)
    (t : s.target (.part p) addr = (.reg g inst sel, 4)) (n : g ≠ .PWR_ALLOW) (f : s.foreign g inst sel = true) :
    exec (.regWrite (.part p) addr v) s = .next (s.accessErr 4) :=
  exec_regWrite (by simp [State.regWrite, t, n, f]) (by simp)

/-- The state after reset, with the reset word of the tier settings of P2 written out in the register file. -/
def tierCfgListed : State := { State.reset with rf := { State.reset.rf with main := [(regKey .TIER_CFG 0 2, 0)] } }

theorem tierCfgListed_target : tierCfgListed.target (.part 2) (viewBase 2 + 7 * 0x80000 + 0x10) = (.reg .TIER_CFG 0 2, 2) := by decide +kernel

/-- Refutes O24: every field of TIER_CFG is read-only, so REG_WRITE leaves the state as it is, where a plain write stores the word in force again; the two
differ in a state that lists that word although it is the reset word. The other claims hold, as the three theorems above say. -/
theorem not_registerWrites : ¬ Obligations.RegisterWrites := by
  unfold Obligations.RegisterWrites
  rintro ⟨-, h, -⟩
  have plain := h 2 _ 0 .TIER_CFG 0 tierCfgListed tierCfgListed_target (.inr (.inl rfl))
  have ignored : exec (.regWrite (.part 2) (viewBase 2 + 7 * 0x80000 + 0x10) 0) tierCfgListed = .next tierCfgListed :=
    exec_regWrite (by rw [State.regWrite_own (p := 2) 0 tierCfgListed_target rfl, State.writeReg_tierCfg]) rfl
  have same : tierCfgListed = tierCfgListed.fieldWrite 2 .TIER_CFG 0 2 0 id := Host.Outcome.next.inj (ignored.symm.trans plain)
  have erased : (tierCfgListed.fieldWrite 2 .TIER_CFG 0 2 0 id).rf.main = [] := by decide
  rw [← same] at erased
  exact List.cons_ne_nil _ _ erased

/-! ## Keys of pairs -/

theorem regKey_lt (r : RegName) (i a : Nat) : regKey r i a < 2 ^ 32 := by
  have h : r.ctorIdx < 2 ^ 15 := by cases r <;> decide
  unfold regKey
  omega

/-- Words of different requesters have different keys. -/
theorem pairKey_ne_req {q r : Nat} (h : q ≠ r) (l k : RegName) (i j a b : Nat) : pairKey q l i a ≠ pairKey r k j b := by
  have := regKey_lt l i a
  have := regKey_lt k j b
  unfold pairKey
  omega

/-! ## Shadows (R41) -/

theorem State.latch_shadow_same (s : State) (r : Nat) (g : RegName) (i a : Nat) (v : Word) : (s.latch r g i a v).shadow r g i a = v :=
  Sparse.get_set_same _ _ _ _

/-- Latching a shadow leaves those of the other requesters alone. -/
theorem State.latch_shadow_ne (s : State) {q r : Nat} (g k : RegName) (i a j b : Nat) (v : Word) (h : q ≠ r) :
    (s.latch r g i a v).shadow q k j b = s.shadow q k j b := Sparse.get_set_ne _ _ _ _ (pairKey_ne_req h _ _ _ _ _ _)

/-- A read of a LO register through its command. -/
theorem exec_loReadLatch {r : Requester} {addr inst sel view : Nat} {g h : RegName} {s : State} (t : s.target r addr = (.reg g inst sel, view))
    (lo : g.spec.pair = .lo h) : exec (.loReadLatch r addr) s =
      .next ((s.latch (reqIdx r) g inst sel (s.shown view h inst sel)).emit (.readData r addr (s.shown view g inst sel))) := by
  show execLoReadLatch r addr s = _
  simp [execLoReadLatch, State.reaches, State.regRead, State.readReg, t, lo]

/-- Settles O25: a read of LO is `latch` and `emit`, a read of HI is `shadow`. -/
theorem shadows : Obligations.Shadows := by
  unfold Obligations.Shadows
  refine ⟨?_, ?_, fun q lo i a => rfl⟩
  · intro r addr inst sel view g h s t lo
    exact ⟨_, exec_loReadLatch t lo, rfl, s.latch_shadow_same _ _ _ _ _, fun q k i a n => s.latch_shadow_ne _ _ _ _ _ _ _ n, rfl⟩
  · intro r addr inst sel view g lo s t hi
    simp only [State.regRead, State.readReg, t, hi]

/-! ## Staging words (R42) -/

theorem State.stage_stagedOr_same (s : State) (r : Nat) (g : RegName) (i a : Nat) (v : Word) : (s.stage r g i a v).stagedOr r g i a = v := by
  simp [State.stage, State.stagedOr]

theorem State.stage_stagedOr_ne (s : State) {q r : Nat} {g k : RegName} {i a j b : Nat} (v : Word) (h : pairKey q k j b ≠ pairKey r g i a) :
    (s.stage r g i a v).stagedOr q k j b = s.stagedOr q k j b := by
  simp [State.stage, State.stagedOr, Sparse.find_insert_ne _ _ h, State.rd, RegFile.rd]

@[simp] theorem State.unstage_rd (s : State) (q : Nat) (g : RegName) (i a : Nat) (r : RegName) (j b : Nat) :
    (s.unstage q g i a).rd r j b = s.rd r j b := rfl

theorem exec_loWriteStage {r : Requester} {addr inst sel view : Nat} {v : Word} {g h : RegName} {s : State}
    (t : s.target r addr = (.reg g inst sel, view)) (lo : g.spec.pair = .lo h) :
    exec (.loWriteStage r addr v) s = .next (s.regWrite r addr v) := by
  show execLoWriteStage r addr v s = _
  simp [execLoWriteStage, State.reaches, t, lo]

theorem exec_hiWriteCommit {r : Requester} {addr inst sel view : Nat} {v : Word} {g l : RegName} {s : State}
    (t : s.target r addr = (.reg g inst sel, view)) (hi : g.spec.pair = .hi l) :
    exec (.hiWriteCommit r addr v) s = .next (s.regWrite r addr v) := by
  show execHiWriteCommit r addr v s = _
  simp [execHiWriteCommit, State.reaches, t, hi]

/-- A pair written as one value reads as that value. -/
theorem State.rd64_wr64_same (s : State) {l h : RegName} (v i a : Nat) (n : l ≠ h) (k : v < 2 ^ 64) : (s.wr64 l h v i a).rd64 l h i a = v := by
  unfold State.wr64 State.rd64
  rw [State.rd_wr_same, State.rd_wr_reg _ _ _ _ _ _ n, State.rd_wr_same, BitVec.toNat_ofNat, BitVec.toNat_ofNat]
  omega

theorem State.rd_wr64_ne (s : State) {l h r : RegName} {i a j b : Nat} (v : Nat) (n : regKey r j b ≠ regKey l i a)
    (m : regKey r j b ≠ regKey h i a) : (s.wr64 l h v i a).rd r j b = s.rd r j b := by
  unfold State.wr64
  rw [State.rd_wr_ne _ _ m, State.rd_wr_ne _ _ n]

/-- Every bit of the SR seed is software's, so a commit asks for both words as they are. -/
theorem pairReq_srSeed (l v : Word) : pairReq .NUM_SR_SEED_LO .NUM_SR_SEED_HI l v = l.toNat + 2 ^ 32 * v.toNat := by
  have lo : writeMask .NUM_SR_SEED_LO = BitVec.allOnes 32 := by decide
  have hi : writeMask .NUM_SR_SEED_HI = BitVec.allOnes 32 := by decide
  rw [pairReq, lo, hi, BitVec.and_allOnes, BitVec.and_allOnes]

/-- A commit of the SR seed stores the pair and drops its staging word, and nothing else (R42). -/
theorem State.commitPair_srSeed (s : State) (q view inst sel : Nat) (v : Word) :
    s.commitPair q view .NUM_SR_SEED_LO .NUM_SR_SEED_HI inst sel v = (s.unstage q .NUM_SR_SEED_LO inst sel).wr64 .NUM_SR_SEED_LO .NUM_SR_SEED_HI
      ((s.stagedOr q .NUM_SR_SEED_LO inst sel).toNat + 2 ^ 32 * v.toNat) inst sel := by
  rw [← pairReq_srSeed]
  simp [State.commitPair, State.pairHeld, State.pairPut, State.pairClamp]

/-- Settles O26: a write of LO is `stage`, the commit is `commitPair`, which for the SR seed is `wr64` after `unstage`. -/
theorem staging : Obligations.Staging := by
  unfold Obligations.Staging
  refine ⟨?_, ?_⟩
  · intro p addr inst v g h s t lo w nsq nro
    have e : s.regWrite (.part p) addr v = s.stage p.val g inst p.val v := by
      rw [State.regWrite_own v t (by simp [nro])]
      simp [State.writeReg, nsq, lo, w, reqIdx]
    exact ⟨_, by rw [exec_loWriteStage t lo, e], s.stage_stagedOr_same _ _ _ _ _, fun q k i a n => s.stage_stagedOr_ne _ n, rfl⟩
  · intro p addr v s t
    have e : s.regWrite (.part p) addr v = s.commitPair p.val p.val .NUM_SR_SEED_LO .NUM_SR_SEED_HI 0 p.val v := by
      rw [State.regWrite_own v t rfl]
      simp [State.writeReg, show isSq .NUM_SR_SEED_HI = false from rfl, show RegName.NUM_SR_SEED_HI.spec.pair = .hi .NUM_SR_SEED_LO from rfl,
        show RegName.NUM_SR_SEED_LO.writable = true from rfl, reqIdx]
    refine ⟨_, by rw [exec_hiWriteCommit t rfl, e, s.commitPair_srSeed], ?_, ?_, by simp, by simp, fun r i a n m => ?_⟩
    · exact State.rd64_wr64_same _ _ _ _ (by decide) (by omega)
    · simp [State.wr64, State.unstage]
    · rw [State.rd_wr64_ne _ _ n m, State.unstage_rd]

/-! ## Clears (R46, R47) -/

/-- Settles O27: a matching clear is one write of `sqCleared`, another one a hardware set of SEQ_MISS. -/
theorem sequenceClear : Obligations.SequenceClear := by
  unfold Obligations.SequenceClear
  refine ⟨?_, ?_, ?_, fun r i a bits cnts s => s.sqSet_seq r i a bits cnts⟩
  · intro r addr inst sel view v g s t sq nf
    show execSqClear r addr v s = _
    have e : s.regWrite r addr v = s.sqClearAt view g inst sel v := by
      simp only [State.regWrite, t, sq, State.writeReg, Bool.not_true, Bool.and_false, Bool.false_eq_true, if_false, if_true]
      split
      · rename_i v4
        exact if_neg fun h => nf ⟨v4, h⟩
      · rfl
    simp [execSqClear, State.reaches, t, sq, e]
  · intro view inst sel v g s sq seq
    have e : s.sqClearAt view g inst sel v = s.wr g inst sel (sqCleared g (s.rd g inst sel) v) := if_pos seq
    simp only [e, State.rd_wr_same]
    exact ⟨fun f hf => wGet_sqCleared_bit g _ v hf, fun f hf => wGet_sqCleared_counter g _ v hf, wGet_sqCleared_seq g _ v, OnlyRegs.wr _ _ _ _ _⟩
  · intro view inst sel v g s seq
    have e : s.sqClearAt view g inst sel v = s.errSet (regBlock g inst) view [Fld.ERR_SEQ_MISS] [] := if_neg seq
    simp only [e]
    exact ⟨s.sqSet_bit Fld.ERR_SEQ_MISS _ _ rfl (by decide), OnlyRegs.wr _ _ _ _ _⟩

end Sys2Proof.Machine
end

section
/-! SUPPORT. Resets: what restoring registers by their keys shows, what the start of bring-up leaves alone, and the states in which a cold and a warm reset
begin it. -/

namespace Sys2Proof.Machine

/-! ## Registers restored by key (R40) -/

/-- Dropping entries by a test on their keys. -/
theorem Sparse.find_filter {α : Type} (l : List (Nat × α)) (t : Nat → Bool) (a : Nat) :
    Sparse.find (l.filter (fun e => t e.1)) a = if t a then Sparse.find l a else none := by
  induction l with
  | nil => simp [Sparse.find]
  | cons e l ih =>
    obtain ⟨k, v⟩ := e
    by_cases h : a = k
    · subst h
      cases ht : t a <;> simp [Sparse.find, ih, ht]
    · cases hk : t k <;> simp [Sparse.find, ih, h, hk]

theorem Sparse.get_filter {α : Type} (d : α) (l : List (Nat × α)) (t : Nat → Bool) (a : Nat) :
    Sparse.get d (l.filter (fun e => t e.1)) a = if t a then Sparse.get d l a else d := by
  unfold Sparse.get
  rw [Sparse.find_filter]
  split <;> rfl

/-- A register whose key is restored reads its reset word, another as before. -/
theorem RegFile.rd_restore (f : RegFile) (t : Nat → Bool) (r : RegName) (i a : Nat) :
    (f.restore t).rd r i a = if t (regKey r i a) then resetWord r i else f.rd r i a := by
  unfold RegFile.restore RegFile.rd
  simp only [Sparse.get_filter _ _ (fun k => !t k)]
  cases t (regKey r i a) <;> simp [majority_self]

theorem keyReg_regKey (r : RegName) (i a : Nat) : keyReg (regKey r i a) = r := by
  have h : regKey r i a / 65536 = r.ctorIdx := by
    unfold regKey
    omega
  rw [keyReg, h, allRegs_getD]

theorem keySel_regKey (r : RegName) (i a : Nat) : keySel (regKey r i a) = a % 8 := by
  unfold keySel regKey
  omega

/-- Whether a warm reset restores a register, by its name. -/
theorem warmKey_regKey (r : RegName) (i a : Nat) : warmKey (regKey r i a) = true ↔ r.spec.dom ≠ .cold ∨ bringUpReg r = true := by
  simp [warmKey, keyDom, keyReg_regKey]

/-- Every register of the state after reset holds its reset word. -/
theorem State.reset_rd (r : RegName) (i a : Nat) : State.reset.rd r i a = resetWord r i := by
  unfold State.rd RegFile.rd
  simp [State.reset, majority_self]

/-- Settles O30: `State.reset` lists nothing, and an unlisted register reads its reset word. -/
theorem resetLeaves : Obligations.ResetLeaves := by
  unfold Obligations.ResetLeaves
  refine ⟨State.reset_rd, rfl, rfl, rfl, ?_, rfl, rfl, rfl⟩
  rw [State.bootState, State.fget, State.reset_rd]
  rfl

/-! ## Folds -/

/-- What one step of a fold sets and every step keeps holds after the fold. -/
theorem foldl_sets {β : Type} {l : List β} {f : State → β → State} {P : State → Prop} {x : β} (hx : x ∈ l) (sets : ∀ s, P (f s x))
    (keeps : ∀ s y, P s → P (f s y)) (s : State) : P (l.foldl f s) := by
  have keep : ∀ (m : List β) (s : State), P s → P (m.foldl f s) := fun m => by
    induction m with
    | nil => exact fun _ h => h
    | cons y m ih => exact fun s h => ih _ (keeps s y h)
  obtain ⟨l₁, l₂, rfl⟩ := List.append_of_mem hx
  rw [List.foldl_append, List.foldl_cons]
  exact keep l₂ _ (sets _)

/-- A field write at one number leaves the fields at another number alone. -/
theorem State.fget_fset_inst (s : State) {f g : Fld} (v : Nat) {i j : Nat} (a b : Nat) (h : j % 8192 ≠ i % 8192) :
    (s.fset f v i a).fget g j b = s.fget g j b := by
  unfold State.fget State.fset
  by_cases e : g.reg = f.reg
  · rw [e, State.rd_wr_ne _ _ (regKey_ne_inst _ _ _ h)]
  · rw [State.rd_wr_reg _ _ _ _ _ _ e]

/-! ## The start of bring-up (R398, R399) -/

/-- The state with the boot counted, in the flash and in GLB_BOOT. -/
def State.countBoot (s : State) : State :=
  { s with flash := { s.flash with bootCount := (s.flash.bootCount + 1) % 65536 } }.fset Fld.GLB_BOOT_BOOT_COUNT
    ((s.flash.bootCount + 1) % 65536)

theorem State.beginBoot_eq (s : State) : s.beginBoot = (s.countBoot.setFault true).enterBoot 0 := rfl

/-- Bring-up begins by counting the boot and entering the ROM phase; the rest is quiet. -/
theorem Quiet.beginBoot (s : State) : Quiet ((s.countBoot.setFault true).fset Fld.GLB_BOOT_STATE 0) s.beginBoot := by
  rw [State.beginBoot_eq]
  exact Quiet.enterBoot _ (by decide)

/-- Every register but GLB_BOOT, and but those of the recorder, stays as bring-up begins. -/
theorem State.beginBoot_rd (s : State) (r : RegName) (i a : Nat) (h : r ≠ .GLB_BOOT) (n : loud r = false) :
    s.beginBoot.rd r i a = s.rd r i a := by
  rw [(Quiet.beginBoot s).rd r i a n, State.rd_fset_reg _ _ _ _ _ _ h, (Quiet.setFault _ _).rd r i a n, State.countBoot,
    State.rd_fset_reg _ _ _ _ _ _ h]
  rfl

theorem State.beginBoot_fget (s : State) (f : Fld) (i a : Nat) (h : f.reg ≠ .GLB_BOOT) (n : loud f.reg = false) :
    s.beginBoot.fget f i a = s.fget f i a := by simp only [State.fget, s.beginBoot_rd f.reg i a h n]

theorem State.beginBoot_bootState (s : State) : s.beginBoot.bootState = 0 := State.enterBoot_bootState _ (by decide)

theorem State.beginBoot_count (s : State) : s.beginBoot.fget Fld.GLB_BOOT_BOOT_COUNT = (s.flash.bootCount + 1) % 65536 := by
  rw [(Quiet.beginBoot s).fget _ _ _ rfl,
    State.fget_fset_ne (f := Fld.GLB_BOOT_STATE) (g := Fld.GLB_BOOT_BOOT_COUNT) _ _ _ _ rfl (by decide) (by decide) (by decide) (by decide),
    (Quiet.setFault _ _).fget _ _ _ rfl, State.countBoot, State.fget_fset_same _ _ _ _ _ (by decide) (by decide)]
  exact Nat.mod_mod _ _

theorem State.beginBoot_flashCount (s : State) : s.beginBoot.flash.bootCount = (s.flash.bootCount + 1) % 65536 := by
  rw [(Quiet.beginBoot s).flash]
  rfl

theorem State.beginBoot_mem (s : State) : s.beginBoot.mem = s.mem := (Quiet.beginBoot s).mem
theorem State.beginBoot_queues (s : State) : s.beginBoot.queues = s.queues := (Quiet.beginBoot s).queues
theorem State.beginBoot_pwr (s : State) : s.beginBoot.pwr = s.pwr := (Quiet.beginBoot s).pwr

theorem State.beginBoot_pins (s : State) : s.beginBoot.pins = { s.pins with faultN := true } := by
  simp only [State.beginBoot, State.enterBoot, State.event_pins]
  rfl

/-! ## A staging that stops (R420) -/

/-- A staging that stops changes what the flash holds of its object, and no register and no count of boots. -/
theorem State.stageStop_keeps (s : State) : s.stageStop.rf = s.rf ∧ s.stageStop.flash.bootCount = s.flash.bootCount := by
  unfold State.stageStop
  split
  · exact ⟨rfl, rfl⟩
  · dsimp only
    split
    · exact ⟨rfl, rfl⟩
    · split <;> exact ⟨rfl, rfl⟩

/-! ## Ports after reset (R288) -/

/-- A register reads alike at two numbers of one key that have one reset word. -/
theorem RegFile.rd_congr (f : RegFile) {r : RegName} {i j a b : Nat} (k : regKey r j b = regKey r i a) (d : resetWord r j = resetWord r i) :
    f.rd r j b = f.rd r i a := by
  unfold RegFile.rd
  rw [k, d]

/-- Every port is DOWN and no adapter is known, as after reset. -/
def LinksReset (s : State) : Prop := ∀ q, q = .LNK_Pp_STATE ∨ q = .EUT_Ek_ADAPTER → ∀ i a, s.rd q i a = 0

theorem LinksReset.quiet {s t : State} (h : LinksReset s) (k : Quiet s t) : LinksReset t := fun q hq i a => by
  rw [k.rd q i a (by rcases hq with rfl | rfl <;> rfl), h q hq]

/-- Writing zero there keeps it so. -/
theorem LinksReset.wr {s : State} (h : LinksReset s) {r : RegName} (i a : Nat) {v : Word} (z : v = 0) : LinksReset (s.wr r i a v) := by
  intro q hq j b
  by_cases e : regKey q j b = regKey r i a
  · obtain rfl : q = r := by_contra fun n => regKey_ne_reg n _ _ _ _ e
    have same : (s.wr q i a v).rd q j b = (s.wr q i a v).rd q i a := RegFile.rd_congr _ e (by rcases hq with rfl | rfl <;> rfl)
    rw [same, State.rd_wr_same, z]
  · rw [s.rd_wr_ne v e, h q hq]

theorem LinksReset.portState {s : State} (h : LinksReset s) (p : Nat) : s.portState p = 0 := by
  show wGet (s.rd .LNK_Pp_STATE p 0) 3 0 = 0
  rw [h _ (.inl rfl)]
  rfl

theorem LinksReset.foldl {β : Type} {f : State → β → State} (k : ∀ s x, LinksReset s → LinksReset (f s x)) (l : List β) {s : State}
    (h : LinksReset s) : LinksReset (l.foldl f s) := by
  induction l generalizing s with
  | nil => exact h
  | cons x l ih => exact ih (k s x h)

theorem LinksReset.failPort {s : State} (h : LinksReset s) (n : Nat) (p : PortId) : LinksReset (s.failPort n p) := by
  have down : s.portActive p.val = false := by
    rw [State.portActive, h.portState]
    rfl
  unfold State.failPort
  simp only [down, Bool.false_eq_true, if_false]
  refine LinksReset.quiet (h.wr _ _ ?_) (Quiet.modPort _ _ _)
  rw [h _ (.inl rfl), h.portState]
  rfl

theorem LinksReset.hostEnd {s : State} (h : LinksReset s) (k : Nat) : LinksReset (s.hostEnd k) := by
  unfold State.hostEnd State.fset
  refine LinksReset.wr (fun q hq i a => h q hq i a) _ _ ?_
  rw [show ∀ x : State, x.rf = s.rf → x.rd Fld.EUT_Ek_ADAPTER_INFO_VALID.reg k 0 = 0 from fun x e => by
    rw [State.rd, e]
    exact h _ (.inr rfl) k 0]
  · rfl
  · rfl

/-- A FATAL event finds nothing to end. -/
theorem LinksReset.event {s : State} (h : LinksReset s) (e : Ev) : LinksReset (s.event e) := by
  unfold State.event State.eventFail
  have h₁ := h.quiet (Quiet.eventNoFail s e)
  dsimp only
  split
  · unfold State.sendFail
    split
    · exact h₁
    · refine LinksReset.quiet ?_ (Quiet.eventNoFail _ _)
      refine LinksReset.foldl (fun s p k => k.quiet (Quiet.eventNoFail _ _)) _ ?_
      refine LinksReset.foldl (fun s k h => h.hostEnd k) _ ?_
      exact LinksReset.foldl (fun s p h => h.failPort 4 p) _ h₁
  · exact h₁

/-! ## Thermal trip (R393) -/

theorem QuietFail.thermtrip (s : State) (q : Quad) : QuietFail s (s.thermtrip q) :=
  (((Quiet.pins s _).trans (Quiet.emit _ _)).fail.trans (QuietFail.event _ _)).trans (Quiet.evr _ _).fail

theorem LinksReset.thermtrip {s : State} (h : LinksReset s) (q : Quad) : LinksReset (s.thermtrip q) :=
  ((h.quiet ((Quiet.pins s _).trans (Quiet.emit _ _))).event _).quiet (Quiet.evr _ _)

theorem State.thermtrip_pins (s : State) (q : Quad) : (s.thermtrip q).pins = { s.pins with thermtripN := false, faultN := false } := by
  simp only [State.thermtrip, State.pwrEvent, State.event_pins]
  rfl

end Sys2Proof.Machine
end

section
/-! SUPPORT. A cold reset: the state in which it begins bring-up, and the thermal trip that may follow at once. -/

namespace Sys2Proof.Machine

/-! ## The state in which a cold reset begins bring-up (R40, R457) -/

/-- Everything restored, the ring found, the straps sampled and the pins released. -/
def State.coldStart (s : State) (feed slot : Nat) : State :=
  let c := s.cold.findRing.wr .GLB_STRAPS 0 0 (BitVec.ofNat 32 (feed % 16 + slot % 64 * 16))
  ({ c with pins := { c.pins with porstN := true, thermtripN := true, xspiRstN := true } }.emit (.pin 0 true)).emit (.pin 2 true)

/-- Where no quadrant's last reading is 115 °C or more, a cold reset only begins bring-up. -/
theorem State.coldReset_cool (s : State) (feed slot : Nat) (h : ∀ n : Quad, vget s.pwr.quadTemp n < 115) :
    s.coldReset feed slot = (s.coldStart feed slot).beginBoot := by
  have none : (List.finRange 8).find? (fun n => decide (115 ≤ vget s.pwr.quadTemp n)) = none :=
    List.find?_eq_none.mpr fun n _ => by simpa using h n
  unfold State.coldReset
  simp only [none]
  rfl

/-- Otherwise a quadrant trips at once (R462). -/
theorem State.coldReset_hot (s : State) (feed slot : Nat) (h : ¬ ∀ n : Quad, vget s.pwr.quadTemp n < 115) :
    ∃ q, s.coldReset feed slot = ((s.coldStart feed slot).beginBoot).thermtrip q := by
  obtain ⟨n, hn⟩ := not_forall.mp h
  have some : ((List.finRange 8).find? (fun n => decide (115 ≤ vget s.pwr.quadTemp n))).isSome = true :=
    List.find?_isSome.mpr ⟨n, List.mem_finRange n, by simpa using hn⟩
  obtain ⟨q, hq⟩ := Option.isSome_iff_exists.mp some
  refine ⟨q, ?_⟩
  unfold State.coldReset
  simp only [hq]
  rfl

/-- A cold reset restores every register but the straps. -/
theorem State.cold_rd (s : State) (r : RegName) (i a : Nat) (h : r ≠ .GLB_STRAPS) : s.cold.rd r i a = resetWord r i := by
  unfold State.cold
  dsimp only
  rw [State.rd_wr_reg _ _ _ _ _ _ h]
  exact State.reset_rd r i a

theorem State.wr64_rd_reg (s : State) {l h r : RegName} (v i a j b : Nat) (n : r ≠ l) (m : r ≠ h) : (s.wr64 l h v i a).rd r j b = s.rd r j b :=
  s.rd_wr64_ne v (regKey_ne_reg n _ _ _ _) (regKey_ne_reg m _ _ _ _)

/-- As bring-up begins, every register but the straps and those of the recorder holds its reset word. -/
theorem State.coldStart_rd (s : State) (feed slot : Nat) (r : RegName) (i a : Nat) (n : loud r = false) (h : r ≠ .GLB_STRAPS)
    (lo : r ≠ .EVR_LOW_LO) (hi : r ≠ .EVR_LOW_HI) : (s.coldStart feed slot).rd r i a = resetWord r i := by
  have next : r ≠ .EVR_NEXT_LO ∧ r ≠ .EVR_NEXT_HI := by constructor <;> rintro rfl <;> simp [loud] at n
  calc (s.coldStart feed slot).rd r i a = (s.cold.findRing.wr .GLB_STRAPS 0 0 (BitVec.ofNat 32 (feed % 16 + slot % 64 * 16))).rd r i a := rfl
    _ = s.cold.rd r i a := by
      rw [State.rd_wr_reg _ _ _ _ _ _ h, State.findRing, State.wr64_rd_reg _ _ _ _ _ _ lo hi, State.wr64_rd_reg _ _ _ _ _ _ next.1 next.2]
    _ = resetWord r i := s.cold_rd r i a h

theorem State.coldStart_straps (s : State) (feed slot : Nat) :
    (s.coldStart feed slot).rd .GLB_STRAPS = BitVec.ofNat 32 (feed % 16 + slot % 64 * 16) :=
  State.rd_wr_same s.cold.findRing _ _ _ _

theorem State.coldStart_mem (s : State) (feed slot : Nat) : (s.coldStart feed slot).mem = State.reset.mem := rfl
theorem State.coldStart_queues (s : State) (feed slot : Nat) : (s.coldStart feed slot).queues = [] := rfl
theorem State.coldStart_pins (s : State) (feed slot : Nat) :
    (s.coldStart feed slot).pins.porstN = true ∧ (s.coldStart feed slot).pins.thermtripN = true := ⟨rfl, rfl⟩

theorem State.coldStart_flashCount (s : State) (feed slot : Nat) : (s.coldStart feed slot).flash.bootCount = s.flash.bootCount :=
  s.stageStop_keeps.2

theorem LinksReset.coldStart (s : State) (feed slot : Nat) : LinksReset (s.coldStart feed slot) := by
  rintro q (rfl | rfl) i a <;> exact s.coldStart_rd _ _ _ i a rfl (by decide) (by decide) (by decide)

/-! ## What a cold reset shows -/

/-- What bring-up finds as it begins after a cold reset, whether or not a quadrant trips at once. -/
structure ColdBegun (s : State) (feed slot : Nat) (t : State) : Prop where
  mem : t.mem = State.reset.mem
  queues : t.queues = []
  porstN : t.pins.porstN = true
  flashCount : t.flash.bootCount = (s.flash.bootCount + 1) % 65536
  bootState : t.bootState = 0
  count : t.fget Fld.GLB_BOOT_BOOT_COUNT = (s.flash.bootCount + 1) % 65536
  straps : t.rd .GLB_STRAPS = BitVec.ofNat 32 (feed % 16 + slot % 64 * 16)
  regs : ∀ r i a, loud r = false → r ≠ .GLB_BOOT → r ≠ .GLB_STRAPS → r ≠ .EVR_LOW_LO → r ≠ .EVR_LOW_HI → t.rd r i a = resetWord r i

theorem ColdBegun.beginBoot (s : State) (feed slot : Nat) : ColdBegun s feed slot (s.coldStart feed slot).beginBoot where
  mem := (State.beginBoot_mem _).trans (s.coldStart_mem feed slot)
  queues := (State.beginBoot_queues _).trans (s.coldStart_queues feed slot)
  porstN := by rw [State.beginBoot_pins]; exact (s.coldStart_pins feed slot).1
  flashCount := by rw [State.beginBoot_flashCount, s.coldStart_flashCount]
  bootState := State.beginBoot_bootState _
  count := by rw [State.beginBoot_count, s.coldStart_flashCount]
  straps := by rw [State.beginBoot_rd _ _ _ _ (by decide) rfl, s.coldStart_straps]
  regs r i a n b h lo hi := by rw [State.beginBoot_rd _ _ _ _ b n, s.coldStart_rd _ _ _ _ _ n h lo hi]

/-- A trip of a quadrant changes none of it: every port is DOWN already. -/
theorem ColdBegun.thermtrip {s t : State} {feed slot : Nat} (h : ColdBegun s feed slot t) (l : LinksReset t) (q : Quad) :
    ColdBegun s feed slot (t.thermtrip q) where
  mem := (QuietFail.thermtrip t q).mem.trans h.mem
  queues := (QuietFail.thermtrip t q).queues.trans h.queues
  porstN := by rw [State.thermtrip_pins]; exact h.porstN
  flashCount := by rw [(QuietFail.thermtrip t q).flash, h.flashCount]
  bootState := by
    rw [← h.bootState, State.bootState, State.fget, (QuietFail.thermtrip t q).rd _ _ _ rfl (by decide) (by decide)]
    rfl
  count := by rw [← h.count, State.fget, (QuietFail.thermtrip t q).rd _ _ _ rfl (by decide) (by decide), State.fget]
  straps := by rw [(QuietFail.thermtrip t q).rd _ _ _ rfl (by decide) (by decide), h.straps]
  regs r i a n b st lo hi := by
    by_cases k : r = .LNK_Pp_STATE ∨ r = .EUT_Ek_ADAPTER
    · rw [(l.thermtrip q) r k]
      rcases k with rfl | rfl <;> rfl
    · rw [(QuietFail.thermtrip t q).rd r i a n (fun e => k (.inl e)) (fun e => k (.inr e)), h.regs r i a n b st lo hi]

/-- A cold reset, with the pins that show whether a quadrant stands at 115 °C or more (R454, R462). -/
theorem State.coldReset_begun (s : State) (feed slot : Nat) : ColdBegun s feed slot (s.coldReset feed slot) ∧
    ((s.coldReset feed slot).pins.thermtripN = true ↔ ∀ n : Quad, vget s.pwr.quadTemp n < 115) ∧
    (s.coldReset feed slot).pins.faultN = (s.coldReset feed slot).pins.thermtripN := by
  have begun := ColdBegun.beginBoot s feed slot
  by_cases h : ∀ n : Quad, vget s.pwr.quadTemp n < 115
  · have trip := (s.coldStart_pins feed slot).2
    rw [s.coldReset_cool feed slot h, State.beginBoot_pins]
    exact ⟨begun, iff_of_true trip h, trip.symm⟩
  · obtain ⟨q, e⟩ := s.coldReset_hot feed slot h
    have links := (LinksReset.coldStart s feed slot)
    have down : LinksReset (s.coldStart feed slot).beginBoot := fun r hr i a => by
      rw [State.beginBoot_rd _ _ _ _ (by rcases hr with rfl | rfl <;> decide) (by rcases hr with rfl | rfl <;> rfl), links r hr]
    rw [e, State.thermtrip_pins]
    exact ⟨begun.thermtrip down q, iff_of_false (by simp) h, rfl⟩

end Sys2Proof.Machine
end

section
/-! SUPPORT. A warm reset: the registers it restores, what it keeps of the ports, and what it stops. -/

namespace Sys2Proof.Machine

/-! ## The state in which a warm reset begins bring-up (R40) -/

/-- Every unit quiesced, and the registers of a warm reset restored. -/
def State.warmRegs (s : State) : State := { s.quiesce with rf := (s.quiesce.rf.restore warmKey).dropReq (fun _ => true) }

/-- The balances return, and no stack or quadrant holds warm reset off any more. -/
def State.warmPower (s : State) : State :=
  let s := (List.finRange 4).foldl (fun (s : State) p => s.resetBal p) s
  { s with pwr := { s.pwr with critHold := false, critDie := false, admitted := PwrSt.reset.admitted } }

/-- The state in which a warm reset begins bring-up. -/
def State.warmStart (s : State) : State := (stopUnits (keepSession s.stageStop s.stageStop.warmRegs)).warmPower

theorem State.warm_eq (s : State) : s.warm = s.warmStart.beginBoot := rfl

theorem State.warmRegs_rd (s : State) (r : RegName) (i a : Nat) :
    s.warmRegs.rd r i a = if r.spec.dom ≠ .cold ∨ bringUpReg r = true then resetWord r i else s.rd r i a := by
  have e : s.warmRegs.rd r i a = if warmKey (regKey r i a) then resetWord r i else s.rd r i a := RegFile.rd_restore _ _ _ _ _
  simp only [e, warmKey_regKey]

/-- The balances are no registers. -/
theorem State.warmPower_rd (s : State) (r : RegName) (i a : Nat) : s.warmPower.rd r i a = s.rd r i a :=
  foldl_keep (List.finRange 4) State.resetBal (fun t => t.rd r i a) (fun _ _ => rfl) s

/-- Different numbers below 8,192 name different registers of a template. -/
theorem inst_ne {n : Nat} (h : n ≤ 8192) {p q : Fin n} (e : p ≠ q) : p.val % 8192 ≠ q.val % 8192 := by
  have := Fin.val_ne_of_ne e
  omega

theorem State.fget_lt (s : State) (f : Fld) (i a : Nat) : s.fget f i a < 2 ^ (f.hi + 1 - f.lo) := bitsOf_lt _ _ _

/-! ## What is kept of the ports and the engines (R251, R287) -/

theorem State.keepSession_rd (old s : State) (r : RegName) (i a : Nat) (v : r ≠ .VEC_Vn_STATE) (l : r ≠ .LNK_Pp_STATE) :
    (keepSession old s).rd r i a = s.rd r i a := by
  unfold keepSession
  refine (foldl_reg _ _ _ (fun s e r i a h => State.rd_fset_reg _ _ _ _ _ _ h) _ r i a v).trans ?_
  exact foldl_reg _ _ _ (fun s p r i a h => State.rd_fset_reg _ _ _ _ _ _ h) _ r i a l

/-- The ports' part of `keepSession`. -/
def keepPorts (old s : State) : State :=
  (List.finRange 10).foldl (fun (s : State) p => s.fset Fld.LNK_Pp_STATE_SESSION (old.fget Fld.LNK_Pp_STATE_SESSION p.val) p.val) s

theorem State.keepSession_ports (old s : State) (i a : Nat) : (keepSession old s).rd .LNK_Pp_STATE i a = (keepPorts old s).rd .LNK_Pp_STATE i a :=
  foldl_reg _ _ _ (fun s e r i a h => State.rd_fset_reg _ _ _ _ _ _ h) _ _ i a (by decide)

/-- Every port stays in its training state. -/
theorem State.keepSession_portState (old s : State) (p : PortId) : (keepSession old s).portState p.val = s.portState p.val := by
  show wGet ((keepSession old s).rd .LNK_Pp_STATE p.val 0) 3 0 = _
  rw [State.keepSession_ports]
  refine foldl_keep (List.finRange 10) _ (fun t => t.portState p.val) (fun t q => ?_) s
  by_cases e : p = q
  · subst e
    exact State.fget_fset_ne (f := Fld.LNK_Pp_STATE_SESSION) (g := Fld.LNK_Pp_STATE_STATE) _ _ _ _ rfl (by decide) (by decide) (by decide)
      (by decide)
  · exact State.fget_fset_inst _ _ _ _ (inst_ne (by decide) e)

/-- Every port keeps its count of sessions. -/
theorem State.keepSession_session (old s : State) (p : PortId) :
    (keepSession old s).fget Fld.LNK_Pp_STATE_SESSION p.val = old.fget Fld.LNK_Pp_STATE_SESSION p.val := by
  have same (t : State) : (t.fset Fld.LNK_Pp_STATE_SESSION (old.fget Fld.LNK_Pp_STATE_SESSION p.val) p.val).fget Fld.LNK_Pp_STATE_SESSION p.val =
      old.fget Fld.LNK_Pp_STATE_SESSION p.val := by
    rw [State.fget_fset_same _ _ _ _ _ (by decide) (by decide), Nat.mod_eq_of_lt (old.fget_lt _ _ _)]
  rw [State.fget, show Fld.LNK_Pp_STATE_SESSION.reg = .LNK_Pp_STATE from rfl, State.keepSession_ports]
  refine foldl_sets (l := List.finRange 10) (P := fun t => t.fget Fld.LNK_Pp_STATE_SESSION p.val = old.fget Fld.LNK_Pp_STATE_SESSION p.val)
    (List.mem_finRange p) ?_ (fun t q h => ?_) s
  · exact same
  · by_cases e : p = q
    · subst e
      exact same t
    · rw [State.fget_fset_inst _ _ _ _ (inst_ne (by decide) e), h]

/-! ## What stops -/

theorem State.stopUnits_rd (s : State) (r : RegName) (i a : Nat) (c : r ≠ .CHK_Uu_CTRL) (m : r ≠ .HBM_MARGIN_CTRL) :
    (stopUnits s).rd r i a = s.rd r i a := by
  unfold stopUnits
  dsimp only
  rw [State.rd_fset_reg _ _ _ _ _ _ m]
  refine foldl_reg _ _ _ (fun s u r i a h => ?_) _ r i a c
  rw [State.rd_fset_reg _ _ _ _ _ _ h, State.rd_fset_reg _ _ _ _ _ _ h]

theorem State.stopUnits_margin (s : State) : (stopUnits s).fget Fld.HBM_MARGIN_CTRL_START = 0 :=
  State.fget_fset_same _ Fld.HBM_MARGIN_CTRL_START 0 0 0 (by decide) (by decide)

/-- A check-value unit that is released is neither running nor held. -/
theorem State.chkHeld_released (s : State) (u : Nat) :
    ((s.fset Fld.CHK_Uu_CTRL_BUSY 0 u).fset Fld.CHK_Uu_CTRL_OWNED 0 u).chkHeld u = false := by
  have busy : ((s.fset Fld.CHK_Uu_CTRL_BUSY 0 u).fset Fld.CHK_Uu_CTRL_OWNED 0 u).fget Fld.CHK_Uu_CTRL_BUSY u = 0 := by
    rw [State.fget_fset_ne (f := Fld.CHK_Uu_CTRL_OWNED) (g := Fld.CHK_Uu_CTRL_BUSY) _ _ _ _ rfl (by decide) (by decide) (by decide) (by decide),
      State.fget_fset_same _ _ _ _ _ (by decide) (by decide), Nat.zero_mod]
  have owned : ((s.fset Fld.CHK_Uu_CTRL_BUSY 0 u).fset Fld.CHK_Uu_CTRL_OWNED 0 u).fget Fld.CHK_Uu_CTRL_OWNED u = 0 := by
    rw [State.fget_fset_same _ _ _ _ _ (by decide) (by decide), Nat.zero_mod]
  simp [State.chkHeld, State.fbit, busy, owned]

/-- Whether a unit runs or is held is read from its own control register. -/
theorem State.chkHeld_congr {s t : State} {u : Nat} (h : t.rd .CHK_Uu_CTRL u = s.rd .CHK_Uu_CTRL u) : t.chkHeld u = s.chkHeld u := by
  unfold State.chkHeld State.fbit State.fget
  rw [show Fld.CHK_Uu_CTRL_BUSY.reg = .CHK_Uu_CTRL from rfl, show Fld.CHK_Uu_CTRL_OWNED.reg = .CHK_Uu_CTRL from rfl, h]

theorem State.stopUnits_chkHeld (s : State) (u : Fin 4) : (stopUnits s).chkHeld u.val = false := by
  unfold stopUnits
  dsimp only
  rw [State.chkHeld_congr (State.rd_fset_reg _ _ _ _ _ _ (by decide))]
  refine foldl_sets (l := List.finRange 4) (P := fun t => t.chkHeld u.val = false) (List.mem_finRange u) ?_ (fun t w h => ?_) s
  · exact fun t => t.chkHeld_released u.val
  · by_cases e : u = w
    · subst e
      exact t.chkHeld_released u.val
    · simpa only [State.chkHeld, State.fbit, State.fget_fset_inst _ _ _ _ (inst_ne (by decide) e)] using h

/-! ## What a warm reset shows -/

/-- Memory, queues and flash stay. -/
structure KeepsStores (s t : State) : Prop where
  mem : t.mem = s.mem
  queues : t.queues = s.queues
  flash : t.flash = s.flash

theorem KeepsStores.trans {s t u : State} (h : KeepsStores s t) (k : KeepsStores t u) : KeepsStores s u :=
  ⟨k.mem.trans h.mem, k.queues.trans h.queues, k.flash.trans h.flash⟩

theorem KeepsStores.foldl {β : Type} {f : State → β → State} (h : ∀ s x, KeepsStores s (f s x)) (l : List β) (s : State) :
    KeepsStores s (l.foldl f s) := by
  induction l generalizing s with
  | nil => exact ⟨rfl, rfl, rfl⟩
  | cons x l ih => exact (h s x).trans (ih _)

theorem KeepsStores.fset (s : State) (f : Fld) (v i a : Nat) : KeepsStores s (s.fset f v i a) := ⟨rfl, rfl, rfl⟩

theorem KeepsStores.keepSession (old s : State) : KeepsStores s (keepSession old s) :=
  (KeepsStores.foldl (fun s _ => KeepsStores.fset s _ _ _ _) _ s).trans (KeepsStores.foldl (fun s _ => KeepsStores.fset s _ _ _ _) _ _)

theorem KeepsStores.stopUnits (s : State) : KeepsStores s (stopUnits s) :=
  (KeepsStores.foldl (fun s _ => (KeepsStores.fset s _ _ _ _).trans (KeepsStores.fset _ _ _ _ _)) _ s).trans (KeepsStores.fset _ _ _ _ _)

theorem KeepsStores.warmPower (s : State) : KeepsStores s s.warmPower :=
  (KeepsStores.foldl (f := State.resetBal) (fun _ _ => ⟨rfl, rfl, rfl⟩) (List.finRange 4) s).trans ⟨rfl, rfl, rfl⟩

/-- Memory, queues and flash as bring-up begins are those of the quiesced state. -/
theorem KeepsStores.warmStart (s : State) : KeepsStores s.stageStop.quiesce s.warmStart :=
  KeepsStores.trans (t := s.stageStop.warmRegs) ⟨rfl, rfl, rfl⟩
    (((KeepsStores.keepSession _ _).trans (KeepsStores.stopUnits _)).trans (KeepsStores.warmPower _))

theorem State.warmStart_mem (s : State) : s.warmStart.mem = State.reset.mem := (KeepsStores.warmStart s).mem
theorem State.warmStart_queues (s : State) : s.warmStart.queues = [] := (KeepsStores.warmStart s).queues

theorem State.warmStart_flashCount (s : State) : s.warmStart.flash.bootCount = s.flash.bootCount := by
  rw [(KeepsStores.warmStart s).flash]
  exact s.stageStop_keeps.2

theorem State.stageStop_rd (s : State) (r : RegName) (i a : Nat) : s.stageStop.rd r i a = s.rd r i a := by
  rw [State.rd, s.stageStop_keeps.1, State.rd]

/-- The registers as bring-up begins: restored by domain, but for four whose fields are kept or stopped one by one. -/
theorem State.warmStart_rd (s : State) (r : RegName) (i a : Nat) (v : r ≠ .VEC_Vn_STATE) (l : r ≠ .LNK_Pp_STATE) (c : r ≠ .CHK_Uu_CTRL)
    (m : r ≠ .HBM_MARGIN_CTRL) :
    s.warmStart.rd r i a = if r.spec.dom ≠ .cold ∨ bringUpReg r = true then resetWord r i else s.rd r i a := by
  rw [State.warmStart, State.warmPower_rd, State.stopUnits_rd _ _ _ _ c m, State.keepSession_rd _ _ _ _ _ v l, State.warmRegs_rd,
    State.stageStop_rd]

theorem State.warmStart_ports (s : State) (i a : Nat) :
    s.warmStart.rd .LNK_Pp_STATE i a = (keepSession s.stageStop s.stageStop.warmRegs).rd .LNK_Pp_STATE i a := by
  rw [State.warmStart, State.warmPower_rd, State.stopUnits_rd _ _ _ _ (by decide) (by decide)]

/-- Every port is DOWN. -/
theorem State.warmStart_portState (s : State) (p : PortId) : s.warmStart.portState p.val = 0 := by
  have e : s.warmStart.portState p.val = (keepSession s.stageStop s.stageStop.warmRegs).portState p.val := by
    simp only [State.portState, State.fget, show Fld.LNK_Pp_STATE_STATE.reg = .LNK_Pp_STATE from rfl, State.warmStart_ports]
  rw [e, State.keepSession_portState, State.portState, State.fget, State.warmRegs_rd, if_pos (.inr rfl)]
  have zero : resetWord Fld.LNK_Pp_STATE_STATE.reg p.val = 0 := rfl
  rw [zero]
  rfl

/-- Every port keeps its count of sessions. -/
theorem State.warmStart_session (s : State) (p : PortId) :
    s.warmStart.fget Fld.LNK_Pp_STATE_SESSION p.val = s.fget Fld.LNK_Pp_STATE_SESSION p.val := by
  have e : s.warmStart.fget Fld.LNK_Pp_STATE_SESSION p.val =
      (keepSession s.stageStop s.stageStop.warmRegs).fget Fld.LNK_Pp_STATE_SESSION p.val := by
    simp only [State.fget, show Fld.LNK_Pp_STATE_SESSION.reg = .LNK_Pp_STATE from rfl, State.warmStart_ports]
  rw [e, State.keepSession_session, State.fget, State.stageStop_rd, State.fget]

theorem State.warmStart_chkHeld (s : State) (u : Fin 4) : s.warmStart.chkHeld u.val = false := by
  rw [State.warmStart, State.chkHeld_congr (State.warmPower_rd _ _ _ _), State.stopUnits_chkHeld]

theorem State.warmStart_margin (s : State) : s.warmStart.fget Fld.HBM_MARGIN_CTRL_START = 0 := by
  rw [State.warmStart, State.fget, State.warmPower_rd, ← State.fget, State.stopUnits_margin]

/-- WARM_RESET where nothing holds it off: the request is recorded, and the part begins bring-up anew (R463). -/
theorem State.warmReset_taken {s : State} (b : Bool) (held : s.resetHeld = false) (fail : s.pwr.powerFail = false) (pf : s.pins.pwrFailN = true)
    (po : s.pins.porstN = true) (jtag : s.boot.jtagHeld = false) :
    s.warmReset b = ((s.event { code := 0x0122, cls := 0, inst := 0, sev := 0, p1 := b2n b }).warmStart).beginBoot := by
  rw [State.warmReset, if_neg (by simp [held, fail, pf, po, jtag]), State.warm_eq]

/-- Settles O31: a cold reset by `ColdBegun`, a warm one by the laws of `warmStart` and of what `beginBoot` keeps. -/
theorem coldAndWarmReset : Obligations.ColdAndWarmReset := by
  unfold Obligations.ColdAndWarmReset
  refine ⟨?_, ?_, ?_⟩
  · intro feed slot s
    obtain ⟨c, trip, fault⟩ := s.coldReset_begun feed slot
    exact ⟨_, rfl, c.bootState, c.queues, c.mem, c.porstN, trip, fault, c.straps, c.count, c.flashCount, c.regs⟩
  · intro b s held fail pf po jtag
    have q : Quiet s (s.event { code := 0x0122, cls := 0, inst := 0, sev := 0, p1 := b2n b }) := Quiet.event s _ (by simp)
    refine ⟨_, congrArg Host.Outcome.next (s.warmReset_taken b held fail pf po jtag), State.beginBoot_bootState _, ?_, ?_, ?_, ?_, ?_, ?_, ?_, ?_, ?_⟩
    · rw [State.beginBoot_queues, State.warmStart_queues]
    · rw [State.beginBoot_mem, State.warmStart_mem]
    · rw [State.beginBoot_count, State.warmStart_flashCount, q.flash]
    · rw [State.beginBoot_pwr]
      rfl
    · rw [State.beginBoot_pwr]
      rfl
    · intro p
      rw [State.portState, State.beginBoot_fget _ _ _ _ (by decide) rfl, State.beginBoot_fget _ _ _ _ (by decide) rfl, ← State.portState,
        State.warmStart_session, q.fget _ _ _ rfl]
      exact ⟨State.warmStart_portState _ p, rfl⟩
    · intro u
      rw [State.chkHeld_congr (State.beginBoot_rd _ _ _ _ (by decide) rfl), State.warmStart_chkHeld]
    · rw [State.beginBoot_fget _ _ _ _ (by decide) rfl, State.warmStart_margin]
    · intro r i a n g v l c m
      rw [State.beginBoot_rd _ _ _ _ g n, State.warmStart_rd _ _ _ _ v l c m, q.rd r i a n]
  · intro b s h
    refine congrArg Host.Outcome.next (if_pos ?_)
    rcases h with h | h | h | h | h <;> simp [h]

end Sys2Proof.Machine
end

section
/-! SUPPORT. A partition reset: what dropping a partition's streams, programs and collectives leaves alone, and what the reset restores. -/

namespace Sys2Proof.Machine

/-! ## What is dropped (R307) -/

/-- Registers of the units that a partition reset stops: streams and their pools, engines, collectives, check-value units. -/
def dropLoud : RegName → Bool
  | .ING_STRn_STATE | .ING_STRn_OCC | .ING_POOL_W | .ING_POOL_E | .VEC_Vn_STATE | .COL_GRPg_STATE | .CHK_Uu_CTRL => true
  | _ => false

/-- What stopping a partition's units leaves alone. -/
structure Drops (s t : State) : Prop where
  cells : t.mem.cells = s.mem.cells
  queues : t.queues = s.queues
  tier : t.tier = s.tier
  pwr : t.pwr = s.pwr
  resetting : t.boot.resetting = s.boot.resetting
  regs : KeepsRegs s t dropLoud

theorem Drops.refl (s : State) : Drops s s := ⟨rfl, rfl, rfl, rfl, rfl, fun _ _ _ _ _ => rfl⟩

theorem Drops.trans {s t u : State} (h : Drops s t) (k : Drops t u) : Drops s u :=
  ⟨k.cells.trans h.cells, k.queues.trans h.queues, k.tier.trans h.tier, k.pwr.trans h.pwr, k.resetting.trans h.resetting,
   fun r i a d l => (k.regs r i a d l).trans (h.regs r i a d l)⟩

theorem Drops.foldl {β : Type} {f : State → β → State} (h : ∀ s x, Drops s (f s x)) (l : List β) (s : State) : Drops s (l.foldl f s) := by
  induction l generalizing s with
  | nil => exact Drops.refl s
  | cons x l ih => exact (h s x).trans (ih _)

theorem Drops.quiet {s t : State} (h : Quiet s t) : Drops s t :=
  ⟨by rw [h.mem], h.queues, h.tier, h.pwr, by rw [h.boot], fun r i a _ l => h.rd r i a l⟩

theorem Drops.wr (s : State) (r : RegName) (i a : Nat) (v : Word) (n : dropLoud r = true) : Drops s (s.wr r i a v) := by
  refine ⟨by simp, by simp, by simp, by simp, by simp, fun q j b d _ => s.rd_wr_reg _ _ _ _ _ ?_⟩
  rintro rfl
  simp [n] at d

theorem Drops.fset (s : State) (f : Fld) (v i a : Nat) (n : dropLoud f.reg = true) : Drops s (s.fset f v i a) := Drops.wr _ _ _ _ _ n

/-- A change of what holds no byte, queue, transfer, balance or register. -/
theorem Drops.of_eq {s t : State} (rf : t.rf = s.rf) (mem : t.mem.cells = s.mem.cells) (q : t.queues = s.queues) (tr : t.tier = s.tier)
    (p : t.pwr = s.pwr) (b : t.boot.resetting = s.boot.resetting) : Drops s t :=
  ⟨mem, q, tr, p, b, fun r i a _ _ => by rw [State.rd, rf, State.rd]⟩

theorem Drops.ing (s : State) (x : IngSt) : Drops s { s with ing := x } := Drops.of_eq rfl rfl rfl rfl rfl rfl
theorem Drops.col (s : State) (x : List (Nat × ColSt)) : Drops s { s with col := x } := Drops.of_eq rfl rfl rfl rfl rfl rfl
theorem Drops.setArr (s : State) (x : ArrSt) : Drops s (s.setArr x) := Drops.of_eq rfl rfl rfl rfl rfl rfl
theorem Drops.setEng (s : State) (e : Quad) (x : VecSt) : Drops s (s.setEng e x) := Drops.of_eq rfl rfl rfl rfl rfl rfl

/-! ## Streams (R92, R93) -/

theorem Drops.setStr (s : State) (n : Nat) (x : StreamSt) : Drops s (s.setStr n x) := by
  unfold State.setStr
  dsimp only
  exact ((((Drops.ing s _).trans (Drops.fset _ _ _ _ _ rfl)).trans (Drops.fset _ _ _ _ _ rfl)).trans
    (Drops.wr _ _ _ _ _ rfl)).trans (Drops.wr _ _ _ _ _ rfl)

theorem Drops.strSend (s : State) (n c o : Nat) : Drops s (s.strSend n c o) :=
  Drops.quiet ((Quiet.sendMsg _ _ _ _).trans (Quiet.emit _ _))

theorem Drops.strResume (s : State) (n : Nat) : Drops s (s.strResume n) := by
  unfold State.strResume
  dsimp only
  split
  · exact (((Drops.setStr _ _ _).trans (Drops.fset _ _ _ _ _ rfl)).trans (Drops.fset _ _ _ _ _ rfl)).trans (Drops.strSend _ _ _ _)
  · exact Drops.refl s

theorem Drops.dieResume (s : State) (e : Bool) : Drops s (s.dieResume e) := by
  unfold State.dieResume
  refine Drops.foldl (fun s x => ?_) _ _
  exact Drops.strResume s x.1

theorem Drops.closeStreams (s : State) (p : Nat) : Drops s (s.closeStreams p) := by
  unfold State.closeStreams
  dsimp only
  refine (Drops.trans ?_ (Drops.dieResume _ _)).trans (Drops.dieResume _ _)
  refine Drops.foldl (fun s n => ?_) _ _
  split
  · refine Drops.trans ?_ (Drops.setStr _ _ _)
    split
    · exact Drops.strSend _ _ _ _
    · exact Drops.refl s
  · exact Drops.refl s

theorem Drops.dropVideo (s : State) (p : Nat) : Drops s (s.dropVideo p) := by
  unfold State.dropVideo
  exact (Drops.closeStreams s p).trans (Drops.ing _ _)

/-! ## Engines and collectives -/

theorem Drops.dropCompute (s : State) (p : Part) : Drops s (s.dropCompute p) := by
  unfold State.dropCompute
  dsimp only
  refine (Drops.setArr s _).trans (Drops.foldl (fun s e => ?_) _ _)
  split
  · exact (Drops.setEng _ _ _).trans (Drops.fset _ _ _ _ _ rfl)
  · exact Drops.refl s

theorem Drops.modCol (s : State) (g : Nat) (f : ColSt → ColSt) : Drops s (s.modCol g f) := by
  unfold State.modCol State.setCol
  exact (Drops.col s _).trans (Drops.fset _ _ _ _ _ rfl)

theorem Drops.dropCol (s : State) (p : Part) : Drops s (s.dropCol p) := by
  unfold State.dropCol
  refine Drops.foldl (fun s g => ?_) _ _
  split
  · exact (Drops.modCol _ _ _).trans (Drops.fset _ _ _ _ _ rfl)
  · exact Drops.refl s

/-! ## Check-value units -/

/-- The check-value units that work for a command of the partition stop. -/
def State.stopChk (s : State) (p : Part) : State :=
  (List.finRange 4).foldl (fun (s : State) u =>
    if (vget s.chk u).owner.any (fun r => r.part == p) then
      (s.fset Fld.CHK_Uu_CTRL_BUSY 0 u.val).fset Fld.CHK_Uu_CTRL_OWNED 0 u.val
    else s) s

theorem Drops.stopChk (s : State) (p : Part) : Drops s (s.stopChk p) := by
  refine Drops.foldl (fun s u => ?_) _ _
  split
  · exact (Drops.fset _ _ _ _ _ rfl).trans (Drops.fset _ _ _ _ _ rfl)
  · exact Drops.refl s

/-! ## The reset of a partition (R40, R307) -/

/-- The tier state that a partition reset leaves: only a host's reads of T2 go on (R308). -/
def TierSt.hostOnly (t : TierSt) : TierSt := { TierSt.reset with fetches := t.fetches.filter (fun f => f.host.isSome) }

/-- Dropping bytes and poison of T2, requests, owners of check-value units, reports. -/
theorem Drops.ends (u : State) (t2 : List (Nat × Byte)) (poison : List Nat) (eut : EutSt) (chk : Vector ChkSt 4) (attest : List Nat)
    (report : List (Nat × List Byte)) : Drops u { u with mem := { u.mem with t2Poison := poison, t2 := t2 }, eut := eut, chk := chk,
                                                         boot := { u.boot with attest := attest, report := report } } :=
  Drops.of_eq rfl rfl rfl rfl rfl rfl

/-- A partition's units stopped, its queues emptied, its tier and recovery engines as after reset but for what a host and a partner need. -/
def State.dropUnits (s : State) (p : Part) : State :=
  (((({ s with queues := s.queues.filter (fun e => e.1 / 64 != p.val) }.dropVideo p.val).dropCompute p).dropCol p).modTier p
    TierSt.hostOnly).modRcv p (fun x => { RcvSt.reset with ward := x.ward })

theorem Drops.dropPart (s : State) (p : Part) : Drops (s.dropUnits p) (s.dropPart p) := Drops.ends _ _ _ _ _ _ _

/-- What dropping a partition does to bytes, queues, tiers, balances and registers. -/
structure PartDropped (p : Part) (s t : State) : Prop where
  cells : t.mem.cells = s.mem.cells
  queues : t.queues = s.queues.filter (fun e => e.1 / 64 != p.val)
  tier : t.tier = vset s.tier p (vget s.tier p).hostOnly
  pwr : t.pwr = s.pwr
  resetting : t.boot.resetting = s.boot.resetting
  regs : KeepsRegs s t dropLoud

theorem PartDropped.dropUnits (s : State) (p : Part) : PartDropped p s (s.dropUnits p) := by
  have d := ((Drops.dropVideo { s with queues := s.queues.filter (fun e => e.1 / 64 != p.val) } p.val).trans (Drops.dropCompute _ p)).trans
    (Drops.dropCol _ p)
  unfold State.dropUnits
  refine ⟨?_, ?_, ?_, ?_, ?_, fun r i a n l => ?_⟩
  · rw [State.modRcv_mem, State.modTier_mem, d.cells]
  · rw [State.modRcv_queues, State.modTier_queues, d.queues]
  · rw [State.modRcv_tier, State.modTier, d.tier]
  · rw [State.modRcv_pwr, State.modTier_pwr, d.pwr]
  · rw [State.modRcv_boot, State.modTier_boot, d.resetting]
  · rw [State.modRcv_rd, State.modTier_rd, d.regs r i a n l]
    rfl

/-- Stopping units before or after changes none of it. -/
theorem PartDropped.after {p : Part} {s t u : State} (h : Drops s t) (k : PartDropped p t u) : PartDropped p s u :=
  ⟨k.cells.trans h.cells, by rw [k.queues, h.queues], by rw [k.tier, h.tier], k.pwr.trans h.pwr, k.resetting.trans h.resetting,
   fun r i a n l => (k.regs r i a n l).trans (h.regs r i a n l)⟩

theorem PartDropped.before {p : Part} {s t u : State} (h : PartDropped p s t) (k : Drops t u) : PartDropped p s u :=
  ⟨k.cells.trans h.cells, k.queues.trans h.queues, k.tier.trans h.tier, k.pwr.trans h.pwr, k.resetting.trans h.resetting,
   fun r i a n l => (k.regs r i a n l).trans (h.regs r i a n l)⟩

theorem PartDropped.dropPart (s : State) (p : Part) : PartDropped p s ((s.stopChk p).dropPart p) :=
  ((PartDropped.dropUnits _ p).after (Drops.stopChk s p)).before (Drops.dropPart _ p)

/-! ## Registers of a partition (R40) -/

/-- A partition reset restores the partition-scope registers of its domain at the partition's home. -/
theorem State.partKey_part (s : State) (p : Nat) {g : RegName} (i a : Nat) (d : g.spec.dom = .part) (c : g.spec.scope = .part) :
    s.partKey p (regKey g i a) = (a % 8 == p) := by
  simp [State.partKey, keyReg_regKey, keySel_regKey, d, c]

/-- It restores no register of another domain. -/
theorem State.partKey_other (s : State) (p : Nat) {g : RegName} (i a : Nat) (d : g.spec.dom ≠ .part) : s.partKey p (regKey g i a) = false := by
  simp [State.partKey, keyReg_regKey, d]

/-- No partition-scope register shows what the units of a partition reset stop. -/
theorem dropLoud_part {g : RegName} (c : g.spec.scope = .part) : dropLoud g = false := by
  have table : (decide (g.spec.scope = .part) && dropLoud g) = false := by cases g <;> rfl
  simpa [c] using table

/-! ## The reset of a partition (R307) -/

/-- The registers of a partition restored, its shadows and staging words dropped, its balance at its burst. -/
def State.restorePart (s : State) (p : Part) : State :=
  { s with rf := (s.rf.restore (s.partKey p.val)).dropReq (· == p.val) }.resetBal p

/-- A partition reset drops, then restores. -/
theorem State.partReset_eq (s : State) (p : Part) : s.partReset p = ((s.stopChk p).dropPart p).restorePart p := by
  unfold State.partReset State.restorePart State.stopChk
  rfl

section Restored

variable (s : State) (p : Part)

theorem State.restorePart_rd (r : RegName) (i a : Nat) :
    (s.restorePart p).rd r i a = if s.partKey p.val (regKey r i a) then resetWord r i else s.rd r i a := RegFile.rd_restore _ _ _ _ _
theorem State.restorePart_mem : (s.restorePart p).mem = s.mem := rfl
theorem State.restorePart_queues : (s.restorePart p).queues = s.queues := rfl
theorem State.restorePart_tier : (s.restorePart p).tier = s.tier := rfl
theorem State.restorePart_boot : (s.restorePart p).boot = s.boot := rfl

/-- The balance is the partition's burst, as its registers then give it, and its shortfall zero (R385). -/
theorem State.restorePart_balance : vget (s.restorePart p).pwr.bal p = (s.restorePart p).burst p.val ∧ vget (s.restorePart p).pwr.short p = 0 :=
  ⟨vget_vset_same _ _ _, vget_vset_same _ _ _⟩

end Restored

/-- Registers outside the partition-reset domain, but those of the units that stop and of the recorder, stay. -/
theorem State.partReset_rd_other (s : State) (p : Part) {r : RegName} (i a : Nat) (d : r.spec.dom ≠ .part) (n : dropLoud r = false)
    (l : loud r = false) : (s.partReset p).rd r i a = s.rd r i a := by
  rw [State.partReset_eq, State.restorePart_rd, State.partKey_other _ _ _ _ d, if_neg (by simp), (PartDropped.dropPart s p).regs r i a n l]

/-- Partition-scope registers of that domain return for the partition, and stay for another one. -/
theorem State.partReset_rd_part (s : State) (p : Part) {r : RegName} (i : Nat) (d : r.spec.dom = .part) (c : r.spec.scope = .part)
    (l : loud r = false) : (s.partReset p).rd r i p.val = resetWord r i ∧
      ∀ q : Part, q ≠ p → (s.partReset p).rd r i q.val = s.rd r i q.val := by
  have small (q : Part) : q.val % 8 = q.val := Nat.mod_eq_of_lt (q.isLt.trans (by decide))
  refine ⟨?_, fun q n => ?_⟩
  · rw [State.partReset_eq, State.restorePart_rd, State.partKey_part _ _ _ _ d c, small, if_pos (beq_self_eq_true _)]
  · have other : (q.val == p.val) = false := beq_false_of_ne (Fin.val_ne_of_ne n)
    rw [State.partReset_eq, State.restorePart_rd, State.partKey_part _ _ _ _ d c, small, other, if_neg (by simp),
      (PartDropped.dropPart s p).regs r i q.val (dropLoud_part c) l]

theorem State.partReset_cell (s : State) (p : Part) {a : Nat} (h : isT2 a = false) : (s.partReset p).cell a = s.cell a := by
  simp [State.cell, h, State.partReset_eq, State.restorePart_mem, (PartDropped.dropPart s p).cells]

theorem State.partReset_resetting (s : State) (p : Part) : (s.partReset p).boot.resetting = s.boot.resetting := by
  rw [State.partReset_eq, State.restorePart_boot, (PartDropped.dropPart s p).resetting]

theorem State.partReset_tier (s : State) (p : Part) : (s.partReset p).tier = vset s.tier p (vget s.tier p).hostOnly := by
  rw [State.partReset_eq, State.restorePart_tier, (PartDropped.dropPart s p).tier]

/-- The queues of the partition are empty, those of the others stay. -/
theorem State.partReset_queue (s : State) (p p' : Part) {q : Nat} (h : q < 64) :
    (s.partReset p).queue p'.val q = if p' = p then State.reset.queue p'.val q else s.queue p'.val q := by
  have k : (p'.val * 64 + q) / 64 = p'.val := by omega
  rw [State.queue, State.partReset_eq, State.restorePart_queues, (PartDropped.dropPart s p).queues,
    Sparse.get_filter _ _ (fun k => k / 64 != p.val), k]
  by_cases e : p' = p
  · rw [if_pos e, if_neg (by simp [e])]
    rfl
  · rw [if_neg e, if_pos (by simpa using Fin.val_ne_of_ne e), State.queue]

/-- The balance is the partition's burst and its shortfall zero (R385). -/
theorem State.partReset_balance (s : State) (p : Part) : vget (s.partReset p).pwr.bal p = s.burst p.val ∧ vget (s.partReset p).pwr.short p = 0 := by
  have burst : (s.partReset p).burst p.val = s.burst p.val := by
    rw [State.burst, State.fget, State.partReset_rd_other _ _ _ _ (by decide) rfl rfl, ← State.fget, ← State.burst]
  rw [← burst, State.partReset_eq]
  exact State.restorePart_balance _ p

/-! ## The command -/

/-- The state in which the reset of a partition begins where no host's request waits. -/
def State.underReset (s : State) (r : Requester) (p : Part) : State :=
  { s.fset Fld.EUT_PART_RESET_BUSY 1 with eut := { s.eut with waiting := [] }, boot := { s.boot with resetting := some (p, r, true) } }

theorem State.underReset_rd (s : State) (r : Requester) (p : Part) (g : RegName) (i a : Nat) :
    (s.underReset r p).rd g i a = (s.fset Fld.EUT_PART_RESET_BUSY 1).rd g i a := rfl

theorem exec_partitionReset (r : Requester) (p : Part) (s : State) : exec (.partitionReset r p) s = execPartitionReset r p s := rfl

/-- P0 and the management core may reset a partition. -/
theorem execPartitionReset_go {r : Requester} (p : Part) (s : State) (h : r = .mgc ∨ r = .part 0) :
    execPartitionReset r p s = .next (s.thenReset (s.partGo r p)) := by
  rcases h with rfl | rfl <;> simp [execPartitionReset]

/-- GO where no reset is in progress and no host's request waits: the reset takes place at once. -/
theorem State.partGo_begins {s : State} (r : Requester) (p : Part) (h : s.boot.resetting = none) (w : s.eut.waiting = []) :
    s.thenReset (s.partGo r p) = (s.underReset r p).partReset p := by
  simp only [State.thenReset, State.partGo, State.beginReset, h, w, Option.isSome_none, Option.isNone_none, State.fset_boot, State.fset_eut,
    List.filter_nil, List.foldl_nil, if_true, Bool.false_eq_true, if_false]
  exact congrArg (State.partReset · p) rfl

/-- Settles O32: the reset is `partReset` of `underReset`, whose laws are above; the other answers are `accessErr`. -/
theorem partitionReset : Obligations.PartitionReset := by
  unfold Obligations.PartitionReset
  refine ⟨?_, ?_, ?_⟩
  · intro r p s hr idle empty
    have busy (g : RegName) (i a : Nat) (h : g ≠ .EUT_PART_RESET) : (s.underReset r p).rd g i a = s.rd g i a := by
      rw [State.underReset_rd, State.rd_fset_reg _ _ _ _ _ _ h]
    have burst : (s.underReset r p).burst p.val = s.burst p.val := by
      simp only [State.burst, State.fget, busy Fld.PWR_ALLOW_BURST_DJ.reg 0 p.val (by decide)]
    refine ⟨(s.underReset r p).partReset p, ?_, fun a h => State.partReset_cell _ p h, ?_, ?_, fun q h => ?_, fun p' n q h => ?_, ?_,
      fun p' n => ?_, ?_, (State.partReset_balance _ p).2, fun g i d c l => ?_⟩
    · rw [exec_partitionReset, execPartitionReset_go p s hr, State.partGo_begins r p idle empty]
    · rw [State.partReset_resetting]
      rfl
    · rw [State.fget, State.partReset_rd_other _ _ _ _ (by decide) rfl rfl, State.underReset_rd, ← State.fget,
        State.fget_fset_same _ _ _ _ _ (by decide) (by decide)]
      rfl
    · rw [State.partReset_queue _ _ _ h, if_pos rfl]
    · rw [State.partReset_queue _ _ _ h, if_neg n]
      rfl
    · rw [State.partReset_tier, vget_vset_same]
      rfl
    · rw [State.partReset_tier, vget_vset_ne _ _ n]
      rfl
    · rw [(State.partReset_balance _ p).1, burst]
    · obtain ⟨own, other⟩ := State.partReset_rd_part (s.underReset r p) p i d c l
      refine ⟨own, fun p' n => ?_⟩
      rw [other p' n, busy g i p'.val]
      rintro rfl
      cases c
  · intro r p s hr busy
    rw [exec_partitionReset, execPartitionReset_go p s hr, State.thenReset_of_resetting] <;> simp [State.partGo, busy]
  · intro q p s h
    rw [exec_partitionReset, execPartitionReset, if_neg h]

end Sys2Proof.Machine
end

section
/-! SUPPORT. What the units that work for a command leave alone: the queues, the balances and the command processor's own registers. Memory, the
ledger, the links and the units that forget a command all keep them. -/

namespace Sys2Proof.Machine

/-- The registers of the command processor, and the energy counters of the queues. -/
def cmdReg : RegName → Bool
  | .CMD_STATUS | .CMD_Qn_BASE_LO | .CMD_Qn_BASE_HI | .CMD_Qn_CTRL | .CMD_Qn_TAIL | .CMD_Qn_HEAD | .CMD_Qn_STATUS | .CMD_Qn_FAIL
  | .CMD_Qn_WAIT_LIMIT | .CMD_LOCK_VAL_k | .PWR_Qn_E_LO | .PWR_Qn_E_HI => true
  | _ => false

/-- No event and no memory error changes such a register. -/
theorem cmdReg_quiet {r : RegName} (h : cmdReg r = true) : hbmLoud r = false ∧ loud r = false ∧ r ≠ .LNK_Pp_STATE ∧ r ≠ .EUT_Ek_ADAPTER := by
  have table : (!cmdReg r || (!hbmLoud r && !loud r && r != .LNK_Pp_STATE && r != .EUT_Ek_ADAPTER)) = true := by cases r <;> rfl
  simpa [h, and_assoc] using table

/-- What work for a command leaves alone. -/
structure CmdKept (s t : State) : Prop where
  queues : t.queues = s.queues
  pwr : t.pwr = s.pwr
  rd : ∀ r i a, cmdReg r = true → t.rd r i a = s.rd r i a

namespace CmdKept

theorem refl (s : State) : CmdKept s s := ⟨rfl, rfl, fun _ _ _ _ => rfl⟩

theorem trans {s t u : State} (h : CmdKept s t) (k : CmdKept t u) : CmdKept s u :=
  ⟨k.queues.trans h.queues, k.pwr.trans h.pwr, fun r i a c => (k.rd r i a c).trans (h.rd r i a c)⟩

theorem ite {s t u : State} {c : Prop} [Decidable c] (h : CmdKept s t) (k : CmdKept s u) : CmdKept s (if c then t else u) := by
  split
  · exact h
  · exact k

theorem foldl {β : Type} {f : State → β → State} (h : ∀ s x, CmdKept s (f s x)) (l : List β) (s : State) : CmdKept s (l.foldl f s) := by
  induction l generalizing s with
  | nil => exact refl s
  | cons x l ih => exact (h s x).trans (ih _)

/-- A fold that carries a result behind the state. -/
theorem foldlFst {β γ : Type} {f : State × γ → β → State × γ} (h : ∀ x b, CmdKept x.1 (f x b).1) (l : List β) (x : State × γ) :
    CmdKept x.1 (l.foldl f x).1 := foldlFst_rel refl trans h l x

theorem quietFail {s t : State} (h : QuietFail s t) : CmdKept s t :=
  ⟨h.queues, h.pwr, fun r i a c => by obtain ⟨-, l, p, e⟩ := cmdReg_quiet c; exact h.rd r i a l p e⟩
theorem quiet {s t : State} (h : Quiet s t) : CmdKept s t := quietFail h.fail
theorem written {s t : State} (h : Written s t) : CmdKept s t := ⟨h.queues, h.pwr, fun r i a c => h.rd r i a (cmdReg_quiet c).1⟩
theorem touched {s t : State} (h : Touched s t) : CmdKept s t := written h.written

theorem wr (s : State) (r : RegName) (i a : Nat) (v : Word) (n : cmdReg r = false) : CmdKept s (s.wr r i a v) := by
  refine ⟨by simp, by simp, fun q j b c => s.rd_wr_reg _ _ _ _ _ ?_⟩
  rintro rfl
  simp [n] at c

theorem fset (s : State) (f : Fld) (v i a : Nat) (n : cmdReg f.reg = false) : CmdKept s (s.fset f v i a) := wr _ _ _ _ _ n
theorem sqSet (s : State) (r : RegName) (i a : Nat) (b c : List Fld) (n : cmdReg r = false) : CmdKept s (s.sqSet r i a b c) := wr _ _ _ _ _ n

/-- A change of other parts of the state. -/
theorem of_eq {s t : State} (rf : t.rf = s.rf) (q : t.queues = s.queues) (p : t.pwr = s.pwr) : CmdKept s t :=
  ⟨q, p, fun r i a _ => by rw [State.rd, rf, State.rd]⟩

theorem event (s : State) (e : Ev) : CmdKept s (s.event e) := quietFail (QuietFail.event s e)
theorem drawBytes (s : State) (n : Nat) : CmdKept s (s.drawBytes n).2 := of_eq rfl rfl rfl
theorem draw (s : State) (n : Nat) : CmdKept s (s.draw n).2 := of_eq rfl rfl rfl
theorem modTier (s : State) (p : Part) (f : TierSt → TierSt) : CmdKept s (s.modTier p f) := of_eq rfl rfl rfl
theorem modRcv (s : State) (p : Part) (f : RcvSt → RcvSt) : CmdKept s (s.modRcv p f) := of_eq rfl rfl rfl

/-! ## Memory -/

theorem readAs (s : State) (c a n u : Nat) : CmdKept s (s.readAs c a n u).2 := touched (Touched.readAs s c a n u)
theorem writeAs (s : State) (c a : Nat) (b : List Byte) : CmdKept s (s.writeAs c a b).1 := written (Written.writeAs s c a b)
theorem grantTouch (s : State) (c a n : Nat) : CmdKept s ((s.grant c a n).touch a n) :=
  touched ((Touched.grant s c a n).trans (Touched.touch _ a n))

theorem fetchTensor (s : State) (c : Nat) (d : TDesc) (u : Nat) : CmdKept s (s.fetchTensor c d u).1 :=
  foldlFst (fun x r => readAs x.1 c r.1 r.2 u) _ (s, 0)

theorem scramble (s : State) (a n : Nat) : CmdKept s (s.scramble a n) := (drawBytes s n).trans (written (Written.writeMem _ _ _))

theorem scrambleTensor (s : State) (d : TDesc) : CmdKept s (s.scrambleTensor d) := by
  unfold State.scrambleTensor
  refine foldl (fun s r => ?_) _ s
  exact scramble s r.1 r.2

theorem scrambleOutputs (s : State) (r : CmdRef) (c : Cmd) : CmdKept s (s.scrambleOutputs r c) := by
  have h : CmdKept s (((outputs c).filter (fun o => o.1.rank != 0)).foldl (fun (s : State) o => s.scrambleTensor o.1) s) := by
    refine foldl (fun s o => ?_) _ s
    exact scrambleTensor s o.1
  unfold State.scrambleOutputs
  dsimp only
  split
  · split
    · exact h.trans (scramble _ _ _)
    · exact h
  · exact h

/-! ## The ledger (R229, R236) -/

theorem putEnt (s : State) (p i : Nat) (b : List Byte) : CmdKept s (s.putEnt p i b).1 := writeAs s _ _ _

theorem ledStatus (s : State) (p : Nat) (b c : List Fld) : CmdKept s (s.ledStatus p b c) := sqSet s _ _ _ _ _ rfl
theorem numEvent (s : State) (p c v a b : Nat) : CmdKept s (s.numEvent p c v a b) := event s _

theorem seqSt {s : State} {x : State × Nat} {f : State → State × Nat} (h : CmdKept s x.1) (k : ∀ t, CmdKept t (f t).1) :
    CmdKept s (seqSt x f).1 := h.trans (k x.1)

theorem rewriteDesc (s : State) (p a d c : Nat) (x : Option Nat) : CmdKept s (s.rewriteDesc p a d c x).1 := by
  unfold State.rewriteDesc
  dsimp only
  split
  · exact refl s
  · split
    · exact readAs s _ _ _ _
    · exact (readAs s _ _ _ _).trans (writeAs _ _ _ _)

theorem setFormat (s : State) (p : Nat) (b : List Byte) (l : Nat) : CmdKept s (s.setFormat p b l).1 := by
  unfold State.setFormat
  split <;> exact seqSt (rewriteDesc s _ _ _ _ _) (fun t => rewriteDesc t _ _ _ _ _)

theorem loseHistory (s : State) (p i c : Nat) : CmdKept s (s.loseHistory p i c).1 := by
  unfold State.loseHistory
  dsimp only
  refine (seqSt (putEnt s _ _ _) (fun t => ?_)).trans ((ledStatus _ _ _ _).trans (numEvent _ _ _ _ _ _))
  split
  · exact setFormat t _ _ _
  · exact refl t

theorem checkEnt (s : State) (p i : Nat) : CmdKept s (s.checkEnt p i).1 := by
  unfold State.checkEnt
  dsimp only
  split
  · exact (grantTouch s _ _ _).trans (loseHistory _ _ _ _)
  · exact grantTouch s _ _ _

theorem pendDrop (s : State) (p t l k : Nat) : CmdKept s (s.pendDrop p t l k) :=
  (ledStatus s _ _ _).trans (numEvent _ _ _ _ _ _)

theorem recordOutput (s : State) (p n : Nat) (r : LedRec) : CmdKept s (s.recordOutput p n r) := by
  unfold State.recordOutput
  split
  · exact refl s
  · dsimp only
    have h (i : Nat) : CmdKept s (s.checkEnt p i).1 := checkEnt s p i
    split
    · exact h _
    · split
      · exact (h _).trans (putEnt _ _ _ _)
      · split
        · exact ((h _).trans (putEnt _ _ _ _)).trans (pendDrop _ _ _ _ _)
        · exact (h _).trans (pendDrop _ _ _ _ _)

theorem recordOutputs (s : State) (p : Nat) (c : Cmd) : CmdKept s (s.recordOutputs p c) :=
  foldl (fun s r => recordOutput s p (cStep c) r) c.recs s

/-! ## A command that goes (R78, R445) -/

theorem setChk (s : State) (u : Fin 4) (x : ChkSt) : CmdKept s (s.setChk u x) := of_eq rfl rfl rfl
theorem setCol (s : State) (x : List (Nat × ColSt)) : CmdKept s { s with col := x } := of_eq rfl rfl rfl
theorem setChks (s : State) (x : Vector ChkSt 4) : CmdKept s { s with chk := x } := of_eq rfl rfl rfl
theorem dropJob (s : State) (r : CmdRef) : CmdKept s (s.dropJob r) := of_eq rfl rfl rfl
theorem dropOut (s : State) (r : CmdRef) : CmdKept s (s.dropOut r) := of_eq rfl rfl rfl

theorem freeChk (s : State) (r : CmdRef) : CmdKept s (s.freeChk r) := by
  refine foldl (fun s u => ?_) _ s
  dsimp only
  split
  · exact (fset s _ _ _ _ rfl).trans (setChk _ _ _)
  · exact refl s

theorem freeEngines (s : State) (r : CmdRef) : CmdKept s (s.freeEngines r) :=
  foldl (fun s _ => ite (fset s _ _ _ _ rfl) (refl s)) _ s

theorem modCol (s : State) (g : Nat) (f : ColSt → ColSt) : CmdKept s (s.modCol g f) := by
  unfold State.modCol State.setCol
  exact (setCol s _).trans (fset _ _ _ _ _ rfl)
theorem colPhase (s : State) (g n : Nat) : CmdKept s (s.colPhase g n) := fset s _ _ _ _ rfl

theorem colStop (s : State) (r : CmdRef) : CmdKept s (s.colStop r) := by
  refine foldl (fun s g => ?_) _ s
  have run : CmdKept s (match (s.colSt g).run with
      | some x => if x.ref = r then (s.modCol g (fun y => { y with run := none, failed := (x.step, x.attempt) :: y.failed })).colPhase g 0 else s
      | none => s) := by
    split
    · exact ite ((modCol s _ _).trans (colPhase _ _ _)) (refl s)
    · exact refl s
  dsimp only
  split
  · exact ite (run.trans ((modCol _ _ _).trans (colPhase _ _ _))) run
  · exact run

theorem dropT2 (s : State) (f : Fetch) : CmdKept s (s.dropT2 f) := of_eq rfl rfl rfl

theorem t2Drop (s : State) (r : CmdRef) : CmdKept s (s.t2Drop r) := (modTier s _ _).trans (foldl (fun s f => dropT2 s f) _ _)

theorem forget (s : State) (r : CmdRef) : CmdKept s (s.forget r) := by
  unfold State.forget
  extract_lets stopped dropped unscheduled unsnapped
  have stop : CmdKept s stopped := (((dropJob s r).trans (freeEngines _ r)).trans (colStop _ r)).trans (dropOut _ r)
  exact (((stop.trans (t2Drop _ r)).trans (modTier _ r.part _)).trans (modRcv _ r.part _)).trans (setChks _ _)

/-! ## Slots of a ring (R470) -/

theorem putStatus (s : State) (p q n st : Nat) : CmdKept s (s.putStatus p q n st) := ite (writeAs s _ _ _) (refl s)

theorem fetchCmd (s : State) (p q n : Nat) : CmdKept s (s.fetchCmd p q n).2 := by
  have h (s : State) (a : Nat) : CmdKept s (if s.ownsT01 p a 64 then (s.grant p a 64).touch a 64 else s) := ite (grantTouch s p a 64) (refl s)
  unfold State.fetchCmd
  extract_lets a s1 st
  have k : CmdKept s s1 := h s a
  split
  · exact k
  · exact k.trans (foldl (fun s b => h s b) _ _)

end CmdKept

/-! ## What follows for queues and locks -/

section

variable {s t : State} (h : CmdKept s t)
include h

theorem CmdKept.queue (p q : Nat) : t.queue p q = s.queue p q := by rw [State.queue, h.queues, State.queue]
theorem CmdKept.cmdAt (p q n : Nat) : t.cmdAt p q n = s.cmdAt p q n := State.cmdAt_congr h.queues p q n
theorem CmdKept.lock (p k : Nat) : t.lock p k = s.lock p k := by rw [State.lock, h.rd _ _ _ rfl, State.lock]
theorem CmdKept.qHead (p q : Nat) : t.qHead p q = s.qHead p q := by rw [State.qHead, h.rd _ _ _ rfl, State.qHead]

end

end Sys2Proof.Machine
end

section
/-! SUPPORT. Doorbells, and the commands that do nothing but end: which counts a ring accepts, and what NOP and a set lock leave alone. -/

namespace Sys2Proof.Machine

open Sys2Proof.Safety

/-! ## The TAIL doorbell (R57) -/

/-- The distance of a count past HEAD, as a word and as a number. -/
theorem toNat_sub_word (x h : Word) : (x - h).toNat = (x.toNat + 2 ^ 32 - h.toNat) % 2 ^ 32 := by
  rw [BitVec.toNat_sub, show 2 ^ 32 - h.toNat + x.toNat = x.toNat + 2 ^ 32 - h.toNat by have := h.isLt; omega]

theorem tailOk_iff (head tail v : Word) (n : Nat) :
    tailOk head.toNat tail.toNat n v.toNat = true ↔ v - head ≥ tail - head ∧ (v - head).toNat ≤ n := by
  rw [ge_iff_le, BitVec.le_def, toNat_sub_word, toNat_sub_word]
  simp [tailOk]

section

variable (p q : Nat) (v : Word) (s : State)

/-- TAIL is accepted when the value does not fall behind it and does not run past the ring. -/
def State.tailAccepted : Prop :=
  v - s.rd .CMD_Qn_HEAD q p ≥ s.rd .CMD_Qn_TAIL q p - s.rd .CMD_Qn_HEAD q p ∧ (v - s.rd .CMD_Qn_HEAD q p).toNat ≤ s.ringSlots p q

theorem State.tailWrite_accepted (h : s.tailAccepted p q v) : s.tailWrite p q v = s.wr .CMD_Qn_TAIL q p v :=
  if_pos ((tailOk_iff _ _ _ _).mpr h)

theorem State.tailWrite_refused (h : ¬ s.tailAccepted p q v) :
    s.tailWrite p q v = s.sqSet .CMD_Qn_STATUS q p [Fld.CMD_Qn_STATUS_BAD_TAIL] [] :=
  if_neg (mt (tailOk_iff _ _ _ _).mp h)

end

theorem exec_cmdQnTailWrite (p : Part) (q : QueueId) (v : Word) (s : State) :
    exec (.cmdQnTailWrite p q v) s = .next (s.tailWrite p.val q.val v) := rfl

/-- Settles O28: the write is `tailWrite`, whose test is the comparison of the distances past HEAD. -/
theorem tailDoorbell : Obligations.TailDoorbell := by
  unfold Obligations.TailDoorbell
  refine ⟨fun p q v s rise fits => ⟨_, exec_cmdQnTailWrite p q v s, ?_⟩, fun p q v s bad => ⟨_, exec_cmdQnTailWrite p q v s, ?_⟩⟩
  · rw [State.tailWrite_accepted _ _ _ _ ⟨rise, fits⟩]
    exact ⟨s.rd_wr_same _ _ _ _, OnlyRegs.wr _ _ _ _ _⟩
  · rw [State.tailWrite_refused _ _ _ _ bad]
    exact ⟨s.sqSet_bit Fld.CMD_Qn_STATUS_BAD_TAIL _ _ rfl (by decide), OnlyRegs.wr _ _ _ _ _⟩

/-! ## Locks that are set (R67) -/

theorem State.lock_lockSet_same (s : State) (p k v : Nat) : (s.lockSet p k v).lock p k = v % 2 ^ 32 := by
  rw [State.lock, State.lockSet, State.rd_wr_same, BitVec.toNat_ofNat]

theorem exec_nop (c : CmdRef) (s : State) : exec (.nop c) s = .next (match s.running c 0 with
    | some d => s.finish c d
    | none => s) := rfl

theorem exec_lockSet (c : CmdRef) (s : State) : exec (.lockSet c) s = .next (match s.running c 1 with
    | some d => (s.lockSet c.part.val (cOparg d % 4096) (cSigAdd d)).finish c d
    | none => s) := rfl

theorem exec_cmdLockSet (p : Part) (k : Fin 4096) (v : Word) (s : State) : exec (.cmdLockSet p k v) s = .next (s.lockSet p.val k.val v.toNat) := rfl

theorem leNat_lt (l : List Byte) : leNat l < 256 ^ l.length := by
  induction l with
  | nil => decide
  | cons b l ih =>
    rw [leNat, List.length_cons, Nat.pow_succ]
    have := b.isLt
    omega

theorem fieldAt_lt (l : List Byte) (o n : Nat) : fieldAt l o n < 256 ^ n :=
  (leNat_lt _).trans_le (Nat.pow_le_pow_right (by decide) (List.length_take_le _ _))

theorem cSigAdd_lt (c : Cmd) : cSigAdd c < 2 ^ 32 := fieldAt_lt _ _ 4

/-- Settles O42: NOP only finishes, LOCK_SET finishes after one write of its lock. -/
theorem plainCommands : Obligations.PlainCommands := by
  unfold Obligations.PlainCommands
  refine ⟨fun c d s run => ?_, fun c d s run => ?_, fun c s idle => ?_, fun c s idle => ?_, fun p k v s => ?_⟩
  · obtain ⟨cmd, -, ok⟩ := State.running_some run
    exact ⟨_, by rw [exec_nop, run], CmdEnded.finish cmd (State.cmdAt_slot cmd) ok, rfl⟩
  · obtain ⟨cmd, -, ok⟩ := State.running_some run
    have cmd' : (s.lockSet c.part.val (cOparg d % 4096) (cSigAdd d)).cmdAt c.part.val c.queue.val c.slot = some d := by
      rw [State.cmdAt_congr (State.lockSet_queues _ _ _ _), cmd]
    refine ⟨_, by rw [exec_lockSet, run], CmdEnded.finish cmd' (State.cmdAt_slot cmd) ok, ?_, ?_, fun r i a n => ?_⟩
    · rw [State.finish, State.lock, State.setCmd_rd, ← State.lock, State.lock_lockSet_same, Nat.mod_eq_of_lt (cSigAdd_lt d)]
    · rw [State.finish, State.setCmd_mem, State.lockSet_mem]
    · rw [State.finish, State.setCmd_rd, State.lockSet, State.rd_wr_ne _ _ n]
  · rw [exec_nop, idle]
  · rw [exec_lockSet, idle]
  · refine ⟨_, exec_cmdLockSet p k v s, ?_, OnlyRegs.wr _ _ _ _ _⟩
    rw [State.lock_lockSet_same, Nat.mod_eq_of_lt v.isLt]

end Sys2Proof.Machine
end

section
/-! SUPPORT. The end of a command (R56, R64, R66, R70): what each step of `complete` changes, and what its end shows of locks, registers, memory and the
queue. -/

namespace Sys2Proof.Machine

/-! ## Registers kept -/

theorem KeepsRegs.refl (s : State) (n : RegName → Bool) : KeepsRegs s s n := fun _ _ _ _ _ => rfl

theorem KeepsRegs.trans {s t u : State} {n : RegName → Bool} (h : KeepsRegs s t n) (k : KeepsRegs t u n) : KeepsRegs s u n :=
  fun r i a x l => (k r i a x l).trans (h r i a x l)

theorem KeepsRegs.mono {s t : State} {n m : RegName → Bool} (h : KeepsRegs s t n) (k : ∀ r, n r = true → m r = true) : KeepsRegs s t m :=
  fun r i a x l => h r i a (by
    cases e : n r
    · rfl
    · rw [k r e] at x; cases x) l

theorem KeepsRegs.ite {s t u : State} {n : RegName → Bool} {c : Prop} [Decidable c] (h : KeepsRegs s t n) (k : KeepsRegs s u n) :
    KeepsRegs s (if c then t else u) n := by
  split
  · exact h
  · exact k

theorem KeepsRegs.wr (s : State) {n : RegName → Bool} (r : RegName) (i a : Nat) (v : Word) (h : n r = true) : KeepsRegs s (s.wr r i a v) n := by
  intro q j b x _
  refine s.rd_wr_reg _ _ _ _ _ ?_
  rintro rfl
  rw [h] at x
  cases x

theorem KeepsRegs.wr64 (s : State) {n : RegName → Bool} (l g : RegName) (v i a : Nat) (h : n l = true) (k : n g = true) :
    KeepsRegs s (s.wr64 l g v i a) n := (KeepsRegs.wr s _ _ _ _ h).trans (KeepsRegs.wr _ _ _ _ _ k)

theorem KeepsRegs.quiet {s t : State} (h : Quiet s t) (n : RegName → Bool) : KeepsRegs s t n := fun r i a _ l => h.rd r i a l

/-- A change of other parts of the state. -/
theorem KeepsRegs.of_rf {s t : State} (h : t.rf = s.rf) (n : RegName → Bool) : KeepsRegs s t n := fun r i a _ _ => by rw [State.rd, h, State.rd]

theorem KeepsRegs.fget {s t : State} {n : RegName → Bool} (h : KeepsRegs s t n) (f : Fld) (i a : Nat) (x : n f.reg = false)
    (l : loud f.reg = false) : t.fget f i a = s.fget f i a := by rw [State.fget, h _ _ _ x l, State.fget]

/-! ## Locks (R66) -/

section

variable (s : State) (p k v : Nat)

/-- A sum that fits is one write of the lock. -/
theorem State.lockAdd_fits (h : s.lock p k + v < 2 ^ 32) : s.lockAdd p k v = s.wr .CMD_LOCK_VAL_k k p (BitVec.ofNat 32 (s.lock p k + v)) :=
  if_pos h

/-- The state in which a saturating sum records its event. -/
def State.lockFull : State :=
  (s.wr .CMD_LOCK_VAL_k k p 0xFFFFFFFF).sqSet .CMD_STATUS 0 p [Fld.CMD_STATUS_LOCK_SAT] []

/-- The event of a saturating sum. -/
def lockEvent (p k : Nat) : Ev := { code := 0x0207, cls := 0, inst := 0, sev := 1, part := p, p1 := k }

theorem State.lockAdd_full (h : 2 ^ 32 ≤ s.lock p k + v) : s.lockAdd p k v = (s.lockFull p k).event (lockEvent p k) := if_neg (by omega)

theorem Quiet.lockEvent (s : State) (p k : Nat) : Quiet s (s.event (Machine.lockEvent p k)) := Quiet.event s _ (show 1 ≠ 3 by decide)

theorem State.lock_lt : s.lock p k < 2 ^ 32 := (s.rd .CMD_LOCK_VAL_k k p).isLt

/-- The lock holds the sum, saturated. -/
theorem State.lock_lockAdd_same : (s.lockAdd p k v).lock p k = min (2 ^ 32 - 1) (s.lock p k + v) := by
  by_cases h : s.lock p k + v < 2 ^ 32
  · rw [s.lockAdd_fits p k v h]
    simp only [State.lock, State.rd_wr_same, BitVec.toNat_ofNat] at h ⊢
    omega
  · have full : (0xFFFFFFFF : Word).toNat = 2 ^ 32 - 1 := by decide
    rw [s.lockAdd_full p k v (by omega), State.lock, (Quiet.lockEvent _ p k).rd _ _ _ rfl, State.lockFull, State.sqSet,
      State.rd_wr_reg _ _ _ _ _ _ (by decide), State.rd_wr_same, full]
    omega

theorem State.lockFull_sat : (s.lockFull p k).fget Fld.CMD_STATUS_LOCK_SAT 0 p = 1 := State.sqSet_bit _ Fld.CMD_STATUS_LOCK_SAT _ _ rfl (by decide)

/-- A saturating sum sets LOCK_SAT. -/
theorem State.lockAdd_sat (h : 2 ^ 32 ≤ s.lock p k + v) : (s.lockAdd p k v).fget Fld.CMD_STATUS_LOCK_SAT 0 p = 1 := by
  rw [s.lockAdd_full p k v h, (Quiet.lockEvent _ p k).fget _ _ _ rfl, s.lockFull_sat]

theorem State.lockFull_regs : KeepsRegs s (s.lockFull p k) (fun r => r == .CMD_LOCK_VAL_k || r == .CMD_STATUS) :=
  (KeepsRegs.wr _ _ _ _ _ rfl).trans (KeepsRegs.wr _ _ _ _ _ rfl)

theorem State.lockAdd_regs : KeepsRegs s (s.lockAdd p k v) (fun r => r == .CMD_LOCK_VAL_k || r == .CMD_STATUS) := by
  by_cases h : s.lock p k + v < 2 ^ 32
  · rw [s.lockAdd_fits p k v h]
    exact KeepsRegs.wr _ _ _ _ _ rfl
  · rw [s.lockAdd_full p k v (by omega)]
    exact (s.lockFull_regs p k).trans (KeepsRegs.quiet (Quiet.lockEvent _ p k) _)

/-- Every other lock stays. -/
theorem State.lock_lockAdd_ne {j : Nat} (n : j % 8192 ≠ k % 8192) : (s.lockAdd p k v).lock p j = s.lock p j := by
  have key := regKey_ne_inst .CMD_LOCK_VAL_k p p n
  by_cases h : s.lock p k + v < 2 ^ 32
  · rw [s.lockAdd_fits p k v h, State.lock, State.rd_wr_ne _ _ key, State.lock]
  · rw [s.lockAdd_full p k v (by omega), State.lock, (Quiet.lockEvent _ p k).rd _ _ _ rfl, State.lockFull, State.sqSet,
      State.rd_wr_reg _ _ _ _ _ _ (by decide), State.rd_wr_ne _ _ key, State.lock]

@[simp] theorem State.lockAdd_mem : (s.lockAdd p k v).mem = s.mem := by
  unfold State.lockAdd
  dsimp only
  split
  · simp
  · rw [State.event_mem]
    simp

@[simp] theorem State.lockAdd_queues : (s.lockAdd p k v).queues = s.queues := by
  unfold State.lockAdd
  dsimp only
  split
  · simp
  · rw [State.event_queues]
    simp

end

/-! ## STATUS and the signal (R64, R70) -/

/-- STATUS written where the first slot could be read. -/
def State.putFirst (s : State) (p q : Nat) (c : Cmd) (st : Nat) : State := if c.firstOk then s.putStatus p q c.slot st else s

/-- STATUS written, and the signal of a successful command applied. -/
def State.signalled (s : State) (p q : Nat) (c : Cmd) (st : Nat) : State :=
  if st = 0 && cSigEn c then (s.putFirst p q c st).lockAdd p (cSigLock c % 4096) (cSigAdd c) else s.putFirst p q c st

section

variable (s : State) (p q : Nat) (c : Cmd) (st : Nat)

theorem CmdKept.putFirst : CmdKept s (s.putFirst p q c st) := CmdKept.ite (CmdKept.putStatus s _ _ _ _) (CmdKept.refl s)

@[simp] theorem State.signalled_queues : (s.signalled p q c st).queues = s.queues := by
  unfold State.signalled
  split
  · rw [State.lockAdd_queues, (CmdKept.putFirst s p q c st).queues]
  · exact (CmdKept.putFirst s p q c st).queues

theorem State.signalled_mem : (s.signalled p q c st).mem = (s.putFirst p q c st).mem := by
  unfold State.signalled
  split
  · rw [State.lockAdd_mem]
  · rfl

/-- Of the command processor's registers, STATUS and the signal change only locks and CMD_STATUS. -/
theorem State.signalled_rd {r : RegName} (i a : Nat) (h : cmdReg r = true) (n : r ≠ .CMD_LOCK_VAL_k) (m : r ≠ .CMD_STATUS) :
    (s.signalled p q c st).rd r i a = s.rd r i a := by
  have quiet := (cmdReg_quiet h).2.1
  unfold State.signalled
  split
  · rw [State.lockAdd_regs _ _ _ _ r i a (by simp [n, m]) quiet, (CmdKept.putFirst s p q c st).rd r i a h]
  · exact (CmdKept.putFirst s p q c st).rd r i a h

/-- The locks after the signal. -/
theorem State.signalled_lock {k : Nat} (h : k < 4096) : (s.signalled p q c st).lock p k =
    if st = 0 ∧ cSigEn c = true ∧ k = cSigLock c % 4096 then min (2 ^ 32 - 1) (s.lock p k + cSigAdd c) else s.lock p k := by
  have put := (CmdKept.putFirst s p q c st).lock p
  unfold State.signalled
  by_cases sig : st = 0 ∧ cSigEn c = true
  · rw [if_pos (by simpa using sig)]
    by_cases e : k = cSigLock c % 4096
    · rw [if_pos ⟨sig.1, sig.2, e⟩, e, State.lock_lockAdd_same, put]
    · rw [if_neg (fun x => e x.2.2), State.lock_lockAdd_ne _ _ _ _ (by omega), put]
  · rw [if_neg (by simpa using sig), if_neg (fun x => sig ⟨x.1, x.2.1⟩), put]

/-- A signal that saturates sets LOCK_SAT. -/
theorem State.signalled_sat (h : cSigEn c = true) (full : 2 ^ 32 ≤ s.lock p (cSigLock c % 4096) + cSigAdd c) :
    (s.signalled p q c 0).fget Fld.CMD_STATUS_LOCK_SAT 0 p = 1 := by
  unfold State.signalled
  rw [if_pos (by simpa using h), State.lockAdd_sat]
  rwa [(CmdKept.putFirst s p q c 0).lock p]

end

/-! ## Failure, energy and retirement (R56, R64, R385) -/

/-- The registers that the end of a command may change beside locks and CMD_STATUS. -/
def endReg : RegName → Bool
  | .CMD_Qn_STATUS | .CMD_Qn_FAIL | .CMD_Qn_CTRL | .CMD_Qn_HEAD | .PWR_Qn_E_LO | .PWR_Qn_E_HI | .PWR_E_LO | .PWR_E_HI => true
  | _ => false

/-- A hardware set of STOPPED leaves CMD_FAILED as it is. -/
theorem State.sqSet_keeps_failed (s : State) (i a : Nat) :
    (s.sqSet .CMD_Qn_STATUS i a [Fld.CMD_Qn_STATUS_STOPPED] []).fget Fld.CMD_Qn_STATUS_CMD_FAILED i a = s.fget Fld.CMD_Qn_STATUS_CMD_FAILED i a := by
  unfold State.sqSet State.fget sqWord
  rw [show Fld.CMD_Qn_STATUS_CMD_FAILED.reg = .CMD_Qn_STATUS from rfl, State.rd_wr_same]
  simp only [List.foldl_cons, List.foldl_nil, sqOr]
  rw [wGet_wSet_ne _ _ (by decide) (by decide) (by decide) (by decide), wGet_wSet_ne _ _ (by decide) (by decide) (by decide) (by decide)]

section

variable (s : State) (p q n st : Nat)

theorem State.noteFailure_regs :
    KeepsRegs s (s.noteFailure p q n st) (fun r => r == .CMD_Qn_STATUS || r == .CMD_Qn_FAIL || r == .CMD_Qn_CTRL) := by
  unfold State.noteFailure
  split
  · exact KeepsRegs.refl s _
  · extract_lets first failed noted
    have counted : KeepsRegs s failed (fun r => r == .CMD_Qn_STATUS || r == .CMD_Qn_FAIL || r == .CMD_Qn_CTRL) := KeepsRegs.wr _ _ _ _ _ rfl
    have kept : KeepsRegs s noted (fun r => r == .CMD_Qn_STATUS || r == .CMD_Qn_FAIL || r == .CMD_Qn_CTRL) :=
      counted.trans (KeepsRegs.ite (KeepsRegs.wr _ _ _ _ _ rfl) (KeepsRegs.refl _ _))
    exact KeepsRegs.ite (kept.trans (KeepsRegs.wr _ _ _ _ _ rfl)) kept

@[simp] theorem State.noteFailure_queues : (s.noteFailure p q n st).queues = s.queues := by
  unfold State.noteFailure
  dsimp only
  split_ifs <;> simp

@[simp] theorem State.noteFailure_mem : (s.noteFailure p q n st).mem = s.mem := by
  unfold State.noteFailure
  dsimp only
  split_ifs <;> simp

/-- A failure other than CMD_ABORTED sets CMD_FAILED (R64, R78). -/
theorem State.noteFailure_failed (h : st ≠ 0) (k : st ≠ 0x0207) : (s.noteFailure p q n st).fget Fld.CMD_Qn_STATUS_CMD_FAILED q p = 1 := by
  have set := s.sqSet_bit_cnt Fld.CMD_Qn_STATUS_CMD_FAILED Fld.CMD_Qn_STATUS_FAIL_CNT q p rfl (by decide) (by decide) (by decide) (by decide)
  unfold State.noteFailure
  rw [if_neg (by simp [h, k])]
  extract_lets first failed noted
  have counted : noted.fget Fld.CMD_Qn_STATUS_CMD_FAILED q p = 1 := by
    show (if first then _ else failed).fget _ _ _ = 1
    split
    · rw [State.fget_wr_reg _ _ _ _ _ _ (by decide)]
      exact set
    · exact set
  split
  · rw [State.fget_fset_reg _ _ _ _ _ _ (by decide), counted]
  · exact counted

theorem State.noteStopped_regs : KeepsRegs s (s.noteStopped p q) (· == .CMD_Qn_STATUS) :=
  KeepsRegs.ite (KeepsRegs.wr _ _ _ _ _ rfl) (KeepsRegs.refl s _)

@[simp] theorem State.noteStopped_queues : (s.noteStopped p q).queues = s.queues := by
  unfold State.noteStopped
  split <;> simp

@[simp] theorem State.noteStopped_mem : (s.noteStopped p q).mem = s.mem := by
  unfold State.noteStopped
  split <;> simp

theorem State.noteStopped_failed : (s.noteStopped p q).fget Fld.CMD_Qn_STATUS_CMD_FAILED q p = s.fget Fld.CMD_Qn_STATUS_CMD_FAILED q p := by
  unfold State.noteStopped
  split
  · exact s.sqSet_keeps_failed q p
  · rfl

end

section

variable (s : State) (p : Part) (q h e : Nat)

/-- The registers that hold energy. -/
def energyReg (r : RegName) : Bool := r == .PWR_Qn_E_LO || r == .PWR_Qn_E_HI || r == .PWR_E_LO || r == .PWR_E_HI

/-- The refund or the shortfall of a command's energy against its hint (R385). -/
def State.settle : State :=
  if e < h then { s with pwr := { s.pwr with bal := vset s.pwr.bal p (min (s.burst p.val : Int) (vget s.pwr.bal p + h - e)) } }
  else { s with pwr := { s.pwr with short := vset s.pwr.short p (vget s.pwr.short p + (e - h)) } }

theorem State.settle_keeps : (s.settle p h e).rf = s.rf ∧ (s.settle p h e).mem = s.mem ∧ (s.settle p h e).queues = s.queues := by
  unfold State.settle
  split <;> exact ⟨rfl, rfl, rfl⟩

/-- Queue and partition count the energy (R386). -/
theorem State.debit_eq : s.debit p q h e =
    let u := s.settle p h e
    let w := u.wr64 .PWR_Qn_E_LO .PWR_Qn_E_HI (u.rd64 .PWR_Qn_E_LO .PWR_Qn_E_HI q p.val + e) q p.val
    w.wr64 .PWR_E_LO .PWR_E_HI (w.rd64 .PWR_E_LO .PWR_E_HI 0 p.val + e) 0 p.val := rfl

theorem State.debit_regs : KeepsRegs s (s.debit p q h e) energyReg :=
  ((KeepsRegs.of_rf (s.settle_keeps p h e).1 _).trans (KeepsRegs.wr64 _ _ _ _ _ _ rfl rfl)).trans (KeepsRegs.wr64 _ _ _ _ _ _ rfl rfl)

@[simp] theorem State.debit_queues : (s.debit p q h e).queues = s.queues := by
  rw [State.debit_eq]
  simp [s.settle_keeps p h e]

@[simp] theorem State.debit_mem : (s.debit p q h e).mem = s.mem := by
  rw [State.debit_eq]
  simp [s.settle_keeps p h e]

/-- A pair reads as it was set, modulo its width. -/
theorem State.rd64_wr64_mod (s : State) {l k : RegName} (v i a : Nat) (n : l ≠ k) : (s.wr64 l k v i a).rd64 l k i a = v % 2 ^ 64 := by
  unfold State.rd64 State.wr64
  rw [State.rd_wr_same, State.rd_wr_reg _ _ _ _ _ _ n, State.rd_wr_same, BitVec.toNat_ofNat, BitVec.toNat_ofNat]
  omega

theorem State.rd64_wr64_ne (s : State) {l k r q : RegName} (v i a j b : Nat) (rl : r ≠ l) (rk : r ≠ k) (ql : q ≠ l) (qk : q ≠ k) :
    (s.wr64 l k v i a).rd64 r q j b = s.rd64 r q j b := by
  rw [State.rd64, s.wr64_rd_reg _ _ _ _ _ rl rk, s.wr64_rd_reg _ _ _ _ _ ql qk, State.rd64]

theorem State.debit_counts : (s.debit p q h e).rd64 .PWR_Qn_E_LO .PWR_Qn_E_HI q p.val =
    (s.rd64 .PWR_Qn_E_LO .PWR_Qn_E_HI q p.val + e) % 2 ^ 64 := by
  rw [State.debit_eq]
  dsimp only
  rw [State.rd64_wr64_ne _ _ _ _ _ _ (by decide) (by decide) (by decide) (by decide), State.rd64_wr64_mod _ _ _ _ (by decide)]
  simp only [State.rd64, State.rd, (s.settle_keeps p h e).1]

end

end Sys2Proof.Machine
end

section
/-! SUPPORT. Retirement and what the end of a command shows as a whole: the queue without the commands that have ended at its front, HEAD past them,
locks, failure, energy and memory. -/

namespace Sys2Proof.Machine

/-! ## A queue's commands -/

/-- The command of a slot replaced in a list of commands. -/
def putCmd (l : List Cmd) (c : Cmd) : List Cmd := l.map (fun d => if d.slot = c.slot then c else d)

theorem State.queue_setCmd_same (s : State) (p q : Nat) (c : Cmd) :
    (s.setCmd p q c).queue p q = { s.queue p q with cmds := putCmd (s.queue p q).cmds c } := State.queue_setQueue_same _ _ _ _

/-- The commands that have ended at the front of a list. -/
def doneOf (l : List Cmd) : List Cmd := l.takeWhile (fun c => c.phase == .done)

/-- The slots of commands. -/
theorem foldl_nslots (l : List Cmd) : l.foldl (fun t c => t + c.nslots) 0 = (l.map (·.nslots)).sum := by
  rw [List.sum_eq_foldl, List.foldl_map]

theorem drop_doneOf (l : List Cmd) : l.drop (doneOf l).length = l.dropWhile (fun c => c.phase == .done) := by
  have parts : doneOf l ++ l.dropWhile (fun c => c.phase == .done) = l := List.takeWhile_append_dropWhile
  calc l.drop (doneOf l).length = (doneOf l ++ l.dropWhile (fun c => c.phase == .done)).drop (doneOf l).length := by rw [parts]
    _ = _ := List.drop_left

/-! ## Retirement (R56) -/

/-- Update records change nothing but the recovery engine's own state. -/
theorem State.takeDue_keeps {α : Type} (g : State → α) (h : ∀ t p f, g (State.modRcv t p f) = g t) (s : State) (p : Part) (q : Nat) :
    g (s.takeDue p q) = g s := by
  refine foldl_keep _ _ g (fun t x => ?_) s
  split
  · rw [State.takeRecord, h, h]
  · rfl

section

variable (s : State) (p q : Nat)

/-- The front of a queue dropped and HEAD moved. -/
def State.passed : State :=
  let x := s.queue p q
  let n := ((doneOf x.cmds).map (·.nslots)).sum
  let closed := x.closed.filter (fun e => n < (e.2 + 2 ^ 32 - s.qHead p q) % 2 ^ 32)
  (s.setQueue p q { x with cmds := x.cmds.dropWhile (fun c => c.phase == .done), closed := closed }).wr .CMD_Qn_HEAD q p
    (BitVec.ofNat 32 (s.qHead p q + n))

theorem State.retire_eq : s.retire p q = (s.passed p q).takeDue ⟨p % 4, by omega⟩ q := by
  unfold State.retire State.passed
  dsimp only
  rw [← drop_doneOf, ← foldl_nslots]
  rfl

theorem State.retire_rf : (s.retire p q).rf = (s.passed p q).rf := by
  rw [s.retire_eq, State.takeDue_keeps State.rf (fun t p f => t.modRcv_rf p f)]

theorem State.retire_regs : KeepsRegs s (s.retire p q) (· == .CMD_Qn_HEAD) :=
  ((KeepsRegs.of_rf (State.setQueue_rf _ _ _ _) _).trans (KeepsRegs.wr _ _ _ _ _ rfl)).trans (KeepsRegs.of_rf (s.retire_rf p q) _)

theorem State.retire_mem : (s.retire p q).mem = s.mem := by
  rw [s.retire_eq, State.takeDue_keeps State.mem (fun t p f => t.modRcv_mem p f), State.passed, State.wr_mem, State.setQueue_mem]

theorem State.retire_queue : ((s.retire p q).queue p q).cmds = (s.queue p q).cmds.dropWhile (fun c => c.phase == .done) ∧
    ((s.retire p q).queue p q).aborting = (s.queue p q).aborting := by
  rw [State.queue, s.retire_eq, State.takeDue_keeps State.queues (fun t p f => t.modRcv_queues p f), State.passed, State.wr_queues, ← State.queue,
    State.queue_setQueue_same]
  exact ⟨rfl, rfl⟩

theorem State.retire_head : (s.retire p q).qHead p q = (s.qHead p q + ((doneOf (s.queue p q).cmds).map (·.nslots)).sum) % 2 ^ 32 := by
  rw [State.qHead, State.rd, s.retire_rf, ← State.rd, State.passed, State.rd_wr_same, BitVec.toNat_ofNat]

/-! ## The end of an abort (R78) -/

/-- The registers that the end of an abort changes. -/
def abortReg (r : RegName) : Bool := r == .CMD_Qn_HEAD || r == .CMD_Qn_STATUS || r == .CMD_Qn_CTRL

/-- An aborted queue, empty: HEAD at TAIL, ABORTED set, ENABLE clear. -/
def State.emptied : State :=
  let u := s.setQueue p q { cmds := [], aborting := false }
  ((u.wr .CMD_Qn_HEAD q p (u.rd .CMD_Qn_TAIL q p)).sqSet .CMD_Qn_STATUS q p [Fld.CMD_Qn_STATUS_ABORTED] []).fset Fld.CMD_Qn_CTRL_ENABLE 0 q p

theorem State.endAbort_eq : s.endAbort p q = if (s.queue p q).aborting && !s.qRunning p q then s.emptied p q else s := rfl

theorem State.endAbort_stays (h : (s.queue p q).aborting = false) : s.endAbort p q = s := by rw [s.endAbort_eq, h]; rfl

theorem State.emptied_regs : KeepsRegs s (s.emptied p q) abortReg :=
  (((KeepsRegs.of_rf (State.setQueue_rf _ _ _ _) _).trans (KeepsRegs.wr _ _ _ _ _ rfl)).trans (KeepsRegs.wr _ _ _ _ _ rfl)).trans
    (KeepsRegs.wr _ _ _ _ _ rfl)

theorem State.emptied_queue : (s.emptied p q).queue p q = { cmds := [], aborting := false } := by
  rw [State.emptied, State.queue, State.fset_queues, State.sqSet_queues, State.wr_queues, ← State.queue, State.queue_setQueue_same]

theorem State.endAbort_regs : KeepsRegs s (s.endAbort p q) abortReg := KeepsRegs.ite (s.emptied_regs p q) (KeepsRegs.refl s _)

@[simp] theorem State.endAbort_mem : (s.endAbort p q).mem = s.mem := by
  rw [s.endAbort_eq]
  split
  · rw [State.emptied, State.fset_mem, State.sqSet_mem, State.wr_mem, State.setQueue_mem]
  · rfl

/-- An abort ends with the queue empty or leaves it. -/
theorem State.endAbort_cmds : ((s.endAbort p q).queue p q).cmds = [] ∨ (s.endAbort p q).queue p q = s.queue p q := by
  rw [s.endAbort_eq]
  split
  · left; rw [s.emptied_queue]
  · right; rfl

end

/-! ## The end of a command -/

section

variable (s : State) (p : Part) (q : Nat) (c : Cmd) (st e : Nat)

/-- A command as it ends. -/
def endedCmd (c : Cmd) (st : Nat) : Cmd := { c with phase := .done, finished := true, fail := st }

/-- STATUS, signal, failure and energy of a command that ends, and its place in the queue. -/
def State.settled : State :=
  ((((s.signalled p.val q c st).noteFailure p.val q c.slot st).debit p q c.hint e).setCmd p.val q (endedCmd c st))

/-- Then the queue retires, and a note may go out. -/
def State.noted : State :=
  let u := (s.settled p q c st e).retire p.val q
  if cNotify c && u.fbit Fld.CMD_Qn_CTRL_NOTIFY_EN q p.val then u.note p.val 1 (noteBody u p.val q c st) else u

theorem State.complete_eq : s.complete p q c st e =
    if ((s.signalled p.val q c st).noteFailure p.val q c.slot st).qStopped p.val q then ((s.noted p q c st e).endAbort p.val q).noteStopped p.val q
    else (s.noted p q c st e).endAbort p.val q := rfl

theorem Quiet.noted : Quiet ((s.settled p q c st e).retire p.val q) (s.noted p q c st e) := by
  unfold State.noted
  dsimp only
  split
  · exact Quiet.note _ _ _ _
  · exact Quiet.refl _

/-- What the last steps leave alone: they end an abort and note STOPPED. -/
theorem State.complete_tail {P : State → Prop} (stays : P ((s.noted p q c st e).endAbort p.val q))
    (stops : P (((s.noted p q c st e).endAbort p.val q).noteStopped p.val q)) : P (s.complete p q c st e) := by
  rw [s.complete_eq]
  split
  · exact stops
  · exact stays

theorem State.settled_regs : KeepsRegs (s.signalled p.val q c st) (s.settled p q c st e) endReg := by
  refine ((KeepsRegs.mono (State.noteFailure_regs _ _ _ _ _) ?_).trans (KeepsRegs.mono (State.debit_regs _ _ _ _ _) ?_)).trans
    (KeepsRegs.of_rf (State.setCmd_rf _ _ _ _) _)
  · simp only [Bool.or_eq_true, beq_iff_eq]
    rintro r ((rfl | rfl) | rfl) <;> rfl
  · simp only [energyReg, Bool.or_eq_true, beq_iff_eq]
    rintro r (((rfl | rfl) | rfl) | rfl) <;> rfl

theorem State.noted_regs : KeepsRegs (s.settled p q c st e) (s.noted p q c st e) (· == .CMD_Qn_HEAD) :=
  (State.retire_regs _ _ _).trans (KeepsRegs.quiet (Quiet.noted s p q c st e) _)

/-- Beside locks and CMD_STATUS, the end of a command changes the registers `endReg` names. -/
theorem State.complete_regs : KeepsRegs (s.signalled p.val q c st) (s.complete p q c st e) endReg := by
  have noted : KeepsRegs (s.signalled p.val q c st) (s.noted p q c st e) endReg :=
    (s.settled_regs p q c st e).trans (KeepsRegs.mono (s.noted_regs p q c st e) (by simp only [beq_iff_eq]; rintro r rfl; rfl))
  have aborted := noted.trans (KeepsRegs.mono (State.endAbort_regs (s.noted p q c st e) p.val q) (m := endReg) (by
    simp only [abortReg, Bool.or_eq_true, beq_iff_eq]
    rintro r ((rfl | rfl) | rfl) <;> rfl))
  refine s.complete_tail p q c st e (P := fun t => KeepsRegs (s.signalled p.val q c st) t endReg) aborted ?_
  exact aborted.trans (KeepsRegs.mono (State.noteStopped_regs _ _ _) (by simp only [beq_iff_eq]; rintro r rfl; rfl))

/-- The locks after the end of a command. -/
theorem State.complete_lock {k : Nat} (h : k < 4096) : (s.complete p q c st e).lock p.val k =
    if st = 0 ∧ cSigEn c = true ∧ k = cSigLock c % 4096 then min (2 ^ 32 - 1) (s.lock p.val k + cSigAdd c) else s.lock p.val k := by
  rw [← s.signalled_lock p.val q c st h, State.lock, s.complete_regs p q c st e _ _ _ rfl rfl, State.lock]

/-- A signal that saturates has set LOCK_SAT. -/
theorem State.complete_sat (h : cSigEn c = true) (full : 2 ^ 32 ≤ s.lock p.val (cSigLock c % 4096) + cSigAdd c) :
    (s.complete p q c 0 e).fget Fld.CMD_STATUS_LOCK_SAT 0 p.val = 1 := by
  rw [(s.complete_regs p q c 0 e).fget _ _ _ rfl rfl, s.signalled_sat p.val q c h full]

/-- Memory changes only as writing STATUS changes it. -/
theorem State.complete_mem : (s.complete p q c st e).mem = (s.putFirst p.val q c st).mem := by
  have noted : (s.noted p q c st e).mem = (s.putFirst p.val q c st).mem := by
    rw [(Quiet.noted s p q c st e).mem, State.retire_mem, State.settled, State.setCmd_mem, State.debit_mem, State.noteFailure_mem, State.signalled_mem]
  refine s.complete_tail p q c st e (P := fun t => t.mem = _) ?_ ?_
  · rw [State.endAbort_mem, noted]
  · rw [State.noteStopped_mem, State.endAbort_mem, noted]

theorem State.settled_queue : (s.settled p q c st e).queue p.val q =
    { s.queue p.val q with cmds := putCmd (s.queue p.val q).cmds (endedCmd c st) } := by
  have h : (((s.signalled p.val q c st).noteFailure p.val q c.slot st).debit p q c.hint e).queues = s.queues := by simp
  rw [State.settled, State.queue_setCmd_same]
  simp only [State.queue, h]

/-- What is left of the queue before an abort ends. -/
theorem State.noted_queue : ((s.noted p q c st e).queue p.val q).cmds =
      (putCmd (s.queue p.val q).cmds (endedCmd c st)).dropWhile (fun d => d.phase == .done) ∧
    ((s.noted p q c st e).queue p.val q).aborting = (s.queue p.val q).aborting := by
  obtain ⟨cmds, aborting⟩ := State.retire_queue (s.settled p q c st e) p.val q
  rw [State.settled_queue] at cmds aborting
  rw [State.queue, (Quiet.noted s p q c st e).queues, ← State.queue]
  exact ⟨cmds, aborting⟩

theorem State.noted_head : (s.noted p q c st e).qHead p.val q =
    (s.qHead p.val q + ((doneOf (putCmd (s.queue p.val q).cmds (endedCmd c st))).map (·.nslots)).sum) % 2 ^ 32 := by
  have head : (s.settled p q c st e).qHead p.val q = s.qHead p.val q := by
    rw [State.qHead, State.settled, State.setCmd_rd, State.debit_regs _ _ _ _ _ _ _ _ rfl rfl, State.noteFailure_regs _ _ _ _ _ _ _ _ rfl rfl,
      s.signalled_rd _ _ _ _ _ _ rfl (by decide) (by decide), State.qHead]
  rw [State.qHead, (Quiet.noted s p q c st e).rd _ _ _ rfl, ← State.qHead, State.retire_head, head, State.settled_queue]

theorem State.noted_failed (h : st ≠ 0) (k : st ≠ 0x0207) : (s.noted p q c st e).fget Fld.CMD_Qn_STATUS_CMD_FAILED q p.val = 1 := by
  rw [(s.noted_regs p q c st e).fget _ _ _ rfl rfl, State.settled, State.fget, State.setCmd_rd, ← State.fget,
    (State.debit_regs _ _ _ _ _).fget _ _ _ rfl rfl, State.noteFailure_failed _ _ _ _ _ h k]

theorem State.noted_energy : (s.noted p q c st e).rd64 .PWR_Qn_E_LO .PWR_Qn_E_HI q p.val =
    (s.rd64 .PWR_Qn_E_LO .PWR_Qn_E_HI q p.val + e) % 2 ^ 64 := by
  have before (r : RegName) (h : cmdReg r = true) (n : r ≠ .CMD_LOCK_VAL_k) (m : r ≠ .CMD_STATUS)
      (o : (r == .CMD_Qn_STATUS || r == .CMD_Qn_FAIL || r == .CMD_Qn_CTRL) = false) :
      ((s.signalled p.val q c st).noteFailure p.val q c.slot st).rd r q p.val = s.rd r q p.val := by
    rw [State.noteFailure_regs _ _ _ _ _ _ _ _ o (cmdReg_quiet h).2.1, s.signalled_rd _ _ _ _ _ _ h n m]
  rw [State.rd64, s.noted_regs p q c st e _ _ _ rfl rfl, s.noted_regs p q c st e _ _ _ rfl rfl, State.settled, State.setCmd_rd, State.setCmd_rd,
    ← State.rd64, State.debit_counts, State.rd64, before _ rfl (by decide) (by decide) rfl, before _ rfl (by decide) (by decide) rfl, State.rd64]

end

/-! ## The end of a command on a queue that no abort holds -/

/-- What the end of a command on such a queue shows. -/
structure CmdCompleted (s t : State) (p : Part) (q : Nat) (c : Cmd) (st e : Nat) : Prop where
  head : t.qHead p.val q = (s.qHead p.val q + ((doneOf (putCmd (s.queue p.val q).cmds (endedCmd c st))).map (·.nslots)).sum) % 2 ^ 32
  cmds : (t.queue p.val q).cmds = (putCmd (s.queue p.val q).cmds (endedCmd c st)).dropWhile (fun d => d.phase == .done)
  failed : st ≠ 0 → st ≠ 0x0207 → t.fget Fld.CMD_Qn_STATUS_CMD_FAILED q p.val = 1
  energy : t.rd64 .PWR_Qn_E_LO .PWR_Qn_E_HI q p.val = (s.rd64 .PWR_Qn_E_LO .PWR_Qn_E_HI q p.val + e) % 2 ^ 64

theorem CmdCompleted.complete (s : State) (p : Part) (q : Nat) (c : Cmd) (st e : Nat) (h : (s.queue p.val q).aborting = false) :
    CmdCompleted s (s.complete p q c st e) p q c st e := by
  obtain ⟨cmds, aborting⟩ := s.noted_queue p q c st e
  have noted : CmdCompleted s (s.noted p q c st e) p q c st e :=
    ⟨s.noted_head p q c st e, cmds, s.noted_failed p q c st e, s.noted_energy p q c st e⟩
  have idle : (s.noted p q c st e).endAbort p.val q = s.noted p q c st e := State.endAbort_stays _ _ _ (aborting.trans h)
  have regs := State.noteStopped_regs (s.noted p q c st e) p.val q
  refine s.complete_tail p q c st e (P := fun t => CmdCompleted s t p q c st e) (by rwa [idle]) ?_
  rw [idle]
  exact {
    head := by rw [State.qHead, regs _ _ _ rfl rfl, ← State.qHead, noted.head]
    cmds := by rw [State.queue, State.noteStopped_queues, ← State.queue, noted.cmds]
    failed := fun h k => by rw [State.noteStopped_failed, noted.failed h k]
    energy := by rw [State.rd64, regs _ _ _ rfl rfl, regs _ _ _ rfl rfl, ← State.rd64, noted.energy] }

end Sys2Proof.Machine
end

section
/-! SUPPORT. Waits, signals and the lock registers (R66). -/

namespace Sys2Proof.Machine

/-- A partition reset that begins ends in `partReset`, whatever the host's waiting requests did before. -/
theorem State.partGo_resets {s : State} (r : Requester) (p : Part) (h : s.boot.resetting = none) :
    ∃ u : State, s.thenReset (s.partGo r p) = u.partReset p := by
  have go : (s.partGo r p).boot.resetting = some (p, r, false) := by simp [State.partGo, h]
  simp only [State.thenReset, h, Option.isNone_none, if_true, State.beginReset, go]
  exact ⟨_, rfl⟩

theorem exec_cmdLockAdd (p : Part) (k : Fin 4096) (v : Word) (s : State) : exec (.cmdLockAdd p k v) s = .next (s.lockAdd p.val k.val v.toNat) := rfl

/-- Settles O29: waits are `latchWaits`, signals the laws of `complete`, and the lock registers those of `lockAdd`. -/
theorem locks : Obligations.Locks := by
  unfold Obligations.Locks
  refine ⟨?_, fun p k s => s.lock_lt _ _, ?_, ?_, ?_, ?_, ?_⟩
  · intro p r s hr idle
    obtain ⟨u, resets⟩ := State.partGo_resets r p idle
    refine ⟨u.partReset p, by rw [exec_partitionReset, execPartitionReset_go p s hr, resets], fun k => ?_⟩
    rw [State.lock, (State.partReset_rd_part u p k.val rfl rfl rfl).1]
    rfl
  · intro p c s en w
    simp [State.latchWaits, en, w]
  · intro p c s en w
    simp [State.latchWaits, en, w]
  · intro p q e c s en
    refine ⟨?_, s.complete_sat p q.val c e en⟩
    rw [s.complete_lock p q.val c 0 e (Nat.mod_lt _ (by decide)), if_pos ⟨rfl, en, rfl⟩]
  · intro p k v s fits
    refine ⟨_, exec_cmdLockAdd p k v s, ?_⟩
    rw [s.lock_lockAdd_same, s.lockAdd_fits _ _ _ fits]
    exact ⟨by omega, OnlyRegs.wr _ _ _ _ _⟩
  · intro p k v s full
    refine ⟨_, exec_cmdLockAdd p k v s, ?_, s.lockAdd_sat _ _ _ full, s.lockAdd_regs _ _ _, s.lockAdd_mem _ _ _, s.lockAdd_queues _ _ _,
      fun room => ?_⟩
    · rw [s.lock_lockAdd_same]
      omega
    · rw [s.lockAdd_full _ _ _ full]
      refine Recorded.event _ _ ?_
      rw [State.lockFull, State.sqSet_evr, State.wr_evr]
      exact room

end Sys2Proof.Machine
end

section
/-! SUPPORT. When a command ends: CMD_WAIT_EXPIRED and COMMAND_COMPLETE (R59, R70, R76). -/

namespace Sys2Proof.Machine

theorem exec_cmdWaitExpired (p : Part) (q : QueueId) (s : State) : exec (.cmdWaitExpired p q) s = .next (s.waitExpired p q.val) := rfl

theorem exec_commandComplete (r : CmdRef) (e : Nat) (s : State) : exec (.commandComplete r e) s = .next (s.commandComplete r e) := rfl

/-! ## Waits that expire (R59) -/

section

variable (s : State) (p : Part) (q : Nat)

/-- The epoch of a command lies ahead (R71). -/
def State.epochAhead (s : State) (c : Cmd) : Prop := cEpochChk c = true ∧ s.epoch (cGroup c) < cEpoch c

/-- A held queue and a limit of 0 expire nothing. -/
theorem State.waitExpired_held (h : s.qStarts p.val q = false ∨ s.fget Fld.CMD_Qn_WAIT_LIMIT_LIMIT_MS q p.val = 0) : s.waitExpired p q = s :=
  if_pos (by simpa using h)

section

variable (starts : s.qStarts p.val q = true) (limit : s.fget Fld.CMD_Qn_WAIT_LIMIT_LIMIT_MS q p.val ≠ 0)
include starts limit

theorem State.waitExpired_none (h : (s.fetchNext p.val q).front p.val q = none) : s.waitExpired p q = s.fetchNext p.val q := by
  simp [State.waitExpired, starts, limit, h]

/-- The command at the front, whose waits are evaluated where its order condition is met and its slot readable. -/
theorem State.waitExpired_front {c : Cmd} (h : (s.fetchNext p.val q).front p.val q = some c) :
    s.waitExpired p q =
      let u := s.fetchNext p.val q
      let d := u.latchWaits p.val c
      if !u.orderMet p.val q c || !c.firstOk then u
      else if !(d.w0 && d.w1) || (cEpochChk d && u.epoch (cGroup d) < cEpoch d) then u.complete p q d 0x0206 0
      else u.setCmd p.val q d := by
  simp only [State.waitExpired, starts, limit, h, Bool.not_true, Bool.false_or, decide_false, Bool.false_eq_true, if_false]

theorem State.waitExpired_notYet {c : Cmd} (h : (s.fetchNext p.val q).front p.val q = some c)
    (w : (s.fetchNext p.val q).orderMet p.val q c = false ∨ c.firstOk = false) : s.waitExpired p q = s.fetchNext p.val q := by
  rw [s.waitExpired_front p q starts limit h]
  exact if_pos (by simpa using w)

section

variable {c : Cmd} (h : (s.fetchNext p.val q).front p.val q = some c) (order : (s.fetchNext p.val q).orderMet p.val q c = true)
  (first : c.firstOk = true)
include h order first

theorem State.waitExpired_ends (w : ((s.fetchNext p.val q).latchWaits p.val c).w0 = false ∨ ((s.fetchNext p.val q).latchWaits p.val c).w1 = false ∨
      (s.fetchNext p.val q).epochAhead c) :
    s.waitExpired p q = (s.fetchNext p.val q).complete p q ((s.fetchNext p.val q).latchWaits p.val c) 0x0206 0 := by
  have unmet : (!(((s.fetchNext p.val q).latchWaits p.val c).w0 && ((s.fetchNext p.val q).latchWaits p.val c).w1) ||
      (cEpochChk c && decide ((s.fetchNext p.val q).epoch (cGroup c) < cEpoch c))) = true := by
    rcases w with w | w | ⟨chk, lt⟩
    · simp [w]
    · simp [w]
    · simp [chk, lt]
  rw [s.waitExpired_front p q starts limit h]
  dsimp only
  rw [if_neg (by simp [order, first])]
  exact if_pos unmet

theorem State.waitExpired_waits (w0 : ((s.fetchNext p.val q).latchWaits p.val c).w0 = true)
    (w1 : ((s.fetchNext p.val q).latchWaits p.val c).w1 = true) (behind : ¬ (s.fetchNext p.val q).epochAhead c) :
    s.waitExpired p q = (s.fetchNext p.val q).setCmd p.val q ((s.fetchNext p.val q).latchWaits p.val c) := by
  have met : ¬ (!(((s.fetchNext p.val q).latchWaits p.val c).w0 && ((s.fetchNext p.val q).latchWaits p.val c).w1) ||
      (cEpochChk c && decide ((s.fetchNext p.val q).epoch (cGroup c) < cEpoch c))) = true := by
    intro x
    refine behind ?_
    simpa [w0, w1, State.epochAhead] using x
  rw [s.waitExpired_front p q starts limit h]
  dsimp only
  rw [if_neg (by simp [order, first])]
  exact if_neg met

end
end
end

/-! ## COMMAND_COMPLETE (R70, R76) -/

section

variable (s : State) (r : CmdRef) (c : Cmd) (e : Nat)

/-- The units let a command go whose operation has ended: a spoiled output, the ledger, the health monitor and every job of it. -/
def State.letGo : State :=
  let u := if spoils c (s.endStatus c) then s.scrambleOutputs r c else s
  ((if s.endStatus c = 0 then u.recordOutputs r.part.val c else u).freeChk r).forget r

theorem CmdKept.letGo : CmdKept s (s.letGo r c) := by
  have spoilt := CmdKept.ite (c := spoils c (s.endStatus c) = true) (CmdKept.scrambleOutputs s r c) (CmdKept.refl s)
  have recorded := spoilt.trans (CmdKept.ite (c := s.endStatus c = 0) (CmdKept.recordOutputs _ r.part.val c) (CmdKept.refl _))
  exact (recorded.trans (CmdKept.freeChk _ r)).trans (CmdKept.forget _ r)

/-- The units let a command go that stops. -/
def State.letStop : State := ((s.freeChk r).forget r).scrambleOutputs r c

theorem CmdKept.letStop : CmdKept s (s.letStop r c) :=
  ((CmdKept.freeChk s r).trans (CmdKept.forget _ r)).trans (CmdKept.scrambleOutputs _ r c)

section

variable {s r c} (live : s.live = true) (at_ : s.cmdAt r.part.val r.queue.val r.slot = some c) (run : c.phase = .running)
include live at_ run

theorem State.commandComplete_ended (fin : c.finished = true) : s.commandComplete r e =
    let u := (s.letGo r c).complete r.part r.queue.val c (s.endStatus c) e
    let v := if cOpcode c = 0x32 ∧ c.fail = 0 then u.updated r.part r.queue.val c.slot (cGroup c) (cStep c) else u
    (if (cOpcode c = 0x32 ∨ cOpcode c = 0x60) ∧ c.fail = 0 then v.doneTry r.part else v).tierDemand r.part := by
  unfold State.commandComplete
  rw [at_]
  dsimp only
  rw [if_neg (by simp [run, live]), if_pos fin]
  rfl

theorem State.commandComplete_stopped (fin : c.finished = false) (stop : c.stop ≠ 0) (tile : s.inTile r = false) :
    s.commandComplete r e = ((s.letStop r c).complete r.part r.queue.val c c.stop e).tierDemand r.part := by
  unfold State.commandComplete
  rw [at_]
  dsimp only
  rw [if_neg (by simp [run, live]), if_neg (by simp [fin]), if_pos ⟨stop, tile⟩]
  rfl

end

/-- Every other command goes on. -/
theorem State.commandComplete_goesOn (h : s.live = false ∨ s.cmdAt r.part.val r.queue.val r.slot = none ∨
    (∃ c, s.cmdAt r.part.val r.queue.val r.slot = some c ∧
      (c.phase ≠ .running ∨ (c.finished = false ∧ (c.stop = 0 ∨ s.inTile r = true))))) :
    s.commandComplete r e = s := by
  unfold State.commandComplete
  cases at_ : s.cmdAt r.part.val r.queue.val r.slot with
  | none => rfl
  | some c =>
    dsimp only
    split
    · rfl
    next going =>
      have goes : c.finished = false ∧ (c.stop = 0 ∨ s.inTile r = true) := by
        simp only [not_or, not_not] at going
        obtain ⟨run, live⟩ := going
        rcases h with h | h | ⟨d, found, h⟩
        · exact absurd h live
        · rw [at_] at h; cases h
        · obtain rfl : c = d := Option.some.inj (at_.symm.trans found)
          exact h.resolve_left (not_not.mpr run)
      obtain ⟨fin, stays⟩ := goes
      rw [if_neg (by simp [fin]), if_neg]
      rintro ⟨stop, tile⟩
      rcases stays with h | h
      · exact stop h
      · rw [tile] at h; cases h

end

/-! ## A command that has ended is in its queue no more -/

/-- A command put in its slot is the only one of it. -/
theorem mem_putCmd {l : List Cmd} {c d : Cmd} (h : d ∈ putCmd l c) : d = c ∨ d.slot ≠ c.slot := by
  obtain ⟨x, -, rfl⟩ := List.mem_map.mp h
  split
  · exact .inl rfl
  · exact .inr ‹_›

theorem State.complete_cmds (s : State) (p : Part) (q : Nat) (c : Cmd) (st e : Nat) :
    ((s.complete p q c st e).queue p.val q).cmds = [] ∨
    ((s.complete p q c st e).queue p.val q).cmds = (putCmd (s.queue p.val q).cmds (endedCmd c st)).dropWhile (fun d => d.phase == .done) := by
  have ended : (((s.noted p q c st e).endAbort p.val q).queue p.val q).cmds = [] ∨ (((s.noted p q c st e).endAbort p.val q).queue p.val q).cmds =
      (putCmd (s.queue p.val q).cmds (endedCmd c st)).dropWhile (fun d => d.phase == .done) := by
    rcases State.endAbort_cmds (s.noted p q c st e) p.val q with h | h
    · exact .inl h
    · exact .inr (by rw [h, (s.noted_queue p q c st e).1])
  refine s.complete_tail p q c st e (P := fun t => (t.queue p.val q).cmds = [] ∨ (t.queue p.val q).cmds = _) ended ?_
  rw [State.queue, State.noteStopped_queues, ← State.queue]
  exact ended

/-- A command in the slot of one that ended has ended. -/
theorem State.complete_done {s : State} {p : Part} {q : Nat} {c d : Cmd} {st e : Nat}
    (h : (s.complete p q c st e).cmdAt p.val q c.slot = some d) : d.phase = .done := by
  have slot := State.cmdAt_slot h
  have mem : d ∈ ((s.complete p q c st e).queue p.val q).cmds := List.mem_of_find?_eq_some h
  rcases s.complete_cmds p q c st e with k | k
  · rw [k] at mem; cases mem
  · rw [k] at mem
    rcases mem_putCmd (List.dropWhile_subset _ mem) with rfl | ne
    · rfl
    · exact absurd slot ne

/-- Settles O40: CMD_WAIT_EXPIRED and COMMAND_COMPLETE by their branches, and the end of a command by the laws of `complete`. -/
theorem commandEnds : Obligations.CommandEnds := by
  unfold Obligations.CommandEnds
  refine ⟨?_, ?_, ?_, ?_, ?_, ?_⟩
  · intro p q c st e s idle
    obtain ⟨head, cmds, failed, energy⟩ := CmdCompleted.complete s p q.val c st e idle
    exact ⟨head, cmds, fun k h => s.complete_lock p q.val c st e h, failed, energy, s.complete_mem p q.val c st e⟩
  · intro p q s held
    rw [exec_cmdWaitExpired, s.waitExpired_held p q.val held]
  · intro p q s starts limit
    refine ⟨fun none => ?_, fun c front => ⟨fun wait => ?_, fun order first ends => ?_, fun order first w0 w1 behind => ?_⟩⟩
    · rw [exec_cmdWaitExpired, s.waitExpired_none p q.val starts limit none]
    · rw [exec_cmdWaitExpired, s.waitExpired_notYet p q.val starts limit front wait]
    · rw [exec_cmdWaitExpired, s.waitExpired_ends p q.val starts limit front order first ends]
    · rw [exec_cmdWaitExpired, s.waitExpired_waits p q.val starts limit front order first w0 w1 behind]
  · intro r c e s live at_ run fin idle
    have kept := CmdKept.letGo s r c
    obtain ⟨head, cmds, -, -⟩ := CmdCompleted.complete (s.letGo r c) r.part r.queue.val c (s.endStatus c) e (by rw [kept.queue, idle])
    refine ⟨(s.letGo r c).complete r.part r.queue.val c (s.endStatus c) e, ?_, ?_, ?_, fun k h => ?_⟩
    · rw [exec_commandComplete, State.commandComplete_ended e live at_ run fin]
    · rw [cmds, kept.queue]
      rfl
    · rw [head, kept.queue, kept.qHead]
      rfl
    · rw [State.complete_lock _ _ _ _ _ _ h, kept.lock]
  · intro r c e s live at_ run fin stop tile
    refine ⟨(s.letStop r c).complete r.part r.queue.val c c.stop e, ?_, fun k h => ?_, fun found => ?_⟩
    · rw [exec_commandComplete, State.commandComplete_stopped e live at_ run fin stop tile]
    · rw [State.complete_lock _ _ _ _ _ _ h, if_neg (fun x => stop x.1), (CmdKept.letStop s r c).lock]
    · rw [← State.cmdAt_slot at_] at found
      rw [State.complete_done found] at run
      cases run
  · intro r e s h
    rw [exec_commandComplete, s.commandComplete_goesOn r e h]

end Sys2Proof.Machine
end

section
/-! SUPPORT. Queue control and abort (R58, R78): the word that a write of CMD_Qn_CTRL stores, and what an abort leaves of its queue. -/

namespace Sys2Proof.Machine

theorem exec_queueCtrlWrite (p : Part) (q : QueueId) (v : Word) (s : State) :
    exec (.queueCtrlWrite p q v) s = .next (s.ctrlWrite p.val p.val q.val v) := rfl

theorem exec_queueAbort (p : Part) (q : QueueId) (s : State) : exec (.queueAbort p q) s = .next (s.queueAbort p.val q.val) := rfl

/-! ## The stored word (R58, R172, R399) -/

section

variable (s : State) (p q : Nat) (w v : Word)

/-- The cross-field rule touches LOG2_SLOTS and the array mask alone. -/
theorem State.wGet_ctrlCross {a b : Nat} (h : b ≤ a) (l : a < 4 ∨ 8 < b) (m : a < 16 ∨ 23 < b) :
    wGet (s.ctrlCross p q w) a b = wGet w a b := by
  unfold State.ctrlCross
  dsimp only
  rw [wGet_wSet_ne _ _ (by decide) (by decide) h m]
  split
  · rfl
  · exact wGet_wSet_ne _ _ (by decide) (by decide) h l

/-- LOG2_SLOTS changes only on a disabled queue. -/
theorem State.wGet_ctrlCross_slots :
    wGet (s.ctrlCross p q w) 8 4 = if s.qDisabled p q then wGet w 8 4 else s.fget Fld.CMD_Qn_CTRL_LOG2_SLOTS q p := by
  unfold State.ctrlCross
  dsimp only
  rw [wGet_wSet_ne _ _ (by decide) (by decide) (by decide) (by decide)]
  split
  · rfl
  · exact (wGet_wSet_same _ _ (by decide) (by decide)).trans (Nat.mod_eq_of_lt (s.fget_lt Fld.CMD_Qn_CTRL_LOG2_SLOTS q p))

/-- The mask keeps the arrays that the queue may hold. -/
theorem State.wGet_ctrlCross_mask : wGet (s.ctrlCross p q w) 23 16 = s.maskOk p (wGet w 23 16) % 256 := by
  unfold State.ctrlCross
  dsimp only
  rw [wGet_wSet_same _ _ (by decide) (by decide), show 2 ^ (23 + 1 - 16) = 256 by decide]
  split
  · rfl
  · rw [wGet_wSet_ne _ _ (by decide) (by decide) (by decide) (by decide)]

/-- Before READY only ENABLE is held. -/
theorem State.wGet_untilReady {a b : Nat} (h : b ≤ a) (l : 0 < b) : wGet (s.untilReady w) a b = wGet w a b := by
  unfold State.untilReady
  split
  · rfl
  · exact wGet_wSet_ne _ _ (by decide) (by decide) h (.inr l)

theorem State.wGet_untilReady_enable : wGet (s.untilReady w) 0 0 = if s.ready then wGet w 0 0 else 0 := by
  unfold State.untilReady
  split
  · rfl
  · exact wGet_wSet_same _ _ (by decide) (by decide)

/-- The word that a write of CMD_Qn_CTRL stores. -/
def State.ctrlWord : Word := s.ctrlCross p q (s.untilReady (rangeWord .CMD_Qn_CTRL (s.rd .CMD_Qn_CTRL q p) v))

/-- A field of the register whose range is its width takes the requested value. -/
theorem wGet_rangeWord_ctrl (old : Word) {a b x : Nat} (h : (⟨a, b, .rw, x, .full⟩ : FieldSpec) ∈ RegName.CMD_Qn_CTRL.spec.fields) :
    wGet (rangeWord .CMD_Qn_CTRL old v) a b = wGet v a b := wGet_rangeWord .CMD_Qn_CTRL old v h rfl

theorem State.ctrlWord_stop : wGet (s.ctrlWord p q v) 1 1 = wGet v 1 1 := by
  rw [State.ctrlWord, State.wGet_ctrlCross _ _ _ _ (by decide) (by decide) (by decide), State.wGet_untilReady _ _ (by decide) (by decide),
    wGet_rangeWord_ctrl v _ (x := 0) (by decide)]

theorem State.ctrlWord_enable : wGet (s.ctrlWord p q v) 0 0 = if s.ready then wGet v 0 0 else 0 := by
  rw [State.ctrlWord, State.wGet_ctrlCross _ _ _ _ (by decide) (by decide) (by decide), State.wGet_untilReady_enable,
    wGet_rangeWord_ctrl v _ (x := 0) (by decide)]

theorem State.ctrlWord_slots : wGet (s.ctrlWord p q v) 8 4 =
    if s.qDisabled p q then max 6 (min 16 (wGet v 8 4)) else s.fget Fld.CMD_Qn_CTRL_LOG2_SLOTS q p := by
  have clamp (n : Nat) : rangeFix ⟨8, 4, .rw, 0x6, .num 6 16 1⟩ n = max 6 (min 16 n) := by
    simp only [rangeFix, Nat.le_refl, if_true]
    split_ifs <;> omega
  have range : wGet (rangeWord .CMD_Qn_CTRL (s.rd .CMD_Qn_CTRL q p) v) 8 4 = max 6 (min 16 (wGet v 8 4)) :=
    (wGet_rangeWord .CMD_Qn_CTRL _ v (f := ⟨8, 4, .rw, 0x6, .num 6 16 1⟩) (by decide) rfl).trans (clamp _)
  rw [State.ctrlWord, State.wGet_ctrlCross_slots, State.wGet_untilReady _ _ (by decide) (by decide), range]

theorem State.ctrlWord_mask : wGet (s.ctrlWord p q v) 23 16 = s.maskOk p (wGet v 23 16) % 256 := by
  rw [State.ctrlWord, State.wGet_ctrlCross_mask, State.wGet_untilReady _ _ (by decide) (by decide), wGet_rangeWord_ctrl v _ (x := 0) (by decide)]

end

/-! ## The write (R49, R58) -/

@[simp] theorem State.clampRecord_queues (s : State) (view block bit width flags off req app : Nat) :
    (s.clampRecord view block bit width flags off req app).queues = s.queues := by
  unfold State.clampRecord State.errSet
  dsimp only
  rw [State.event_queues, State.sqSet_queues, State.fset_queues]

theorem State.recordClamps_queues (s : State) (view : Nat) (r : RegName) (inst flags : Nat) (cs : List (FieldSpec × Nat × Nat × Bool)) :
    (s.recordClamps view r inst flags cs).queues = s.queues :=
  foldl_keep _ _ State.queues (fun t _ => t.clampRecord_queues _ _ _ _ _ _ _ _) s

section

variable (s : State) (view p q : Nat) (v : Word)

/-- The word stored and its clamps recorded. -/
def State.ctrlStored : State := s.phaseWrite view .CMD_Qn_CTRL q p v s.untilReady (s.ctrlCross p q)

/-- Then STOPPED is noted where STOP took effect now. -/
def State.ctrlNoted : State :=
  if (s.ctrlStored view p q v).qStopped p q && !s.qStopped p q then (s.ctrlStored view p q v).noteStopped p q else s.ctrlStored view p q v

theorem State.ctrlWrite_eq : s.ctrlWrite view p q v =
    if wGet v 2 2 = 1 then (s.ctrlNoted view p q v).queueAbort p q else s.ctrlNoted view p q v := rfl

theorem Clamped.ctrlStored : Clamped (s.wr .CMD_Qn_CTRL q p (s.ctrlWord p q v)) (s.ctrlStored view p q v) :=
  Clamped.recordClamps _ _ _ _ _ _

theorem State.ctrlNoted_cases {P : State → Prop} (stored : P (s.ctrlStored view p q v)) (stops : P ((s.ctrlStored view p q v).noteStopped p q)) :
    P (s.ctrlNoted view p q v) := by
  unfold State.ctrlNoted
  split
  · exact stops
  · exact stored

/-- The register reads as the word stored. -/
theorem State.ctrlNoted_rd : (s.ctrlNoted view p q v).rd .CMD_Qn_CTRL q p = s.ctrlWord p q v := by
  have stored : (s.ctrlStored view p q v).rd .CMD_Qn_CTRL q p = s.ctrlWord p q v := by
    rw [(Clamped.ctrlStored s view p q v).regs _ _ _ rfl rfl, State.rd_wr_same]
  refine s.ctrlNoted_cases view p q v (P := fun t => t.rd .CMD_Qn_CTRL q p = _) stored ?_
  rw [State.noteStopped_regs _ _ _ _ _ _ rfl rfl, stored]

theorem State.ctrlNoted_mem : (s.ctrlNoted view p q v).mem = s.mem := by
  have stored : (s.ctrlStored view p q v).mem = s.mem := by rw [(Clamped.ctrlStored s view p q v).mem, State.wr_mem]
  refine s.ctrlNoted_cases view p q v (P := fun t => t.mem = _) stored ?_
  rw [State.noteStopped_mem, stored]

theorem State.ctrlNoted_queues : (s.ctrlNoted view p q v).queues = s.queues := by
  have stored : (s.ctrlStored view p q v).queues = s.queues := (State.recordClamps_queues _ _ _ _ _ _).trans (State.wr_queues _ _ _ _ _)
  refine s.ctrlNoted_cases view p q v (P := fun t => t.queues = _) stored ?_
  rw [State.noteStopped_queues, stored]

/-- The registers that such a write may change. -/
def ctrlReg (r : RegName) : Bool := r == .CMD_Qn_CTRL || r == .CMD_Qn_STATUS || r == .BLK_ERR || r == .GLB_CLAMP_HEAD

theorem State.ctrlNoted_regs : KeepsRegs s (s.ctrlNoted view p q v) ctrlReg := by
  have stored : KeepsRegs s (s.ctrlStored view p q v) ctrlReg :=
    (KeepsRegs.wr s _ _ _ _ rfl).trans (KeepsRegs.mono (Clamped.ctrlStored s view p q v).regs (by
      simp only [Bool.or_eq_true, beq_iff_eq]
      rintro r (rfl | rfl) <;> rfl))
  refine s.ctrlNoted_cases view p q v (P := fun t => KeepsRegs s t ctrlReg) stored ?_
  exact stored.trans (KeepsRegs.mono (State.noteStopped_regs _ _ _) (by simp only [beq_iff_eq]; rintro r rfl; rfl))

end

/-! ## Abort (R78) -/

theorem CmdKept.abortUnread (s : State) (p q fuel n : Nat) : CmdKept s (s.abortUnread p q fuel n) := by
  induction fuel generalizing s n with
  | zero => exact CmdKept.refl s
  | succ fuel ih =>
    unfold State.abortUnread
    split
    · exact CmdKept.refl s
    · exact ((CmdKept.fetchCmd s p q n).trans (CmdKept.ite (CmdKept.putStatus _ _ _ _ _) (CmdKept.refl _))).trans (ih _ _)

/-- An abort tells a running pre-emptible command that has not ended its operation to stop. -/
def stopCmd (c : Cmd) : Cmd := if c.phase = .running ∧ preemptible (cOpcode c) = true ∧ c.finished = false then { c with stop := 0x0207 } else c

theorem stopCmd_phase (c : Cmd) : (stopCmd c).phase = c.phase := by
  unfold stopCmd
  split <;> rfl

section

variable (s : State) (p q : Nat)

/-- The commands that an abort keeps: those started. -/
def State.startedCmds : List Cmd := ((s.queue p q).cmds.filter (fun c => c.phase == .running || c.phase == .done)).map stopCmd

/-- The unstarted commands of the queue given their STATUS. -/
def State.unstarted : State :=
  let waiting := (s.queue p q).cmds.filter (fun c => c.phase == .waiting || c.phase == .admitting)
  let u := waiting.foldl (fun s c => if c.firstOk then s.putStatus p q c.slot 0x0207 else s) s
  u.abortUnread p q ((u.qTail p q + 2 ^ 32 - s.nextSlot p q) % 2 ^ 32) (s.nextSlot p q)

theorem CmdKept.unstarted : CmdKept s (s.unstarted p q) := by
  refine CmdKept.trans (CmdKept.foldl (fun s c => ?_) _ s) (CmdKept.abortUnread _ _ _ _ _)
  exact CmdKept.ite (CmdKept.putStatus s _ _ _ _) (CmdKept.refl s)

/-- The queue left with the commands that have started, under abort. -/
def State.aborted : State := (s.unstarted p q).setQueue p q { cmds := s.startedCmds p q, aborting := true }

theorem State.queueAbort_eq : s.queueAbort p q = (s.aborted p q).endAbort p q := rfl

theorem State.aborted_queue : (s.aborted p q).queue p q = { cmds := s.startedCmds p q, aborting := true } := State.queue_setQueue_same _ _ _ _

theorem State.aborted_rd {r : RegName} (i a : Nat) (h : cmdReg r = true) : (s.aborted p q).rd r i a = s.rd r i a := by
  rw [State.aborted, State.rd, State.setQueue_rf, ← State.rd, (CmdKept.unstarted s p q).rd r i a h]

/-- A command runs after the stop requests where one ran before. -/
theorem State.aborted_running : (s.aborted p q).qRunning p q = s.qRunning p q := by
  rw [State.qRunning, State.aborted_queue, State.qRunning, State.startedCmds, List.any_map, List.any_filter]
  refine congrArg (fun f => (s.queue p q).cmds.any f) (funext fun c => ?_)
  rw [Function.comp_apply, stopCmd_phase]
  cases c.phase <;> rfl

/-- With nothing running the abort ends at once. -/
theorem State.queueAbort_idle (h : s.qRunning p q = false) : s.queueAbort p q = (s.aborted p q).emptied p q := by
  rw [State.queueAbort_eq, State.endAbort_eq, State.aborted_running, h, State.aborted_queue]
  rfl

/-- With commands running it waits for them. -/
theorem State.queueAbort_running (h : s.qRunning p q = true) : s.queueAbort p q = s.aborted p q := by
  rw [State.queueAbort_eq, State.endAbort_eq, State.aborted_running, h]
  simp

/-- An abort changes no lock. -/
theorem State.queueAbort_lock (k : Nat) : (s.queueAbort p q).lock p k = s.lock p k := by
  rw [State.lock, State.queueAbort_eq, State.endAbort_regs _ _ _ _ _ _ rfl rfl, s.aborted_rd _ _ _ _ rfl, State.lock]

theorem State.emptied_head : (s.emptied p q).rd .CMD_Qn_HEAD q p = s.rd .CMD_Qn_TAIL q p := by
  rw [State.emptied, State.fset, State.rd_wr_reg _ _ _ _ _ _ (by decide), State.sqSet, State.rd_wr_reg _ _ _ _ _ _ (by decide), State.rd_wr_same,
    State.rd, State.setQueue_rf, ← State.rd]

theorem State.emptied_aborted : (s.emptied p q).fget Fld.CMD_Qn_STATUS_ABORTED q p = 1 := by
  rw [State.emptied, State.fget_fset_reg _ _ _ _ _ _ (by decide)]
  exact State.sqSet_bit _ Fld.CMD_Qn_STATUS_ABORTED _ _ rfl (by decide)

theorem State.emptied_enable : (s.emptied p q).fget Fld.CMD_Qn_CTRL_ENABLE q p = 0 :=
  State.fget_fset_same _ _ _ _ _ (by decide) (by decide)

end

/-- Settles O39: the write by the fields of the word it stores, the abort by whether a command runs. -/
theorem queueControl : Obligations.QueueControl := by
  unfold Obligations.QueueControl
  refine ⟨fun p q v s => ?_, fun p q s idle => ?_, fun p q s run => ?_⟩
  · have word := s.ctrlNoted_rd p.val p.val q.val v
    refine ⟨s.ctrlNoted p.val p.val q.val v, by rw [exec_queueCtrlWrite, State.ctrlWrite_eq], ?_, ?_, ?_, ?_, s.ctrlNoted_mem _ _ _ _,
      s.ctrlNoted_queues _ _ _ _, s.ctrlNoted_regs _ _ _ _⟩
    · exact (congrArg (wGet · 1 1) word).trans (s.ctrlWord_stop _ _ _)
    · exact (congrArg (wGet · 0 0) word).trans (s.ctrlWord_enable _ _ _)
    · exact (congrArg (wGet · 8 4) word).trans (s.ctrlWord_slots _ _ _)
    · exact (congrArg (wGet · 23 16) word).trans (s.ctrlWord_mask _ _ _)
  · refine ⟨_, exec_queueAbort p q s, ?_, ?_, ?_, ?_, fun k _ => s.queueAbort_lock _ _ k⟩
    · rw [s.queueAbort_idle _ _ idle, State.emptied_queue]
    · rw [s.queueAbort_idle _ _ idle, State.emptied_head, s.aborted_rd _ _ _ _ rfl]
    · rw [s.queueAbort_idle _ _ idle, State.emptied_aborted]
    · rw [s.queueAbort_idle _ _ idle, State.emptied_enable]
  · refine ⟨_, exec_queueAbort p q s, ?_, ?_, fun k _ => s.queueAbort_lock _ _ k⟩
    · rw [s.queueAbort_running _ _ run, State.aborted_queue]
    · rw [s.queueAbort_running _ _ run, State.aborted_queue]
      rfl

end Sys2Proof.Machine
end

section
/-! SUPPORT. What step 4 of R71 reads (R469): descriptors, lists, programs, entries and samples change nothing of the command processor, and the command
keeps its slot. -/

namespace Sys2Proof.Machine

namespace CmdKept

variable (s : State)

theorem readSmall (p a n : Nat) : CmdKept s (s.readSmall p a n).2 := by
  unfold State.readSmall
  dsimp only
  split
  · exact drawBytes s n
  · exact readAs s p a n 8

theorem loadScale (p : Nat) (d : TDesc) : CmdKept s (s.loadScale p d).1 := by
  unfold State.loadScale
  split
  · exact refl s
  · split
    · split
      · exact refl s
      · split
        · exact refl s
        · exact readSmall s p d.scale 16
    · exact refl s

theorem loadDesc (p : Part) (op addr : Nat) (out : Bool) : CmdKept s (s.loadDesc p op addr out).1 := by
  unfold State.loadDesc
  split
  · exact refl s
  · split
    · exact refl s
    · have read := readSmall s p.val addr 64
      split
      next b bad t e =>
      rw [e] at read
      extract_lets d
      split
      · exact read
      · split
        · exact read
        · split
          · exact read
          · have scale := read.trans (loadScale t p.val d)
            split
            next t st w e =>
              rw [e] at scale
              split
              · exact scale
              · split
                · exact scale
                · exact scale

theorem loadDescs (p : Part) (op : Nat) (fs : List (Nat × Bool)) : CmdKept s (s.loadDescs p op fs).1 := by
  unfold State.loadDescs
  refine foldlFst (fun x f => ?_) fs (s, 0, [], [])
  split
  · exact refl _
  · split
    · exact refl _
    · exact loadDesc _ _ _ _ _

theorem loadList (p : Part) (c : Cmd) : CmdKept s (s.loadList p c).1 := by
  unfold State.loadList
  extract_lets op
  split
  · have tensor := fetchTensor s p.val (c.desc 0) 8
    split
    next t st e =>
      rw [e] at tensor
      split
      · exact tensor
      · exact tensor.trans (loadDescs _ _ _ _)
  · exact refl s

theorem loadProgram (p : Part) (c : Cmd) : CmdKept s (s.loadProgram p c).1 := by
  unfold State.loadProgram
  dsimp only
  split
  · exact fetchTensor s p.val (c.desc 2) 8
  · exact refl s

theorem ledgerRead (p tid : Nat) : CmdKept s (s.ledgerRead p tid).2 := by
  unfold State.ledgerRead
  split
  · exact checkEnt s _ _
  · exact drawBytes s 256

theorem loadEntries (p : Nat) (c : Cmd) : CmdKept s (s.loadEntries p c).1 := by
  unfold State.loadEntries
  split
  · have tensor := fetchTensor s p (c.desc 0) 8
    split
    next t st e =>
      rw [e] at tensor
      split
      · exact tensor
      · exact tensor.trans (foldlFst (fun x w => ledgerRead x.1 p w) _ (t, []))
  · exact refl s

theorem loadSample (p : Part) (c : Cmd) : CmdKept s (s.loadSample p c).1 := by
  unfold State.loadSample
  dsimp only
  split
  · exact refl s
  · split
    · exact refl s
    · split
      · exact refl s
      · exact readSmall s p.val _ 64

end CmdKept

/-- What a check at step 4 leaves: the queues, and the slot of its command. -/
structure CmdRead (s : State) (c : Cmd) (x : State × Nat × Cmd) : Prop where
  kept : CmdKept s x.1
  slot : x.2.2.slot = c.slot

theorem CmdRead.refl (s : State) (c : Cmd) (st : Nat) : CmdRead s c (s, st, c) := ⟨CmdKept.refl s, rfl⟩

theorem CmdRead.loadLedger (s : State) (p : Part) (c : Cmd) : CmdRead s c (s.loadLedger p c) := by
  unfold State.loadLedger
  split
  · have tensor := CmdKept.fetchTensor s p.val (c.desc 0) 8
    split
    next t st e =>
      rw [e] at tensor
      split
      · exact ⟨tensor, rfl⟩
      · split
        · exact ⟨tensor, rfl⟩
        next as _ =>
          have descs := tensor.trans (CmdKept.loadDescs t p 0x70 (as.map (fun a => (a, false))))
          split
          next u st ds ws f =>
            rw [f] at descs
            dsimp only
            split
            · exact ⟨descs, rfl⟩
            · exact ⟨descs, rfl⟩
  · exact ⟨CmdKept.loadEntries s p.val c, rfl⟩

theorem CmdRead.ite {s : State} {c : Cmd} {x y : State × Nat × Cmd} {k : Prop} [Decidable k] (h : CmdRead s c x) (l : CmdRead s c y) :
    CmdRead s c (if k then x else y) := by
  split
  · exact h
  · exact l

/-- A check that stops with a status or goes on, from a state in which nothing but reads has happened. -/
theorem CmdRead.stop {s t : State} {c d : Cmd} {st : Nat} {y : State × Nat × Cmd} {k : Prop} [Decidable k] (h : CmdKept s t) (e : d.slot = c.slot)
    (l : CmdRead s c y) : CmdRead s c (if k then (t, st, d) else y) := CmdRead.ite ⟨h, e⟩ l

theorem CmdRead.step4 (s : State) (p : Part) (q : Nat) (c : Cmd) : CmdRead s c (s.step4 p q c) := by
  unfold State.step4
  extract_lets fs
  refine CmdRead.stop (CmdKept.refl s) rfl (CmdRead.stop (CmdKept.refl s) rfl (CmdRead.stop (CmdKept.refl s) rfl
    (CmdRead.stop (CmdKept.refl s) rfl ?_)))
  split
  · exact CmdRead.refl s c _
  · have descs := CmdKept.loadDescs s p (cOpcode c) (fs.map (fun f => (f.addr, f.out)))
    split
    next s1 st1 ds ws e1 =>
    rw [e1] at descs
    extract_lets c1
    refine CmdRead.stop descs rfl ?_
    have list := descs.trans (CmdKept.loadList s1 p c1)
    split
    next s2 st2 ls lw e2 =>
    rw [e2] at list
    extract_lets c2
    refine CmdRead.stop list rfl ?_
    have program := list.trans (CmdKept.loadProgram s2 p c2)
    split
    next s3 st3 prog e3 =>
    rw [e3] at program
    extract_lets c3
    refine CmdRead.stop program rfl (CmdRead.stop program rfl (CmdRead.stop program rfl (CmdRead.stop program rfl ?_)))
    have ledger := CmdRead.loadLedger s3 p c3
    split
    next s4 st4 c4 e4 =>
    rw [e4] at ledger
    have entries := program.trans ledger.kept
    have slot : c4.slot = c.slot := ledger.slot
    refine CmdRead.stop entries slot ?_
    have sample : CmdKept s (if cOpcode c4 = 0x41 then s4.loadSample p c4 else (s4, 0, c4.aux)).1 := by
      split
      · exact entries.trans (CmdKept.loadSample s4 p c4)
      · exact entries
    split
    next s5 st5 smp e5 =>
    rw [e5] at sample
    extract_lets c5
    exact CmdRead.stop sample slot (CmdRead.stop sample slot ⟨sample, slot⟩)

end Sys2Proof.Machine
end

section
/-! SUPPORT. The tier engine and running commands: a transfer leaves the command processor alone, and a promotion or a broken object ends the operation
of a running command and leaves it running. -/

namespace Sys2Proof.Machine

/-! ## Transfers (R139, R148, R299) -/

namespace CmdKept

theorem setObj (s : State) (p : Part) (id : Nat) (o : TierObj) : CmdKept s (s.setObj p id o) := modTier s p _
theorem setFetches (s : State) (p : Part) (l : List Fetch) : CmdKept s (s.setFetches p l) := modTier s p _
theorem tierStatus (s : State) (p : Part) (b c : List Fld) : CmdKept s (s.tierStatus p b c) := sqSet s _ _ _ _ _ rfl
theorem tierEvent (s : State) (p : Part) (code sev a b : Nat) : CmdKept s (s.tierEvent p code sev a b) := event s _
theorem newTag (s : State) (k : Nat) : CmdKept s (s.newTag k).2 := of_eq rfl rfl rfl
theorem emit (s : State) (o : Output) : CmdKept s (s.emit o) := of_eq (by simp) (by simp) (by simp)
theorem sendTxn (s : State) (k vc : Nat) (b : List Byte) : CmdKept s (s.sendTxn k vc b) := quiet (Quiet.sendMsg s _ _ _)
theorem sendT2Rd (s : State) (k tag off len : Nat) : CmdKept s (s.sendT2Rd k tag off len) := (sendTxn s _ _ _).trans (emit _ _)
theorem reqEvent (s : State) (k ttype st a : Nat) : CmdKept s (s.reqEvent k ttype st a) := event s _
theorem perEvent (s : State) (c v a b : Nat) : CmdKept s (s.perEvent c v a b) := event s _
theorem reqErr (s : State) (k ttype st a : Nat) : CmdKept s (s.reqErr k ttype st a) := (sqSet s _ _ _ _ _ rfl).trans (reqEvent _ _ _ _ _)
theorem setEut (s : State) (e : EutSt) : CmdKept s { s with eut := e } := of_eq rfl rfl rfl

theorem sendCpl (s : State) (k ttype tag a st : Nat) (data : List Byte) : CmdKept s (s.sendCpl k ttype tag a st data) := by
  have sent := (sendTxn s k 2 (txnHdr 0x08 st tag data.length 0 ++ data)).trans (emit _ (.cpl ⟨k % 4, by omega⟩ tag st data))
  exact ite (c := st = 0) sent (sent.trans (reqErr _ _ _ _ _))

theorem sendRouted (s : State) (group mtype : Nat) (dst : Coord) (body : List Byte) : CmdKept s (s.sendRouted group mtype dst body).1 := by
  unfold State.sendRouted
  split
  · dsimp only
    exact (sqSet s _ _ _ _ _ rfl).trans (perEvent _ _ _ _ _)
  · dsimp only
    split
    · exact refl s
    · exact (quiet (Quiet.sendMsg s _ _ _)).trans (emit _ _)

theorem askT2 (s : State) (f : Fetch) (a off n : Nat) : CmdKept s (s.askT2 f a off n).1 := by
  unfold State.askT2
  dsimp only
  split
  · exact (newTag s _).trans (sendT2Rd _ _ _ _ _)
  · exact refl s

theorem askSource (s : State) (p : Part) (f : Fetch) (fuel : Nat) : CmdKept s (s.askSource p f fuel).1 := by
  induction fuel generalizing s f with
  | zero => exact refl s
  | succ fuel ih =>
    unfold State.askSource
    split
    · extract_lets rel
      split
      · split
        · exact askT2 s _ _ _ _
        · exact ih s _
      · split
        · split
          · exact refl s
          · dsimp only
            split
            · exact (newTag s 4).trans (sendRouted _ _ _ _ _)
            · exact ((newTag s 4).trans (sendRouted _ _ _ _ _)).trans (ih _ _)
        · exact ih s _
      · split
        · exact askT2 s _ _ _ _
        · exact refl s
      · exact refl s
    · exact refl s

theorem pumpFetch (s : State) (p : Part) (f : Fetch) : CmdKept s (s.pumpFetch p f).1 := by
  unfold State.pumpFetch
  dsimp only
  split
  · exact refl s
  · split
    · exact askSource s p f 4
    · split
      · exact refl s
      · split
        · split
          · exact refl s
          · exact askSource s p _ 4
        · exact askT2 s f _ _ _

theorem pumpTier (s : State) (p : Part) : CmdKept s (s.pumpTier p) := by
  refine foldl (fun s i => ?_) _ s
  split
  · exact refl s
  · dsimp only
    split
    · exact refl s
    · exact (pumpFetch s p _).trans (setFetches _ _ _)

theorem addFetch (s : State) (p : Part) (f : Fetch) : CmdKept s (s.addFetch p f) := (setFetches s _ _).trans (pumpTier _ _)

theorem startEvict (s : State) (p : Part) (id : Nat) (rs : List EvictReq) : CmdKept s (s.startEvict p id rs) := by
  unfold State.startEvict
  split
  · exact setObj s _ _ _
  · exact refl s

theorem autoEvict (s : State) (p : Part) (level slice : Nat) : CmdKept s (s.autoEvict p level slice) := by
  unfold State.autoEvict
  split
  · exact refl s
  · dsimp only
    split
    · exact startEvict s _ _ _
    · exact refl s

end CmdKept

/-! ## Commands that run on -/

/-- A running command stands at a slot. -/
def State.runsAt (s : State) (p q n : Nat) : Prop := ∃ c, s.cmdAt p q n = some c ∧ c.phase = .running

/-- Every running command of a partition goes on running, and the balances stay. -/
structure RunsOn (p : Part) (s t : State) : Prop where
  pwr : t.pwr = s.pwr
  runs : ∀ (q : QueueId) (n : Nat), s.runsAt p.val q.val n → t.runsAt p.val q.val n

/-- Setting the command of one slot leaves those of the others. -/
theorem State.cmdAt_setCmd_ne (s : State) (p q : Nat) {n : Nat} (c : Cmd) (h : n ≠ c.slot) : (s.setCmd p q c).cmdAt p q n = s.cmdAt p q n := by
  have slot (d : Cmd) : ((if d.slot = c.slot then c else d).slot == n) = (d.slot == n) := by
    split
    next e => rw [e]
    · rfl
  rw [State.cmdAt, State.queue_setCmd_same, putCmd, List.find?_map]
  simp only [Function.comp_def, slot]
  cases e : (s.queue p q).cmds.find? (fun d => d.slot == n) with
  | none => exact e.symm
  | some d =>
    have at_ : s.cmdAt p q n = some d := e
    rw [at_, Option.map_some, if_neg (by rw [State.cmdAt_slot at_]; exact h)]

namespace RunsOn

variable {p : Part}

theorem refl (s : State) : RunsOn p s s := ⟨rfl, fun _ _ h => h⟩

theorem trans {s t u : State} (h : RunsOn p s t) (k : RunsOn p t u) : RunsOn p s u :=
  ⟨k.pwr.trans h.pwr, fun q n r => k.runs q n (h.runs q n r)⟩

theorem of_kept {s t : State} (h : CmdKept s t) : RunsOn p s t := ⟨h.pwr, fun q n r => by rwa [State.runsAt, h.cmdAt]⟩

theorem ite {s t u : State} {c : Prop} [Decidable c] (h : RunsOn p s t) (k : RunsOn p s u) : RunsOn p s (if c then t else u) := by
  split
  · exact h
  · exact k

theorem foldl {β : Type} {f : State → β → State} (h : ∀ s x, RunsOn p s (f s x)) (l : List β) (s : State) : RunsOn p s (l.foldl f s) := by
  induction l generalizing s with
  | nil => exact refl s
  | cons x l ih => exact (h s x).trans (ih _)

/-- A command set in a slot of the partition runs where one ran there before. -/
theorem setCmd (s : State) (q : Nat) (c : Cmd) (h : s.runsAt p.val q c.slot → c.phase = .running) : RunsOn p s (s.setCmd p.val q c) := by
  refine ⟨s.setCmd_pwr _ _ _, ?_⟩
  rintro q' n ⟨d, at_, run⟩
  by_cases queue : q'.val = q
  · subst queue
    by_cases slot : n = c.slot
    · subst slot
      exact ⟨c, State.cmdAt_setCmd_same at_ c rfl, h ⟨d, at_, run⟩⟩
    · exact ⟨d, (s.cmdAt_setCmd_ne _ _ c slot).trans at_, run⟩
  · refine ⟨d, ?_, run⟩
    rw [State.cmdAt, State.setCmd, State.queue_setQueue_ne _ _ (by omega), ← State.cmdAt, at_]

/-- A failure leaves the command at its slot running until it completes; a command of another partition is no matter. -/
theorem failRun {s : State} {r : CmdRef} {c : Cmd} (st : Nat) (h : r.part = p → s.cmdAt p.val r.queue.val r.slot = some c) :
    RunsOn p s (s.failRun r c st) := by
  by_cases part : r.part = p
  · have at_ := h part
    rw [State.failRun, part]
    refine setCmd s _ _ ?_
    rintro ⟨d, found, run⟩
    rw [State.cmdAt_slot at_, at_] at found
    rw [Option.some.inj found, run]
  · refine ⟨s.setCmd_pwr _ _ _, ?_⟩
    rintro q n ⟨d, at_, run⟩
    refine ⟨d, ?_, run⟩
    have other : p.val ≠ r.part.val := fun e => part (Fin.ext e.symm)
    rw [State.cmdAt, State.failRun, State.setCmd, State.queue_setQueue_ne _ _ (by omega), ← State.cmdAt, at_]

theorem failWhere (s : State) (st : Nat) (ok : Cmd → Bool) : RunsOn p s (s.failWhere p st ok) := by
  refine foldl (fun s q => ?_) _ s
  refine foldl (fun s c => ?_) _ s
  split
  next h =>
    simp only [Bool.and_eq_true, beq_iff_eq] at h
    obtain ⟨⟨run, -⟩, -⟩ := h
    exact setCmd s _ _ (fun _ => run)
  · exact refl s

/-- A PREFETCH fails where its schedule or its object does. -/
theorem failPrefetch (s : State) (id st : Nat) : RunsOn p s (s.failPrefetch p id st) := by
  unfold State.failPrefetch
  extract_lets hit failed left
  have schedules : RunsOn p s failed := by
    refine foldl (fun s x => ?_) _ s
    split
    next c at_ => exact ite (refl s) (failRun st (fun _ => at_))
    · exact refl s
  exact (schedules.trans (of_kept (CmdKept.modTier _ _ _))).trans (failWhere _ _ _)

theorem breakObj (s : State) (id page : Nat) : RunsOn p s (s.breakObj p id page) := by
  unfold State.breakObj
  split
  · exact refl s
  · extract_lets broken dropped told
    have kept : CmdKept s told := (((CmdKept.setObj s _ _ _).trans (CmdKept.setFetches _ _ _)).trans (CmdKept.tierStatus _ _ _ _)).trans
      (CmdKept.tierEvent _ _ _ _ _ _)
    exact ((of_kept kept).trans (failPrefetch _ _ _)).trans (failWhere _ _ _)

theorem settleTier (s : State) : RunsOn p s (s.settleTier p) := by
  refine foldl (fun s f => ?_) _ s
  split
  · exact refl s
  · split
    next k t a n _ =>
      extract_lets gone data
      have drawn : CmdKept s (gone.drawBytes n).2 := (CmdKept.setFetches s p _).trans (CmdKept.drawBytes gone n)
      split
      next free u e =>
        rw [e] at drawn
        extract_lets answered dropped
        have answer : CmdKept u answered :=
          CmdKept.ite (CmdKept.refl u) (CmdKept.ite (CmdKept.sendCpl u k _ t a 3 free) (CmdKept.sendCpl u k _ t a 0 data))
        exact of_kept (((drawn.trans answer).trans (CmdKept.dropT2 answered f)).trans (CmdKept.setEut dropped _))
    · split
      · exact refl s
      · extract_lets page dropped stopped
        have drop : CmdKept s dropped := (CmdKept.setFetches s p _).trans (CmdKept.dropT2 _ f)
        have stop : RunsOn p s stopped := by
          unfold stopped
          split
          · refine (of_kept drop).trans ?_
            split
            next c at_ => exact ite (refl _) (failRun _ (fun e => by rw [← e]; exact at_))
            · exact refl _
          · exact refl s
        clear_value stopped
        refine stop.trans ?_
        split
        · exact breakObj stopped _ _
        · exact of_kept ((CmdKept.draw stopped 32).trans (CmdKept.tierEvent _ _ _ _ _ _))

theorem buildCopy (s : State) (id target slice : Nat) : RunsOn p s (s.buildCopy p id target slice) := by
  unfold State.buildCopy
  split
  · exact refl s
  · split
    · exact refl s
    · split
      · exact of_kept (CmdKept.autoEvict s _ _ _)
      · extract_lets fromT2 o built
        have kept : RunsOn p s built := of_kept (CmdKept.setObj s _ _ _)
        split
        · exact (kept.trans (of_kept (CmdKept.addFetch _ _ _))).trans (settleTier _)
        · exact kept

theorem tierDemand (s : State) : RunsOn p s (s.tierDemand p) :=
  foldl (fun s _ => ite (buildCopy s _ _ _) (refl s)) _ s

end RunsOn

end Sys2Proof.Machine
end

section
/-! SUPPORT. How a command starts (R71, R385): admission, step 6, and the branches of COMMAND_START. -/

namespace Sys2Proof.Machine

theorem exec_commandStart (p : Part) (q : QueueId) (s : State) : exec (.commandStart p q) s = .next (s.commandStart p q) := rfl

theorem exec_energyAdmission (p : Part) (q : QueueId) (s : State) : exec (.energyAdmission p q) s = .next (s.energyAdmission p q) := rfl

/-! ## Step 6 -/

namespace RunsOn

variable {p : Part}

/-- A running EXPORT that an UPDATE tears has failed, and runs until it completes (R237). -/
theorem tearExports (s : State) : RunsOn p s (s.tearExports p) := by
  refine foldl (fun s q => ?_) _ s
  refine foldl (fun s c => ?_) _ s
  split
  next h =>
    simp only [Bool.and_eq_true, beq_iff_eq] at h
    obtain ⟨⟨run, -⟩, -⟩ := h
    extract_lets r dropped torn
    have left : CmdKept s dropped := CmdKept.dropOut s r
    have lost : CmdKept s torn := left.trans (CmdKept.ite (CmdKept.scramble dropped _ _) (CmdKept.refl dropped))
    exact (of_kept lost).trans (setCmd torn _ _ (fun _ => run))
  · exact refl s

/-- The tiers take a started command, or fail it (R140, R149). -/
theorem tierStart (s : State) (q : QueueId) (n : Nat) {c : Cmd} (h : c.phase = .running) :
    RunsOn p s (s.tierStart { part := p, queue := q, slot := n } c) := by
  unfold State.tierStart
  dsimp only
  split
  · exact setCmd s _ _ (fun _ => h)
  · exact (ite (refl s) (of_kept (CmdKept.modTier s _ _))).trans (tierDemand _)

theorem startNow (s : State) (q : QueueId) (n : Nat) : RunsOn p s (s.startNow p q n) := by
  unfold State.startNow
  split
  · exact refl s
  next c at_ =>
    split
    · exact refl s
    next run =>
      simp only [ne_eq, not_not] at run
      extract_lets r torn started stored
      have phase : started.phase = .running := by
        unfold started
        split
        · exact run
        · exact run
      have tear : RunsOn p s torn := ite (tearExports s) (refl s)
      exact (tear.trans (setCmd torn _ _ (fun _ => phase))).trans (tierStart _ q n phase)

end RunsOn

/-! ## Step 5 (R385) -/

/-- A command stands at a slot of a queue when the queue holds one of that slot. -/
theorem State.cmdAt_of_mem {s : State} {p q : Nat} {c : Cmd} (h : c ∈ (s.queue p q).cmds) : ∃ d, s.cmdAt p q c.slot = some d :=
  Option.isSome_iff_exists.mp (List.find?_isSome.mpr ⟨c, h, beq_self_eq_true _⟩)

section

variable (s : State) (p : Part) (q : QueueId) (c : Cmd)

/-- A command is admitted without an allowance, or when the balance covers its hint and no queue comes first. -/
def State.admits : Prop := s.allowW p.val = 0 ∨ ((s.hPrime p.val c : Int) ≤ vget s.pwr.bal p ∧ s.admissionBefore p q.val = false)

/-- An admitted command runs, and the balance pays its hint where there is an allowance. -/
theorem State.admitCmd_runs {d : Cmd} (at_ : s.cmdAt p.val q.val c.slot = some d) (h : s.admits p q c) :
    (s.admitCmd p q.val c).runsAt p.val q.val c.slot ∧ vget (s.admitCmd p q.val c).pwr.bal p =
      if s.allowW p.val = 0 then vget s.pwr.bal p else vget s.pwr.bal p - s.hPrime p.val c := by
  have runs (t : State) (e : t.queues = s.queues) :
      (t.setCmd p.val q.val { c with phase := .running, hint := s.hPrime p.val c }).runsAt p.val q.val c.slot :=
    ⟨_, State.cmdAt_setCmd_same ((State.cmdAt_congr e _ _ _).trans at_) _ rfl, rfl⟩
  unfold State.admitCmd
  dsimp only
  by_cases free : s.allowW p.val = 0
  · rw [if_pos free, if_pos free, State.setCmd_pwr]
    exact ⟨runs s rfl, rfl⟩
  · rw [if_neg free, if_neg free, if_pos (by simpa using h.resolve_left free), State.setCmd_pwr]
    exact ⟨runs _ rfl, vget_vset_same _ _ _⟩

/-- Otherwise it waits for admission. -/
theorem State.admitCmd_waits (h : ¬ s.admits p q c) : s.admitCmd p q.val c = s.setCmd p.val q.val { c with phase := .admitting } := by
  unfold State.admits at h
  push Not at h
  obtain ⟨paid, short⟩ := h
  unfold State.admitCmd
  dsimp only
  rw [if_neg paid, if_neg (by simpa using short)]

/-- An admitted command starts. -/
theorem State.starts_of_admits {d : Cmd} (at_ : s.cmdAt p.val q.val c.slot = some d) (h : s.admits p q c) :
    ∃ e, ((s.admitCmd p q.val c).startNow p q c.slot).cmdAt p.val q.val c.slot = some e ∧ e.phase = .running ∧
      vget ((s.admitCmd p q.val c).startNow p q c.slot).pwr.bal p =
        if s.allowW p.val = 0 then vget s.pwr.bal p else vget s.pwr.bal p - s.hPrime p.val c := by
  obtain ⟨runs, bal⟩ := s.admitCmd_runs p q c at_ h
  have on := RunsOn.startNow (p := p) (s.admitCmd p q.val c) q c.slot
  obtain ⟨e, found, run⟩ := on.runs q c.slot runs
  exact ⟨e, found, run, by rw [on.pwr, bal]⟩

/-- One that waits for admission does not. -/
theorem State.waits_of_not_admits {d : Cmd} (at_ : s.cmdAt p.val q.val c.slot = some d) (h : ¬ s.admits p q c) :
    (s.admitCmd p q.val c).startNow p q c.slot = s.setCmd p.val q.val { c with phase := .admitting } := by
  have found : (s.setCmd p.val q.val { c with phase := .admitting }).cmdAt p.val q.val c.slot = some { c with phase := .admitting } :=
    State.cmdAt_setCmd_same at_ _ rfl
  rw [s.admitCmd_waits p q c h, State.startNow, found]
  rfl

theorem State.not_admits (paid : s.allowW p.val ≠ 0) (h : vget s.pwr.bal p < s.hPrime p.val c ∨ s.admissionBefore p q.val = true) :
    ¬ s.admits p q c := by
  rintro (free | ⟨covers, first⟩)
  · exact paid free
  · rcases h with short | before
    · omega
    · rw [before] at first; cases first

theorem State.energyAdmission_held (h : s.qStarts p.val q.val = false) : s.energyAdmission p q = s := if_neg (by simp [h])

theorem State.energyAdmission_none (h : (s.queue p.val q.val).cmds.find? (fun x => x.phase == .admitting) = none) : s.energyAdmission p q = s := by
  unfold State.energyAdmission
  rw [h]
  exact ite_self _

/-- ENERGY_ADMISSION takes the command that waits at step 5. -/
theorem State.energyAdmission_some (starts : s.qStarts p.val q.val = true)
    (h : (s.queue p.val q.val).cmds.find? (fun x => x.phase == .admitting) = some c) :
    s.energyAdmission p q = (s.admitCmd p q.val c).startNow p q c.slot := by
  rw [State.energyAdmission, if_pos starts, h]

end

/-! ## COMMAND_START (R71) -/

section

variable (s : State) (p : Part) (q : QueueId)

/-- Step 4 and what follows it. -/
def State.checked (c : Cmd) : State :=
  let (s, st, c) := s.step4 p q.val c
  if st ≠ 0 then s.complete p q.val c st 0 else (s.admitCmd p q.val c).startNow p q c.slot

/-- A failed check ends the command. -/
theorem State.checked_fails {c : Cmd} (h : (s.step4 p q.val c).2.1 ≠ 0) :
    s.checked p q c = (s.step4 p q.val c).1.complete p q.val (s.step4 p q.val c).2.2 (s.step4 p q.val c).2.1 0 := by
  unfold State.checked
  generalize s.step4 p q.val c = x at h
  obtain ⟨t, st, d⟩ := x
  exact if_pos h

/-- A command that passes goes on to admission. -/
theorem State.checked_passes {c : Cmd} (h : (s.step4 p q.val c).2.1 = 0) :
    s.checked p q c = ((s.step4 p q.val c).1.admitCmd p q.val (s.step4 p q.val c).2.2).startNow p q (s.step4 p q.val c).2.2.slot := by
  unfold State.checked
  generalize s.step4 p q.val c = x at h
  obtain ⟨t, st, d⟩ := x
  exact if_neg (not_not.mpr h)

/-- Steps 2 and 3, with the waits as they have been evaluated. -/
def State.waited (c : Cmd) : State :=
  if !(c.w0 && c.w1) || (cEpochChk c && s.epoch (cGroup c) < cEpoch c) then s
  else if s.staleNow c then s.complete p q.val c 0x0205 0
  else s.checked p q c

/-- The steps of the command at the front. -/
def State.frontStart (c : Cmd) : State :=
  if s.closedFor p.val q.val c then s.complete p q.val c 0x0802 0
  else if !s.orderMet p.val q.val c then s
  else if !c.firstOk then s.complete p q.val c c.readable 0
  else (s.setCmd p.val q.val (s.latchWaits p.val c)).waited p q (s.latchWaits p.val c)

theorem State.commandStart_held (h : s.qStarts p.val q.val = false) : s.commandStart p q = s := if_pos (by simp [h])

theorem State.commandStart_none (starts : s.qStarts p.val q.val = true) (h : (s.fetchNext p.val q.val).front p.val q.val = none) :
    s.commandStart p q = s.fetchNext p.val q.val := by
  unfold State.commandStart
  rw [if_neg (by simp [starts])]
  extract_lets u
  rw [show u.front p.val q.val = none from h]

theorem State.commandStart_front (starts : s.qStarts p.val q.val = true) {c : Cmd}
    (h : (s.fetchNext p.val q.val).front p.val q.val = some c) : s.commandStart p q = (s.fetchNext p.val q.val).frontStart p q c := by
  unfold State.commandStart
  rw [if_neg (by simp [starts])]
  extract_lets u
  rw [show u.front p.val q.val = some c from h]
  unfold State.frontStart State.waited State.checked
  with_reducible rfl

section

variable {s p q} {c : Cmd}

theorem State.frontStart_closed (h : s.closedFor p.val q.val c = true) : s.frontStart p q c = s.complete p q.val c 0x0802 0 := if_pos h

variable (opened : s.closedFor p.val q.val c = false)
include opened

theorem State.frontStart_unordered (h : s.orderMet p.val q.val c = false) : s.frontStart p q c = s := by
  rw [State.frontStart, if_neg (by simp [opened]), if_pos (by simp [h])]

variable (order : s.orderMet p.val q.val c = true)
include order

theorem State.frontStart_unread (h : c.firstOk = false) : s.frontStart p q c = s.complete p q.val c c.readable 0 := by
  rw [State.frontStart, if_neg (by simp [opened]), if_neg (by simp [order]), if_pos (by simp [h])]

theorem State.frontStart_ready (first : c.firstOk = true) :
    s.frontStart p q c = (s.setCmd p.val q.val (s.latchWaits p.val c)).waited p q (s.latchWaits p.val c) := by
  rw [State.frontStart, if_neg (by simp [opened]), if_neg (by simp [order]), if_neg (by simp [first])]

end

section

variable {s p q} {c : Cmd}

/-- It waits while a wait is unmet or its epoch lies ahead. -/
theorem State.waited_unmet (w : c.w0 = false ∨ c.w1 = false ∨ s.epochAhead c) : s.waited p q c = s := by
  refine if_pos ?_
  rcases w with w | w | ⟨chk, lt⟩
  · simp [w]
  · simp [w]
  · simp [chk, lt]

variable (w0 : c.w0 = true) (w1 : c.w1 = true) (epoch : ¬ s.epochAhead c)
include w0 w1 epoch

theorem State.waited_met : s.waited p q c = if s.staleNow c then s.complete p q.val c 0x0205 0 else s.checked p q c := by
  refine if_neg fun x => epoch ?_
  simpa [w0, w1, State.epochAhead] using x

theorem State.waited_stale (h : s.staleNow c = true) : s.waited p q c = s.complete p q.val c 0x0205 0 := by
  rw [State.waited_met w0 w1 epoch, if_pos h]

theorem State.waited_checked (h : s.staleNow c = false) : s.waited p q c = s.checked p q c := by
  rw [State.waited_met w0 w1 epoch, if_neg (by simp [h])]

end
end

/-- The command at the front stands at its slot after the checks. -/
theorem State.step4_cmdAt {s : State} {p : Part} {q : Nat} {c d e : Cmd} (front : s.front p.val q = some c) (slot : d.slot = c.slot) :
    ∃ f, (((s.setCmd p.val q d).step4 p q e).1).cmdAt p.val q c.slot = some f := by
  obtain ⟨f, at_⟩ := State.cmdAt_of_mem (List.mem_of_find?_eq_some front)
  exact ⟨d, by rw [(CmdRead.step4 _ p q e).kept.cmdAt, State.cmdAt_setCmd_same at_ d slot]⟩

/-- Settles O41: COMMAND_START by the branches of `frontStart` and `waited`, admission by `starts_of_admits` and `waits_of_not_admits`. -/
theorem commandStarts : Obligations.CommandStarts := by
  unfold Obligations.CommandStarts
  refine ⟨fun p q s held => ?_, fun p q s starts => ⟨fun none => ?_, fun c front => ?_⟩,
    fun p q s starts => ⟨fun none => ?_, fun c found => ?_⟩⟩
  · rw [exec_commandStart, exec_energyAdmission, s.commandStart_held p q held, s.energyAdmission_held p q held]
    exact ⟨rfl, rfl⟩
  · rw [exec_commandStart, s.commandStart_none p q starts none]
  · intro d s2 x
    rw [exec_commandStart, s.commandStart_front p q starts front]
    refine ⟨fun closed => ?_, fun opened unordered => ?_, fun opened order unread => ?_, fun opened order first => ?_⟩
    · rw [State.frontStart_closed closed]
    · rw [State.frontStart_unordered opened unordered]
    · rw [State.frontStart_unread opened order unread]
    · rw [State.frontStart_ready opened order first]
      refine ⟨fun waits => by rw [State.waited_unmet waits], fun w0 w1 epoch => ?_⟩
      have met : ¬ s2.epochAhead d := fun ahead => Nat.not_lt.mpr (epoch ahead.1) ahead.2
      refine ⟨fun stale => by rw [State.waited_stale w0 w1 met stale], fun fresh fails => ?_, fun fresh passes => ?_⟩
      · rw [State.waited_checked w0 w1 met fresh, State.checked_fails s2 p q fails]
      · rw [State.waited_checked w0 w1 met fresh, State.checked_passes s2 p q passes]
        have slot : x.2.2.slot = c.slot := (CmdRead.step4 s2 p q.val d).slot
        obtain ⟨f, at_⟩ := State.step4_cmdAt (d := d) (e := d) front rfl
        rw [← slot] at at_ ⊢
        refine ⟨fun admits => ?_, fun paid waits => ?_⟩
        · obtain ⟨e, runs⟩ := x.1.starts_of_admits p q x.2.2 at_ admits
          exact ⟨_, e, rfl, runs⟩
        · rw [x.1.waits_of_not_admits p q x.2.2 at_ (x.1.not_admits p q _ paid waits)]
  · rw [exec_energyAdmission, s.energyAdmission_none p q none]
  · rw [exec_energyAdmission, s.energyAdmission_some p q c starts found]
    have phase : { c with phase := .admitting } = c := by
      have admitting : c.phase = .admitting := by simpa using List.find?_some found
      rw [← admitting]
    obtain ⟨f, at_⟩ := State.cmdAt_of_mem (List.mem_of_find?_eq_some found)
    refine ⟨fun admits => ?_, fun paid waits => ?_⟩
    · obtain ⟨e, runs⟩ := s.starts_of_admits p q c at_ admits
      exact ⟨_, e, rfl, runs⟩
    · rw [s.waits_of_not_admits p q c at_ (s.not_admits p q c paid waits), phase]

end Sys2Proof.Machine
end

section
/-! SUPPORT. What an event sends beside its record: the messages of the part only ever grow in number. -/

namespace Sys2Proof.Machine

/-- No message that was sent is taken back. -/
def Sends (s t : State) : Prop := s.out <+: t.out

namespace Sends

theorem refl (s : State) : Sends s s := List.prefix_rfl
theorem trans {s t u : State} (h : Sends s t) (k : Sends t u) : Sends s u := List.IsPrefix.trans h k
theorem of_eq {s t : State} (h : t.out = s.out) : Sends s t := by rw [Sends, h]

theorem mem {s t : State} (h : Sends s t) {o : Output} (k : o ∈ s.out) : o ∈ t.out := List.IsPrefix.subset h k

theorem emit (s : State) (o : Output) : Sends s (s.emit o) := List.prefix_append _ _

theorem foldl {β : Type} {f : State → β → State} (h : ∀ s x, Sends s (f s x)) (l : List β) (s : State) : Sends s (l.foldl f s) := by
  induction l generalizing s with
  | nil => exact refl s
  | cons x l ih => exact (h s x).trans (ih _)

theorem putFlit (s : State) (p : PortId) (k : Nat) (x y : Bool) (v n : Nat) (b : List Byte) : Sends s (s.putFlit p k x y v n b) :=
  (of_eq (State.modPort_out s p _)).trans (emit _ _)

theorem pumpOne (s : State) (p : PortId) : Sends s (s.pumpOne p) := by
  unfold State.pumpOne
  dsimp only
  split
  · split
    · exact refl s
    · split
      · exact refl s
      · exact ((of_eq (State.fset_out _ _ _ _ _)).trans (putFlit _ _ _ _ _ _ _ _)).trans (of_eq (State.modPort_out _ _ _))
  · exact refl s

theorem sendMsg (s : State) (p : PortId) (v : Nat) (b : List Byte) : Sends s (s.sendMsg p v b) := by
  unfold State.sendMsg
  split
  · exact (of_eq (State.modPort_out s p _)).trans (foldl (fun s _ => pumpOne s p) _ _)
  · exact refl s

theorem storeRec (s : State) (e : Ev) : Sends s (s.storeRec e) := by
  unfold State.storeRec
  dsimp only
  split
  · exact of_eq (State.wr64_out _ _ _ _ _ _)
  · exact of_eq (State.sqSet_out _ _ _ _ _ _)

theorem eventCore (s : State) (e : Ev) : Sends s (s.eventCore e) := by
  unfold State.eventCore
  dsimp only
  have told : ∀ t, Sends s t → Sends s (if 2 ≤ e.sev then t.emit (.ibi (BitVec.ofNat 8 (e.code / 256))) else t) := by
    intro t h
    split
    · exact h.trans (emit _ _)
    · exact h
  split
  · exact ((told _ (storeRec s e)).trans (of_eq rfl)).trans (emit _ _)
  · exact told _ (storeRec s e)

theorem noteRaw (s : State) (p k : Nat) (b : List Byte) : Sends s (s.noteRaw p k b).1 := by
  unfold State.noteRaw
  dsimp only
  split
  · split
    · exact ((of_eq (State.wr_out _ _ _ _ _)).trans (sendMsg _ _ _ _)).trans (emit _ _)
    · exact of_eq (by simp)
  · exact of_eq (by simp)

theorem note (s : State) (p k : Nat) (b : List Byte) : Sends s (s.note p k b) := by
  have h := noteRaw s p k b
  unfold State.note
  dsimp only
  split
  next t e =>
    rw [e] at h
    exact h
  next t e =>
    rw [e] at h
    have core (e : Ev) : Sends s (t.stamp.eventCore e) := (h.trans (of_eq (t := t.stamp) rfl)).trans (eventCore _ e)
    split
    · exact (core _).trans (noteRaw _ _ _ _)
    · exact core _

/-- Recording an event that is not FATAL takes no message back. -/
theorem event (s : State) (e : Ev) (h : e.sev ≠ 3) : Sends s (s.event e) := by
  have core : Sends s (s.stamp.eventCore e) := (of_eq (t := s.stamp) rfl).trans (eventCore _ _)
  unfold State.event State.eventFail State.eventNoFail
  dsimp only
  rw [if_neg h]
  split
  · exact core.trans (note _ _ _ _)
  · exact core

end Sends

end Sys2Proof.Machine
end

section
/-! SUPPORT. Streams and the wharf: what every operation on a stream leaves alone, and what each shows of the streams' states, registers and bytes (R83 to
R92). -/

namespace Sys2Proof.Machine

/-- The registers of the streams and of the wharf. -/
def strReg : RegName → Bool := fun r => r == .ING_STRn_STATE || r == .ING_STRn_OCC || r == .ING_STRn_NEXT_LO || r == .ING_STRn_NEXT_HI ||
  r == .ING_STRn_REL_LO || r == .ING_STRn_REL_HI || r == .ING_STRn_STATUS || r == .ING_POOL_W || r == .ING_POOL_E

/-- What work on streams leaves alone. -/
structure StrStep (s t : State) : Prop where
  mem : t.mem = s.mem
  queues : t.queues = s.queues
  hbm : t.hbm = s.hbm
  pwr : t.pwr = s.pwr
  tier : t.tier = s.tier
  ing : t.ing = { s.ing with streams := t.ing.streams }
  regs : KeepsRegs s t strReg

namespace StrStep

theorem refl (s : State) : StrStep s s := ⟨rfl, rfl, rfl, rfl, rfl, rfl, KeepsRegs.refl s _⟩

theorem trans {s t u : State} (h : StrStep s t) (k : StrStep t u) : StrStep s u :=
  ⟨k.mem.trans h.mem, k.queues.trans h.queues, k.hbm.trans h.hbm, k.pwr.trans h.pwr, k.tier.trans h.tier, by rw [k.ing, h.ing], h.regs.trans k.regs⟩

theorem ite {s t u : State} {c : Prop} [Decidable c] (h : StrStep s t) (k : StrStep s u) : StrStep s (if c then t else u) := by
  split
  · exact h
  · exact k

theorem foldl {β : Type} {f : State → β → State} (h : ∀ s x, StrStep s (f s x)) (l : List β) (s : State) : StrStep s (l.foldl f s) := by
  induction l generalizing s with
  | nil => exact refl s
  | cons x l ih => exact (h s x).trans (ih _)

theorem quiet {s t : State} (h : Quiet s t) : StrStep s t :=
  ⟨h.mem, h.queues, h.hbm, h.pwr, h.tier, by rw [h.ing], KeepsRegs.quiet h _⟩

theorem wr (s : State) (r : RegName) (i a : Nat) (v : Word) (n : strReg r = true) : StrStep s (s.wr r i a v) :=
  ⟨by simp, by simp, by simp, by simp, by simp, by simp, KeepsRegs.wr s r i a v n⟩

theorem fset (s : State) (f : Fld) (v i a : Nat) (n : strReg f.reg = true) : StrStep s (s.fset f v i a) := wr _ _ _ _ _ n

theorem wr64 (s : State) (l h : RegName) (v i a : Nat) (n : strReg l = true) (m : strReg h = true) : StrStep s (s.wr64 l h v i a) :=
  (wr _ _ _ _ _ n).trans (wr _ _ _ _ _ m)

theorem streams (s : State) (l : List (Nat × StreamSt)) : StrStep s { s with ing := { s.ing with streams := l } } :=
  ⟨rfl, rfl, rfl, rfl, rfl, rfl, KeepsRegs.of_rf rfl _⟩

variable (s : State) (n : Nat)

theorem setStr (x : StreamSt) : StrStep s (s.setStr n x) := by
  unfold State.setStr
  dsimp only
  exact ((((streams s _).trans (fset _ _ _ _ _ rfl)).trans (fset _ _ _ _ _ rfl)).trans (wr _ _ _ _ _ rfl)).trans (wr _ _ _ _ _ rfl)

theorem strStatus (b c : List Fld) : StrStep s (s.strStatus n b c) := wr _ _ _ _ _ rfl

theorem icpEvent {v : Nat} (c p q : Nat) (h : v ≠ 3) : StrStep s (s.icpEvent n c v p q) := quiet (Quiet.event s _ h)

end StrStep

/-! ## What a stream shows after one update -/

section

variable (s : State) (n : Nat) (x : StreamSt)

@[simp] theorem State.str_setStr_same : (s.setStr n x).str n = x := by simp [State.str, State.setStr]

theorem State.str_setStr_ne {m : Nat} (h : m ≠ n) : (s.setStr n x).str m = s.str m := by
  simp [State.str, State.setStr, Sparse.get_set_ne _ _ _ _ h]

/-- A stream's state is shown in OCC and the registers of the wharf; every other register stays. -/
theorem State.setStr_rd {r : RegName} (i a : Nat) (o : r ≠ .ING_STRn_OCC) (w : r ≠ .ING_POOL_W) (e : r ≠ .ING_POOL_E) :
    (s.setStr n x).rd r i a = s.rd r i a := by
  unfold State.setStr
  dsimp only
  rw [State.rd_wr_reg _ _ _ _ _ _ e, State.rd_wr_reg _ _ _ _ _ _ w, State.rd_fset_reg _ _ _ _ _ _ o, State.rd_fset_reg _ _ _ _ _ _ o]
  rfl

@[simp] theorem State.setStr_evr : (s.setStr n x).evr = s.evr := by simp [State.setStr]
@[simp] theorem State.setStr_out : (s.setStr n x).out = s.out := by simp [State.setStr]
@[simp] theorem State.setStr_boot : (s.setStr n x).boot = s.boot := by simp [State.setStr]

/-- A field of a register other than those that show charges. -/
theorem State.setStr_fget (f : Fld) (i a : Nat) (o : f.reg ≠ .ING_STRn_OCC) (w : f.reg ≠ .ING_POOL_W) (e : f.reg ≠ .ING_POOL_E) :
    (s.setStr n x).fget f i a = s.fget f i a := by simp only [State.fget, s.setStr_rd n x i a o w e]

@[simp] theorem State.setStr_strState (m : Nat) : (s.setStr n x).strState m = s.strState m :=
  s.setStr_fget n x Fld.ING_STRn_STATE_STATE m 0 (by decide) (by decide) (by decide)

@[simp] theorem State.setStr_strNext (m : Nat) : (s.setStr n x).strNext m = s.strNext m := by
  simp only [State.strNext, State.rd64, s.setStr_rd n x _ _ (show RegName.ING_STRn_NEXT_LO ≠ .ING_STRn_OCC by decide) (by decide) (by decide),
    s.setStr_rd n x _ _ (show RegName.ING_STRn_NEXT_HI ≠ .ING_STRn_OCC by decide) (by decide) (by decide)]

@[simp] theorem State.setStr_strRel (m : Nat) : (s.setStr n x).strRel m = s.strRel m := by
  simp only [State.strRel, State.rd64, s.setStr_rd n x _ _ (show RegName.ING_STRn_REL_LO ≠ .ING_STRn_OCC by decide) (by decide) (by decide),
    s.setStr_rd n x _ _ (show RegName.ING_STRn_REL_HI ≠ .ING_STRn_OCC by decide) (by decide) (by decide)]

end

end Sys2Proof.Machine
end

section
/-! SUPPORT. Grants, halts and resumes (R89 to R92): which streams a resume may change, and what stopping, halting and landing show of theirs. -/

namespace Sys2Proof.Machine

/-! ## Flags of STATE -/

/-- Numbers that name the same register read the same state. -/
theorem State.rd_strState_congr (s : State) {i j : Nat} (a : Nat) (h : i % 8192 = j % 8192) :
    s.rd .ING_STRn_STATE i a = s.rd .ING_STRn_STATE j a := by
  have key : regKey .ING_STRn_STATE i a = regKey .ING_STRn_STATE j a := by rw [regKey, h, regKey]
  have word : resetWord .ING_STRn_STATE i = resetWord .ING_STRn_STATE j := rfl
  rw [State.rd, RegFile.rd, key, word, State.rd, RegFile.rd]

theorem State.strState_congr (s : State) {i j : Nat} (h : i % 8192 = j % 8192) : s.strState i = s.strState j := by
  rw [State.strState, State.fget, show Fld.ING_STRn_STATE_STATE.reg = .ING_STRn_STATE from rfl, s.rd_strState_congr 0 h, State.strState, State.fget]
  rfl

/-- A write of one field of STATE leaves the fields beside it alone, of every stream. -/
theorem State.strFlag_fset (s : State) {f g : Fld} (v i j : Nat) (hf : f.reg = .ING_STRn_STATE) (hg : g.reg = .ING_STRn_STATE)
    (ef : f.lo ≤ f.hi) (kf : f.hi < 32) (eg : g.lo ≤ g.hi) (d : g.hi < f.lo ∨ f.hi < g.lo) : (s.fset f v i).fget g j = s.fget g j := by
  by_cases h : j % 8192 = i % 8192
  · have same (u : State) : u.fget g j = u.fget g i := by rw [State.fget, hg, u.rd_strState_congr 0 h, State.fget, hg]
    rw [same, same, s.fget_fset_ne v i 0 (hg.trans hf.symm) ef kf eg d]
  · exact s.fget_fset_inst v 0 0 h

/-- The state of a stream after it is set. -/
theorem State.strState_fset (s : State) (v n : Nat) : (s.fset Fld.ING_STRn_STATE_STATE v n).strState n = v % 8 :=
  s.fget_fset_same _ v n 0 (by decide) (by decide)

/-- Setting a halt flag or the gap flag leaves the state of every stream. -/
theorem State.strState_fset_flag (s : State) {f : Fld} (v i j : Nat) (hf : f.reg = .ING_STRn_STATE) (l : 3 ≤ f.lo) (e : f.lo ≤ f.hi) (k : f.hi < 32) :
    (s.fset f v i).strState j = s.strState j :=
  s.strFlag_fset (g := Fld.ING_STRn_STATE_STATE) v i j hf rfl e k (by decide) (.inl (show 2 < f.lo by omega))

@[simp] theorem State.fset_str (s : State) (f : Fld) (v i a n : Nat) : (s.fset f v i a).str n = s.str n := by simp [State.str]
@[simp] theorem State.wr64_str (s : State) (l h : RegName) (v i a n : Nat) : (s.wr64 l h v i a).str n = s.str n := by simp [State.str]
@[simp] theorem State.wr_str (s : State) (r : RegName) (i a : Nat) (v : Word) (n : Nat) : (s.wr r i a v).str n = s.str n := by simp [State.str]

theorem Quiet.str {s t : State} (h : Quiet s t) (n : Nat) : t.str n = s.str n := by rw [State.str, h.ing, State.str]
theorem Quiet.strState {s t : State} (h : Quiet s t) (n : Nat) : t.strState n = s.strState n := h.fget _ _ _ rfl

/-- Sending a message about a stream. -/
theorem Quiet.strSend (s : State) (n c o : Nat) : Quiet s (s.strSend n c o) := (Quiet.sendMsg _ _ _ _).trans (Quiet.emit _ _)

theorem Quiet.icpEvent (s : State) (n c : Nat) {v : Nat} (p q : Nat) (h : v ≠ 3) : Quiet s (s.icpEvent n c v p q) := Quiet.event s _ h

/-! ## Resumes (R92) -/

theorem StrStep.strSend (s : State) (n c o : Nat) : StrStep s (s.strSend n c o) := StrStep.quiet (Quiet.strSend s n c o)

/-- A stream runs again, with a grant. -/
def State.restarted (s : State) (n : Nat) : State := (s.setStr n { s.str n with grant := true }).fset Fld.ING_STRn_STATE_STATE 1 n

/-- And it tells its port. -/
def State.resumed (s : State) (n : Nat) : State :=
  ((s.restarted n).fset Fld.ING_STRn_STATE_HALT_WHARF 0 n).strSend n 2 ((s.restarted n).strNext n)

/-- A stream may resume: it is HALTED and not by a program, its weir empty, its share below its mark, and a grant free. -/
def State.mayResume (s : State) (n : Nat) : Prop :=
  s.strState n = 3 ∧ s.fbit Fld.ING_STRn_STATE_HALT_PROG n = false ∧ (s.str n).reserve = 0 ∧ (s.str n).shared ≤ (s.str n).mark * 1024 ∧ s.grantOk n = true

theorem State.strResume_resumed {s : State} {n : Nat} (h : s.mayResume n) : s.strResume n = s.resumed n := by
  unfold State.strResume State.resumed State.restarted
  exact if_pos h

theorem State.strResume_stays {s : State} {n : Nat} (h : ¬ s.mayResume n) : s.strResume n = s := by
  unfold State.strResume
  exact if_neg h

section

variable (s : State) (n : Nat)

theorem StrStep.resumed : StrStep s (s.resumed n) :=
  (((StrStep.setStr s n _).trans (StrStep.fset _ _ _ _ _ rfl)).trans (StrStep.fset _ _ _ _ _ rfl)).trans (StrStep.strSend _ _ _ _)

theorem StrStep.strResume : StrStep s (s.strResume n) := by
  by_cases h : s.mayResume n
  · rw [State.strResume_resumed h]
    exact StrStep.resumed s n
  · rw [State.strResume_stays h]
    exact StrStep.refl s

theorem StrStep.dieResume (e : Bool) : StrStep s (s.dieResume e) := by
  unfold State.dieResume
  refine StrStep.foldl (fun s x => ?_) _ s
  exact StrStep.strResume s x.1

theorem State.resumed_strState : (s.resumed n).strState n = 1 := by
  rw [State.resumed, (Quiet.strSend _ _ _ _).strState, State.strState_fset_flag _ _ _ _ rfl (by decide) (by decide) (by decide), State.restarted, State.strState_fset]

theorem State.resumed_str_same : (s.resumed n).str n = { s.str n with grant := true } := by
  rw [State.resumed, (Quiet.strSend _ _ _ _).str, State.restarted]
  simp

theorem State.resumed_str_ne {m : Nat} (h : m ≠ n) : (s.resumed n).str m = s.str m := by
  rw [State.resumed, (Quiet.strSend _ _ _ _).str, State.restarted]
  simp [State.str_setStr_ne _ _ _ h]

/-- A resume leaves the flags above the state, of every stream. -/
theorem State.resumed_flag (m : Nat) {f : Fld} (hf : f.reg = .ING_STRn_STATE) (l : 4 ≤ f.lo) (e : f.lo ≤ f.hi) :
    (s.resumed n).fget f m = s.fget f m := by
  rw [State.resumed, (Quiet.strSend _ _ _ _).fget f _ _ (by rw [hf]; rfl),
    State.strFlag_fset (f := Fld.ING_STRn_STATE_HALT_WHARF) _ _ _ _ rfl hf (by decide) (by decide) e (.inr (show 3 < f.lo by omega)), State.restarted,
    State.strFlag_fset (f := Fld.ING_STRn_STATE_STATE) _ _ _ _ rfl hf (by decide) (by decide) e (.inr (show 2 < f.lo by omega)),
    State.setStr_fget _ _ _ f _ _ (by rw [hf]; decide) (by rw [hf]; decide) (by rw [hf]; decide)]

end

/-- The registers that a resume changes. -/
def resumeReg : RegName → Bool := fun r => r == .ING_STRn_STATE || r == .ING_STRn_OCC || r == .ING_POOL_W || r == .ING_POOL_E

/-- What resumes can do to one stream: they change its grant and its state alone, and neither where it is not HALTED. -/
structure Resumes (n : Nat) (s t : State) : Prop where
  str : t.str n = { s.str n with grant := (t.str n).grant }
  stays : s.strState n ≠ 3 → t.strState n = s.strState n ∧ t.str n = s.str n
  flag : ∀ f : Fld, f.reg = .ING_STRn_STATE → 4 ≤ f.lo → f.lo ≤ f.hi → t.fget f n = s.fget f n
  regs : KeepsRegs s t resumeReg

namespace Resumes

variable {n : Nat}

theorem refl (s : State) : Resumes n s s := ⟨rfl, fun _ => ⟨rfl, rfl⟩, fun _ _ _ _ => rfl, KeepsRegs.refl s _⟩

theorem trans {s t u : State} (h : Resumes n s t) (k : Resumes n t u) : Resumes n s u where
  str := by
    have charge := k.str
    rw [h.str] at charge
    exact charge
  stays x := by
    obtain ⟨state, str⟩ := h.stays x
    obtain ⟨state', str'⟩ := k.stays (state ▸ x)
    exact ⟨state'.trans state, str'.trans str⟩
  flag f r l e := (k.flag f r l e).trans (h.flag f r l e)
  regs := h.regs.trans k.regs

theorem foldl {β : Type} {f : State → β → State} (h : ∀ s x, Resumes n s (f s x)) (l : List β) (s : State) : Resumes n s (l.foldl f s) := by
  induction l generalizing s with
  | nil => exact refl s
  | cons x l ih => exact (h s x).trans (ih _)

theorem resumed (s : State) (m : Nat) (h : s.strState m = 3) : Resumes n s (s.resumed m) where
  str := by
    by_cases e : n = m
    · subst e; rw [s.resumed_str_same]
    · rw [s.resumed_str_ne m e]
  stays x := by
    have other : n % 8192 ≠ m % 8192 := fun e => x ((s.strState_congr e).trans h)
    refine ⟨?_, s.resumed_str_ne m (fun e => other (by rw [e]))⟩
    rw [State.resumed, (Quiet.strSend _ _ _ _).strState, State.strState_fset_flag _ _ _ _ rfl (by decide) (by decide) (by decide), State.restarted, State.strState,
      State.fget_fset_inst _ _ _ _ other]
    exact State.setStr_strState _ _ _ _
  flag f r l e := s.resumed_flag m n r l e
  regs := by
    have shown : KeepsRegs s (s.setStr m { s.str m with grant := true }) resumeReg := fun r i a x _ => by
      simp only [resumeReg, Bool.or_eq_false_iff, beq_eq_false_iff_ne] at x
      obtain ⟨⟨⟨-, o⟩, w⟩, e⟩ := x
      exact s.setStr_rd m _ i a o w e
    exact ((shown.trans (KeepsRegs.wr _ _ _ _ _ rfl)).trans (KeepsRegs.wr _ _ _ _ _ rfl)).trans (KeepsRegs.quiet (Quiet.strSend _ _ _ _) _)

theorem strResume (s : State) (m : Nat) : Resumes n s (s.strResume m) := by
  by_cases h : s.mayResume m
  · rw [State.strResume_resumed h]
    exact resumed s m h.1
  · rw [State.strResume_stays h]
    exact refl s

theorem dieResume (s : State) (e : Bool) : Resumes n s (s.dieResume e) := by
  unfold State.dieResume
  refine foldl (fun s x => ?_) _ s
  exact strResume s x.1

variable {s t : State} (h : Resumes n s t)
include h

theorem strNext (m : Nat) : t.strNext m = s.strNext m := by
  rw [State.strNext, State.rd64, h.regs _ _ _ rfl rfl, h.regs _ _ _ rfl rfl, ← State.rd64, ← State.strNext]
theorem strRel (m : Nat) : t.strRel m = s.strRel m := by
  rw [State.strRel, State.rd64, h.regs _ _ _ rfl rfl, h.regs _ _ _ rfl rfl, ← State.rd64, ← State.strRel]

end Resumes

/-! ## Stops, halts and landing grants (R90, R91) -/

section

variable (s : State) (n : Nat)

theorem StrStep.strStop : StrStep s (s.strStop n) :=
  ((StrStep.setStr s n _).trans (StrStep.strSend _ _ _ _)).trans (StrStep.dieResume _ _)

theorem StrStep.strHalt {f : Fld} (h : f.reg = .ING_STRn_STATE) : StrStep s (s.strHalt n f) :=
  ((StrStep.fset s f 1 n 0 (by rw [h]; rfl)).trans (StrStep.fset _ _ _ _ _ rfl)).trans (StrStep.strStop _ n)

theorem StrStep.strLand : StrStep s (s.strLand n) := by
  unfold State.strLand
  exact StrStep.ite (StrStep.setStr s n _) (StrStep.strHalt s n rfl)

/-- The state that a stop hands to the streams that may resume. -/
def State.stopping : State := (s.setStr n { s.str n with grant := false, ackOut := true, late := false }).strSend n 1 0

theorem State.strStop_eq : s.strStop n = (s.stopping n).dieResume (decide (512 ≤ n)) := rfl

theorem State.stopping_str : (s.stopping n).str n = { s.str n with grant := false, ackOut := true, late := false } := by
  rw [State.stopping, (Quiet.strSend _ _ _ _).str, State.str_setStr_same]

theorem State.stopping_strState : (s.stopping n).strState n = s.strState n := by
  rw [State.stopping, (Quiet.strSend _ _ _ _).strState, State.setStr_strState]

/-- A stream that is not HALTED stops: it gives its grant back and awaits HALT_ACK. -/
theorem State.strStop_shows (h : s.strState n ≠ 3) : (s.strStop n).strState n = s.strState n ∧
    (s.strStop n).str n = { s.str n with grant := false, ackOut := true, late := false } := by
  have run : (s.stopping n).strState n ≠ 3 := by rwa [s.stopping_strState]
  obtain ⟨state, str⟩ := (Resumes.dieResume (n := n) (s.stopping n) (decide (512 ≤ n))).stays run
  rw [s.strStop_eq, state, str, s.stopping_strState, s.stopping_str]
  exact ⟨rfl, rfl⟩

/-- A stop leaves the flags above the state. -/
theorem State.strStop_flag {f : Fld} (hf : f.reg = .ING_STRn_STATE) (l : 4 ≤ f.lo) (e : f.lo ≤ f.hi) : (s.strStop n).fget f n = s.fget f n := by
  rw [s.strStop_eq, (Resumes.dieResume (s.stopping n) _).flag f hf l e, State.stopping, (Quiet.strSend _ _ _ _).fget _ _ _ (by rw [hf]; rfl),
    State.setStr_fget _ _ _ f _ _ (by rw [hf]; decide) (by rw [hf]; decide) (by rw [hf]; decide)]

/-- A halted stream is STOPPING, without its grant, and awaits HALT_ACK. -/
theorem State.strHalt_shows (f : Fld) : (s.strHalt n f).strState n = 2 ∧
    (s.strHalt n f).str n = { s.str n with grant := false, ackOut := true, late := false } := by
  have state : ((s.fset f 1 n).fset Fld.ING_STRn_STATE_STATE 2 n).strState n = 2 := State.strState_fset _ _ _
  obtain ⟨a, b⟩ := State.strStop_shows _ n (show ((s.fset f 1 n).fset Fld.ING_STRn_STATE_STATE 2 n).strState n ≠ 3 by rw [state]; decide)
  exact ⟨a.trans state, b.trans (by simp)⟩

/-- The flag that a halt sets. -/
theorem State.strHalt_prog : (s.strHalt n Fld.ING_STRn_STATE_HALT_PROG).fget Fld.ING_STRn_STATE_HALT_PROG n = 1 := by
  rw [State.strHalt, State.strStop_flag _ _ rfl (by decide) (by decide),
    State.strFlag_fset _ _ _ _ rfl rfl (by decide) (by decide) (by decide) (by decide), State.fget_fset_same _ _ _ _ _ (by decide) (by decide)]
  rfl

end

end Sys2Proof.Machine
end

section
/-! SUPPORT. Payload bytes and barges (R85 to R90): what landing payload puts into a stream, and what a barge that is accepted shows. -/

namespace Sys2Proof.Machine

/-! ## What a stream keeps -/

/-- The registers in which charges are shown. -/
def chargeReg : RegName → Bool := fun r => r == .ING_STRn_OCC || r == .ING_POOL_W || r == .ING_POOL_E

theorem KeepsRegs.setStr (s : State) (n : Nat) (x : StreamSt) : KeepsRegs s (s.setStr n x) chargeReg := fun r i a c _ => by
  simp only [chargeReg, Bool.or_eq_false_iff, beq_eq_false_iff_ne] at c
  obtain ⟨⟨o, w⟩, e⟩ := c
  exact s.setStr_rd n x i a o w e

/-- Registers of a stream that its later work on a barge keeps: NEXT, the release point, the gap flag, and OVERRUN once it is set. -/
structure StrKept (n : Nat) (s t : State) : Prop where
  next : t.strNext n = s.strNext n
  rel : t.strRel n = s.strRel n
  gap : t.fbit Fld.ING_STRn_STATE_IN_GAP n = s.fbit Fld.ING_STRn_STATE_IN_GAP n
  overrun : s.fget Fld.ING_STRn_STATUS_OVERRUN n = 1 → t.fget Fld.ING_STRn_STATUS_OVERRUN n = 1

namespace StrKept

variable {n : Nat}

theorem refl (s : State) : StrKept n s s := ⟨rfl, rfl, rfl, id⟩

theorem trans {s t u : State} (h : StrKept n s t) (k : StrKept n t u) : StrKept n s u :=
  ⟨k.next.trans h.next, k.rel.trans h.rel, k.gap.trans h.gap, fun x => k.overrun (h.overrun x)⟩

/-- Changes of registers other than STATE and STATUS, NEXT and the release point. -/
theorem of_regs {s t : State} {named : RegName → Bool} (h : KeepsRegs s t named)
    (c : ([.ING_STRn_NEXT_LO, .ING_STRn_NEXT_HI, .ING_STRn_REL_LO, .ING_STRn_REL_HI, .ING_STRn_STATE, .ING_STRn_STATUS] : List RegName).all
      (fun r => !named r && !loud r) = true) : StrKept n s t := by
  simp only [List.all_cons, List.all_nil, Bool.and_eq_true, Bool.not_eq_true'] at c
  obtain ⟨⟨a, -⟩, ⟨b, -⟩, ⟨c, -⟩, ⟨d, -⟩, ⟨e, -⟩, ⟨f, -⟩, -⟩ := c
  refine ⟨?_, ?_, ?_, fun x => ?_⟩
  · rw [State.strNext, State.rd64, h _ _ _ a rfl, h _ _ _ b rfl, ← State.rd64, ← State.strNext]
  · rw [State.strRel, State.rd64, h _ _ _ c rfl, h _ _ _ d rfl, ← State.rd64, ← State.strRel]
  · rw [State.fbit, h.fget _ _ _ e rfl, ← State.fbit]
  · rw [h.fget _ _ _ f rfl, x]

theorem quiet {s t : State} (h : Quiet s t) : StrKept n s t := of_regs (KeepsRegs.quiet h (fun _ => false)) rfl

theorem setStr (s : State) (m : Nat) (x : StreamSt) : StrKept n s (s.setStr m x) := of_regs (KeepsRegs.setStr s m x) rfl

/-- Setting the state or a halt flag. -/
theorem fset (s : State) {f : Fld} (v i : Nat) (hf : f.reg = .ING_STRn_STATE) (e : f.lo ≤ f.hi) (k : f.hi < 5) : StrKept n s (s.fset f v i) where
  next := by simp only [State.strNext, State.rd64, s.rd_fset_reg _ _ _ _ _ (show RegName.ING_STRn_NEXT_LO ≠ f.reg by rw [hf]; decide),
    s.rd_fset_reg _ _ _ _ _ (show RegName.ING_STRn_NEXT_HI ≠ f.reg by rw [hf]; decide)]
  rel := by simp only [State.strRel, State.rd64, s.rd_fset_reg _ _ _ _ _ (show RegName.ING_STRn_REL_LO ≠ f.reg by rw [hf]; decide),
    s.rd_fset_reg _ _ _ _ _ (show RegName.ING_STRn_REL_HI ≠ f.reg by rw [hf]; decide)]
  gap := by rw [State.fbit, s.strFlag_fset (g := Fld.ING_STRn_STATE_IN_GAP) v i n hf rfl e (by omega) (by decide) (.inr (show f.hi < 5 by omega)), ← State.fbit]
  overrun x := by rw [s.fget_fset_reg _ _ _ _ _ (show Fld.ING_STRn_STATUS_OVERRUN.reg ≠ f.reg by rw [hf]; decide), x]

/-- A hardware set of ENDED. -/
theorem ended (s : State) : StrKept n s (s.strStatus n [Fld.ING_STRn_STATUS_ENDED] []) where
  next := by simp only [State.strNext, State.rd64, State.strStatus, State.sqSet, s.rd_wr_reg _ _ _ _ _ (show RegName.ING_STRn_NEXT_LO ≠ .ING_STRn_STATUS by decide),
    s.rd_wr_reg _ _ _ _ _ (show RegName.ING_STRn_NEXT_HI ≠ .ING_STRn_STATUS by decide)]
  rel := by simp only [State.strRel, State.rd64, State.strStatus, State.sqSet, s.rd_wr_reg _ _ _ _ _ (show RegName.ING_STRn_REL_LO ≠ .ING_STRn_STATUS by decide),
    s.rd_wr_reg _ _ _ _ _ (show RegName.ING_STRn_REL_HI ≠ .ING_STRn_STATUS by decide)]
  gap := by rw [State.fbit, State.strStatus, State.sqSet, s.fget_wr_reg _ _ _ _ _ (by decide), ← State.fbit]
  overrun x := by
    rw [← x, State.strStatus, State.sqSet, State.fget, show Fld.ING_STRn_STATUS_OVERRUN.reg = .ING_STRn_STATUS from rfl, State.rd_wr_same, sqWord]
    simp only [List.foldl_cons, List.foldl_nil, sqOr]
    rw [wGet_wSet_ne _ _ (by decide) (by decide) (by decide) (by decide), wGet_wSet_ne _ _ (by decide) (by decide) (by decide) (by decide)]
    rfl

theorem resumes {s t : State} (h : Resumes n s t) : StrKept n s t where
  next := h.strNext n
  rel := h.strRel n
  gap := by rw [State.fbit, h.flag _ rfl (by decide) (by decide), ← State.fbit]
  overrun x := by rw [h.regs.fget _ _ _ rfl rfl, x]

theorem strStop (s : State) : StrKept n s (s.strStop n) := by
  rw [s.strStop_eq]
  exact ((setStr s n _).trans (quiet (Quiet.strSend _ _ _ _))).trans (resumes (Resumes.dieResume _ _))

theorem strHalt (s : State) {f : Fld} (hf : f.reg = .ING_STRn_STATE) (e : f.lo ≤ f.hi) (k : f.hi < 5) : StrKept n s (s.strHalt n f) :=
  ((fset s 1 n hf e k).trans (fset _ 2 n rfl (by decide) (by decide))).trans (strStop _)

end StrKept

/-- The bytes of a stream, its charges and its EOS are the same. -/
structure SameLoad (n : Nat) (s t : State) : Prop where
  bytes : (t.str n).bytes = (s.str n).bytes
  shared : (t.str n).shared = (s.str n).shared
  reserve : (t.str n).reserve = (s.str n).reserve

namespace SameLoad

variable {n : Nat}

theorem refl (s : State) : SameLoad n s s := ⟨rfl, rfl, rfl⟩

theorem trans {s t u : State} (h : SameLoad n s t) (k : SameLoad n t u) : SameLoad n s u :=
  ⟨k.bytes.trans h.bytes, k.shared.trans h.shared, k.reserve.trans h.reserve⟩

theorem resumes {s t : State} (h : Resumes n s t) : SameLoad n s t := by constructor <;> rw [h.str]

end SameLoad

/-! ## Freeing and landing bytes (R88, R89, R102) -/

section

variable (s : State) (n : Nat)

/-- The state of a stream after its bytes below the release point are freed. -/
def State.freedStr : StreamSt :=
  let x := s.str n
  let keep := x.bytes.filter (fun e => s.strRel n ≤ e.1 || s.pinned n e.1)
  let f := x.bytes.length - keep.length
  { x with bytes := keep, reserve := x.reserve - f, shared := x.shared - (f - x.reserve) }

theorem State.strFree_eq : s.strFree n = (s.setStr n (s.freedStr n)).dieResume (decide (512 ≤ n)) := rfl

theorem StrStep.strFree : StrStep s (s.strFree n) := by
  rw [s.strFree_eq]
  exact (StrStep.setStr s n _).trans (StrStep.dieResume _ _)

theorem StrKept.strFree : StrKept n s (s.strFree n) := by
  rw [s.strFree_eq]
  exact (StrKept.setStr s n _).trans (StrKept.resumes (Resumes.dieResume _ _))

/-- Freeing bytes of a stream that is not HALTED leaves its state. -/
theorem State.strFree_strState (h : s.strState n ≠ 3) : (s.strFree n).strState n = s.strState n := by
  rw [s.strFree_eq, ((Resumes.dieResume (n := n) (s.setStr n (s.freedStr n)) _).stays (by rwa [State.setStr_strState])).1, State.setStr_strState]

end

/-- Bytes listed at consecutive offsets. -/
def listBytes (l : List (Nat × Byte)) (o : Nat) (data : List Byte) : List (Nat × Byte) :=
  (List.range data.length).foldl (fun l i => Sparse.insert l (o + i) (data.getD i 0)) l

theorem find_listBytes (l : List (Nat × Byte)) (o : Nat) (data : List Byte) {i : Nat} (h : i < data.length) :
    Sparse.find (listBytes l o data) (o + i) = some (data.getD i 0) := by
  have upTo (m : Nat) (k : i < m) :
      Sparse.find ((List.range m).foldl (fun l i => Sparse.insert l (o + i) (data.getD i 0)) l) (o + i) = some (data.getD i 0) := by
    induction m with
    | zero => omega
    | succ m ih =>
      rw [List.range_succ, List.foldl_append, List.foldl_cons, List.foldl_nil]
      by_cases e : i = m
      · subst e
        exact Sparse.find_insert_same _ _ _
      · rw [Sparse.find_insert_ne _ _ (by omega), ih (by omega)]
  exact upTo _ h

section

variable (s : State) (n o : Nat) (data : List Byte)

/-- The bytes of a payload for which there is room: all of it in RUNNING, else what the weir holds. -/
def State.strRoom (len : Nat) : Nat := if s.strState n = 1 then len else min len (65536 - (s.str n).reserve)

theorem State.strRoom_le (len : Nat) : s.strRoom n len ≤ len := by
  unfold State.strRoom
  split
  · exact Nat.le_refl _
  · exact Nat.min_le_left _ _

/-- A stream with its payload landed. -/
def State.charged : StreamSt :=
  let x := s.str n
  let room := s.strRoom n data.length
  let bytes := listBytes x.bytes o (data.take room)
  if s.strState n = 1 then { x with bytes := bytes, shared := x.shared + room, grant := false } else { x with bytes := bytes, reserve := x.reserve + room }

/-- The payload landed, and NEXT moved past it. -/
def State.landed : State :=
  (s.setStr n (s.charged n o data)).wr64 .ING_STRn_NEXT_LO .ING_STRn_NEXT_HI (o + s.strRoom n data.length) n

/-- What does not fit sets OVERRUN. -/
theorem State.strAppend_eq : s.strAppend n o data = if s.strRoom n data.length < data.length then
    ((s.landed n o data).strStatus n [Fld.ING_STRn_STATUS_OVERRUN] []).icpEvent n 0x0804 2 n (data.length - s.strRoom n data.length)
    else s.landed n o data := rfl

/-- What landing a payload shows of its stream. -/
structure StrLanded (t : State) : Prop where
  step : StrStep s t
  state : t.strState n = s.strState n
  next : t.strNext n = (o + s.strRoom n data.length) % 2 ^ 64
  rel : t.strRel n = s.strRel n
  gap : t.fbit Fld.ING_STRn_STATE_IN_GAP n = s.fbit Fld.ING_STRn_STATE_IN_GAP n
  str : t.str n = s.charged n o data

theorem StrLanded.landed : StrLanded s n o data (s.landed n o data) where
  step := (StrStep.setStr s n _).trans (StrStep.wr64 _ _ _ _ _ _ rfl rfl)
  state := by
    rw [State.landed, State.strState, State.fget, State.wr64_rd_reg _ _ _ _ _ _ (by decide) (by decide), ← State.fget, ← State.strState,
      State.setStr_strState]
  next := State.rd64_wr64_mod _ _ _ _ (by decide)
  rel := by
    rw [State.landed, State.strRel, State.rd64_wr64_ne _ _ _ _ _ _ (by decide) (by decide) (by decide) (by decide), ← State.strRel, State.setStr_strRel]
  gap := by
    rw [State.landed, State.fbit, State.fget, State.wr64_rd_reg _ _ _ _ _ _ (by decide) (by decide), ← State.fget, ← State.fbit]
    exact (StrKept.setStr s n _).gap
  str := by rw [State.landed, State.wr64_str, State.str_setStr_same]

/-- An event and a hardware set of STATUS change none of it. -/
theorem StrLanded.noted {t : State} (h : StrLanded s n o data t) (b : List Fld) (c : Nat) {v : Nat} (p q : Nat) (hv : v ≠ 3) :
    StrLanded s n o data ((t.strStatus n b []).icpEvent n c v p q) := by
  have quiet := Quiet.icpEvent (t.strStatus n b []) n c p q hv
  have rd (r : RegName) (l : loud r = false) (e : r ≠ .ING_STRn_STATUS) (i a : Nat) :
      ((t.strStatus n b []).icpEvent n c v p q).rd r i a = t.rd r i a := by
    rw [quiet.rd r i a l, State.strStatus, State.sqSet, State.rd_wr_reg _ _ _ _ _ _ e]
  refine ⟨(h.step.trans (StrStep.strStatus _ _ _ _)).trans (StrStep.icpEvent _ _ _ _ _ hv), ?_, ?_, ?_, ?_, ?_⟩
  · rw [State.strState, State.fget, rd _ rfl (by decide), ← State.fget, ← State.strState, h.state]
  · rw [State.strNext, State.rd64, rd _ rfl (by decide), rd _ rfl (by decide), ← State.rd64, ← State.strNext, h.next]
  · rw [State.strRel, State.rd64, rd _ rfl (by decide), rd _ rfl (by decide), ← State.rd64, ← State.strRel, h.rel]
  · rw [State.fbit, State.fget, rd _ rfl (by decide), ← State.fget, ← State.fbit, h.gap]
  · rw [quiet.str, State.strStatus, State.sqSet, State.wr_str, h.str]

theorem StrLanded.strAppend : StrLanded s n o data (s.strAppend n o data) := by
  rw [s.strAppend_eq]
  split
  · exact (StrLanded.landed s n o data).noted s n o data _ _ _ _ (by decide)
  · exact StrLanded.landed s n o data

/-- A payload that does not fit sets OVERRUN (R89). -/
theorem State.strAppend_overrun (h : s.strRoom n data.length < data.length) :
    (s.strAppend n o data).fget Fld.ING_STRn_STATUS_OVERRUN n = 1 := by
  rw [s.strAppend_eq, if_pos h, (Quiet.icpEvent _ _ _ _ _ (by decide)).fget _ _ _ rfl]
  exact State.sqSet_bit _ Fld.ING_STRn_STATUS_OVERRUN _ _ rfl (by decide)

end

end Sys2Proof.Machine
end

section
/-! SUPPORT. The order of a barge (R83, R87, R90): its stages, and what each of the ways to take it shows. -/

namespace Sys2Proof.Machine

/-! ## The stages of a barge that is accepted -/

section

variable (s : State) (n o : Nat)

/-- Any gap closes. -/
def State.gapClosed : State := (s.fset Fld.ING_STRn_STATE_IN_GAP 0 n).setStr n { s.str n with rewinds := 0 }

/-- A discontinuity is recorded. -/
def State.discNoted : State :=
  ((s.setStr n { s.str n with discs := (s.str n).discs ++ [o] }).strStatus n [Fld.ING_STRn_STATUS_DISCONT] []).icpEvent n 0x0806 0 n o

/-- The stream as the payload finds it. -/
def State.bargeBegun (disc : Bool) : State := if disc then (s.gapClosed n).discNoted n o else s.gapClosed n

/-- Payload below the release point is freed. -/
def State.bargeFreed : State := if o < s.strRel n then s.strFree n else s

/-- EOS and the state it brings. -/
def State.eosSet : State :=
  (s.strStatus n [Fld.ING_STRn_STATUS_ENDED] []).setStr n { s.str n with eos := true, grant := false }

def State.eosState : State := if s.strState n = 1 ∨ s.strState n = 3 then s.fset Fld.ING_STRn_STATE_STATE 5 n else s

def State.eosTaken : State := ((s.eosSet n).eosState n).dieResume (decide (512 ≤ n))

/-- The end of a barge: EOS, or the next grant. -/
def State.bargeDone (b : List Byte) : State :=
  if bgFlag b 2 && (s.strNext n == bgOff b + bgLen b) then s.eosTaken n else if s.strState n = 1 then s.strLand n else s

/-- The payload of a barge. -/
def bgData (b : List Byte) : List Byte := (b.drop 16).take (bgLen b)

theorem State.bargeTake_eq (b : List Byte) (disc : Bool) : s.bargeTake n b disc =
    (((s.bargeBegun n (bgOff b) disc).strAppend n (bgOff b) (bgData b)).bargeFreed n (bgOff b)).bargeDone n b := by
  unfold State.bargeTake State.bargeDone State.eosTaken State.eosState State.eosSet State.bargeFreed State.bargeBegun State.gapClosed State.discNoted bgData
  with_reducible rfl

/-! ## What each stage shows -/

/-- What closing a gap and recording a discontinuity show of a stream. -/
structure BargeBegun (t : State) : Prop where
  step : StrStep s t
  state : t.strState n = s.strState n
  rel : t.strRel n = s.strRel n
  gap : t.fbit Fld.ING_STRn_STATE_IN_GAP n = false
  load : SameLoad n s t

theorem BargeBegun.gapClosed : BargeBegun s n (s.gapClosed n) where
  step := (StrStep.fset s _ _ _ _ rfl).trans (StrStep.setStr _ _ _)
  state := by rw [State.gapClosed, State.setStr_strState, State.strState_fset_flag _ _ _ _ rfl (by decide) (by decide) (by decide)]
  rel := by
    rw [State.gapClosed, State.setStr_strRel]
    simp only [State.strRel, State.rd64, s.rd_fset_reg _ _ _ _ _ (show RegName.ING_STRn_REL_LO ≠ Fld.ING_STRn_STATE_IN_GAP.reg by decide),
      s.rd_fset_reg _ _ _ _ _ (show RegName.ING_STRn_REL_HI ≠ Fld.ING_STRn_STATE_IN_GAP.reg by decide)]
  gap := by
    rw [State.gapClosed, (StrKept.setStr _ n _).gap, State.fbit, State.fget_fset_same _ _ _ _ _ (by decide) (by decide)]
    rfl
  load := by constructor <;> rw [State.gapClosed, State.str_setStr_same]

/-- A register of a stream other than STATUS and those that show charges, past a discontinuity. -/
theorem State.discNoted_rd {r : RegName} (l : loud r = false) (c : chargeReg r = false) (e : r ≠ .ING_STRn_STATUS) (i a : Nat) :
    (s.discNoted n o).rd r i a = s.rd r i a := by
  rw [State.discNoted, (Quiet.icpEvent _ _ _ _ _ (by decide)).rd r i a l, State.strStatus, State.sqSet, State.rd_wr_reg _ _ _ _ _ _ e,
    KeepsRegs.setStr s n _ r i a c l]

theorem State.discNoted_str : (s.discNoted n o).str n = { s.str n with discs := (s.str n).discs ++ [o] } := by
  rw [State.discNoted, (Quiet.icpEvent _ _ _ _ _ (by decide)).str, State.strStatus, State.sqSet, State.wr_str, State.str_setStr_same]

theorem StrStep.discNoted : StrStep s (s.discNoted n o) :=
  ((StrStep.setStr s n _).trans (StrStep.strStatus _ _ _ _)).trans (StrStep.icpEvent _ _ _ _ _ (by decide))

theorem BargeBegun.discNoted {t : State} (h : BargeBegun s n t) : BargeBegun s n (t.discNoted n o) where
  step := h.step.trans (StrStep.discNoted t n o)
  state := by rw [State.strState, State.fget, State.discNoted_rd _ _ _ rfl rfl (by decide), ← State.fget, ← State.strState, h.state]
  rel := by
    rw [State.strRel, State.rd64, State.discNoted_rd _ _ _ rfl rfl (by decide), State.discNoted_rd _ _ _ rfl rfl (by decide), ← State.rd64,
      ← State.strRel, h.rel]
  gap := by rw [State.fbit, State.fget, State.discNoted_rd _ _ _ rfl rfl (by decide), ← State.fget, ← State.fbit, h.gap]
  load := h.load.trans (by constructor <;> rw [State.discNoted_str])

theorem BargeBegun.bargeBegun (disc : Bool) : BargeBegun s n (s.bargeBegun n o disc) := by
  unfold State.bargeBegun
  split
  · exact BargeBegun.discNoted s n o (BargeBegun.gapClosed s n)
  · exact BargeBegun.gapClosed s n

/-- Landing charges see the same stream. -/
theorem BargeBegun.strRoom {t : State} (h : BargeBegun s n t) (len : Nat) : t.strRoom n len = s.strRoom n len := by
  rw [State.strRoom, State.strRoom, h.state, h.load.reserve]

theorem StrStep.bargeFreed : StrStep s (s.bargeFreed n o) := StrStep.ite (StrStep.strFree s n) (StrStep.refl s)

theorem StrKept.bargeFreed : StrKept n s (s.bargeFreed n o) := by
  unfold State.bargeFreed
  split
  · exact StrKept.strFree s n
  · exact StrKept.refl s

theorem State.bargeFreed_strState (h : s.strState n ≠ 3) : (s.bargeFreed n o).strState n = s.strState n := by
  unfold State.bargeFreed
  split
  · exact s.strFree_strState n h
  · rfl

/-- A barge at or above the release point frees nothing. -/
theorem State.bargeFreed_above (h : s.strRel n ≤ o) : s.bargeFreed n o = s := by
  unfold State.bargeFreed
  exact if_neg (by omega)

theorem StrStep.eosSet : StrStep s (s.eosSet n) := (StrStep.strStatus s _ _ _).trans (StrStep.setStr _ _ _)
theorem StrStep.eosState : StrStep s (s.eosState n) := StrStep.ite (StrStep.fset s _ _ _ _ rfl) (StrStep.refl s)
theorem StrStep.eosTaken : StrStep s (s.eosTaken n) := ((StrStep.eosSet s n).trans (StrStep.eosState _ n)).trans (StrStep.dieResume _ _)

theorem StrKept.eosTaken : StrKept n s (s.eosTaken n) := by
  have state (u : State) : StrKept n u (u.eosState n) := by
    unfold State.eosState
    split
    · exact StrKept.fset u _ _ rfl (by decide) (by decide)
    · exact StrKept.refl u
  exact (((StrKept.ended s).trans (StrKept.setStr _ n _)).trans (state _)).trans (StrKept.resumes (Resumes.dieResume _ _))

theorem State.eosSet_strState : (s.eosSet n).strState n = s.strState n := by
  rw [State.eosSet, State.setStr_strState, State.strState, State.strStatus, State.sqSet,
    State.fget_wr_reg _ (g := Fld.ING_STRn_STATE_STATE) _ _ _ _ _ (by decide), ← State.strState]

theorem State.eosState_str (u : State) : (u.eosState n).str n = u.str n := by
  unfold State.eosState
  split
  · exact State.fset_str _ _ _ _ _ _
  · rfl

theorem State.eosSet_str : (s.eosSet n).str n = { s.str n with eos := true, grant := false } := by
  rw [State.eosSet, State.str_setStr_same]

theorem SameLoad.eosTaken : SameLoad n s (s.eosTaken n) := by
  refine SameLoad.trans (t := (s.eosSet n).eosState n) ?_ (SameLoad.resumes (Resumes.dieResume _ _))
  constructor <;> rw [State.eosState_str, State.eosSet_str]

/-- EOS ends a RUNNING stream (R83). -/
theorem State.eosTaken_running (h : s.strState n = 1) : (s.eosTaken n).strState n = 5 ∧ ((s.eosTaken n).str n).eos = true := by
  have state : ((s.eosSet n).eosState n).strState n = 5 := by
    unfold State.eosState
    rw [if_pos (.inl ((s.eosSet_strState n).trans h)), State.strState_fset]
  obtain ⟨a, c⟩ := (Resumes.dieResume (n := n) ((s.eosSet n).eosState n) (decide (512 ≤ n))).stays (by rw [state]; decide)
  exact ⟨a.trans state, by rw [State.eosTaken, c, State.eosState_str, State.eosSet_str]⟩

theorem StrKept.strLand : StrKept n s (s.strLand n) := by
  unfold State.strLand
  split
  · exact StrKept.setStr s n _
  · exact StrKept.strHalt s rfl (by decide) (by decide)

theorem SameLoad.strLand : SameLoad n s (s.strLand n) := by
  unfold State.strLand
  split
  · constructor <;> rw [State.str_setStr_same]
  · constructor <;> rw [(s.strHalt_shows n _).2]

section

variable (b : List Byte)

theorem StrStep.bargeDone : StrStep s (s.bargeDone n b) :=
  StrStep.ite (StrStep.eosTaken s n) (StrStep.ite (StrStep.strLand s n) (StrStep.refl s))

theorem StrKept.bargeDone : StrKept n s (s.bargeDone n b) := by
  unfold State.bargeDone
  split
  · exact StrKept.eosTaken s n
  · split
    · exact StrKept.strLand s n
    · exact StrKept.refl s

theorem SameLoad.bargeDone : SameLoad n s (s.bargeDone n b) := by
  unfold State.bargeDone
  split
  · exact SameLoad.eosTaken s n
  · split
    · exact SameLoad.strLand s n
    · exact SameLoad.refl s

/-- A barge with EOS that is there as a whole ends a RUNNING stream. -/
theorem State.bargeDone_eos (e : bgFlag b 2 = true) (w : s.strNext n = bgOff b + bgLen b) (h : s.strState n = 1) :
    (s.bargeDone n b).strState n = 5 ∧ ((s.bargeDone n b).str n).eos = true := by
  unfold State.bargeDone
  rw [if_pos (by rw [e, w]; simp)]
  exact s.eosTaken_running n h

end

end

/-! ## A barge that is accepted -/

/-- A barge that passes its checks holds its payload. -/
theorem bgData_length {b : List Byte} (h : bargeOk b = true) : (bgData b).length = bgLen b := by
  unfold bargeOk at h
  simp only [Bool.and_eq_true, beq_iff_eq, decide_eq_true_eq] at h
  obtain ⟨⟨⟨⟨⟨⟨⟨-, -⟩, len⟩, -⟩, -⟩, -⟩, -⟩, -⟩ := h
  rw [bgData, List.length_take, List.length_drop, len, ceilTo]
  omega

theorem bgLen_pos {b : List Byte} (h : bargeOk b = true) : 0 < bgLen b := by
  unfold bargeOk at h
  simp only [Bool.and_eq_true, beq_iff_eq, decide_eq_true_eq] at h
  obtain ⟨⟨⟨⟨⟨⟨⟨pos, -⟩, -⟩, -⟩, -⟩, -⟩, -⟩, -⟩ := h
  exact pos

theorem bgData_getD (b : List Byte) {i k : Nat} (k1 : i < k) (k2 : k ≤ bgLen b) : ((bgData b).take k).getD i 0 = b.getD (16 + i) 0 := by
  rw [bgData, List.take_take, List.getD_eq_getElem?_getD, List.getElem?_take_of_lt (by omega), List.getElem?_drop, ← List.getD_eq_getElem?_getD]

/-- What taking a barge shows of its stream. -/
structure BargeTaken (s : State) (n : Nat) (b : List Byte) (t : State) : Prop where
  step : StrStep s t
  next : t.strNext n = (bgOff b + s.strRoom n (bgLen b)) % 2 ^ 64
  gap : t.fbit Fld.ING_STRn_STATE_IN_GAP n = false
  overrun : s.strRoom n (bgLen b) < bgLen b → t.fget Fld.ING_STRn_STATUS_OVERRUN n = 1
  eos : bgFlag b 2 = true → s.strState n = 1 → bgOff b + bgLen b < 2 ^ 64 → t.strState n = 5 ∧ (t.str n).eos = true
  bytes : s.strRel n ≤ bgOff b → ∀ i < s.strRoom n (bgLen b), Sparse.find (t.str n).bytes (bgOff b + i) = some (b.getD (16 + i) 0)
  charge : s.strRel n ≤ bgOff b → (t.str n).shared = (s.str n).shared + (if s.strState n = 1 then s.strRoom n (bgLen b) else 0) ∧
    (t.str n).reserve = (s.str n).reserve + (if s.strState n = 1 then 0 else s.strRoom n (bgLen b))

/-- The bytes and charges of a stream with its payload landed. -/
theorem State.charged_bytes (s : State) (n o : Nat) (data : List Byte) :
    (s.charged n o data).bytes = listBytes (s.str n).bytes o (data.take (s.strRoom n data.length)) := by
  unfold State.charged
  dsimp only
  split <;> rfl

theorem State.charged_charge (s : State) (n o : Nat) (data : List Byte) :
    (s.charged n o data).shared = (s.str n).shared + (if s.strState n = 1 then s.strRoom n data.length else 0) ∧
    (s.charged n o data).reserve = (s.str n).reserve + (if s.strState n = 1 then 0 else s.strRoom n data.length) := by
  unfold State.charged
  dsimp only
  split <;> exact ⟨rfl, rfl⟩

theorem State.bargeTaken (s : State) (n : Nat) {b : List Byte} (ok : bargeOk b = true) (disc : Bool) :
    BargeTaken s n b (s.bargeTake n b disc) := by
  have len := bgData_length ok
  have beg := BargeBegun.bargeBegun s n (bgOff b) disc
  rw [s.bargeTake_eq n b disc]
  generalize s.bargeBegun n (bgOff b) disc = u at beg ⊢
  have room := beg.strRoom s n (bgLen b)
  have land := StrLanded.strAppend u n (bgOff b) (bgData b)
  have cut := u.strAppend_overrun n (bgOff b) (bgData b)
  generalize u.strAppend n (bgOff b) (bgData b) = v at land cut ⊢
  rw [len, room] at cut
  have next : v.strNext n = (bgOff b + s.strRoom n (bgLen b)) % 2 ^ 64 := by rw [land.next, len, room]
  have kept := (StrKept.bargeFreed v n (bgOff b)).trans (StrKept.bargeDone _ n b)
  have load (h : s.strRel n ≤ bgOff b) : SameLoad n v ((v.bargeFreed n (bgOff b)).bargeDone n b) := by
    rw [v.bargeFreed_above n (bgOff b) (by rw [land.rel, beg.rel]; exact h)]
    exact SameLoad.bargeDone v n b
  refine ⟨?_, kept.next.trans next, ?_, fun h => kept.overrun (cut h), fun e h w => ?_, fun h i k => ?_, fun h => ?_⟩
  · exact (beg.step.trans land.step).trans ((StrStep.bargeFreed v n _).trans (StrStep.bargeDone _ n b))
  · rw [kept.gap, land.gap, beg.gap]
  · have run : v.strState n = 1 := by rw [land.state, beg.state, h]
    have full : s.strRoom n (bgLen b) = bgLen b := by rw [State.strRoom, if_pos h]
    refine State.bargeDone_eos _ n b e ?_ ?_
    · rw [(StrKept.bargeFreed v n (bgOff b)).next, next, full, Nat.mod_eq_of_lt w]
    · rw [v.bargeFreed_strState n _ (by rw [run]; decide), run]
  · rw [(load h).bytes, land.str, u.charged_bytes, len, room]
    have fits := s.strRoom_le n (bgLen b)
    rw [find_listBytes _ _ _ (by rw [List.length_take]; omega), bgData_getD b k fits]
  · obtain ⟨shared, reserve⟩ := u.charged_charge n (bgOff b) (bgData b)
    rw [len, room, beg.state] at shared reserve
    rw [(load h).shared, (load h).reserve, land.str, shared, reserve, beg.load.shared, beg.load.reserve]
    exact ⟨rfl, rfl⟩

end Sys2Proof.Machine
end

section
/-! SUPPORT. Arrivals and timers of the streams (R86, R87, R91, R304): what each barge, HALT_ACK and timeout shows. -/

namespace Sys2Proof.Machine

/-- What work on a stream keeps of memory, in bytes. -/
theorem StrStep.keepsMem {s t : State} (h : StrStep s t) : KeepsMem s t := fun a => by rw [State.cell, h.mem, State.cell]

theorem State.rd64_lt (s : State) (l h : RegName) (i : Nat) : s.rd64 l h i < 2 ^ 64 := by
  have low := (s.rd l i).isLt
  have high := (s.rd h i).isLt
  unfold State.rd64
  omega

/-! ## Barges (R86, R87) -/

section

variable {s : State} {k : EPort} {b : List Byte}

theorem State.barge_bad (h : bargeOk b = false) : ∃ e : Ev, e.sev ≠ 3 ∧
    s.barge k b = (s.fset Fld.ING_PORTk_CNT_BAD_BARGE (s.fget Fld.ING_PORTk_CNT_BAD_BARGE k.val + 1) k.val).event e := by
  unfold State.barge
  dsimp only
  rw [if_pos (by rw [h]; rfl)]
  exact ⟨_, show 1 ≠ 3 by decide, rfl⟩

theorem State.barge_foreign (h : bargeOk b = true)
    (f : s.strState (bgStr b) = 0 ∨ 4 ≤ s.portOwner k.val ∨ s.ownsStream (s.portOwner k.val) (bgStr b) = false) : s.barge k b =
    s.fset Fld.ING_PORTk_CNT_FOREIGN (s.fget Fld.ING_PORTk_CNT_FOREIGN k.val + 1) k.val := by
  have cond : (decide (s.strState (bgStr b) = 0) || !s.ownsStream (s.portOwner k.val) (bgStr b) || decide (4 ≤ s.portOwner k.val)) = true := by
    obtain f | f | f := f <;> simp [f]
  unfold State.barge
  dsimp only
  rw [if_neg (by rw [h]; decide), if_pos cond]

theorem State.barge_known (h : bargeOk b = true) (st : s.strState (bgStr b) ≠ 0) (o : s.portOwner k.val < 4)
    (own : s.ownsStream (s.portOwner k.val) (bgStr b) = true) : s.barge k b = s.bargeOrder (bgStr b) b := by
  have cond : ¬ (decide (s.strState (bgStr b) = 0) || !s.ownsStream (s.portOwner k.val) (bgStr b) || decide (4 ≤ s.portOwner k.val)) = true := by
    simp [st, own, o]
  unfold State.barge
  dsimp only
  rw [if_neg (by rw [h]; decide), if_neg cond]

end

section

variable (s : State) (n : Nat)

/-- A barge lands at NEXT, or past it with a discontinuity. -/
def State.bargeLands (b : List Byte) : Prop := bgOff b = s.strNext n ∨ ((bgFlag b 1 = true ∧ bgFlag b 0 = true) ∧ s.strNext n ≤ bgOff b)

/-- A gap opens: the stream asks for a rewind to NEXT (R87). -/
def State.gapAsked : State :=
  ((s.fset Fld.ING_STRn_STATE_IN_GAP 1 n).setStr n { s.str n with rewinds := 1 }).strSend n 3 (s.strNext n)

/-- And the gap is reported. -/
def State.gapOpened : State :=
  ((s.gapAsked n).strStatus n [Fld.ING_STRn_STATUS_GAP] [Fld.ING_STRn_STATUS_GAP_CNT]).icpEvent n 0x0802 1 n (s.strNext n)

variable {s n} {b : List Byte}

theorem State.bargeOrder_lands (h : s.bargeLands n b) : ∃ disc, s.bargeOrder n b = s.bargeTake n b disc := by
  unfold State.bargeOrder
  by_cases e : bgOff b = s.strNext n
  · exact ⟨_, if_pos e⟩
  · obtain ⟨⟨f1, f0⟩, le⟩ := h.resolve_left e
    exact ⟨true, (if_neg e).trans (if_pos (by simp [f1, f0, le]))⟩

theorem State.bargeOrder_below (pos : 0 < bgLen b) (h : bgOff b + bgLen b ≤ s.strNext n) :
    s.bargeOrder n b = s.strStatus n [] [Fld.ING_STRn_STATUS_DUP_CNT] := by
  unfold State.bargeOrder
  dsimp only
  rw [if_neg (by omega), if_neg (by
    have : ¬ s.strNext n ≤ bgOff b := by omega
    simp [this]), if_pos h]

/-- A barge past NEXT that does not land. -/
theorem State.bargeOrder_past (h : ¬ s.bargeLands n b) (p : s.strNext n < bgOff b + bgLen b) :
    s.bargeOrder n b = if s.fbit Fld.ING_STRn_STATE_IN_GAP n then s else s.gapOpened n := by
  have off : ¬ bgOff b = s.strNext n := fun e => h (.inl e)
  have disc : ¬ (bgFlag b 1 && bgFlag b 0 && decide (s.strNext n ≤ bgOff b)) = true := fun e => h (.inr (by simpa using e))
  unfold State.bargeOrder
  dsimp only
  rw [if_neg off, if_neg disc, if_neg (by omega)]
  rfl

end

section

variable (s : State) (n : Nat)

/-- Asking for a rewind sends REWIND to the stream's port. -/
theorem State.strSend_out (c o : Nat) : Output.towpath (s.fget Fld.ING_STRn_STATE_PORT n) c n o ∈ (s.strSend n c o).out :=
  List.mem_append_right _ (List.mem_singleton.mpr rfl)

theorem StrStep.gapAsked : StrStep s (s.gapAsked n) :=
  ((StrStep.fset s _ _ _ _ rfl).trans (StrStep.setStr _ _ _)).trans (StrStep.strSend _ _ _ _)

theorem StrStep.gapOpened : StrStep s (s.gapOpened n) :=
  ((StrStep.gapAsked s n).trans (StrStep.strStatus _ _ _ _)).trans (StrStep.icpEvent _ _ _ _ _ (by decide))

theorem State.gapAsked_out : Output.towpath (s.fget Fld.ING_STRn_STATE_PORT n) 3 n (s.strNext n) ∈ (s.gapAsked n).out := by
  have port : ((s.fset Fld.ING_STRn_STATE_IN_GAP 1 n).setStr n { s.str n with rewinds := 1 }).fget Fld.ING_STRn_STATE_PORT n =
      s.fget Fld.ING_STRn_STATE_PORT n := by
    rw [State.setStr_fget _ _ _ _ _ _ (by decide) (by decide) (by decide), s.strFlag_fset (f := Fld.ING_STRn_STATE_IN_GAP) (g := Fld.ING_STRn_STATE_PORT)
      1 n n rfl rfl (by decide) (by decide) (by decide) (.inr (by decide))]
  exact port ▸ State.strSend_out _ n 3 (s.strNext n)

theorem State.gapOpened_out : Output.towpath (s.fget Fld.ING_STRn_STATE_PORT n) 3 n (s.strNext n) ∈ (s.gapOpened n).out := by
  have told : Sends (s.gapAsked n) (s.gapOpened n) := by
    unfold State.gapOpened
    exact (Sends.of_eq (State.sqSet_out _ _ _ _ _ _)).trans (Sends.event _ _ (show 1 ≠ 3 by decide))
  exact told.mem (s.gapAsked_out n)

/-- A register of a stream past the report of a gap. -/
theorem State.gapOpened_rd {r : RegName} (l : loud r = false) (e : r ≠ .ING_STRn_STATUS) (i a : Nat) :
    (s.gapOpened n).rd r i a = (s.gapAsked n).rd r i a := by
  rw [State.gapOpened, (Quiet.icpEvent _ _ _ _ _ (by decide)).rd r i a l, State.strStatus, State.sqSet, State.rd_wr_reg _ _ _ _ _ _ e]

theorem State.gapOpened_inGap : (s.gapOpened n).fbit Fld.ING_STRn_STATE_IN_GAP n = true := by
  rw [State.fbit, State.fget, s.gapOpened_rd n rfl (by decide), ← State.fget, State.gapAsked, (Quiet.strSend _ _ _ _).fget _ _ _ rfl,
    State.setStr_fget _ _ _ _ _ _ (by decide) (by decide) (by decide), State.fget_fset_same _ _ _ _ _ (by decide) (by decide)]
  rfl

theorem State.gapOpened_status : (s.gapOpened n).fget Fld.ING_STRn_STATUS_GAP n = 1 := by
  rw [State.gapOpened, (Quiet.icpEvent _ _ _ _ _ (by decide)).fget _ _ _ rfl]
  exact State.sqSet_bit_cnt _ Fld.ING_STRn_STATUS_GAP Fld.ING_STRn_STATUS_GAP_CNT n 0 rfl (by decide) (by decide) (by decide) (by decide)

theorem State.gapOpened_next : (s.gapOpened n).strNext n = s.strNext n := by
  rw [State.strNext, State.rd64, s.gapOpened_rd n rfl (by decide), s.gapOpened_rd n rfl (by decide), ← State.rd64, ← State.strNext, State.gapAsked,
    (StrKept.quiet (Quiet.strSend _ _ _ _)).next, State.setStr_strNext]
  simp only [State.strNext, State.rd64, s.rd_fset_reg _ _ _ _ _ (show RegName.ING_STRn_NEXT_LO ≠ Fld.ING_STRn_STATE_IN_GAP.reg by decide),
    s.rd_fset_reg _ _ _ _ _ (show RegName.ING_STRn_NEXT_HI ≠ Fld.ING_STRn_STATE_IN_GAP.reg by decide)]

theorem State.gapOpened_bytes : ((s.gapOpened n).str n).bytes = (s.str n).bytes := by
  rw [State.gapOpened, (Quiet.icpEvent _ _ _ _ _ (by decide)).str, State.strStatus, State.sqSet, State.wr_str, State.gapAsked,
    (Quiet.strSend _ _ _ _).str, State.str_setStr_same]

/-- A status count of a stream rises by one, up to its width (R46). -/
theorem State.strStatus_dup : (s.strStatus n [] [Fld.ING_STRn_STATUS_DUP_CNT]).fget Fld.ING_STRn_STATUS_DUP_CNT n =
    min (s.fget Fld.ING_STRn_STATUS_DUP_CNT n + 1) 255 := by
  rw [State.strStatus, State.sqSet, State.fget, show Fld.ING_STRn_STATUS_DUP_CNT.reg = .ING_STRn_STATUS from rfl, State.rd_wr_same, sqWord]
  simp only [List.foldl_nil, List.foldl_cons, sqCount]
  rw [wGet_wSet_ne _ _ (by decide) (by decide) (by decide) (by decide), wGet_wSet_same _ _ (by decide) (by decide)]
  exact Nat.mod_eq_of_lt (by
    show min _ 255 < 256
    omega)

/-! ## Rewinds (R87) -/

/-- REWIND is sent once more. -/
def State.rewound : State := (s.setStr n { s.str n with rewinds := (s.str n).rewinds + 1 }).strSend n 3 (s.strNext n)

/-- The gap is reported as lost. -/
def State.gapLost : State := (s.setStr n { s.str n with rewinds := 4 }).icpEvent n 0x0803 2 n (s.strNext n)

variable {s n}

theorem State.rewindTimeout_again (g : s.fbit Fld.ING_STRn_STATE_IN_GAP n = true) (h : (s.str n).rewinds < 3) :
    s.rewindTimeout n = s.rewound n := by
  unfold State.rewindTimeout
  dsimp only
  rw [if_neg (by rw [g]; decide), if_pos h]
  rfl

theorem State.rewindTimeout_lost (g : s.fbit Fld.ING_STRn_STATE_IN_GAP n = true) (h : (s.str n).rewinds = 3) :
    s.rewindTimeout n = s.gapLost n := by
  unfold State.rewindTimeout
  dsimp only
  rw [if_neg (by rw [g]; decide), if_neg (by omega), if_pos h]
  rfl

theorem State.rewindTimeout_none (h : s.fbit Fld.ING_STRn_STATE_IN_GAP n = false ∨ 3 < (s.str n).rewinds) : s.rewindTimeout n = s := by
  unfold State.rewindTimeout
  dsimp only
  obtain g | r := h
  · rw [g]
    rfl
  · split
    · rfl
    · rw [if_neg (by omega), if_neg (by omega)]

variable (s n)

theorem State.rewound_shows : StrStep s (s.rewound n) ∧ ((s.rewound n).str n).rewinds = (s.str n).rewinds + 1 ∧
    Output.towpath (s.fget Fld.ING_STRn_STATE_PORT n) 3 n (s.strNext n) ∈ (s.rewound n).out := by
  refine ⟨(StrStep.setStr s n _).trans (StrStep.strSend _ _ _ _), ?_, ?_⟩
  · rw [State.rewound, (Quiet.strSend _ _ _ _).str, State.str_setStr_same]
  · have port := s.setStr_fget n { s.str n with rewinds := (s.str n).rewinds + 1 } Fld.ING_STRn_STATE_PORT n 0 (by decide) (by decide) (by decide)
    exact port ▸ State.strSend_out _ n 3 (s.strNext n)

theorem State.gapLost_shows : StrStep s (s.gapLost n) ∧ ((s.gapLost n).str n).rewinds = 4 := by
  refine ⟨(StrStep.setStr s n _).trans (StrStep.icpEvent _ _ _ _ _ (by decide)), ?_⟩
  rw [State.gapLost, (Quiet.icpEvent _ _ _ _ _ (by decide)).str, State.str_setStr_same]

/-- An event of an ICP is recorded where there is room. -/
theorem State.icpEvent_recorded (c p q : Nat) {v : Nat} (h : evRoom s.evr.buf.length v = true) :
    ∃ r ∈ (s.icpEvent n c v p q).evr.buf, r.code = c ∧ r.p1 = p % 2 ^ 64 ∧ r.p2 = q % 2 ^ 64 := by
  unfold State.icpEvent
  obtain ⟨r, mem, code, -, -, -, -, p1, p2⟩ := Recorded.event s
    { code := c, cls := 0x02, inst := b2n (decide (512 ≤ n)), sev := v,
      part := (match s.strOwner n with | some w => w.val | none => 0xFF), p1 := p, p2 := q } h
  exact ⟨r, mem, code, p1, p2⟩

/-- A lost gap is recorded (R87). -/
theorem State.gapLost_recorded (lt : n < 1024) (h : evRoom s.evr.buf.length 2 = true) :
    ∃ r ∈ (s.gapLost n).evr.buf, r.code = 0x0803 ∧ r.p1 = n ∧ r.p2 = s.strNext n := by
  obtain ⟨r, mem, code, p1, p2⟩ := State.icpEvent_recorded (s.setStr n { s.str n with rewinds := 4 }) n 0x0803 n (s.strNext n) (v := 2)
    (by rw [State.setStr_evr]; exact h)
  exact ⟨r, mem, code, p1.trans (Nat.mod_eq_of_lt (by omega)), p2.trans (Nat.mod_eq_of_lt (s.rd64_lt _ _ n))⟩

/-! ## HALT_ACK (R91) -/

/-- The stream no longer waits for HALT_ACK. -/
def State.acked : State := s.setStr n { s.str n with ackOut := false }

/-- What a HALT_ACK that is waited for does. -/
def State.ackTaken : State :=
  if (s.acked n).strState n = 6 then s.acked n
  else if ((s.acked n).str n).eos then (s.acked n).fset Fld.ING_STRn_STATE_STATE 5 n
  else ((s.acked n).fset Fld.ING_STRn_STATE_STATE 3 n).strResume n

/-- A stream waits for a HALT_ACK from a port. -/
def State.awaitsAck (k : EPort) : Prop := s.portOwner k.val < 4 ∧ s.ownsStream (s.portOwner k.val) n = true ∧
  (s.strState n = 2 ∨ s.strState n = 6) ∧ (s.str n).ackOut = true

theorem State.haltAck_eq (k : EPort) [Decidable (s.awaitsAck n k)] : s.haltAck k n =
    if s.awaitsAck n k then s.ackTaken n else s.sqSet .EUT_Ek_STATUS k.val 0 [Fld.EUT_Ek_STATUS_TP_STRAY] [] := by
  have cond : (decide (4 ≤ s.portOwner k.val) || !s.ownsStream (s.portOwner k.val) n || !((s.strState n == 2 || s.strState n == 6) && (s.str n).ackOut)) =
      !decide (s.awaitsAck n k) := by
    unfold State.awaitsAck
    rw [Bool.eq_iff_iff]
    simp
    grind
  unfold State.haltAck
  rw [cond]
  by_cases w : s.awaitsAck n k
  · rw [if_neg (by simp [w]), if_pos w]
    rfl
  · rw [if_pos (by simp [w]), if_neg w]

theorem State.acked_strState : (s.acked n).strState n = s.strState n := State.setStr_strState _ _ _ _
theorem State.acked_str : (s.acked n).str n = { s.str n with ackOut := false } := State.str_setStr_same _ _ _
theorem StrStep.acked : StrStep s (s.acked n) := StrStep.setStr s n _

theorem StrStep.ackTaken : StrStep s (s.ackTaken n) :=
  StrStep.ite (StrStep.acked s n) (StrStep.ite ((StrStep.acked s n).trans (StrStep.fset _ _ _ _ _ rfl))
    (((StrStep.acked s n).trans (StrStep.fset _ _ _ _ _ rfl)).trans (StrStep.strResume _ _)))

theorem State.ackTaken_ackOut : ((s.ackTaken n).str n).ackOut = false := by
  unfold State.ackTaken
  split
  · rw [State.acked_str]
  · split
    · rw [State.fset_str, State.acked_str]
    · rw [(Resumes.strResume (n := n) _ n).str, State.fset_str, State.acked_str]

variable {s n}

theorem State.ackTaken_closing (h : s.strState n = 6) : (s.ackTaken n).strState n = 6 := by
  have state := (s.acked_strState n).trans h
  unfold State.ackTaken
  rw [if_pos state, state]

theorem State.ackTaken_ended (h : s.strState n = 2) (e : (s.str n).eos = true) : (s.ackTaken n).strState n = 5 := by
  have state := (s.acked_strState n).trans h
  unfold State.ackTaken
  rw [if_neg (by rw [state]; decide), if_pos (by rw [State.acked_str]; exact e), State.strState_fset]

/-- A HALT_ACK without EOS leaves the stream HALTED, or running again where a program does not hold it. -/
theorem State.ackTaken_halted (h : s.strState n = 2) (e : (s.str n).eos = false) :
    (s.ackTaken n).strState n = 3 ∨ ((s.ackTaken n).strState n = 1 ∧ s.fbit Fld.ING_STRn_STATE_HALT_PROG n = false) := by
  have state := (s.acked_strState n).trans h
  have eq : s.ackTaken n = ((s.acked n).fset Fld.ING_STRn_STATE_STATE 3 n).strResume n := by
    unfold State.ackTaken
    rw [if_neg (by rw [state]; decide), if_neg (by rw [State.acked_str]; simp [e])]
  rw [eq]
  by_cases r : ((s.acked n).fset Fld.ING_STRn_STATE_STATE 3 n).mayResume n
  · rw [State.strResume_resumed r]
    obtain ⟨-, prog, -⟩ := r
    rw [State.fbit, State.strFlag_fset _ (f := Fld.ING_STRn_STATE_STATE) (g := Fld.ING_STRn_STATE_HALT_PROG) _ _ _ rfl rfl (by decide) (by decide) (by decide)
      (.inr (by decide)), State.acked, State.setStr_fget _ _ _ _ _ _ (by decide) (by decide) (by decide), ← State.fbit] at prog
    exact .inr ⟨State.resumed_strState _ n, prog⟩
  · rw [State.strResume_stays r]
    exact .inl (State.strState_fset _ _ _)

/-! ## Late HALT_ACK (R91) -/

variable (s n) in
/-- The lateness of a HALT_ACK is noted. -/
def State.lateNoted : State :=
  ((s.setStr n { s.str n with late := true }).strStatus n [Fld.ING_STRn_STATUS_ACK_LATE] []).icpEvent n 0x0805 1 n 0

theorem State.ackLate_notes (a : (s.str n).ackOut = true) (l : (s.str n).late = false) : s.ackLate n = s.lateNoted n := by
  unfold State.ackLate
  exact if_pos (by simp [a, l])

theorem State.ackLate_none (h : (s.str n).ackOut = false ∨ (s.str n).late = true) : s.ackLate n = s := by
  unfold State.ackLate
  exact if_neg (by obtain h | h := h <;> simp [h])

variable (s n)

theorem State.lateNoted_shows : StrStep s (s.lateNoted n) ∧ ((s.lateNoted n).str n).late = true ∧
    (s.lateNoted n).fget Fld.ING_STRn_STATUS_ACK_LATE n = 1 := by
  refine ⟨((StrStep.setStr s n _).trans (StrStep.strStatus _ _ _ _)).trans (StrStep.icpEvent _ _ _ _ _ (by decide)), ?_, ?_⟩
  · rw [State.lateNoted, (Quiet.icpEvent _ _ _ _ _ (by decide)).str, State.strStatus, State.sqSet, State.wr_str, State.str_setStr_same]
  · rw [State.lateNoted, (Quiet.icpEvent _ _ _ _ _ (by decide)).fget _ _ _ rfl]
    exact State.sqSet_bit _ Fld.ING_STRn_STATUS_ACK_LATE _ _ rfl (by decide)

end

/-! ## ADAPTER_INFO (R304) -/

/-- The adapter register's word. -/
theorem wGet_ofNat (v hi lo : Nat) : wGet (BitVec.ofNat 32 v) hi lo = v % 2 ^ 32 / 2 ^ lo % 2 ^ (hi + 1 - lo) := by
  rw [wGet, BitVec.toNat_ofNat, bitsOf]

theorem adapterWord (ddr flash : Nat) (second : Bool) :
    let w := min ddr 4096 + b2n second * 2 ^ 13 + 2 ^ 14 + min flash 0xFFFF * 2 ^ 16
    wGet (BitVec.ofNat 32 w) 12 0 = min ddr 4096 ∧ wGet (BitVec.ofNat 32 w) 14 14 = 1 := by
  have two : b2n second ≤ 1 := by cases second <;> decide
  constructor
  · rw [wGet_ofNat]
    omega
  · rw [wGet_ofNat]
    omega

end Sys2Proof.Machine
end

section
/-! SUPPORT. Commands that end beside others (R84): what a running command rests on, and a list of commands that end together. -/

namespace Sys2Proof.Machine

open Sys2Proof.Safety

/-! ## What a running command rests on -/

/-- The registers of the streams are none of those that admission and the regulators read. -/
theorem StrStep.liveObjs {s t : State} (h : StrStep s t) : t.liveObjs = s.liveObjs := by
  simp only [State.liveObjs, h.regs.fget _ _ _ (show strReg Fld.TIER_CFG_MODE.reg = false from rfl) rfl, h.tier]

theorem StrStep.resolve {s t : State} (h : StrStep s t) (a u : Nat) (w : Bool) : t.resolve a u w = s.resolve a u w := by
  rw [State.resolve, h.liveObjs, State.resolve]

theorem StrStep.cmdStacks {s t : State} (h : StrStep s t) (c : Cmd) : t.cmdStacks c = s.cmdStacks c := by
  simp only [State.cmdStacks, h.resolve]

theorem StrStep.live {s t : State} (h : StrStep s t) : t.live = s.live := by
  rw [State.live, State.ready, State.bootState, h.regs.fget _ _ _ rfl rfl, h.pwr, State.live, State.ready, State.bootState]

theorem StrStep.tierReady {s t : State} (h : StrStep s t) (p : Part) (q : Nat) (c : Cmd) : t.tierReady p q c = s.tierReady p q c := by
  simp only [State.tierReady, State.needsPromotion, State.cmdUnits, State.maskArrays, h.tier,
    h.regs.fget _ _ _ (show strReg Fld.TIER_CFG_MODE.reg = false from rfl) rfl, h.regs.fget _ _ _ (show strReg Fld.CMD_Qn_CTRL_ARRAY_MASK.reg = false from rfl) rfl]

theorem StrStep.windowFull {s t : State} (h : StrStep s t) (n : Quad) (c : Fin 5) : t.windowFull n c = s.windowFull n c := by
  simp only [State.windowFull, State.totalPct, h.hbm, h.pwr, h.regs.fget _ _ _ (show strReg Fld.HBM_REGc_Sn_CAP_PCT.reg = false from rfl) rfl,
    h.regs.fget _ _ _ (show strReg Fld.HBM_STACKn_TEMP_STATE.reg = false from rfl) rfl,
    h.regs.fget _ _ _ (show strReg Fld.HBM_THERM_CFG_HOT_BW_PCT.reg = false from rfl) rfl]
  rfl

theorem StrStep.granted {s t : State} (h : StrStep s t) (p : Part) (n : Quad) : t.granted p n = s.granted p n := by
  simp only [State.granted, State.overShare, State.wantsStack, h.windowFull, h.hbm, h.queues, h.cmdStacks,
    h.regs.fget _ _ _ (show strReg Fld.HBM_REGc_Sn_WEIGHT.reg = false from rfl) rfl]

/-- Work on streams leaves every command as runnable as it was. -/
theorem StrStep.running {s t : State} (h : StrStep s t) (r : CmdRef) (op : Nat) : t.running r op = s.running r op := by
  have granted (p : Part) : t.granted p = s.granted p := funext (h.granted p)
  simp only [State.running, State.bandwidth, State.cmdAt_congr h.queues, h.live, h.tierReady, h.cmdStacks, granted]
  rfl

/-! ## One command that ends beside another (R160) -/

theorem Sparse.mem_set {α : Type} [DecidableEq α] {d : α} {l : List (Nat × α)} {a : Nat} {x : α} {e : Nat × α} (h : e ∈ Sparse.set d l a x) :
    e = (a, x) ∨ e ∈ l := by
  unfold Sparse.set at h
  split at h
  · exact .inr (Sparse.mem_erase h)
  · exact Sparse.mem_insert h

theorem Sparse.mem_of_find {α : Type} {l : List (Nat × α)} {a : Nat} {x : α} (h : Sparse.find l a = some x) : (a, x) ∈ l := by
  induction l with
  | nil => cases h
  | cons e l ih =>
    obtain ⟨k, v⟩ := e
    rw [Sparse.find] at h
    split at h
    next key =>
      subst key
      rw [Option.some.inj h]
      exact List.mem_cons_self
    · exact List.mem_cons_of_mem _ (ih h)

/-- A command of a queue is one of those listed. -/
theorem State.mem_queues {s : State} {p q : Nat} {c : Cmd} (h : c ∈ (s.queue p q).cmds) : ∃ x, (p * 64 + q, x) ∈ s.queues ∧ c ∈ x.cmds := by
  rw [State.queue, Sparse.get] at h
  cases e : Sparse.find s.queues (p * 64 + q) with
  | none => rw [e] at h; cases h
  | some x => rw [e] at h; exact ⟨x, Sparse.mem_of_find e, h⟩

section

variable (s : State) (r : CmdRef) (c : Cmd)

/-- A command that ends leaves no partition with more to wait for at a stack. -/
theorem State.wantsStack_finish {p : Nat} {n : Quad} (h : (s.finish r c).wantsStack p n = true) : s.wantsStack p n = true := by
  have reach (d : Cmd) : (s.finish r c).cmdStacks d = s.cmdStacks d := rfl
  simp only [State.wantsStack, List.any_eq_true, Bool.and_eq_true, reach] at h ⊢
  obtain ⟨e, mem, part, d, cmd, wants⟩ := h
  obtain rfl | old := Sparse.mem_set mem
  · obtain ⟨old, listed, same⟩ := List.mem_map.mp cmd
    split at same
    · subst same
      simp at wants
    · subst same
      obtain ⟨x, entry, cmds⟩ := State.mem_queues listed
      exact ⟨_, entry, part, _, cmds, wants⟩
  · exact ⟨e, old, part, d, cmd, wants⟩

theorem State.granted_finish {p : Part} {n : Quad} (h : s.granted p n = true) : (s.finish r c).granted p n = true := by
  have full (k : Fin 5) : (s.finish r c).windowFull n k = s.windowFull n k := rfl
  have beside (a b : Fin 5) : (s.finish r c).overShare n a b = s.overShare n a b := rfl
  simp only [State.granted, full, beside, Bool.and_eq_true, Bool.not_eq_true', List.any_eq_false] at h ⊢
  obtain ⟨room, others⟩ := h
  exact ⟨room, fun o m w => others o m ⟨w.1, s.wantsStack_finish r c w.2⟩⟩

theorem State.bandwidth_finish {p : Part} {d : Cmd} (h : s.bandwidth p d = true) : (s.finish r c).bandwidth p d = true := by
  have reach : (s.finish r c).cmdStacks d = s.cmdStacks d := rfl
  simp only [State.bandwidth, reach, List.all_eq_true] at h ⊢
  exact fun n m => s.granted_finish r c (h n m)

variable {s r c}

/-- A command keeps its place where another command ends. -/
theorem State.cmdAt_finish_ne {k : CmdRef} (slot : c.slot = r.slot) (h : k ≠ r) :
    (s.finish r c).cmdAt k.part.val k.queue.val k.slot = s.cmdAt k.part.val k.queue.val k.slot := by
  by_cases place : k.part = r.part ∧ k.queue = r.queue
  · have other : k.slot ≠ r.slot := fun e => h (by
      cases k; cases r
      simp only [CmdRef.mk.injEq]
      exact ⟨place.1, place.2, e⟩)
    rw [State.finish, place.1, place.2]
    exact State.cmdAt_setCmd_ne _ _ _ _ (by
      show k.slot ≠ c.slot
      rw [slot]; exact other)
  · have key : k.part.val * 64 + k.queue.val ≠ r.part.val * 64 + r.queue.val := fun e => place ⟨Fin.ext (by omega), Fin.ext (by omega)⟩
    rw [State.cmdAt, State.finish, State.setCmd, State.queue_setQueue_ne _ _ key, State.cmdAt]

/-- What running says, one way. -/
theorem State.running_iff {op : Nat} {d : Cmd} : s.running r op = some d ↔ s.cmdAt r.part.val r.queue.val r.slot = some d ∧ d.phase = .running ∧
    cOpcode d = op ∧ d.finished = false ∧ d.fail = 0 ∧ d.stop = 0 ∧ s.live = true ∧ s.tierReady r.part r.queue.val d = true ∧
    s.bandwidth r.part d = true := by
  unfold State.running
  cases s.cmdAt r.part.val r.queue.val r.slot with
  | none => simp
  | some e =>
    dsimp only
    split
    next h =>
      constructor
      · intro k
        cases k
        exact ⟨rfl, h⟩
      · exact fun k => k.1
    next h =>
      constructor
      · intro k
        cases k
      · rintro ⟨same, k⟩
        cases same
        exact absurd k h

/-- A running command goes on running where another one ends. -/
theorem State.running_finish_ne {k : CmdRef} {op : Nat} {d : Cmd} (slot : c.slot = r.slot) (ne : k ≠ r) (h : s.running k op = some d) :
    (s.finish r c).running k op = some d := by
  rw [State.running_iff] at h ⊢
  obtain ⟨at_, phase, code, fin, ok, stop, live, tier, band⟩ := h
  exact ⟨(State.cmdAt_finish_ne slot ne).trans at_, phase, code, fin, ok, stop, live, tier, s.bandwidth_finish r c band⟩

end

/-! ## A list of commands that end together (R84) -/

/-- A command ends where it runs. -/
def State.finishRun (s : State) (op : Nat) (r : CmdRef) : State := match s.running r op with | some d => s.finish r d | none => s

section

variable {op : Nat}

theorem State.finishRun_running {s : State} {r : CmdRef} {d : Cmd} (h : s.running r op = some d) : s.finishRun op r = s.finish r d := by
  rw [State.finishRun, h]

theorem CmdEnded.finishRun_same {s : State} {r : CmdRef} {d : Cmd} (h : s.running r op = some d) : CmdEnded (s.finishRun op r) r 0 := by
  obtain ⟨at_, -, ok⟩ := State.running_some h
  rw [State.finishRun_running h]
  exact CmdEnded.finish at_ (State.cmdAt_slot at_) ok

/-- A command that has ended stays so. -/
theorem CmdEnded.finishRun {s : State} {k : CmdRef} {st : Nat} (h : CmdEnded s k st) (r : CmdRef) : CmdEnded (s.finishRun op r) k st := by
  cases run : s.running r op with
  | none => rw [State.finishRun, run]; exact h
  | some d =>
    obtain ⟨e, at_, fin, fail⟩ := h
    have place := State.running_iff.mp run
    have ne : k ≠ r := by
      rintro rfl
      obtain ⟨found, -, -, unfin, -⟩ := place
      rw [at_] at found
      cases found
      rw [fin] at unfin
      cases unfin
    rw [State.finishRun_running run]
    exact ⟨e, (State.cmdAt_finish_ne (State.cmdAt_slot place.1) ne).trans at_, fin, fail⟩

theorem CmdEnded.finishRuns {s : State} {k : CmdRef} {st : Nat} (h : CmdEnded s k st) (l : List CmdRef) :
    CmdEnded (l.foldl (fun s r => s.finishRun op r) s) k st := by
  induction l generalizing s with
  | nil => exact h
  | cons r l ih => exact ih (CmdEnded.finishRun h r)

/-- Every listed command that runs ends. -/
theorem CmdEnded.of_finishRuns (l : List CmdRef) {s : State} {k : CmdRef} {d : Cmd} (m : k ∈ l) (h : s.running k op = some d) :
    CmdEnded (l.foldl (fun s r => s.finishRun op r) s) k 0 := by
  induction l generalizing s with
  | nil => cases m
  | cons r l ih =>
    rw [List.foldl_cons]
    by_cases e : k = r
    · subst e
      exact CmdEnded.finishRuns (CmdEnded.finishRun_same h) l
    · refine ih ((List.mem_cons.mp m).resolve_left e) ?_
      cases run : s.running r op with
      | none => rw [State.finishRun, run]; exact h
      | some c =>
        rw [State.finishRun_running run]
        exact State.running_finish_ne (State.cmdAt_slot (State.running_some run).1) e h

/-- Commands that end change what setting a command changes. -/
theorem State.finishRuns_keeps {α : Type} (g : State → α) (h : ∀ t p q c, g (State.setCmd t p q c) = g t) (l : List CmdRef) (s : State) :
    g (l.foldl (fun s r => s.finishRun op r) s) = g s := by
  refine foldl_keep _ _ g (fun t r => ?_) s
  unfold State.finishRun
  split
  · exact h _ _ _ _
  · rfl

end

/-! ## The end of a command leaves the streams (R56, R84) -/

section

variable (s : State) (p : Part) (q : Nat) (c : Cmd) (st e : Nat)

theorem State.signalled_ing : (s.signalled p.val q c st).ing = s.ing := by
  have put : (s.putFirst p.val q c st).ing = s.ing := by
    unfold State.putFirst State.putStatus
    dsimp only
    split
    · split
      · exact (Written.writeAs _ _ _ _).ing
      · rfl
    · rfl
  unfold State.signalled State.lockAdd
  dsimp only
  split
  · split
    · rw [State.wr_ing, put]
    · rw [(QuietFail.event _ _).ing, State.sqSet_ing, State.wr_ing, put]
  · exact put

theorem State.noteFailure_ing (n : Nat) : (s.noteFailure p.val q n st).ing = s.ing := by
  unfold State.noteFailure
  dsimp only
  split_ifs <;> simp

theorem State.debit_ing (h : Nat) : (s.debit p q h e).ing = s.ing := by
  have settled : (s.settle p h e).ing = s.ing := by
    unfold State.settle
    split <;> rfl
  rw [State.debit_eq]
  simp [settled]

theorem State.noted_ing : (s.noted p q c st e).ing = s.ing := by
  rw [(Quiet.noted s p q c st e).ing, State.retire_eq, State.takeDue_keeps State.ing (fun t p f => t.modRcv_ing p f), State.passed, State.wr_ing,
    State.setQueue_ing, State.settled, State.setCmd_ing, State.debit_ing, State.noteFailure_ing, State.signalled_ing]

/-- The end of a command changes no stream, decode, buffer or pool. -/
theorem State.complete_ing : (s.complete p q c st e).ing = s.ing := by
  have aborted (t : State) : (t.endAbort p.val q).ing = t.ing := by
    rw [State.endAbort_eq]
    split
    · rw [State.emptied, State.fset_ing, State.sqSet_ing, State.wr_ing, State.setQueue_ing]
    · rfl
  have stopped (t : State) : (t.noteStopped p.val q).ing = t.ing := by
    unfold State.noteStopped
    split <;> simp
  refine s.complete_tail p q c st e (P := fun t => t.ing = s.ing) ?_ ?_
  · rw [aborted, State.noted_ing]
  · rw [stopped, aborted, State.noted_ing]

/-- The DECODEs that a CLOSE ends leave every stream as it is. -/
theorem State.closeDecodes_ing (n : Nat) : (s.closeDecodes p n q).ing = s.ing := by
  have ended (l : List Cmd) (u : State) : (l.foldl (fun (s : State) c => if (c.phase == .admitting || c.phase == .waiting) && c.firstOk &&
      c.readable == 0 && c.decodes n then s.complete p q c 0x0802 0 else s) u).ing = u.ing := by
    refine foldl_keep _ _ State.ing (fun t x => ?_) u
    split
    · exact t.complete_ing p q x _ _
    · rfl
  unfold State.closeDecodes
  extract_lets t x
  split
  · exact ended _ s
  · rw [State.setQueue_ing]
    exact ended _ s

end

end Sys2Proof.Machine
end

section
/-! SUPPORT. STREAM and the end of a CLOSE (R81 to R84): what each ACTION shows, by the state of its stream. -/

namespace Sys2Proof.Machine

open Sys2Proof.Safety

/-! ## The end of a STREAM -/

section

variable {s t : State} {r : CmdRef} {c : Cmd} {op : Nat}

/-- A STREAM that has done its work on the streams ends well. -/
theorem StrStep.finish (h : StrStep s t) (run : s.running r op = some c) :
    CmdEnded (t.finish r c) r 0 ∧ KeepsMem s (t.finish r c) ∧ KeepsRegs s (t.finish r c) strReg := by
  obtain ⟨at_, -, ok⟩ := State.running_some run
  have place : t.cmdAt r.part.val r.queue.val r.slot = some c := (State.cmdAt_congr h.queues _ _ _).trans at_
  refine ⟨CmdEnded.finish place (State.cmdAt_slot at_) ok, h.keepsMem, h.regs.trans (KeepsRegs.of_rf ?_ _)⟩
  exact State.setCmd_rf _ _ _ _

theorem CmdEnded.failRun_running (run : s.running r op = some c) (st : Nat) :
    CmdEnded (s.failRun r c st) r st ∧ s.failRun r c st = { s with queues := (s.failRun r c st).queues } := by
  obtain ⟨at_, -, -⟩ := State.running_some run
  exact ⟨CmdEnded.failRun at_ (State.cmdAt_slot at_) st, rfl⟩

theorem State.finish_fget (f : Fld) (i a : Nat) : (s.finish r c).fget f i a = s.fget f i a := by
  simp only [State.fget, State.finish, State.setCmd_rd]

theorem State.finish_strState (n : Nat) : (s.finish r c).strState n = s.strState n := State.finish_fget _ _ _
theorem State.finish_str (n : Nat) : (s.finish r c).str n = s.str n := by rw [State.str, State.finish, State.setCmd_ing, State.str]
theorem State.finish_strNext (n : Nat) : (s.finish r c).strNext n = s.strNext n := by
  simp only [State.strNext, State.rd64, State.finish, State.setCmd_rd]
theorem State.finish_strRel (n : Nat) : (s.finish r c).strRel n = s.strRel n := by
  simp only [State.strRel, State.rd64, State.finish, State.setCmd_rd]

end

/-! ## OPEN (R83) -/

section

variable (s : State) (n : Nat) (b : List Byte)

/-- A stream set up at its offset. -/
def State.strSet : State :=
  let f (o k : Nat) : Nat := fieldAt b (64 + o) k
  let u := s.setStr n { strIdle with cap := f 4 4, mark := f 8 4, stall := f 12 4, film := bitOf (f 2 2) 0 }
  ((u.wr .ING_STRn_STATE n 0 (BitVec.ofNat 32 (3 + f 1 1 * 2 ^ 6 + f 0 1 * 2 ^ 8))).wr64 .ING_STRn_NEXT_LO .ING_STRn_NEXT_HI (f 16 8) n).wr64
    .ING_STRn_REL_LO .ING_STRn_REL_HI (f 16 8) n

theorem State.strOpen_eq : s.strOpen n b = if (s.strSet n b).grantOk n then ((s.strSet n b).restarted n).strSend n 2 (fieldAt b 80 8)
    else (s.strSet n b).fset Fld.ING_STRn_STATE_HALT_WHARF 1 n := by
  unfold State.strOpen State.strSet State.restarted
  with_reducible rfl

/-- What OPEN shows. -/
structure StrOpened (t : State) : Prop where
  step : StrStep s t
  next : t.strNext n = fieldAt b 80 8
  rel : t.strRel n = fieldAt b 80 8
  state : t.strState n = 1 ∨ t.strState n = 3

theorem StrOpened.strSet : StrOpened s n b (s.strSet n b) where
  step := (((StrStep.setStr s n _).trans (StrStep.wr _ _ _ _ _ rfl)).trans (StrStep.wr64 _ _ _ _ _ _ rfl rfl)).trans (StrStep.wr64 _ _ _ _ _ _ rfl rfl)
  next := by
    rw [State.strSet, State.strNext, State.rd64_wr64_ne _ _ _ _ _ _ (by decide) (by decide) (by decide) (by decide)]
    exact State.rd64_wr64_same _ _ _ _ (by decide) (fieldAt_lt b 80 8)
  rel := State.rd64_wr64_same _ _ _ _ (by decide) (fieldAt_lt b 80 8)
  state := by
    right
    rw [State.strSet, State.strState, State.fget, State.wr64_rd_reg _ _ _ _ _ _ (by decide) (by decide), State.wr64_rd_reg _ _ _ _ _ _ (by decide) (by decide)]
    rw [show Fld.ING_STRn_STATE_STATE.reg = .ING_STRn_STATE from rfl, State.rd_wr_same, wGet_ofNat]
    show (3 + fieldAt b (64 + 1) 1 * 2 ^ 6 + fieldAt b (64 + 0) 1 * 2 ^ 8) % 2 ^ 32 / 2 ^ 0 % 2 ^ (2 + 1 - 0) = 3
    omega

theorem StrOpened.kept {t u : State} (h : StrOpened s n b t) (step : StrStep t u) (kept : StrKept n t u) (state : u.strState n = 1 ∨ u.strState n = t.strState n) :
    StrOpened s n b u where
  step := h.step.trans step
  next := kept.next.trans h.next
  rel := kept.rel.trans h.rel
  state := state.elim .inl fun e => e ▸ h.state

theorem StrOpened.strOpen : StrOpened s n b (s.strOpen n b) := by
  have set := StrOpened.strSet s n b
  rw [s.strOpen_eq n b]
  generalize s.strSet n b = t at set ⊢
  split
  · refine set.kept s n b (((StrStep.setStr t n _).trans (StrStep.fset _ _ _ _ _ rfl)).trans (StrStep.strSend _ _ _ _))
      (((StrKept.setStr t n _).trans (StrKept.fset _ _ _ rfl (by decide) (by decide))).trans (StrKept.quiet (Quiet.strSend _ _ _ _))) (.inl ?_)
    rw [(Quiet.strSend _ _ _ _).strState, State.restarted, State.strState_fset]
  · exact set.kept s n b (StrStep.fset _ _ _ _ _ rfl) (StrKept.fset _ _ _ rfl (by decide) (by decide))
      (.inr (State.strState_fset_flag _ _ _ _ rfl (by decide) (by decide) (by decide)))

end

/-! ## HALT and RESUME (R90, R92, R93) -/

section

variable {s : State} {n : Nat}

theorem State.strProg_running (h : s.strState n = 1) : s.strProg n = s.strHalt n Fld.ING_STRn_STATE_HALT_PROG := by
  unfold State.strProg
  exact if_pos h

theorem State.strProg_halting (h : s.strState n = 2 ∨ s.strState n = 3) : s.strProg n = s.fset Fld.ING_STRn_STATE_HALT_PROG 1 n := by
  unfold State.strProg
  rw [if_neg (by omega), if_pos h]

theorem State.strProg_ended (h : 4 ≤ s.strState n) : s.strProg n = s := by
  unfold State.strProg
  rw [if_neg (by omega), if_neg (by omega)]

/-- A flag that is set. -/
theorem State.fbit_fset_prog (s : State) (n v : Nat) : (s.fset Fld.ING_STRn_STATE_HALT_PROG v n).fbit Fld.ING_STRn_STATE_HALT_PROG n = (v % 2 == 1) := by
  rw [State.fbit, State.fget_fset_same _ _ _ _ _ (by decide) (by decide)]
  rfl

/-- RESUME clears HALT_PROG. -/
def State.freed (s : State) (n : Nat) : State := s.fset Fld.ING_STRn_STATE_HALT_PROG 0 n

theorem State.freed_strState : (s.freed n).strState n = s.strState n :=
  State.strState_fset_flag _ _ _ _ rfl (by decide) (by decide) (by decide)
theorem State.freed_prog : (s.freed n).fbit Fld.ING_STRn_STATE_HALT_PROG n = false := s.fbit_fset_prog n 0
theorem State.freed_str : (s.freed n).str n = s.str n := State.fset_str _ _ _ _ _ _
theorem State.freed_grantOk : (s.freed n).grantOk n = s.grantOk n := by
  simp only [State.grantOk, State.dieCharge, State.freed, State.fset_ing, State.fset_str]
  rfl

/-- Freed of its program, a stream may resume where it is HALTED with its weir empty, below its mark, and a grant is free. -/
theorem State.freed_mayResume : (s.freed n).mayResume n ↔ s.strState n = 3 ∧ (s.str n).reserve = 0 ∧ (s.str n).shared ≤ (s.str n).mark * 1024 ∧
    s.grantOk n = true := by
  rw [State.mayResume, s.freed_strState, s.freed_prog, s.freed_str, s.freed_grantOk]
  tauto

theorem StrStep.freed : StrStep s (s.freed n) := StrStep.fset _ _ _ _ _ rfl

/-- A resumed stream keeps HALT_PROG clear. -/
theorem State.resumed_prog (h : s.fbit Fld.ING_STRn_STATE_HALT_PROG n = false) : (s.resumed n).fbit Fld.ING_STRn_STATE_HALT_PROG n = false := by
  rw [State.fbit, s.resumed_flag n n rfl (by decide) (by decide), ← State.fbit, h]

end

/-! ## CLOSE (R84) -/

section

variable (s : State) (n : Nat) (r : CmdRef)

/-- The stream of a CLOSE is CLOSING, and its CLOSE waits. -/
theorem State.strClose_shows : (s.strClose n r).strState n = 6 ∧ ((s.strClose n r).str n).closers = (s.str n).closers ++ [r] := by
  have decodes : ((List.range 64).foldl (fun s q => s.closeDecodes r.part n q) s).ing = s.ing :=
    foldl_keep _ _ State.ing (fun t q => t.closeDecodes_ing r.part q n) s
  unfold State.strClose
  extract_lets u v
  have closers : (v.str n).closers = (s.str n).closers := by
    have same : (u.str n).closers = (s.str n).closers := by rw [State.str, decodes, State.str]
    show ((if u.strState n = 1 then u.strStop n else u).str n).closers = _
    split
    next run => rw [(u.strStop_shows n (by rw [run]; decide)).2, same]
    · exact same
  exact ⟨State.strState_fset _ _ _, by rw [State.fset_str, State.str_setStr_same, closers]⟩

end

/-! ## What STREAM does (R81) -/

section

variable {s : State} {r : CmdRef} {c : Cmd}

theorem exec_stream (run : s.running r 0x40 = some c) : exec (.stream r) s = .next (s.stream r c) := by
  show execStream r s = _
  rw [execStream, run]

theorem exec_stream_none (run : s.running r 0x40 = none) : exec (.stream r) s = .next s := by
  show execStream r s = _
  rw [execStream, run]

theorem State.stream_closing (h : (s.str (stStr c)).closers.contains r = true) : s.stream r c = s := by
  unfold State.stream
  exact if_pos h

variable (new : (s.str (stStr c)).closers.contains r = false)
include new

/-- OPEN is for a CLOSED stream, every other ACTION for one that is not. -/
theorem State.stream_misfit (h : (stAct c = 0 ∧ s.strState (stStr c) ≠ 0) ∨ (stAct c ≠ 0 ∧ s.strState (stStr c) = 0)) :
    s.stream r c = s.failRun r c 0x0802 := by
  unfold State.stream
  dsimp only
  rw [if_neg (by rw [new]; decide), if_pos (by obtain ⟨a, b⟩ | ⟨a, b⟩ := h <;> simp [a, b])]

theorem State.stream_open (act : stAct c = 0) (st : s.strState (stStr c) = 0) : s.stream r c = (s.strOpen (stStr c) c.bytes).finish r c := by
  unfold State.stream
  dsimp only
  rw [if_neg (by rw [new]; decide), if_neg (by simp [act, st])]
  simp only [act]

theorem State.stream_halt (act : stAct c = 1) (st : s.strState (stStr c) ≠ 0) : s.stream r c = (s.strProg (stStr c)).finish r c := by
  unfold State.stream
  dsimp only
  rw [if_neg (by rw [new]; decide), if_neg (by simp [act, st])]
  simp only [act]

theorem State.stream_resume (act : stAct c = 2) (st : s.strState (stStr c) ≠ 0) :
    s.stream r c = ((s.freed (stStr c)).strResume (stStr c)).finish r c := by
  unfold State.stream
  dsimp only
  rw [if_neg (by rw [new]; decide), if_neg (by simp [act, st])]
  simp only [act, State.freed]

theorem State.stream_close (act : stAct c = 3) (st : s.strState (stStr c) ≠ 0) : s.stream r c = s.strClose (stStr c) r := by
  unfold State.stream
  dsimp only
  rw [if_neg (by rw [new]; decide), if_neg (by simp [act, st])]
  simp only [act]

end

/-! ## STREAM_CLOSED (R84) -/

section

variable (s : State) (n : Nat)

/-- A stream without its bytes, charges and state. -/
def State.strCleared : State := (s.setStr n strIdle).wr .ING_STRn_STATE n 0 0

theorem StrStep.strCleared : StrStep s (s.strCleared n) := (StrStep.setStr s n _).trans (StrStep.wr _ _ _ _ _ rfl)

/-- Its CLOSE commands end. -/
def State.closersEnded : State := (s.str n).closers.foldl (fun s r => s.finishRun 0x40 r) (s.strCleared n)

theorem State.strClosed_eq (h : s.strState n = 6) (d : s.decodeStarted n = false) (a : (s.str n).ackOut = false) :
    s.strClosed n = (s.closersEnded n).dieResume (decide (512 ≤ n)) := by
  unfold State.strClosed State.closersEnded State.strCleared State.finishRun
  exact if_pos ⟨h, d, a⟩

theorem State.strClosed_none (h : s.strState n ≠ 6 ∨ s.decodeStarted n = true ∨ (s.str n).ackOut = true) : s.strClosed n = s := by
  unfold State.strClosed
  exact if_neg (by rintro ⟨a, b, c⟩; simp [a, b, c] at h)

theorem State.closersEnded_rf : (s.closersEnded n).rf = (s.strCleared n).rf := State.finishRuns_keeps State.rf State.setCmd_rf _ _
theorem State.closersEnded_ing : (s.closersEnded n).ing = (s.strCleared n).ing := State.finishRuns_keeps State.ing State.setCmd_ing _ _
theorem State.closersEnded_mem : (s.closersEnded n).mem = (s.strCleared n).mem := State.finishRuns_keeps State.mem State.setCmd_mem _ _

theorem State.strState_of_rf {s t : State} (h : t.rf = s.rf) (n : Nat) : t.strState n = s.strState n :=
  (KeepsRegs.of_rf h (fun _ => false)).fget _ _ _ rfl rfl

theorem State.str_of_ing {s t : State} (h : t.ing = s.ing) (n : Nat) : t.str n = s.str n := by rw [State.str, h, State.str]

theorem State.closersEnded_shows : (s.closersEnded n).strState n = 0 ∧ (s.closersEnded n).str n = strIdle := by
  have state : (s.strCleared n).strState n = 0 := by
    rw [State.strState, State.fget, State.strCleared, show Fld.ING_STRn_STATE_STATE.reg = .ING_STRn_STATE from rfl, State.rd_wr_same]
    rfl
  have str : (s.strCleared n).str n = strIdle := by rw [State.strCleared, State.wr_str, State.str_setStr_same]
  exact ⟨(State.strState_of_rf (s.closersEnded_rf n) n).trans state,
    (State.str_of_ing (s.closersEnded_ing n) n).trans str⟩

end

end Sys2Proof.Machine
end

section
/-! Streams, barges and adapters (O55). -/

namespace Sys2Proof.Machine

open Sys2Proof.Safety

/-! ## STREAM, clause by clause -/

section

variable {s : State} {r : CmdRef} {c : Cmd} (run : s.running r 0x40 = some c) (new : (s.str (stStr c)).closers.contains r = false)
include run new

theorem exec_stream_open (act : stAct c = 0) (st : s.strState (stStr c) = 0) : ∃ t, exec (.stream r) s = .next t ∧ CmdEnded t r 0 ∧
    t.strNext (stStr c) = fieldAt c.bytes 80 8 ∧ t.strRel (stStr c) = fieldAt c.bytes 80 8 ∧
    (t.strState (stStr c) = 1 ∨ t.strState (stStr c) = 3) ∧ KeepsMem s t ∧ KeepsRegs s t strReg := by
  have opened := StrOpened.strOpen s (stStr c) c.bytes
  obtain ⟨ended, mem, regs⟩ := opened.step.finish run
  refine ⟨_, (exec_stream run).trans (congrArg _ (State.stream_open new act st)), ended, ?_, ?_, ?_, mem, regs⟩
  · rw [State.finish_strNext, opened.next]
  · rw [State.finish_strRel, opened.rel]
  · rw [State.finish_strState]
    exact opened.state

theorem exec_stream_halt (act : stAct c = 1) (st : s.strState (stStr c) = 1) : ∃ t, exec (.stream r) s = .next t ∧ CmdEnded t r 0 ∧
    t.strState (stStr c) = 2 ∧ t.fbit Fld.ING_STRn_STATE_HALT_PROG (stStr c) = true ∧ (t.str (stStr c)).ackOut = true ∧ KeepsMem s t ∧
    KeepsRegs s t strReg := by
  obtain ⟨ended, mem, regs⟩ := (StrStep.strHalt s (stStr c) (f := Fld.ING_STRn_STATE_HALT_PROG) rfl).finish run
  obtain ⟨state, str⟩ := s.strHalt_shows (stStr c) Fld.ING_STRn_STATE_HALT_PROG
  rw [← State.strProg_running st] at ended mem regs state str
  refine ⟨_, (exec_stream run).trans (congrArg _ (State.stream_halt new act (by rw [st]; decide))), ended, ?_, ?_, ?_, mem, regs⟩
  · rw [State.finish_strState, state]
  · rw [State.fbit, State.finish_fget, State.strProg_running st, s.strHalt_prog]
    rfl
  · rw [State.finish_str, str]

theorem exec_stream_halting (act : stAct c = 1) (st : s.strState (stStr c) = 2 ∨ s.strState (stStr c) = 3) : ∃ t, exec (.stream r) s = .next t ∧
    CmdEnded t r 0 ∧ t.fbit Fld.ING_STRn_STATE_HALT_PROG (stStr c) = true ∧ t.strState (stStr c) = s.strState (stStr c) ∧ t.ing = s.ing ∧
    KeepsMem s t ∧ KeepsRegs s t strReg := by
  obtain ⟨ended, mem, regs⟩ := (StrStep.fset s Fld.ING_STRn_STATE_HALT_PROG 1 (stStr c) 0 rfl).finish run
  have done : s.stream r c = (s.fset Fld.ING_STRn_STATE_HALT_PROG 1 (stStr c)).finish r c := by
    rw [State.stream_halt new act (by omega), State.strProg_halting st]
  refine ⟨_, (exec_stream run).trans (congrArg _ done), ended, ?_, ?_, ?_, mem, regs⟩
  · rw [State.fbit, State.finish_fget, ← State.fbit, s.fbit_fset_prog]
    rfl
  · rw [State.finish_strState, State.strState_fset_flag _ _ _ _ rfl (by decide) (by decide) (by decide)]
  · rw [State.finish, State.setCmd_ing, State.fset_ing]

theorem exec_stream_halted (act : stAct c = 1) (st : 4 ≤ s.strState (stStr c)) : ∃ t, exec (.stream r) s = .next t ∧ CmdEnded t r 0 ∧
    t = { s with queues := t.queues } := by
  obtain ⟨ended, -, -⟩ := (StrStep.refl s).finish run
  have done : s.stream r c = s.finish r c := by rw [State.stream_halt new act (by omega), State.strProg_ended st]
  exact ⟨_, (exec_stream run).trans (congrArg _ done), ended, rfl⟩

theorem exec_stream_resume (act : stAct c = 2) (st : s.strState (stStr c) = 3) (weir : (s.str (stStr c)).reserve = 0)
    (low : (s.str (stStr c)).shared ≤ (s.str (stStr c)).mark * 1024) (grant : s.grantOk (stStr c) = true) : ∃ t, exec (.stream r) s = .next t ∧
    CmdEnded t r 0 ∧ t.strState (stStr c) = 1 ∧ t.fbit Fld.ING_STRn_STATE_HALT_PROG (stStr c) = false ∧ (t.str (stStr c)).grant = true ∧
    KeepsMem s t ∧ KeepsRegs s t strReg := by
  obtain ⟨ended, mem, regs⟩ := ((StrStep.freed (s := s) (n := stStr c)).trans (StrStep.resumed _ (stStr c))).finish run
  have done : s.stream r c = ((s.freed (stStr c)).resumed (stStr c)).finish r c := by
    rw [State.stream_resume new act (by omega), State.strResume_resumed (State.freed_mayResume.mpr ⟨st, weir, low, grant⟩)]
  refine ⟨_, (exec_stream run).trans (congrArg _ done), ended, ?_, ?_, ?_, mem, regs⟩
  · rw [State.finish_strState, State.resumed_strState]
  · rw [State.fbit, State.finish_fget, ← State.fbit, State.resumed_prog State.freed_prog]
  · rw [State.finish_str, State.resumed_str_same]

theorem exec_stream_held (act : stAct c = 2) (opened : s.strState (stStr c) ≠ 0) (held : s.strState (stStr c) ≠ 3 ∨ (s.str (stStr c)).reserve ≠ 0 ∨
    (s.str (stStr c)).mark * 1024 < (s.str (stStr c)).shared ∨ s.grantOk (stStr c) = false) : ∃ t, exec (.stream r) s = .next t ∧
    CmdEnded t r 0 ∧ t.strState (stStr c) = s.strState (stStr c) ∧ t.fbit Fld.ING_STRn_STATE_HALT_PROG (stStr c) = false ∧ t.ing = s.ing ∧
    KeepsMem s t ∧ KeepsRegs s t strReg := by
  obtain ⟨ended, mem, regs⟩ := (StrStep.freed (s := s) (n := stStr c)).finish run
  have stays : ¬ (s.freed (stStr c)).mayResume (stStr c) := by
    rw [State.freed_mayResume]
    rintro ⟨state, weir, low, grant⟩
    obtain h | h | h | h := held
    · exact h state
    · exact h weir
    · omega
    · rw [grant] at h
      cases h
  have done : s.stream r c = (s.freed (stStr c)).finish r c := by rw [State.stream_resume new act opened, State.strResume_stays stays]
  refine ⟨_, (exec_stream run).trans (congrArg _ done), ended, ?_, ?_, ?_, mem, regs⟩
  · rw [State.finish_strState, State.freed_strState]
  · rw [State.fbit, State.finish_fget, ← State.fbit, State.freed_prog]
  · rw [State.finish, State.setCmd_ing, State.freed, State.fset_ing]

theorem exec_stream_close (act : stAct c = 3) (st : s.strState (stStr c) ≠ 0) : ∃ t, exec (.stream r) s = .next t ∧ t.strState (stStr c) = 6 ∧
    (t.str (stStr c)).closers = (s.str (stStr c)).closers ++ [r] :=
  ⟨_, (exec_stream run).trans (congrArg _ (State.stream_close new act st)), s.strClose_shows (stStr c) r⟩

theorem exec_stream_misfit (h : (stAct c = 0 ∧ s.strState (stStr c) ≠ 0) ∨ (stAct c ≠ 0 ∧ s.strState (stStr c) = 0)) :
    ∃ t, exec (.stream r) s = .next t ∧ CmdEnded t r 0x0802 ∧ t = { s with queues := t.queues } :=
  ⟨_, (exec_stream run).trans (congrArg _ (State.stream_misfit new h)), CmdEnded.failRun_running run 0x0802⟩

end

/-! ## Events of the streams, clause by clause -/

theorem exec_streamClosed {s : State} {n : Fin 1024} (st : s.strState n.val = 6) (dec : s.decodeStarted n.val = false)
    (ack : (s.str n.val).ackOut = false) : ∃ t, exec (.streamClosed n) s = .next t ∧ t.strState n.val = 0 ∧ t.str n.val = strIdle ∧ KeepsMem s t ∧
    KeepsRegs s t strReg ∧ ∀ r ∈ (s.str n.val).closers, ∀ d, s.running r 0x40 = some d → CmdEnded t r 0 := by
  obtain ⟨state, str⟩ := s.closersEnded_shows n.val
  have resumes := Resumes.dieResume (n := n.val) (s.closersEnded n.val) (decide (512 ≤ n.val))
  have step := StrStep.dieResume (s.closersEnded n.val) (decide (512 ≤ n.val))
  obtain ⟨state', str'⟩ := resumes.stays (by rw [state]; decide)
  have cleared := StrStep.strCleared s n.val
  refine ⟨_, congrArg Host.Outcome.next (s.strClosed_eq n.val st dec ack), state'.trans state, str'.trans str, fun a => ?_, ?_, fun r m d run => ?_⟩
  · rw [step.keepsMem a, State.cell, s.closersEnded_mem n.val, ← State.cell, cleared.keepsMem a]
  · exact (cleared.regs.trans (KeepsRegs.of_rf (s.closersEnded_rf n.val) _)).trans step.regs
  · obtain ⟨e, at_, fin, fail⟩ := CmdEnded.of_finishRuns (s.str n.val).closers m ((cleared.running r 0x40).trans run)
    exact ⟨e, (State.cmdAt_congr step.queues _ _ _).trans at_, fin, fail⟩

theorem exec_haltAck {s : State} {n : Nat} (k : EPort) (o : Nat) (lt : n < 1024) : exec (.haltAck k n o) s = .next (s.haltAck k n) := by
  show execHaltAck k n o s = _
  rw [execHaltAck, Nat.mod_eq_of_lt lt]

theorem exec_haltAck_taken {s : State} {n : Nat} {k : EPort} (o : Nat) (lt : n < 1024) (w : s.awaitsAck n k) :
    ∃ t, exec (.haltAck k n o) s = .next t ∧ (t.str n).ackOut = false ∧ t.mem = s.mem ∧ KeepsRegs s t strReg ∧
      (s.strState n = 6 → t.strState n = 6) ∧ (s.strState n = 2 → (s.str n).eos = true → t.strState n = 5) ∧
      (s.strState n = 2 → (s.str n).eos = false → t.strState n = 3 ∨ (t.strState n = 1 ∧ s.fbit Fld.ING_STRn_STATE_HALT_PROG n = false)) := by
  classical
  have taken : s.haltAck k n = s.ackTaken n := (s.haltAck_eq n k).trans (if_pos w)
  exact ⟨_, (exec_haltAck k o lt).trans (congrArg _ taken), s.ackTaken_ackOut n, (StrStep.ackTaken s n).mem, (StrStep.ackTaken s n).regs,
    State.ackTaken_closing, State.ackTaken_ended, State.ackTaken_halted⟩

theorem exec_haltAck_stray {s : State} {n : Nat} {k : EPort} (o : Nat) (lt : n < 1024) (w : ¬ s.awaitsAck n k) :
    ∃ t, exec (.haltAck k n o) s = .next t ∧ t.fget Fld.EUT_Ek_STATUS_TP_STRAY k.val = 1 ∧ OnlyRegs s t [regKey .EUT_Ek_STATUS k.val 0] := by
  classical
  have stray : s.haltAck k n = s.sqSet .EUT_Ek_STATUS k.val 0 [Fld.EUT_Ek_STATUS_TP_STRAY] [] := (s.haltAck_eq n k).trans (if_neg w)
  exact ⟨_, (exec_haltAck k o lt).trans (congrArg _ stray), s.sqSet_bit Fld.EUT_Ek_STATUS_TP_STRAY k.val 0 rfl (by decide), OnlyRegs.wr _ _ _ _ _⟩

theorem exec_ingAckLate {s : State} {n : Fin 1024} (a : (s.str n.val).ackOut = true) (l : (s.str n.val).late = false) :
    ∃ t, exec (.ingAckLate n) s = .next t ∧ (t.str n.val).late = true ∧ t.fget Fld.ING_STRn_STATUS_ACK_LATE n.val = 1 ∧ t.mem = s.mem ∧
      KeepsRegs s t strReg ∧ exec (.ingAckLate n) t = .next t := by
  obtain ⟨step, late, status⟩ := s.lateNoted_shows n.val
  exact ⟨_, congrArg Host.Outcome.next (State.ackLate_notes a l), late, status, step.mem, step.regs,
    congrArg Host.Outcome.next (State.ackLate_none (.inr late))⟩

/-! ## Barges, clause by clause -/

theorem exec_barge_bad {s : State} {k : EPort} {b : List Byte} (h : bargeOk b = false) : ∃ t, exec (.barge k b) s = .next t ∧
    t.fget Fld.ING_PORTk_CNT_BAD_BARGE k.val = (s.fget Fld.ING_PORTk_CNT_BAD_BARGE k.val + 1) % 65536 ∧ t.ing = s.ing ∧ t.mem = s.mem ∧
    KeepsRegs s t (· == .ING_PORTk_CNT) := by
  obtain ⟨e, sev, bad⟩ := State.barge_bad (s := s) (k := k) h
  have quiet := Quiet.event (s.fset Fld.ING_PORTk_CNT_BAD_BARGE (s.fget Fld.ING_PORTk_CNT_BAD_BARGE k.val + 1) k.val) e sev
  refine ⟨_, congrArg Host.Outcome.next bad, ?_, ?_, ?_, ?_⟩
  · rw [quiet.fget _ _ _ rfl, State.fget_fset_same _ _ _ _ _ (by decide) (by decide)]
    rfl
  · rw [quiet.ing, State.fset_ing]
  · rw [quiet.mem, State.fset_mem]
  · exact (KeepsRegs.wr _ _ _ _ _ rfl).trans (KeepsRegs.quiet quiet _)

theorem exec_barge_foreign {s : State} {k : EPort} {b : List Byte} (h : bargeOk b = true)
    (f : s.strState (bgStr b) = 0 ∨ 4 ≤ s.portOwner k.val ∨ s.ownsStream (s.portOwner k.val) (bgStr b) = false) : ∃ t, exec (.barge k b) s = .next t ∧
    t.fget Fld.ING_PORTk_CNT_FOREIGN k.val = (s.fget Fld.ING_PORTk_CNT_FOREIGN k.val + 1) % 65536 ∧ OnlyRegs s t [regKey .ING_PORTk_CNT k.val 0] :=
  ⟨_, congrArg Host.Outcome.next (State.barge_foreign h f), State.fget_fset_same _ _ _ _ _ (by decide) (by decide), OnlyRegs.wr _ _ _ _ _⟩

section

variable {s : State} {k : EPort} {b : List Byte} (ok : bargeOk b = true) (known : s.barge k b = s.bargeOrder (bgStr b) b)
include ok known

theorem exec_barge_lands (lands : s.bargeLands (bgStr b) b) : ∃ t, exec (.barge k b) s = .next t ∧ BargeTaken s (bgStr b) b t := by
  obtain ⟨disc, taken⟩ := State.bargeOrder_lands lands
  exact ⟨_, congrArg Host.Outcome.next (known.trans taken), s.bargeTaken (bgStr b) ok disc⟩

theorem exec_barge_running (lands : s.bargeLands (bgStr b) b) (fits : bgOff b + bgLen b < 2 ^ 64) (run : s.strState (bgStr b) = 1) :
    ∃ t, exec (.barge k b) s = .next t ∧ t.strNext (bgStr b) = bgOff b + bgLen b ∧ t.fbit Fld.ING_STRn_STATE_IN_GAP (bgStr b) = false ∧
      KeepsMem s t ∧ KeepsRegs s t strReg ∧ (bgFlag b 2 = true → t.strState (bgStr b) = 5 ∧ (t.str (bgStr b)).eos = true) ∧
      (s.strRel (bgStr b) ≤ bgOff b → (t.str (bgStr b)).shared = (s.str (bgStr b)).shared + bgLen b ∧
        ∀ i < bgLen b, Sparse.find (t.str (bgStr b)).bytes (bgOff b + i) = some (b.getD (16 + i) 0)) := by
  obtain ⟨t, ex, taken⟩ := exec_barge_lands ok known lands
  have room : s.strRoom (bgStr b) (bgLen b) = bgLen b := by rw [State.strRoom, if_pos run]
  obtain ⟨step, next, gap, -, eos, bytes, charge⟩ := taken
  rw [room] at next bytes charge
  rw [Nat.mod_eq_of_lt fits] at next
  refine ⟨t, ex, next, gap, step.keepsMem, step.regs, fun e => eos e run fits, fun above => ⟨?_, bytes above⟩⟩
  obtain ⟨shared, -⟩ := charge above
  rw [shared, if_pos run]

theorem exec_barge_weir (lands : s.bargeLands (bgStr b) b) (fits : bgOff b + bgLen b < 2 ^ 64) (run : s.strState (bgStr b) ≠ 1) :
    ∃ t, exec (.barge k b) s = .next t ∧
      (let got := min (bgLen b) (65536 - (s.str (bgStr b)).reserve)
       t.strNext (bgStr b) = bgOff b + got ∧ t.fbit Fld.ING_STRn_STATE_IN_GAP (bgStr b) = false ∧ KeepsMem s t ∧ KeepsRegs s t strReg ∧
       (got < bgLen b → t.fget Fld.ING_STRn_STATUS_OVERRUN (bgStr b) = 1) ∧
       (s.strRel (bgStr b) ≤ bgOff b → (t.str (bgStr b)).reserve = (s.str (bgStr b)).reserve + got ∧
         (t.str (bgStr b)).shared = (s.str (bgStr b)).shared ∧
         ∀ i < got, Sparse.find (t.str (bgStr b)).bytes (bgOff b + i) = some (b.getD (16 + i) 0))) := by
  obtain ⟨t, ex, taken⟩ := exec_barge_lands ok known lands
  have room : s.strRoom (bgStr b) (bgLen b) = min (bgLen b) (65536 - (s.str (bgStr b)).reserve) := by rw [State.strRoom, if_neg run]
  obtain ⟨step, next, gap, cut, -, bytes, charge⟩ := taken
  have less := s.strRoom_le (bgStr b) (bgLen b)
  rw [Nat.mod_eq_of_lt (by omega)] at next
  rw [room] at next cut bytes charge
  refine ⟨t, ex, next, gap, step.keepsMem, step.regs, cut, fun above => ?_⟩
  obtain ⟨shared, reserve⟩ := charge above
  rw [if_neg run] at shared reserve
  exact ⟨reserve, shared, bytes above⟩

theorem exec_barge_below (below : bgOff b + bgLen b ≤ s.strNext (bgStr b)) : ∃ t, exec (.barge k b) s = .next t ∧
    OnlyRegs s t [regKey .ING_STRn_STATUS (bgStr b) 0] ∧
    t.fget Fld.ING_STRn_STATUS_DUP_CNT (bgStr b) = min (s.fget Fld.ING_STRn_STATUS_DUP_CNT (bgStr b) + 1) 255 :=
  ⟨_, congrArg Host.Outcome.next (known.trans (State.bargeOrder_below (bgLen_pos ok) below)), OnlyRegs.wr _ _ _ _ _, s.strStatus_dup (bgStr b)⟩

omit ok

theorem exec_barge_gap (past : ¬ s.bargeLands (bgStr b) b) (above : s.strNext (bgStr b) < bgOff b + bgLen b)
    (gap : s.fbit Fld.ING_STRn_STATE_IN_GAP (bgStr b) = false) : ∃ t, exec (.barge k b) s = .next t ∧
    t.fbit Fld.ING_STRn_STATE_IN_GAP (bgStr b) = true ∧ t.fget Fld.ING_STRn_STATUS_GAP (bgStr b) = 1 ∧
    t.strNext (bgStr b) = s.strNext (bgStr b) ∧ (t.str (bgStr b)).bytes = (s.str (bgStr b)).bytes ∧
    Output.towpath (s.fget Fld.ING_STRn_STATE_PORT (bgStr b)) 3 (bgStr b) (s.strNext (bgStr b)) ∈ t.out ∧ KeepsMem s t ∧ KeepsRegs s t strReg := by
  have opened : s.bargeOrder (bgStr b) b = s.gapOpened (bgStr b) := (State.bargeOrder_past past above).trans (if_neg (by rw [gap]; decide))
  have step := StrStep.gapOpened s (bgStr b)
  exact ⟨_, congrArg Host.Outcome.next (known.trans opened), s.gapOpened_inGap _, s.gapOpened_status _, s.gapOpened_next _, s.gapOpened_bytes _,
    s.gapOpened_out _, step.keepsMem, step.regs⟩

theorem exec_barge_inGap (past : ¬ s.bargeLands (bgStr b) b) (above : s.strNext (bgStr b) < bgOff b + bgLen b)
    (gap : s.fbit Fld.ING_STRn_STATE_IN_GAP (bgStr b) = true) : exec (.barge k b) s = .next s :=
  congrArg Host.Outcome.next (known.trans ((State.bargeOrder_past past above).trans (if_pos gap)))

end

/-! ## Rewinds and adapters, clause by clause -/

theorem exec_rewindTimeout_again {s : State} {n : Fin 1024} (gap : s.fbit Fld.ING_STRn_STATE_IN_GAP n.val = true) (h : (s.str n.val).rewinds < 3) :
    ∃ t, exec (.rewindTimeout n) s = .next t ∧ (t.str n.val).rewinds = (s.str n.val).rewinds + 1 ∧
      Output.towpath (s.fget Fld.ING_STRn_STATE_PORT n.val) 3 n.val (s.strNext n.val) ∈ t.out ∧ t.mem = s.mem ∧ KeepsRegs s t strReg := by
  obtain ⟨step, rewinds, out⟩ := s.rewound_shows n.val
  exact ⟨_, congrArg Host.Outcome.next (State.rewindTimeout_again gap h), rewinds, out, step.mem, step.regs⟩

theorem exec_rewindTimeout_lost {s : State} {n : Fin 1024} (gap : s.fbit Fld.ING_STRn_STATE_IN_GAP n.val = true) (h : (s.str n.val).rewinds = 3) :
    ∃ t, exec (.rewindTimeout n) s = .next t ∧ (t.str n.val).rewinds = 4 ∧ t.mem = s.mem ∧ KeepsRegs s t strReg ∧
      (evRoom s.evr.buf.length 2 = true → ∃ r ∈ t.evr.buf, r.code = 0x0803 ∧ r.p1 = n.val ∧ r.p2 = s.strNext n.val) := by
  obtain ⟨step, rewinds⟩ := s.gapLost_shows n.val
  exact ⟨_, congrArg Host.Outcome.next (State.rewindTimeout_lost gap h), rewinds, step.mem, step.regs, s.gapLost_recorded n.val n.isLt⟩

theorem exec_adapterInfo {s : State} {k : EPort} (ddr flash : Nat) (second : Bool) (h : (s.hostOf k).isSome = true) :
    ∃ t, exec (.adapterInfo k ddr flash second) s = .next t ∧ t.fbit Fld.EUT_Ek_ADAPTER_INFO_VALID k.val = true ∧
      t.t2Installed k.val = min ddr 4096 * 2 ^ 30 ∧ OnlyRegs s t [regKey .EUT_Ek_ADAPTER k.val 0] := by
  obtain ⟨size, valid⟩ := adapterWord ddr flash second
  have hosted : ¬ (s.hostOf k).isNone = true := by
    rw [Option.isNone_iff_eq_none, Option.isSome_iff_ne_none] at *
    exact h
  have shown (f : Fld) (e : f.reg = .EUT_Ek_ADAPTER) (w : Word) : (s.wr .EUT_Ek_ADAPTER k.val 0 w).fget f k.val = wGet w f.hi f.lo := by
    rw [State.fget, e, State.rd_wr_same]
  have bit (w : Word) (v : wGet w 14 14 = 1) : (s.wr .EUT_Ek_ADAPTER k.val 0 w).fbit Fld.EUT_Ek_ADAPTER_INFO_VALID k.val = true := by
    rw [State.fbit, shown _ rfl]
    exact beq_iff_eq.mpr v
  refine ⟨_, congrArg Host.Outcome.next (if_neg hosted), bit _ valid, ?_, OnlyRegs.wr _ _ _ _ _⟩
  rw [State.t2Installed, if_pos (bit _ valid), shown _ rfl]
  exact congrArg (· * 2 ^ 30) size

theorem exec_adapterInfo_none {s : State} {k : EPort} (ddr flash : Nat) (second : Bool) (h : s.hostOf k = none) :
    exec (.adapterInfo k ddr flash second) s = .next s :=
  congrArg Host.Outcome.next (if_pos (by rw [h]; rfl))

/-! ## The statement -/

/-- Settles O55: each clause by the lemma of its case, over the stages of a barge and what a stream's stops and resumes leave alone. -/
theorem ingest : Obligations.Ingest := by
  unfold Obligations.Ingest
  refine ⟨fun c d s run new => ⟨exec_stream_open run new, exec_stream_halt run new, exec_stream_halting run new, exec_stream_halted run new,
      exec_stream_resume run new, exec_stream_held run new, exec_stream_close run new, exec_stream_misfit run new⟩,
    fun c s run => exec_stream_none run, fun c d s run old => (exec_stream run).trans (congrArg _ (State.stream_closing old)),
    fun n s st dec ack => exec_streamClosed st dec ack, fun n s h => congrArg Host.Outcome.next (s.strClosed_none n.val h),
    fun k n o s lt => ⟨exec_haltAck_taken o lt, exec_haltAck_stray o lt⟩, fun n s a l => exec_ingAckLate a l,
    fun n s h => congrArg Host.Outcome.next (State.ackLate_none h), fun k b s bad => exec_barge_bad bad, fun k b s ok f => exec_barge_foreign ok f,
    fun k b s ok st owner owns => ?_, fun n s gap => ⟨exec_rewindTimeout_again gap, exec_rewindTimeout_lost gap⟩,
    fun n s h => congrArg Host.Outcome.next (State.rewindTimeout_none h), fun k ddr flash second s h => exec_adapterInfo ddr flash second h,
    fun k ddr flash second s h => exec_adapterInfo_none ddr flash second h⟩
  have known := State.barge_known ok st owner owns
  exact ⟨exec_barge_running ok known, fun lands fits run _ => exec_barge_weir ok known lands fits run, exec_barge_below ok known,
    exec_barge_gap known, exec_barge_inGap known⟩

end Sys2Proof.Machine
end

section
/-! SUPPORT. Memory without objects of the tier engines (R135, R159, R163, R472): every access is at its own address, and a write whose status is 0 has
reached every byte of its range. -/

namespace Sys2Proof.Machine

/-! ## No object of a tier engine (R135) -/

section

variable {s : State} (h : s.tier = State.reset.tier)
include h

theorem State.liveObjs_nil : s.liveObjs = [] := by
  have none (p : Part) : (vget s.tier p).objs = [] := by
    rw [h]
    show (vget (Vector.replicate 4 TierSt.reset) p).objs = []
    simp [vget, Vector.get, TierSt.reset]
  rw [State.liveObjs, List.flatMap_eq_nil_iff]
  intro p _
  split
  · rw [none, List.map_nil]
  · rfl

theorem State.resolve_self (a u : Nat) (w : Bool) : s.resolve a u w = a := by rw [State.resolve, State.liveObjs_nil h]; rfl

theorem State.pieces_self (a n : Nat) : s.pieces a n = [(a, n)] := by
  rw [State.pieces, State.liveObjs_nil h, List.foldl_nil, cutAt, Nat.add_sub_cancel_left]

theorem State.writeMem_self (a : Nat) (data : List Byte) : s.writeMem a data = s.writePhys a data := by
  unfold State.writeMem
  simp only [State.pieces_self h, List.foldl_cons, List.foldl_nil, State.resolve_self h, Nat.sub_self, List.drop_zero, List.take_length, if_true]

end

/-! ## What a write reaches (R159, R163, R472) -/

/-- Addresses of one page are in HBM together, in one stack. -/
theorem stackOf_page {a b : Nat} (p : pageOf a = pageOf b) (h : isHbm a = true) : isHbm b = true ∧ stackOf b = stackOf a := by
  simp only [isHbm, Bool.and_eq_true, decide_eq_true_eq, stackOf, Fin.mk.injEq] at h ⊢
  simp only [hbmBase, hbmEnd, pageOf] at p h ⊢
  omega

/-- Whether an address lies on a retired page depends on its page alone. -/
theorem State.retiredAt_page (s : State) {a b : Nat} (p : pageOf a = pageOf b) (h : s.retiredAt a = true) : s.retiredAt b = true := by
  unfold State.retiredAt at h ⊢
  rw [Bool.and_eq_true] at h ⊢
  obtain ⟨hbm, hit⟩ := h
  obtain ⟨hbm', stack⟩ := stackOf_page p hbm
  have bank : pageInBank b = pageInBank a := by
    funext x
    rw [pageInBank, pageInBank, stack, pageIn, pageIn]
    simp only [p]
  exact ⟨hbm', by rw [stack, ← p, bank]; exact hit⟩

/-- A range that touches no retired page holds none of its bytes. -/
theorem State.retiredAt_of_range {s : State} {a n x : Nat} (h : s.retiredIn a n = false) (lo : a ≤ x) (hi : x < a + n) : s.retiredAt x = false := by
  by_contra hit
  have hit : s.retiredAt x = true := by simpa using hit
  have page : pageOf a ≤ pageOf x ∧ pageOf x ≤ pageOf (a + n - 1) := by simp only [pageOf]; omega
  have len : 0 < n := by omega
  rw [State.retiredIn, decide_eq_true len, Bool.true_and, Bool.or_eq_false_iff] at h
  obtain ⟨retired, excluded⟩ := h
  have first := hit
  rw [State.retiredAt, Bool.and_eq_true, Bool.or_eq_true] at hit
  obtain ⟨hbm, hit⟩ := hit
  obtain hit | hit := hit
  · obtain ⟨r, mem, same⟩ := List.any_eq_true.mp hit
    have same := eq_of_beq same
    have inHbm := (stackOf_page same.symm hbm).1
    simp only [List.any_eq_false, Bool.not_eq_true] at retired
    have miss := retired (stackOf x) (List.mem_finRange _) r mem
    simp only [inHbm, same, page.1, page.2, decide_true, Bool.and_self, reduceCtorEq] at miss
  · have any : (List.finRange 8).any (fun n => !(vget s.hbm n).excluded.isEmpty) = true := by
      refine List.any_eq_true.mpr ⟨stackOf x, List.mem_finRange _, ?_⟩
      obtain ⟨y, mem, -⟩ := List.any_eq_true.mp hit
      cases e : (vget s.hbm (stackOf x)).excluded with
      | nil => rw [e] at mem; cases mem
      | cons y l => rfl
    rw [any, Bool.true_and, List.any_eq_false] at excluded
    refine excluded (pageOf x - pageOf a) (List.mem_range.mpr (by omega)) (s.retiredAt_page ?_ first)
    rw [Nat.add_sub_cancel' page.1, pageOf, pageOf]
    omega

/-- A write whose status is 0 reaches every byte of its range that is not in the T2 window. -/
theorem State.reachesByte_of_ok {s : State} {a : Nat} {data : List Byte} {x : Nat} (ok : (s.writePhys a data).2 = 0) (lo : a ≤ x)
    (hi : x < a + data.length) (t2 : isT2 x = false) : s.reachesByte a data.length x = true := by
  have status : (s.writePhys a data).2 = if (s.readParts a data.length).retiredIn a data.length then 0x0702
      else if ((if isHbm a then partWords a data.length else []).filter (fun w => NSet.mem (s.readParts a data.length).mem.poison w)).isEmpty then 0
      else 0x0701 := rfl
  rw [status] at ok
  by_cases retired : (s.readParts a data.length).retiredIn a data.length = true
  · rw [if_pos retired] at ok
    cases ok
  · rw [if_neg retired] at ok
    by_cases blocked : ((if isHbm a then partWords a data.length else []).filter (fun w => NSet.mem (s.readParts a data.length).mem.poison w)).isEmpty
    · rw [State.reachesByte, List.isEmpty_iff.mp blocked, State.retiredAt_of_range (by simpa using retired) lo hi, t2]
      rfl
    · rw [if_neg blocked] at ok
      cases ok

/-! ## Writes for a traffic class -/

section

variable {s : State} (h : s.tier = State.reset.tier)
include h

theorem State.writeAs_self (c a : Nat) (data : List Byte) : s.writeAs c a data = (s.grant c a data.length).writePhys a data := by
  rw [State.writeAs, State.resolve_self h, State.writeMem_self ((Touched.grant s c a data.length).tier.trans h)]

/-- A write changes no byte beside its range. -/
theorem State.cell_writeAs_out (c : Nat) {a x : Nat} {data : List Byte} (out : x < a ∨ a + data.length ≤ x) :
    (s.writeAs c a data).1.cell x = s.cell x := by
  rw [State.writeAs_self h, State.cell_writePhys, if_neg (by omega), (Touched.grant s c a data.length).cell]

/-- A write whose status is 0 is there. -/
theorem State.cell_writeAs_in (c : Nat) {a i : Nat} {data : List Byte} (ok : (s.writeAs c a data).2 = 0) (lt : i < data.length)
    (t2 : a + i < t2Base) : (s.writeAs c a data).1.cell (a + i) = data.getD i 0 := by
  have low : isT2 (a + i) = false := by
    simp only [isT2, Bool.and_eq_false_iff, decide_eq_false_iff_not]
    exact .inl (by omega)
  rw [State.writeAs_self h] at ok ⊢
  rw [State.cell_writePhys, if_pos ⟨by omega, by omega, State.reachesByte_of_ok ok (by omega) (by omega) low⟩, Nat.add_sub_cancel_left]

theorem State.writeAs_tier (c a : Nat) (data : List Byte) : (s.writeAs c a data).1.tier = State.reset.tier := (Written.writeAs s c a data).tier.trans h

/-- One run written, and the first failure kept. -/
def State.runWritten (c : Nat) (a : State × Nat) (r : Nat × List Byte) : State × Nat :=
  ((a.1.writeAs c r.1 r.2).1, if a.2 = 0 then (a.1.writeAs c r.1 r.2).2 else a.2)

omit h in
theorem State.writeRuns_eq (s : State) (c : Nat) (rs : List (Nat × List Byte)) : s.writeRuns c rs = rs.foldl (State.runWritten c) (s, 0) := rfl

/-- Runs change no byte beside theirs. -/
theorem State.cell_writeRuns_out (c : Nat) (rs : List (Nat × List Byte)) {x : Nat} (out : ∀ r ∈ rs, x < r.1 ∨ r.1 + r.2.length ≤ x) :
    (s.writeRuns c rs).1.cell x = s.cell x := by
  have all (l : List (Nat × List Byte)) (z : State × Nat) (tier : z.1.tier = State.reset.tier) (out : ∀ r ∈ l, x < r.1 ∨ r.1 + r.2.length ≤ x) :
      (l.foldl (State.runWritten c) z).1.cell x = z.1.cell x := by
    induction l generalizing z with
    | nil => rfl
    | cons r l ih =>
      obtain ⟨first, rest⟩ := List.forall_mem_cons.mp out
      rw [List.foldl_cons, ih (State.runWritten c z r) (State.writeAs_tier tier c r.1 r.2) rest, State.runWritten, State.cell_writeAs_out tier c first]
  rw [State.writeRuns_eq]
  exact all rs (s, 0) h out

/-- Free bytes land in their range alone. -/
theorem State.cell_scramble_out {a n x : Nat} (out : x < a ∨ a + n ≤ x) : (s.scramble a n).cell x = s.cell x := by
  have len : (s.drawBytes n).1.length = n := by simp [State.drawBytes]
  have tier : (s.drawBytes n).2.tier = State.reset.tier := h
  rw [State.scramble]
  show ((s.drawBytes n).2.writeMem a (s.drawBytes n).1).1.cell x = s.cell x
  rw [State.writeMem_self tier, State.cell_writePhys, if_neg (by omega)]
  rfl

end

/-! ## Tensors (R201) -/

/-- Every byte of the runs is one of the bytes gathered. -/
theorem mem_runsOf {l : List (Nat × Byte)} {r : Nat × List Byte} (h : r ∈ runsOf l) {x : Nat} (lo : r.1 ≤ x) (hi : x < r.1 + r.2.length) :
    ∃ e ∈ l, e.1 = x := by
  induction l generalizing r x with
  | nil => cases h
  | cons e t ih =>
    obtain ⟨a, b⟩ := e
    rw [runsOf] at h
    split at h
    next nil =>
      rw [List.mem_singleton] at h
      subst h
      exact ⟨(a, b), List.mem_cons_self, by simp at lo hi; omega⟩
    next a2 bs rest cons =>
      have later {r : Nat × List Byte} (m : r ∈ runsOf t) {x : Nat} (lo : r.1 ≤ x) (hi : x < r.1 + r.2.length) : ∃ e ∈ (a, b) :: t, e.1 = x := by
        obtain ⟨e, mem, at_⟩ := ih m lo hi
        exact ⟨e, List.mem_cons_of_mem _ mem, at_⟩
      split at h
      next next_ =>
        obtain rfl | m := List.mem_cons.mp h
        · by_cases first : x = a
          · exact ⟨(a, b), List.mem_cons_self, first.symm⟩
          · exact later (r := (a2, bs)) (by rw [cons]; exact List.mem_cons_self) (by simp at lo ⊢; omega) (by simp at hi ⊢; omega)
        · exact later (by rw [cons]; exact List.mem_cons_of_mem _ m) lo hi
      next =>
        obtain rfl | m := List.mem_cons.mp h
        · exact ⟨(a, b), List.mem_cons_self, by simp at lo hi; omega⟩
        · exact later (by rw [cons]; exact m) lo hi

/-- The bytes of a 32-bit code, at four consecutive addresses. -/
theorem State.putCode_word (s : State) (acc : List (Nat × Byte)) (base bit code : Nat) :
    s.putCode acc base bit 32 code = acc ++ (List.range 4).map (fun j => (base + bit / 8 + j, BitVec.ofNat 8 (code / 256 ^ j))) := rfl

/-- The bytes of a tensor of words lie at its positions. -/
theorem State.convertPlain_word (s : State) (d : TDesc) (word : dtBits d.dtype = 32) (deq : Nat) (sat : Bool) (xs : List (Ix × FVal))
    {e : Nat × Byte} (h : e ∈ (s.convertPlain d deq sat xs).1) : ∃ x ∈ xs, ∃ j < 4, e.1 = d.base + d.bitPos x.1 / 8 + j := by
  let step := fun (a : List (Nat × Byte) × LedRec) (x : Ix × FVal) =>
    let v := x.2.scale (-(scaleExp d.dtype deq))
    let c := encodeElem d.dtype sat v
    (s.putCode a.1 d.base (d.bitPos x.1) (dtBits d.dtype) c, a.2.count (asF32 x.2) (codeZero d.dtype c) (sourceClass d.dtype deq x.2))
  have all (l : List (Ix × FVal)) (z : List (Nat × Byte) × LedRec) (m : e ∈ (l.foldl step z).1) :
      e ∈ z.1 ∨ ∃ x ∈ l, ∃ j < 4, e.1 = d.base + d.bitPos x.1 / 8 + j := by
    induction l generalizing z with
    | nil => exact .inl m
    | cons x l ih =>
      obtain m | ⟨y, mem, at_⟩ := ih _ m
      · rw [show (step z x).1 = s.putCode z.1 d.base (d.bitPos x.1) (dtBits d.dtype) _ from rfl, word, State.putCode_word, List.mem_append] at m
        obtain old | new := m
        · exact .inl old
        · obtain ⟨j, lt, rfl⟩ := List.mem_map.mp new
          exact .inr ⟨x, List.mem_cons_self, j, List.mem_range.mp lt, rfl⟩
      · exact .inr ⟨y, List.mem_cons_of_mem _ mem, at_⟩
  exact (all xs _ h).resolve_left (by rintro ⟨⟩)

/-- Writing a tensor of words changes no byte beside its positions. -/
theorem State.cell_writeTensor_word {s : State} (h : s.tier = State.reset.tier) (p : Nat) {d : TDesc} (int : d.dtype = 0x0F) (deq : Nat) (sat : Bool)
    (xs : List (Ix × FVal)) {a : Nat} (out : ∀ x ∈ xs, a < d.base + d.bitPos x.1 / 8 ∨ d.base + d.bitPos x.1 / 8 + 4 ≤ a) :
    (s.writeTensor p d deq sat xs).1.cell a = s.cell a := by
  have word : dtBits d.dtype = 32 := by rw [int]; rfl
  have plain : isMx d.dtype = false := by rw [int]; rfl
  have same : (s.writeTensor p d deq sat xs).1 = (s.writeRuns p (runsOf (s.convertPlain d deq sat xs).1)).1 := by
    rw [State.writeTensor, plain]
    rfl
  rw [same]
  refine State.cell_writeRuns_out h p _ (fun r m => ?_)
  by_contra inside
  obtain ⟨e, mem, at_⟩ := mem_runsOf m (x := a) (by omega) (by omega)
  obtain ⟨x, pos, j, lt, place⟩ := s.convertPlain_word d word deq sat xs mem
  have := out x pos
  omega

/-! ## What producing a tensor leaves alone -/

/-- What writes of tensors leave alone: everything but memory, the stacks' error state, and the count of MX blocks that are NaN. -/
structure Produced (s t : State) : Prop where
  queues : t.queues = s.queues
  tier : t.tier = s.tier
  ing : t.ing = s.ing
  rd : ∀ r i a, hbmLoud r = false → r ≠ .NUM_ARITH_STATUS → t.rd r i a = s.rd r i a

namespace Produced

theorem refl (s : State) : Produced s s := ⟨rfl, rfl, rfl, fun _ _ _ _ _ => rfl⟩

theorem trans {s t u : State} (h : Produced s t) (k : Produced t u) : Produced s u :=
  ⟨k.queues.trans h.queues, k.tier.trans h.tier, k.ing.trans h.ing, fun r i a l n => (k.rd r i a l n).trans (h.rd r i a l n)⟩

theorem written {s t : State} (h : Written s t) : Produced s t := ⟨h.queues, h.tier, h.ing, fun r i a l _ => h.rd r i a l⟩
theorem touched {s t : State} (h : Touched s t) : Produced s t := written h.written

theorem foldl {β : Type} {f : State → β → State} (h : ∀ s x, Produced s (f s x)) (l : List β) (s : State) : Produced s (l.foldl f s) := by
  induction l generalizing s with
  | nil => exact refl s
  | cons x l ih => exact (h s x).trans (ih _)

theorem writeRuns (s : State) (c : Nat) (rs : List (Nat × List Byte)) : Produced s (s.writeRuns c rs).1 :=
  foldlFst_rel (f := State.runWritten c) refl trans (fun a r => written (Written.writeAs a.1 c r.1 r.2)) rs (s, 0)

theorem nanBlocks (s : State) (p n : Nat) : Produced s (s.nanBlocks p n) :=
  foldl (fun s _ => ⟨by simp, by simp, by simp, fun r i a _ n => by rw [State.sqSet, State.rd_wr_reg _ _ _ _ _ _ n]⟩) _ s

theorem writeTensor (s : State) (p : Nat) (d : TDesc) (deq : Nat) (sat : Bool) (xs : List (Ix × FVal)) :
    Produced s (s.writeTensor p d deq sat xs).1 := by
  unfold State.writeTensor
  split
  · exact (writeRuns s p _).trans (nanBlocks _ p _)
  · exact writeRuns s p _

theorem fget {s t : State} (h : Produced s t) (f : Fld) (i a : Nat) (l : hbmLoud f.reg = false) (n : f.reg ≠ .NUM_ARITH_STATUS) :
    t.fget f i a = s.fget f i a := by rw [State.fget, h.rd _ _ _ l n, State.fget]

end Produced

end Sys2Proof.Machine
end

section
/-! SUPPORT. DECODE, its buffer and its engine (R98 to R102, R110): the runs of started DECODEs, and what taking a buffer and beginning show. -/

namespace Sys2Proof.Machine

/-! ## Runs of DECODEs -/

/-- A change of the run of one command in a list. -/
def onRun (r : CmdRef) (f : DecRun → DecRun) (l : List DecRun) : List DecRun := l.map (fun x => if x.ref = r then f x else x)

theorem find_onRun {f : DecRun → DecRun} (keeps : ∀ x, (f x).ref = x.ref) (r k : CmdRef) (l : List DecRun) :
    (onRun r f l).find? (fun x => x.ref == k) = (l.find? (fun x => x.ref == k)).map (fun x => if x.ref = r then f x else x) := by
  have ref (x : DecRun) : ((if x.ref = r then f x else x).ref == k) = (x.ref == k) := by
    split
    · rw [keeps]
    · rfl
  rw [onRun, List.find?_map]
  simp only [Function.comp_def, ref]

section

variable {s : State} {r : CmdRef} {d : DecRun}

theorem State.decRun_ref (h : s.decRun r = some d) : d.ref = r := by simpa using List.find?_some h

theorem State.decRun_none (h : s.decRun r = none) : ∀ x ∈ s.ing.decs, x.ref ≠ r := by
  intro x mem same
  have miss := List.find?_eq_none.mp h x mem
  simp [same] at miss

theorem State.decRun_congr {s t : State} (h : t.ing.decs = s.ing.decs) (r : CmdRef) : t.decRun r = s.decRun r := by rw [State.decRun, h, State.decRun]
theorem State.buf_congr {s t : State} (h : t.ing.bufs = s.ing.bufs) (b : Nat) : t.buf b = s.buf b := by rw [State.buf, h, State.buf]

end

/-! ## Taking a buffer (R110, R111) -/

/-- A staging buffer as a DECODE takes it. -/
def takenBuf (c : Cmd) : BufSt := { bufIdle with phase := 1, sample := if cDesc c 1 = 0 then none else some (parseSample c.aux) }

section

variable (s : State) (r : CmdRef) (c : Cmd)

/-- A DECODE has its buffer. -/
def State.bufTaken (b : Nat) : State :=
  { s with ing := { s.ing with bufs := Sparse.set bufIdle s.ing.bufs b (takenBuf c),
                               decs := onRun r (fun x => { x with hasBuf := true }) s.ing.decs } }

theorem State.bufTaken_buf_same (b : Nat) : (s.bufTaken r c b).buf b = takenBuf c := by
  rw [State.buf, State.bufTaken, Sparse.get_set_same]

theorem State.bufTaken_buf_ne {b k : Nat} (h : k ≠ b) : (s.bufTaken r c b).buf k = s.buf k := by
  rw [State.buf, State.bufTaken, Sparse.get_set_ne _ _ _ _ h, State.buf]

theorem State.bufTaken_decRun_same {x : DecRun} (b : Nat) (h : s.decRun r = some x) : (s.bufTaken r c b).decRun r = some { x with hasBuf := true } := by
  have h' : s.ing.decs.find? (fun x => x.ref == r) = some x := h
  rw [State.decRun, State.bufTaken, find_onRun (by intro x; rfl), h', Option.map_some, if_pos (State.decRun_ref h)]

theorem State.bufTaken_decRun_ne (b : Nat) {k : CmdRef} (h : k ≠ r) : (s.bufTaken r c b).decRun k = s.decRun k := by
  rw [State.decRun, State.bufTaken, find_onRun (by intro x; rfl), ← State.decRun]
  cases e : s.decRun k with
  | none => rfl
  | some x => rw [Option.map_some, if_neg (by rw [State.decRun_ref e]; exact h)]

variable {s r c} {x : DecRun} (run : s.decRun r = some x)
include run

theorem State.takeBuf_takes (buf : x.hasBuf = false) (may : s.mayTake r x.buf = true) : s.takeBuf r c = s.bufTaken r c x.buf := by
  rw [State.takeBuf, run]
  dsimp only
  rw [if_neg (by simp [buf, may])]
  rfl

theorem State.takeBuf_stays (h : x.hasBuf = true ∨ s.mayTake r x.buf = false) : s.takeBuf r c = s := by
  rw [State.takeBuf, run]
  dsimp only
  rw [if_pos (by obtain h | h := h <;> simp [h])]

end

/-! ## DECODE (R98) -/

/-- The run of a DECODE that starts. -/
def newRun (r : CmdRef) (c : Cmd) : DecRun :=
  { ref := r, str := dcStr c, start := dcStart c, stop := dcEnd c, buf := dcBuf c, hasBuf := false, engine := none }

section

variable (s : State) (r : CmdRef) (c : Cmd)

/-- A DECODE has started. -/
def State.runAdded : State := { s with ing := { s.ing with decs := s.ing.decs ++ [newRun r c] } }

variable {s r} (none_ : s.decRun r = none)
include none_

theorem State.runAdded_same : (s.runAdded r c).decRun r = some (newRun r c) := by
  have miss : s.ing.decs.find? (fun x => x.ref == r) = none := none_
  rw [State.decRun, State.runAdded, List.find?_append, miss, Option.none_or, List.find?_singleton]
  exact if_pos (beq_self_eq_true r)

omit none_ in
theorem State.runAdded_ne {k : CmdRef} (h : k ≠ r) : (s.runAdded r c).decRun k = s.decRun k := by
  have other : (List.find? (fun x : DecRun => x.ref == k) [newRun r c]) = none := by
    rw [List.find?_singleton]
    exact if_neg (fun e => h (eq_of_beq e).symm)
  rw [State.decRun, State.runAdded, List.find?_append, other, Option.or_none, ← State.decRun]

/-- The DECODE that starts is behind all the others. -/
theorem State.runAdded_mayTake (b : Nat) : (s.runAdded r c).mayTake r b = s.mayTake r b := by
  have all : ∀ x ∈ s.ing.decs, (x.ref != r) = true := fun x m => bne_iff_ne.mpr (State.decRun_none none_ x m)
  have before : (s.ing.decs ++ [newRun r c]).takeWhile (fun x => x.ref != r) = s.ing.decs := by
    rw [List.takeWhile_append_of_pos all, List.takeWhile_cons_of_neg (by simp [newRun]), List.append_nil]
  have own : s.ing.decs.takeWhile (fun x => x.ref != r) = s.ing.decs := List.takeWhile_eq_self_iff.mpr all
  have buf : (s.runAdded r c).buf b = s.buf b := rfl
  rw [State.mayTake, State.mayTake, buf, own]
  exact congrArg (fun l : List DecRun => (s.buf b).free && l.all (fun x => x.buf != b || x.hasBuf)) before

theorem State.decode_eq : s.decode r c = (s.runAdded r c).takeBuf r c := by
  unfold State.decode
  rw [if_neg (by rw [none_]; decide)]
  rfl

theorem State.decode_takes (may : s.mayTake r (dcBuf c) = true) : s.decode r c = (s.runAdded r c).bufTaken r c (dcBuf c) := by
  rw [State.decode_eq c none_, State.takeBuf_takes (State.runAdded_same c none_) rfl]
  · rfl
  · exact (State.runAdded_mayTake c none_ _).trans may

theorem State.decode_waits (may : s.mayTake r (dcBuf c) = false) : s.decode r c = s.runAdded r c := by
  rw [State.decode_eq c none_, State.takeBuf_stays (State.runAdded_same c none_) (.inr ((State.runAdded_mayTake c none_ _).trans may))]

end

/-! ## DECODE_SPAN_READY (R94, R99) -/

section

variable (s : State) (r : CmdRef) (d : DecRun) (m : Nat)

/-- An engine of the stream's die may begin. -/
def State.mayStart : Prop := d.engine = none ∧ d.hasBuf = true ∧ s.spanReady d = true ∧ s.ownsEngine r.part.val m = true ∧
  (decide (512 ≤ d.str) == decide (16 ≤ m)) = true ∧ s.fbit Fld.DEC_ENGm_STATE_BUSY m = false

/-- The DECODE bound to its engine. -/
def State.bound : State := { s with ing := { s.ing with decs := onRun r (fun x => { x with engine := some m }) s.ing.decs } }

/-- The engine has begun. -/
def State.begun : State :=
  (s.bound r m).wr .DEC_ENGm_STATE m 0 (BitVec.ofNat 32 (1 + s.fget Fld.ING_STRn_STATE_CODEC d.str * 16 + d.str * 65536))

theorem State.spanStart_starts {s : State} {r : CmdRef} {d : DecRun} {m : Nat} (h : s.mayStart r d m) : s.spanStart r d m = s.begun r d m := by
  unfold State.spanStart
  exact if_pos h

theorem State.spanStart_stays {s : State} {r : CmdRef} {d : DecRun} {m : Nat} (h : ¬ s.mayStart r d m) : s.spanStart r d m = s := by
  unfold State.spanStart
  exact if_neg h

/-- Of two numbers that name the dies of a stream and an engine. -/
theorem sameDie {a m : Nat} : (decide (512 ≤ a) == decide (16 ≤ m)) = true ↔ (a < 512 ↔ m < 16) := by
  rw [beq_iff_eq, decide_eq_decide]
  omega

theorem State.begun_decRun {x : DecRun} (h : s.decRun r = some x) : (s.begun r d m).decRun r = some { x with engine := some m } := by
  have h' : s.ing.decs.find? (fun x => x.ref == r) = some x := h
  rw [State.begun, State.decRun, State.wr_ing, State.bound, find_onRun (by intro x; rfl), h', Option.map_some, if_pos (State.decRun_ref h)]

theorem State.begun_buf (b : Nat) : (s.begun r d m).buf b = s.buf b := by
  rw [State.begun]
  exact State.buf_congr (by rw [State.wr_ing]; rfl) b

theorem State.begun_rest : s.begun r d m = { s with rf := (s.begun r d m).rf, ing := { s.ing with decs := (s.begun r d m).ing.decs } } := by
  unfold State.begun State.wr State.bound
  rfl

theorem State.begun_regs : KeepsRegs s (s.begun r d m) (· == .DEC_ENGm_STATE) :=
  (KeepsRegs.of_rf (t := s.bound r m) rfl _).trans (KeepsRegs.wr _ _ _ _ _ rfl)

/-- The engine is BUSY with the stream. -/
theorem State.begun_engine : (s.begun r d m).fbit Fld.DEC_ENGm_STATE_BUSY m = true ∧ (s.begun r d m).fget Fld.DEC_ENGm_STATE_STREAM m = d.str % 1024 := by
  have codec := s.fget_lt Fld.ING_STRn_STATE_CODEC d.str 0
  have codec : s.fget Fld.ING_STRn_STATE_CODEC d.str < 16 := codec
  have word (f : Fld) (e : f.reg = .DEC_ENGm_STATE) : (s.begun r d m).fget f m =
      (1 + s.fget Fld.ING_STRn_STATE_CODEC d.str * 16 + d.str * 65536) % 2 ^ 32 / 2 ^ f.lo % 2 ^ (f.hi + 1 - f.lo) := by
    rw [State.begun, State.fget, e, State.rd_wr_same, wGet_ofNat]
  constructor
  · rw [State.fbit, word _ rfl, beq_iff_eq]
    show (1 + s.fget Fld.ING_STRn_STATE_CODEC d.str * 16 + d.str * 65536) % 2 ^ 32 / 2 ^ 0 % 2 ^ (0 + 1 - 0) = 1
    omega
  · rw [word _ rfl]
    show (1 + s.fget Fld.ING_STRn_STATE_CODEC d.str * 16 + d.str * 65536) % 2 ^ 32 / 2 ^ 16 % 2 ^ (25 + 1 - 16) = d.str % 1024
    omega

end

end Sys2Proof.Machine
end

section
/-! SUPPORT. The end of a DECODE (R99, R102 to R108, R112): what its reports, its tensor, its frames and the end of its run show. -/

namespace Sys2Proof.Machine

open Sys2Proof.Safety

/-! ## The end of a run (R94, R102) -/

section

variable (s : State) (d : DecRun)

/-- The run is no longer listed. -/
def State.runGone : State := { s with ing := { s.ing with decs := s.ing.decs.filter (fun x => x.ref != d.ref) } }

/-- An engine is free. -/
def State.engineFreed (e : Option Nat) : State := match e with | some m => s.wr .DEC_ENGm_STATE m 0 0 | none => s

theorem State.decEnd_eq : s.decEnd d = ((s.runGone d).engineFreed d.engine).strFree d.str := by
  unfold State.decEnd State.engineFreed State.runGone
  rfl

/-- What the end of a run shows. -/
structure DecEnded (t : State) : Prop where
  mem : t.mem = s.mem
  queues : t.queues = s.queues
  bufs : t.ing.bufs = s.ing.bufs
  gone : t.decRun d.ref = none
  regs : KeepsRegs s t (fun r => strReg r || r == .DEC_ENGm_STATE)
  idle : d.engine = none → KeepsRegs s t strReg
  freed : ∀ m, d.engine = some m → t.fbit Fld.DEC_ENGm_STATE_BUSY m = false
  rel : t.strRel d.str = s.strRel d.str

theorem State.engineFreed_some (m : Nat) : s.engineFreed (some m) = s.wr .DEC_ENGm_STATE m 0 0 := rfl

theorem State.runGone_decRun : (s.runGone d).decRun d.ref = none := by
  rw [State.decRun, State.runGone, List.find?_eq_none]
  intro x mem same
  have other := (List.mem_filter.mp mem).2
  rw [bne_iff_ne] at other
  exact other (eq_of_beq same)

theorem State.engineFreed_kept (e : Option Nat) : (s.engineFreed e).mem = s.mem ∧ (s.engineFreed e).queues = s.queues ∧
    (s.engineFreed e).ing = s.ing ∧ KeepsRegs s (s.engineFreed e) (· == .DEC_ENGm_STATE) := by
  cases e with
  | none => exact ⟨rfl, rfl, rfl, KeepsRegs.refl s _⟩
  | some m => exact ⟨State.wr_mem _ _ _ _ _, State.wr_queues _ _ _ _ _, State.wr_ing _ _ _ _ _, KeepsRegs.wr _ _ _ _ _ rfl⟩

theorem DecEnded.decEnd : DecEnded s d (s.decEnd d) := by
  rw [s.decEnd_eq d]
  obtain ⟨mem, queues, ing, regs⟩ := (s.runGone d).engineFreed_kept d.engine
  have gone : KeepsRegs s (s.runGone d) (fun _ => false) := KeepsRegs.of_rf rfl _
  have none_ : ((s.runGone d).engineFreed d.engine).decRun d.ref = none :=
    (State.decRun_congr (congrArg IngSt.decs ing) d.ref).trans (s.runGone_decRun d)
  have engine : ∀ m, d.engine = some m → ((s.runGone d).engineFreed d.engine).fget Fld.DEC_ENGm_STATE_BUSY m = 0 := by
    intro m e
    rw [e, State.engineFreed_some, State.fget, show Fld.DEC_ENGm_STATE_BUSY.reg = .DEC_ENGm_STATE from rfl, State.rd_wr_same]
    rfl
  have idle : d.engine = none → ((s.runGone d).engineFreed d.engine).rf = s.rf := by
    intro e
    rw [e]
    rfl
  have bufs : ((s.runGone d).engineFreed d.engine).ing.bufs = s.ing.bufs := (congrArg IngSt.bufs ing).trans rfl
  have mem : ((s.runGone d).engineFreed d.engine).mem = s.mem := mem
  have queues : ((s.runGone d).engineFreed d.engine).queues = s.queues := queues
  have regs : KeepsRegs s ((s.runGone d).engineFreed d.engine) (· == .DEC_ENGm_STATE) := fun r i a c l => (regs r i a c l).trans (gone r i a rfl l)
  generalize (s.runGone d).engineFreed d.engine = u at *
  have step := StrStep.strFree u d.str
  refine ⟨step.mem.trans mem, step.queues.trans queues, ?_, ?_, ?_, fun e => (KeepsRegs.of_rf (idle e) _).trans step.regs, fun m e => ?_, ?_⟩
  · rw [step.ing]
    exact bufs
  · exact (State.decRun_congr (by rw [step.ing]) _).trans none_
  · exact (KeepsRegs.mono regs (by simp)).trans (KeepsRegs.mono step.regs (by simp +contextual))
  · rw [State.fbit, step.regs.fget _ _ _ rfl rfl, engine m e]
    rfl
  · rw [(StrKept.strFree u d.str).rel, State.strRel, State.rd64, regs _ _ _ rfl rfl, regs _ _ _ rfl rfl, ← State.rd64, ← State.strRel]

end

/-! ## A DECODE that fails (R112) -/

section

variable (s : State) (r : CmdRef) (c : Cmd) (d : DecRun) (st : Nat)

/-- The buffer of a failed DECODE is empty where it has one. -/
def State.bufFreed : State := if d.hasBuf then s.setBuf d.buf bufIdle else s

theorem State.decFail_eq : s.decFail r c d st = ((s.bufFreed d).decEnd d).failRun r c st := rfl

theorem State.setBuf_same (b : Nat) (x : BufSt) : (s.setBuf b x).buf b = x := by rw [State.buf, State.setBuf, Sparse.get_set_same]
theorem State.setBuf_ne {b k : Nat} (x : BufSt) (h : k ≠ b) : (s.setBuf b x).buf k = s.buf k := by
  rw [State.buf, State.setBuf, Sparse.get_set_ne _ _ _ _ h, State.buf]

theorem State.bufFreed_shows : (s.bufFreed d).buf d.buf = (if d.hasBuf then bufIdle else s.buf d.buf) ∧
    (∀ b, b ≠ d.buf → (s.bufFreed d).buf b = s.buf b) ∧ (s.bufFreed d).mem = s.mem ∧ (s.bufFreed d).queues = s.queues ∧
    (s.bufFreed d).rf = s.rf := by
  unfold State.bufFreed
  split
  · exact ⟨s.setBuf_same _ _, fun b h => s.setBuf_ne _ h, s.setBuf_mem _ _, s.setBuf_queues _ _, s.setBuf_rf _ _⟩
  · exact ⟨rfl, fun _ _ => rfl, rfl, rfl, rfl⟩

/-- What a failed DECODE shows. -/
structure DecFailed (t : State) : Prop where
  ended : CmdEnded t r st
  gone : t.decRun d.ref = none
  own : t.buf d.buf = (if d.hasBuf then bufIdle else s.buf d.buf)
  others : ∀ b, b ≠ d.buf → t.buf b = s.buf b
  mem : t.mem = s.mem
  idle : d.engine = none → KeepsRegs s t strReg
  freed : ∀ m, d.engine = some m → t.fbit Fld.DEC_ENGm_STATE_BUSY m = false

theorem State.failRun_ing : (s.failRun r c st).ing = s.ing := State.setCmd_ing _ _ _ _
theorem State.failRun_mem : (s.failRun r c st).mem = s.mem := State.setCmd_mem _ _ _ _
theorem State.failRun_rf : (s.failRun r c st).rf = s.rf := State.setCmd_rf _ _ _ _
theorem State.fbit_of_rf {s t : State} (h : t.rf = s.rf) (f : Fld) (i : Nat) : t.fbit f i = s.fbit f i := by
  simp only [State.fbit, State.fget, State.rd, h]

variable {s r c d} {e : Cmd}

theorem DecFailed.decFail (at_ : s.cmdAt r.part.val r.queue.val r.slot = some e) (slot : c.slot = r.slot) :
    DecFailed s r d st (s.decFail r c d st) := by
  obtain ⟨own, others, mem, queues, rf⟩ := s.bufFreed_shows d
  have done := DecEnded.decEnd (s.bufFreed d) d
  rw [State.decFail_eq]
  generalize (s.bufFreed d).decEnd d = u at done ⊢
  have place : u.cmdAt r.part.val r.queue.val r.slot = some e := (State.cmdAt_congr (done.queues.trans queues) _ _ _).trans at_
  refine ⟨CmdEnded.failRun place slot st, ?_, ?_, fun b h => ?_, ?_, fun h => ?_, fun m h => ?_⟩
  · rw [State.decRun_congr (congrArg IngSt.decs (u.failRun_ing r c st)), done.gone]
  · rw [State.buf_congr (congrArg IngSt.bufs (u.failRun_ing r c st)), State.buf_congr done.bufs, own]
  · rw [State.buf_congr (congrArg IngSt.bufs (u.failRun_ing r c st)), State.buf_congr done.bufs, others b h]
  · rw [State.failRun_mem, done.mem, mem]
  · exact ((KeepsRegs.of_rf rf _).trans (done.idle h)).trans (KeepsRegs.of_rf (u.failRun_rf r c st) _)
  · rw [State.fbit_of_rf (u.failRun_rf r c st), done.freed m h]

end

/-! ## What decoding leaves alone (R100 to R108) -/

/-- The registers that decoding a span changes. -/
def decReg : RegName → Bool := fun r => hbmLoud r || r == .NUM_ARITH_STATUS || r == .DEC_ENGm_STATUS || r == .DEC_ENGm_PIX_LO || r == .DEC_ENGm_PIX_HI

/-- What decoding a span leaves alone. -/
structure Decoded (s t : State) : Prop where
  queues : t.queues = s.queues
  tier : t.tier = s.tier
  ing : t.ing = { s.ing with pixNow := t.ing.pixNow }
  rd : ∀ r i a, decReg r = false → t.rd r i a = s.rd r i a

namespace Decoded

theorem refl (s : State) : Decoded s s := ⟨rfl, rfl, rfl, fun _ _ _ _ => rfl⟩

theorem trans {s t u : State} (h : Decoded s t) (k : Decoded t u) : Decoded s u :=
  ⟨k.queues.trans h.queues, k.tier.trans h.tier, by rw [k.ing, h.ing], fun r i a n => (k.rd r i a n).trans (h.rd r i a n)⟩

theorem produced {s t : State} (h : Produced s t) : Decoded s t := by
  refine ⟨h.queues, h.tier, by rw [h.ing], fun r i a n => h.rd r i a ?_ ?_⟩ <;>
    simp only [decReg, Bool.or_eq_false_iff, beq_eq_false_iff_ne] at n
  · exact n.1.1.1.1
  · exact n.1.1.1.2

theorem quiet {s t : State} (h : Quiet s t) : Decoded s t := produced (Produced.touched h.touched)

theorem wr (s : State) (r : RegName) (i a : Nat) (v : Word) (n : decReg r = true) : Decoded s (s.wr r i a v) := by
  refine ⟨by simp, by simp, by simp, fun q j b m => s.rd_wr_reg _ _ _ _ _ ?_⟩
  rintro rfl
  rw [n] at m
  cases m

theorem foldl {β : Type} {f : State → β → State} (h : ∀ s x, Decoded s (f s x)) (l : List β) (s : State) : Decoded s (l.foldl f s) := by
  induction l generalizing s with
  | nil => exact refl s
  | cons x l ih => exact (h s x).trans (ih _)

theorem decEvent (s : State) (p m n c q : Nat) : Decoded s (s.decEvent p m n c q) := quiet (Quiet.event s _ (show 1 ≠ 3 by decide))

theorem decReport (s : State) (p m : Nat) (d : DecRun) (f : DecFound) : Decoded s (s.decReport p m d f) := by
  have note (u : State) (b k : List Fld) (n x q : Nat) : Decoded u ((u.sqSet .DEC_ENGm_STATUS m 0 b k).decEvent p m n x q) :=
    (wr u _ _ _ _ rfl).trans (decEvent _ _ _ _ _ _)
  unfold State.decReport
  extract_lets corrupt unsup short ing counted
  have first : Decoded s corrupt := foldl (fun s o => note s _ _ _ _ _) _ s
  have second : Decoded corrupt unsup := by
    show Decoded corrupt (match f.unsupAt with | some o => _ | none => corrupt)
    split
    · exact note corrupt _ _ _ _ _
    · exact refl corrupt
  have third : Decoded unsup short := by
    show Decoded unsup (match f.need with | some n => _ | none => unsup)
    split
    · exact note unsup _ _ _ _ _
    · exact refl unsup
  have fourth : Decoded short counted := ⟨rfl, rfl, rfl, fun _ _ _ _ => rfl⟩
  exact (((first.trans second).trans third).trans fourth).trans ((wr counted _ _ _ _ rfl).trans (wr _ _ _ _ _ rfl))

theorem dpbLeft (s : State) (codec : Nat) (ps : List CodedPicture) (f : DecFound) (a n : Nat) : Decoded s (s.dpbLeft codec ps f a n) := by
  unfold State.dpbLeft
  split
  · exact refl s
  · exact (show Decoded s (s.drawBytes _).2 from ⟨rfl, rfl, rfl, fun _ _ _ _ => rfl⟩).trans (produced (Produced.written (Written.writeMem _ _ _)))

theorem fget {s t : State} (h : Decoded s t) (f : Fld) (i a : Nat) (n : decReg f.reg = false) : t.fget f i a = s.fget f i a := by
  rw [State.fget, h.rd _ _ _ n, State.fget]

theorem strRel {s t : State} (h : Decoded s t) (n : Nat) : t.strRel n = s.strRel n := by
  rw [State.strRel, State.rd64, h.rd _ _ _ rfl, h.rd _ _ _ rfl, ← State.rd64, ← State.strRel]

theorem staleNow {s t : State} (h : Decoded s t) (c : Cmd) : t.staleNow c = s.staleNow c := by
  rw [State.staleNow, State.epoch, h.fget _ _ _ rfl, State.staleNow, State.epoch]

theorem bufs {s t : State} (h : Decoded s t) : t.ing.bufs = s.ing.bufs := by rw [h.ing]

end Decoded

/-- Reports change no byte. -/
theorem State.decReport_mem (s : State) (p m : Nat) (d : DecRun) (f : DecFound) : (s.decReport p m d f).mem = s.mem := by
  have note (u : State) (b k : List Fld) (n x q : Nat) : ((u.sqSet .DEC_ENGm_STATUS m 0 b k).decEvent p m n x q).mem = u.mem := by
    rw [State.decEvent, State.event_mem, State.sqSet_mem]
  unfold State.decReport
  extract_lets corrupt unsup short ing counted
  have first : corrupt.mem = s.mem := foldl_keep _ _ State.mem (fun t x => note t _ _ _ _ _) s
  have second : unsup.mem = corrupt.mem := by
    show State.mem (match f.unsupAt with | some o => _ | none => corrupt) = _
    split
    · exact note corrupt _ _ _ _ _
    · rfl
  have third : short.mem = unsup.mem := by
    show State.mem (match f.need with | some n => _ | none => unsup) = _
    split
    · exact note unsup _ _ _ _ _
    · rfl
  rw [State.wr64_mem]
  exact (third.trans second).trans first

/-- The DPB alone takes the free bytes of a decode. -/
theorem State.dpbLeft_cell {s : State} (h : s.tier = State.reset.tier) (codec : Nat) (ps : List CodedPicture) (f : DecFound) {a b n : Nat}
    (out : b < a ∨ a + n ≤ b) : (s.dpbLeft codec ps f a n).cell b = s.cell b := by
  unfold State.dpbLeft
  split
  · rfl
  · exact State.cell_scramble_out h (by omega)

/-! ## DECODE_COMPLETE (R103) -/

section

variable (s : State) (r : CmdRef) (c : Cmd) (d : DecRun) (m : Nat)

def State.decCodec : Nat := s.fget Fld.ING_STRn_STATE_CODEC d.str

/-- The pictures of a span, and what decoding comes to. -/
def State.decPics : List CodedPicture := Config.pictures (s.decCodec d) (s.spanBytes d)
def State.decFound : DecFound :=
  decodeSpan (s.decCodec d) (s.decPics d) (s.spanBytes d) (s.spanDiscs d) (dcDpbMib c * 2 ^ 20) (dcTargets c)

/-- The result records of the targets. -/
def State.decResults : List (Nat × Bool × Bool) := resultsOf (s.decCodec d) (s.decPics d) (s.spanBytes d) (s.decFound c d)
  ((s.boot.img.staging.getD d.buf { owner := 0xFF, mib := 0 }).mib * 2 ^ 20) (dcTargets c)
def State.decRecord (i : Nat) : List Byte :=
  resultRec (s.decCodec d) (s.str d.str).film (s.decPics d) ((dcTargets c).getD i 0) ((s.decResults c d).getD i (7, false, false))
def State.decRecords : List (List Byte) := (List.range (dcTargets c).length).map (s.decRecord c d)

/-- The values of the result tensor. -/
def decValues (l : List (List Byte)) : List FVal := l.flatMap (fun b => (List.range 4).map (fun j => ofInt (toSigned 32 (fieldAt b (4 * j) 4)) 0))

/-- The state before the result tensor, and after it. -/
def State.decReported : State :=
  (s.decReport r.part.val m d (s.decFound c d)).dpbLeft (s.decCodec d) (s.decPics d) (s.decFound c d) (dcDpb c) (dcDpbMib c * 2 ^ 20)
def State.decWritten : State × Nat × LedRec :=
  (s.decReported r c d m).writeTensor r.part.val (c.desc 0) 0 true ((c.desc 0).positions.zip (decValues (s.decRecords c d)))

/-- The status with which the DECODE ends. -/
def State.decStatus : Nat := if (s.decWritten r c d m).1.staleNow c then 0x0205 else (s.decWritten r c d m).2.1

/-- The frames of the targets. -/
def State.decFrames : List DecFrame := (List.range (dcTargets c).length).map (fun i =>
  ({ target := (dcTargets c).getD i 0, recd := (s.decRecords c d).getD i [], codec := s.decCodec d, span := s.spanBytes d } : DecFrame))

/-- The frames in their buffer. -/
def State.framesSet (u : State) : State := u.setBuf d.buf { u.buf d.buf with phase := 2, frames := s.decFrames c d }

theorem State.decDone_eq : s.decDone r c d m =
    if s.decStatus r c d m ≠ 0 then (s.decWritten r c d m).1.decFail r c d (s.decStatus r c d m)
    else (((s.framesSet c d (s.decWritten r c d m).1).decRelease d.str (dcRelease c)).decEnd d).finish r (c.record (c.desc 0) (s.decWritten r c d m).2.2) := by
  rfl

end

end Sys2Proof.Machine
end

section
/-! SUPPORT. DECODE, clause by clause (R98 to R103, R110, R112). -/

namespace Sys2Proof.Machine

open Sys2Proof.Safety

/-! ## Start, wait and begin -/

section

variable {s : State} {r : CmdRef} {c : Cmd}

theorem exec_decode (run : s.running r 0x41 = some c) : exec (.decode r) s = .next (s.decode r c) := by
  show execDecode r s = _
  rw [execDecode, run]

theorem exec_decode_none (h : s.running r 0x41 = none ∨ (s.decRun r).isSome = true) : exec (.decode r) s = .next s := by
  cases run : s.running r 0x41 with
  | none =>
    show execDecode r s = _
    rw [execDecode, run]
  | some c =>
    rw [exec_decode run, State.decode, if_pos (h.resolve_left (by rw [run]; rintro ⟨⟩))]

theorem exec_decode_takes (run : s.running r 0x41 = some c) (none_ : s.decRun r = none) (may : s.mayTake r (dcBuf c) = true) :
    ∃ t, exec (.decode r) s = .next t ∧ t.decRun r = some { newRun r c with hasBuf := true } ∧ t.buf (dcBuf c) = takenBuf c ∧
      (∀ b, b ≠ dcBuf c → t.buf b = s.buf b) ∧ (∀ k, k ≠ r → t.decRun k = s.decRun k) ∧
      t = { s with ing := { s.ing with bufs := t.ing.bufs, decs := t.ing.decs } } := by
  refine ⟨_, (exec_decode run).trans (congrArg _ (State.decode_takes c none_ may)), ?_, ?_, fun b h => ?_, fun k h => ?_, rfl⟩
  · exact State.bufTaken_decRun_same _ _ _ _ (State.runAdded_same c none_)
  · exact State.bufTaken_buf_same _ _ _ _
  · exact State.bufTaken_buf_ne _ _ _ h
  · exact (State.bufTaken_decRun_ne _ _ _ _ h).trans (State.runAdded_ne c h)

theorem exec_decode_waits (run : s.running r 0x41 = some c) (none_ : s.decRun r = none) (may : s.mayTake r (dcBuf c) = false) :
    ∃ t, exec (.decode r) s = .next t ∧ t.decRun r = some (newRun r c) ∧ t = { s with ing := { s.ing with decs := s.ing.decs ++ [newRun r c] } } :=
  ⟨_, (exec_decode run).trans (congrArg _ (State.decode_waits c none_ may)), State.runAdded_same c none_, rfl⟩

/-- An engine begins on the run of a command where it can. -/
def State.spanTried (s : State) (r : CmdRef) (m : Nat) : State := match s.decRun r with | some d => s.spanStart r d m | none => s

theorem State.spanTried_some {d : DecRun} (h : s.decRun r = some d) (m : Nat) : s.spanTried r m = s.spanStart r d m := by rw [State.spanTried, h]

theorem exec_decodeSpanReady (run : s.running r 0x41 = some c) (m : Fin 32) : exec (.decodeSpanReady r m) s =
    .next ((s.takeBuf r c).spanTried r m.val) := by
  show execDecodeSpanReady r m s = _
  rw [execDecodeSpanReady, run]
  rfl

theorem exec_decodeSpanReady_none (m : Fin 32) (h : s.running r 0x41 = none ∨ s.decRun r = none) : exec (.decodeSpanReady r m) s = .next s := by
  cases run : s.running r 0x41 with
  | none =>
    show execDecodeSpanReady r m s = _
    rw [execDecodeSpanReady, run]
  | some c =>
    have none_ := h.resolve_left (by rw [run]; rintro ⟨⟩)
    have stays : s.takeBuf r c = s := by rw [State.takeBuf, none_]
    rw [exec_decodeSpanReady run, stays, State.spanTried, none_]

variable {x : DecRun} (run : s.running r 0x41 = some c) (dec : s.decRun r = some x)
include run dec

omit run in
/-- The state that the buffer leaves, the run in it, and what else it may have changed. -/
theorem State.takeBuf_cases : (s.takeBuf r c = s ∧ (x.hasBuf = true ∨ s.mayTake r x.buf = false)) ∨
    (s.takeBuf r c = s.bufTaken r c x.buf ∧ x.hasBuf = false ∧ s.mayTake r x.buf = true) := by
  cases buf : x.hasBuf with
  | true => exact .inl ⟨State.takeBuf_stays dec (.inl buf), .inl rfl⟩
  | false =>
    cases may : s.mayTake r x.buf with
    | true => exact .inr ⟨State.takeBuf_takes dec buf may, rfl, rfl⟩
    | false => exact .inl ⟨State.takeBuf_stays dec (.inr may), .inr rfl⟩

theorem exec_decodeSpanReady_begins (m : Fin 32) (can : x.engine = none ∧ (x.hasBuf = true ∨ s.mayTake r x.buf = true) ∧ s.spanReady x = true ∧
      s.ownsEngine r.part.val m.val = true ∧ (x.str < 512 ↔ m.val < 16) ∧ s.fbit Fld.DEC_ENGm_STATE_BUSY m.val = false) :
    ∃ t, exec (.decodeSpanReady r m) s = .next t ∧ t.decRun r = some { x with hasBuf := true, engine := some m.val } ∧
      t.fbit Fld.DEC_ENGm_STATE_BUSY m.val = true ∧ t.fget Fld.DEC_ENGm_STATE_STREAM m.val = x.str % 1024 ∧
      t.buf x.buf = (if x.hasBuf then s.buf x.buf else takenBuf c) ∧ (∀ b, b ≠ x.buf → t.buf b = s.buf b) ∧
      t = { s with rf := t.rf, ing := { s.ing with bufs := t.ing.bufs, decs := t.ing.decs } } ∧ KeepsRegs s t (· == .DEC_ENGm_STATE) := by
  obtain ⟨engine, buf, ready, owns, die, idle⟩ := can
  rw [exec_decodeSpanReady run]
  obtain ⟨stays, has⟩ | ⟨takes, has, may⟩ := State.takeBuf_cases (c := c) dec
  · have has : x.hasBuf = true := has.elim id fun no => buf.resolve_right (by rw [no]; decide)
    rw [stays, State.spanTried_some dec, State.spanStart_starts ⟨engine, has, ready, owns, sameDie.mpr die, idle⟩]
    obtain ⟨busy, stream⟩ := s.begun_engine r x m.val
    have run' := s.begun_decRun r x m.val dec
    have whole : { x with hasBuf := true, engine := some m.val } = { x with engine := some m.val } := by rw [← has]
    refine ⟨_, rfl, run'.trans (by rw [whole]), busy, stream, ?_, fun b _ => s.begun_buf r x m.val b, ?_, s.begun_regs r x m.val⟩
    · rw [s.begun_buf, if_pos has]
    · exact s.begun_rest r x m.val
  · have dec' := s.bufTaken_decRun_same r c x.buf dec
    have start : (s.bufTaken r c x.buf).mayStart r { x with hasBuf := true } m.val := ⟨engine, rfl, ready, owns, sameDie.mpr die, idle⟩
    rw [takes, State.spanTried_some dec', State.spanStart_starts start]
    obtain ⟨busy, stream⟩ := (s.bufTaken r c x.buf).begun_engine r { x with hasBuf := true } m.val
    refine ⟨_, rfl, State.begun_decRun _ r _ m.val dec', busy, stream, ?_, fun b h => ?_, ?_, ?_⟩
    · rw [State.begun_buf, s.bufTaken_buf_same, if_neg (by rw [has]; decide)]
    · rw [State.begun_buf, s.bufTaken_buf_ne r c h]
    · exact State.begun_rest _ r _ m.val
    · exact (KeepsRegs.of_rf (t := s.bufTaken r c x.buf) rfl _).trans (State.begun_regs _ r _ m.val)

theorem exec_decodeSpanReady_waits (m : Fin 32) (cannot : ¬ (x.engine = none ∧ (x.hasBuf = true ∨ s.mayTake r x.buf = true) ∧ s.spanReady x = true ∧
      s.ownsEngine r.part.val m.val = true ∧ (x.str < 512 ↔ m.val < 16) ∧ s.fbit Fld.DEC_ENGm_STATE_BUSY m.val = false)) :
    ∃ t, exec (.decodeSpanReady r m) s = .next t ∧ (t.decRun r).map (·.engine) = some x.engine ∧ (x.hasBuf = true → t = s) ∧
      t = { s with ing := { s.ing with bufs := t.ing.bufs, decs := t.ing.decs } } := by
  rw [exec_decodeSpanReady run]
  obtain ⟨stays, has⟩ | ⟨takes, has, may⟩ := State.takeBuf_cases (c := c) dec
  · have waits : ¬ s.mayStart r x m.val := fun ⟨engine, buf, ready, owns, die, idle⟩ =>
      cannot ⟨engine, .inl buf, ready, owns, sameDie.mp die, idle⟩
    rw [stays, State.spanTried_some dec, State.spanStart_stays waits]
    exact ⟨s, rfl, by rw [dec, Option.map_some], fun _ => rfl, rfl⟩
  · have dec' := s.bufTaken_decRun_same r c x.buf dec
    have waits : ¬ (s.bufTaken r c x.buf).mayStart r { x with hasBuf := true } m.val := fun ⟨engine, _, ready, owns, die, idle⟩ =>
      cannot ⟨engine, .inr may, ready, owns, sameDie.mp die, idle⟩
    rw [takes, State.spanTried_some dec', State.spanStart_stays waits]
    exact ⟨_, rfl, by rw [dec', Option.map_some], fun h => (by rw [has] at h; cases h), rfl⟩

/-! ## Starved -/

theorem exec_decStarved : exec (.decStarved r) s = .next (s.starved r c x) := by
  show execDecStarved r s = _
  rw [execDecStarved, run, dec]

theorem exec_decStarved_fails (engine : x.engine = none) (ready : s.spanReady x = false) (limit : (s.str x.str).stall ≠ 0) :
    ∃ t, exec (.decStarved r) s = .next t ∧ CmdEnded t r 0x0821 ∧ t.decRun r = none ∧
      t.buf x.buf = (if x.hasBuf then bufIdle else s.buf x.buf) ∧ (∀ b, b ≠ x.buf → t.buf b = s.buf b) ∧ KeepsMem s t ∧ KeepsRegs s t strReg := by
  obtain ⟨at_, -, -⟩ := State.running_some run
  have failed := DecFailed.decFail (d := x) 0x0821 at_ (State.cmdAt_slot at_)
  have starves : s.starved r c x = s.decFail r c x 0x0821 := by
    unfold State.starved
    exact if_pos ⟨engine, ready, limit⟩
  refine ⟨_, (exec_decStarved run dec).trans (congrArg _ starves), failed.ended, ?_, failed.own, failed.others, fun a => ?_, failed.idle engine⟩
  · have gone := failed.gone
    rwa [State.decRun_ref dec] at gone
  · rw [State.cell, failed.mem, State.cell]

theorem exec_decStarved_waits (h : x.engine ≠ none ∨ s.spanReady x = true ∨ (s.str x.str).stall = 0) : exec (.decStarved r) s = .next s := by
  have waits : s.starved r c x = s := by
    unfold State.starved
    refine if_neg ?_
    rintro ⟨engine, ready, limit⟩
    obtain h | h | h := h
    · exact h engine
    · rw [ready] at h; cases h
    · exact limit h
  rw [exec_decStarved run dec, waits]

/-! ## Complete -/

theorem exec_decodeComplete {m : Nat} (engine : x.engine = some m) : exec (.decodeComplete r) s = .next (s.decDone r c x m) := by
  show execDecodeComplete r s = _
  rw [execDecodeComplete, run, dec]
  simp only [engine]

theorem exec_decodeComplete_idle (engine : x.engine = none) : exec (.decodeComplete r) s = .next s := by
  show execDecodeComplete r s = _
  rw [execDecodeComplete, run, dec]
  simp only [engine]

end

theorem exec_decode_idle {s : State} {r : CmdRef} (h : s.running r 0x41 = none ∨ s.decRun r = none) :
    exec (.decStarved r) s = .next s ∧ exec (.decodeComplete r) s = .next s := by
  show execDecStarved r s = _ ∧ execDecodeComplete r s = _
  rw [execDecStarved, execDecodeComplete]
  cases run : s.running r 0x41 with
  | none => exact ⟨rfl, rfl⟩
  | some c =>
    rw [h.resolve_left (by rw [run]; rintro ⟨⟩)]
    exact ⟨rfl, rfl⟩

/-! ## What an engine that has decoded leaves (R103 to R108) -/

section

variable (s : State) (r : CmdRef) (c : Cmd) (d : DecRun) (m : Nat)

theorem Decoded.decWritten : Decoded s (s.decWritten r c d m).1 :=
  ((Decoded.decReport s r.part.val m d _).trans (Decoded.dpbLeft _ _ _ _ _ _)).trans (Decoded.produced (Produced.writeTensor _ _ _ _ _ _))

/-- Of memory, decoding changes the DPB and the result tensor. -/
theorem State.decWritten_cell (tier : s.tier = State.reset.tier) (int : (c.desc 0).dtype = 0x0F) {a : Nat}
    (out : ∀ i ∈ (c.desc 0).positions, a < (c.desc 0).base + (c.desc 0).bitPos i / 8 ∨ (c.desc 0).base + (c.desc 0).bitPos i / 8 + 4 ≤ a)
    (dpb : a < dcDpb c ∨ dcDpb c + dcDpbMib c * 2 ^ 20 ≤ a) : (s.decWritten r c d m).1.cell a = s.cell a := by
  have reports := Decoded.decReport s r.part.val m d (s.decFound c d)
  have left : (s.decReported r c d m).tier = State.reset.tier := ((Decoded.dpbLeft _ _ _ _ _ _).tier.trans reports.tier).trans tier
  have cells : (s.decReported r c d m).cell a = s.cell a := by
    rw [State.decReported, State.dpbLeft_cell (reports.tier.trans tier) _ _ _ dpb, State.cell, State.decReport_mem, State.cell]
  rw [State.decWritten, State.cell_writeTensor_word left r.part.val int 0 true _ (fun x mem => out x.1 (List.of_mem_zip mem).1), cells]

/-- RELEASE_TO moves the release point up alone (R102). -/
theorem State.decRelease_rel (n v : Nat) (lt : v < 2 ^ 64) : (s.decRelease n v).strRel n = max (s.strRel n) v := by
  unfold State.decRelease
  split
  next h => rw [State.strRel, State.rd64_wr64_same _ _ _ _ (by decide) lt, Nat.max_eq_right (by omega)]
  next h => rw [Nat.max_eq_left (by omega)]

theorem State.decRelease_kept (n v : Nat) : (s.decRelease n v).mem = s.mem ∧ (s.decRelease n v).queues = s.queues ∧ (s.decRelease n v).ing = s.ing := by
  unfold State.decRelease
  split
  · exact ⟨State.wr64_mem _ _ _ _ _ _, State.wr64_queues _ _ _ _ _ _, State.wr64_ing _ _ _ _ _ _⟩
  · exact ⟨rfl, rfl, rfl⟩

theorem State.finish_buf (b : Nat) : (s.finish r c).buf b = s.buf b := State.buf_congr (congrArg IngSt.bufs (State.setCmd_ing s _ _ _)) b

/-- A frame of each target, with its record. -/
theorem State.decFrames_eq : s.decFrames c d = (List.range (dcTargets c).length).map (fun i =>
    ({ target := (dcTargets c).getD i 0, recd := s.decRecord c d i, codec := s.decCodec d, span := s.spanBytes d } : DecFrame)) := by
  refine List.map_congr_left (fun i lt => ?_)
  have rec_ : (s.decRecords c d).getD i [] = s.decRecord c d i := by
    rw [State.decRecords, List.getD_eq_getElem?_getD, List.getElem?_map, List.getElem?_range (List.mem_range.mp lt)]
    rfl
  rw [rec_]

theorem Cmd.record_kept (c : Cmd) (t : TDesc) (l : LedRec) : (c.record t l).slot = c.slot ∧ (c.record t l).fail = c.fail := by
  unfold Cmd.record
  split_ifs <;> exact ⟨rfl, rfl⟩

/-- What the engine's end shows of the DECODE, its buffer, the other buffers and the release point. -/
structure DecodeDone (st : Nat) (t : State) : Prop where
  ended : CmdEnded t r st
  gone : t.decRun d.ref = none
  freed : d.engine = some m → t.fbit Fld.DEC_ENGm_STATE_BUSY m = false
  others : ∀ b, b ≠ d.buf → t.buf b = s.buf b
  stale : s.staleNow c = true → st = 0x0205
  empty : st ≠ 0 → d.hasBuf = true → t.buf d.buf = bufIdle
  full : st = 0 → t.buf d.buf = { s.buf d.buf with phase := 2, frames := s.decFrames c d } ∧ t.strRel d.str = max (s.strRel d.str) (dcRelease c)
  mem : t.mem = (s.decWritten r c d m).1.mem

variable {s r c d}

theorem DecodeDone.decDone (run : s.running r 0x41 = some c) : DecodeDone s r c d m (s.decStatus r c d m) (s.decDone r c d m) := by
  obtain ⟨at_, -, ok⟩ := State.running_some run
  have slot := State.cmdAt_slot at_
  have work := Decoded.decWritten s r c d m
  have stale : s.staleNow c = true → s.decStatus r c d m = 0x0205 := by
    intro h
    rw [State.decStatus, work.staleNow, if_pos h]
  have bufs (b : Nat) := State.buf_congr work.bufs b
  have rel := work.strRel d.str
  rw [State.decDone_eq]
  generalize s.decStatus r c d m = st at stale ⊢
  generalize e : s.decWritten r c d m = w at work bufs rel ⊢
  have place : w.1.cmdAt r.part.val r.queue.val r.slot = some c := (State.cmdAt_congr work.queues _ _ _).trans at_
  by_cases fails : st ≠ 0
  · rw [if_pos fails]
    have failed := DecFailed.decFail (d := d) st place slot
    refine ⟨failed.ended, failed.gone, failed.freed m, fun b h => (failed.others b h).trans (bufs b), stale, fun _ has => ?_, fun z => absurd z fails,
      failed.mem.trans (by rw [e])⟩
    rw [failed.own, if_pos has]
  · rw [if_neg fails]
    obtain rfl : st = 0 := by simpa using fails
    obtain ⟨mem, queues, ing⟩ := (s.framesSet c d w.1).decRelease_kept d.str (dcRelease c)
    have moved := (s.framesSet c d w.1).decRelease_rel d.str (dcRelease c) (fieldAt_lt c.bytes 88 8)
    have own : (s.framesSet c d w.1).buf d.buf = { s.buf d.buf with phase := 2, frames := s.decFrames c d } := by
      rw [State.framesSet, State.setBuf_same, bufs]
    have other (b : Nat) (h : b ≠ d.buf) : (s.framesSet c d w.1).buf b = s.buf b := by rw [State.framesSet, State.setBuf_ne _ _ h, bufs]
    have set : (s.framesSet c d w.1).queues = w.1.queues ∧ (s.framesSet c d w.1).mem = w.1.mem ∧ (s.framesSet c d w.1).strRel d.str = w.1.strRel d.str :=
      ⟨State.setBuf_queues _ _ _, State.setBuf_mem _ _ _, rfl⟩
    generalize s.framesSet c d w.1 = u at mem queues ing moved own other set ⊢
    have done := DecEnded.decEnd (u.decRelease d.str (dcRelease c)) d
    generalize u.decRelease d.str (dcRelease c) = v at mem queues ing moved done ⊢
    generalize v.decEnd d = z at done ⊢
    obtain ⟨slot', fail'⟩ := Cmd.record_kept c (c.desc 0) w.2.2
    obtain ⟨setQ, setM, setR⟩ := set
    have last : z.cmdAt r.part.val r.queue.val r.slot = some c :=
      (State.cmdAt_congr (((done.queues.trans queues).trans setQ)) _ _ _).trans place
    have fin (b : Nat) : (z.finish r (c.record (c.desc 0) w.2.2)).buf b = u.buf b := by
      rw [State.finish_buf, State.buf_congr done.bufs, State.buf_congr (congrArg IngSt.bufs ing)]
    refine ⟨CmdEnded.finish last (slot'.trans slot) (fail'.trans ok), ?_, fun engine => ?_, fun b h => (fin b).trans (other b h), stale, fun h => absurd rfl h,
      fun _ => ⟨(fin _).trans own, ?_⟩, ?_⟩
    · exact (State.decRun_congr (congrArg IngSt.decs (State.setCmd_ing z _ _ _)) _).trans done.gone
    · exact (State.fbit_of_rf (State.setCmd_rf z _ _ _) _ _).trans (done.freed m engine)
    · rw [State.finish_strRel, done.rel, moved, setR, rel]
    · exact (State.setCmd_mem z _ _ _).trans (((done.mem.trans mem).trans setM).trans (by rw [e]))

end

end Sys2Proof.Machine
end

section
/-! SUPPORT. Conditioning (R112, R113) and what a sample's landing decides (R118 to R120). -/

namespace Sys2Proof.Machine

/-! ## Events of the conditioning engines -/

section

variable (s : State) (k e c v p q : Nat)

theorem Quiet.cndEvent (h : v ≠ 3) : Quiet s (s.cndEvent k e c v p q) := Quiet.event s _ h

/-- Where there is room, a conditioning engine's event is recorded. -/
theorem Recorded.cndEvent (h : evRoom s.evr.buf.length v = true) : Recorded (s.cndEvent k e c v p q)
    { code := c, cls := 0x09, inst := e, sev := v, part := s.poolPart k, p1 := p, p2 := q } := Recorded.event s _ h

end

section

variable (s : State) (b : Nat) (x : BufSt)

theorem State.setBuf_regs (n : RegName → Bool) : KeepsRegs s (s.setBuf b x) n := KeepsRegs.of_rf (s.setBuf_rf b x) n
theorem State.setBuf_pools : (s.setBuf b x).ing.pools = s.ing.pools := rfl

end

theorem Quiet.buf {s t : State} (h : Quiet s t) (b : Nat) : t.buf b = s.buf b := State.buf_congr (by rw [h.ing]) b

/-! ## CONDITION_SAMPLE (R113, R114) -/

/-- The flags of a conditioned sample. -/
theorem sampleFlags (single bob : Bool) : let f := 1 + b2n single * 4 + b2n bob * 8
    bitOf f 0 = true ∧ bitOf f 1 = false ∧ bitOf f 3 = bob ∧ bitOf f 2 = single := by
  cases single <;> cases bob <;> decide

section

variable (s : State) (b : Fin 64) (e : Quad) (d : SampleDesc)

/-- A sample conditioned. -/
def State.conditioned : State := s.setBuf b.val { s.buf b.val with
  phase := 3, engine := e.val, data := s.condition d (s.buf b.val).frames
  flags := 1 + b2n ((s.buf b.val).frames.any (fun f => f.result == 3)) * 4 + b2n (d.deint == 2) * 8 }

/-- A sample that is a hole, reported. -/
def State.holed (f : DecFrame) : State :=
  (s.setBuf b.val { s.buf b.val with phase := 3, data := [], flags := 3, engine := e.val }).cndEvent d.pool e.val 0x0840 1 (d.pool + d.index * 2 ^ 32)
    (d.wseq + f.result * 2 ^ 32)

variable {s b e d}

theorem State.conditionSample_none (h : (s.buf b.val).sample = none ∨ (s.buf b.val).phase ≠ 2 ∨ ¬ (b.val < 32 ↔ e.val < 4) ∨ s.live = false) :
    s.conditionSample b.val e.val = s := by
  unfold State.conditionSample
  dsimp only
  split
  · rfl
  next d sample =>
    refine if_neg ?_
    rintro ⟨phase, die, live⟩
    rw [beq_iff_eq, decide_eq_decide] at die
    obtain h | h | h | h := h
    · rw [sample] at h; cases h
    · exact h phase
    · exact h die
    · rw [live] at h; cases h

variable (sample : (s.buf b.val).sample = some d) (phase : (s.buf b.val).phase = 2) (die : b.val < 32 ↔ e.val < 4) (live : s.live = true)
include sample phase die live

theorem State.conditionSample_eq : s.conditionSample b.val e.val =
    ((s.buf b.val).frames.find? (holeTarget d)).elim (s.conditioned b e d) (s.holed b e d) := by
  have can : (s.buf b.val).phase = 2 ∧ (decide (b.val < 32) == decide (e.val < 4)) = true ∧ s.live = true :=
    ⟨phase, by rw [beq_iff_eq, decide_eq_decide]; exact die, live⟩
  unfold State.conditionSample
  dsimp only
  split
  next none_ => rw [sample] at none_; cases none_
  next d' same =>
    rw [sample] at same
    cases same
    rw [if_pos can]
    split
    next f hole => rw [hole]; rfl
    next none_ => rw [none_]; rfl

theorem exec_conditionSample_good (good : (s.buf b.val).frames.find? (holeTarget d) = none) : ∃ t, exec (.conditionSample b e) s = .next t ∧
    t.buf b.val = { s.buf b.val with phase := 3, engine := e.val, data := s.condition d (s.buf b.val).frames, flags := (t.buf b.val).flags } ∧
    bitOf (t.buf b.val).flags 0 = true ∧ bitOf (t.buf b.val).flags 1 = false ∧ bitOf (t.buf b.val).flags 3 = (d.deint == 2) ∧
    bitOf (t.buf b.val).flags 2 = (s.buf b.val).frames.any (fun f => f.result == 3) ∧
    (∀ k, k ≠ b.val → t.buf k = s.buf k) ∧ t = { s with ing := { s.ing with bufs := t.ing.bufs } } := by
  have done : s.conditionSample b.val e.val = s.conditioned b e d := by rw [State.conditionSample_eq sample phase die live, good]; rfl
  have own := s.setBuf_same b.val { s.buf b.val with
    phase := 3, engine := e.val, data := s.condition d (s.buf b.val).frames
    flags := 1 + b2n ((s.buf b.val).frames.any (fun f => f.result == 3)) * 4 + b2n (d.deint == 2) * 8 }
  obtain ⟨f0, f1, f3, f2⟩ := sampleFlags ((s.buf b.val).frames.any (fun f => f.result == 3)) (d.deint == 2)
  refine ⟨s.conditioned b e d, congrArg Host.Outcome.next done, ?_, ?_, ?_, ?_, ?_, fun k h => s.setBuf_ne _ h, rfl⟩ <;> rw [State.conditioned, own]
  · exact f0
  · exact f1
  · exact f3
  · exact f2

theorem exec_conditionSample_hole {f : DecFrame} (hole : (s.buf b.val).frames.find? (holeTarget d) = some f) :
    ∃ t, exec (.conditionSample b e) s = .next t ∧ t.buf b.val = { s.buf b.val with phase := 3, data := [], flags := 3, engine := e.val } ∧
      (∀ k, k ≠ b.val → t.buf k = s.buf k) ∧
      (evRoom s.evr.buf.length 1 = true → Recorded t
        { code := 0x0840, cls := 0x09, inst := e.val, sev := 1, part := s.poolPart d.pool, p1 := d.pool + d.index * 2 ^ 32,
          p2 := d.wseq + f.result * 2 ^ 32 }) ∧
      t.mem = s.mem ∧ t.queues = s.queues ∧ KeepsRegs s t (fun _ => false) := by
  have done : s.conditionSample b.val e.val = s.holed b e d f := by rw [State.conditionSample_eq sample phase die live, hole]; rfl
  have quiet := Quiet.cndEvent (s.setBuf b.val { s.buf b.val with phase := 3, data := [], flags := 3, engine := e.val }) d.pool e.val 0x0840
    (v := 1) (d.pool + d.index * 2 ^ 32) (d.wseq + f.result * 2 ^ 32) (by decide)
  refine ⟨_, congrArg Host.Outcome.next done, ?_, fun k h => ?_, fun room => Recorded.cndEvent _ _ _ _ _ _ _ ?_, ?_, ?_, ?_⟩
  · exact (quiet.buf _).trans (s.setBuf_same _ _)
  · exact (quiet.buf _).trans (s.setBuf_ne _ h)
  · rw [State.setBuf_evr]; exact room
  · exact quiet.mem.trans (s.setBuf_mem _ _)
  · exact quiet.queues.trans (s.setBuf_queues _ _)
  · exact (s.setBuf_regs _ _ _).trans (KeepsRegs.quiet quiet _)

end

/-! ## SAMPLE_LAND: what it decides (R118 to R120) -/

/-- The ring position of a window. -/
def State.ringOf (s : State) (d : SampleDesc) : Nat := d.wseq % max 1 (s.poolNwin d.pool)

/-- Whether a sample is the first of its window. -/
def State.freshFor (s : State) (d : SampleDesc) : Bool := (s.poolPos d.pool (s.ringOf d)).all (fun q => q.win != d.wseq)

/-- The window of a sample as it lands. -/
def State.windowFor (s : State) (d : SampleDesc) : PoolPos :=
  if s.freshFor d then { win := d.wseq, filled := [], holes := [] } else (s.poolPos d.pool (s.ringOf d)).getD { win := 0, filled := [], holes := [] }

/-- The state in which a sample lands: its buffer empty, its window open. -/
def State.landOpen (s : State) (b : Nat) (d : SampleDesc) : State :=
  if s.freshFor d then (s.setBuf b bufIdle).openWindow d.pool (s.ringOf d) d.wseq else s.setBuf b bufIdle

/-- A sample that is dropped, with its event. -/
def State.landDropped (s : State) (b c v : Nat) (d : SampleDesc) : State :=
  (s.setBuf b bufIdle).cndEvent d.pool (s.buf b).engine c v (d.pool + d.index * 2 ^ 32) d.wseq

section

variable {s : State} {b : Nat} {d : SampleDesc}

theorem State.sampleLand_waits (h : (s.buf b).sample = none ∨ (s.buf b).phase ≠ 3 ∨ (∃ d, (s.buf b).sample = some d ∧
    (s.poolOn d.pool = false ∨ 4 ≤ s.poolOwner d.pool ∨ (s.released d.pool d.wseq = false ∧ (s.buf b).held = true)))) : s.sampleLand b = s := by
  unfold State.sampleLand
  dsimp only
  split
  · rfl
  next d sample =>
    split
    · rfl
    next go =>
      simp only [not_or, not_not, not_le, Bool.not_eq_false] at go
      obtain ⟨phase, on, owner⟩ := go
      obtain h | h | ⟨d', same, h | h | ⟨early, held⟩⟩ := h
      · rw [sample] at h; cases h
      · exact absurd phase h
      all_goals rw [sample] at same; cases same
      · rw [on] at h; cases h
      · omega
      · rw [early, held]
        rfl

variable (sample : (s.buf b).sample = some d) (phase : (s.buf b).phase = 3) (on : s.poolOn d.pool = true) (owner : s.poolOwner d.pool < 4)
include sample phase on owner

theorem State.sampleLand_holds (early : s.released d.pool d.wseq = false) (held : (s.buf b).held = false) : s.sampleLand b =
    (s.setBuf b { s.buf b with held := true }).sqSet .SHF_POOLp_STATUS d.pool 0 [] [Fld.SHF_POOLp_STATUS_REFILL_HELD_CNT] := by
  unfold State.sampleLand
  dsimp only
  split
  next none_ => rw [sample] at none_; cases none_
  next d' same =>
    rw [sample] at same
    cases same
    rw [if_neg (by simp [phase, on, owner]), if_pos (by rw [early]; rfl), if_neg (by rw [held]; decide)]

/-- A sample whose window may land: it is dropped where its window has passed or its slot does not exist or is filled, and else lands. -/
theorem State.sampleLand_lands (may : s.released d.pool d.wseq = true) : s.sampleLand b =
    if (match s.poolPos d.pool (s.ringOf d) with | some q => decide (d.wseq < q.win) | none => false) || s.poolW d.pool ≤ d.index then
      s.landDropped b 0x0860 1 d
    else if NSet.mem (((s.landOpen b d).poolPos d.pool (s.ringOf d)).getD { win := d.wseq, filled := [], holes := [] }).filled d.index then
      (s.landOpen b d).cndEvent d.pool (s.buf b).engine 0x0861 2 (d.pool + d.index * 2 ^ 32) d.wseq
    else (s.landOpen b d).fillSlot d.pool (s.ringOf d) d (s.buf b)
      (((s.landOpen b d).poolPos d.pool (s.ringOf d)).getD { win := d.wseq, filled := [], holes := [] }) := by
  have fresh : s.freshFor d = (match (s.setBuf b bufIdle).poolPos d.pool (s.ringOf d) with | some q => q.win != d.wseq | none => true) := by
    rw [State.freshFor, show (s.setBuf b bufIdle).poolPos d.pool (s.ringOf d) = s.poolPos d.pool (s.ringOf d) from rfl]
    cases s.poolPos d.pool (s.ringOf d) <;> rfl
  have late : ¬ (!s.released d.pool d.wseq) = true := by rw [may]; decide
  unfold State.sampleLand
  dsimp only
  split
  next none_ => rw [sample] at none_; cases none_
  next d' same =>
    rw [sample] at same
    cases same
    rw [if_neg (by simp [phase, on, owner]), if_neg late]
    unfold State.landOpen
    rw [fresh]
    rfl

end

end Sys2Proof.Machine
end

section
/-! SUPPORT. Landing (R117 to R120): the pools through writes, where headers and slots lie, and what a sample that lands leaves. -/

namespace Sys2Proof.Machine

/-! ## Pools through writes -/

theorem Written.fget {s t : State} (h : Written s t) (f : Fld) (i a : Nat) (n : hbmLoud f.reg = false) : t.fget f i a = s.fget f i a := by
  rw [State.fget, h.rd _ _ _ n, State.fget]

section

variable {s t : State} (h : Written s t)
include h

theorem Written.poolOwner (k : Nat) : t.poolOwner k = s.poolOwner k := by rw [State.poolOwner, h.img, State.poolOwner]
theorem Written.poolW (k : Nat) : t.poolW k = s.poolW k := h.fget _ _ _ rfl
theorem Written.poolNwin (k : Nat) : t.poolNwin k = s.poolNwin k := h.fget _ _ _ rfl

theorem Written.poolBase (k : Nat) : t.poolBase k = s.poolBase k := by
  rw [State.poolBase, State.rd64, h.rd _ _ _ rfl, h.rd _ _ _ rfl, ← State.rd64, ← State.poolBase]

omit h in
/-- Tubelet and element depend on FMT alone. -/
theorem State.poolRow_congr {k : Nat} (fmt : t.rd .SHF_POOLp_FMT k 0 = s.rd .SHF_POOLp_FMT k 0) :
    t.poolTubelet k = s.poolTubelet k ∧ t.poolElem k = s.poolElem k ∧ t.poolP k = s.poolP k ∧ t.poolT k = s.poolT k := by
  have field (f : Fld) (e : f.reg = .SHF_POOLp_FMT) : t.fget f k = s.fget f k := by rw [State.fget, e, fmt, State.fget, e]
  have p : t.poolP k = s.poolP k := by rw [State.poolP, field _ rfl, State.poolP]
  have n : t.poolT k = s.poolT k := by rw [State.poolT, field _ rfl, State.poolT]
  have c : t.poolC k = s.poolC k := by rw [State.poolC, State.fbit, field _ rfl, ← State.fbit, ← State.poolC]
  refine ⟨by rw [State.poolTubelet, p, n, c, State.poolTubelet], ?_, p, n⟩
  rw [State.poolElem, State.poolDtype, field _ rfl, State.poolElem, State.poolDtype]

theorem Written.sampleSize (k : Nat) : t.sampleSize k = s.sampleSize k := by
  obtain ⟨tubelet, elem, p, n⟩ := State.poolRow_congr (h.rd .SHF_POOLp_FMT k 0 rfl)
  have w : t.poolOutW k = s.poolOutW k := h.fget _ _ _ rfl
  have g : t.poolOutH k = s.poolOutH k := h.fget _ _ _ rfl
  have f : t.poolFrames k = s.poolFrames k := h.fget _ _ _ rfl
  rw [State.sampleSize, State.poolTubelets, tubelet, elem, p, n, w, g, f, State.sampleSize, State.poolTubelets]

theorem Written.slotSize (k : Nat) : t.slotSize k = s.slotSize k := by rw [State.slotSize, h.sampleSize, State.slotSize]

theorem Written.poolHead (k r i : Nat) : t.poolHead k r i = s.poolHead k r i := by rw [State.poolHead, h.poolBase, h.poolW, State.poolHead]

theorem Written.poolSlot (k r i : Nat) : t.poolSlot k r i = s.poolSlot k r i := by
  rw [State.poolSlot, h.poolBase, State.poolHeads, h.poolNwin, h.poolW, h.slotSize, State.poolSlot, State.poolHeads]

theorem Written.poolPos (k r : Nat) : t.poolPos k r = s.poolPos k r := by rw [State.poolPos, h.ing, State.poolPos]
theorem Written.buf (b : Nat) : t.buf b = s.buf b := State.buf_congr (by rw [h.ing]) b

end

theorem State.setPos_same (s : State) (k r : Nat) (x : PoolPos) : (s.setPos k r x).poolPos k r = some x := by
  rw [State.poolPos, State.setPos, Sparse.find_insert_same]

/-! ## Where headers and slots lie (R117) -/

section

variable (s : State) {k r i : Nat} (ring : r < s.poolNwin k) (lt : i < s.poolW k)
include ring

/-- The headers of a ring position end before the first slot. -/
theorem State.poolHead_slot (j : Nat) : s.poolHead k r 0 + s.poolW k * 32 ≤ s.poolSlot k r j := by
  have rows : (r + 1) * s.poolW k ≤ s.poolNwin k * s.poolW k := Nat.mul_le_mul_right _ ring
  have size : s.poolNwin k * s.poolW k * 32 ≤ s.poolHeads k := by
    unfold State.poolHeads ceilTo
    omega
  rw [Nat.add_mul, Nat.one_mul] at rows
  unfold State.poolHead State.poolSlot
  have room : (r * s.poolW k + 0) * 32 + s.poolW k * 32 ≤ s.poolHeads k := by omega
  omega

omit ring in
include lt in
/-- The header of a slot is one of its ring position. -/
theorem State.poolHead_in : s.poolHead k r 0 ≤ s.poolHead k r i ∧ s.poolHead k r i + 32 ≤ s.poolHead k r 0 + s.poolW k * 32 := by
  unfold State.poolHead
  omega

end

theorem slotHeader_length (d : SampleDesc) (flags : Nat) : (slotHeader d flags).length = 32 := by
  have bytes (n v : Nat) : (leBytes n v).length = n := by
    induction n generalizing v with
    | zero => rfl
    | succ n ih => rw [leBytes, List.length_cons, ih]
  simp [slotHeader, padTo, bytes]

/-! ## The slot of a sample (R118) -/

section

variable (s : State) (r : Nat) (d : SampleDesc) (x : BufSt) (q : PoolPos)

/-- The data of a sample written to its slot, where it is no hole. -/
def State.dataWritten : State × Nat :=
  if bitOf x.flags 1 then (s, 0) else s.writeAs (s.poolOwner d.pool) (s.poolSlot d.pool r d.index) (x.data.take (s.slotSize d.pool))

/-- And its header. -/
def State.headWritten : State × Nat := (s.dataWritten r d x).1.writeAs (s.poolOwner d.pool) (s.poolHead d.pool r d.index) (slotHeader d x.flags)

/-- The ring position with a slot filled. -/
def PoolPos.fill (q : PoolPos) (i : Nat) (hole : Bool) : PoolPos :=
  { q with filled := NSet.insert q.filled i, holes := if hole then NSet.insert q.holes i else q.holes }

/-- HOLE, and the fill lock. -/
def State.holeNoted (k : Nat) (hole : Bool) : State := if hole then s.sqSet .SHF_POOLp_STATUS k 0 [Fld.SHF_POOLp_STATUS_HOLE] [] else s
def State.lockFilled (p k : Nat) : State := s.lockAdd p (s.fget Fld.SHF_POOLp_CTRL_FILL_LOCK k) 1

/-- A slot filled. -/
def State.slotFilled : State :=
  (((s.headWritten r d x).1.setPos d.pool r (q.fill d.index (bitOf x.flags 1))).holeNoted d.pool (bitOf x.flags 1)).lockFilled (s.poolOwner d.pool) d.pool

theorem Written.dataWritten : Written s (s.dataWritten r d x).1 := by
  unfold State.dataWritten
  split
  · exact Written.refl s
  · exact Written.writeAs s _ _ _

theorem Written.headWritten : Written s (s.headWritten r d x).1 := (Written.dataWritten s r d x).trans (Written.writeAs _ _ _ _)

theorem State.fillSlot_eq : s.fillSlot d.pool r d x q =
    if (s.dataWritten r d x).2 ≠ 0 ∨ (s.headWritten r d x).2 ≠ 0 then (s.headWritten r d x).1 else s.slotFilled r d x q := by
  have head := (Written.dataWritten s r d x).poolHead d.pool r d.index
  unfold State.slotFilled State.headWritten
  rw [← head]
  rfl

/-! ## Memory -/

variable {s r d x} (tier : s.tier = State.reset.tier)
include tier

/-- Beside the slot and its header no byte changes. -/
theorem State.headWritten_out {a : Nat} (head : a < s.poolHead d.pool r d.index ∨ s.poolHead d.pool r d.index + 32 ≤ a)
    (slot : a < s.poolSlot d.pool r d.index ∨ s.poolSlot d.pool r d.index + (x.data.take (s.slotSize d.pool)).length ≤ a) :
    (s.headWritten r d x).1.cell a = s.cell a := by
  have data : (s.dataWritten r d x).1.cell a = s.cell a := by
    unfold State.dataWritten
    split
    · rfl
    · exact State.cell_writeAs_out tier _ slot
  rw [State.headWritten, State.cell_writeAs_out ((Written.dataWritten s r d x).tier.trans tier) _ (by rw [slotHeader_length]; exact head), data]

/-- The header is there where it is written. -/
theorem State.headWritten_head (ok : (s.headWritten r d x).2 = 0) {i : Nat} (lt : i < 32) (low : s.poolHead d.pool r d.index + i < t2Base) :
    (s.headWritten r d x).1.cell (s.poolHead d.pool r d.index + i) = (slotHeader d x.flags).getD i 0 :=
  State.cell_writeAs_in ((Written.dataWritten s r d x).tier.trans tier) _ ok (by rw [slotHeader_length]; exact lt) low

/-- The data is there where it is written, and its header lies elsewhere. -/
theorem State.headWritten_data (ok : (s.dataWritten r d x).2 = 0) (whole : bitOf x.flags 1 = false) {i : Nat}
    (lt : i < (x.data.take (s.slotSize d.pool)).length) (low : s.poolSlot d.pool r d.index + i < t2Base)
    (apart : s.poolHead d.pool r d.index + 32 ≤ s.poolSlot d.pool r d.index) :
    (s.headWritten r d x).1.cell (s.poolSlot d.pool r d.index + i) = (x.data.take (s.slotSize d.pool)).getD i 0 := by
  have written : s.dataWritten r d x = s.writeAs (s.poolOwner d.pool) (s.poolSlot d.pool r d.index) (x.data.take (s.slotSize d.pool)) := by
    unfold State.dataWritten
    rw [if_neg (by rw [whole]; decide)]
  rw [State.headWritten, State.cell_writeAs_out ((Written.dataWritten s r d x).tier.trans tier) _ (by rw [slotHeader_length]; omega)]
  rw [written] at ok ⊢
  exact State.cell_writeAs_in tier _ ok lt low

end

/-! ## A slot that is filled -/

section

variable (s : State) (r : Nat) (d : SampleDesc) (x : BufSt) (q : PoolPos)

theorem State.lockAdd_ing (p k v : Nat) : (s.lockAdd p k v).ing = s.ing := by
  unfold State.lockAdd
  dsimp only
  split
  · exact State.wr_ing _ _ _ _ _
  · rw [(QuietFail.event _ _).ing, State.sqSet_ing, State.wr_ing]

theorem State.holeNoted_kept (k : Nat) (hole : Bool) : (s.holeNoted k hole).mem = s.mem ∧ (s.holeNoted k hole).ing = s.ing ∧
    KeepsRegs s (s.holeNoted k hole) (· == .SHF_POOLp_STATUS) := by
  unfold State.holeNoted
  split
  · exact ⟨State.sqSet_mem _ _ _ _ _ _, State.sqSet_ing _ _ _ _ _ _, KeepsRegs.wr _ _ _ _ _ rfl⟩
  · exact ⟨rfl, rfl, KeepsRegs.refl s _⟩

/-- Filling a slot changes memory and buffers as its writes do. -/
theorem State.slotFilled_mem : (s.slotFilled r d x q).mem = (s.headWritten r d x).1.mem := by
  rw [State.slotFilled, State.lockFilled, State.lockAdd_mem, (State.holeNoted_kept _ _ _).1, State.setPos_mem]

theorem State.slotFilled_ing : (s.slotFilled r d x q).ing =
    ((s.headWritten r d x).1.setPos d.pool r (q.fill d.index (bitOf x.flags 1))).ing := by
  rw [State.slotFilled, State.lockFilled, State.lockAdd_ing, (State.holeNoted_kept _ _ _).2.1]

theorem State.slotFilled_buf (b : Nat) : (s.slotFilled r d x q).buf b = s.buf b :=
  (State.buf_congr (congrArg IngSt.bufs (s.slotFilled_ing r d x q)) b).trans ((Written.headWritten s r d x).buf b)

theorem State.slotFilled_pos : (s.slotFilled r d x q).poolPos d.pool r = some (q.fill d.index (bitOf x.flags 1)) := by
  rw [State.poolPos, s.slotFilled_ing r d x q, ← State.poolPos, State.setPos_same]

/-- A hole sets HOLE. -/
theorem State.slotFilled_hole (hole : bitOf x.flags 1 = true) : (s.slotFilled r d x q).fget Fld.SHF_POOLp_STATUS_HOLE d.pool = 1 := by
  rw [State.slotFilled, State.lockFilled, (State.lockAdd_regs _ _ _ _).fget _ _ _ rfl rfl, hole, State.holeNoted, if_pos rfl]
  exact State.sqSet_bit _ Fld.SHF_POOLp_STATUS_HOLE _ _ rfl (by decide)

/-- And the fill lock rises by one. -/
theorem State.slotFilled_lock : (s.slotFilled r d x q).lock (s.poolOwner d.pool) (s.fget Fld.SHF_POOLp_CTRL_FILL_LOCK d.pool) =
    min (s.lock (s.poolOwner d.pool) (s.fget Fld.SHF_POOLp_CTRL_FILL_LOCK d.pool) + 1) 0xFFFFFFFF := by
  have written := Written.headWritten s r d x
  have noted := (((s.headWritten r d x).1.setPos d.pool r (q.fill d.index (bitOf x.flags 1))).holeNoted_kept d.pool (bitOf x.flags 1)).2.2
  have set : KeepsRegs (s.headWritten r d x).1 ((s.headWritten r d x).1.setPos d.pool r (q.fill d.index (bitOf x.flags 1))) (fun _ => false) :=
    KeepsRegs.of_rf (State.setPos_rf _ _ _ _) _
  have which : (((s.headWritten r d x).1.setPos d.pool r (q.fill d.index (bitOf x.flags 1))).holeNoted d.pool (bitOf x.flags 1)).fget
      Fld.SHF_POOLp_CTRL_FILL_LOCK d.pool = s.fget Fld.SHF_POOLp_CTRL_FILL_LOCK d.pool := by
    rw [noted.fget _ _ _ rfl rfl, set.fget _ _ _ rfl rfl, written.fget _ _ _ rfl]
  have was (p k : Nat) : (((s.headWritten r d x).1.setPos d.pool r (q.fill d.index (bitOf x.flags 1))).holeNoted d.pool (bitOf x.flags 1)).lock p k =
      s.lock p k := by
    rw [State.lock, noted _ _ _ rfl rfl, set _ _ _ rfl rfl, written.rd _ _ _ rfl, State.lock]
  rw [State.slotFilled, State.lockFilled, which, State.lock_lockAdd_same, was, Nat.min_comm]
  rfl

end

end Sys2Proof.Machine
end

section
/-! SUPPORT. SAMPLE_LAND, clause by clause (R118 to R120). -/

namespace Sys2Proof.Machine

/-! ## A sample that is held or dropped -/

section

variable {s : State} {b : Fin 64} {d : SampleDesc}

theorem exec_sampleLand_holds (sample : (s.buf b.val).sample = some d) (phase : (s.buf b.val).phase = 3) (on : s.poolOn d.pool = true)
    (owner : s.poolOwner d.pool < 4) (early : s.released d.pool d.wseq = false) (held : (s.buf b.val).held = false) :
    ∃ t, exec (.sampleLand b) s = .next t ∧ t.buf b.val = { s.buf b.val with held := true } ∧
      t = { s with rf := t.rf, ing := { s.ing with bufs := t.ing.bufs } } ∧ KeepsRegs s t (· == .SHF_POOLp_STATUS) := by
  refine ⟨_, congrArg Host.Outcome.next (State.sampleLand_holds sample phase on owner early held), ?_, ?_, ?_⟩
  · exact (State.buf_congr (by rw [State.sqSet_ing]) _).trans (s.setBuf_same _ _)
  · unfold State.sqSet State.wr State.setBuf
    rfl
  · exact (s.setBuf_regs _ _ _).trans (KeepsRegs.wr _ _ _ _ _ rfl)

/-- An event after a buffer is emptied. -/
theorem State.cndEvent_drops (s : State) (b k e c v p q : Nat) (h : v ≠ 3) :
    let t := (s.setBuf b bufIdle).cndEvent k e c v p q
    t.buf b = bufIdle ∧ t.mem = s.mem ∧ t.ing.pools = s.ing.pools ∧ KeepsRegs s t (fun _ => false) ∧
    (evRoom s.evr.buf.length v = true → Recorded t { code := c, cls := 0x09, inst := e, sev := v, part := s.poolPart k, p1 := p, p2 := q }) := by
  have quiet := Quiet.cndEvent (s.setBuf b bufIdle) k e c v p q h
  refine ⟨(quiet.buf b).trans (s.setBuf_same _ _), quiet.mem.trans (s.setBuf_mem _ _), ?_, (s.setBuf_regs _ _ _).trans (KeepsRegs.quiet quiet _),
    fun room => Recorded.cndEvent _ _ _ _ _ _ _ (by rw [State.setBuf_evr]; exact room)⟩
  rw [quiet.ing, State.setBuf_pools]

variable (sample : (s.buf b.val).sample = some d) (phase : (s.buf b.val).phase = 3) (on : s.poolOn d.pool = true)
  (owner : s.poolOwner d.pool < 4) (may : s.released d.pool d.wseq = true)
include sample phase on owner may

theorem exec_sampleLand_drops (out : (∃ q, s.poolPos d.pool (s.ringOf d) = some q ∧ d.wseq < q.win) ∨ s.poolW d.pool ≤ d.index) :
    ∃ t, exec (.sampleLand b) s = .next t ∧ t.buf b.val = bufIdle ∧ t.mem = s.mem ∧ t.ing.pools = s.ing.pools ∧ KeepsRegs s t (fun _ => false) ∧
      (evRoom s.evr.buf.length 1 = true → Recorded t
        { code := 0x0860, cls := 0x09, inst := (s.buf b.val).engine, sev := 1, part := s.poolPart d.pool, p1 := d.pool + d.index * 2 ^ 32, p2 := d.wseq }) := by
  have drops : s.sampleLand b.val = s.landDropped b.val 0x0860 1 d := by
    rw [State.sampleLand_lands sample phase on owner may]
    refine if_pos ?_
    rw [Bool.or_eq_true, decide_eq_true_eq]
    obtain ⟨q, pos, past⟩ | no := out
    · left
      rw [pos]
      exact decide_eq_true past
    · exact .inr no
  exact ⟨_, congrArg Host.Outcome.next drops, s.cndEvent_drops _ _ _ _ _ _ _ (by decide)⟩

/-- A window that has not passed, with a slot that exists. -/
theorem State.sampleLand_open (lt : d.index < s.poolW d.pool) (now : ∀ q, s.poolPos d.pool (s.ringOf d) = some q → q.win ≤ d.wseq) :
    s.sampleLand b.val =
    if NSet.mem (((s.landOpen b.val d).poolPos d.pool (s.ringOf d)).getD { win := d.wseq, filled := [], holes := [] }).filled d.index then
      (s.landOpen b.val d).cndEvent d.pool (s.buf b.val).engine 0x0861 2 (d.pool + d.index * 2 ^ 32) d.wseq
    else (s.landOpen b.val d).fillSlot d.pool (s.ringOf d) d (s.buf b.val)
      (((s.landOpen b.val d).poolPos d.pool (s.ringOf d)).getD { win := d.wseq, filled := [], holes := [] }) := by
  rw [State.sampleLand_lands sample phase on owner may]
  refine if_neg ?_
  rw [Bool.or_eq_true, decide_eq_true_eq, not_or]
  refine ⟨?_, by omega⟩
  cases pos : s.poolPos d.pool (s.ringOf d) with
  | none => exact Bool.false_ne_true
  | some q =>
    have := now q pos
    simp only [decide_eq_true_eq]
    omega

theorem exec_sampleLand_filled {q : PoolPos} (lt : d.index < s.poolW d.pool) (pos : s.poolPos d.pool (s.ringOf d) = some q) (win : q.win = d.wseq)
    (filled : NSet.mem q.filled d.index = true) :
    ∃ t, exec (.sampleLand b) s = .next t ∧ t.buf b.val = bufIdle ∧ t.mem = s.mem ∧ t.ing.pools = s.ing.pools ∧ KeepsRegs s t (fun _ => false) ∧
      (evRoom s.evr.buf.length 2 = true → Recorded t
        { code := 0x0861, cls := 0x09, inst := (s.buf b.val).engine, sev := 2, part := s.poolPart d.pool, p1 := d.pool + d.index * 2 ^ 32, p2 := d.wseq }) := by
  have old : s.freshFor d = false := by
    rw [State.freshFor, pos, Option.all_some, win]
    exact bne_self_eq_false _
  have stays : s.landOpen b.val d = s.setBuf b.val bufIdle := by rw [State.landOpen, old]; rfl
  have same : (s.setBuf b.val bufIdle).poolPos d.pool (s.ringOf d) = some q := pos
  have drops : s.sampleLand b.val = (s.setBuf b.val bufIdle).cndEvent d.pool (s.buf b.val).engine 0x0861 2 (d.pool + d.index * 2 ^ 32) d.wseq := by
    rw [State.sampleLand_open sample phase on owner may lt (fun p e => by rw [pos] at e; cases e; omega), stays, same]
    exact if_pos filled
  exact ⟨_, congrArg Host.Outcome.next drops, s.cndEvent_drops _ _ _ _ _ _ _ (by decide)⟩

end

/-! ## A sample that lands -/

section

variable (s : State) (b : Nat) (d : SampleDesc)

/-- What opening a window keeps. -/
theorem State.landOpen_written : ∃ u, Written (s.setBuf b bufIdle) u ∧ (s.landOpen b d).rf = u.rf ∧ (s.landOpen b d).boot = u.boot ∧
    (s.landOpen b d).tier = u.tier ∧ (s.landOpen b d).mem = u.mem ∧ (s.landOpen b d).ing.bufs = u.ing.bufs := by
  unfold State.landOpen
  split
  · exact ⟨_, Written.writeAs (s.setBuf b bufIdle) _ _ _, rfl, rfl, rfl, rfl, rfl⟩
  · exact ⟨_, Written.refl _, rfl, rfl, rfl, rfl, rfl⟩

theorem State.landOpen_rd {r : RegName} (n : hbmLoud r = false) (i a : Nat) : (s.landOpen b d).rd r i a = s.rd r i a := by
  obtain ⟨u, written, rf, -⟩ := s.landOpen_written b d
  rw [State.rd, rf, ← State.rd, written.rd r i a n, State.setBuf_rd]

theorem State.landOpen_tier : (s.landOpen b d).tier = s.tier := by
  obtain ⟨u, written, -, -, tier, -⟩ := s.landOpen_written b d
  rw [tier, written.tier, State.setBuf_tier]

theorem State.landOpen_buf : (s.landOpen b d).buf b = bufIdle := by
  obtain ⟨u, written, -, -, -, -, bufs⟩ := s.landOpen_written b d
  rw [State.buf_congr bufs, written.buf, State.setBuf_same]

theorem State.landOpen_pools (k r i : Nat) : (s.landOpen b d).poolOwner k = s.poolOwner k ∧ (s.landOpen b d).poolHead k r i = s.poolHead k r i ∧
    (s.landOpen b d).poolSlot k r i = s.poolSlot k r i ∧ (s.landOpen b d).slotSize k = s.slotSize k := by
  obtain ⟨u, written, rf, boot, -⟩ := s.landOpen_written b d
  have owner := written.poolOwner k
  have head := written.poolHead k r i
  have slot := written.poolSlot k r i
  have size := written.slotSize k
  have base : (s.setBuf b bufIdle).poolOwner k = s.poolOwner k ∧ (s.setBuf b bufIdle).poolHead k r i = s.poolHead k r i ∧
    (s.setBuf b bufIdle).poolSlot k r i = s.poolSlot k r i ∧ (s.setBuf b bufIdle).slotSize k = s.slotSize k := ⟨rfl, rfl, rfl, rfl⟩
  have regs {t : State} (h : (s.landOpen b d).rf = t.rf) : Written t { t with rf := (s.landOpen b d).rf } := by
    rw [h]
    exact Written.refl t
  have copy := regs rf
  obtain ⟨owner', head', slot', size'⟩ := base
  refine ⟨?_, ?_, ?_, ?_⟩
  · rw [State.poolOwner, boot, ← State.poolOwner, owner, owner']
  · exact (copy.poolHead k r i).trans (head.trans head')
  · exact (copy.poolSlot k r i).trans (slot.trans slot')
  · exact (copy.slotSize k).trans (size.trans size')

/-- The window of the sample is open. -/
theorem State.landOpen_pos : (s.landOpen b d).poolPos d.pool (s.ringOf d) = some (s.windowFor d) := by
  unfold State.landOpen State.windowFor
  cases fresh : s.freshFor d with
  | true => exact State.setPos_same _ _ _ _
  | false =>
    rw [State.freshFor] at fresh
    cases pos : s.poolPos d.pool (s.ringOf d) with
    | none => rw [pos] at fresh; cases fresh
    | some q => exact pos

theorem State.windowFor_win : (s.windowFor d).win = d.wseq := by
  unfold State.windowFor
  cases fresh : s.freshFor d with
  | true => rfl
  | false =>
    rw [State.freshFor] at fresh
    cases pos : s.poolPos d.pool (s.ringOf d) with
    | none => rw [pos] at fresh; cases fresh
    | some q =>
      rw [pos, Option.all_some] at fresh
      exact by simpa using fresh

/-- A slot of the window that is not filled. -/
theorem State.windowFor_free (free : ∀ q, s.poolPos d.pool (s.ringOf d) = some q → q.win = d.wseq → NSet.mem q.filled d.index = false) :
    NSet.mem (s.windowFor d).filled d.index = false := by
  have win := s.windowFor_win d
  unfold State.windowFor at win ⊢
  cases fresh : s.freshFor d with
  | true => rfl
  | false =>
    rw [fresh] at win
    cases pos : s.poolPos d.pool (s.ringOf d) with
    | none => rw [State.freshFor, pos] at fresh; cases fresh
    | some q =>
      rw [pos] at win
      exact free q pos win

/-- The clearing of a window's headers changes no other byte. -/
theorem State.landOpen_cell (tier : s.tier = State.reset.tier) {a : Nat} (out : a < s.poolHead d.pool (s.ringOf d) 0 ∨
    s.poolHead d.pool (s.ringOf d) 0 + s.poolW d.pool * 32 ≤ a) : (s.landOpen b d).cell a = s.cell a := by
  unfold State.landOpen
  split
  · have len : (List.replicate ((s.setBuf b bufIdle).poolW d.pool * 32) (0 : Byte)).length = s.poolW d.pool * 32 := List.length_replicate
    have tier' : (s.setBuf b bufIdle).tier = State.reset.tier := tier
    exact State.cell_writeAs_out tier' _ (a := s.poolHead d.pool (s.ringOf d) 0) (by rw [len]; exact out)
  · rfl

/-- The data and the header of a sample, as its landing writes them. -/
def State.landData : State × Nat :=
  if bitOf (s.buf b).flags 1 then (s.landOpen b d, 0)
  else (s.landOpen b d).writeAs (s.poolOwner d.pool) (s.poolSlot d.pool (s.ringOf d) d.index) ((s.buf b).data.take (s.slotSize d.pool))
def State.landHead : State × Nat :=
  (s.landData b d).1.writeAs (s.poolOwner d.pool) (s.poolHead d.pool (s.ringOf d) d.index) (slotHeader d (s.buf b).flags)

theorem State.landData_eq : s.landData b d = (s.landOpen b d).dataWritten (s.ringOf d) d (s.buf b) := by
  obtain ⟨owner, -, slot, size⟩ := s.landOpen_pools b d d.pool (s.ringOf d) d.index
  rw [State.landData, State.dataWritten, owner, slot, size]

theorem State.landHead_eq : s.landHead b d = (s.landOpen b d).headWritten (s.ringOf d) d (s.buf b) := by
  obtain ⟨owner, head, -, -⟩ := s.landOpen_pools b d d.pool (s.ringOf d) d.index
  rw [State.landHead, State.headWritten, ← s.landData_eq b d, owner, head]

end

section

variable {s : State} {b : Fin 64} {d : SampleDesc} (sample : (s.buf b.val).sample = some d) (phase : (s.buf b.val).phase = 3)
  (on : s.poolOn d.pool = true) (owner : s.poolOwner d.pool < 4) (may : s.released d.pool d.wseq = true) (lt : d.index < s.poolW d.pool)
  (now : ∀ q, s.poolPos d.pool (s.ringOf d) = some q → q.win ≤ d.wseq ∧ (q.win = d.wseq → NSet.mem q.filled d.index = false))
include sample phase on owner may lt now

/-- A sample whose slot is free fills it, where both its writes are made. -/
theorem State.sampleLand_fills : s.sampleLand b.val =
    if (s.landData b.val d).2 ≠ 0 ∨ (s.landHead b.val d).2 ≠ 0 then (s.landHead b.val d).1
    else (s.landOpen b.val d).slotFilled (s.ringOf d) d (s.buf b.val) (s.windowFor d) := by
  have free := s.windowFor_free d (fun q pos => (now q pos).2)
  rw [State.sampleLand_open sample phase on owner may lt (fun q pos => (now q pos).1), s.landOpen_pos b.val d, Option.getD_some,
    if_neg (by rw [free]; decide), State.fillSlot_eq, s.landData_eq, s.landHead_eq]

theorem exec_sampleLand_fails (lost : (s.landData b.val d).2 ≠ 0 ∨ (s.landHead b.val d).2 ≠ 0) :
    exec (.sampleLand b) s = .next (s.landHead b.val d).1 ∧ (s.landHead b.val d).1.buf b.val = bufIdle ∧
      (s.landHead b.val d).1.poolPos d.pool (s.ringOf d) = some (s.windowFor d) := by
  have written := Written.headWritten (s.landOpen b.val d) (s.ringOf d) d (s.buf b.val)
  refine ⟨congrArg Host.Outcome.next ((State.sampleLand_fills sample phase on owner may lt now).trans (if_pos lost)), ?_, ?_⟩ <;> rw [s.landHead_eq]
  · rw [written.buf, s.landOpen_buf]
  · rw [written.poolPos, s.landOpen_pos]

theorem exec_sampleLand_fills (nwin : 0 < s.poolNwin d.pool) (tier : s.tier = State.reset.tier)
    (low : s.poolSlot d.pool (s.ringOf d) d.index + s.slotSize d.pool ≤ t2Base) (data : (s.landData b.val d).2 = 0) (head : (s.landHead b.val d).2 = 0) :
    ∃ t, exec (.sampleLand b) s = .next t ∧ t.buf b.val = bufIdle ∧
      (bitOf (s.buf b.val).flags 1 = false → ∀ i < ((s.buf b.val).data.take (s.slotSize d.pool)).length,
        t.cell (s.poolSlot d.pool (s.ringOf d) d.index + i) = ((s.buf b.val).data.take (s.slotSize d.pool)).getD i 0) ∧
      (∀ i < 32, t.cell (s.poolHead d.pool (s.ringOf d) d.index + i) = (slotHeader d (s.buf b.val).flags).getD i 0) ∧
      t.poolPos d.pool (s.ringOf d) = some
        { win := d.wseq, filled := NSet.insert (s.windowFor d).filled d.index,
          holes := if bitOf (s.buf b.val).flags 1 then NSet.insert (s.windowFor d).holes d.index else (s.windowFor d).holes } ∧
      (bitOf (s.buf b.val).flags 1 = true → t.fget Fld.SHF_POOLp_STATUS_HOLE d.pool = 1) ∧
      t.lock (s.poolOwner d.pool) (s.fget Fld.SHF_POOLp_CTRL_FILL_LOCK d.pool) =
        min (s.lock (s.poolOwner d.pool) (s.fget Fld.SHF_POOLp_CTRL_FILL_LOCK d.pool) + 1) 0xFFFFFFFF ∧
      (∀ a, (a < s.poolHead d.pool (s.ringOf d) 0 ∨ s.poolHead d.pool (s.ringOf d) 0 + s.poolW d.pool * 32 ≤ a) →
        (a < s.poolSlot d.pool (s.ringOf d) d.index ∨
          s.poolSlot d.pool (s.ringOf d) d.index + ((s.buf b.val).data.take (s.slotSize d.pool)).length ≤ a) → t.cell a = s.cell a) := by
  have fills : s.sampleLand b.val = (s.landOpen b.val d).slotFilled (s.ringOf d) d (s.buf b.val) (s.windowFor d) :=
    (State.sampleLand_fills sample phase on owner may lt now).trans (if_neg (by simp [data, head]))
  have ring : s.ringOf d < s.poolNwin d.pool := by
    rw [State.ringOf, Nat.max_eq_right nwin]
    exact Nat.mod_lt _ nwin
  obtain ⟨ownerEq, headEq, slotEq, sizeEq⟩ := s.landOpen_pools b.val d d.pool (s.ringOf d) d.index
  have apart := s.poolHead_slot ring d.index
  obtain ⟨first, last⟩ := s.poolHead_in (r := s.ringOf d) lt
  have size : ((s.buf b.val).data.take (s.slotSize d.pool)).length ≤ s.slotSize d.pool := by
    rw [List.length_take]
    exact Nat.min_le_left _ _
  have tier' := (s.landOpen_tier b.val d).trans tier
  have lockEq (p k : Nat) : (s.landOpen b.val d).lock p k = s.lock p k := by rw [State.lock, s.landOpen_rd b.val d rfl, State.lock]
  have whichEq : (s.landOpen b.val d).fget Fld.SHF_POOLp_CTRL_FILL_LOCK d.pool = s.fget Fld.SHF_POOLp_CTRL_FILL_LOCK d.pool := by
    rw [State.fget, s.landOpen_rd b.val d rfl, State.fget]
  rw [s.landData_eq] at data
  rw [s.landHead_eq] at head
  have cells (a : Nat) : ((s.landOpen b.val d).slotFilled (s.ringOf d) d (s.buf b.val) (s.windowFor d)).cell a =
      ((s.landOpen b.val d).headWritten (s.ringOf d) d (s.buf b.val)).1.cell a := by rw [State.cell, State.slotFilled_mem, State.cell]
  refine ⟨_, congrArg Host.Outcome.next fills, ?_, fun whole i k => ?_, fun i k => ?_, ?_, fun hole => State.slotFilled_hole _ _ _ _ _ hole, ?_,
    fun a heads slot => ?_⟩
  · rw [State.slotFilled_buf, s.landOpen_buf]
  · have bytes := State.headWritten_data tier' data whole (i := i) (by rw [sizeEq]; exact k) (by rw [slotEq]; omega) (by rw [headEq, slotEq]; omega)
    rw [slotEq, sizeEq] at bytes
    rw [cells, bytes]
  · have bytes := State.headWritten_head tier' head k (by rw [headEq]; omega)
    rw [headEq] at bytes
    rw [cells, bytes]
  · rw [State.slotFilled_pos, PoolPos.fill, s.windowFor_win]
  · have locked := (s.landOpen b.val d).slotFilled_lock (s.ringOf d) d (s.buf b.val) (s.windowFor d)
    rw [ownerEq, whichEq, lockEq] at locked
    exact locked
  · rw [cells, State.headWritten_out tier' (by rw [headEq]; omega) (by rw [slotEq, sizeEq]; exact slot), s.landOpen_cell b.val d tier heads]

end

end Sys2Proof.Machine
end

section
/-! SUPPORT. FEED (R122 to R124): when it fails, holds or draws, and what drawing leaves. -/

namespace Sys2Proof.Machine

open Sys2Proof.Safety

/-! ## What decides (R124) -/

section

variable {s : State} {r : CmdRef} {c : Cmd}

/-- The window of a FEED, and its ring position. -/
def State.feedWindow (s : State) (c : Cmd) : Nat := cStep c / max 1 (s.fget Fld.SHF_POOLp_SPW_SPW (fdPool c))
def State.feedRing (s : State) (c : Cmd) : Nat := s.feedWindow c % max 1 (s.poolNwin (fdPool c))

/-- A FEED that holds: its first attempt is counted. -/
def State.feedHold (s : State) (r : CmdRef) (c : Cmd) : State :=
  if c.pieces = 0 then
    (s.sqSet .SHF_POOLp_STATUS (fdPool c) 0 [] [Fld.SHF_POOLp_STATUS_LATE_REFILL_CNT]).setCmd r.part.val r.queue.val { c with pieces := 1 }
  else s

theorem State.feed_off (off : s.poolOn (fdPool c) = false) : s.feed r c = s.failRun r c 0x0860 := by
  unfold State.feed
  dsimp only
  rw [if_pos (by rw [off]; rfl)]

section

variable (on : s.poolOn (fdPool c) = true)
include on

theorem State.feed_none (pos : s.poolPos (fdPool c) (s.feedRing c) = none) : s.feed r c = s.feedHold r c := by
  unfold State.feedRing State.feedWindow at pos
  unfold State.feed
  dsimp only
  rw [if_neg (by rw [on]; decide), pos]
  rfl

theorem State.feed_some {q : PoolPos} (pos : s.poolPos (fdPool c) (s.feedRing c) = some q) : s.feed r c =
    if s.feedWindow c < q.win then s.failRun r c 0x0862
    else if q.win ≠ s.feedWindow c ∨ q.filled.length < s.poolW (fdPool c) then s.feedHold r c
    else if s.poolW (fdPool c) ≤ q.holes.length then s.failRun r c 0x0863
    else s.feedDraw r c (s.feedRing c) q := by
  have pos' := pos
  unfold State.feedRing State.feedWindow at pos'
  unfold State.feed
  dsimp only
  rw [if_neg (by rw [on]; decide), pos']
  rfl

/-- A FEED holds where its window is not there or not full. -/
theorem State.feed_holds (wait : s.poolPos (fdPool c) (s.feedRing c) = none ∨ ∃ q, s.poolPos (fdPool c) (s.feedRing c) = some q ∧
    (q.win < s.feedWindow c ∨ (q.win = s.feedWindow c ∧ q.filled.length < s.poolW (fdPool c)))) : s.feed r c = s.feedHold r c := by
  obtain pos | ⟨q, pos, when⟩ := wait
  · exact State.feed_none on pos
  · rw [State.feed_some on pos, if_neg (by omega), if_pos (by omega)]

end

end

/-! ## Draws (R122) -/

section

variable (s : State) (k : Nat) (slots : List (Nat × Bool))

/-- Each substituted position is counted. -/
def State.substOne (x : Nat × Bool) : State :=
  if x.2 then s.sqSet .SHF_POOLp_STATUS k 0 [Fld.SHF_POOLp_STATUS_SUBST] [Fld.SHF_POOLp_STATUS_SUBST_CNT] else s
def State.substNoted : State := slots.foldl (fun s x => s.substOne k x) s

theorem State.substOne_kept (x : Nat × Bool) : (s.substOne k x).queues = s.queues ∧ (s.substOne k x).ing = s.ing ∧ (s.substOne k x).mem = s.mem ∧
    (s.substOne k x).tier = s.tier ∧ KeepsRegs s (s.substOne k x) (· == .SHF_POOLp_STATUS) := by
  unfold State.substOne
  split
  · exact ⟨by simp, by simp, by simp, by simp, KeepsRegs.wr _ _ _ _ _ rfl⟩
  · exact ⟨rfl, rfl, rfl, rfl, KeepsRegs.refl s _⟩

theorem State.substNoted_kept : (s.substNoted k slots).queues = s.queues ∧ (s.substNoted k slots).ing = s.ing ∧ (s.substNoted k slots).mem = s.mem ∧
    (s.substNoted k slots).tier = s.tier ∧ KeepsRegs s (s.substNoted k slots) (· == .SHF_POOLp_STATUS) := by
  unfold State.substNoted
  induction slots generalizing s with
  | nil => exact ⟨rfl, rfl, rfl, rfl, KeepsRegs.refl s _⟩
  | cons x l ih =>
    obtain ⟨q, i, m, t, regs⟩ := s.substOne_kept k x
    obtain ⟨q', i', m', t', regs'⟩ := ih (s.substOne k x)
    exact ⟨q'.trans q, i'.trans i, m'.trans m, t'.trans t, regs.trans regs'⟩

/-- SUBST, once set, stays set. -/
theorem State.substOne_subst (x : Nat × Bool) (h : x.2 = true ∨ s.fget Fld.SHF_POOLp_STATUS_SUBST k = 1) :
    (s.substOne k x).fget Fld.SHF_POOLp_STATUS_SUBST k = 1 := by
  unfold State.substOne
  split
  · exact s.sqSet_bit_cnt Fld.SHF_POOLp_STATUS_SUBST Fld.SHF_POOLp_STATUS_SUBST_CNT k 0 rfl (by decide) (by decide) (by decide) (by decide)
  next no => exact h.resolve_left no

/-- A substituted position sets SUBST. -/
theorem State.substNoted_subst (h : slots.any (·.2) = true ∨ s.fget Fld.SHF_POOLp_STATUS_SUBST k = 1) :
    (s.substNoted k slots).fget Fld.SHF_POOLp_STATUS_SUBST k = 1 := by
  unfold State.substNoted
  induction slots generalizing s with
  | nil => exact h.resolve_left (by rintro ⟨⟩)
  | cons x l ih =>
    refine ih (s.substOne k x) ?_
    rw [List.any_cons, Bool.or_eq_true] at h
    obtain (h | h) | h := h
    · exact .inr (s.substOne_subst k x (.inl h))
    · exact .inl h
    · exact .inr (s.substOne_subst k x (.inr h))

end

/-! ## Reads and writes of a draw (R123) -/

section

/-- The bytes read, the identities, the state and whether something was poisoned. -/
abbrev FeedAcc := List Byte × List Nat × State × Bool

/-- One slot read, and its identity where it is asked for. -/
def State.slotRead (o : State) (p k pos : Nat) (c : Cmd) (a : FeedAcc) (x : Nat × Bool) : FeedAcc :=
  let y := a.2.2.1.readAs p (o.poolSlot k pos x.1) (o.sampleSize k)
  let h := if (c.desc 1).rank = 0 then (([], false), y.2) else y.2.readAs p (y.2.poolHead k pos x.1) 4
  (a.1 ++ y.1.1, a.2.1 ++ [leNat h.1.1], h.2, a.2.2.2 || y.1.2 || h.1.2)

theorem Touched.slotRead (o : State) (p k pos : Nat) (c : Cmd) (a : FeedAcc) (x : Nat × Bool) : Touched a.2.2.1 (o.slotRead p k pos c a x).2.2.1 := by
  have first := Touched.readAs a.2.2.1 p (o.poolSlot k pos x.1) (o.sampleSize k) 8
  unfold State.slotRead
  dsimp only
  split
  · exact first
  · exact first.trans (Touched.readAs _ _ _ _ _)

theorem Touched.slotsRead (o : State) (p k pos : Nat) (c : Cmd) (l : List (Nat × Bool)) (a : FeedAcc) :
    Touched a.2.2.1 (l.foldl (o.slotRead p k pos c) a).2.2.1 := by
  induction l generalizing a with
  | nil => exact Touched.refl _
  | cons x l ih => exact (Touched.slotRead o p k pos c a x).trans (ih _)

variable (s : State) (r : CmdRef) (c : Cmd)

/-- The runs of the output. -/
def State.feedRuns (data : List Byte) : List (Nat × List Byte) :=
  let row := s.poolTubelet (fdPool c) * s.poolElem (fdPool c)
  let rows := (c.desc 0).rows
  (List.range rows.length).map (fun i => ((rows.getD i (0, 0)).1, (data.drop (i * row)).take row))

/-- The ledger's counts of the output. -/
def State.feedCounts (c : Cmd) : LedRec :=
  let a := c.desc 0
  a.positions.foldl (fun (t : LedRec) i =>
    let v := s.elemVal a (c.sw 0) i
    t.count v (codeZero a.dtype (s.elemCode a i)) (if v.isFin then 0 else 2)) { (default : LedRec) with tid := a.tid }

/-- The identities written into DESC1, where it is there, and the end. -/
def State.feedEnd (st : Nat) (ids : List Nat) (c : Cmd) : State :=
  if (c.desc 1).rank = 0 then s.endRun r c st
  else
    let w := s.writeTensor r.part.val (c.desc 1) 0 true ((c.desc 1).positions.zip (ids.map (fun i => ofInt (toSigned 32 i) 0)))
    w.1.endRun r (c.record (c.desc 1) w.2.2) (if st = 0 then w.2.1 else st)

/-- The output of a draw. -/
def State.feedWritten (data : List Byte) (ids : List Nat) : State :=
  let w := s.writeRuns r.part.val (s.feedRuns c data)
  w.1.feedEnd r w.2 ids (c.record (c.desc 0) (w.1.feedCounts c))

/-- The state of the reads of a draw. -/
def State.feedRead (pos : Nat) (q : PoolPos) : FeedAcc :=
  let o := s.substNoted (fdPool c) (s.feedSlots c q)
  (s.feedSlots c q).foldl (o.slotRead r.part.val (fdPool c) pos c) ([], [], o, false)

theorem State.feedDraw_eq (pos : Nat) (q : PoolPos) : s.feedDraw r c pos q =
    if (s.feedRead r c pos q).2.2.2 then (s.feedRead r c pos q).2.2.1.failRun r c 0x0701
    else (s.feedRead r c pos q).2.2.1.feedWritten r c (s.feedRead r c pos q).1 (s.feedRead r c pos q).2.1 := rfl

/-- What reading leaves alone. -/
theorem Touched.feedRead (pos : Nat) (q : PoolPos) : Touched (s.substNoted (fdPool c) (s.feedSlots c q)) (s.feedRead r c pos q).2.2.1 :=
  Touched.slotsRead (s.substNoted (fdPool c) (s.feedSlots c q)) r.part.val (fdPool c) pos c (s.feedSlots c q)
    ([], [], s.substNoted (fdPool c) (s.feedSlots c q), false)

/-! ## The end of a draw -/

/-- The end of a command sets it alone. -/
theorem State.endRun_kept (st : Nat) : (s.endRun r c st).ing = s.ing ∧ (s.endRun r c st).mem = s.mem ∧ (s.endRun r c st).rf = s.rf := by
  unfold State.endRun
  split
  · exact ⟨State.setCmd_ing _ _ _ _, State.setCmd_mem _ _ _ _, State.setCmd_rf _ _ _ _⟩
  · exact ⟨State.setCmd_ing _ _ _ _, State.setCmd_mem _ _ _ _, State.setCmd_rf _ _ _ _⟩

/-- What a draw shows of its command, of the pools and of SUBST. -/
structure FeedEnded (t : State) : Prop where
  ended : ∃ st, CmdEnded t r st
  ing : t.ing = s.ing
  subst : t.fget Fld.SHF_POOLp_STATUS_SUBST (fdPool c) = s.fget Fld.SHF_POOLp_STATUS_SUBST (fdPool c)

variable {s r c}

theorem FeedEnded.of_endRun {u : State} {e d : Cmd} (st : Nat) (kept : Produced s u) (at_ : s.cmdAt r.part.val r.queue.val r.slot = some d)
    (slot : e.slot = r.slot) (ok : e.fail = 0) : FeedEnded s r c (u.endRun r e st) := by
  obtain ⟨ing, -, rf⟩ := u.endRun_kept r e st
  refine ⟨⟨st, CmdEnded.endRun ((State.cmdAt_congr kept.queues _ _ _).trans at_) slot ok st⟩, ing.trans kept.ing, ?_⟩
  rw [(KeepsRegs.of_rf rf (fun _ => false)).fget _ _ _ rfl rfl, kept.fget _ _ _ rfl (by decide)]

theorem Cmd.record_descs (c : Cmd) (t : TDesc) (l : LedRec) : (c.record t l).descs = c.descs := by
  unfold Cmd.record
  split_ifs <;> rfl

theorem Cmd.record_desc (c : Cmd) (t : TDesc) (l : LedRec) (i : Nat) : (c.record t l).desc i = c.desc i := by
  rw [Cmd.desc, Cmd.record_descs, Cmd.desc]

theorem FeedEnded.feedWritten {d : Cmd} (at_ : s.cmdAt r.part.val r.queue.val r.slot = some d) (slot : c.slot = r.slot) (ok : c.fail = 0)
    (data : List Byte) (ids : List Nat) : FeedEnded s r c (s.feedWritten r c data ids) := by
  have runs := Produced.writeRuns s r.part.val (s.feedRuns c data)
  unfold State.feedWritten
  dsimp only
  generalize s.writeRuns r.part.val (s.feedRuns c data) = w at runs ⊢
  obtain ⟨slot1, fail1⟩ := Cmd.record_kept c (c.desc 0) (w.1.feedCounts c)
  generalize c.record (c.desc 0) (w.1.feedCounts c) = e at slot1 fail1 ⊢
  unfold State.feedEnd
  split
  · exact FeedEnded.of_endRun w.2 runs at_ (slot1.trans slot) (fail1.trans ok)
  · have ids_ := Produced.writeTensor w.1 r.part.val (e.desc 1) 0 true ((e.desc 1).positions.zip (ids.map (fun i => ofInt (toSigned 32 i) 0)))
    obtain ⟨slot2, fail2⟩ := Cmd.record_kept e (e.desc 1) (w.1.writeTensor r.part.val (e.desc 1) 0 true
      ((e.desc 1).positions.zip (ids.map (fun i => ofInt (toSigned 32 i) 0)))).2.2
    exact FeedEnded.of_endRun _ (runs.trans ids_) at_ (slot2.trans (slot1.trans slot)) (fail2.trans (fail1.trans ok))

/-- Without identities, the output's rows alone change. -/
theorem State.feedWritten_cell (tier : s.tier = State.reset.tier) (plain : (c.desc 1).rank = 0) (data : List Byte) (ids : List Nat) {a : Nat}
    (out : ∀ x ∈ (c.desc 0).rows, a < x.1 ∨ x.1 + s.poolTubelet (fdPool c) * s.poolElem (fdPool c) ≤ a) :
    (s.feedWritten r c data ids).cell a = s.cell a := by
  have runs : (s.writeRuns r.part.val (s.feedRuns c data)).1.cell a = s.cell a := by
    refine State.cell_writeRuns_out tier _ _ (fun x mem => ?_)
    obtain ⟨i, lt, rfl⟩ := List.mem_map.mp mem
    have row : (c.desc 0).rows.getD i (0, 0) ∈ (c.desc 0).rows := by
      have lt := List.mem_range.mp lt
      rw [List.getD_eq_getElem?_getD, List.getElem?_eq_getElem lt]
      exact List.getElem_mem lt
    have := out _ row
    simp only [List.length_take]
    omega
  have ends (u : State) (st : Nat) (e : Cmd) (rank : (e.desc 1).rank = 0) : (u.feedEnd r st ids e).cell a = u.cell a := by
    rw [State.feedEnd, if_pos rank, State.cell, (u.endRun_kept r e st).2.1, State.cell]
  exact (ends _ _ _ (by rw [Cmd.record_desc]; exact plain)).trans runs

end

end Sys2Proof.Machine
end

section
/-! Decode, conditioning and the shuffle pools (O56). -/

namespace Sys2Proof.Machine

open Sys2Proof.Safety

/-! ## FEED, clause by clause -/

section

variable {s : State} {r : CmdRef} {c : Cmd} (run : s.running r 0x42 = some c)
include run

theorem exec_feed {late : Bool} (first : c.pieces = 0 ↔ late = false) :
    exec (if late then .feedWindowReady r else .feed r) s = .next (s.feed r c) := by
  cases late with
  | true =>
    have held : c.pieces ≠ 0 := fun h => Bool.noConfusion (first.mp h)
    show execFeedWindowReady r s = _
    rw [execFeedWindowReady, run]
    exact congrArg _ (if_neg held)
  | false =>
    show execFeed r s = _
    rw [execFeed, run]
    exact congrArg _ (if_pos (first.mpr rfl))

theorem exec_feed_again : (c.pieces ≠ 0 → exec (.feed r) s = .next s) ∧ (c.pieces = 0 → exec (.feedWindowReady r) s = .next s) := by
  constructor
  · intro h
    show execFeed r s = _
    rw [execFeed, run]
    exact congrArg _ (if_neg h)
  · intro h
    show execFeedWindowReady r s = _
    rw [execFeedWindowReady, run]
    exact congrArg _ (if_pos h)

omit run in
theorem State.feedHold_waits (h : c.pieces ≠ 0) : s.feedHold r c = s := if_neg h

/-- A FEED that holds for the first time is counted, and waits. -/
theorem State.feedHold_first (h : c.pieces = 0) : (s.feedHold r c).cmdAt r.part.val r.queue.val r.slot = some { c with pieces := 1 } ∧
    s.feedHold r c = { s with rf := (s.feedHold r c).rf, queues := (s.feedHold r c).queues } ∧
    KeepsRegs s (s.feedHold r c) (· == .SHF_POOLp_STATUS) := by
  obtain ⟨at_, -, -⟩ := State.running_some run
  have hold : s.feedHold r c = (s.sqSet .SHF_POOLp_STATUS (fdPool c) 0 [] [Fld.SHF_POOLp_STATUS_LATE_REFILL_CNT]).setCmd r.part.val r.queue.val
      { c with pieces := 1 } := if_pos h
  have place := (State.cmdAt_congr (State.sqSet_queues s .SHF_POOLp_STATUS (fdPool c) 0 [] [Fld.SHF_POOLp_STATUS_LATE_REFILL_CNT])
    r.part.val r.queue.val r.slot).trans at_
  have slot : c.slot = r.slot := State.cmdAt_slot at_
  rw [hold]
  refine ⟨State.cmdAt_setCmd_same place _ slot, ?_, (KeepsRegs.wr _ _ _ _ _ rfl).trans (KeepsRegs.of_rf (State.setCmd_rf _ _ _ _) _)⟩
  unfold State.setCmd State.setQueue State.sqSet State.wr
  rfl

/-- What drawing shows. -/
theorem State.feedDraw_shows (pos : Nat) (q : PoolPos) : (∃ st, CmdEnded (s.feedDraw r c pos q) r st) ∧ (s.feedDraw r c pos q).ing = s.ing ∧
    ((s.feedSlots c q).any (·.2) = true → (s.feedDraw r c pos q).fget Fld.SHF_POOLp_STATUS_SUBST (fdPool c) = 1) ∧
    (s.tier = State.reset.tier → (c.desc 1).rank = 0 → ∀ a,
      (∀ x ∈ (c.desc 0).rows, a < x.1 ∨ x.1 + s.poolTubelet (fdPool c) * s.poolElem (fdPool c) ≤ a) → (s.feedDraw r c pos q).cell a = s.cell a) := by
  obtain ⟨at_, -, ok⟩ := State.running_some run
  have slot := State.cmdAt_slot at_
  obtain ⟨queues, ing, mem, tier, regs⟩ := s.substNoted_kept (fdPool c) (s.feedSlots c q)
  have noted := fun h => s.substNoted_subst (fdPool c) (s.feedSlots c q) (.inl h)
  have read := Touched.feedRead s r c pos q
  rw [State.feedDraw_eq]
  generalize s.substNoted (fdPool c) (s.feedSlots c q) = o at queues ing mem tier regs noted read
  generalize s.feedRead r c pos q = g at read ⊢
  have place : g.2.2.1.cmdAt r.part.val r.queue.val r.slot = some c := (State.cmdAt_congr (read.queues.trans queues) _ _ _).trans at_
  have subst (h : (s.feedSlots c q).any (·.2) = true) : g.2.2.1.fget Fld.SHF_POOLp_STATUS_SUBST (fdPool c) = 1 :=
    (read.fget _ _ _ rfl).trans (noted h)
  have cell (a : Nat) : g.2.2.1.cell a = s.cell a := by rw [read.cell, State.cell, mem, State.cell]
  obtain ⟨tubelet, elem, -, -⟩ := State.poolRow_congr (s := s) (t := g.2.2.1) (k := fdPool c) ((read.rd _ _ _ rfl).trans (regs _ _ _ rfl rfl))
  split
  · refine ⟨⟨0x0701, CmdEnded.failRun place slot _⟩, ?_, fun h => ?_, fun _ _ a _ => ?_⟩
    · rw [State.failRun_ing, read.ing, ing]
    · rw [(KeepsRegs.of_rf (g.2.2.1.failRun_rf r c 0x0701) (fun _ => false)).fget _ _ _ rfl rfl, subst h]
    · rw [State.cell, State.failRun_mem, ← State.cell, cell]
  · have ended := FeedEnded.feedWritten place slot ok g.1 g.2.1
    refine ⟨ended.ended, ended.ing.trans (read.ing.trans ing), fun h => ended.subst.trans (subst h), fun reset plain a out => ?_⟩
    rw [State.feedWritten_cell ((read.tier.trans tier).trans reset) plain _ _ (by rw [tubelet, elem]; exact out), cell]

variable {late : Bool} (first : c.pieces = 0 ↔ late = false)
include first

theorem exec_feed_off (off : s.poolOn (fdPool c) = false) : ∃ t, exec (if late then .feedWindowReady r else .feed r) s = .next t ∧
    CmdEnded t r 0x0860 ∧ t = { s with queues := t.queues } :=
  ⟨_, (exec_feed run first).trans (congrArg _ (State.feed_off off)), CmdEnded.failRun_running run 0x0860⟩

theorem exec_feed_holds (on : s.poolOn (fdPool c) = true) (wait : s.poolPos (fdPool c) (s.feedRing c) = none ∨
    ∃ q, s.poolPos (fdPool c) (s.feedRing c) = some q ∧
      (q.win < s.feedWindow c ∨ (q.win = s.feedWindow c ∧ q.filled.length < s.poolW (fdPool c)))) :
    (late = true → exec (if late then .feedWindowReady r else .feed r) s = .next s) ∧
    (late = false → ∃ t, exec (if late then .feedWindowReady r else .feed r) s = .next t ∧
      t.cmdAt r.part.val r.queue.val r.slot = some { c with pieces := 1 } ∧
      t = { s with rf := t.rf, queues := t.queues } ∧ KeepsRegs s t (· == .SHF_POOLp_STATUS)) := by
  have holds := (exec_feed run first).trans (congrArg _ (State.feed_holds on wait))
  refine ⟨fun again => ?_, fun once => ⟨_, holds, State.feedHold_first run (first.mpr once)⟩⟩
  rw [holds, State.feedHold_waits (fun h => by rw [first.mp h] at again; cases again)]

section

variable {q : PoolPos} (on : s.poolOn (fdPool c) = true) (pos : s.poolPos (fdPool c) (s.feedRing c) = some q)
include on pos

theorem exec_feed_gone (gone : s.feedWindow c < q.win) : ∃ t, exec (if late then .feedWindowReady r else .feed r) s = .next t ∧
    CmdEnded t r 0x0862 ∧ t = { s with queues := t.queues } :=
  ⟨_, (exec_feed run first).trans (congrArg _ ((State.feed_some on pos).trans (if_pos gone))), CmdEnded.failRun_running run 0x0862⟩

variable (win : q.win = s.feedWindow c) (full : s.poolW (fdPool c) ≤ q.filled.length)
include win full

theorem exec_feed_holes (holes : s.poolW (fdPool c) ≤ q.holes.length) : ∃ t, exec (if late then .feedWindowReady r else .feed r) s = .next t ∧
    CmdEnded t r 0x0863 ∧ t = { s with queues := t.queues } := by
  have fails : s.feed r c = s.failRun r c 0x0863 := by rw [State.feed_some on pos, if_neg (by omega), if_neg (by omega), if_pos holes]
  exact ⟨_, (exec_feed run first).trans (congrArg _ fails), CmdEnded.failRun_running run 0x0863⟩

theorem exec_feed_draws (some_ : q.holes.length < s.poolW (fdPool c)) : ∃ t st, exec (if late then .feedWindowReady r else .feed r) s = .next t ∧
    CmdEnded t r st ∧ t.ing = s.ing ∧ ((s.feedSlots c q).any (·.2) = true → t.fget Fld.SHF_POOLp_STATUS_SUBST (fdPool c) = 1) ∧
    (s.tier = State.reset.tier → (c.desc 1).rank = 0 → ∀ a,
      (∀ x ∈ (c.desc 0).rows, a < x.1 ∨ x.1 + s.poolTubelet (fdPool c) * s.poolElem (fdPool c) ≤ a) → t.cell a = s.cell a) := by
  have draws : s.feed r c = s.feedDraw r c (s.feedRing c) q := by
    rw [State.feed_some on pos, if_neg (by omega), if_neg (by omega), if_neg (by omega)]
  obtain ⟨⟨st, ended⟩, shows⟩ := State.feedDraw_shows run (s.feedRing c) q
  exact ⟨_, st, (exec_feed run first).trans (congrArg _ draws), ended, shows⟩

end

end

theorem exec_feed_none {s : State} {r : CmdRef} (h : s.running r 0x42 = none) :
    exec (.feed r) s = .next s ∧ exec (.feedWindowReady r) s = .next s := by
  show execFeed r s = _ ∧ execFeedWindowReady r s = _
  rw [execFeed, execFeedWindowReady, h]
  exact ⟨rfl, rfl⟩

/-! ## The end of a DECODE, as its clause has it -/

theorem exec_decodeComplete_done {s : State} {r : CmdRef} {c : Cmd} {x : DecRun} {m : Nat} (run : s.running r 0x41 = some c)
    (dec : s.decRun r = some x) (engine : x.engine = some m) : ∃ t st, exec (.decodeComplete r) s = .next t ∧ CmdEnded t r st ∧ t.decRun r = none ∧
      t.fbit Fld.DEC_ENGm_STATE_BUSY m = false ∧ (∀ b, b ≠ x.buf → t.buf b = s.buf b) ∧ (s.staleNow c = true → st = 0x0205) ∧
      (st ≠ 0 → x.hasBuf = true → t.buf x.buf = bufIdle) ∧
      (st = 0 → t.buf x.buf = { s.buf x.buf with phase := 2, frames := (List.range (dcTargets c).length).map (fun i =>
          ({ target := (dcTargets c).getD i 0, recd := s.decRecord c x i, codec := s.decCodec x, span := s.spanBytes x } : DecFrame)) } ∧
        t.strRel x.str = max (s.strRel x.str) (dcRelease c)) ∧
      (s.tier = State.reset.tier → (c.desc 0).dtype = 0x0F → ∀ a,
        (∀ i ∈ (c.desc 0).positions, a < (c.desc 0).base + (c.desc 0).bitPos i / 8 ∨ (c.desc 0).base + (c.desc 0).bitPos i / 8 + 4 ≤ a) →
        a < dcDpb c ∨ dcDpb c + dcDpbMib c * 2 ^ 20 ≤ a → t.cell a = s.cell a) := by
  have done := DecodeDone.decDone (d := x) m run
  have gone := done.gone
  rw [State.decRun_ref dec] at gone
  refine ⟨_, _, exec_decodeComplete run dec engine, done.ended, gone, done.freed engine, done.others, done.stale, done.empty, fun ok => ?_,
    fun tier int a out dpb => ?_⟩
  · rw [← s.decFrames_eq c x]
    exact done.full ok
  · rw [State.cell, done.mem, ← State.cell, s.decWritten_cell r c x m tier int out dpb]

/-! ## The statement -/

/-- Settles O56: each clause by the lemma of its case, over what writes, reports and the end of a run leave alone. -/
theorem video : Obligations.Video := by
  unfold Obligations.Video
  refine ⟨fun c d s run none_ => ⟨exec_decode_takes run none_, exec_decode_waits run none_⟩, fun c s h => exec_decode_none h,
    fun c d x m s run dec => ⟨exec_decodeSpanReady_begins run dec m, exec_decodeSpanReady_waits run dec m⟩,
    fun c m s h => exec_decodeSpanReady_none m h,
    fun c d x s run dec => ⟨exec_decStarved_fails run dec, exec_decStarved_waits run dec⟩, fun c s h => exec_decode_idle h,
    fun c d x s run dec engine => exec_decodeComplete_idle run dec engine,
    fun c d x m s run dec engine => exec_decodeComplete_done run dec engine,
    fun b e d s sample phase die live => ⟨exec_conditionSample_good sample phase die live, fun f => exec_conditionSample_hole sample phase die live⟩,
    fun b e s h => congrArg Host.Outcome.next (State.conditionSample_none h), fun b s h => congrArg Host.Outcome.next (State.sampleLand_waits h),
    fun b d s sample phase on owner => ⟨exec_sampleLand_holds sample phase on owner, exec_sampleLand_drops sample phase on owner,
      fun q may lt pos win filled => exec_sampleLand_filled sample phase on owner may lt pos win filled,
      fun may nwin lt tier low now => ⟨exec_sampleLand_fills sample phase on owner may lt now nwin tier low,
        exec_sampleLand_fails sample phase on owner may lt now⟩⟩,
    fun c d s late run first => ⟨exec_feed_off run first, exec_feed_holds run first, fun q on pos => ⟨exec_feed_gone run first on pos,
      fun win full => ⟨exec_feed_holes run first on pos win full, exec_feed_draws run first on pos win full⟩⟩⟩,
    fun c s h => exec_feed_none h, fun c d s run => exec_feed_again run⟩

end Sys2Proof.Machine
end

section
/-! SUPPORT. The state of the tier engines (R129, R139): what its named updates put in and leave alone, and what its status and events leave of the rest. -/

namespace Sys2Proof.Machine

/-! ## Objects, transfers, schedules -/

section

variable (s : State) (p : Part)

theorem State.modTier_tier_ne {q : Part} (f : TierSt → TierSt) (h : q ≠ p) : vget (s.modTier p f).tier q = vget s.tier q := vget_vset_ne _ _ h

theorem State.obj_congr {s t : State} (h : t.tier = s.tier) (p : Part) (id : Nat) : t.obj p id = s.obj p id := by rw [State.obj, h, State.obj]

/-- An update of an engine that keeps its objects. -/
theorem State.obj_modTier {f : TierSt → TierSt} (h : ∀ t, (f t).objs = t.objs) (id : Nat) : (s.modTier p f).obj p id = s.obj p id := by
  rw [State.obj, State.modTier_tier_same, h, State.obj]

variable (id : Nat) (o : TierObj)

@[simp] theorem State.obj_setObj_same : (s.setObj p id o).obj p id = some o := by
  rw [State.obj, State.setObj, State.modTier_tier_same]
  exact Sparse.find_insert_same _ _ _

theorem State.obj_setObj_ne {j : Nat} (h : j ≠ id) : (s.setObj p id o).obj p j = s.obj p j := by
  rw [State.obj, State.setObj, State.modTier_tier_same]
  exact Sparse.find_insert_ne _ _ h

@[simp] theorem State.setObj_rf : (s.setObj p id o).rf = s.rf := s.modTier_rf p _
@[simp] theorem State.setObj_mem : (s.setObj p id o).mem = s.mem := s.modTier_mem p _
@[simp] theorem State.setObj_queues : (s.setObj p id o).queues = s.queues := s.modTier_queues p _
@[simp] theorem State.setObj_rd (r : RegName) (i a : Nat) : (s.setObj p id o).rd r i a = s.rd r i a := s.modTier_rd p _ r i a
@[simp] theorem State.setObj_fetches : (vget (s.setObj p id o).tier p).fetches = (vget s.tier p).fetches := by
  rw [State.setObj, State.modTier_tier_same]
@[simp] theorem State.setObj_scheds : (vget (s.setObj p id o).tier p).scheds = (vget s.tier p).scheds := by
  rw [State.setObj, State.modTier_tier_same]

variable (l : List Fetch)

@[simp] theorem State.obj_setFetches : (s.setFetches p l).obj p id = s.obj p id := s.obj_modTier p (f := fun t => { t with fetches := l }) (fun _ => rfl) id
@[simp] theorem State.setFetches_rf : (s.setFetches p l).rf = s.rf := s.modTier_rf p _
@[simp] theorem State.setFetches_mem : (s.setFetches p l).mem = s.mem := s.modTier_mem p _
@[simp] theorem State.setFetches_rd (r : RegName) (i a : Nat) : (s.setFetches p l).rd r i a = s.rd r i a := s.modTier_rd p _ r i a
@[simp] theorem State.setFetches_fetches : (vget (s.setFetches p l).tier p).fetches = l := by rw [State.setFetches, State.modTier_tier_same]
@[simp] theorem State.setFetches_scheds : (vget (s.setFetches p l).tier p).scheds = (vget s.tier p).scheds := by
  rw [State.setFetches, State.modTier_tier_same]

end

/-! ## Status and events (R154) -/

section

variable (s : State) (p : Part) (bits cnts : List Fld) (code sev a b : Nat)

@[simp] theorem State.tierStatus_mem : (s.tierStatus p bits cnts).mem = s.mem := State.sqSet_mem _ _ _ _ _ _
@[simp] theorem State.tierStatus_tier : (s.tierStatus p bits cnts).tier = s.tier := State.sqSet_tier _ _ _ _ _ _
@[simp] theorem State.tierStatus_queues : (s.tierStatus p bits cnts).queues = s.queues := State.sqSet_queues _ _ _ _ _ _

theorem State.tierStatus_rd {r : RegName} (i q : Nat) (h : r ≠ .TIER_STATUS) : (s.tierStatus p bits cnts).rd r i q = s.rd r i q :=
  s.rd_wr_reg _ _ _ _ _ h

theorem OnlyRegs.tierStatus : OnlyRegs s (s.tierStatus p bits cnts) [regKey .TIER_STATUS 0 p.val] := OnlyRegs.wr _ _ _ _ _

theorem KeepsRegs.tierStatus : KeepsRegs s (s.tierStatus p bits cnts) (· == .TIER_STATUS) := KeepsRegs.wr s _ _ _ _ rfl

theorem Quiet.tierEvent (h : sev ≠ 3) : Quiet s (s.tierEvent p code sev a b) := Quiet.event s _ h

end

theorem KeepsMem.of_mem {s t : State} (h : t.mem = s.mem) : KeepsMem s t := fun a => by rw [State.cell, h, State.cell]

/-- Below the T2 window no address is in it (R31). -/
theorem isT2_below {a : Nat} (low : a < t2Base) : isT2 a = false := Bool.and_eq_false_iff.mpr (.inl (decide_eq_false (Nat.not_le.mpr low)))

/-- A write of T0 or T1 that succeeds is there. -/
theorem State.cell_writePhys_in {s : State} {a : Nat} {data : List Byte} (ok : (s.writePhys a data).2 = 0) (fits : a + data.length ≤ t2Base) {i : Nat}
    (lt : i < data.length) : (s.writePhys a data).1.cell (a + i) = data.getD i 0 := by
  rw [State.cell_writePhys, if_pos ⟨by omega, by omega, State.reachesByte_of_ok ok (by omega) (by omega) (isT2_below (by omega))⟩, Nat.add_sub_cancel_left]

/-- The bytes that a read gives are those of memory. -/
theorem State.readPhys_cells (s : State) (a n : Nat) : (s.readPhys a n).1.1 = s.cells a n :=
  List.map_congr_left fun i _ => (Touched.touch s a n).cell (a + i)

/-- The requests that wait are none, so nothing follows. -/
theorem State.drainHost_idle {s : State} (h : s.eut.waiting = []) : s.drainHost = s := by
  have same : { s with eut := { s.eut with waiting := [] } } = s := by rw [← h]
  rw [State.drainHost, h, List.foldl_nil, same]

end Sys2Proof.Machine
end

section
/-! The object table (O43). -/

namespace Sys2Proof.Machine

theorem exec_tierObjtLoad (p : Part) (s : State) : exec (.tierObjtLoad p) s = .next (s.objtLoad p) := rfl
theorem exec_tierObjSync (p : Part) (id : Nat) (s : State) : exec (.tierObjSync p id) s = .next (s.objSync p id) := rfl
theorem exec_tierRepair (p : Part) (id : Nat) (s : State) : exec (.tierRepair p id) s = .next (s.objRepair p id).drainHost := rfl

/-! ## What the table's reads leave alone -/

/-- What reading entries leaves alone: every byte, the poison list, and the registers beside the stacks' and TIER_STATUS. -/
structure TableKept (s t : State) : Prop where
  cells : t.mem.cells = s.mem.cells
  t2 : t.mem.t2 = s.mem.t2
  t2Poison : t.mem.t2Poison = s.mem.t2Poison
  rd : ∀ r i a, hbmLoud r = false → r ≠ .TIER_STATUS → t.rd r i a = s.rd r i a

namespace TableKept

theorem refl (s : State) : TableKept s s := ⟨rfl, rfl, rfl, fun _ _ _ _ _ => rfl⟩

theorem trans {s t u : State} (h : TableKept s t) (k : TableKept t u) : TableKept s u :=
  ⟨k.cells.trans h.cells, k.t2.trans h.t2, k.t2Poison.trans h.t2Poison, fun r i a l n => (k.rd r i a l n).trans (h.rd r i a l n)⟩

theorem foldl {β : Type} {f : State → β → State} (h : ∀ s x, TableKept s (f s x)) (l : List β) (s : State) : TableKept s (l.foldl f s) := by
  induction l generalizing s with
  | nil => exact refl s
  | cons x l ih => exact (h s x).trans (ih _)

theorem touched {s t : State} (h : Touched s t) : TableKept s t := ⟨h.cells, h.t2, h.t2Poison, fun r i a l _ => h.rd r i a l⟩

theorem modTier (s : State) (p : Part) (f : TierSt → TierSt) : TableKept s (s.modTier p f) :=
  ⟨by simp, by simp, by simp, fun _ _ _ _ _ => by simp⟩

theorem tierStatus (s : State) (p : Part) (b c : List Fld) : TableKept s (s.tierStatus p b c) :=
  ⟨by simp, by simp, by simp, fun _ i a _ n => s.tierStatus_rd p b c i a n⟩

theorem tierEvent (s : State) (p : Part) (code sev a b : Nat) (h : sev ≠ 3) : TableKept s (s.tierEvent p code sev a b) :=
  touched (Quiet.tierEvent s p code sev a b h).touched

theorem keepsMem {s t : State} (h : TableKept s t) : KeepsMem s t := fun a => by rw [State.cell, h.t2, h.cells, State.cell]

theorem keepsRegs {s t : State} (h : TableKept s t) : KeepsRegs s t (fun r => hbmLoud r || r == .TIER_STATUS) := fun r i a named _ => by
  simp only [Bool.or_eq_false_iff, beq_eq_false_iff_ne] at named
  exact h.rd r i a named.1 named.2

end TableKept

/-! ## Reading one entry (R130, R131, R151) -/

/-- What an entry's bytes make of an object, before they are judged: what its T2 copy has listed stays, and the copies of a RESIDENT object that the entry repeats. -/
def TierObj.reread (old o : TierObj) : TierObj :=
  let o := { o with poison := old.poison, allBad := old.allBad, stamp := old.stamp }
  let same := old.valid && old.state == 2 && old.home == o.home && old.size == o.size && old.ro == o.ro
  if same then { o with state := 2, level := old.level, t1 := old.t1, t0 := old.t0, slice := old.slice, pend := old.pend } else o

section

variable (old o : TierObj)

@[simp] theorem TierObj.reread_home : (old.reread o).home = o.home := by unfold TierObj.reread; dsimp only; split <;> rfl
@[simp] theorem TierObj.reread_size : (old.reread o).size = o.size := by unfold TierObj.reread; dsimp only; split <;> rfl
@[simp] theorem TierObj.reread_poison : (old.reread o).poison = old.poison := by unfold TierObj.reread; dsimp only; split <;> rfl
@[simp] theorem TierObj.reread_allBad : (old.reread o).allBad = old.allBad := by unfold TierObj.reread; dsimp only; split <;> rfl

@[simp] theorem TierObj.reread_range : (old.reread o).range = o.range := by
  rw [TierObj.range, TierObj.last, TierObj.reread_home, TierObj.reread_size, TierObj.range, TierObj.last]

/-- Only a RESIDENT object keeps its state. -/
theorem TierObj.reread_state (h : old.state ≠ 2) : (old.reread o).state = o.state := by
  unfold TierObj.reread
  dsimp only
  rw [if_neg (by simp [h])]

end

section

variable (s : State) (p : Part) (id : Nat)

/-- The bytes of an entry, whether they are poisoned, and the state in which they have been read. -/
def State.entryRead : (List Byte × Bool) × State := s.readAs p.val (s.objAddr p id) 64

/-- The object of an entry as read, before it is judged. -/
def State.entryObj : TierObj := ((s.obj p id).getD (parseObj (s.entryRead p id).1.1)).reread (parseObj (s.entryRead p id).1.1)

/-- Whether another valid object holds bytes of the entry's range (R131). -/
def State.entryOverlaps : Bool :=
  (vget s.tier p).objs.any (fun e => e.1 != id && e.2.valid && rangesMeet e.2.range (s.entryObj p id).range)

@[simp] theorem State.entryObj_range : (s.entryObj p id).range = (parseObj (s.entryRead p id).1.1).range := TierObj.reread_range _ _

/-- Whether an entry makes a valid object. -/
def State.entryGood : Prop :=
  (s.entryRead p id).1.2 = false ∧ (s.entryRead p id).2.entryBad p (s.entryRead p id).1.1 = none ∧ s.entryOverlaps p id = false

theorem Touched.entryRead : Touched s (s.entryRead p id).2 := Touched.readAs s _ _ _ _

/-- An entry is judged by its poison, its fields and the other objects. -/
theorem State.objRead_eq : s.objRead p id =
    match if (s.entryRead p id).1.2 then some 2 else (s.entryRead p id).2.entryBad p (s.entryRead p id).1.1 with
    | none =>
      if s.entryOverlaps p id then
        (((s.entryRead p id).2.setObj p id { s.entryObj p id with valid := false }).tierStatus p [Fld.TIER_STATUS_OBJ_BAD] []).tierEvent p 0x0606 1 id 1
      else (s.entryRead p id).2.setObj p id { s.entryObj p id with valid := true }
    | some w =>
      (((s.entryRead p id).2.setObj p id { s.entryObj p id with valid := false }).tierStatus p [Fld.TIER_STATUS_OBJ_BAD] []).tierEvent p 0x0606 1 id w := by
  have tier := (Touched.entryRead s p id).tier
  unfold State.entryOverlaps State.entryObj
  rw [← State.obj_congr tier, ← tier]
  rfl

/-- A good entry makes its object valid. -/
theorem State.objRead_good (h : s.entryGood p id) : s.objRead p id = (s.entryRead p id).2.setObj p id { s.entryObj p id with valid := true } := by
  obtain ⟨clean, legal, alone⟩ := h
  rw [s.objRead_eq, clean, if_neg (by simp), legal, alone]
  rfl

/-- Any other makes it invalid, sets OBJ_BAD and is recorded. -/
theorem State.objRead_bad (h : ¬ s.entryGood p id) : ∃ w, s.objRead p id =
    (((s.entryRead p id).2.setObj p id { s.entryObj p id with valid := false }).tierStatus p [Fld.TIER_STATUS_OBJ_BAD] []).tierEvent p 0x0606 1 id w := by
  rw [s.objRead_eq]
  split
  next legal =>
    split
    · exact ⟨1, rfl⟩
    next alone =>
      split at legal
      · cases legal
      next clean => exact absurd ⟨by simpa using clean, legal, by simpa using alone⟩ h
  next w _ => exact ⟨w, rfl⟩

/-- What reading an entry puts into the table. -/
theorem State.obj_objRead : ∃ v, (s.objRead p id).obj p id = some { s.entryObj p id with valid := v } ∧ (v = true ↔ s.entryGood p id) ∧
    (v = false → (s.objRead p id).fget Fld.TIER_STATUS_OBJ_BAD 0 p.val = 1) := by
  by_cases good : s.entryGood p id
  · rw [s.objRead_good p id good]
    exact ⟨true, State.obj_setObj_same _ _ _ _, by simp [good], by simp⟩
  · obtain ⟨w, bad⟩ := s.objRead_bad p id good
    have quiet := Quiet.tierEvent (((s.entryRead p id).2.setObj p id { s.entryObj p id with valid := false }).tierStatus p
      [Fld.TIER_STATUS_OBJ_BAD] []) p 0x0606 1 id w (by decide)
    rw [bad]
    refine ⟨false, ?_, by simp [good], fun _ => ?_⟩
    · rw [State.obj_congr quiet.tier, State.obj_congr (State.tierStatus_tier _ _ _ _), State.obj_setObj_same]
    · rw [quiet.fget _ _ _ rfl]
      exact State.sqSet_bit _ Fld.TIER_STATUS_OBJ_BAD _ _ rfl (by decide)

theorem TableKept.objRead : TableKept s (s.objRead p id) := by
  have read : TableKept s (s.entryRead p id).2 := TableKept.touched (Touched.entryRead s p id)
  by_cases good : s.entryGood p id
  · rw [s.objRead_good p id good]
    exact read.trans (TableKept.modTier _ _ _)
  · obtain ⟨w, bad⟩ := s.objRead_bad p id good
    rw [bad]
    exact ((read.trans (TableKept.modTier _ _ _)).trans (TableKept.tierStatus _ _ _ _)).trans (TableKept.tierEvent _ _ _ _ _ _ (by decide))

end

/-! ## LOAD and SYNC (R130, R131) -/

section

variable (s : State) (p : Part) (id : Nat)

/-- A write that the engine ignores sets SYNC_BUSY alone. -/
theorem State.syncBusy : (s.tierStatus p [Fld.TIER_STATUS_SYNC_BUSY] []).fget Fld.TIER_STATUS_SYNC_BUSY 0 p.val = 1 :=
  s.sqSet_bit Fld.TIER_STATUS_SYNC_BUSY _ _ rfl (by decide)

theorem State.objtLoad_busy (h : (vget s.tier p).objs.all (fun e => s.objIdle p e.2) = false) :
    s.objtLoad p = s.tierStatus p [Fld.TIER_STATUS_SYNC_BUSY] [] := if_pos (by simp [h])

variable (idle : (vget s.tier p).objs.all (fun e => s.objIdle p e.2) = true)
include idle

theorem State.objtLoad_elsewhere (h : s.objtOwned p = false) : s.objtLoad p = s := by
  rw [State.objtLoad, if_neg (by simp [idle]), if_pos (by simp [h])]

/-- LOAD of a table in T1 reads the entries and sets LOADED. -/
theorem State.objtLoad_loads (h : s.objtOwned p = true) :
    ∃ u, s.objtLoad p = u.fset Fld.TIER_OBJT_CTRL_LOADED 1 0 p.val ∧ TableKept s u := by
  rw [State.objtLoad, if_neg (by simp [idle]), if_neg (by simp [h])]
  exact ⟨_, rfl, (TableKept.modTier s p _).trans (TableKept.foldl (fun s id => TableKept.objRead s p id) _ _)⟩

end

section

variable {s : State} {p : Part} {id : Nat}

theorem State.objSync_busy {o : TierObj} (h : s.obj p id = some o) (used : s.objIdle p o = false) :
    s.objSync p id = s.tierStatus p [Fld.TIER_STATUS_SYNC_BUSY] [] := by
  rw [State.objSync, h]
  exact if_pos (by simp [used])

variable (idle : ∀ o, s.obj p id = some o → s.objIdle p o = true)
include idle

theorem State.objSync_idle : s.objSync p id = if s.objCount p ≤ id ∨ s.objtOwned p = false then s else s.objRead p id := by
  unfold State.objSync
  cases h : s.obj p id with
  | none => rfl
  | some o => exact if_neg (by simp [idle o h])

/-- A SYNC of an object in HOME returns it to HOME. -/
theorem State.entryObj_home : (s.entryObj p id).state = 0 := by
  rw [State.entryObj, TierObj.reread_state]
  · rfl
  · cases h : s.obj p id with
    | none => exact (by decide : (0 : Nat) ≠ 2)
    | some o =>
      have home := idle o h
      rw [State.objIdle, Bool.and_eq_true, beq_iff_eq] at home
      rw [Option.getD_some, home.1]
      decide

end

/-! ## REPAIR (R151) -/

section

variable (s : State) (p : Part) (id : Nat)

/-- The ranges of an object's copies, its home first. -/
def TierObj.ranges (o : TierObj) : List (Nat × Nat) :=
  o.range :: ((o.t1.map (fun a => (a, a + ceilTo o.size 4096))).toList ++ (o.t0.map (fun a => (a, a + ceilTo o.size 4096))).toList)

/-- The poison list without the pages of an object. -/
def State.unlisted (o : TierObj) : State :=
  { s with mem := { s.mem with t2Poison := s.mem.t2Poison.filter (fun g => !o.ranges.any (rangesMeet (g * 4096, g * 4096 + 4096))) } }

/-- A repaired object: without poison, and in HOME where it was BROKEN. -/
def TierObj.repaired (o : TierObj) : TierObj :=
  { o with poison := false, allBad := false, state := if o.state = 5 then 0 else o.state, level := if o.state = 5 then 0 else o.level }

/-- The entry of a repaired object read again, where the table is there, and the record of it. -/
def State.reloaded : State := (if s.objtOwned p && id < s.objCount p then s.objRead p id else s).tierEvent p 0x0607 0 id 0

/-- REPAIR of an object, or of an entry that holds none yet. -/
theorem State.objRepair_eq : s.objRepair p id =
    let o := (s.obj p id).getD { parseObj [] with valid := false }
    if o.state = 1 ∨ o.state = 3 ∨ o.state = 4 then s.tierStatus p [Fld.TIER_STATUS_SYNC_BUSY] []
    else (if ((s.unlisted o).obj p id).isSome then (s.unlisted o).setObj p id o.repaired else s.unlisted o).reloaded p id := by
  unfold State.objRepair
  rfl

theorem State.obj_unlisted (o : TierObj) : (s.unlisted o).obj p id = s.obj p id := rfl

theorem State.objRepair_none (h : s.obj p id = none) : s.objRepair p id = (s.unlisted { parseObj [] with valid := false }).reloaded p id := by
  rw [s.objRepair_eq]
  simp only [s.obj_unlisted, h, Option.getD_none, Option.isSome_none, Bool.false_eq_true, if_false]
  exact if_neg (show ¬ ((0 : Nat) = 1 ∨ (0 : Nat) = 3 ∨ (0 : Nat) = 4) by decide)

theorem State.objRepair_free {o : TierObj} (h : s.obj p id = some o) (free : o.state = 0 ∨ o.state = 2 ∨ o.state = 5) :
    s.objRepair p id = ((s.unlisted o).setObj p id o.repaired).reloaded p id := by
  rw [s.objRepair_eq]
  simp only [s.obj_unlisted, h, Option.getD_some, Option.isSome_some, if_true]
  exact if_neg (by omega)

theorem State.objRepair_busy {o : TierObj} (h : s.obj p id = some o) (busy : o.state = 1 ∨ o.state = 3 ∨ o.state = 4) :
    s.objRepair p id = s.tierStatus p [Fld.TIER_STATUS_SYNC_BUSY] [] := by
  rw [s.objRepair_eq, h]
  exact if_pos busy

theorem TableKept.reloaded : TableKept s (s.reloaded p id) := by
  have event (u : State) : TableKept u (u.tierEvent p 0x0607 0 id 0) := TableKept.tierEvent u _ _ _ _ _ (by decide)
  unfold State.reloaded
  split
  · exact (TableKept.objRead s p id).trans (event _)
  · exact event s

/-- The object keeps what REPAIR has cleared. -/
theorem State.obj_reloaded {o : TierObj} (h : s.obj p id = some o) :
    ∃ o', (s.reloaded p id).obj p id = some o' ∧ o'.poison = o.poison ∧ o'.allBad = o.allBad := by
  have event (u : State) : (u.tierEvent p 0x0607 0 id 0).obj p id = u.obj p id :=
    State.obj_congr (Quiet.tierEvent u _ _ _ _ _ (by decide)).tier _ _
  unfold State.reloaded
  rw [event]
  split
  · obtain ⟨v, read, -⟩ := s.obj_objRead p id
    exact ⟨_, read, by simp [State.entryObj, h], by simp [State.entryObj, h]⟩
  · exact ⟨o, h, rfl, rfl⟩

theorem State.mem_unlisted {o : TierObj} {g : Nat} (h : g ∈ (s.unlisted o).mem.t2Poison) :
    g ∈ s.mem.t2Poison ∧ rangesMeet (g * 4096, g * 4096 + 4096) o.range = false := by
  obtain ⟨listed, apart⟩ := List.mem_filter.mp h
  refine ⟨listed, ?_⟩
  simp only [TierObj.ranges, List.any_cons, Bool.not_or, Bool.and_eq_true, Bool.not_eq_true'] at apart
  exact apart.1

end

/-! ## The statement -/

/-- Settles O43: LOAD, SYNC and REPAIR read entries by `objRead_good` and `objRead_bad`, or are ignored. -/
theorem objectTable : Obligations.ObjectTable := by
  unfold Obligations.ObjectTable
  refine ⟨fun p s idle owned => ?_, fun p s idle away => ?_, fun p s used => ?_, fun p id s idle lt owned => ?_, fun p id s idle away => ?_,
    fun p id o s h used => ?_, fun p id o s h free => ?_, fun p id s h => ?_, fun p id o s h busy => ?_⟩
  · obtain ⟨u, load, kept⟩ := s.objtLoad_loads p idle owned
    refine ⟨_, exec_tierObjtLoad p s, ?_⟩
    rw [load]
    refine ⟨u.fget_fset_same _ _ _ _ (by decide) (by decide), fun a => ?_⟩
    rw [← kept.keepsMem a]
    exact KeepsMem.of_mem (u.fset_mem _ _ _ _) a
  · rw [exec_tierObjtLoad, s.objtLoad_elsewhere p idle away]
  · exact ⟨_, by rw [exec_tierObjtLoad, s.objtLoad_busy p used], s.syncBusy p, OnlyRegs.tierStatus _ _ _ _⟩
  · obtain ⟨v, read, good, bad⟩ := s.obj_objRead p id
    have here : ¬ (s.objCount p ≤ id ∨ s.objtOwned p = false) := by simp [lt, owned]
    rw [State.entryGood, State.entryOverlaps, State.entryObj_range] at good
    refine ⟨_, _, by rw [exec_tierObjSync, State.objSync_idle idle, if_neg here], read, ?_, ?_, State.entryObj_home idle, good, bad,
      (TableKept.objRead s p id).keepsMem, (TableKept.objRead s p id).keepsRegs⟩
    · exact TierObj.reread_home _ _
    · exact TierObj.reread_size _ _
  · rw [exec_tierObjSync, State.objSync_idle idle, if_pos away]
  · exact ⟨_, by rw [exec_tierObjSync, State.objSync_busy h used], s.syncBusy p, OnlyRegs.tierStatus _ _ _ _⟩
  · obtain ⟨o', found, poison, allBad⟩ := State.obj_reloaded ((s.unlisted o).setObj p id o.repaired) p id (State.obj_setObj_same _ _ _ _)
    have kept := TableKept.reloaded ((s.unlisted o).setObj p id o.repaired) p id
    refine ⟨((s.unlisted o).setObj p id o.repaired).reloaded p id, o', by rw [exec_tierRepair, s.objRepair_free p id h free], State.drainHost_idle,
      found, poison, allBad, kept.keepsMem, fun g mem => ?_⟩
    rw [kept.t2Poison, State.setObj_mem] at mem
    exact s.mem_unlisted mem
  · have kept := TableKept.reloaded (s.unlisted { parseObj [] with valid := false }) p id
    refine ⟨_, by rw [exec_tierRepair, s.objRepair_none p id h], kept.keepsMem, fun g mem => ?_⟩
    rw [kept.t2Poison] at mem
    exact (s.mem_unlisted mem).1
  · exact ⟨_, by rw [exec_tierRepair, s.objRepair_busy p id h busy], s.syncBusy p, OnlyRegs.tierStatus _ _ _ _⟩

end Sys2Proof.Machine
end

section
/-! SUPPORT. Transfers (R139, R147 to R150, R299): what sending requests and going on with transfers leave alone, and the transfers of an engine that holds one. -/

namespace Sys2Proof.Machine

/-! ## Only the queues change -/

/-- Nothing but the queues changes. -/
def OnlyQueues (s t : State) : Prop := t = { s with queues := t.queues }

namespace OnlyQueues

theorem refl (s : State) : OnlyQueues s s := rfl

theorem trans {s t u : State} (h : OnlyQueues s t) (k : OnlyQueues t u) : OnlyQueues s u := by
  unfold OnlyQueues at *
  rw [k, h]

theorem ite {s t u : State} {c : Prop} [Decidable c] (h : OnlyQueues s t) (k : OnlyQueues s u) : OnlyQueues s (if c then t else u) := by
  split
  · exact h
  · exact k

theorem foldl {β : Type} {f : State → β → State} (h : ∀ s x, OnlyQueues s (f s x)) (l : List β) (s : State) : OnlyQueues s (l.foldl f s) := by
  induction l generalizing s with
  | nil => exact refl s
  | cons x l ih => exact (h s x).trans (ih _)

theorem setCmd (s : State) (p q : Nat) (c : Cmd) : OnlyQueues s (s.setCmd p q c) := rfl

theorem failWhere (s : State) (p : Part) (st : Nat) (ok : Cmd → Bool) : OnlyQueues s (s.failWhere p st ok) :=
  foldl (fun s q => foldl (fun s _ => ite (setCmd s p.val q _) (refl s)) _ s) _ s

variable {s t : State} (h : OnlyQueues s t)
include h

theorem mem : t.mem = s.mem := by rw [h]
theorem tier : t.tier = s.tier := by rw [h]
theorem rf : t.rf = s.rf := by rw [h]
theorem eut : t.eut = s.eut := by rw [h]

end OnlyQueues

/-! ## Sending (R295, R299, R310) -/

theorem Quiet.perEvent (s : State) (code sev a b : Nat) (h : sev ≠ 3) : Quiet s (s.perEvent code sev a b) := Quiet.event s _ h

theorem Quiet.reqEvent (s : State) (k ttype st a : Nat) : Quiet s (s.reqEvent k ttype st a) := Quiet.event s _ (by exact (by decide : (1 : Nat) ≠ 3))

theorem Quiet.reqErr (s : State) (k ttype st a : Nat) : Quiet s (s.reqErr k ttype st a) :=
  (Quiet.sqSet s _ _ _ _ _ rfl).trans (Quiet.reqEvent _ _ _ _ _)

/-- What sending leaves alone: memory, the tier engines and their TIER_STATUS. -/
structure Sent (s t : State) : Prop where
  mem : t.mem = s.mem
  tier : t.tier = s.tier
  rd : ∀ i a, t.rd .TIER_STATUS i a = s.rd .TIER_STATUS i a

namespace Sent

theorem refl (s : State) : Sent s s := ⟨rfl, rfl, fun _ _ => rfl⟩

theorem trans {s t u : State} (h : Sent s t) (k : Sent t u) : Sent s u :=
  ⟨k.mem.trans h.mem, k.tier.trans h.tier, fun i a => (k.rd i a).trans (h.rd i a)⟩

theorem quiet {s t : State} (h : Quiet s t) : Sent s t := ⟨h.mem, h.tier, fun i a => h.rd _ i a rfl⟩

theorem fget {s t : State} (h : Sent s t) {f : Fld} (i a : Nat) (e : f.reg = .TIER_STATUS) : t.fget f i a = s.fget f i a := by
  rw [State.fget, e, h.rd, ← e, State.fget]

theorem newTag (s : State) (k : Nat) : Sent s (s.newTag k).2 := ⟨rfl, rfl, fun _ _ => rfl⟩

theorem sendT2Rd (s : State) (k tag off len : Nat) : Sent s (s.sendT2Rd k tag off len) :=
  (quiet (Quiet.sendMsg s _ _ _)).trans (quiet (Quiet.emit _ _))

theorem sendRouted (s : State) (group mtype : Nat) (dst : Coord) (body : List Byte) : Sent s (s.sendRouted group mtype dst body).1 := by
  unfold State.sendRouted
  split
  · have counted : Sent s (s.sqSet .PER_STATUS 0 0 [Fld.PER_STATUS_UNREACH] [Fld.PER_STATUS_UNREACH_CNT]) :=
      ⟨by simp, by simp, fun i a => s.rd_wr_reg _ _ _ _ _ (by decide)⟩
    exact counted.trans (quiet (Quiet.perEvent _ 0x0941 1 _ _ (by decide)))
  · dsimp only
    split
    · exact refl s
    · exact (quiet (Quiet.sendMsg s _ _ _)).trans (quiet (Quiet.emit _ _))

theorem askT2 (s : State) (f : Fetch) (a off n : Nat) : Sent s (s.askT2 f a off n).1 := by
  unfold State.askT2
  dsimp only
  split
  · exact (newTag s _).trans (sendT2Rd _ _ _ _ _)
  · exact refl s

theorem askSource (s : State) (p : Part) (f : Fetch) (fuel : Nat) : Sent s (s.askSource p f fuel).1 := by
  induction fuel generalizing s f with
  | zero => exact refl s
  | succ fuel ih =>
    unfold State.askSource
    split
    · extract_lets rel
      split
      · split
        · exact askT2 s _ _ _ _
        · exact ih s _
      · split
        · split
          · exact refl s
          · dsimp only
            split
            · exact (newTag s 4).trans (sendRouted _ _ _ _ _)
            · exact ((newTag s 4).trans (sendRouted _ _ _ _ _)).trans (ih _ _)
        · exact ih s _
      · split
        · exact askT2 s _ _ _ _
        · exact refl s
      · exact refl s
    · exact refl s

theorem pumpFetch (s : State) (p : Part) (f : Fetch) : Sent s (s.pumpFetch p f).1 := by
  unfold State.pumpFetch
  dsimp only
  split
  · exact refl s
  · split
    · exact askSource s p f 4
    · split
      · exact refl s
      · split
        · split
          · exact refl s
          · exact askSource s p _ 4
        · exact askT2 s f _ _ _

end Sent

theorem Quiet.sendCpl (s : State) (k ttype tag a st : Nat) (data : List Byte) : Quiet s (s.sendCpl k ttype tag a st data) := by
  have sent := (Quiet.sendMsg s ⟨6 + k % 4, by omega⟩ 2 (txnHdr 0x08 st tag data.length 0 ++ data)).trans
    (Quiet.emit _ (.cpl ⟨k % 4, by omega⟩ tag st data))
  show Quiet s (if st = 0 then _ else _)
  split
  · exact sent
  · exact sent.trans (Quiet.reqErr _ _ _ _ _)

/-! ## What an engine's work on its transfers leaves alone -/

/-- A hardware set of one status bit leaves another field alone. -/
theorem State.sqSet_bit_ne (s : State) {f g : Fld} (i a : Nat) (e : g.reg = f.reg) (h : f.lo ≤ f.hi) (k : f.hi < 32) (hg : g.lo ≤ g.hi)
    (kg : g.hi < 24) (d : g.hi < f.lo ∨ f.hi < g.lo) : (s.sqSet f.reg i a [f] []).fget g i a = s.fget g i a := by
  unfold State.sqSet State.fget sqWord
  rw [e, State.rd_wr_same]
  simp only [List.foldl_cons, List.foldl_nil, sqOr]
  rw [wGet_wSet_ne _ _ (by decide) (by decide) hg (.inl kg), wGet_wSet_ne _ _ h k hg d]

/-- What an engine leaves alone as its transfers go on and end: the bytes of T0 and T1, the poison list, the other engines, and POISON once it is set. -/
structure Moved (p : Part) (s t : State) : Prop where
  cells : t.mem.cells = s.mem.cells
  t2Poison : t.mem.t2Poison = s.mem.t2Poison
  others : ∀ q, q ≠ p → vget t.tier q = vget s.tier q
  poison : s.fget Fld.TIER_STATUS_POISON 0 p.val = 1 → t.fget Fld.TIER_STATUS_POISON 0 p.val = 1

namespace Moved

variable {p : Part}

theorem refl (s : State) : Moved p s s := ⟨rfl, rfl, fun _ _ => rfl, fun h => h⟩

theorem trans {s t u : State} (h : Moved p s t) (k : Moved p t u) : Moved p s u :=
  ⟨k.cells.trans h.cells, k.t2Poison.trans h.t2Poison, fun q n => (k.others q n).trans (h.others q n), fun x => k.poison (h.poison x)⟩

theorem ite {s t u : State} {c : Prop} [Decidable c] (h : Moved p s t) (k : Moved p s u) : Moved p s (if c then t else u) := by
  split
  · exact h
  · exact k

theorem foldl {β : Type} {f : State → β → State} (h : ∀ s x, Moved p s (f s x)) (l : List β) (s : State) : Moved p s (l.foldl f s) := by
  induction l generalizing s with
  | nil => exact refl s
  | cons x l ih => exact (h s x).trans (ih _)

theorem sent {s t : State} (h : Sent s t) : Moved p s t :=
  ⟨by rw [h.mem], by rw [h.mem], fun q _ => by rw [h.tier], fun x => (h.fget 0 p.val rfl).trans x⟩

theorem quiet {s t : State} (h : Quiet s t) : Moved p s t := sent (Sent.quiet h)

theorem queues {s t : State} (h : OnlyQueues s t) : Moved p s t :=
  ⟨by rw [h.mem], by rw [h.mem], fun q _ => by rw [h.tier], fun x => by rwa [State.fget, State.rd, h.rf, ← State.rd, ← State.fget]⟩

theorem modTier (s : State) (f : TierSt → TierSt) : Moved p s (s.modTier p f) :=
  ⟨by simp, by simp, fun q n => s.modTier_tier_ne p f n, fun x => by rwa [State.fget, State.modTier_rd, ← State.fget]⟩

theorem setObj (s : State) (id : Nat) (o : TierObj) : Moved p s (s.setObj p id o) := modTier s _
theorem setFetches (s : State) (l : List Fetch) : Moved p s (s.setFetches p l) := modTier s _
theorem dropT2 (s : State) (f : Fetch) : Moved p s (s.dropT2 f) := ⟨rfl, rfl, fun _ _ => rfl, fun h => h⟩
theorem setEut (s : State) (x : EutSt) : Moved p s { s with eut := x } := ⟨rfl, rfl, fun _ _ => rfl, fun h => h⟩
theorem draw (s : State) (w : Nat) : Moved p s (s.draw w).2 := quiet (Quiet.draw s w)
theorem tierEvent (s : State) (code sev a b : Nat) (h : sev ≠ 3) : Moved p s (s.tierEvent p code sev a b) := quiet (Quiet.tierEvent s p _ _ _ _ h)

theorem tierStatus_ue (s : State) : Moved p s (s.tierStatus p [Fld.TIER_STATUS_UE] []) :=
  ⟨by simp, by simp, fun q _ => by simp, fun x => (s.sqSet_bit_ne 0 p.val (f := Fld.TIER_STATUS_UE) (g := Fld.TIER_STATUS_POISON) rfl (by decide)
    (by decide) (by decide) (by decide) (by decide)).trans x⟩

theorem pumpTier (s : State) : Moved p s (s.pumpTier p) := by
  refine foldl (fun s i => ?_) _ s
  split
  · exact refl s
  · dsimp only
    split
    · exact refl s
    · exact (sent (Sent.pumpFetch s p _)).trans (setFetches _ _)

theorem failRun (s : State) (r : CmdRef) (c : Cmd) (st : Nat) : Moved p s (s.failRun r c st) := queues (OnlyQueues.setCmd s _ _ _)

theorem failPrefetch (s : State) (id st : Nat) : Moved p s (s.failPrefetch p id st) := by
  unfold State.failPrefetch
  extract_lets hit failed left
  have schedules : Moved p s failed := by
    refine foldl (fun s x => ?_) _ s
    split
    · exact ite (refl s) (failRun s _ _ _)
    · exact refl s
  exact (schedules.trans (modTier _ _)).trans (queues (OnlyQueues.failWhere _ _ _ _))

theorem breakObj (s : State) (id page : Nat) : Moved p s (s.breakObj p id page) := by
  unfold State.breakObj
  split
  · exact refl s
  · extract_lets broken dropped told
    have kept : Moved p s told := (((setObj s _ _).trans (setFetches _ _)).trans (tierStatus_ue _)).trans (tierEvent _ _ _ _ _ (by decide))
    exact (kept.trans (failPrefetch _ _ _)).trans (queues (OnlyQueues.failWhere _ _ _ _))

theorem settleTier (s : State) : Moved p s (s.settleTier p) := by
  refine foldl (fun s f => ?_) _ s
  split
  · exact refl s
  · split
    next k t a n _ =>
      extract_lets gone data
      have drawn : Moved p s (gone.drawBytes n).2 := (setFetches s _).trans ⟨rfl, rfl, fun _ _ => rfl, fun h => h⟩
      split
      next free u e =>
        rw [e] at drawn
        extract_lets answered dropped
        have answer : Moved p u answered := ite (refl u) (ite (quiet (Quiet.sendCpl u k _ t a 3 free)) (quiet (Quiet.sendCpl u k _ t a 0 data)))
        exact ((drawn.trans answer).trans (dropT2 answered f)).trans (setEut dropped _)
    · split
      · exact refl s
      · extract_lets page dropped stopped
        have drop : Moved p s dropped := (setFetches s _).trans (dropT2 _ f)
        have stop : Moved p s stopped := by
          unfold stopped
          split
          · refine drop.trans ?_
            split
            · exact ite (refl _) (failRun _ _ _ _)
            · exact refl _
          · exact refl s
        clear_value stopped
        refine stop.trans ?_
        split
        · exact breakObj stopped _ _
        · exact (draw stopped 32).trans (tierEvent _ _ _ _ _ (by decide))

/-- A byte of T0 or T1. -/
theorem cell {s t : State} (h : Moved p s t) {a : Nat} (low : isT2 a = false) : t.cell a = s.cell a := by
  rw [State.cell, State.cell, low, h.cells]
  rfl

end Moved

/-! ## The transfers of an engine that holds one -/

section

variable {s : State} {p : Part} {f : Fetch}

theorem State.pumpTier_nil (h : (vget s.tier p).fetches = []) : s.pumpTier p = s := by
  unfold State.pumpTier
  rw [h]
  rfl

theorem State.settleTier_nil (h : (vget s.tier p).fetches = []) : s.settleTier p = s := by
  unfold State.settleTier
  rw [h]
  rfl

/-- The only transfer of an engine goes on. -/
theorem State.pumpTier_one (h : (vget s.tier p).fetches = [f]) :
    s.pumpTier p = (s.pumpFetch p f).1.setFetches p [(s.pumpFetch p f).2] := by
  unfold State.pumpTier
  rw [h]
  simp only [List.length_singleton, List.range_one, List.foldl_cons, List.foldl_nil, h, List.getElem?_cons_zero, List.take_zero, List.any_nil,
    Bool.and_false, Bool.false_eq_true, if_false, (Sent.pumpFetch s p f).tier, List.set_cons_zero]

end

end Sys2Proof.Machine
end

section
/-! Transfers from T2 and from a replica (O46). -/

namespace Sys2Proof.Machine

theorem exec_t2Cpl (k : EPort) (tag st : Nat) (w : BitVec 16) (data : List Byte) (s : State) :
    exec (.t2Cpl k tag st w data) s = .next (s.t2Cpl k.val (tag % 4096) st w data).drainHost := rfl
theorem exec_tierPeerData (h : RouteHdr) (tag st : Nat) (data : List Byte) (s : State) :
    exec (.tierPeerData h tag st data) s = .next (s.peerData tag st data).drainHost := rfl
theorem exec_refetchSourceTimeout (p : Part) (id : Nat) (s : State) :
    exec (.refetchSourceTimeout p id) s = .next (s.sourceTimeout p id).drainHost := rfl

/-! ## Bytes that land (R299) -/

section

variable (s : State) (p : Part) (f : Fetch) (off : Nat) (data : List Byte)

@[simp] theorem State.landFetch_tier : (s.landFetch p f off data).tier = s.tier := by
  unfold State.landFetch
  dsimp only
  split
  · rfl
  · rw [(Written.writePhys _ _ _).tier, (Touched.grant s _ _ _).tier]

variable {s p f off data}

/-- Beside its place, no byte of T0 or T1 changes. -/
theorem State.cell_landFetch_out {y : Nat} (low : isT2 y = false) (out : y < f.dest + off ∨ f.dest + off + data.length ≤ y) :
    (s.landFetch p f off data).cell y = s.cell y := by
  unfold State.landFetch
  dsimp only
  split
  · simp only [State.cell, low]
    rfl
  · rw [State.cell_writePhys, if_neg (by omega), (Touched.grant s _ _ _).cell]

/-- Where the write succeeds, the bytes are there. -/
theorem State.cell_landFetch_in (fits : f.dest + off + data.length ≤ t2Base)
    (ok : ((s.grant p.val (f.dest + off) data.length).writePhys (f.dest + off) data).2 = 0) {i : Nat} (lt : i < data.length) :
    (s.landFetch p f off data).cell (f.dest + off + i) = data.getD i 0 := by
  have first : isT2 (f.dest + off) = false := isT2_below (by omega)
  unfold State.landFetch
  dsimp only
  rw [if_neg (by simp [first]), State.cell_writePhys_in ok fits lt]

end

/-! ## Answers (R147, R148) -/

/-- Whether a request of a transfer is the one that a port's tag names. -/
def Fetch.asked (k tag : Nat) (f : Fetch) : Bool := match f.tag with | some (q, t, _, _) => q == k && t == tag | none => false

theorem Fetch.asked_eq_false {k tag : Nat} {f : Fetch} (h : ∀ off n, f.tag ≠ some (k, tag, off, n)) : f.asked k tag = false := by
  unfold Fetch.asked
  split
  next q t off n asked =>
    by_contra hit
    simp only [Bool.not_eq_false, Bool.and_eq_true, beq_iff_eq] at hit
    obtain ⟨rfl, rfl⟩ := hit
    exact h off n asked
  · rfl

/-- Whether an answer brings page `j` of its request poisoned, or not at all. -/
def badPage (status : Nat) (poison : BitVec 16) (j : Nat) : Bool := status != 0 && status != 3 || poison.toNat.testBit j

section

variable (s : State) (k tag status : Nat) (poison : BitVec 16) (data : List Byte)

/-- What an answer makes of the transfer that waits for it: the bytes at `off` have come. -/
def State.answered (p : Part) (f : Fetch) (off n : Nat) : State × Fetch :=
  if f.bad.contains off then
    if badPage status poison 0 then (s, { f with tag := none, src := f.src + 1 }) else s.pageClean p f off (data.take 4096)
  else
    (List.range (n / 4096)).foldl (fun (a : State × Fetch) j =>
      let o := off + 4096 * j
      if badPage status poison j then
        let s := a.1.listPage p a.2 o
        (s, if a.2.host.isSome then { a.2 with fail := true } else { a.2 with bad := a.2.bad ++ [o] })
      else (a.1.landFetch p a.2 o ((data.drop (4096 * j)).take 4096), a.2)) (s, { f with tag := none, src := 1 })

/-- Transfer `i` of an engine goes on as it now stands. -/
def State.goesOn (p : Part) (i : Nat) (f : Fetch) : State :=
  ((s.setFetches p ((vget s.tier p).fetches.set i f)).pumpTier p).settleTier p

/-- What an answer does to one engine. -/
def State.answerAt (p : Part) : State :=
  match (vget s.tier p).fetches.findIdx? (Fetch.asked k tag) with
  | none => s
  | some i =>
    match (vget s.tier p).fetches[i]? with
    | none => s
    | some f =>
      match f.tag with
      | none => s
      | some (_, _, off, n) => (s.answered status poison data p f off n).1.goesOn p i (s.answered status poison data p f off n).2

theorem State.t2Cpl_eq : s.t2Cpl k tag status poison data = (List.finRange 4).foldl (fun s p => s.answerAt k tag status poison data p) s := by
  unfold State.t2Cpl
  rfl

variable {s k tag} {p : Part} {f : Fetch}

theorem Moved.goesOn (s : State) (i : Nat) (f : Fetch) : Moved p s (s.goesOn p i f) :=
  ((Moved.setFetches s _).trans (Moved.pumpTier _)).trans (Moved.settleTier _)

/-- An engine that has not asked leaves an answer. -/
theorem State.answerAt_unasked (h : ∀ f ∈ (vget s.tier p).fetches, f.asked k tag = false) : s.answerAt k tag status poison data p = s := by
  have none : (vget s.tier p).fetches.findIdx? (Fetch.asked k tag) = none := List.findIdx?_eq_none_iff.mpr h
  rw [State.answerAt, none]

/-- The only transfer of an engine takes its answer. -/
theorem State.answerAt_one (h : (vget s.tier p).fetches = [f]) {off n : Nat} (asked : f.tag = some (k, tag, off, n)) :
    s.answerAt k tag status poison data p = (s.answered status poison data p f off n).1.goesOn p 0 (s.answered status poison data p f off n).2 := by
  have hit : f.asked k tag = true := by simp [Fetch.asked, asked]
  have first : [f].findIdx? (Fetch.asked k tag) = some 0 := by simp [hit]
  rw [State.answerAt, h, first]
  simp only [List.getElem?_cons_zero]
  rw [asked]

/-- An answer that no engine waits for does nothing. -/
theorem State.t2Cpl_unasked (h : ∀ p : Part, ∀ f ∈ (vget s.tier p).fetches, f.asked k tag = false) : s.t2Cpl k tag status poison data = s := by
  rw [State.t2Cpl_eq]
  exact List.foldl_fixed' (fun p => s.answerAt_unasked _ _ _ (h p)) _

/-- Where one engine alone has transfers, it alone takes the answer. -/
theorem State.t2Cpl_at (others : ∀ q, q ≠ p → (vget s.tier q).fetches = [])
    (moved : ∀ q, q ≠ p → vget (s.answerAt k tag status poison data p).tier q = vget s.tier q) :
    s.t2Cpl k tag status poison data = s.answerAt k tag status poison data p := by
  have idle (l : List Part) (t : State) (out : p ∉ l) (none : ∀ q, q ≠ p → (vget t.tier q).fetches = []) :
      l.foldl (fun s p => s.answerAt k tag status poison data p) t = t := by
    induction l with
    | nil => rfl
    | cons q l ih =>
      obtain ⟨ne, out⟩ := not_or.mp (fun x => out (List.mem_cons.mpr x))
      rw [List.foldl_cons, t.answerAt_unasked _ _ _ (by simp [none q (Ne.symm ne)]), ih out]
  obtain ⟨a, b, parts⟩ := List.append_of_mem (List.mem_finRange p)
  have nodup := parts ▸ List.nodup_finRange 4
  obtain ⟨-, tail, apart⟩ := List.nodup_append.mp nodup
  have before : p ∉ a := fun x => apart p x p List.mem_cons_self rfl
  rw [State.t2Cpl_eq, parts, List.foldl_append, idle a s before others, List.foldl_cons,
    idle b _ (List.nodup_cons.mp tail).1 (fun q n => by rw [moved q n, others q n])]

end

/-! ## A page that comes clean, and one that comes poisoned -/

section

variable {s : State} {p : Part} {f : Fetch} {off : Nat} {data : List Byte}

/-- A clean page of a T2 read lands. -/
theorem State.answered_clean (bad : f.bad = []) (len : data.length ≤ 4096) :
    s.answered 0 0 data p f off 4096 = (s.landFetch p f off data, { f with tag := none, src := 1 }) := by
  have all : data.take 4096 = data := List.take_of_length_le len
  unfold State.answered
  rw [bad, show (4096 / 4096 : Nat) = 1 by decide, List.range_one, if_neg (by simp)]
  simp only [List.foldl_cons, List.foldl_nil, Nat.mul_zero, Nat.add_zero, List.drop_zero, all]
  rfl

/-- So does a clean page of a refetch source. -/
theorem Moved.pageClean (s : State) (f : Fetch) : Moved p (s.landFetch p f off data) (s.pageClean p f off data).1 := by
  unfold State.pageClean
  extract_lets landed served g
  split
  · split
    · extract_lets others left
      exact (Moved.ite (Moved.refl _) (Moved.setObj _ _ _)).trans (Moved.tierEvent _ 0x0602 0 _ _ (by decide))
    · exact Moved.refl _
  · exact Moved.refl _

theorem State.answered_refetched (bad : f.bad = [off]) (len : data.length ≤ 4096) : s.answered 0 0 data p f off 4096 = s.pageClean p f off data := by
  have all : data.take 4096 = data := List.take_of_length_le len
  unfold State.answered
  rw [bad, all, if_pos (by simp)]
  rfl

/-- A poisoned page is listed where the list has room. -/
theorem State.answered_poisoned (bad : f.bad = []) :
    ∃ g, s.answered 0 1 data p f off 4096 = (s.listPage p { f with tag := none, src := 1 } off, g) := by
  unfold State.answered
  rw [bad, show (4096 / 4096 : Nat) = 1 by decide, List.range_one, if_neg (by simp)]
  exact ⟨_, rfl⟩

/-- What has landed stays as the transfers go on. -/
theorem State.landed_stays (fits : f.dest + off + data.length ≤ t2Base)
    (ok : ((s.grant p.val (f.dest + off) data.length).writePhys (f.dest + off) data).2 = 0) {u : State} (h : Moved p (s.landFetch p f off data) u) :
    (∀ i < data.length, u.cell (f.dest + off + i) = data.getD i 0) ∧
      ∀ y, isT2 y = false → (y < f.dest + off ∨ f.dest + off + data.length ≤ y) → u.cell y = s.cell y := by
  refine ⟨fun i lt => ?_, fun y low out => ?_⟩
  · rw [h.cell (isT2_below (by omega)), State.cell_landFetch_in fits ok lt]
  · rw [h.cell low, State.cell_landFetch_out low out]

/-- An answer whose page lands, where the engine has no other transfer and the other engines have none. -/
theorem State.t2Cpl_lands {k tag : Nat} (one : (vget s.tier p).fetches = [f]) (others : ∀ q, q ≠ p → (vget s.tier q).fetches = [])
    (asked : f.tag = some (k, tag, off, 4096)) (land : Moved p (s.landFetch p f off data) (s.answered 0 0 data p f off 4096).1)
    (fits : f.dest + off + data.length ≤ t2Base)
    (ok : ((s.grant p.val (f.dest + off) data.length).writePhys (f.dest + off) data).2 = 0) :
    (∀ i < data.length, (s.t2Cpl k tag 0 0 data).cell (f.dest + off + i) = data.getD i 0) ∧
      ∀ y, isT2 y = false → (y < f.dest + off ∨ f.dest + off + data.length ≤ y) → (s.t2Cpl k tag 0 0 data).cell y = s.cell y := by
  have moved : Moved p (s.landFetch p f off data) (s.answerAt k tag 0 0 data p) := by
    rw [s.answerAt_one _ _ _ one asked]
    exact land.trans (Moved.goesOn _ _ _)
  rw [s.t2Cpl_at 0 0 data others (fun q n => by rw [moved.others q n, State.landFetch_tier])]
  exact State.landed_stays fits ok moved

end

/-! ## The poison list (R147) -/

theorem NSet.mem_insert_same (l : List Nat) (a : Nat) : NSet.mem (NSet.insert l a) a = true := by
  induction l with
  | nil => simp [NSet.insert, NSet.mem]
  | cons k t ih =>
    unfold NSet.insert
    split
    · simp [NSet.mem]
    · split
      next same => simp [NSet.mem, same]
      next => simpa [NSet.mem] using .inr (by simpa [NSet.mem] using ih)

section

variable (s : State) (p : Part)

/-- A page in the poison list, and POISON set. -/
def State.pageListed (a : Nat) : State :=
  ({ s with mem := { s.mem with t2Poison := NSet.insert s.mem.t2Poison (pageOf a) } }).tierStatus p [Fld.TIER_STATUS_POISON]
    [Fld.TIER_STATUS_POISON_CNT]

theorem State.pageListed_mem (a : Nat) : NSet.mem (s.pageListed p a).mem.t2Poison (pageOf a) = true := by
  rw [State.pageListed, State.tierStatus_mem]
  exact NSet.mem_insert_same _ _

theorem State.pageListed_poison (a : Nat) : (s.pageListed p a).fget Fld.TIER_STATUS_POISON 0 p.val = 1 :=
  State.sqSet_bit_cnt _ Fld.TIER_STATUS_POISON Fld.TIER_STATUS_POISON_CNT _ _ rfl (by decide) (by decide) (by decide) (by decide)

theorem State.pageListed_tier (a : Nat) : (s.pageListed p a).tier = s.tier := State.tierStatus_tier _ _ _ _

variable {s p}

/-- A list with room takes the page, and the rest is the object's. -/
theorem Moved.listPoison (room : (s.mem.t2Poison.filter (fun g => s.ownsMem p.val (g * 4096) 4096)).length < 4096) (o : Option (Nat × TierObj)) (a : Nat) :
    Moved p (s.pageListed p a) (s.listPoison p o a) := by
  unfold State.listPoison
  extract_lets full src taken told
  have free : ¬ full := Nat.not_le.mpr room
  have listed : told = s.pageListed p a := by
    simp only [told, taken, if_neg free]
    rfl
  rw [← listed]
  split
  · exact (Moved.setObj told _ _).trans (Moved.tierEvent _ 0x0601 1 _ _ (by decide))
  · exact (Moved.draw told 32).trans (Moved.tierEvent _ 0x0601 1 _ _ (by decide))

theorem Moved.listPage (room : (s.mem.t2Poison.filter (fun g => s.ownsMem p.val (g * 4096) 4096)).length < 4096) (f : Fetch) (off : Nat) :
    Moved p (s.pageListed p (f.base + off)) (s.listPage p f off) := by
  unfold State.listPage
  extract_lets u
  have listed : Moved p (s.pageListed p (f.base + off)) u := Moved.listPoison room _ _
  split
  · exact listed.trans (Moved.setObj _ _ _)
  · exact listed

/-- A poisoned page enters the list and sets POISON. -/
theorem State.t2Cpl_poisoned {k tag off : Nat} {f : Fetch} {data : List Byte} (one : (vget s.tier p).fetches = [f])
    (others : ∀ q, q ≠ p → (vget s.tier q).fetches = []) (asked : f.tag = some (k, tag, off, 4096)) (bad : f.bad = [])
    (room : (s.mem.t2Poison.filter (fun g => s.ownsMem p.val (g * 4096) 4096)).length < 4096) :
    NSet.mem (s.t2Cpl k tag 0 1 data).mem.t2Poison (pageOf (f.base + off)) = true ∧ (s.t2Cpl k tag 0 1 data).fget Fld.TIER_STATUS_POISON 0 p.val = 1 := by
  have moved : Moved p (s.pageListed p (f.base + off)) (s.answerAt k tag 0 1 data p) := by
    obtain ⟨g, answered⟩ := State.answered_poisoned (s := s) (p := p) (off := off) (data := data) bad
    rw [s.answerAt_one _ _ _ one asked, answered]
    exact (Moved.listPage room { f with tag := none, src := 1 } off).trans (Moved.goesOn _ _ _)
  rw [s.t2Cpl_at 0 1 data others (fun q n => by rw [moved.others q n, State.pageListed_tier])]
  exact ⟨by rw [moved.t2Poison, s.pageListed_mem], moved.poison (s.pageListed_poison p _)⟩

end

/-! ## The last source (R148, R149) -/

section

variable {s : State} {p : Part} {id : Nat} {f : Fetch} {o : TierObj}

/-- What fails the PREFETCHes of an object leaves memory, registers and objects alone. -/
theorem State.failPrefetch_keeps (s : State) (p : Part) (id st : Nat) :
    (s.failPrefetch p id st).mem = s.mem ∧ (s.failPrefetch p id st).rf = s.rf ∧ ∀ j, (s.failPrefetch p id st).obj p j = s.obj p j := by
  unfold State.failPrefetch
  extract_lets hit failed left
  have ended : OnlyQueues s failed := by
    refine OnlyQueues.foldl (fun s x => ?_) _ s
    split
    · exact OnlyQueues.ite (OnlyQueues.refl s) (OnlyQueues.setCmd s _ _ _)
    · exact OnlyQueues.refl s
  have waits := OnlyQueues.failWhere left p st (fun c => cOpcode c == 0x11 && !bitOf (cOparg c) 31 && cOparg c % 65536 == id)
  refine ⟨by rw [waits.mem, State.modTier_mem, ended.mem], by rw [waits.rf, State.modTier_rf, ended.rf], fun j => ?_⟩
  rw [State.obj_congr waits.tier]
  have objs : left.obj p j = failed.obj p j := by simp only [left, State.obj, State.modTier_tier_same]
  rw [objs, State.obj_congr ended.tier]

/-- A BROKEN object has lost its copies; UE is set, and no memory changes. -/
theorem State.breakObj_breaks (h : s.obj p id = some o) (page : Nat) :
    (s.breakObj p id page).obj p id = some { o with state := 5, level := 0, t1 := none, t0 := none, target := 0 } ∧
      (s.breakObj p id page).fget Fld.TIER_STATUS_UE 0 p.val = 1 ∧ (s.breakObj p id page).mem = s.mem := by
  unfold State.breakObj
  split
  next none => rw [h] at none; cases none
  next x found =>
    obtain rfl := Option.some.inj (h.symm.trans found)
    extract_lets broken dropped told
    have quiet : Quiet (dropped.tierStatus p [Fld.TIER_STATUS_UE] []) told := Quiet.tierEvent _ _ _ _ _ _ (by decide)
    have waits := OnlyQueues.failWhere (told.failPrefetch p id 0x0601) p 0x0601 (fun c => c.touches o)
    obtain ⟨mem, rf, objs⟩ := told.failPrefetch_keeps p id 0x0601
    refine ⟨?_, ?_, ?_⟩
    · rw [State.obj_congr waits.tier, objs, State.obj_congr quiet.tier, State.obj_congr (State.tierStatus_tier _ _ _ _), State.obj_setFetches,
        State.obj_setObj_same]
    · rw [State.fget, State.rd, waits.rf, rf, ← State.rd, ← State.fget, quiet.fget _ _ _ rfl]
      exact State.sqSet_bit _ Fld.TIER_STATUS_UE _ _ rfl (by decide)
    · rw [waits.mem, mem, quiet.mem, State.tierStatus_mem, State.setFetches_mem, State.setObj_mem]

/-- A transfer whose sources are all behind it fails. -/
theorem State.askSource_fails (src : f.src = 3) (fuel : Nat) : s.askSource p f fuel = (s, { f with fail := true }) := by
  cases fuel with
  | zero => rfl
  | succ fuel =>
    unfold State.askSource
    split
    · simp only [src]
    · rfl

theorem State.fetchObj_own (mine : f.obj = some id) (h : s.obj p id = some o) : s.fetchObj p f = some (id, o) := by
  simp only [State.fetchObj, mine, h, Option.map_some]

/-- A promotion that has failed breaks its object. -/
theorem State.settleTier_breaks (one : (vget s.tier p).fetches = [f]) (fail : f.fail = true) (promotes : f.promotes = true) (mine : f.obj = some id)
    (h : s.obj p id = some o) : s.settleTier p = s.breakObj p id (f.base + f.bad.headD 0) := by
  rw [Fetch.promotes, Bool.and_eq_true, Option.isNone_iff_eq_none, Option.isNone_iff_eq_none] at promotes
  obtain ⟨ref, host⟩ := promotes
  have found : s.fetchObj p f = some (id, o) := State.fetchObj_own mine h
  have ended : f.ended = true := by rw [Fetch.ended, fail]; rfl
  unfold State.settleTier
  rw [one]
  simp only [List.foldl_cons, List.foldl_nil, ended, host, ref, fail, found, Bool.not_true, Bool.false_eq_true, if_false]

/-- A transfer without a request outstanding waits for no source. -/
theorem State.sourceTimeout_unasked (h : ∀ f ∈ (vget s.tier p).fetches, f.tag = none) : s.sourceTimeout p id = s := by
  unfold State.sourceTimeout
  extract_lets valid mine
  have none : (vget s.tier p).fetches.findIdx? (fun f => f.tag.isSome && mine f) = none :=
    List.findIdx?_eq_none_iff.mpr (fun f mem => by rw [h f mem]; rfl)
  rw [none]

section

variable (one : (vget s.tier p).fetches = [f]) (mine : f.obj = some id) (promotes : f.promotes = true)
  (h : s.obj p id = some o)
include one mine promotes h

/-- A page that the last source has not brought leaves its transfer without a source. -/
theorem State.sourceTimeout_last {k tag off n : Nat} (asked : f.tag = some (k, tag, off, n)) (bad : f.bad = [off]) (valid : o.valid = true) :
    s.sourceTimeout p id = s.goesOn p 0 { f with tag := none, src := f.src + 1 } := by
  have host : f.host.isSome = false := by
    rw [Fetch.promotes, Bool.and_eq_true, Option.isNone_iff_eq_none, Option.isNone_iff_eq_none] at promotes
    rw [promotes.2]
    rfl
  have listed : f.bad.contains off = true := by simp [bad]
  have found := State.fetchObj_own mine h
  unfold State.sourceTimeout
  simp only [one, h, found, asked, valid, host, listed, List.findIdx?_cons, List.getElem?_cons_zero, Option.any_some, Option.isSome_some, beq_self_eq_true,
    Bool.and_self, if_true, Bool.false_eq_true, if_false]
  rw [State.goesOn, one]

end

/-- So it breaks the object. -/
theorem State.goesOn_breaks {g : Fetch} (one : (vget s.tier p).fetches = [g]) (mine : f.obj = some id) (promotes : f.promotes = true)
    (h : s.obj p id = some o) (tag : f.tag = none) (src : f.src = 3) (bad : f.bad ≠ []) (fail : f.fail = false) :
    ∃ (u : State) (page : Nat), s.goesOn p 0 f = u.breakObj p id page ∧ u.obj p id = some o ∧ u.mem = s.mem := by
  have stays : s.setFetches p ((vget s.tier p).fetches.set 0 f) = s.setFetches p [f] := by rw [one]; rfl
  have stuck : (s.setFetches p [f]).pumpFetch p f = (s.setFetches p [f], { f with fail := true }) := by
    unfold State.pumpFetch
    rw [if_neg (by simp [tag, fail]), if_pos (by simpa using bad), State.askSource_fails src]
  have pumped : (s.setFetches p [f]).pumpTier p = (s.setFetches p [f]).setFetches p [{ f with fail := true }] := by
    rw [State.pumpTier_one (State.setFetches_fetches s p [f]), stuck]
  have found : ((s.setFetches p [f]).setFetches p [{ f with fail := true }]).obj p id = some o := by
    rw [State.obj_setFetches, State.obj_setFetches, h]
  have breaks := State.settleTier_breaks (f := { f with fail := true }) (State.setFetches_fetches (s.setFetches p [f]) p _) rfl promotes mine found
  exact ⟨_, _, by rw [State.goesOn, stays, pumped, breaks], found, by rw [State.setFetches_mem, State.setFetches_mem]⟩

end

/-! ## What peers read (R148, R153) -/

section

variable (h : RouteHdr) (tag addr len : Nat) (s : State)

/-- Whether a peer may read a range. -/
def State.peerReads : Bool := isHbm addr && addr + len ≤ hbmEnd && 1 ≤ len && len ≤ 65536 && !s.inPartner (addr, addr + len)

theorem exec_tierPeerRead_yes (ok : s.peerReads addr len = true) : exec (.tierPeerRead h tag addr len) s =
    .next ((s.readPhys addr len).2.sendRouted 0xFF 0x21 h.src (leBytes 2 tag ++ [if (s.readPhys addr len).1.2 then 1 else 0, 0] ++ leBytes 4 len ++
      leBytes 8 addr ++ (if (s.readPhys addr len).1.2 then [] else (s.readPhys addr len).1.1))).1 := by
  show execTierPeerRead h tag addr len s = _
  unfold execTierPeerRead
  rw [← State.peerReads, ok]
  generalize s.readPhys addr len = x
  obtain ⟨⟨bytes, bad⟩, u⟩ := x
  cases bad <;> rfl

theorem exec_tierPeerRead_no (no : s.peerReads addr len = false) : exec (.tierPeerRead h tag addr len) s =
    .next (s.sendRouted 0xFF 0x21 h.src (leBytes 2 tag ++ [2, 0] ++ leBytes 4 len ++ leBytes 8 addr)).1 := by
  show execTierPeerRead h tag addr len s = _
  unfold execTierPeerRead
  rw [← State.peerReads, no]
  simp

end

/-! ## The statement -/

/-- Settles O46: pages land by `t2Cpl_lands` or are listed by `t2Cpl_poisoned`, and the last source that does not answer breaks the object by
`goesOn_breaks`. -/
theorem transfers : Obligations.Transfers := by
  unfold Obligations.Transfers
  refine ⟨fun p k f tag off data s one others asked bad _ _ len fits ok => ?_, fun p k f tag off data s one others asked bad _ room => ?_,
    fun k tag st w data s none => ?_, fun h p f tag off data s one others asked bad _ _ len fits ok => ?_, fun h tag st data s none => ?_,
    fun p id off k tag f o s one mine promotes asked bad src fail found valid => ?_, fun p id s none => ?_,
    fun h tag addr len s hbm within least most apart => ?_, fun h tag addr len s no => ?_⟩
  · refine ⟨_, exec_t2Cpl k tag 0 0 data s, State.drainHost_idle, State.t2Cpl_lands one others asked ?_ fits ok⟩
    rw [State.answered_clean bad len]
    exact Moved.refl _
  · exact ⟨_, exec_t2Cpl k tag 0 1 data s, State.t2Cpl_poisoned one others asked bad room⟩
  · rw [exec_t2Cpl, State.t2Cpl_unasked _ _ _ (fun p f mem => Fetch.asked_eq_false (none p f mem))]
  · refine ⟨_, exec_tierPeerData h tag 0 data s, State.drainHost_idle, State.t2Cpl_lands one others asked ?_ fits ok⟩
    rw [State.answered_refetched bad len]
    exact Moved.pageClean _ _
  · rw [exec_tierPeerData, State.peerData, State.t2Cpl_unasked _ _ _ (fun p f mem => Fetch.asked_eq_false (none p f mem))]
  · obtain ⟨u, page, breaks, obj, mem⟩ := State.goesOn_breaks (f := { f with tag := Option.none, src := f.src + 1 }) one mine promotes found rfl
      (show f.src + 1 = 3 by rw [src]) (by simp [bad]) fail
    obtain ⟨broken, ue, same⟩ := State.breakObj_breaks obj page
    refine ⟨_, _, by rw [exec_refetchSourceTimeout, State.sourceTimeout_last one mine promotes found asked bad valid, breaks], State.drainHost_idle, broken,
      rfl, rfl, rfl, ue, same.trans mem⟩
  · rw [exec_refetchSourceTimeout, State.sourceTimeout_unasked none]
  · have ok : s.peerReads addr len = true := by simp [State.peerReads, hbm, within, least, most, apart]
    refine ⟨_, exec_tierPeerRead_yes h tag addr len s ok, fun a => ?_, rfl⟩
    rw [KeepsMem.of_mem (Sent.sendRouted _ _ _ _ _).mem a, (Touched.readPhys s addr len).cell]
  · have no : s.peerReads addr len = false := by
      simp only [State.peerReads, Bool.and_eq_false_iff, decide_eq_false_iff_not, Bool.not_eq_false']
      obtain no | no | no | no | no := no
      · exact .inl (.inl (.inl (.inl no)))
      · exact .inl (.inl (.inl (.inr (by omega))))
      · exact .inl (.inl (.inr (by omega)))
      · exact .inl (.inr (by omega))
      · exact .inr no
    exact ⟨_, exec_tierPeerRead_no h tag addr len s no, (Sent.sendRouted _ _ _ _ _).mem, rfl⟩

end Sys2Proof.Machine
end

section
/-! SUPPORT. Promotions (R139, R142, R146): what PREFETCH decides, how a copy begins, and the transfer that a promotion from T2 starts. -/

namespace Sys2Proof.Machine

/-! ## What a copy begins with (R139, R146) -/

/-- An object whose copy is built at a place. -/
def TierObj.building (o : TierObj) (target slice a : Nat) : TierObj :=
  { o with state := 1, target := target, tslice := slice, stalled := false
           t1 := if target = 1 then some a else o.t1, t0 := if target = 2 then some a else o.t0 }

/-- The transfer of a promotion from T2. -/
def TierObj.fetch (o : TierObj) (id a : Nat) : Fetch :=
  { obj := some id, ref := none, host := none, base := o.home, len := o.bytes, cur := 0, dest := a, bad := []
    src := 1, tag := none, got := 0, fail := false }

theorem TierObj.mayMove {o : TierObj} (valid : o.valid = true) (free : o.state = 0 ∨ o.state = 2) :
    (!o.valid || !(o.state == 0 || o.state == 2)) = false := by
  obtain home | resident := free
  · simp [valid, home]
  · simp [valid, resident]

section

variable {s : State} {p : Part} {id target slice : Nat} {o : TierObj}

theorem OnlyQueues.findRoom {t : State} (h : OnlyQueues s t) (p : Part) (level slice n : Nat) : t.findRoom p level slice n = s.findRoom p level slice n := by
  rw [h]
  rfl

variable (h : s.obj p id = some o)
include h

theorem State.promote_builds (low : o.atLeast target = false) : s.promote p id target slice = s.buildCopy p id target slice := by
  rw [State.promote, h, if_neg (by simp [low])]

variable (valid : o.valid = true) (free : o.state = 0 ∨ o.state = 2)
include valid free

/-- Without room one object at most is evicted. -/
theorem State.buildCopy_full (full : s.findRoom p target slice o.bytes = none) : s.buildCopy p id target slice = s.autoEvict p target slice := by
  have may := TierObj.mayMove valid free
  unfold State.buildCopy
  simp only [h, may, full, Bool.false_eq_true, if_false]

/-- With room the object is PROMOTING, and from a T2 home a transfer starts. -/
theorem State.buildCopy_room {a : Nat} (room : s.findRoom p target slice o.bytes = some a) : s.buildCopy p id target slice =
    if isT2 o.home && o.t1.isNone then ((s.setObj p id (o.building target slice a)).addFetch p (o.fetch id a)).settleTier p
    else s.setObj p id (o.building target slice a) := by
  have may := TierObj.mayMove valid free
  unfold State.buildCopy
  simp only [h, may, room, Bool.false_eq_true, if_false]
  rfl

end

/-! ## The transfer of a promotion (R299) -/

section

variable {s : State} {p : Part} {f : Fetch}

/-- Where the first page is good, some bytes are asked for. -/
theorem State.nextRun_ne_zero (good : s.t2Bad p f f.cur = false) (page : f.cur + 4096 ≤ f.len) (align : (f.base + f.cur) % 4096 = 0) :
    s.nextRun p f ≠ 0 := by
  unfold State.nextRun
  extract_lets room
  have pages : 4096 ≤ room := by
    refine le_min (by omega) ?_
    omega
  obtain ⟨n, hn⟩ : ∃ n, room / 4096 = n + 1 := ⟨room / 4096 - 1, by omega⟩
  rw [hn, List.range_succ_eq_map, List.takeWhile_cons_of_pos (by simpa using good)]
  simp

/-- A transfer without a request asks for bytes where a tag is free. -/
theorem State.pumpFetch_asks (idle : f.tag = none) (bad : f.bad = []) (fail : f.fail = false) (good : s.t2Bad p f f.cur = false)
    (page : f.cur + 4096 ≤ f.len) (align : (f.base + f.cur) % 4096 = 0) (free : s.tagFree (subWindow (f.base + f.cur)) = true) :
    ∃ t n, (s.pumpFetch p f).2 = { f with tag := some (subWindow (f.base + f.cur), t, f.cur, n), cur := f.cur + n } := by
  unfold State.pumpFetch
  rw [if_neg (by simp [idle, fail]), if_neg (by simp [bad]), if_neg (by omega)]
  extract_lets n
  rw [if_neg (State.nextRun_ne_zero good page align), State.askT2, if_pos free]
  exact ⟨_, n, rfl⟩

/-- A transfer that waits for an answer has not ended. -/
theorem State.settleTier_waits (one : (vget s.tier p).fetches = [f]) (asked : f.tag.isSome = true) (fail : f.fail = false) : s.settleTier p = s := by
  have waits : f.ended = false := by
    rw [Option.isSome_iff_exists] at asked
    obtain ⟨t, tag⟩ := asked
    simp [Fetch.ended, fail, tag]
  unfold State.settleTier
  simp only [one, List.foldl_cons, List.foldl_nil, waits, Bool.not_false, if_true]

/-- A transfer without a request takes no tag. -/
theorem State.tagFree_setFetches (none : (vget s.tier p).fetches = []) (idle : f.tag = .none) (k : Nat) : (s.setFetches p [f]).tagFree k = s.tagFree k := by
  have tags : (s.setFetches p [f]).tagsOut k = s.tagsOut k := by
    unfold State.tagsOut
    refine congrArg₂ (· ++ ·) (by rw [State.setFetches, State.modTier_eut]) (List.flatMap_congr fun q _ => ?_)
    by_cases e : q = p
    · subst e
      rw [State.setFetches_fetches, none]
      simp [idle]
    · rw [State.setFetches, State.modTier_tier_ne _ _ _ e]
  rw [State.tagFree, tags, State.tagFree]

theorem State.tagFree_setObj (s : State) (p : Part) (id : Nat) (o : TierObj) (k : Nat) : (s.setObj p id o).tagFree k = s.tagFree k := by
  have tags : (s.setObj p id o).tagsOut k = s.tagsOut k := by
    unfold State.tagsOut
    refine congrArg₂ (· ++ ·) (by rw [State.setObj, State.modTier_eut]) (List.flatMap_congr fun q _ => ?_)
    by_cases e : q = p
    · subst e
      rw [State.setObj_fetches]
    · rw [State.setObj, State.modTier_tier_ne _ _ _ e]
  rw [State.tagFree, tags, State.tagFree]

end

/-- A promotion from T2 into an engine without transfers asks for its first bytes at once. -/
theorem State.promotion_asks {s : State} {p : Part} {id a target slice : Nat} {o : TierObj} (none : (vget s.tier p).fetches = [])
    (align : o.home % 4096 = 0) (size : 0 < o.size) (good : o.allBad = false) (clean : s.mem.t2Poison = [])
    (free : s.tagFree (subWindow o.home) = true) :
    let u := ((s.setObj p id (o.building target slice a)).addFetch p (o.fetch id a)).settleTier p
    u.obj p id = some (o.building target slice a) ∧ u.mem = s.mem ∧
      ∃ f, (vget u.tier p).fetches = [f] ∧ f.obj = some id ∧ f.base = o.home ∧ f.dest = a ∧ f.tag.isSome = true := by
  intro u
  let v := (s.setObj p id (o.building target slice a)).setFetches p [o.fetch id a]
  have found : v.obj p id = some (o.building target slice a) := by rw [State.obj_setFetches, State.obj_setObj_same]
  have mem : v.mem = s.mem := by rw [State.setFetches_mem, State.setObj_mem]
  have tags : v.tagFree (subWindow ((o.fetch id a).base + (o.fetch id a).cur)) = true := by
    rw [State.tagFree_setFetches (by rw [State.setObj_fetches, none]) rfl, State.tagFree_setObj]
    exact free
  have first : v.t2Bad p (o.fetch id a) (o.fetch id a).cur = false := by
    rw [State.t2Bad, State.fetchObj_own rfl found, mem, clean]
    exact good
  have page : (o.fetch id a).cur + 4096 ≤ (o.fetch id a).len := by
    show 0 + 4096 ≤ ceilTo o.size 4096
    unfold ceilTo
    omega
  obtain ⟨t, n, asked⟩ := State.pumpFetch_asks rfl rfl rfl first page (by exact align) tags
  have sent := Sent.pumpFetch v p (o.fetch id a)
  have added : (s.setObj p id (o.building target slice a)).addFetch p (o.fetch id a) = v.pumpTier p := by
    rw [State.addFetch, State.setObj_fetches, none, List.nil_append]
  have settled : u = (v.pumpFetch p (o.fetch id a)).1.setFetches p [(v.pumpFetch p (o.fetch id a)).2] := by
    rw [show u = (v.pumpTier p).settleTier p by rw [← added], State.pumpTier_one (State.setFetches_fetches _ _ _),
      State.settleTier_waits (State.setFetches_fetches _ _ _) (by rw [asked]; rfl) (by rw [asked]; rfl)]
  rw [settled]
  refine ⟨by rw [State.obj_setFetches, State.obj_congr sent.tier, found], by rw [State.setFetches_mem, sent.mem, mem], _,
    State.setFetches_fetches _ _ _, ?_⟩
  rw [asked]
  exact ⟨rfl, rfl, rfl, rfl⟩

/-! ## PREFETCH (R142) -/

section

variable {s : State} {c : CmdRef} {d : Cmd}

theorem State.running_slot {op : Nat} (run : s.running c op = some d) : d.slot = c.slot := State.cmdAt_slot (State.running_some run).1

theorem exec_prefetch_one (run : s.running c 0x11 = some d) (one : bitOf (cOparg d) 31 = false) : exec (.prefetch c) s = .next (s.prefetchOne c d) := by
  show execPrefetch c s = _
  unfold execPrefetch
  simp only [run, one, Bool.not_false, if_true]

variable {o : TierObj}

theorem State.prefetchOne_there (h : s.obj c.part (cOparg d % 65536) = some o) (whole : o.state ≠ 5)
    (there : o.atLeast (cOparg d / 2 ^ 16 % 4 + 1) = true) : s.prefetchOne c d = s.finish c d := by
  unfold State.prefetchOne
  simp only [h, if_neg whole, there, if_true]

theorem State.prefetchOne_fails (h : ∀ o, s.obj c.part (cOparg d % 65536) = some o → o.state = 5) :
    s.prefetchOne c d = s.failRun c d (if (s.obj c.part (cOparg d % 65536)).isSome then 0x0601 else 0x0604) := by
  unfold State.prefetchOne
  cases found : s.obj c.part (cOparg d % 65536) with
  | none =>
    simp only [found]
    rfl
  | some o =>
    simp only [found, h o found]
    rfl

/-- The command marked as the one that promotes. -/
def State.promoting (s : State) (c : CmdRef) (d : Cmd) : State := s.setCmd c.part.val c.queue.val { d with pieces := 1 }

theorem OnlyQueues.promoting (s : State) (c : CmdRef) (d : Cmd) : OnlyQueues s (s.promoting c d) := OnlyQueues.setCmd s _ _ _

theorem State.prefetchOne_builds (h : s.obj c.part (cOparg d % 65536) = some o) (whole : o.state ≠ 5)
    (low : o.atLeast (cOparg d / 2 ^ 16 % 4 + 1) = false) :
    s.prefetchOne c d = (s.promoting c d).buildCopy c.part (cOparg d % 65536) (cOparg d / 2 ^ 16 % 4 + 1) (bitsOf (cOparg d) 21 18) := by
  have found : (s.promoting c d).obj c.part (cOparg d % 65536) = some o := by rw [State.obj_congr (OnlyQueues.promoting s c d).tier, h]
  unfold State.prefetchOne
  simp only [h, if_neg whole, low, Bool.false_eq_true, if_false]
  exact State.promote_builds found low

end

end Sys2Proof.Machine
end

section
/-! SUPPORT. The prefetch schedule (R143, R144): looking it over leaves a copy that is being built, and the next entry starts where it may. -/

namespace Sys2Proof.Machine

theorem exec_scheduleEntryStart {c : CmdRef} {s : State} (live : s.live = true) : exec (.scheduleEntryStart c) s = .next (s.schedStart c.part c) := by
  show execScheduleEntryStart c s = _
  rw [execScheduleEntryStart, if_pos live]

/-! ## A copy that is being built in T0 -/

/-- An object is PROMOTING to T0, with its copy at a place. -/
def State.builds (s : State) (p : Part) (id a : Nat) : Prop := ∃ o, s.obj p id = some o ∧ o.state = 1 ∧ o.target = 2 ∧ o.t0 = some a

/-- A step that leaves the schedules, and a copy that is being built. -/
structure BuildsOn (p : Part) (id a : Nat) (s t : State) : Prop where
  scheds : (vget t.tier p).scheds = (vget s.tier p).scheds
  builds : s.builds p id a → t.builds p id a

namespace BuildsOn

variable {p : Part} {id a : Nat}

theorem refl (s : State) : BuildsOn p id a s s := ⟨rfl, fun h => h⟩

theorem trans {s t u : State} (h : BuildsOn p id a s t) (k : BuildsOn p id a t u) : BuildsOn p id a s u :=
  ⟨k.scheds.trans h.scheds, fun b => k.builds (h.builds b)⟩

theorem of_tier {s t : State} (h : t.tier = s.tier) : BuildsOn p id a s t :=
  ⟨by rw [h], fun ⟨o, found, rest⟩ => ⟨o, (State.obj_congr h p id).trans found, rest⟩⟩

theorem foldl {β : Type} {f : State → β → State} (h : ∀ s x, BuildsOn p id a s (f s x)) (l : List β) (s : State) : BuildsOn p id a s (l.foldl f s) := by
  induction l generalizing s with
  | nil => exact refl s
  | cons x l ih => exact (h s x).trans (ih _)

/-- An object set anew goes on being built where it was. -/
theorem setObj {s : State} {j : Nat} {o o' : TierObj} (found : s.obj p j = some o)
    (keeps : o.state = 1 → o'.state = 1 ∧ o'.target = o.target ∧ o'.t0 = o.t0) : BuildsOn p id a s (s.setObj p j o') := by
  refine ⟨s.setObj_scheds _ _ _, fun ⟨x, at_, state, target, t0⟩ => ?_⟩
  by_cases e : id = j
  · subst e
    obtain rfl := Option.some.inj (found.symm.trans at_)
    obtain ⟨state', target', t0'⟩ := keeps state
    exact ⟨o', State.obj_setObj_same _ _ _ _, state', target'.trans target, t0'.trans t0⟩
  · exact ⟨x, (State.obj_setObj_ne _ _ _ _ e).trans at_, state, target, t0⟩

/-- EVICT_AFTER evicts a RESIDENT object, and holds back of one under promotion. -/
theorem evictAfter (s : State) (j q : Nat) (discard : Bool) : BuildsOn p id a s (s.evictAfter p j q discard).1 := by
  unfold State.evictAfter
  split
  · exact refl s
  next o found =>
    extract_lets r
    split_ifs with gone resident held
    · exact refl s
    · unfold State.startEvict
      rw [found]
      exact setObj found (fun one => absurd (resident.1.symm.trans one) (by decide))
    · exact refl s
    · have kept : BuildsOn p id a s (s.setObj p j { o with pend := o.pend ++ [r] }) := setObj found (fun one => ⟨one, rfl, rfl⟩)
      exact (kept.trans (of_tier (State.tierStatus_tier _ _ _ _))).trans (of_tier (Quiet.tierEvent _ _ _ 0 _ _ (by decide)).tier)
    · exact refl s

end BuildsOn

theorem State.lockAdd_tier (s : State) (p k v : Nat) : (s.lockAdd p k v).tier = s.tier := by
  unfold State.lockAdd
  dsimp only
  split
  · exact s.wr_tier _ _ _ _
  · rw [(Quiet.event _ _ (by exact (by decide : (1 : Nat) ≠ 3))).tier, State.sqSet_tier, State.wr_tier]

/-! ## Looking over a schedule -/

section

variable {s : State} {p : Part} {ref : CmdRef} {x : Sched} (one : (vget s.tier p).scheds = [x]) (mine : x.ref = ref)
include one mine

/-- A copy that is being built stays, and a schedule only goes forward. -/
theorem State.schedPoll_builds {id a : Nat} (b : s.builds p id a) :
    (s.schedPoll p ref).builds p id a ∧ ∀ y ∈ (vget (s.schedPoll p ref).tier p).scheds, y.ref = ref ∧ x.next ≤ y.next := by
  have first : (vget s.tier p).scheds.find? (fun x => x.ref == ref) = some x := by simp [one, mine]
  unfold State.schedPoll
  split
  next none => rw [first] at none; cases none
  next y found =>
    obtain rfl := Option.some.inj (first.symm.trans found)
    extract_lets x1 fresh told x2 due
    have locks : BuildsOn p id a s told := BuildsOn.foldl (fun s _ => by
      split
      · exact BuildsOn.of_tier (s.lockAdd_tier _ _ _)
      · exact BuildsOn.refl s) _ s
    have evicts := foldlFst_rel (R := BuildsOn p id a) BuildsOn.refl BuildsOn.trans (f := fun (z : State × List Nat) i =>
      let e := x2.entries.getD i []
      let (s, done) := z.1.evictAfter p (entObj e) ref.queue.val (bitOf (fieldAt e 2 1) 3)
      (s, if done then z.2 ++ [i] else z.2)) (fun z i => BuildsOn.evictAfter z.1 _ _ _) due (told, x2.gone)
    split
    next left gone e =>
      rw [e] at evicts
      have kept : BuildsOn p id a s left := locks.trans evicts
      extract_lets x3 n fin u
      have advanced : u.builds p id a ∧ ∀ y ∈ (vget u.tier p).scheds, y.ref = ref ∧ x.next ≤ y.next := by
        obtain ⟨o, found, built⟩ := kept.builds b
        refine ⟨⟨o, by rw [← found]; simp only [u, State.obj, State.modTier_tier_same], built⟩, ?_⟩
        have scheds : (vget u.tier p).scheds = if fin then [] else [x3] := by
          show (vget (State.modTier left p _).tier p).scheds = _
          rw [State.modTier_tier_same]
          simp only [kept.scheds, one]
          split
          · simp [mine]
          · simp [mine]
        intro y mem
        rw [scheds] at mem
        split at mem
        · cases mem
        · rw [List.mem_singleton.mp mem]
          exact ⟨mine, Nat.le_add_right _ _⟩
      split
      · split
        next c _ =>
          have ends : OnlyQueues u (if c.finished then u else u.finish ref c) := OnlyQueues.ite (OnlyQueues.refl u) (OnlyQueues.setCmd u _ _ _)
          rw [ends.tier]
          exact ⟨(BuildsOn.of_tier ends.tier).builds advanced.1, advanced.2⟩
        · exact advanced
      · exact advanced

end

/-! ## The next entry (R144) -/

/-- The next entry of a schedule that has been looked over starts, where it may. -/
def State.startNext (s : State) (p : Part) (ref : CmdRef) (x : Sched) : State :=
  match x.entries[x.next]? with
  | none => s
  | some e =>
    let id := entObj e
    let go := s.entryGo p x e
    match s.obj p id with
    | none => s
    | some o =>
      if !go then s
      else if o.state = 5 then
        match s.cmdAt p.val ref.queue.val ref.slot with
        | some c => (s.modTier p (fun t => { t with scheds := t.scheds.filter (fun y => y.ref != ref) })).failRun ref c 0x0601
        | none => s
      else
        let s := s.promote p id (entTarget e) (entSlice e)
        let started := match s.obj p id with
          | some o => o.atLeast (entTarget e) || ((o.state == 1 || o.state == 4) && entTarget e ≤ o.target)
          | none => false
        if started then
          let s := s.modTier p (fun t => { t with scheds := t.scheds.map (fun y => if y.ref = ref then { y with next := y.next + 1 } else y) })
          s.schedPoll p ref
        else s

section

variable {s : State} {p : Part} {ref : CmdRef} {x : Sched}

theorem State.schedStart_one (one : (vget (s.schedPoll p ref).tier p).scheds = [x]) (mine : x.ref = ref) :
    s.schedStart p ref = (s.schedPoll p ref).startNext p ref x := by
  have first : (vget (s.schedPoll p ref).tier p).scheds.find? (fun x => x.ref == ref) = some x := by simp [one, mine]
  unfold State.schedStart
  extract_lets u
  rw [show (vget u.tier p).scheds.find? (fun x => x.ref == ref) = some x from first]
  rfl

/-- Before its trigger nothing starts. -/
theorem State.startNext_waits (h : ∀ e, x.entries[x.next]? = some e → s.entryGo p x e = false) : s.startNext p ref x = s := by
  unfold State.startNext
  split
  · rfl
  next e entry =>
    cases found : s.obj p (entObj e) with
    | none => simp only [found]
    | some o => simp only [found, h e entry, Bool.not_false, if_true]

variable {e : List Byte} {o : TierObj} (entry : x.entries[x.next]? = some e) (go : s.entryGo p x e = true) (found : s.obj p (entObj e) = some o)
include entry go found

/-- An entry of a BROKEN object fails its PREFETCH. -/
theorem State.startNext_broken (broken : o.state = 5) {d : Cmd} (at_ : s.cmdAt p.val ref.queue.val ref.slot = some d) :
    s.startNext p ref x = (s.modTier p (fun t => { t with scheds := t.scheds.filter (fun y => y.ref != ref) })).failRun ref d 0x0601 := by
  unfold State.startNext
  simp only [entry, found, go, broken, at_, Bool.not_true, Bool.false_eq_true, if_false, if_true]

/-- An entry with room starts its promotion, and the schedule goes on to the next. -/
theorem State.startNext_builds {a : Nat} (valid : o.valid = true) (home : o.state = 0) (low : isT2 o.home = false) (target : entTarget e = 2)
    (room : s.findRoom p 2 (entSlice e) o.bytes = some a) (one : (vget s.tier p).scheds = [x]) (mine : x.ref = ref) :
    (s.startNext p ref x).builds p (entObj e) a ∧ ∀ y ∈ (vget (s.startNext p ref x).tier p).scheds, y.ref = ref ∧ x.next + 1 ≤ y.next := by
  have below : o.atLeast 2 = false := by simp [TierObj.atLeast, home]
  have promoted : s.promote p (entObj e) 2 (entSlice e) = s.setObj p (entObj e) (o.building 2 (entSlice e) a) := by
    rw [State.promote_builds found below, State.buildCopy_room found valid (.inl home) room, if_neg (by simp [low])]
  have started : ((o.building 2 (entSlice e) a).atLeast 2 || (((o.building 2 (entSlice e) a).state == 1 || (o.building 2 (entSlice e) a).state == 4) &&
      decide (2 ≤ (o.building 2 (entSlice e) a).target))) = true := by simp [TierObj.building]
  have goes : s.startNext p ref x = ((s.setObj p (entObj e) (o.building 2 (entSlice e) a)).modTier p (fun t =>
      { t with scheds := t.scheds.map (fun y => if y.ref = ref then { y with next := y.next + 1 } else y) })).schedPoll p ref := by
    unfold State.startNext
    simp only [entry, found, go, home, target, promoted, State.obj_setObj_same, started, Bool.not_true, Bool.false_eq_true, if_false, if_true,
      OfNat.zero_ne_ofNat]
  rw [goes]
  refine State.schedPoll_builds (x := { x with next := x.next + 1 }) ?_ mine ⟨o.building 2 (entSlice e) a, ?_, rfl, rfl, rfl⟩
  · rw [State.modTier_tier_same]
    simp [one, mine]
  · rw [State.obj, State.modTier_tier_same, ← State.obj, State.obj_setObj_same]

end

end Sys2Proof.Machine
end

section
/-! SUPPORT. The end of a promotion (R139, R160) and the wait for room (R146). -/

namespace Sys2Proof.Machine

/-! ## PROMOTION_COMPLETE (R139) -/

theorem exec_promotionComplete (p : Part) (id : Nat) (s : State) : exec (.promotionComplete p id) s = .next (s.promotionComplete p id).drainHost := rfl

/-- The object of a copy that is whole. -/
def TierObj.resident (o : TierObj) (n : Nat) : TierObj :=
  { o with state := 2, level := if o.t0.isSome then 2 else o.target, slice := if o.target = 2 then o.tslice else o.slice, stamp := n }

/-- The object becomes RESIDENT, and what waited for it goes on. -/
def State.arrive (s : State) (p : Part) (id : Nat) (o : TierObj) : State :=
  let n := (vget s.tier p).clock + 1
  let s := s.modTier p (fun t => { t with clock := n })
  let s := s.setObj p id (o.resident n)
  let s := s.prefetchDone p id
  let s := (vget s.tier p).scheds.foldl (fun s x => s.schedPoll p x.ref) s
  (s.pumpTier p).settleTier p

theorem OnlyQueues.prefetchDone (s : State) (p : Part) (id : Nat) : OnlyQueues s (s.prefetchDone p id) := by
  unfold State.prefetchDone
  split
  · exact refl s
  · exact foldl (fun s q => foldl (fun s _ => ite (setCmd s p.val q _) (refl s)) _ s) _ s

section

variable {s : State} {p : Part} {id : Nat} {o : TierObj}

theorem State.promotionComplete_stays (h : ∀ o, s.obj p id = some o → o.state ≠ 1) : s.promotionComplete p id = s := by
  unfold State.promotionComplete
  split
  · rfl
  next o found => exact if_pos (.inl (h o found))

/-- A clean source is copied as it stands (R160). -/
theorem State.copyUp_clean {src dst n : Nat} (clean : ((s.grant p.val src n).readPhys src n).1.2 = false) :
    s.copyUp p src dst n = ((((s.grant p.val src n).readPhys src n).2.writePhys dst ((s.grant p.val src n).readPhys src n).1.1).1, []) := by
  unfold State.copyUp
  generalize (s.grant p.val src n).readPhys src n = x at clean
  obtain ⟨⟨bytes, bad⟩, u⟩ := x
  obtain rfl : bad = false := clean
  rfl

/-- Without a transfer the copy is made from T1, and the object arrives. -/
theorem State.promotionComplete_copies (h : s.obj p id = some o) (state : o.state = 1) (none : (vget s.tier p).fetches = [])
    (clean : ((s.grant p.val (o.t1.getD o.home) o.bytes).readPhys (o.t1.getD o.home) o.bytes).1.2 = false) :
    ∃ u, u = (((s.grant p.val (o.t1.getD o.home) o.bytes).readPhys (o.t1.getD o.home) o.bytes).2.writePhys (o.t0.getD 0)
        ((s.grant p.val (o.t1.getD o.home) o.bytes).readPhys (o.t1.getD o.home) o.bytes).1.1).1 ∧
      s.promotionComplete p id = (u.setFetches p []).arrive p id o := by
  refine ⟨_, rfl, ?_⟩
  generalize read : (s.grant p.val (o.t1.getD o.home) o.bytes).readPhys (o.t1.getD o.home) o.bytes = x at clean
  have tier : (x.2.writePhys (o.t0.getD 0) x.1.1).1.tier = s.tier := by
    rw [(Written.writePhys _ _ _).tier, ← read, (Touched.readPhys _ _ _).tier, (Touched.grant _ _ _ _).tier]
  have found : ((x.2.writePhys (o.t0.getD 0) x.1.1).1.setFetches p []).obj p id = some o := by rw [State.obj_setFetches, State.obj_congr tier, h]
  have copied : s.copyUp p (o.t1.getD o.home) (o.t0.getD 0) o.bytes = ((x.2.writePhys (o.t0.getD 0) x.1.1).1, []) := by
    rw [State.copyUp_clean (by rw [read, clean]), read]
  unfold State.promotionComplete
  simp only [h, none, state, copied, tier, found, List.find?_nil, List.filter_nil, List.isEmpty_nil, Option.isSome_none, Option.getD_some, ne_eq,
    not_true_eq_false, Bool.true_eq_false, Bool.false_eq_true, Bool.not_true, or_self, if_false]
  rfl

/-- Where nothing else is under way, the object is RESIDENT and memory stays. -/
theorem State.arrive_alone (none : (vget s.tier p).fetches = []) (scheds : (vget s.tier p).scheds = []) :
    (s.arrive p id o).mem = s.mem ∧ ∃ n, (s.arrive p id o).obj p id = some (o.resident n) := by
  unfold State.arrive
  extract_lets n counted there told polled
  have done := OnlyQueues.prefetchDone there p id
  have quiet : polled = told := by
    show (vget told.tier p).scheds.foldl _ told = told
    rw [done.tier, State.setObj_scheds, State.modTier_tier_same, scheds]
    rfl
  have idle : (vget told.tier p).fetches = [] := by rw [done.tier, State.setObj_fetches, State.modTier_tier_same, none]
  rw [quiet, State.pumpTier_nil idle, State.settleTier_nil idle]
  refine ⟨by rw [done.mem, State.setObj_mem, State.modTier_mem], n, by rw [State.obj_congr done.tier, State.obj_setObj_same]⟩

end

/-! ## TIER_SPACE_STALL (R146) -/

theorem exec_tierSpaceStall (p : Part) (id : Nat) (s : State) : exec (.tierSpaceStall p id) s = .next (s.spaceStall p id) := rfl

section

variable {s : State} {p : Part} {id : Nat}

/-- A wait that has been reported, or of no valid object, is not reported. -/
theorem State.spaceStall_silent (h : ∀ o, s.obj p id = some o → o.stalled = true ∨ o.valid = false) : s.spaceStall p id = s := by
  unfold State.spaceStall
  split
  · rfl
  next o found =>
    extract_lets pre sch dem
    split
    · rfl
    · refine if_neg ?_
      obtain stalled | invalid := h o found
      · simp [stalled]
      · simp [invalid]

/-- The state in which a stall is reported. -/
def State.stalled (s : State) (p : Part) (id : Nat) (o : TierObj) : State :=
  (s.setObj p id { o with stalled := true }).tierStatus p [Fld.TIER_STATUS_SPACE_STALL] []

/-- A demand promotion without room is reported. -/
theorem State.spaceStall_reports {o : TierObj} (found : s.obj p id = some o) (valid : o.valid = true) (free : o.state = 0 ∨ o.state = 2)
    (fresh : o.stalled = false) (demand : s.demanded p o = true) (scheds : (vget s.tier p).scheds = [])
    (none : ∀ q < 64, ∀ c ∈ (s.queue p.val q).cmds, cOpcode c ≠ 0x11) (full : s.findRoom p 1 0 o.bytes = .none) :
    s.spaceStall p id = (s.stalled p id o).tierEvent p 0x0605 1 id (1 - 1) := by
  unfold State.spaceStall
  split
  next absent => rw [found] at absent; cases absent
  next x at_ =>
    obtain rfl := Option.some.inj (found.symm.trans at_)
    extract_lets pre sch dem
    have noPrefetch : pre = .none := by
      refine List.findSome?_eq_none_iff.mpr fun q mem => ?_
      rw [Option.map_eq_none_iff, List.find?_eq_none]
      intro c queued
      simp [none q (List.mem_range.mp mem) c queued]
    have noSchedule : sch = .none := by
      show (vget s.tier p).scheds.findSome? _ = .none
      rw [scheds]
      rfl
    have waits : dem = some (1, 0) := if_pos demand
    have waited : pre.orElse (fun _ => sch.orElse (fun _ => dem)) = some (1, 0) := by rw [noPrefetch, noSchedule, waits]; rfl
    split
    next absent => rw [waited] at absent; cases absent
    next t n chosen =>
      obtain ⟨rfl, rfl⟩ := Prod.mk.inj (Option.some.inj (waited.symm.trans chosen))
      refine if_pos ?_
      obtain home | resident := free
      · simp [valid, fresh, demand, full, home]
      · simp [valid, fresh, demand, full, resident]

end

end Sys2Proof.Machine
end

section
/-! Promotions (O44). -/

namespace Sys2Proof.Machine

open Sys2Proof.Safety

/-! ## PREFETCH, clause by clause (R142, R146) -/

section

variable {s : State} {c : CmdRef} {d : Cmd} {o : TierObj} (run : s.running c 0x11 = some d) (one : bitOf (cOparg d) 31 = false)
include run one

theorem exec_prefetch_there (h : s.obj c.part (cOparg d % 65536) = some o) (whole : o.state ≠ 5)
    (there : o.atLeast (cOparg d / 2 ^ 16 % 4 + 1) = true) :
    ∃ t, exec (.prefetch c) s = .next t ∧ CmdEnded t c 0 ∧ t = { s with queues := t.queues } := by
  obtain ⟨at_, -, ok⟩ := State.running_some run
  exact ⟨_, by rw [exec_prefetch_one run one, State.prefetchOne_there h whole there], CmdEnded.finish at_ (State.running_slot run) ok, rfl⟩

theorem exec_prefetch_fails (h : ∀ o, s.obj c.part (cOparg d % 65536) = some o → o.state = 5) :
    ∃ t, exec (.prefetch c) s = .next t ∧ CmdEnded t c (if (s.obj c.part (cOparg d % 65536)).isSome then 0x0601 else 0x0604) :=
  ⟨_, by rw [exec_prefetch_one run one, State.prefetchOne_fails h], CmdEnded.failRun (State.running_some run).1 (State.running_slot run) _⟩

variable (h : s.obj c.part (cOparg d % 65536) = some o) (valid : o.valid = true) (free : o.state = 0 ∨ o.state = 2)
  (low : o.atLeast (cOparg d / 2 ^ 16 % 4 + 1) = false)
include h valid free low

theorem exec_prefetch_full (full : s.findRoom c.part (cOparg d / 2 ^ 16 % 4 + 1) (bitsOf (cOparg d) 21 18) o.bytes = none) :
    exec (.prefetch c) s = .next ((s.promoting c d).autoEvict c.part (cOparg d / 2 ^ 16 % 4 + 1) (bitsOf (cOparg d) 21 18)) := by
  have queues := OnlyQueues.promoting s c d
  rw [exec_prefetch_one run one, State.prefetchOne_builds h (by omega) low,
    State.buildCopy_full (by rw [State.obj_congr queues.tier, h]) valid free (by rw [queues.findRoom, full])]

variable {a : Nat} (room : s.findRoom c.part (cOparg d / 2 ^ 16 % 4 + 1) (bitsOf (cOparg d) 21 18) o.bytes = some a)
include room

theorem exec_prefetch_room : exec (.prefetch c) s = .next (
    let u := (s.promoting c d).setObj c.part (cOparg d % 65536) (o.building (cOparg d / 2 ^ 16 % 4 + 1) (bitsOf (cOparg d) 21 18) a)
    if isT2 o.home && o.t1.isNone then (u.addFetch c.part (o.fetch (cOparg d % 65536) a)).settleTier c.part else u) := by
  have queues := OnlyQueues.promoting s c d
  rw [exec_prefetch_one run one, State.prefetchOne_builds h (by omega) low,
    State.buildCopy_room (by rw [State.obj_congr queues.tier, h]) valid free (by rw [queues.findRoom, room])]

/-- From T1 the copy is built at once. -/
theorem exec_prefetch_up (source : isT2 o.home = false ∨ o.t1.isSome = true) : ∃ t, exec (.prefetch c) s = .next t ∧
    t.obj c.part (cOparg d % 65536) = some (o.building (cOparg d / 2 ^ 16 % 4 + 1) (bitsOf (cOparg d) 21 18) a) ∧ t.mem = s.mem ∧ t.rf = s.rf := by
  have up : (isT2 o.home && o.t1.isNone) = false := by
    obtain low | copy := source
    · rw [low, Bool.false_and]
    · rw [Option.isNone_eq_false_iff.mpr copy, Bool.and_false]
  refine ⟨_, exec_prefetch_room run one h valid free low room, ?_⟩
  simp only [up, Bool.false_eq_true, if_false]
  exact ⟨State.obj_setObj_same _ _ _ _, by rw [State.setObj_mem]; rfl, by rw [State.setObj_rf]; rfl⟩

end

/-- From T2 its transfer starts. -/
theorem exec_prefetch_t2 {s : State} {c : CmdRef} {d : Cmd} {o : TierObj} {a : Nat} (run : s.running c 0x11 = some d) (one : bitOf (cOparg d) 31 = false)
    (h : s.obj c.part (cOparg d % 65536) = some o) (valid : o.valid = true) (home : o.state = 0) (t2 : isT2 o.home = true) (t1 : o.t1 = none)
    (align : o.home % 4096 = 0) (size : 0 < o.size) (good : o.allBad = false) (clean : s.mem.t2Poison = []) (idle : (vget s.tier c.part).fetches = [])
    (tags : s.tagFree (subWindow o.home) = true) (target : cOparg d / 2 ^ 16 % 4 = 0)
    (room : s.findRoom c.part 1 (bitsOf (cOparg d) 21 18) o.bytes = some a) :
    ∃ t f, exec (.prefetch c) s = .next t ∧ t.obj c.part (cOparg d % 65536) = some (o.building 1 (bitsOf (cOparg d) 21 18) a) ∧
      (vget t.tier c.part).fetches = [f] ∧ f.obj = some (cOparg d % 65536) ∧ f.base = o.home ∧ f.dest = a ∧ f.tag.isSome = true ∧ t.mem = s.mem := by
  have queues := OnlyQueues.promoting s c d
  have one_ : cOparg d / 2 ^ 16 % 4 + 1 = 1 := by rw [target]
  have low : o.atLeast (cOparg d / 2 ^ 16 % 4 + 1) = false := by simp [TierObj.atLeast, home, t2]
  have began := exec_prefetch_room run one h valid (.inl home) low (a := a) (by rw [one_, room])
  rw [one_] at began
  obtain ⟨obj, mem, f, fetches, mine, base, dest, asked⟩ := State.promotion_asks (s := s.promoting c d) (p := c.part) (id := cOparg d % 65536) (a := a)
    (target := 1) (slice := bitsOf (cOparg d) 21 18) (by rw [queues.tier, idle]) align size good (by rw [queues.mem, clean]) tags
  refine ⟨_, f, ?_, obj, fetches, mine, base, dest, asked, by rw [mem, queues.mem]⟩
  rw [began]
  simp only [t2, t1, Option.isNone_none, Bool.and_self, if_true]

/-! ## Schedules and ends, clause by clause (R139, R144) -/

section

variable {s : State} {c : CmdRef} {x : Sched} (live : s.live = true) (one : (vget (s.schedPoll c.part c).tier c.part).scheds = [x]) (mine : x.ref = c)
include live one mine

theorem exec_scheduleEntryStart_next : exec (.scheduleEntryStart c) s = .next ((s.schedPoll c.part c).startNext c.part c x) := by
  rw [exec_scheduleEntryStart live, State.schedStart_one one mine]

theorem exec_scheduleEntryStart_broken {e : List Byte} {o : TierObj} {d : Cmd} (entry : x.entries[x.next]? = some e)
    (go : (s.schedPoll c.part c).entryGo c.part x e = true) (found : (s.schedPoll c.part c).obj c.part (entObj e) = some o) (broken : o.state = 5)
    (at_ : (s.schedPoll c.part c).cmdAt c.part.val c.queue.val c.slot = some d) :
    ∃ t, exec (.scheduleEntryStart c) s = .next t ∧ CmdEnded t c 0x0601 ∧ t.mem = (s.schedPoll c.part c).mem := by
  refine ⟨_, by rw [exec_scheduleEntryStart_next live one mine, State.startNext_broken entry go found broken at_], CmdEnded.failRun (d := d) ?_
    (State.cmdAt_slot at_) _, ?_⟩
  · rw [State.cmdAt_congr (State.modTier_queues _ _ _), at_]
  · rw [State.failRun, State.setCmd_mem, State.modTier_mem]

end

/-- A copy from T1 to T0 that is complete: the object is RESIDENT, and the copy's bytes are those of its source. -/
theorem State.promotionComplete_lands {s : State} {p : Part} {id b : Nat} {o : TierObj} (h : s.obj p id = some o) (state : o.state = 1)
    (target : o.target = 2) (t0 : o.t0 = some b) (fits : b + o.bytes ≤ t2Base) (none : (vget s.tier p).fetches = [])
    (scheds : (vget s.tier p).scheds = [])
    (clean : ((s.grant p.val (o.t1.getD o.home) o.bytes).readPhys (o.t1.getD o.home) o.bytes).1.2 = false)
    (ok : (((s.grant p.val (o.t1.getD o.home) o.bytes).readPhys (o.t1.getD o.home) o.bytes).2.writePhys b
      ((s.grant p.val (o.t1.getD o.home) o.bytes).readPhys (o.t1.getD o.home) o.bytes).1.1).2 = 0) :
    ∃ o', (s.promotionComplete p id).obj p id = some o' ∧ o'.state = 2 ∧ o'.level = 2 ∧ o'.slice = o.tslice ∧ o'.t0 = some b ∧
      (∀ i < o.bytes, (s.promotionComplete p id).cell (b + i) = s.cell (o.t1.getD o.home + i)) ∧
      ∀ y, (y < b ∨ b + o.bytes ≤ y) → (s.promotionComplete p id).cell y = s.cell y := by
  obtain ⟨u, copied, arrives⟩ := State.promotionComplete_copies h state none clean
  rw [t0, Option.getD_some] at copied
  generalize read : (s.grant p.val (o.t1.getD o.home) o.bytes).readPhys (o.t1.getD o.home) o.bytes = x at clean ok copied
  have touched : Touched s x.2 := by
    rw [← read]
    exact (Touched.grant s _ _ _).trans (Touched.readPhys _ _ _)
  have bytes : x.1.1 = s.cells (o.t1.getD o.home) o.bytes := by
    rw [← read, State.readPhys_cells]
    exact List.map_congr_left fun i _ => (Touched.grant s _ _ _).cell _
  have len : x.1.1.length = o.bytes := by rw [bytes]; simp [State.cells]
  have idle : (vget (u.setFetches p []).tier p).scheds = [] := by
    rw [State.setFetches_scheds, copied, (Written.writePhys _ _ _).tier, touched.tier, scheds]
  obtain ⟨mem, n, obj⟩ := State.arrive_alone (o := o) (id := id) (State.setFetches_fetches u p []) idle
  have cells : KeepsMem u (s.promotionComplete p id) := KeepsMem.of_mem (by rw [arrives, mem, State.setFetches_mem])
  refine ⟨o.resident n, by rw [arrives, obj], rfl, by simp [TierObj.resident, t0], by simp [TierObj.resident, target], t0, fun i lt => ?_, fun y out => ?_⟩
  · rw [cells, copied, State.cell_writePhys_in ok (by omega) (by omega), bytes]
    simp [State.cells, lt]
  · rw [cells, copied, State.cell_writePhys, if_neg (by omega), touched.cell]

/-! ## The statement -/

/-- Settles O44: PREFETCH by `buildCopy_room` and `buildCopy_full`, schedules by `startNext`, and the end of a copy by `promotionComplete_lands`. -/
theorem promotions : Obligations.Promotions := by
  unfold Obligations.Promotions
  refine ⟨fun c d o s run one h whole there => exec_prefetch_there run one h whole there, fun c d s run one h => exec_prefetch_fails run one h,
    fun c d o a s run one h valid free source low target room => ?_,
    fun c d o a s run one h valid home t2 t1 align size good clean idle tags target room => ?_,
    fun c d o s run one h valid free low full => exec_prefetch_full run one h valid free low full,
    fun c x e o a s live => ?_, fun c x e o d s live => ?_, fun c x s live => ?_,
    fun p id b o s h state target t0 fits none scheds => ?_, fun p id s h => ?_,
    fun p id o s found valid free fresh demand scheds none full => ?_, fun p id s h => ?_⟩
  · have built := exec_prefetch_up run one h valid free low (a := a) (by rw [target, room]) source
    rw [target] at built
    exact built
  · exact exec_prefetch_t2 run one h valid home t2 t1 align size good clean idle tags target room
  · intro s1 one mine entry go found valid home low target room
    obtain ⟨⟨o', found', state', target', t0'⟩, rest⟩ := State.startNext_builds entry go found valid home low target room one mine
    exact ⟨_, o', exec_scheduleEntryStart_next live one mine, found', state', target', t0', rest⟩
  · intro s1 one mine entry go found broken at_
    exact exec_scheduleEntryStart_broken live one mine entry go found broken at_
  · intro s1 one mine early
    rw [exec_scheduleEntryStart_next live one mine, State.startNext_waits early]
  · intro x clean ok
    obtain ⟨o', rest⟩ := State.promotionComplete_lands h state target t0 fits none scheds clean ok
    exact ⟨_, o', exec_promotionComplete p id s, State.drainHost_idle, rest⟩
  · rw [exec_promotionComplete, State.promotionComplete_stays h]
  · have quiet := Quiet.tierEvent (s.stalled p id o) p 0x0605 1 id (1 - 1) (by decide)
    refine ⟨_, by rw [exec_tierSpaceStall, State.spaceStall_reports found valid free fresh demand scheds none full], ?_, ?_, ?_, ?_⟩
    · rw [State.obj_congr quiet.tier, State.stalled, State.obj_congr (State.tierStatus_tier _ _ _ _), State.obj_setObj_same]
    · rw [quiet.fget _ _ _ rfl]
      exact State.sqSet_bit _ Fld.TIER_STATUS_SPACE_STALL _ _ rfl (by decide)
    · rw [quiet.mem, State.stalled, State.tierStatus_mem, State.setObj_mem]
    · exact ((KeepsRegs.of_rf (State.setObj_rf s p id _) _).trans (KeepsRegs.tierStatus _ p _ _)).trans (KeepsRegs.quiet quiet _)
  · rw [exec_tierSpaceStall, State.spaceStall_silent h]

end Sys2Proof.Machine
end

section
/-! Evictions (O45). -/

namespace Sys2Proof.Machine

open Sys2Proof.Safety

theorem exec_deferredEviction (p : Part) (id : Nat) (s : State) : exec (.deferredEviction p id) s = .next (s.deferredEviction p id) := rfl
theorem exec_evictionComplete (p : Part) (id : Nat) (s : State) : exec (.evictionComplete p id) s = .next (s.evictionComplete p id).drainHost := rfl

theorem exec_evict {s : State} {c : CmdRef} {d : Cmd} (run : s.running c 0x12 = some d) : exec (.evict c) s = .next (s.evict c d) := by
  show execEvict c s = _
  rw [execEvict, run]

/-! ## How an EVICT ends (R145) -/

theorem OnlyQueues.finish (s : State) (r : CmdRef) (c : Cmd) : OnlyQueues s (s.finish r c) := OnlyQueues.setCmd s _ _ _

section

variable {s : State} {r : CmdRef} {c d : Cmd} (at_ : s.cmdAt r.part.val r.queue.val r.slot = some d) (slot : c.slot = r.slot) (ok : c.fail = 0)

/-- Without a tensor to write, an EVICT ends at once. -/
theorem State.evictOutcome_none (s : State) (r : CmdRef) {c : Cmd} (v : Nat) (none : (c.desc 0).rank = 0) : s.evictOutcome r c v = s.finish r c := if_pos none

include at_ slot ok in
/-- With one, it ends with the status of the write. -/
theorem CmdEnded.evictOutcome (v : Nat) : ∃ st, CmdEnded (s.evictOutcome r c v) r st := by
  unfold State.evictOutcome
  dsimp only
  split
  · exact ⟨0, CmdEnded.finish at_ slot ok⟩
  · exact ⟨_, CmdEnded.endRun (d := d) (by rw [State.cmdAt_congr (State.writeTensor_queues _ _ _ _ _ _), at_]) (by simp [slot]) (by simp [ok]) _⟩

end

/-! ## EVICT, case by case (R145) -/

/-- The request that an EVICT's operand makes. -/
def evictReq (o : Nat) : EvictReq :=
  { lock := if bitOf o 28 then some (bitsOf o 27 16) else none, discard := bitOf o 29, t0Only := o / 2 ^ 30 == 1 }

/-- An object whose eviction serves requests. -/
def TierObj.evicting (o : TierObj) (rs : List EvictReq) : TierObj :=
  { o with state := 3, evict := some { lock := none, discard := rs.all (·.discard), t0Only := rs.all (·.t0Only) }
           freed := rs.filterMap (·.lock), pend := [] }

theorem State.startEvict_some {s : State} {p : Part} {id : Nat} {o : TierObj} (h : s.obj p id = some o) (rs : List EvictReq) :
    s.startEvict p id rs = s.setObj p id (o.evicting (o.pend ++ rs)) := by
  rw [State.startEvict, h]
  rfl

section

variable {s : State} {r : CmdRef} {c : Cmd}

theorem State.evict_fails (new : c.pieces ≠ 1) (h : ∀ o, s.obj r.part (cOparg c % 65536) = some o → o.state = 5) :
    s.evict r c = s.failRun r c (if (s.obj r.part (cOparg c % 65536)).isSome then 0x0601 else 0x0604) := by
  unfold State.evict
  cases found : s.obj r.part (cOparg c % 65536) with
  | none => simp only [found]; rfl
  | some o => simp only [found, if_neg new, if_pos (h o found)]; rfl

variable {o : TierObj} (h : s.obj r.part (cOparg c % 65536) = some o)
include h

theorem State.evict_waits (wait : c.pieces = 1 ∨ o.state = 3 ∨ ((o.state = 1 ∨ o.state = 4) ∧ 8 ≤ o.pend.length)) : s.evict r c = s := by
  obtain mine | going | ⟨building, full⟩ := wait
  · unfold State.evict
    simp [h, mine]
  · unfold State.evict
    simp [h, going]
  · unfold State.evict
    obtain state | state := building
    · simp [h, state, full]
    · simp [h, state, full]

variable (new : c.pieces ≠ 1)
include new

theorem State.evict_home (home : o.state = 0) : s.evict r c = s.evictOutcome r c 2 := by
  unfold State.evict
  simp [h, new, home]

/-- What an EVICT does to an object with copies that it may release. -/
theorem State.evict_copies (there : o.state = 2 → cOparg c / 2 ^ 30 = 1 → o.t0 ≠ none) (state : o.state = 1 ∨ o.state = 4 ∨ o.state = 2) : s.evict r c =
    if o.state = 2 ∧ s.objRefs r.part o = 0 then
      (s.setCmd r.part.val r.queue.val { c with pieces := 1 }).startEvict r.part (cOparg c % 65536) [evictReq (cOparg c)]
    else if 8 ≤ o.pend.length then s
    else (s.deferEvict r.part (cOparg c % 65536) r.queue.val o (evictReq (cOparg c))).evictOutcome r c 1 := by
  have copies : ¬ (o.state = 0 ∨ (o.state = 2 ∧ (cOparg c / 2 ^ 30 == 1) = true ∧ o.t0 = none)) := by
    rintro (home | ⟨resident, only, gone⟩)
    · omega
    · exact there resident (beq_iff_eq.mp only) gone
  have whole : o.state ≠ 5 := by omega
  have free : o.state ≠ 3 := by omega
  unfold State.evict
  simp only [h, if_neg new, if_neg whole, if_neg free, if_neg copies]
  rfl

end

/-! ## EVICT, clause by clause -/

section

variable {s : State} {c : CmdRef} {d : Cmd} {o : TierObj} (run : s.running c 0x12 = some d) (new : d.pieces ≠ 1)
include run new

theorem exec_evict_home (h : s.obj c.part (cOparg d % 65536) = some o) (home : o.state = 0) : ∃ t st, exec (.evict c) s = .next t ∧ CmdEnded t c st ∧
    ((d.desc 0).rank = 0 → st = 0 ∧ t = { s with queues := t.queues }) := by
  obtain ⟨at_, -, ok⟩ := State.running_some run
  have began : exec (.evict c) s = .next (s.evictOutcome c d 2) := by rw [exec_evict run, State.evict_home h new home]
  by_cases none : (d.desc 0).rank = 0
  · rw [State.evictOutcome_none s c 2 none] at began
    exact ⟨_, 0, began, CmdEnded.finish at_ (State.running_slot run) ok, fun _ => ⟨rfl, rfl⟩⟩
  · obtain ⟨st, ended⟩ := CmdEnded.evictOutcome at_ (State.running_slot run) ok 2
    exact ⟨_, st, began, ended, fun x => absurd x none⟩

theorem exec_evict_fails (h : ∀ o, s.obj c.part (cOparg d % 65536) = some o → o.state = 5) : ∃ t, exec (.evict c) s = .next t ∧
    CmdEnded t c (if (s.obj c.part (cOparg d % 65536)).isSome then 0x0601 else 0x0604) ∧ t = { s with queues := t.queues } :=
  ⟨_, by rw [exec_evict run, State.evict_fails new h], CmdEnded.failRun (State.running_some run).1 (State.running_slot run) _, rfl⟩

variable (h : s.obj c.part (cOparg d % 65536) = some o) (there : o.state = 2 → cOparg d / 2 ^ 30 = 1 → o.t0 ≠ none)
include h there

theorem exec_evict_starts (state : o.state = 2) (free : s.objRefs c.part o = 0) : ∃ t, exec (.evict c) s = .next t ∧
    t.obj c.part (cOparg d % 65536) = some (o.evicting (o.pend ++ [evictReq (cOparg d)])) ∧ t.mem = s.mem ∧ t.rf = s.rf := by
  have found : (s.setCmd c.part.val c.queue.val { d with pieces := 1 }).obj c.part (cOparg d % 65536) = some o := by
    rw [State.obj_congr (State.setCmd_tier _ _ _ _), h]
  refine ⟨_, by rw [exec_evict run, State.evict_copies h new there (.inr (.inr state)), if_pos ⟨state, free⟩, State.startEvict_some found],
    State.obj_setObj_same _ _ _ _, ?_, ?_⟩
  · rw [State.setObj_mem, State.setCmd_mem]
  · rw [State.setObj_rf, State.setCmd_rf]

theorem exec_evict_defers (state : o.state = 1 ∨ o.state = 4 ∨ o.state = 2) (used : o.state = 2 → s.objRefs c.part o ≠ 0) (room : o.pend.length < 8)
    (none : (d.desc 0).rank = 0) : ∃ t, exec (.evict c) s = .next t ∧
      t.obj c.part (cOparg d % 65536) = some { o with pend := o.pend ++ [evictReq (cOparg d)] } ∧
      t.fget Fld.TIER_STATUS_DEFERRED 0 c.part.val = 1 ∧ CmdEnded t c 0 ∧ t.mem = s.mem ∧ KeepsRegs s t (· == .TIER_STATUS) := by
  obtain ⟨at_, -, ok⟩ := State.running_some run
  have defers : exec (.evict c) s =
      .next ((s.deferEvict c.part (cOparg d % 65536) c.queue.val o (evictReq (cOparg d))).finish c d) := by
    rw [exec_evict run, State.evict_copies h new there state, if_neg (fun x => used x.1 x.2), if_neg (by omega), State.evictOutcome_none _ _ _ none]
  refine ⟨_, defers, ?_⟩
  unfold State.deferEvict
  extract_lets held told
  have quiet := Quiet.tierEvent told c.part 0x0604 0 (cOparg d % 65536) (c.queue.val + (o.pend.length + 1) * 2 ^ 8) (by decide)
  have queues : (told.tierEvent c.part 0x0604 0 (cOparg d % 65536) (c.queue.val + (o.pend.length + 1) * 2 ^ 8)).queues = s.queues := by
    rw [quiet.queues, State.tierStatus_queues, State.setObj_queues]
  have ends := OnlyQueues.finish (told.tierEvent c.part 0x0604 0 (cOparg d % 65536) (c.queue.val + (o.pend.length + 1) * 2 ^ 8)) c d
  refine ⟨?_, ?_, CmdEnded.finish (d := d) (by rw [State.cmdAt_congr queues, at_]) (State.running_slot run) ok, ?_, ?_⟩
  · rw [State.obj_congr ends.tier, State.obj_congr quiet.tier, State.obj_congr (State.tierStatus_tier _ _ _ _), State.obj_setObj_same]
  · rw [State.fget, State.rd, ends.rf, ← State.rd, ← State.fget, quiet.fget _ _ _ rfl]
    exact State.sqSet_bit_cnt _ Fld.TIER_STATUS_DEFERRED Fld.TIER_STATUS_DEFER_CNT _ _ rfl (by decide) (by decide) (by decide) (by decide)
  · rw [ends.mem, quiet.mem, State.tierStatus_mem, State.setObj_mem]
  · exact (((KeepsRegs.of_rf (State.setObj_rf s _ _ _) _).trans (KeepsRegs.tierStatus held _ _ _)).trans (KeepsRegs.quiet quiet _)).trans
      (KeepsRegs.of_rf ends.rf _)

end

/-! ## DEFERRED_EVICTION (R145) -/

section

variable {s : State} {p : Part} {id : Nat}

theorem State.deferredEviction_starts {o : TierObj} (h : s.obj p id = some o) (state : o.state = 2) (held : o.pend ≠ []) (free : s.objRefs p o = 0) :
    s.deferredEviction p id = s.setObj p id (o.evicting o.pend) := by
  unfold State.deferredEviction
  simp only [h, held, state, free, ne_eq, not_true_eq_false, or_self, if_false]
  rw [State.startEvict_some h, List.append_nil]

theorem State.deferredEviction_waits (h : ∀ o, s.obj p id = some o → o.state ≠ 2 ∨ o.pend = [] ∨ s.objRefs p o ≠ 0) : s.deferredEviction p id = s := by
  unfold State.deferredEviction
  split
  · rfl
  next o found =>
    refine if_pos ?_
    obtain away | none | used := h o found
    · exact .inr (.inl away)
    · exact .inl none
    · exact .inr (.inr used)

end

/-! ## EVICTION_COMPLETE (R139, R145) -/

/-- The object whose copies an eviction has released. -/
def TierObj.evicted (o : TierObj) (r : EvictReq) : TierObj :=
  let t1 := if r.t0Only then o.t1 else none
  { o with state := if t1.isSome then 2 else 0, level := if t1.isSome then 1 else 0, t0 := none, t1 := t1, evict := none, freed := [], slice := 0 }

/-- The write of a changed T0 copy to the home, and its status. -/
def State.writeBack (s : State) (p : Part) (o : TierObj) (r : EvictReq) : State × Nat :=
  match o.t0 with
  | some a => if o.ro || r.discard then (s, 0) else (s.grant p.val o.home o.bytes).writePhys o.home (s.cells a o.bytes)
  | none => (s, 0)

/-- The copies released, and the FREED_LOCKs signalled. -/
def State.evicted (s : State) (p : Part) (id : Nat) (o : TierObj) (r : EvictReq) : State :=
  o.freed.foldl (fun s l => s.lockAdd p.val l 1) (((s.writeBack p o r).1).setObj p id (o.evicted r))

section

variable {s : State} {p : Part} {id : Nat}

theorem State.evictionComplete_stays (h : ∀ o, s.obj p id = some o → o.state ≠ 3) : s.evictionComplete p id = s := by
  unfold State.evictionComplete
  split
  · rfl
  next o found =>
    split
    next state _ => exact absurd state (h o found)
    · rfl

theorem Written.writeBack (s : State) (p : Part) (o : TierObj) (r : EvictReq) : Written s (s.writeBack p o r).1 := by
  unfold State.writeBack
  split
  · split
    · exact Written.refl s
    · exact (Touched.grant s _ _ _).written.trans (Written.writePhys _ _ _)
  · exact Written.refl s

/-- Signals to locks leave objects, memory and queues alone. -/
theorem State.locksAdded_keeps (s : State) (p : Nat) (l : List Nat) :
    (l.foldl (fun s k => s.lockAdd p k 1) s).tier = s.tier ∧ (l.foldl (fun s k => s.lockAdd p k 1) s).mem = s.mem ∧
      (l.foldl (fun s k => s.lockAdd p k 1) s).queues = s.queues := by
  induction l generalizing s with
  | nil => exact ⟨rfl, rfl, rfl⟩
  | cons k l ih =>
    obtain ⟨tier, mem, queues⟩ := ih (s.lockAdd p k 1)
    exact ⟨tier.trans (s.lockAdd_tier _ _ _), mem.trans (s.lockAdd_mem _ _ _), queues.trans (s.lockAdd_queues _ _ _)⟩

theorem State.evicted_queues (s : State) (p : Part) (id : Nat) (o : TierObj) (r : EvictReq) : (s.evicted p id o r).queues = s.queues := by
  rw [State.evicted, (State.locksAdded_keeps _ _ _).2.2, State.setObj_queues, (Written.writeBack s p o r).queues]

theorem State.obj_evicted (s : State) (p : Part) (id : Nat) (o : TierObj) (r : EvictReq) : (s.evicted p id o r).obj p id = some (o.evicted r) := by
  rw [State.evicted, State.obj_congr (State.locksAdded_keeps _ _ _).1, State.obj_setObj_same]

theorem KeepsMem.evicted (s : State) (p : Part) (id : Nat) (o : TierObj) (r : EvictReq) : KeepsMem (s.writeBack p o r).1 (s.evicted p id o r) :=
  KeepsMem.of_mem (by rw [State.evicted, (State.locksAdded_keeps _ _ _).2.1, State.setObj_mem])

/-- Without commands no queue has one. -/
theorem State.queue_empty (none : s.queues = []) (q : Nat) : (s.queue p.val q).cmds = [] := by
  rw [State.queue, none]
  rfl

/-- Without commands nothing is demanded. -/
theorem State.tierDemand_idle (none : s.queues = []) : s.tierDemand p = s := by
  refine List.foldl_fixed' (fun e => if_neg ?_) _
  simp [State.demanded, State.queue_empty none]

/-- Without commands an eviction ends by the release of its copies. -/
theorem State.evictionComplete_releases {o : TierObj} {r : EvictReq} (h : s.obj p id = some o) (state : o.state = 3) (going : o.evict = some r)
    (none : s.queues = []) : s.evictionComplete p id = s.evicted p id o r := by
  have empty : (s.evicted p id o r).queues = [] := (s.evicted_queues p id o r).trans none
  unfold State.evictionComplete
  simp only [h, state, going]
  refine (congrArg (State.tierDemand · p) (List.foldl_fixed' (a := s.evicted p id o r) (fun q => ?_) _)).trans (State.tierDemand_idle empty)
  rw [State.queue_empty empty]
  rfl

/-- No change, or one to be discarded, is not written back. -/
theorem State.writeBack_none {o : TierObj} {r : EvictReq} (h : o.ro = true ∨ r.discard = true ∨ o.t0 = none) : s.writeBack p o r = (s, 0) := by
  unfold State.writeBack
  split
  next a copy => exact if_pos (by simpa [copy] using h)
  · rfl

/-- A changed T0 copy is written back to the home. -/
theorem State.writeBack_home {o : TierObj} {r : EvictReq} {b : Nat} (copy : o.t0 = some b) (mutable : o.ro = false) (keep : r.discard = false)
    (fits : o.home + o.bytes ≤ t2Base) (ok : ((s.grant p.val o.home o.bytes).writePhys o.home (s.cells b o.bytes)).2 = 0) :
    (∀ i < o.bytes, (s.writeBack p o r).1.cell (o.home + i) = s.cell (b + i)) ∧
      ∀ y, (y < o.home ∨ o.home + o.bytes ≤ y) → (s.writeBack p o r).1.cell y = s.cell y := by
  have len : (s.cells b o.bytes).length = o.bytes := by simp [State.cells]
  have back : s.writeBack p o r = (s.grant p.val o.home o.bytes).writePhys o.home (s.cells b o.bytes) := by
    simp [State.writeBack, copy, mutable, keep]
  rw [back]
  refine ⟨fun i lt => ?_, fun y out => ?_⟩
  · rw [State.cell_writePhys_in ok (by omega) (by omega)]
    simp [State.cells, lt]
  · rw [State.cell_writePhys, if_neg (by omega), (Touched.grant s _ _ _).cell]

end

/-! ## The statement -/

/-- Settles O45: EVICT by the state of its object, held evictions by `startEvict_some`, and the end of one by `evictionComplete_releases`. -/
theorem evictions : Obligations.Evictions := by
  unfold Obligations.Evictions
  refine ⟨fun c d o s run new h home => exec_evict_home run new h home, fun c d s run new h => exec_evict_fails run new h,
    fun c d o s run new h state there free => exec_evict_starts run new h (fun _ => there) state free, fun c d o s run new none h state room => ?_,
    fun c d o s run h wait => by rw [exec_evict run, State.evict_waits h wait], fun p id o s h state held free => ?_,
    fun p id s h => by rw [exec_deferredEviction, State.deferredEviction_waits h], fun p id o r s h state going none => ?_,
    fun p id s h => by rw [exec_evictionComplete, State.evictionComplete_stays h]⟩
  · have copies : (o.state = 1 ∨ o.state = 4 ∨ o.state = 2) ∧ (o.state = 2 → (cOparg d / 2 ^ 30 = 1 → o.t0 ≠ .none) ∧ s.objRefs c.part o ≠ 0) := by
      obtain one | four | ⟨two, there, used⟩ := state
      · exact ⟨.inl one, by omega⟩
      · exact ⟨.inr (.inl four), by omega⟩
      · exact ⟨.inr (.inr two), fun _ => ⟨there, used⟩⟩
    obtain ⟨t, began, held, rest⟩ := exec_evict_defers run new h (fun two => (copies.2 two).1) copies.1 (fun two => (copies.2 two).2) room none
    exact ⟨t, _, began, held, by rw [List.length_append, List.length_singleton], rfl, rest⟩
  · exact ⟨_, _, by rw [exec_deferredEviction, State.deferredEviction_starts h state held free], State.obj_setObj_same _ _ _ _, rfl, rfl, rfl,
      State.setObj_mem _ _ _ _, State.setObj_rf _ _ _ _⟩
  · refine ⟨s.evicted p id o r, o.evicted r, by rw [exec_evictionComplete, State.evictionComplete_releases h state going none], State.drainHost_idle,
      s.obj_evicted p id o r, rfl, rfl, rfl, fun clean a => ?_, fun b copy mutable keep fits ok => ?_⟩
    · rw [KeepsMem.evicted s p id o r a, State.writeBack_none clean]
    · obtain ⟨back, rest⟩ := State.writeBack_home (r := r) copy mutable keep fits ok
      have kept := KeepsMem.evicted s p id o r
      exact ⟨fun i lt => (kept _).trans (back i lt), fun y out => (kept y).trans (rest y out)⟩

end Sys2Proof.Machine
end

section
/-! COPY (O47). -/

namespace Sys2Proof.Machine

open Sys2Proof.Safety

theorem exec_copy {s : State} {c : CmdRef} {d : Cmd} (run : s.running c 0x10 = some d) : exec (.copy c) s = .next (s.copy c d) := by
  show execCopy c s = _
  rw [execCopy, run]

theorem exec_copy_none {s : State} {c : CmdRef} (idle : s.running c 0x10 = none) : exec (.copy c) s = .next s := by
  show execCopy c s = _
  rw [execCopy, idle]

/-! ## How a COPY goes on and ends (R136, R141) -/

/-- The bytes that a COPY may bring from T2 first. -/
def Cmd.sourceRanges (c : Cmd) : List (Nat × Nat) :=
  [((c.desc 0).base, (c.desc 0).extent)] ++ (if isMx (c.desc 0).dtype then [((c.desc 0).scale, (c.desc 0).scaleCount)] else [])

/-- The elements copied or converted: the state, the status, and what the ledger counts. -/
def State.copyElems (s : State) (p : Nat) (c : Cmd) : State × Nat × LedRec :=
  if sameCoding c then s.copyRaw p c
  else s.writeTensor p (c.desc 1) (c.sw 1) (satOf c.arith) ((c.desc 0).positions.map (fun i => (i, s.elemVal (c.desc 0) (c.sw 0) i)))

/-- A COPY whose bytes have arrived. -/
def State.copyNow (s : State) (r : CmdRef) (c : Cmd) : State :=
  if c.desc 0 == { c.desc 1 with addr := (c.desc 0).addr } then (s.t2Drop r).finish r c
  else
    let x := s.fetchTensor r.part.val (c.desc 0)
    if x.2 ≠ 0 then (x.1.t2Drop r).failRun r c x.2
    else
      let y := x.1.copyElems r.part.val c
      (y.1.t2Drop r).endRun r (c.record (c.desc 1) y.2.2) y.2.1

section

variable {s : State} {r : CmdRef} {c : Cmd}

/-- Where the bytes are there already, bringing them does nothing. -/
theorem State.t2Stage_ready {ranges : List (Nat × Nat)} (ready : (s.t2Stage r ranges).2 = true) : (s.t2Stage r ranges).1 = s := by
  unfold State.t2Stage at ready ⊢
  dsimp only at ready ⊢
  split at ready
  · cases ready
  next there => rw [if_neg there]

theorem State.copy_waits (waits : (s.t2Stage r c.sourceRanges).2 = false) : s.copy r c = (s.t2Stage r c.sourceRanges).1 := if_pos (by
  show (!(s.t2Stage r c.sourceRanges).2) = true
  rw [waits]
  rfl)

theorem State.copy_ready (ready : (s.t2Stage r c.sourceRanges).2 = true) : s.copy r c = s.copyNow r c := by
  have same := State.t2Stage_ready ready
  unfold State.copy
  show (if (!(s.t2Stage r c.sourceRanges).2) = true then _ else _) = _
  rw [ready, if_neg (by simp)]
  conv_rhs => rw [← same]
  rfl

@[simp] theorem State.copyRaw_queues (s : State) (p : Nat) (c : Cmd) : (s.copyRaw p c).1.queues = s.queues := State.writeRuns_queues s p _

@[simp] theorem State.copyElems_queues (s : State) (p : Nat) (c : Cmd) : (s.copyElems p c).1.queues = s.queues := by
  unfold State.copyElems
  split
  · exact s.copyRaw_queues p c
  · exact s.writeTensor_queues _ _ _ _ _

/-- With its bytes there, a COPY ends. -/
theorem CmdEnded.copyNow {d : Cmd} (at_ : s.cmdAt r.part.val r.queue.val r.slot = some d) (slot : c.slot = r.slot) (ok : c.fail = 0) :
    ∃ st, CmdEnded (s.copyNow r c) r st := by
  have dropped {u : State} (same : u.queues = s.queues) : (u.t2Drop r).cmdAt r.part.val r.queue.val r.slot = some d := by
    rw [State.cmdAt_congr ((CmdKept.t2Drop u r).queues.trans same), at_]
  unfold State.copyNow
  dsimp only
  split
  · exact ⟨0, CmdEnded.finish (dropped rfl) slot ok⟩
  · split
    · exact ⟨_, CmdEnded.failRun (dropped (by simp)) slot _⟩
    · exact ⟨_, CmdEnded.endRun (dropped (by simp)) (by simp [slot]) (by simp [ok]) _⟩

end

/-! ## Scratchpad in a state that knows no error (R157, R159) -/

section

theorem isHbm_t0 {a : Nat} (low : a ≤ t0End) : isHbm a = false :=
  Bool.and_eq_false_iff.mpr (.inl (decide_eq_false (by simp only [hbmBase, t0End] at *; omega)))

variable {s : State} {a n : Nat} (fits : a + n ≤ t0End)
include fits

/-- No page of scratchpad is retired. -/
theorem State.retiredIn_t0 (s : State) : s.retiredIn a n = false := by
  refine Bool.and_eq_false_iff.mpr (.inr (Bool.or_eq_false_iff.mpr ⟨?_, Bool.and_eq_false_iff.mpr (.inr ?_)⟩))
  · simp only [List.any_eq_false, Bool.not_eq_true, Bool.and_eq_false_iff, decide_eq_false_iff_not]
    refine fun k _ x _ => or_iff_not_imp_right.mpr fun below => .inl ?_
    exact isHbm_t0 (by simp only [pageOf, t0End] at *; omega)
  · simp only [List.any_eq_false, List.mem_range]
    intro i lt hit
    rw [State.retiredAt, isHbm_t0 (by simp only [pageOf, t0End] at *; omega), Bool.false_and] at hit
    cases hit

theorem State.grant_t0 (s : State) (c : Nat) : s.grant c a n = s := if_neg (by simp [isHbm_t0 (show a ≤ t0End by omega)])

/-- A read of scratchpad gives its bytes. -/
theorem State.readAs_t0 (tier : s.tier = State.reset.tier) (poison : s.mem.poison = []) (errs : s.mem.errs = []) (c u : Nat) :
    s.readAs c a n u = ((s.cells a n, false), s) := by
  have quiet : s.touch a n = s := by rw [State.touch, errs]; rfl
  have clean : s.poisoned a n = false := by rw [State.poisoned, State.retiredIn_t0 fits, poison]; rfl
  rw [State.readAs, State.resolve_self tier, State.grant_t0 fits, State.readMem, State.pieces_self tier, List.foldl_cons, List.foldl_nil]
  simp only [State.resolve_self tier, State.readPhys, quiet, clean, List.nil_append, Bool.or_self]

/-- A write of scratchpad succeeds. -/
theorem State.writeAs_t0 (tier : s.tier = State.reset.tier) {data : List Byte} (len : data.length = n) (c : Nat) : (s.writeAs c a data).2 = 0 := by
  subst len
  have quiet : (if isHbm a then partWords a data.length else []) = [] := by
    rw [isHbm_t0 (by omega)]
    rfl
  rw [State.writeAs_self tier, State.grant_t0 fits, State.writePhys]
  simp only [quiet, List.foldl_nil, List.filter_nil, State.retiredIn_t0 fits, List.isEmpty_nil, if_true, Bool.false_eq_true, if_false]

end

/-! ## Runs of consecutive bytes -/

/-- Consecutive bytes make one run. -/
theorem runsOf_consecutive (b m : Nat) (f : Nat → Byte) :
    runsOf ((List.range (m + 1)).map (fun j => (b + j, f j))) = [(b, (List.range (m + 1)).map f)] := by
  induction m generalizing b f with
  | zero => rfl
  | succ m ih =>
    have rest := ih (b + 1) (fun j => f (j + 1))
    have shift : (List.range (m + 1)).map ((fun j => (b + j, f j)) ∘ Nat.succ) = (List.range (m + 1)).map (fun j => (b + 1 + j, f (j + 1))) :=
      List.map_congr_left fun j _ => by simp only [Function.comp, Nat.succ_eq_add_one, Nat.add_assoc, Nat.add_comm 1 j]
    rw [List.range_succ_eq_map, List.map_cons, List.map_cons, List.map_map, List.map_map, shift, runsOf, rest]
    simp only [Nat.add_zero, if_true]
    rfl

/-! ## Vectors of INT16 (R201) -/

/-- A rank-1 tensor of `n` elements of INT16. -/
structure TDesc.Int16s (d : TDesc) (n : Nat) : Prop where
  dtype : d.dtype = 0x0E
  dims : d.dims = [n, 1, 1, 1]

section

variable {d : TDesc} {n : Nat} (v : d.Int16s n)
include v

theorem TDesc.Int16s.bitPos (k : Nat) : d.bitPos (k, 0, 0, 0) = 16 * k := by
  rw [TDesc.bitPos, TDesc.off, v.dtype]
  simp [dtBits, Nat.mul_comm]

theorem TDesc.Int16s.positions : d.positions = (List.range n).map (fun k => (k, 0, 0, 0)) := by
  have count : d.count = n := by simp [TDesc.count, TDesc.dim, v.dims]
  rw [TDesc.positions, count]
  refine List.map_congr_left fun k mem => ?_
  have lt := List.mem_range.mp mem
  have one : max 1 n = n := by omega
  simp [TDesc.unlin, TDesc.dim, v.dims, one, Nat.mod_eq_of_lt lt, Nat.div_eq_of_lt lt]

theorem TDesc.Int16s.reads : d.reads = [(d.base, 2 * n)] := by
  have pos := v.bitPos 0
  have bytes : ceilDiv (n * 16) 8 = 2 * n := by rw [ceilDiv]; omega
  have plain : isMx d.dtype = false := by rw [v.dtype]; rfl
  have width : dtBits d.dtype = 16 := by rw [v.dtype]; rfl
  rw [TDesc.reads, plain, TDesc.rows]
  simp [TDesc.dim, v.dims, pos, width, bytes]

/-- The code of an element is that of its two bytes. -/
theorem TDesc.Int16s.elemCode {s : State} (tier : s.tier = State.reset.tier) (k : Nat) :
    s.elemCode d (k, 0, 0, 0) = (s.cell (d.base + 2 * k)).toNat + 256 * (s.cell (d.base + 2 * k + 1)).toNat := by
  have low := (s.cell (d.base + 2 * k)).isLt
  have high := (s.cell (d.base + 2 * k + 1)).isLt
  have width : dtBits d.dtype = 16 := by rw [v.dtype]; rfl
  have whole : 16 * k % 8 = 0 := by omega
  have place : 16 * k / 8 = 2 * k := by omega
  rw [State.elemCode, TDesc.codeFrom, v.bitPos, width, Machine.codeFrom, whole, place]
  simp only [State.byte, State.resolve_self tier]
  show bitsOf (leNat [s.cell (d.base + 2 * k), s.cell (d.base + 2 * k + 1)]) 15 0 = _
  simp only [bitsOf, leNat]
  omega

end

/-- The bytes of a 16-bit code, at two consecutive addresses. -/
theorem State.putCode_half (s : State) (acc : List (Nat × Byte)) (base k : Nat) (x y : Byte) :
    s.putCode acc base (16 * k) 16 (x.toNat + 256 * y.toNat) = acc ++ [(base + 2 * k, x), (base + 2 * k + 1, y)] := by
  have place : 16 * k / 8 = 2 * k := by omega
  have first : BitVec.ofNat 8 (x.toNat + 256 * y.toNat) = x := by
    apply BitVec.eq_of_toNat_eq
    simp only [BitVec.toNat_ofNat]
    omega
  have second : BitVec.ofNat 8 ((x.toNat + 256 * y.toNat) / 256) = y := by
    apply BitVec.eq_of_toNat_eq
    simp only [BitVec.toNat_ofNat]
    omega
  show acc ++ [(base + 16 * k / 8 + 0, BitVec.ofNat 8 ((x.toNat + 256 * y.toNat) / 256 ^ 0)),
    (base + 16 * k / 8 + 1, BitVec.ofNat 8 ((x.toNat + 256 * y.toNat) / 256 ^ 1))] = _
  rw [place, Nat.pow_zero, Nat.pow_one, Nat.div_one, first, second]
  rfl

/-! ## A COPY of INT16 in scratchpad (R141) -/

section

variable {s : State} (tier : s.tier = State.reset.tier) {n : Nat}
include tier

/-- The bytes that a copy of INT16 writes: those of its source, at consecutive addresses. -/
theorem State.copied_int16 {a b : TDesc} (va : a.Int16s n) (vb : b.Int16s n) :
    a.positions.foldl (fun acc i => s.putCode acc b.base (b.bitPos i) (dtBits b.dtype) (s.elemCode a i)) [] =
      (List.range (2 * n)).map (fun j => (b.base + j, s.cell (a.base + j))) := by
  have width : dtBits b.dtype = 16 := by rw [vb.dtype]; rfl
  have step (acc : List (Nat × Byte)) (k : Nat) : s.putCode acc b.base (b.bitPos (k, 0, 0, 0)) (dtBits b.dtype) (s.elemCode a (k, 0, 0, 0)) =
      acc ++ [(b.base + 2 * k, s.cell (a.base + 2 * k)), (b.base + 2 * k + 1, s.cell (a.base + 2 * k + 1))] := by
    rw [vb.bitPos, width, va.elemCode tier, State.putCode_half]
  rw [va.positions, List.foldl_map]
  simp only [step]
  clear va vb step width
  induction n with
  | zero => rfl
  | succ n ih => rw [List.range_succ, List.foldl_append, ih, Nat.mul_succ, List.range_succ, List.range_succ]; simp [Nat.add_assoc]

variable {d : Cmd} (va : (d.desc 0).Int16s n) (vb : (d.desc 1).Int16s n)
include va vb

/-- The write of a copy of INT16: one run. -/
theorem State.copyElems_int16 (pos : 0 < n) (p : Nat) : ∃ rec, s.copyElems p d =
    ((s.writeAs p (d.desc 1).base (s.cells (d.desc 0).base (2 * n))).1, (s.writeAs p (d.desc 1).base (s.cells (d.desc 0).base (2 * n))).2, rec) := by
  have same : sameCoding d = true := by
    simp [sameCoding, va.dtype, vb.dtype, takesScaleWord, isMx]
  have plain : isMx (d.desc 0).dtype = false := by rw [va.dtype]; rfl
  obtain ⟨m, len⟩ : ∃ m, 2 * n = m + 1 := ⟨2 * n - 1, by omega⟩
  have runs : runsOf ((List.range (2 * n)).map (fun j => ((d.desc 1).base + j, s.cell ((d.desc 0).base + j)))) =
      [((d.desc 1).base, s.cells (d.desc 0).base (2 * n))] := by
    rw [len, runsOf_consecutive]
    rfl
  rw [State.copyElems, if_pos same, State.copyRaw]
  dsimp only
  rw [State.copied_int16 tier va vb, plain, if_neg (by simp), List.append_nil, runs]
  exact ⟨_, rfl⟩

end

/-- Without transfers nothing has been brought that could be dropped. -/
theorem State.t2Drop_mem {s : State} {r : CmdRef} (none : (vget s.tier r.part).fetches = []) : (s.t2Drop r).mem = s.mem := by
  rw [State.t2Drop, none]
  exact State.setFetches_mem s r.part _

section

variable {s : State} (tier : s.tier = State.reset.tier)
include tier

theorem State.fetches_nil (p : Part) : (vget s.tier p).fetches = [] := by
  rw [tier]
  show (vget (Vector.replicate 4 TierSt.reset) p).fetches = []
  simp [vget, Vector.get, TierSt.reset]

variable {c : CmdRef} {d : Cmd} {n : Nat} (run : s.running c 0x10 = some d) (va : (d.desc 0).Int16s n) (vb : (d.desc 1).Int16s n)
  (src : (d.desc 0).base + 2 * n ≤ t0End)
include va src

/-- Nothing is brought from T2 for a source in scratchpad. -/
theorem State.t2Stage_t0 : (s.t2Stage c d.sourceRanges).2 = true := by
  have plain : isMx (d.desc 0).dtype = false := by rw [va.dtype]; rfl
  have low : isT2 (d.desc 0).base = false := isT2_below (by simp only [t2Base, t0End] at *; omega)
  have here : d.sourceRanges = [((d.desc 0).base, (d.desc 0).extent)] := by rw [Cmd.sourceRanges, plain]; rfl
  unfold State.t2Stage
  simp [here, State.pieces_self tier, State.resolve_self tier, low, State.fetches_nil tier]

include run vb

/-- A COPY of INT16 between tensors in scratchpad. -/
theorem exec_copy_int16 (pos : 0 < n) (dst : (d.desc 1).base + 2 * n ≤ t0End) (poison : s.mem.poison = []) (errs : s.mem.errs = []) :
    ∃ t, exec (.copy c) s = .next t ∧ CmdEnded t c 0 ∧
      (∀ i < 2 * n, t.cell ((d.desc 1).base + i) = s.cell ((d.desc 0).base + i)) ∧
      ∀ y, (y < (d.desc 1).base ∨ (d.desc 1).base + 2 * n ≤ y) → t.cell y = s.cell y := by
  obtain ⟨at_, -, ok⟩ := State.running_some run
  have slot := State.running_slot run
  have dropped {u : State} (same : u.queues = s.queues) : (u.t2Drop c).cmdAt c.part.val c.queue.val c.slot = some d := by
    rw [State.cmdAt_congr ((CmdKept.t2Drop u c).queues.trans same), at_]
  have cells {u : State} (same : u.tier = s.tier) (e : Cmd) : KeepsMem u ((u.t2Drop c).finish c e) :=
    KeepsMem.of_mem (by rw [(OnlyQueues.finish _ _ _).mem, State.t2Drop_mem (State.fetches_nil (same.trans tier) _)])
  have began : exec (.copy c) s = .next (s.copyNow c d) := by rw [exec_copy run, State.copy_ready (State.t2Stage_t0 tier va src)]
  refine ⟨_, began, ?_⟩
  unfold State.copyNow
  split
  next same =>
    have equal := congrArg TDesc.base (eq_of_beq same)
    have base : (d.desc 0).base = (d.desc 1).base := equal
    exact ⟨CmdEnded.finish (dropped rfl) slot ok, fun i _ => by rw [cells rfl, base], fun y _ => cells rfl d y⟩
  next =>
    have read : s.fetchTensor c.part.val (d.desc 0) = (s, 0) := by
      rw [State.fetchTensor, va.reads]
      simp only [List.foldl_cons, List.foldl_nil, State.readAs_t0 src tier poison errs, Bool.false_eq_true, if_false]
    have len : (s.cells (d.desc 0).base (2 * n)).length = 2 * n := by simp [State.cells]
    have good := State.writeAs_t0 dst tier len c.part.val
    obtain ⟨rec, wrote⟩ := State.copyElems_int16 tier va vb pos c.part.val
    simp only [read, wrote, good, ne_eq, not_true_eq_false, if_false, State.endRun, if_true]
    have kept := cells (Written.writeAs s c.part.val (d.desc 1).base (s.cells (d.desc 0).base (2 * n))).tier (d.record (d.desc 1) rec)
    refine ⟨CmdEnded.finish (dropped (by simp)) (by simp [slot]) (by simp [ok]), fun i lt => ?_, fun y out => ?_⟩
    · rw [kept, State.cell_writeAs_in tier _ good (by omega) (by simp only [t0End, t2Base] at *; omega)]
      simp [State.cells, lt]
    · rw [kept, State.cell_writeAs_out tier _ (by omega)]

end

/-! ## The statement -/

/-- Settles O47: a COPY waits or ends by `copy_waits` and `copy_ready`; between vectors of INT16 its bytes are `copied_int16`. -/
theorem copies : Obligations.Copies := by
  unfold Obligations.Copies
  refine ⟨fun c d s run => ⟨fun ready => ?_, fun waits => ?_⟩, fun c s idle => exec_copy_none idle,
    fun c d n s run int0 int1 _ _ dims0 dims1 pos tier src dst poison errs => exec_copy_int16 tier run ⟨int0, dims0⟩ ⟨int1, dims1⟩ src pos dst poison errs⟩
  · obtain ⟨at_, -, ok⟩ := State.running_some run
    obtain ⟨st, ended⟩ := CmdEnded.copyNow (s := s) at_ (State.running_slot run) ok
    exact ⟨_, st, by rw [exec_copy run, State.copy_ready ready], ended⟩
  · rw [exec_copy run, State.copy_waits waits]
    rfl

end Sys2Proof.Machine
end

section
/-! SUPPORT. Vector instructions as commands (R247 to R254): the count of executed instructions, what a failing instruction ends, writes of the tile
registers, and lane faults. -/

namespace Sys2Proof.Machine

open Sys2Proof.Safety

/-! ## Lanes (R242, R249) -/

namespace VecSt

variable (x : VecSt) (f : VFields)

theorem mem_present (l : Nat) : l ∈ x.present ↔ x.isPresent l = true := by
  have wide : x.vl.1 ≤ 32 := Nat.min_le_left _ _
  simp only [present, List.mem_flatMap, List.mem_map, List.mem_range, isPresent, Bool.and_eq_true, decide_eq_true_eq]
  constructor
  · rintro ⟨r, lr, c, lc, rfl⟩
    omega
  · rintro ⟨lr, lc⟩
    exact ⟨l / 32, lr, l % 32, lc, by omega⟩

theorem mem_active (l : Nat) : l ∈ x.active f ↔ x.isPresent l = true ∧ x.acts f l = true := by
  rw [active, List.mem_filter, x.mem_present]

/-- An engine has 1,024 lanes (R240). -/
theorem lt_of_isPresent {x : VecSt} {l : Nat} (h : x.isPresent l = true) : l < 1024 := by
  have tall : x.vl.2 ≤ 32 := Nat.min_le_left _ _
  simp only [isPresent, Bool.and_eq_true, decide_eq_true_eq] at h
  omega

theorem lt_of_mem_active {x : VecSt} {f : VFields} {l : Nat} (h : l ∈ x.active f) : l < 1024 := lt_of_isPresent ((x.mem_active f l).mp h).1

/-- A list of lanes with their values, zeros left out, reads as those values. -/
theorem get_nonzero (v : Nat → Word) (ls : List Nat) (l : Nat) :
    Sparse.get 0 ((ls.map (fun k => (k, v k))).filter (fun e => e.2 != 0)) l = if l ∈ ls then v l else 0 := by
  induction ls with
  | nil => rfl
  | cons k ls ih =>
    rw [List.map_cons, List.filter_cons]
    by_cases zero : v k = 0
    · rw [if_neg (by simp [zero]), ih]
      by_cases e : l = k
      · subst e
        simp [zero]
      · simp [e]
    · rw [if_pos (by simpa using zero)]
      by_cases e : l = k
      · subst e
        simp [Sparse.get, Sparse.find]
      · simpa [Sparse.get, Sparse.find, e] using ih

/-- DST after a write: what each lane holds (R242, R249). -/
theorem lane_putDst (v : Nat → Word) (l : Nat) : (x.putDst f v).lane f.dst l =
    if x.isPresent l then (if x.acts f l then v l else if f.mz then 0 else x.lane f.dst l) else 0 := by
  simp only [putDst, lane, Sparse.get_set_same, get_nonzero, x.mem_present]

/-- No other tile register changes. -/
theorem lane_putDst_ne (v : Nat → Word) {r : Nat} (l : Nat) (h : r ≠ f.dst) : (x.putDst f v).lane r l = x.lane r l := by
  simp only [putDst, lane, Sparse.get_set_ne _ _ _ _ h]

/-- Only the values of the active lanes count. -/
theorem putDst_congr {v w : Nat → Word} (h : ∀ l ∈ x.active f, v l = w l) : x.putDst f v = x.putDst f w := by
  have same : x.present.map (fun l => (l, if x.acts f l then v l else if f.mz then 0 else x.lane f.dst l)) =
      x.present.map (fun l => (l, if x.acts f l then w l else if f.mz then 0 else x.lane f.dst l)) := by
    refine List.map_congr_left fun l there => ?_
    split
    next acts => rw [h l (List.mem_filter.mpr ⟨there, acts⟩)]
    next => rfl
  rw [putDst, putDst, same]

end VecSt

/-- An engine whose DST was written, as the statements say it. -/
theorem Lanes.putDst {s t : State} {e : Quad} {f : VFields} {v : Nat → Word} (h : t.eng e = (s.eng e).putDst f v) : Lanes s t e f v where
  dst l := by rw [h, VecSt.lane_putDst]
  tiles r l n := by rw [h, VecSt.lane_putDst_ne _ _ _ _ n]
  engine := by rw [h]; rfl
  clean b there := by
    rw [h] at there
    obtain ⟨held, kept⟩ := List.mem_filter.mp there
    refine ⟨held, fun ⟨tile, dst, acts⟩ => ?_⟩
    simp [tile, dst, acts] at kept

/-! ## Engines in the state -/

@[simp] theorem State.eng_setEng (s : State) (e : Quad) (x : VecSt) : (s.setEng e x).eng e = x := s.setEng_eng e x

theorem State.eng_setEng_ne (s : State) {e g : Quad} (x : VecSt) (h : g ≠ e) : (s.setEng e x).eng g = s.eng g := vget_vset_ne _ _ h

theorem State.eng_congr {s t : State} (h : t.vec = s.vec) (e : Quad) : t.eng e = s.eng e := by rw [State.eng, h, State.eng]

@[simp] theorem State.countInstr_eng (s : State) (e g : Quad) : (s.countInstr e).eng g = s.eng g := State.eng_congr (s.wr64_vec _ _ _ _ _) g

@[simp] theorem State.countInstr_mem (s : State) (e : Quad) : (s.countInstr e).mem = s.mem := s.wr64_mem _ _ _ _ _

theorem State.countInstr_rd (s : State) (e : Quad) {r : RegName} (i a : Nat) (lo : r ≠ .VEC_Vn_INSTR_LO) (hi : r ≠ .VEC_Vn_INSTR_HI) :
    (s.countInstr e).rd r i a = s.rd r i a := s.wr64_rd_reg _ _ _ _ _ lo hi

theorem State.countInstr_fget (s : State) (e : Quad) (g : Fld) (i a : Nat) (lo : g.reg ≠ .VEC_Vn_INSTR_LO) (hi : g.reg ≠ .VEC_Vn_INSTR_HI) :
    (s.countInstr e).fget g i a = s.fget g i a := by rw [State.fget, s.countInstr_rd e i a lo hi, State.fget]

/-- An instruction that is counted and changes its engine alone. -/
theorem EngineStep.setEng (s : State) (e : Quad) (x : VecSt) : EngineStep s ((s.countInstr e).setEng e x) e where
  rest := rfl
  others d n := by rw [State.eng_setEng_ne _ _ n, State.countInstr_eng]
  count := s.rd64_wr64_mod _ _ _ (by decide)
  regs r i a lo hi := s.rd_wr64_ne _ lo hi

/-- An instruction that is counted and does nothing else. -/
theorem EngineStep.countInstr (s : State) (e : Quad) : EngineStep s (s.countInstr e) e where
  rest := rfl
  others d _ := s.countInstr_eng e d
  count := s.rd64_wr64_mod _ _ _ (by decide)
  regs r i a lo hi := s.rd_wr64_ne _ lo hi

/-! ## One instruction (R247, R250) -/

theorem State.vInstr_clean {s : State} {op : Nat} {e : Quad} {f : VFields} (h : (s.eng e).badLane op f = none) :
    s.vInstr op e f = (s.countInstr e).vClean op e f := by
  unfold State.vInstr
  dsimp only
  rw [s.countInstr_eng e e, h]

theorem State.vInstr_parity {s : State} {op l : Nat} {e : Quad} {f : VFields} (h : (s.eng e).badLane op f = some l) :
    s.vInstr op e f = (s.countInstr e).vecFault e 3 l := by
  unfold State.vInstr
  dsimp only
  rw [s.countInstr_eng e e, h]

/-- A command that succeeds leaves what its instruction left. -/
theorem State.vRow_ok {s : State} {op : Nat} {e : Quad} {f : VFields} (h : (s.vInstr op e f).2 = 0) : s.vRow op e f = (s.vInstr op e f).1 := by
  rw [State.vRow]
  dsimp only
  rw [if_pos h]

/-- One that fails also ends the command that its engine runs: beside the instruction only queues change. -/
theorem OnlyQueues.vRow (s : State) (op : Nat) (e : Quad) (f : VFields) : OnlyQueues (s.vInstr op e f).1 (s.vRow op e f) := by
  unfold State.vRow
  dsimp only
  refine ite (refl _) ?_
  split
  · exact refl _
  · split
    · exact ite (setCmd _ _ _ _) (refl _)
    · exact refl _

section Row

variable {s t : State} (h : OnlyQueues s t)
include h

theorem OnlyQueues.vec : t.vec = s.vec := by rw [h]
theorem OnlyQueues.eng (e : Quad) : t.eng e = s.eng e := State.eng_congr h.vec e
theorem OnlyQueues.cell (a : Nat) : t.cell a = s.cell a := by rw [State.cell, h.mem, State.cell]
theorem OnlyQueues.fget (g : Fld) (i a : Nat) : t.fget g i a = s.fget g i a := by rw [State.fget, State.rd, h.rf, State.fget, State.rd]

end Row

/-! ## Lane faults (R250, R251) -/

section Fault

variable (s : State) (e : Quad)

/-- The registers of a lane fault: its cause, and its flag with the count of faults (R250). -/
def State.faultRegs (flag : Fld) (cause lane : Nat) : State :=
  (s.wr .VEC_Vn_FAULT e.val 0 (BitVec.ofNat 32 (s.fget Fld.VEC_Vn_STATE_PC e.val + lane * 2 ^ 12 + cause * 2 ^ 22))).sqSet .VEC_Vn_STATUS e.val 0
    [flag] [Fld.VEC_Vn_STATUS_FAULT_CNT]

theorem State.faultRegs_flag {flag : Fld} (h : flag = Fld.VEC_Vn_STATUS_FAULT ∨ flag = Fld.VEC_Vn_STATUS_PARITY) (cause lane : Nat) :
    (s.faultRegs e flag cause lane).fget flag e.val = 1 := by
  rcases h with rfl | rfl
  · exact State.sqSet_bit_cnt _ Fld.VEC_Vn_STATUS_FAULT _ _ _ (by decide) (by decide) (by decide) (by decide) (by decide)
  · exact State.sqSet_bit_cnt _ Fld.VEC_Vn_STATUS_PARITY _ _ _ (by decide) (by decide) (by decide) (by decide) (by decide)

/-- What a lane fault leaves alone, and the flag that it sets. -/
structure LaneFault (t : State) (flag : Fld) : Prop where
  mem : t.mem = s.mem
  vec : t.vec = s.vec
  flag : t.fget flag e.val = 1

variable {s e}

theorem LaneFault.eng {t : State} {flag : Fld} (h : LaneFault s e t flag) (g : Quad) : t.eng g = s.eng g := State.eng_congr h.vec g

/-- Its event changes none of it. -/
theorem LaneFault.quiet {t u : State} {flag : Fld} (h : LaneFault s e t flag) (q : Quiet t u) (l : loud flag.reg = false) : LaneFault s e u flag :=
  ⟨q.mem.trans h.mem, q.vec.trans h.vec, (q.fget flag _ _ l).trans h.flag⟩

variable (s e)

theorem LaneFault.faultRegs {flag : Fld} (h : flag = Fld.VEC_Vn_STATUS_FAULT ∨ flag = Fld.VEC_Vn_STATUS_PARITY) (cause lane : Nat) :
    LaneFault s e (s.faultRegs e flag cause lane) flag :=
  ⟨by simp [State.faultRegs], by simp [State.faultRegs], s.faultRegs_flag e h cause lane⟩

/-- A fault of a slot or a word sets FAULT (R250). -/
theorem LaneFault.vecFault {cause : Nat} (h : cause ≠ 3) (lane : Nat) : LaneFault s e (s.vecFault e cause lane).1 Fld.VEC_Vn_STATUS_FAULT := by
  have start := LaneFault.faultRegs s e (.inl rfl) cause lane
  unfold State.vecFault
  dsimp only
  rw [if_neg h, if_neg h]
  dsimp only
  refine start.quiet (Quiet.event _ _ ?_) rfl
  simp

variable {s e} in
/-- REG_SUSPECT and its event come after a parity error's own (R251). -/
theorem LaneFault.suspect {t : State} (h : LaneFault s e t Fld.VEC_Vn_STATUS_PARITY) {ev : Ev} (sev : ev.sev ≠ 3) :
    LaneFault s e ((t.fset Fld.VEC_Vn_STATE_REG_SUSPECT 1 e.val).event ev) Fld.VEC_Vn_STATUS_PARITY ∧
    ((t.fset Fld.VEC_Vn_STATE_REG_SUSPECT 1 e.val).event ev).fbit Fld.VEC_Vn_STATE_REG_SUSPECT e.val = true := by
  have told := Quiet.event (t.fset Fld.VEC_Vn_STATE_REG_SUSPECT 1 e.val) ev sev
  have marked : LaneFault s e (t.fset Fld.VEC_Vn_STATE_REG_SUSPECT 1 e.val) Fld.VEC_Vn_STATUS_PARITY :=
    ⟨(t.fset_mem _ _ _ _).trans h.mem, (t.fset_vec _ _ _ _).trans h.vec, (t.fget_fset_reg _ _ _ _ _ (by decide)).trans h.flag⟩
  refine ⟨marked.quiet told rfl, ?_⟩
  rw [State.fbit, told.fget _ _ _ rfl, State.fget_fset_same _ _ _ _ _ (by decide) (by decide)]
  rfl

/-- A parity error sets PARITY and REG_SUSPECT (R250, R251). -/
theorem LaneFault.parity (lane : Nat) : LaneFault s e (s.vecFault e 3 lane).1 Fld.VEC_Vn_STATUS_PARITY ∧
    (s.vecFault e 3 lane).1.fbit Fld.VEC_Vn_STATE_REG_SUSPECT e.val = true := by
  have start := LaneFault.faultRegs s e (.inr rfl) 3 lane
  unfold State.vecFault
  dsimp only
  rw [if_pos rfl, if_pos rfl]
  dsimp only
  refine (start.quiet (Quiet.event _ _ ?_) rfl).suspect ?_ <;> simp

end Fault

end Sys2Proof.Machine
end

section
/-! SUPPORT. Tiles, the operand cache and lane faults (O52): what TLD, TST, CLD, CST and GATHER leave in their engine and in memory. -/

namespace Sys2Proof.Machine

open Sys2Proof.Safety

/-! ## Reading and writing through a binding (R245, R248) -/

theorem Touched.touchLanes (s : State) (e : Quad) (x : VecSt) (d : TDesc) (ls : List Nat) : Touched s (s.touchLanes e x d ls).1 := by
  refine foldlFst_rel Touched.refl Touched.trans (fun a l => ?_) ls (s, 0)
  have elem := Touched.readAs a.1 x.part (d.base + d.bitPos (x.elemIx d l) / 8) (ceilDiv (d.bitPos (x.elemIx d l) % 8 + dtBits d.dtype) 8) e.val
  dsimp only
  split
  · exact elem.trans (Touched.readAs _ _ _ _ _)
  · exact elem

section Reading

variable {s t : State} (cells : ∀ a, t.cell a = s.cell a) (tier : t.tier = s.tier)
  (mode : ∀ i p, t.fget Fld.TIER_CFG_MODE i p = s.fget Fld.TIER_CFG_MODE i p)
include cells tier mode

/-- A unit reads the same bytes from memory that has not changed. -/
theorem State.byte_congr (a u : Nat) : t.byte a u = s.byte a u := by
  simp only [State.byte, State.resolve, State.liveObjs, tier, mode, cells]

theorem State.elemVal_congr (d : TDesc) (deq : Nat) (i : Ix) (u : Nat) : t.elemVal d deq i u = s.elemVal d deq i u := by
  simp only [State.elemVal, State.byte_congr cells tier mode]

end Reading

/-- Reads change no value that a later read finds. -/
theorem Touched.elemVal {s t : State} (h : Touched s t) (d : TDesc) (deq : Nat) (i : Ix) (u : Nat) : t.elemVal d deq i u = s.elemVal d deq i u :=
  State.elemVal_congr h.cell h.tier (fun _ _ => h.fget _ _ _ rfl) d deq i u

/-- Counting an instruction changes none either. -/
theorem State.countInstr_elemVal (s : State) (e : Quad) (d : TDesc) (deq : Nat) (i : Ix) (u : Nat) :
    (s.countInstr e).elemVal d deq i u = s.elemVal d deq i u :=
  State.elemVal_congr (KeepsMem.of_mem (s.countInstr_mem e)) (s.wr64_tier _ _ _ _ _)
    (fun i p => s.countInstr_fget e _ i p (by decide) (by decide)) d deq i u

theorem State.writeRuns_vec (s : State) (c : Nat) (rs : List (Nat × List Byte)) : (s.writeRuns c rs).1.vec = s.vec :=
  foldlFst_rel (R := fun s t => t.vec = s.vec) (fun _ => rfl) (fun h k => k.trans h) (f := State.runWritten c)
    (fun a r => (Written.writeAs a.1 c r.1 r.2).vec) rs (s, 0)

/-- Writing a tensor changes no engine. -/
theorem State.writeTensor_vec (s : State) (p : Nat) (d : TDesc) (deq : Nat) (sat : Bool) (xs : List (Ix × FVal)) :
    (s.writeTensor p d deq sat xs).1.vec = s.vec := by
  unfold State.writeTensor
  split
  · exact (foldl_keep _ _ State.vec (fun s _ => s.sqSet_vec _ _ _ _ _) _).trans (s.writeRuns_vec p _)
  · exact s.writeRuns_vec p _

/-- Storing lanes writes the tensor, and of the engines changes only what it will record. -/
theorem State.storeLanes_shows (s : State) (e : Quad) (b : Nat) (ls : List Nat) (v : Nat → FVal) :
    ((s.storeLanes e b ls v).1.eng e).tr = (s.eng e).tr ∧ (∀ g, g ≠ e → (s.storeLanes e b ls v).1.eng g = s.eng g) ∧
    (s.storeLanes e b ls v).1.mem = (s.writeTensor (s.eng e).part ((s.eng e).bind b) ((s.eng e).sws.getD b 0) (satOf (s.eng e).arith)
      (ls.map (fun l => ((s.eng e).elemIx ((s.eng e).bind b) l, v l)))).1.mem := by
  unfold State.storeLanes
  dsimp only
  refine ⟨by rw [State.eng_setEng], fun g n => ?_, State.setEng_mem _ _ _⟩
  rw [State.eng_setEng_ne _ _ n, State.eng_congr (State.writeTensor_vec _ _ _ _ _ _)]

/-! ## Runs without a parity error -/

section Instr

variable {s : State} {e : Quad} {f : VFields}

/-- An instruction that succeeds: what it does after it is counted. -/
theorem State.vRow_of_clean {op : Nat} {t : State} (clean : (s.eng e).badLane op f = none) (run : (s.countInstr e).vClean op e f = (t, 0)) :
    s.vRow op e f = t := by
  have all : s.vInstr op e f = (t, 0) := (State.vInstr_clean clean).trans run
  rw [State.vRow_ok (by rw [all]), all]

/-- A lane fault of an instruction is one of its command. -/
theorem LaneFault.vRow {op : Nat} {flag : Fld} {u : VRes} (run : s.vInstr op e f = u) (h : LaneFault (s.countInstr e) e u.1 flag) :
    LaneFault s e (s.vRow op e f) flag := by
  have ends := OnlyQueues.vRow s op e f
  rw [run] at ends
  exact ⟨ends.mem.trans (h.mem.trans (s.countInstr_mem e)), ends.vec.trans (h.vec.trans (s.wr64_vec _ _ _ _ _)), (ends.fget _ _ _).trans h.flag⟩

/-! ## TLD and TST (R248) -/

/-- The tensor that TLD and TST name. -/
def VecSt.tile (x : VecSt) (f : VFields) : TDesc := x.bind (f.imm % 16)

/-- The reads of TLD, with their status. -/
def State.tileRead (s : State) (e : Quad) (f : VFields) : VRes :=
  (s.countInstr e).touchLanes e (s.eng e) ((s.eng e).tile f) ((s.eng e).active f)

/-- The element of the named tensor for a lane, under the TYPE. -/
def State.tileWord (s : State) (e : Quad) (f : VFields) (l : Nat) : Word :=
  storeVal f.ty (s.elemVal ((s.eng e).tile f) ((s.eng e).sws.getD (f.imm % 16) 0) ((s.eng e).elemIx ((s.eng e).tile f) l) e.val)

/-- The lanes that TST stores: every present one of an MX tensor. -/
def VecSt.storedLanes (x : VecSt) (f : VFields) : List Nat := if isMx (x.tile f).dtype then x.present else x.active f

/-- The write of TST through the conversion of its binding. -/
def State.tileWrite (s : State) (e : Quad) (f : VFields) : State × Nat × LedRec :=
  (s.countInstr e).writeTensor (s.eng e).part ((s.eng e).tile f) ((s.eng e).sws.getD (f.imm % 16) 0) (satOf (s.eng e).arith)
    (((s.eng e).storedLanes f).map (fun l => ((s.eng e).elemIx ((s.eng e).tile f) l, laneVal f.ty ((s.eng e).lane f.sa l))))

/-- TLD of an unbound binding only counts. -/
theorem State.vRow_tld_unbound (unbound : ((s.eng e).tile f).rank = 0) (clean : (s.eng e).badLane 0x40 f = none) :
    s.vRow 0x40 e f = s.countInstr e := by
  refine State.vRow_of_clean clean ?_
  show (s.countInstr e).vLoad e f = _
  rw [State.vLoad, s.countInstr_eng]
  exact if_pos unbound

/-- So does TST. -/
theorem State.vRow_tst_unbound (unbound : ((s.eng e).tile f).rank = 0) (clean : (s.eng e).badLane 0x41 f = none) :
    s.vRow 0x41 e f = s.countInstr e := by
  refine State.vRow_of_clean clean ?_
  show (s.countInstr e).vStore e f = _
  rw [State.vStore, s.countInstr_eng]
  exact if_pos unbound

theorem Touched.tileRead (s : State) (e : Quad) (f : VFields) : Touched (s.countInstr e) (s.tileRead e f).1 := Touched.touchLanes _ _ _ _ _

section Bound

variable (bound : ((s.eng e).tile f).rank ≠ 0)
include bound

/-- TLD of a bound tensor reads its lanes, and writes DST where nothing that it read is poisoned. -/
theorem State.vClean_tld : (s.countInstr e).vClean 0x40 e f = if (s.tileRead e f).2 ≠ 0 then s.tileRead e f
    else ((s.tileRead e f).1.setEng e ((s.eng e).putDst f ((s.tileRead e f).1.loadLane e (s.eng e) (f.imm % 16) f.ty)), 0) := by
  show (s.countInstr e).vLoad e f = _
  rw [State.vLoad, s.countInstr_eng]
  exact if_neg bound

variable (clean : (s.eng e).badLane 0x40 f = none)
include clean

/-- Where something that it read is poisoned, it changes no register. -/
theorem State.vRow_tld_poisoned (bad : (s.tileRead e f).2 ≠ 0) : KeepsMem s (s.vRow 0x40 e f) ∧ (s.vRow 0x40 e f).eng e = s.eng e := by
  have ends := OnlyQueues.vRow s 0x40 e f
  rw [State.vInstr_clean clean, State.vClean_tld bound, if_pos bad] at ends
  have read := Touched.tileRead s e f
  refine ⟨fun a => ?_, ?_⟩
  · rw [ends.cell, read.cell, KeepsMem.of_mem (s.countInstr_mem e)]
  · rw [ends.eng, State.eng_congr read.vec, s.countInstr_eng]

/-- Otherwise it gives the lanes their elements. -/
theorem State.vRow_tld_good (good : (s.tileRead e f).2 = 0) :
    KeepsMem s (s.vRow 0x40 e f) ∧ Lanes s (s.vRow 0x40 e f) e f (s.tileWord e f) := by
  have read := Touched.tileRead s e f
  rw [State.vRow_of_clean clean ((State.vClean_tld bound).trans (if_neg (not_not.mpr good)))]
  refine ⟨fun a => ?_, Lanes.putDst ?_⟩
  · rw [KeepsMem.of_mem (State.setEng_mem _ _ _), read.cell, KeepsMem.of_mem (s.countInstr_mem e)]
  · rw [State.eng_setEng]
    refine VecSt.putDst_congr _ _ fun l _ => ?_
    rw [State.loadLane, read.elemVal, s.countInstr_elemVal]
    rfl

end Bound

/-- TST stores its lanes, and changes no tile register and no other engine. -/
theorem State.vRow_tst_bound (bound : ((s.eng e).tile f).rank ≠ 0) (clean : (s.eng e).badLane 0x41 f = none) :
    ((s.vRow 0x41 e f).eng e).tr = (s.eng e).tr ∧ KeepsMem (s.tileWrite e f).1 (s.vRow 0x41 e f) ∧
    ∀ g, g ≠ e → (s.vRow 0x41 e f).eng g = s.eng g := by
  have run : s.vInstr 0x41 e f =
      (s.countInstr e).storeLanes e (f.imm % 16) ((s.eng e).storedLanes f) (fun l => laneVal f.ty ((s.eng e).lane f.sa l)) := by
    rw [State.vInstr_clean clean]
    show (s.countInstr e).vStore e f = _
    rw [State.vStore, s.countInstr_eng]
    exact if_neg bound
  have ends := OnlyQueues.vRow s 0x41 e f
  rw [run] at ends
  obtain ⟨tr, others, mem⟩ := (s.countInstr e).storeLanes_shows e (f.imm % 16) ((s.eng e).storedLanes f) (fun l => laneVal f.ty ((s.eng e).lane f.sa l))
  rw [s.countInstr_eng] at tr mem
  exact ⟨by rw [ends.eng, tr], KeepsMem.of_mem (ends.mem.trans mem), fun g n => by rw [ends.eng, others g n, s.countInstr_eng]⟩

/-! ## CLD and CST (R253, R254) -/

/-- CLD from a slot of the cache, or with no active lane, writes DST with the words of the slot. -/
theorem State.vRow_cld (inside : (s.eng e).slot f < 4096 ∨ (s.eng e).active f = []) (clean : (s.eng e).badLane 0x42 f = none) :
    s.vRow 0x42 e f = (s.countInstr e).setEng e ((s.eng e).putDst f (fun l => (s.eng e).cacheWord ((s.eng e).slot f * 1024 + l))) := by
  refine State.vRow_of_clean clean ?_
  show (s.countInstr e).vCacheLoad e f = _
  rw [State.vCacheLoad, s.countInstr_eng]
  split
  next none => rw [VecSt.putDst_congr (w := fun l => (s.eng e).cacheWord ((s.eng e).slot f * 1024 + l)) _ _ (by simp [none])]
  next some => rw [if_neg (by simp [some] at inside; omega)]

/-- An engine after CST. -/
def VecSt.cacheStored (x : VecSt) (f : VFields) : VecSt :=
  { x with cache := (x.active f).foldl (fun c l => Sparse.set 0 c (x.slot f * 1024 + l) (x.lane f.sa l)) x.cache
           valid := NSet.insert x.valid (x.slot f)
           bad := x.bad.filter (fun b => !(b.1 == 3 && b.2.1 / 1024 == x.slot f && (x.active f).contains (b.2.1 % 1024))) }

/-- Words written one after another at rising places. -/
theorem Sparse.get_foldl_set (base : Nat) (v : Nat → Word) (ls : List Nat) (c : List (Nat × Word)) (l : Nat) :
    Sparse.get 0 (ls.foldl (fun c k => Sparse.set 0 c (base + k) (v k)) c) (base + l) =
      if l ∈ ls then v l else Sparse.get 0 c (base + l) := by
  induction ls generalizing c with
  | nil => rfl
  | cons k ls ih =>
    rw [List.foldl_cons, ih]
    by_cases e : l = k
    · subst e
      simp
    · rw [Sparse.get_set_ne _ _ _ _ (show base + l ≠ base + k by omega)]
      simp [e]

/-- The words that CST wrote read as its lanes. -/
theorem VecSt.cacheWord_cacheStored (x : VecSt) {f : VFields} {l : Nat} (h : l ∈ x.active f) :
    (x.cacheStored f).cacheWord (x.slot f * 1024 + l) = x.lane f.sa l := by
  have small := VecSt.lt_of_mem_active h
  have slot : (x.slot f * 1024 + l) / 1024 = x.slot f := by omega
  rw [VecSt.cacheWord, slot, VecSt.cacheStored, if_pos (NSet.mem_insert_same _ _), Sparse.get_foldl_set, if_pos h]

/-- CST to a slot of the cache, or with no active lane, changes the cache alone. -/
theorem State.vRow_cst (inside : (s.eng e).slot f < 4096 ∨ (s.eng e).active f = []) (clean : (s.eng e).badLane 0x43 f = none) :
    EngineStep s (s.vRow 0x43 e f) e ∧
    (∀ l ∈ (s.eng e).active f, ((s.vRow 0x43 e f).eng e).cacheWord ((s.eng e).slot f * 1024 + l) = (s.eng e).lane f.sa l) ∧
    ((s.vRow 0x43 e f).eng e).tr = (s.eng e).tr ∧ ((s.vRow 0x43 e f).eng e).mask = (s.eng e).mask := by
  have run : (s.countInstr e).vClean 0x43 e f =
      (if (s.eng e).active f = [] then s.countInstr e else (s.countInstr e).setEng e ((s.eng e).cacheStored f), 0) := by
    show (s.countInstr e).vCacheStore e f = _
    rw [State.vCacheStore, s.countInstr_eng]
    dsimp only
    split
    next none => rw [if_pos none]
    next some => rw [if_neg (by simp [some] at inside; omega), if_neg (by simp [some])]; rfl
  rw [State.vRow_of_clean clean run]
  split
  next none => exact ⟨EngineStep.countInstr s e, by simp [none], by rw [s.countInstr_eng], by rw [s.countInstr_eng]⟩
  next =>
    rw [State.eng_setEng]
    exact ⟨EngineStep.setEng s e _, fun l there => VecSt.cacheWord_cacheStored _ there, rfl, rfl⟩

/-- CLD and CST of a slot outside the cache are lane faults. -/
theorem LaneFault.slot {op : Nat} (h : op = 0x42 ∨ op = 0x43) (some : (s.eng e).active f ≠ []) (outside : 4096 ≤ (s.eng e).slot f)
    (clean : (s.eng e).badLane op f = none) : LaneFault s e (s.vRow op e f) Fld.VEC_Vn_STATUS_FAULT := by
  obtain ⟨l, ls, active⟩ := List.exists_cons_of_ne_nil some
  have run : (s.countInstr e).vClean op e f = (s.countInstr e).vecFault e 0 l := by
    rcases h with rfl | rfl
    · show (s.countInstr e).vCacheLoad e f = _
      simp only [State.vCacheLoad, s.countInstr_eng, active, outside, if_true]
    · show (s.countInstr e).vCacheStore e f = _
      simp only [State.vCacheStore, s.countInstr_eng, active, outside, if_true]
  exact LaneFault.vRow ((State.vInstr_clean clean).trans run) (LaneFault.vecFault _ e (by decide) l)

/-! ## GATHER (R254) -/

/-- Whether every active lane names a word of the cache. -/
def VecSt.gatherOk (x : VecSt) (f : VFields) : Prop := ∀ l ∈ x.active f, (x.lane f.sa l).toNat < 16777216 ∧ (x.lane f.sa l).toNat % 4 = 0

/-- Whether a lane names none. -/
def VecSt.gatherBad (x : VecSt) (f : VFields) (l : Nat) : Bool := 16777216 ≤ (x.lane f.sa l).toNat || (x.lane f.sa l).toNat % 4 != 0

/-- The word that a lane names, read with the TYPE. -/
def VecSt.gathered (x : VecSt) (f : VFields) (l : Nat) : Word := wordAs f.ty (x.cacheWord ((x.lane f.sa l).toNat / 4))

theorem VecSt.gatherOk_iff (x : VecSt) (f : VFields) : x.gatherOk f ↔ (x.active f).find? (x.gatherBad f) = none := by
  simp [gatherOk, gatherBad, List.find?_eq_none]

section Gather

variable (clean : (s.eng e).badLane 0x44 f = none)
include clean

/-- GATHER takes each lane's word. -/
theorem State.vRow_gather_ok (ok : (s.eng e).gatherOk f) :
    s.vRow 0x44 e f = (s.countInstr e).setEng e ((s.eng e).putDst f ((s.eng e).gathered f)) := by
  refine State.vRow_of_clean clean ?_
  show (s.countInstr e).vGatherWord e f = _
  rw [State.vGatherWord, s.countInstr_eng]
  split
  next found => exact absurd (found.symm.trans (((s.eng e).gatherOk_iff f).mp ok)) (by simp)
  next => rfl

/-- A lane that names no word is a lane fault. -/
theorem LaneFault.gather (bad : ¬ (s.eng e).gatherOk f) : LaneFault s e (s.vRow 0x44 e f) Fld.VEC_Vn_STATUS_FAULT := by
  refine LaneFault.vRow (State.vInstr_clean clean) ?_
  show LaneFault _ e ((s.countInstr e).vGatherWord e f).1 _
  rw [State.vGatherWord, s.countInstr_eng]
  split
  next l _ => exact LaneFault.vecFault _ e (by split <;> decide) l
  next found => exact absurd (((s.eng e).gatherOk_iff f).mpr found) bad

end Gather

/-! ## Parity errors (R250, R251) -/

/-- The commands of the instructions that read a register, a mask, an accumulator or the cache, with their opcodes. -/
def parityRows (e : Quad) (f : VFields) : List (Instr × Nat) :=
  [(.vAdd e f, 0x01), (.vSub e f, 0x02), (.vMul e f, 0x03),
      (.vFma e f, 0x04), (.vMin e f, 0x05), (.vMax e f, 0x06), (.vAnd e f, 0x08), (.vOr e f, 0x09), (.vXor e f, 0x0A), (.vAndn e f, 0x0B),
      (.vShl e f, 0x10), (.vShr e f, 0x11), (.vSar e f, 0x12), (.vRshr e f, 0x13), (.vCeq e f, 0x18), (.vCne e f, 0x19), (.vClt e f, 0x1A),
      (.vCle e f, 0x1B), (.vSel e f, 0x1C), (.vMand e f, 0x1D), (.vMor e f, 0x1E), (.vMnot e f, 0x1F), (.vCvt e f, 0x20), (.vExp2 e f, 0x28),
      (.vLog2 e f, 0x29), (.vRcp e f, 0x2A), (.vRsqrt e f, 0x2B), (.vTanh e f, 0x2C), (.vSigm e f, 0x2D), (.vPerm e f, 0x30),
      (.vTrans e f, 0x31), (.vAct e f, 0x38), (.vDact e f, 0x39), (.vTld e f, 0x40), (.vTst e f, 0x41), (.vCld e f, 0x42), (.vCst e f, 0x43),
      (.vGather e f, 0x44), (.vRed e f, 0x48), (.vRget e f, 0x49)]

/-- Each of them is one vector instruction of its opcode (R247). -/
theorem exec_parityRows (s : State) (e : Quad) (f : VFields) : ∀ p ∈ parityRows e f, exec p.1 s = .next (s.vRow p.2 e f) := by
  simp only [parityRows, List.forall_mem_cons, List.not_mem_nil, false_imp_iff, implies_true, and_true]
  repeat' apply And.intro
  all_goals rfl

/-- A parity error that an active lane reads ends the instruction with PARITY and REG_SUSPECT. -/
theorem LaneFault.vRow_parity {op l : Nat} (h : (s.eng e).badLane op f = some l) : LaneFault s e (s.vRow op e f) Fld.VEC_Vn_STATUS_PARITY ∧
    (s.vRow op e f).fbit Fld.VEC_Vn_STATE_REG_SUSPECT e.val = true := by
  obtain ⟨fault, suspect⟩ := LaneFault.parity (s.countInstr e) e l
  have run := State.vInstr_parity h
  have ends := OnlyQueues.vRow s op e f
  rw [run] at ends
  exact ⟨LaneFault.vRow run fault, by rw [State.fbit, ends.fget]; exact suspect⟩

end Instr

/-! ## The statement -/

/-- Settles O52: each instruction's row by what it does after it is counted, and a fault by what `vecFault` shows. -/
theorem tilesAndCache : Obligations.TilesAndCache := by
  unfold Obligations.TilesAndCache
  refine ⟨fun e f s bound clean => ⟨s.vRow 0x40 e f, rfl, ?_⟩, fun e f s unbound => ⟨fun clean => ?_, fun clean => ?_⟩,
    fun e f s bound clean => ⟨s.vRow 0x41 e f, rfl, State.vRow_tst_bound bound clean⟩,
    fun e f s inside clean => ⟨s.vRow 0x42 e f, rfl, ?_⟩, fun e f s inside clean => ⟨s.vRow 0x43 e f, rfl, State.vRow_cst inside clean⟩,
    fun e f s clean => ⟨s.vRow 0x44 e f, rfl, ?_⟩, fun e f s p row some outside clean => ?_,
    fun e f s p l row bad => ⟨s.vRow p.2 e f, exec_parityRows s e f p row, ?_⟩⟩
  · exact ⟨by_cases (fun good => (State.vRow_tld_good bound clean good).1) (fun bad => (State.vRow_tld_poisoned bound clean bad).1),
      fun bad => (State.vRow_tld_poisoned bound clean bad).2, fun good => (State.vRow_tld_good bound clean good).2⟩
  · exact congrArg _ (State.vRow_tld_unbound unbound clean)
  · exact congrArg _ (State.vRow_tst_unbound unbound clean)
  · rw [State.vRow_cld inside clean]
    exact ⟨EngineStep.setEng s e _, Lanes.putDst (State.eng_setEng _ _ _)⟩
  · have step (ok : (s.eng e).gatherOk f) : EngineStep s (s.vRow 0x44 e f) e ∧ Lanes s (s.vRow 0x44 e f) e f ((s.eng e).gathered f) := by
      rw [State.vRow_gather_ok clean ok]
      exact ⟨EngineStep.setEng s e _, Lanes.putDst (State.eng_setEng _ _ _)⟩
    refine ⟨?_, step, fun bad => ⟨(LaneFault.gather clean bad).flag, (LaneFault.gather clean bad).eng e⟩⟩
    by_cases ok : (s.eng e).gatherOk f
    · exact State.vRow_gather_ok clean ok ▸ s.countInstr_mem e
    · exact (LaneFault.gather clean ok).mem
  · simp only [List.mem_cons, List.not_mem_nil, or_false] at row
    rcases row with rfl | rfl
    · have fault := LaneFault.slot (.inl rfl) some outside clean
      exact ⟨_, rfl, fault.flag, fault.mem, fault.eng e⟩
    · have fault := LaneFault.slot (.inr rfl) some outside clean
      exact ⟨_, rfl, fault.flag, fault.mem, fault.eng e⟩
  · obtain ⟨fault, suspect⟩ := LaneFault.vRow_parity bad
    exact ⟨fault.flag, suspect, fault.mem, fault.eng e⟩

end Sys2Proof.Machine
end

section
/-! SUPPORT. Heat (O8): what entry into a thermal state leaves alone (R166, R392), and the state in which the part fails fast. -/

namespace Sys2Proof.Machine

/-! ## Failing fast -/

/-- FAILED, with no command left and every stack in self-refresh (R166, R392, R460). -/
structure FailedFast (t : State) : Prop where
  boot : t.bootState = 0xA
  queues : t.queues = []
  selfRef : ∀ m, (vget t.hbm m).selfRef = true

namespace FailedFast

/-- FAIL on the ports and the records of events change none of it. -/
theorem fail {s t : State} (h : FailedFast s) (k : QuietFail s t) : FailedFast t where
  boot := by rw [State.bootState, State.fget, k.rd _ _ _ rfl (by decide) (by decide)]; exact h.boot
  queues := k.queues.trans h.queues
  selfRef m := by rw [k.hbm]; exact h.selfRef m

theorem quiet {s t : State} (h : FailedFast s) (k : Quiet s t) : FailedFast t := h.fail k.fail

/-- A write of a register but GLB_BOOT changes none of it. -/
theorem fset {s : State} (h : FailedFast s) (f : Fld) (v i a : Nat) (n : f.reg ≠ .GLB_BOOT) : FailedFast (s.fset f v i a) where
  boot := (s.fget_fset_reg _ _ _ _ _ n.symm).trans h.boot
  queues := (s.fset_queues _ _ _ _).trans h.queues
  selfRef m := by rw [State.fset_hbm]; exact h.selfRef m

theorem sqSet {s : State} (h : FailedFast s) (r : RegName) (i a : Nat) (b c : List Fld) (n : r ≠ .GLB_BOOT) : FailedFast (s.sqSet r i a b c) where
  boot := (s.fget_wr_reg _ _ _ _ _ n.symm).trans h.boot
  queues := (s.sqSet_queues _ _ _ _ _).trans h.queues
  selfRef m := by rw [State.sqSet_hbm]; exact h.selfRef m

end FailedFast

/-- Every queue dropped and every stack in self-refresh (R460). -/
def State.unitsStopped (s : State) : State :=
  { s with queues := [], hbm := s.hbm.map (fun x : StackSt => ({ x with selfRef := true } : StackSt)) }

theorem State.stopAll_eq (s : State) : s.stopAll = if s.unitsStopped.bootState = 0xA then s.unitsStopped else s.unitsStopped.enterBoot 0xA := rfl

theorem State.unitsStopped_selfRef (s : State) (m : Quad) : (vget s.unitsStopped.hbm m).selfRef = true := by
  simp [State.unitsStopped, vget, Vector.get_eq_getElem]

/-- Stopping everything is failing fast. -/
theorem FailedFast.stopAll (s : State) : FailedFast s.stopAll := by
  rw [s.stopAll_eq]
  split
  next failed => exact ⟨failed, rfl, s.unitsStopped_selfRef⟩
  next =>
    have told := Quiet.enterBoot s.unitsStopped (st := 0xA) (by decide)
    exact ⟨State.enterBoot_bootState _ (by decide), told.queues, fun m => by rw [told.hbm, State.fset_hbm]; exact s.unitsStopped_selfRef m⟩

/-! ## Entry into a thermal state -/

/-- What entry into thermal states leaves alone. -/
structure Heated (s t : State) : Prop where
  mem : t.mem = s.mem
  quadTemp : t.pwr.quadTemp = s.pwr.quadTemp
  rd : ∀ r i a, loud r = false → r ≠ .LNK_Pp_STATE → r ≠ .EUT_Ek_ADAPTER → r ≠ .GLB_BOOT → r ≠ .PWR_STATUS → t.rd r i a = s.rd r i a

namespace Heated

theorem refl (s : State) : Heated s s := ⟨rfl, rfl, fun _ _ _ _ _ _ _ _ => rfl⟩

theorem trans {s t u : State} (h : Heated s t) (k : Heated t u) : Heated s u :=
  ⟨k.mem.trans h.mem, k.quadTemp.trans h.quadTemp, fun r i a l p e b w => (k.rd r i a l p e b w).trans (h.rd r i a l p e b w)⟩

theorem fail {s t : State} (h : QuietFail s t) : Heated s t := ⟨h.mem, by rw [h.pwr], fun r i a l p e _ _ => h.rd r i a l p e⟩
theorem quiet {s t : State} (h : Quiet s t) : Heated s t := fail h.fail

theorem wr (s : State) (r : RegName) (i a : Nat) (v : Word) (n : r = .GLB_BOOT ∨ r = .PWR_STATUS) : Heated s (s.wr r i a v) := by
  refine ⟨s.wr_mem _ _ _ _, by rw [State.wr_pwr], fun q j c _ _ _ b w => s.rd_wr_reg _ _ _ _ _ ?_⟩
  rintro rfl
  exact n.elim b w

theorem stopAll (s : State) : Heated s s.stopAll := by
  have units : Heated s s.unitsStopped := ⟨rfl, rfl, fun _ _ _ _ _ _ _ _ => rfl⟩
  rw [s.stopAll_eq]
  split
  · exact units
  · exact units.trans ((wr _ .GLB_BOOT _ _ _ (.inl rfl)).trans (quiet (Quiet.enterBoot _ (by decide))))

theorem fget {s t : State} (h : Heated s t) (f : Fld) (i a : Nat) (l : loud f.reg = false) (p : f.reg ≠ .LNK_Pp_STATE) (e : f.reg ≠ .EUT_Ek_ADAPTER)
    (b : f.reg ≠ .GLB_BOOT) (w : f.reg ≠ .PWR_STATUS) : t.fget f i a = s.fget f i a := by rw [State.fget, h.rd _ _ _ l p e b w, State.fget]

end Heated

/-! ## The stacks (R166) -/

theorem Quiet.hbmEvent (s : State) (n : Quad) (c v p q : Nat) (h : v ≠ 3) : Quiet s (s.hbmEvent n c v p q) := Quiet.event s _ h

theorem Heated.holdReset (s : State) : Heated s s.holdReset := ⟨rfl, rfl, fun _ _ _ _ _ _ _ _ => rfl⟩
theorem FailedFast.holdReset {s : State} (h : FailedFast s) : FailedFast s.holdReset := ⟨h.boot, h.queues, h.selfRef⟩

theorem State.holdReset_critHold (s : State) : s.holdReset.pwr.critHold = true := rfl

theorem State.enterStack_three (s : State) (n : Quad) (t : Nat) : s.enterStack n t 3 =
    (s.sendFail 1).stopAll.holdReset.eventFail { code := 0x0709, cls := 5, inst := n.val, sev := 3, p1 := n.val, p2 := t } 1 := rfl

/-- A stack turns critical. -/
theorem State.enterStack_critical (s : State) (n : Quad) (t : Nat) :
    Heated s (s.enterStack n t 3) ∧ FailedFast (s.enterStack n t 3) ∧ (s.enterStack n t 3).pwr.critHold = true := by
  rw [s.enterStack_three]
  have told := QuietFail.eventFail (s.sendFail 1).stopAll.holdReset { code := 0x0709, cls := 5, inst := n.val, sev := 3, p1 := n.val, p2 := t } 1
  refine ⟨?_, (FailedFast.stopAll _).holdReset.fail told, by rw [told.pwr, State.holdReset_critHold]⟩
  exact (((Heated.fail (QuietFail.sendFail s 1)).trans (Heated.stopAll _)).trans (Heated.holdReset _)).trans (Heated.fail told)

theorem Heated.enterStack (s : State) (n : Quad) (t st : Nat) : Heated s (s.enterStack n t st) := by
  have critical := (s.enterStack_critical n t).1
  rw [s.enterStack_three] at critical
  unfold State.enterStack
  split
  · exact .quiet (Quiet.hbmEvent s n _ _ _ _ (by decide))
  · exact .quiet (Quiet.hbmEvent s n _ _ _ _ (by decide))
  · exact critical
  · exact .refl s

/-- The thermal states that a stack enters with a reading, each in turn. -/
def State.enterStacks (s : State) (n : Quad) (t cur st : Nat) : State :=
  (List.range 4).foldl (fun s l => if cur < l ∧ l ≤ st then s.enterStack n t l else s) s

theorem Heated.ite {s t : State} {c : Prop} [Decidable c] (h : Heated s t) : Heated s (if c then t else s) := by
  split
  · exact h
  · exact refl s

theorem Heated.foldl {β : Type} {f : State → β → State} (h : ∀ s x, Heated s (f s x)) (l : List β) (s : State) : Heated s (l.foldl f s) := by
  induction l generalizing s with
  | nil => exact refl s
  | cons x l ih => exact (h s x).trans (ih _)

theorem Heated.enterStacks (s : State) (n : Quad) (t cur st : Nat) : Heated s (s.enterStacks n t cur st) :=
  foldl (fun s l => ite (enterStack s n t l)) _ s

/-- A stack that becomes critical enters that state last. -/
theorem State.enterStacks_critical (s : State) (n : Quad) (t : Nat) {cur : Nat} (h : cur < 3) :
    FailedFast (s.enterStacks n t cur 3) ∧ (s.enterStacks n t cur 3).pwr.critHold = true := by
  rw [State.enterStacks, List.range_succ, List.foldl_append, List.foldl_cons, List.foldl_nil, if_pos ⟨h, le_rfl⟩]
  exact (State.enterStack_critical _ n t).2

/-! ## Thermal states (R166, R392) -/

theorem thermState_lt {warm hot crit cur t : Nat} (h : cur < 4) : thermState warm hot crit cur t < 4 := by
  unfold thermState
  dsimp only
  split_ifs <;> omega

theorem thermState_critical {warm hot crit cur t : Nat} (h : cur < 4) (c : crit ≤ t) : thermState warm hot crit cur t = 3 := by
  unfold thermState
  dsimp only
  rw [if_pos c, if_pos (by omega)]

/-! ## A reading of a stack (R166) -/

section Stack

variable (s : State) (n : Quad) (d : Nat)

/-- The thermal state of a stack after a reading. -/
def State.stackAfter : Nat := thermState 88 95 100 (s.fget Fld.HBM_STACKn_TEMP_STATE n.val) d

/-- The registers of a reading: the temperature, its peak, and the state. -/
def State.stackRead : State :=
  let t := s.fset Fld.HBM_STACKn_TEMP_TEMP (min d 255) n.val
  (t.fset Fld.HBM_STACKn_TEMP_PEAK (max (min d 255) (t.fget Fld.HBM_STACKn_TEMP_PEAK n.val)) n.val).fset Fld.HBM_STACKn_TEMP_STATE (s.stackAfter n d) n.val

theorem exec_hbmTempSample : exec (.hbmTempSample n d) s =
    .next ((s.stackRead n d).enterStacks n d (s.fget Fld.HBM_STACKn_TEMP_STATE n.val) (s.stackAfter n d)) := rfl

theorem State.stackRead_mem : (s.stackRead n d).mem = s.mem := by simp [State.stackRead]

theorem State.stackAfter_lt : s.stackAfter n d < 4 := thermState_lt (bitsOf_lt _ _ _)

variable {d}

theorem State.stackRead_temp (h : d < 256) : (s.stackRead n d).fget Fld.HBM_STACKn_TEMP_TEMP n.val = d := by
  unfold State.stackRead
  dsimp only
  rw [State.fget_fset_ne _ (f := Fld.HBM_STACKn_TEMP_STATE) (g := Fld.HBM_STACKn_TEMP_TEMP) _ _ _ rfl (by decide) (by decide) (by decide) (by decide),
    State.fget_fset_ne _ (f := Fld.HBM_STACKn_TEMP_PEAK) (g := Fld.HBM_STACKn_TEMP_TEMP) _ _ _ rfl (by decide) (by decide) (by decide) (by decide),
    State.fget_fset_same _ _ _ _ _ (by decide) (by decide)]
  show min d 255 % 256 = d
  omega

theorem State.stackRead_peak (h : d < 256) (p : s.fget Fld.HBM_STACKn_TEMP_PEAK n.val < 256) :
    (s.stackRead n d).fget Fld.HBM_STACKn_TEMP_PEAK n.val = max d (s.fget Fld.HBM_STACKn_TEMP_PEAK n.val) := by
  unfold State.stackRead
  dsimp only
  rw [State.fget_fset_ne _ (f := Fld.HBM_STACKn_TEMP_STATE) (g := Fld.HBM_STACKn_TEMP_PEAK) _ _ _ rfl (by decide) (by decide) (by decide) (by decide),
    State.fget_fset_same _ _ _ _ _ (by decide) (by decide),
    State.fget_fset_ne _ (f := Fld.HBM_STACKn_TEMP_TEMP) (g := Fld.HBM_STACKn_TEMP_PEAK) _ _ _ rfl (by decide) (by decide) (by decide) (by decide)]
  show max (min d 255) (s.fget Fld.HBM_STACKn_TEMP_PEAK n.val) % 256 = _
  omega

variable (d)

theorem State.stackRead_state : (s.stackRead n d).fget Fld.HBM_STACKn_TEMP_STATE n.val = s.stackAfter n d := by
  rw [State.stackRead, State.fget_fset_same _ _ _ _ _ (by decide) (by decide)]
  exact Nat.mod_eq_of_lt (s.stackAfter_lt n d)

end Stack

/-! ## The quadrants (R392) -/

theorem Quiet.pwrEvent (s : State) (c v p q : Nat) (h : v ≠ 3) : Quiet s (s.pwrEvent c v p q) := Quiet.event s _ h

theorem Heated.holdResetDie (s : State) : Heated s s.holdResetDie := ⟨rfl, rfl, fun _ _ _ _ _ _ _ _ => rfl⟩
theorem FailedFast.holdResetDie {s : State} (h : FailedFast s) : FailedFast s.holdResetDie := ⟨h.boot, h.queues, h.selfRef⟩

theorem State.holdResetDie_critDie (s : State) : s.holdResetDie.pwr.critDie = true := rfl

theorem State.enterDie_three (s : State) (n : Quad) (t : Nat) : s.enterDie n t 3 =
    (s.sendFail 2).stopAll.holdResetDie.eventFail { code := 0x0C07, cls := 0x0D, inst := 0, sev := 3, p1 := n.val, p2 := t } 2 := rfl

/-- The die target of a hot quadrant (R392). -/
def State.dieLow (s : State) (n : Quad) : State := { s with pwr := { s.pwr with dieT := vset s.pwr.dieT n 0 } }

/-- The part has failed fast for a quadrant, which holds warm reset off. -/
def DieFailed (t : State) : Prop := FailedFast t ∧ t.pwr.critDie = true

/-- A quadrant turns critical. -/
theorem State.enterDie_critical (s : State) (n : Quad) (t : Nat) : Heated s (s.enterDie n t 3) ∧ DieFailed (s.enterDie n t 3) := by
  rw [s.enterDie_three]
  have told := QuietFail.eventFail (s.sendFail 2).stopAll.holdResetDie { code := 0x0C07, cls := 0x0D, inst := 0, sev := 3, p1 := n.val, p2 := t } 2
  refine ⟨?_, (FailedFast.stopAll _).holdResetDie.fail told, by rw [told.pwr, State.holdResetDie_critDie]⟩
  exact (((Heated.fail (QuietFail.sendFail s 2)).trans (Heated.stopAll _)).trans (Heated.holdResetDie _)).trans (Heated.fail told)

theorem Heated.enterDie (s : State) (n : Quad) (t st : Nat) : Heated s (s.enterDie n t st) := by
  have critical := (s.enterDie_critical n t).1
  have low : Heated s (s.dieLow n) := ⟨rfl, rfl, fun _ _ _ _ _ _ _ _ => rfl⟩
  rw [s.enterDie_three] at critical
  unfold State.enterDie
  split
  · exact (wr s .PWR_STATUS _ _ _ (.inr rfl)).trans (.quiet (Quiet.pwrEvent _ _ _ _ _ (by decide)))
  · exact (low.trans (wr _ .PWR_STATUS _ _ _ (.inr rfl))).trans (.quiet (Quiet.pwrEvent _ _ _ _ _ (by decide)))
  · exact critical
  · exact .refl s

namespace DieFailed

theorem quiet {s t : State} (h : DieFailed s) (k : Quiet s t) : DieFailed t := ⟨h.1.quiet k, by rw [k.pwr]; exact h.2⟩

theorem sqSet {s : State} (h : DieFailed s) (r : RegName) (i a : Nat) (b c : List Fld) (n : r ≠ .GLB_BOOT) : DieFailed (s.sqSet r i a b c) :=
  ⟨h.1.sqSet r i a b c n, by rw [State.sqSet_pwr]; exact h.2⟩

theorem setQuad {s : State} (h : DieFailed s) (n st : Nat) : DieFailed (s.setQuad n st) := by
  unfold State.setQuad
  exact ⟨h.1.fset _ _ _ _ (by decide), by rw [State.fset_pwr]; exact h.2⟩

theorem dieLow {s : State} (h : DieFailed s) (n : Quad) : DieFailed (s.dieLow n) := ⟨⟨h.1.boot, h.1.queues, h.1.selfRef⟩, h.2⟩

/-- Once the part has failed fast, a quadrant's entry into any state leaves it so. -/
theorem enterDie {s : State} (h : DieFailed s) (n : Quad) (t st : Nat) : DieFailed (s.enterDie n t st) := by
  have critical := (s.enterDie_critical n t).2
  rw [s.enterDie_three] at critical
  unfold State.enterDie
  split
  · exact (h.sqSet _ _ _ _ _ (by decide)).quiet (Quiet.pwrEvent _ _ _ _ _ (by decide))
  · exact ((h.dieLow n).sqSet _ _ _ _ _ (by decide)).quiet (Quiet.pwrEvent _ _ _ _ _ (by decide))
  · exact critical
  · exact h

end DieFailed


/-- The thermal states that a quadrant enters with a reading, each in turn. -/
def State.enterDies (s : State) (n : Quad) (t cur st : Nat) : State :=
  (List.range 4).foldl (fun s l => if cur < l ∧ l ≤ st then s.enterDie n t l else s) s

theorem Heated.enterDies (s : State) (n : Quad) (t cur st : Nat) : Heated s (s.enterDies n t cur st) :=
  foldl (fun s l => ite (enterDie s n t l)) _ s

theorem DieFailed.ite {s t : State} {c : Prop} [Decidable c] (h : DieFailed s) (k : DieFailed t) : DieFailed (if c then t else s) := by
  split
  · exact k
  · exact h

/-- A fold keeps a property that each of its steps keeps. -/
theorem foldl_holds {β : Type} {P : State → Prop} {f : State → β → State} (keeps : ∀ s x, P s → P (f s x)) (l : List β) {s : State} (h : P s) :
    P (l.foldl f s) := by
  induction l generalizing s with
  | nil => exact h
  | cons x l ih => exact ih (keeps s x h)

theorem DieFailed.enterDies {s : State} (h : DieFailed s) (n : Quad) (t cur st : Nat) : DieFailed (s.enterDies n t cur st) :=
  foldl_holds (fun _ l failed => ite failed (failed.enterDie n t l)) _ h

/-- A quadrant that becomes critical enters that state last. -/
theorem DieFailed.enterDies_critical (s : State) (n : Quad) (t : Nat) {cur : Nat} (h : cur < 3) : DieFailed (s.enterDies n t cur 3) := by
  rw [State.enterDies, List.range_succ, List.foldl_append, List.foldl_cons, List.foldl_nil, if_pos ⟨h, le_rfl⟩]
  exact (State.enterDie_critical _ n t).2

/-! ## Readings of the quadrants (R392) -/

theorem two_pow_two_mul (n : Nat) : 2 ^ (2 * n) = 4 ^ n := by rw [Nat.pow_mul]

/-- The state of a quadrant as a field of the register's word. -/
theorem quad_bits (q n : Nat) : q / 4 ^ n % 4 = bitsOf q (2 * n + 1) (2 * n) := by
  rw [bitsOf, two_pow_two_mul, show 2 * n + 1 + 1 - 2 * n = 2 by omega]
  rfl

/-- The field of the quadrants holds the states of eight. -/
theorem quad_low (q : Nat) (n : Quad) : q % 2 ^ 16 / 4 ^ n.val % 4 = q / 4 ^ n.val % 4 := by
  have cut : (2 : Nat) ^ 16 = 4 ^ n.val * 4 ^ (8 - n.val) := by
    rw [← Nat.pow_add, Nat.add_sub_cancel' (by omega)]
    rfl
  have digit : (4 : Nat) ∣ 4 ^ (8 - n.val) := dvd_pow_self 4 (by omega)
  rw [cut, Nat.mod_mul_right_div_self, Nat.mod_mod_of_dvd _ digit]

/-- Setting the state of a quadrant leaves every other quadrant's alone. -/
theorem State.quadState_setQuad (s : State) (n m : Quad) {st : Nat} (lt : st < 4) :
    (s.setQuad n.val st).quadState m.val = if m = n then st else s.quadState m.val := by
  have small : s.fget Fld.PWR_THERM_STATE_QUAD < 2 ^ 16 := bitsOf_lt _ _ _
  set q := s.fget Fld.PWR_THERM_STATE_QUAD with hq
  have word : (BitVec.ofNat 32 q).toNat = q := by rw [BitVec.toNat_ofNat]; omega
  have top : 4 ^ n.val ≤ 4 ^ 7 := Nat.pow_le_pow_right (by decide) (by omega)
  have set : q - q / 4 ^ n.val % 4 * 4 ^ n.val + st * 4 ^ n.val = (wSet (BitVec.ofNat 32 q) (2 * n.val + 1) (2 * n.val) st).toNat := by
    have bound : st * 4 ^ n.val ≤ 3 * 4 ^ 7 := Nat.mul_le_mul (by omega) top
    have fits : q - q / 4 ^ n.val % 4 * 4 ^ n.val + st * 4 ^ n.val < 2 ^ 32 := by omega
    rw [wSet, word, ← quad_bits, two_pow_two_mul, show 2 * n.val + 1 + 1 - 2 * n.val = 2 by omega, Nat.mod_eq_of_lt (show st < 2 ^ 2 from lt),
      BitVec.toNat_ofNat, Nat.mod_eq_of_lt fits]
  rw [State.setQuad, State.quadState, State.fget_fset_same _ _ _ _ _ (by decide) (by decide), ← hq, set]
  show (wSet (BitVec.ofNat 32 q) (2 * n.val + 1) (2 * n.val) st).toNat % 2 ^ 16 / 4 ^ m.val % 4 = _
  rw [quad_low, quad_bits]
  show wGet _ _ _ = _
  split
  next same =>
    subst same
    rw [wGet_wSet_same _ _ (by omega) (by omega), show 2 * m.val + 1 + 1 - 2 * m.val = 2 by omega]
    exact Nat.mod_eq_of_lt lt
  next other =>
    have apart : m.val ≠ n.val := fun e => other (Fin.ext e)
    rw [wGet_wSet_ne _ _ (by omega) (by omega) (by omega) (by omega), wGet, word, ← quad_bits, State.quadState, ← hq]

/-- The thermal state of a quadrant after a reading. -/
def State.dieAfter (s : State) (n : Quad) (t : Nat) : Nat := thermState 95 102 110 (s.quadState n.val) t

/-- A quadrant's temperature kept. -/
def State.keepTemp (s : State) (n : Quad) (t : Nat) : State := { s with pwr := { s.pwr with quadTemp := vset s.pwr.quadTemp n t } }

/-- The reading of a quadrant and its state. -/
def State.dieRead (s : State) (n : Quad) (t : Nat) : State := (s.keepTemp n t).setQuad n.val (s.dieAfter n t)

theorem State.dieSample_eq (s : State) (n : Quad) (t : Nat) :
    s.dieSample n t = (s.dieRead n t).enterDies n t (s.quadState n.val) (s.dieAfter n t) := rfl

theorem exec_dieTempSample (d : List Nat) (s : State) :
    exec (.dieTempSample d) s = .next ((List.finRange 8).foldl (fun s n => s.dieSample n (d.getD n.val 0)) s) := rfl

theorem State.quadState_lt (s : State) (n : Nat) : s.quadState n < 4 := Nat.mod_lt _ (by decide)

section Die

variable (s : State) (n : Quad) (t : Nat)

theorem State.dieAfter_lt : s.dieAfter n t < 4 := thermState_lt (s.quadState_lt n.val)

theorem State.dieSample_mem : (s.dieSample n t).mem = s.mem := by
  rw [s.dieSample_eq, (Heated.enterDies _ n t _ _).mem]
  exact State.fset_mem _ _ _ _ _

theorem State.dieSample_quadTemp (m : Quad) : vget (s.dieSample n t).pwr.quadTemp m = if m = n then t else vget s.pwr.quadTemp m := by
  have read : (s.dieRead n t).pwr.quadTemp = vset s.pwr.quadTemp n t := congrArg PwrSt.quadTemp (State.fset_pwr _ _ _ _ _)
  rw [s.dieSample_eq, (Heated.enterDies _ n t _ _).quadTemp, read]
  split
  next same => rw [same, vget_vset_same]
  next other => rw [vget_vset_ne _ _ other]

theorem State.dieSample_quadState (m : Quad) : (s.dieSample n t).quadState m.val = if m = n then s.dieAfter n t else s.quadState m.val := by
  rw [s.dieSample_eq, State.quadState, (Heated.enterDies _ n t _ _).fget _ _ _ rfl (by decide) (by decide) (by decide) (by decide)]
  exact State.quadState_setQuad _ n m (s.dieAfter_lt n t)

/-- A quadrant below critical that reads 110 °C or more. -/
theorem State.dieSample_critical (below : s.quadState n.val < 3) (hot : 110 ≤ t) : DieFailed (s.dieSample n t) := by
  rw [s.dieSample_eq, State.dieAfter, thermState_critical (s.quadState_lt n.val) hot]
  exact DieFailed.enterDies_critical _ n t below

variable {s}

theorem DieFailed.dieSample (h : DieFailed s) : DieFailed (s.dieSample n t) := by
  obtain ⟨failed, held⟩ := h
  have kept : DieFailed (s.keepTemp n t) := ⟨⟨failed.boot, failed.queues, failed.selfRef⟩, held⟩
  rw [s.dieSample_eq]
  exact (kept.setQuad n.val (s.dieAfter n t)).enterDies n t _ _

end Die

/-! ## One reading of each quadrant -/

section Fold

variable {γ : Type} {g : State → Quad → γ} {f : State → Quad → State}

/-- What is kept for one quadrant, and changed by its own step alone, is changed once. -/
theorem foldl_own {h : Quad → γ → γ} (own : ∀ s n, g (f s n) n = h n (g s n)) (other : ∀ s n m, m ≠ n → g (f s n) m = g s m) {l : List Quad}
    (once : l.Nodup) (n : Quad) (s : State) : g (l.foldl f s) n = if n ∈ l then h n (g s n) else g s n := by
  induction l generalizing s with
  | nil => rfl
  | cons m l ih =>
    obtain ⟨fresh, once⟩ := List.nodup_cons.mp once
    rw [List.foldl_cons, ih once]
    by_cases e : n = m
    · subst e
      simp [fresh, own]
    · simp [e, other _ _ _ e]

/-- What a quadrant's own step brings about holds at the end, where every step keeps it. -/
theorem foldl_reaches {P : State → Prop} {c : γ → Prop} {n : Quad} (own : ∀ s, c (g s n) → P (f s n)) (other : ∀ s m, n ≠ m → g (f s m) n = g s n)
    (keeps : ∀ s m, P s → P (f s m)) {l : List Quad} (there : n ∈ l) {s : State} (h : c (g s n)) : P (l.foldl f s) := by
  induction l generalizing s with
  | nil => cases there
  | cons m l ih =>
    by_cases e : n = m
    · subst e
      exact foldl_holds keeps l (own s h)
    · exact ih (List.mem_of_ne_of_mem e there) (by rwa [other s m e])

end Fold

/-! ## The statement -/

/-- Settles O8: a reading is a write of its register and the states that it enters, the last of which stops the part. -/
theorem thermalSamples : Obligations.ThermalSamples := by
  unfold Obligations.ThermalSamples
  refine ⟨fun n d s small peak => ⟨_, exec_hbmTempSample s n d, ?_⟩, fun d s => ⟨_, exec_dieTempSample d s, fun n => ?_, fun n => ?_, ?_, ?_⟩⟩
  · have entered := Heated.enterStacks (s.stackRead n d) n d (s.fget Fld.HBM_STACKn_TEMP_STATE n.val) (s.stackAfter n d)
    have field (f : Fld) (reg : f.reg = .HBM_STACKn_TEMP) := entered.fget f n.val 0 (by rw [reg]; rfl) (by rw [reg]; decide) (by rw [reg]; decide)
      (by rw [reg]; decide) (by rw [reg]; decide)
    refine ⟨?_, ?_, ?_, KeepsMem.of_mem (entered.mem.trans (s.stackRead_mem n d)), fun below hot => ?_⟩
    · rw [field _ rfl, s.stackRead_temp n small]
    · rw [field _ rfl, s.stackRead_peak n small peak]
    · rw [field _ rfl, s.stackRead_state n d]; rfl
    · rw [State.stackAfter, thermState_critical (bitsOf_lt _ _ _) hot]
      obtain ⟨failed, held⟩ := State.enterStacks_critical (s.stackRead n d) n d below
      exact ⟨failed.boot, failed.queues, held, failed.selfRef⟩
  · rw [foldl_own (g := fun s n => vget s.pwr.quadTemp n) (h := fun n _ => d.getD n.val 0)
      (fun s n => by rw [s.dieSample_quadTemp, if_pos rfl]) (fun s n m ne => by rw [s.dieSample_quadTemp, if_neg ne]) (List.nodup_finRange 8),
      if_pos (List.mem_finRange n)]
  · rw [foldl_own (g := fun s n => s.quadState n.val) (h := fun n st => thermState 95 102 110 st (d.getD n.val 0))
      (fun s n => by rw [s.dieSample_quadState, if_pos rfl, State.dieAfter]) (fun s n m ne => by rw [s.dieSample_quadState, if_neg ne])
      (List.nodup_finRange 8), if_pos (List.mem_finRange n)]
  · exact KeepsMem.of_mem (foldl_keep _ _ State.mem (fun s n => s.dieSample_mem n _) s)
  · rintro ⟨n, below, hot⟩
    obtain ⟨failed, held⟩ : DieFailed ((List.finRange 8).foldl (fun s n => s.dieSample n (d.getD n.val 0)) s) :=
      foldl_reaches (g := fun s n => s.quadState n.val) (c := (· < 3)) (fun s below => s.dieSample_critical n _ below hot)
        (fun s m ne => by rw [s.dieSample_quadState, if_neg ne]) (fun _ m failed => failed.dieSample m _) (List.mem_finRange n) below
    exact ⟨failed.boot, failed.queues, held, failed.selfRef⟩

end Sys2Proof.Machine
end

section
/-! SUPPORT. The upkeep of a stack (O13): words in error only become fewer (R157 to R162), what SCRUB leaves alone, and the margin sweep (R168). -/

namespace Sys2Proof.Machine

/-! ## Words in error (R157 to R164) -/

/-- No word in error is added. -/
def Heals (s t : State) : Prop := ∀ w, Sparse.find s.mem.errs w = none → Sparse.find t.mem.errs w = none

/-- A key that is erased reads as unlisted, and one that was unlisted stays so. -/
theorem Sparse.find_erase_none {α : Type} {l : List (Nat × α)} {a b : Nat} (h : b = a ∨ Sparse.find l b = none) :
    Sparse.find (Sparse.erase l a) b = none := by
  by_cases e : b = a
  · rw [e, Sparse.find_erase_same]
  · rw [Sparse.find_erase_ne _ e, h.resolve_left e]

namespace Heals

theorem refl (s : State) : Heals s s := fun _ h => h

theorem trans {s t u : State} (h : Heals s t) (k : Heals t u) : Heals s u := fun w e => k w (h w e)

theorem of_mem {s t : State} (h : t.mem = s.mem) : Heals s t := fun w e => by rw [h, e]

theorem wordCe (s : State) (w : Nat) : Heals s (s.wordCe w) := fun v e => by
  rw [State.wordCe, State.sqSet_mem]
  exact Sparse.find_erase_none (.inr e)

end Heals

/-- A corrected word is in error no more (R158). -/
theorem State.wordCe_heals (s : State) (w : Nat) : Sparse.find (s.wordCe w).mem.errs w = none := by
  rw [State.wordCe, State.sqSet_mem]
  exact Sparse.find_erase_same _ _

@[simp] theorem State.hbmEvent_mem (s : State) (n : Quad) (c v p q : Nat) : (s.hbmEvent n c v p q).mem = s.mem := s.event_mem _

theorem State.poisonWord_errs (s : State) (w : Nat) : (s.poisonWord w).mem.errs = Sparse.erase s.mem.errs w := by
  rw [State.poisonWord, State.hbmEvent_mem]
  rfl

theorem Heals.poisonWord (s : State) (w : Nat) : Heals s (s.poisonWord w) := fun v e => by
  rw [s.poisonWord_errs]
  exact Sparse.find_erase_none (.inr e)

@[simp] theorem State.markBank_mem (s : State) (n : Quad) (h : RowHit) : (s.markBank n h).mem = s.mem := by
  unfold State.markBank
  dsimp only
  split <;> simp

@[simp] theorem State.retirePage_mem (s : State) (n : Quad) (h : RowHit) : (s.retirePage n h).mem = s.mem := by
  unfold State.retirePage
  dsimp only
  split_ifs <;> simp

@[simp] theorem State.weakPage_mem (s : State) (n : Quad) (h : RowHit) : (s.weakPage n h).mem = s.mem := by
  unfold State.weakPage
  dsimp only
  split_ifs <;> simp

namespace Heals

theorem foldl {β : Type} {f : State → β → State} (h : ∀ s x, Heals s (f s x)) (l : List β) (s : State) : Heals s (l.foldl f s) := by
  induction l generalizing s with
  | nil => exact refl s
  | cons x l ih => exact (h s x).trans (ih _)

/-- A soft repair corrects or poisons the words of its row (R162). -/
theorem repairRead (s : State) (h : RowHit) : Heals s (s.repairRead h) := by
  refine foldl (fun s e => ?_) _ s
  split
  · exact wordCe s e.1
  · exact poisonWord s e.1

theorem rowCandidate (s : State) (n : Quad) (h : RowHit) (ue : Bool) : Heals s (s.rowCandidate n h ue) := by
  unfold State.rowCandidate
  dsimp only
  split
  · split
    · exact of_mem (s.retirePage_mem n h)
    · exact of_mem (s.weakPage_mem n h)
  · refine trans ?_ (of_mem (State.hbmEvent_mem _ _ _ _ _ _))
    refine trans ?_ (of_mem (State.sqSet_mem _ _ _ _ _ _))
    refine trans ?_ (of_mem (State.addRepair_mem _ _))
    exact trans (of_mem (State.setStack_mem _ _ _)) (repairRead _ _)

end Heals

/-- An uncorrectable word is poisoned, and in error no more (R159). -/
theorem State.wordUe_heals (s : State) (w : Nat) : Heals s (s.wordUe w) ∧ Sparse.find (s.wordUe w).mem.errs w = none := by
  unfold State.wordUe
  split
  · exact ⟨fun v e => Sparse.find_erase_none (.inr e), Sparse.find_erase_same _ _⟩
  · have poisoned : Sparse.find (s.poisonWord w).mem.errs w = none := by rw [s.poisonWord_errs, Sparse.find_erase_same]
    exact ⟨(Heals.poisonWord s w).trans (Heals.rowCandidate _ _ _ _), Heals.rowCandidate _ _ _ _ w poisoned⟩

/-! ## SCRUB (R161) -/

section Scrub

variable (n : Quad)

/-- A word that a pass has read is in error no more. -/
theorem State.scrubWord_heals (s : State) (seen : List RowHit) (w : Nat) :
    Heals s (s.scrubWord n seen w).1 ∧ Sparse.find (s.scrubWord n seen w).1.mem.errs w = none := by
  unfold State.scrubWord
  dsimp only
  split
  next found => exact ⟨Heals.refl s, found⟩
  next =>
    split
    · exact s.wordUe_heals w
    · dsimp only
      split
      · exact ⟨(Heals.wordCe s w).trans (Heals.rowCandidate _ _ _ _), Heals.rowCandidate _ _ _ _ w (s.wordCe_heals w)⟩
      · exact ⟨Heals.wordCe s w, s.wordCe_heals w⟩

theorem Touched.scrubWord (s : State) (seen : List RowHit) (w : Nat) : Touched s (s.scrubWord n seen w).1 := by
  unfold State.scrubWord
  dsimp only
  split
  · exact refl s
  · split
    · exact wordUe s w
    · dsimp only
      split
      · exact (wordCe s w).trans (rowCandidate _ _ _ _)
      · exact wordCe s w

/-- A pass over words. -/
def State.scrubPass (s : State) (ws : List Nat) : State × List RowHit := ws.foldl (fun a w => a.1.scrubWord n a.2 w) (s, [])

theorem Touched.scrubPass (s : State) (ws : List Nat) : Touched s (s.scrubPass n ws).1 :=
  foldlFst_rel refl trans (fun a w => scrubWord n a.1 a.2 w) ws (s, [])

theorem Heals.scrubPass (s : State) (ws : List Nat) : Heals s (s.scrubPass n ws).1 :=
  foldlFst_rel refl trans (fun a w => (a.1.scrubWord_heals n a.2 w).1) ws (s, [])

/-- Every word of the pass is in error no more. -/
theorem State.scrubPass_heals (s : State) {ws : List Nat} {w : Nat} (h : w ∈ ws) : Sparse.find (s.scrubPass n ws).1.mem.errs w = none := by
  have pass (a : State × List RowHit) : Sparse.find (ws.foldl (fun a w => a.1.scrubWord n a.2 w) a).1.mem.errs w = none := by
    induction ws generalizing a with
    | nil => cases h
    | cons v ws ih =>
      rw [List.foldl_cons]
      by_cases e : w = v
      · subst e
        exact foldlFst_rel Heals.refl Heals.trans (fun a w => (a.1.scrubWord_heals n a.2 w).1) ws _ w (a.1.scrubWord_heals n a.2 w).2
      · exact ih (List.mem_of_ne_of_mem e h) _
  exact pass (s, [])

/-- The words in error of a stack. -/
def State.errWords (s : State) : List Nat := (s.mem.errs.map (·.1)).filter (fun w => isHbm (w * 64) && stackOf (w * 64) == n)

/-- After a pass over the words in error of a stack it has none. -/
theorem State.scrubPass_clean (s : State) {w : Nat} (hbm : isHbm (w * 64) = true) (stack : stackOf (w * 64) = n) :
    Sparse.find (s.scrubPass n (s.errWords n)).1.mem.errs w = none := by
  cases found : Sparse.find s.mem.errs w with
  | none => exact Heals.scrubPass n s _ w found
  | some k => exact s.scrubPass_heals n (List.mem_filter.mpr ⟨List.mem_map_of_mem (f := (·.1)) (Sparse.mem_of_find found), by simp [hbm, stack]⟩)

/-- A word with at most two symbols in error changes no byte. -/
theorem Touched.failWord (s : State) {h : ScrubHit} (few : h.symbols < 3) : Touched s (s.failWord h) := by
  unfold State.failWord
  dsimp only
  rw [if_pos few]
  split
  · exact refl s
  · exact withMem s _ rfl rfl rfl

theorem Touched.foldl_of_mem {β : Type} {f : State → β → State} (l : List β) (h : ∀ s, ∀ x ∈ l, Touched s (f s x)) (s : State) :
    Touched s (l.foldl f s) := by
  induction l generalizing s with
  | nil => exact refl s
  | cons x l ih => exact (h s x List.mem_cons_self).trans (ih (fun s y m => h s y (List.mem_cons_of_mem _ m)) _)

theorem Touched.failWords (s : State) {hits : List ScrubHit} (few : ∀ h ∈ hits, h.symbols < 3) : Touched s (hits.foldl (fun s h => s.failWord h) s) :=
  foldl_of_mem hits (fun s h m => failWord s (few h m)) s

variable (hits : List ScrubHit)

/-- The words of a stack that have failed. -/
def stackHits : List ScrubHit := hits.filter (fun h => isHbm h.addr && stackOf h.addr == n)

/-- The state in which a pass begins: what it will see has failed. -/
def State.scrubBegun (s : State) : State := ((stackHits n hits).filter (·.seen)).foldl (fun s h => s.failWord h) s

/-- The state after a pass, with the rows in which it found a correctable error. -/
def State.scrubRead (s : State) : State :=
  let r := (s.scrubBegun n hits).scrubPass n ((s.scrubBegun n hits).errWords n)
  r.1.setStack n { vget r.1.hbm n with scrubCe := r.2 }

/-- The words that the pass did not see have failed too. -/
def State.scrubDone (s : State) : State := ((stackHits n hits).filter (fun h => !h.seen)).foldl (fun s h => s.failWord h) (s.scrubRead n hits)

/-- A pass that overran is noted and reported. -/
def State.scrubLate (s : State) : State :=
  (s.sqSet .HBM_STACKn_STATUS n.val 0 [Fld.HBM_STACKn_STATUS_SCRUB_LATE] []).hbmEvent n 0x0706 1 n.val 0

theorem exec_scrub (late : Bool) (s : State) :
    exec (.scrub n hits late) s = .next (if late then (s.scrubDone n hits).scrubLate n else s.scrubDone n hits) := rfl

theorem exec_scrub_inTime (s : State) : exec (.scrub n hits false) s = .next (s.scrubDone n hits) := by
  rw [exec_scrub, if_neg Bool.false_ne_true]

theorem exec_scrub_late (s : State) : exec (.scrub n hits true) s = .next ((s.scrubDone n hits).scrubLate n) := by
  rw [exec_scrub, if_pos rfl]

theorem Quiet.scrubLate (s : State) : Quiet (s.sqSet .HBM_STACKn_STATUS n.val 0 [Fld.HBM_STACKn_STATUS_SCRUB_LATE] []) (s.scrubLate n) :=
  Quiet.hbmEvent _ n _ _ _ _ (by decide)

theorem Touched.scrubLate (s : State) : Touched s (s.scrubLate n) := (wr s .HBM_STACKn_STATUS n.val 0 _ rfl).trans (Quiet.scrubLate n s).touched

theorem State.scrubLate_mem (s : State) : (s.scrubLate n).mem = s.mem := (Quiet.scrubLate n s).mem.trans (s.sqSet_mem _ _ _ _ _)

theorem State.scrubLate_flag (s : State) : (s.scrubLate n).fget Fld.HBM_STACKn_STATUS_SCRUB_LATE n.val = 1 := by
  rw [(Quiet.scrubLate n s).fget _ _ _ rfl]
  exact State.sqSet_bit s Fld.HBM_STACKn_STATUS_SCRUB_LATE _ _ (by decide) (by decide)

variable {hits}

theorem Touched.scrubDone (s : State) (few : ∀ h ∈ hits, h.symbols < 3) : Touched s (s.scrubDone n hits) := by
  have own : ∀ h ∈ stackHits n hits, h.symbols < 3 := fun h m => few h (List.mem_of_mem_filter m)
  have begun : Touched s (s.scrubBegun n hits) := failWords s fun h m => own h (List.mem_of_mem_filter m)
  have read : Touched s (s.scrubRead n hits) := begun.trans ((scrubPass n _ _).trans (setStack _ n _))
  exact read.trans (failWords _ fun h m => own h (List.mem_of_mem_filter m))

/-- Where a pass sees every word that has failed, its stack has no word in error. -/
theorem State.scrubDone_clean (s : State) (all : ∀ h ∈ hits, h.seen = true) {w : Nat} (hbm : isHbm (w * 64) = true) (stack : stackOf (w * 64) = n) :
    Sparse.find (s.scrubDone n hits).mem.errs w = none := by
  have none : (stackHits n hits).filter (fun h => !h.seen) = [] :=
    List.filter_eq_nil_iff.mpr fun h m => by simp [all h (List.mem_of_mem_filter m)]
  rw [State.scrubDone, none, List.foldl_nil, State.scrubRead, State.setStack_mem]
  exact State.scrubPass_clean n _ hbm stack

theorem KeepsRegs.touched {s t : State} (h : Touched s t) : KeepsRegs s t (fun r => r == .HBM_STACKn_STATUS || r == .HBM_STACKn_RETIRED) := by
  intro r i a n l
  refine h.rd r i a ?_
  unfold hbmLoud
  split
  · simp at n
  · simp at n
  · exact l

end Scrub

/-! ## Windows, refresh and calibration (R160, R161) -/

/-- The byte counts of a stack restarted (R160). -/
def State.windowRestarted (s : State) (n : Quad) : State := s.setStack n { vget s.hbm n with grants := Vector.replicate 5 0 }

theorem exec_regulatorWindow (n : Quad) (s : State) : exec (.regulatorWindow n) s = .next (s.windowRestarted n).drainHost := rfl

theorem exec_calibration (n : Quad) (d : Fin 4) (s : State) :
    exec (.calibration n d) s = .next (s.sqSet .HBM_STACKn_STATUS n.val 0 [Fld.HBM_STACKn_STATUS_CAL_PREEMPT] []) := rfl

theorem exec_refresh (n : Quad) (b : BankPlace) (postpone : Bool) (s : State) :
    exec (.refresh n b postpone) s = .next (s.refresh n (b.pseudo * 64 + b.bank) postpone) := rfl

/-- A refresh that is issued leaves none of the bank's postponed. -/
theorem State.refresh_issued (s : State) (n : Quad) (bank : Nat) :
    Sparse.find (vget (s.refresh n bank false).hbm n).postponed bank = none := by
  rw [State.refresh, State.setStack_stack, if_neg (by simp), Sparse.find_erase_same]

/-- Behind foreground traffic it is postponed once more, up to the limit. -/
theorem State.refresh_postponed (s : State) (n : Quad) (bank : Nat) : Sparse.get 0 (vget (s.refresh n bank true).hbm n).postponed bank =
    if Sparse.get 0 (vget s.hbm n).postponed bank < Config.refreshPostpone then Sparse.get 0 (vget s.hbm n).postponed bank + 1 else 0 := by
  rw [State.refresh, State.setStack_stack]
  split
  next more => rw [if_pos more.2, Sparse.get_insert_same]
  next limit => rw [if_neg (fun more => limit ⟨rfl, more⟩), Sparse.get, Sparse.find_erase_same, Option.getD_none]

/-! ## The margin sweep (R168) -/

section Margin

variable (s : State) (v : Word)

/-- START of a write of HBM_MARGIN_CTRL after READY and during a sweep. -/
def State.marginCross (w : Word) : Word :=
  if s.boot.wasReady then wSet w 0 0 0 else if s.fbit Fld.HBM_MARGIN_CTRL_START then wSet w 0 0 1 else w

/-- HBM_MARGIN_CTRL written. -/
def State.marginSet (view : Nat) : State := s.fieldWrite view .HBM_MARGIN_CTRL 0 0 v s.marginCross

theorem State.marginWrite_eq (view : Nat) : s.marginWrite view v =
    if (s.marginSet v view).fbit Fld.HBM_MARGIN_CTRL_START && wGet v 0 0 == 1
    then (s.marginSet v view).wipeStack ((s.marginSet v view).fget Fld.HBM_MARGIN_CTRL_STACK) else s.marginSet v view := rfl

/-- P0 and the management core write it in the global view. -/
theorem exec_hbmMarginStart {r : Requester} (h : r = .mgc ∨ r = .part 0) : exec (.hbmMarginStart r v) s = .next (s.marginWrite 4 v) := by
  show execHbmMarginStart r v s = _
  rcases h with rfl | rfl
  · rw [execHbmMarginStart]
  · rw [execHbmMarginStart, if_pos (by decide)]

/-- Every other partition is refused. -/
theorem exec_hbmMarginStart_other {q : Part} (h : q.val ≠ 0) : exec (.hbmMarginStart (.part q) v) s = .next (s.accessErr q.val) := by
  show execHbmMarginStart (.part q) v s = _
  rw [execHbmMarginStart, if_neg h]

/-- Beside the register only the clamp report differs. -/
theorem Clamped.marginSet (view : Nat) :
    Clamped (s.wr .HBM_MARGIN_CTRL 0 0 (s.marginCross (rangeWord .HBM_MARGIN_CTRL (s.rd .HBM_MARGIN_CTRL) v))) (s.marginSet v view) :=
  Clamped.recordClamps _ _ _ _ _ _

theorem State.marginSet_mem (view : Nat) : (s.marginSet v view).mem = s.mem := (Clamped.marginSet s v view).mem.trans (s.wr_mem _ _ _ _)

theorem State.marginSet_fget (view : Nat) (f : Fld) (reg : f.reg = .HBM_MARGIN_CTRL) : (s.marginSet v view).fget f =
    wGet (s.marginCross (rangeWord .HBM_MARGIN_CTRL (s.rd .HBM_MARGIN_CTRL) v)) f.hi f.lo := by
  rw [State.fget, reg, (Clamped.marginSet s v view).regs _ _ _ rfl rfl, State.rd_wr_same]

/-- Before READY, a START that is asked for is set. -/
theorem State.marginSet_starts (view : Nat) (ready : s.boot.wasReady = false) (start : wGet v 0 0 = 1) :
    (s.marginSet v view).fget Fld.HBM_MARGIN_CTRL_START = 1 := by
  have asked : wGet (rangeWord .HBM_MARGIN_CTRL (s.rd .HBM_MARGIN_CTRL) v) 0 0 = 1 :=
    (wGet_rangeWord .HBM_MARGIN_CTRL _ _ (f := ⟨0, 0, .rw, 0x0, .full⟩) List.mem_cons_self rfl).trans start
  rw [s.marginSet_fget v view _ rfl, State.marginCross, if_neg (by simp [ready])]
  split
  · exact wGet_wSet_same _ _ (by decide) (by decide)
  · exact asked

/-- After READY it never is. -/
theorem State.marginSet_clamped (view : Nat) (ready : s.boot.wasReady = true) : (s.marginSet v view).fget Fld.HBM_MARGIN_CTRL_START = 0 := by
  rw [s.marginSet_fget v view _ rfl, State.marginCross, if_pos ready]
  exact wGet_wSet_same _ _ (by decide) (by decide)

/-- The bytes of a swept stack read as unwritten memory, and every other byte as before. -/
theorem State.cell_wipeStack {n : Nat} (h : n < 8) (a : Nat) : (s.wipeStack n).cell a =
    if hbmBase + n * 0x2000000000 ≤ a ∧ a < hbmBase + n * 0x2000000000 + 0x2000000000 then memDefault else s.cell a := by
  rw [State.cell, State.cell]
  by_cases t2 : isT2 a = true
  · have outside : ¬ (hbmBase + n * 0x2000000000 ≤ a ∧ a < hbmBase + n * 0x2000000000 + 0x2000000000) := by
      obtain ⟨low, -⟩ : t2Base ≤ a ∧ a < t2End := by simpa [isT2] using t2
      simp only [t2Base, hbmBase] at low ⊢
      omega
    rw [if_pos t2, if_neg outside, if_pos t2]
    rfl
  · rw [if_neg t2, if_neg t2]
    refine (Sparse.get_filter memDefault s.mem.cells
      (fun k => !(decide (hbmBase + n * 0x2000000000 ≤ k) && decide (k < hbmBase + n * 0x2000000000 + 0x2000000000))) a).trans ?_
    by_cases inside : hbmBase + n * 0x2000000000 ≤ a ∧ a < hbmBase + n * 0x2000000000 + 0x2000000000
    · rw [if_pos inside, if_neg (by simp [inside])]
    · rw [if_neg inside, if_pos (by simp; omega)]

/-- A sweep that starts destroys the contents of the stack it names. -/
theorem State.marginWrite_starts (ready : s.boot.wasReady = false) (start : wGet v 0 0 = 1) :
    (s.marginWrite 4 v).fget Fld.HBM_MARGIN_CTRL_START = 1 ∧ ∀ a, (s.marginWrite 4 v).cell a =
      if hbmBase + (s.marginWrite 4 v).fget Fld.HBM_MARGIN_CTRL_STACK * 0x2000000000 ≤ a ∧
        a < hbmBase + (s.marginWrite 4 v).fget Fld.HBM_MARGIN_CTRL_STACK * 0x2000000000 + 0x2000000000 then memDefault else s.cell a := by
  have set := s.marginSet_starts v 4 ready start
  have run : s.marginWrite 4 v = (s.marginSet v 4).wipeStack ((s.marginSet v 4).fget Fld.HBM_MARGIN_CTRL_STACK) := by
    rw [s.marginWrite_eq, if_pos (by simp [State.fbit, set, start])]
  have stack : (s.marginSet v 4).fget Fld.HBM_MARGIN_CTRL_STACK < 8 := bitsOf_lt _ _ _
  rw [run]
  refine ⟨set, fun a => ?_⟩
  rw [State.cell_wipeStack _ stack, KeepsMem.of_mem (s.marginSet_mem v 4) a]
  rfl

/-- After READY the write starts no sweep. -/
theorem State.marginWrite_clamped (ready : s.boot.wasReady = true) :
    (s.marginWrite 4 v).fget Fld.HBM_MARGIN_CTRL_START = 0 ∧ (s.marginWrite 4 v).mem = s.mem := by
  have clear := s.marginSet_clamped v 4 ready
  rw [s.marginWrite_eq, if_neg (by simp [State.fbit, clear])]
  exact ⟨clear, s.marginSet_mem v 4⟩

end Margin

/-! ## The results of a sweep (R168) -/

/-- The result of a channel as its register holds it. -/
def marginResult (res : List (Nat × Nat)) (k : Nat) : Word :=
  BitVec.ofNat 32 (min (res.getD k (0, 0)).1 255 + min (res.getD k (0, 0)).2 255 * 256)

/-- The results of the 32 channels written. -/
def State.marginResults (s : State) (res : List (Nat × Nat)) : State :=
  (List.range 32).foldl (fun s k => s.wr .HBM_MARGIN_RESk k 0 (marginResult res k)) s

theorem exec_hbmMarginSweepEnd {s : State} (res : List (Nat × Nat)) (busy : s.fbit Fld.HBM_MARGIN_CTRL_START = true) :
    exec (.hbmMarginSweepEnd res) s = .next ((s.fset Fld.HBM_MARGIN_CTRL_START 0).marginResults res) := by
  show execHbmMarginSweepEnd res s = _
  rw [execHbmMarginSweepEnd, if_pos busy]
  rfl

/-- Instances of a register written one after another read as they were written. -/
theorem State.rd_foldl_wr (s : State) (r : RegName) (v : Nat → Word) {m : Nat} (few : m ≤ 8192) {k : Nat} (h : k < m) :
    ((List.range m).foldl (fun s k => s.wr r k 0 (v k)) s).rd r k = v k := by
  induction m with
  | zero => omega
  | succ m ih =>
    rw [List.range_succ, List.foldl_append, List.foldl_cons, List.foldl_nil]
    by_cases e : k = m
    · rw [e, State.rd_wr_same]
    · rw [State.rd_wr_ne _ _ (regKey_ne_inst r _ _ (by omega)), ih (by omega) (by omega)]

/-- Results of a byte each, as their registers show them. -/
theorem marginResult_toNat {res : List (Nat × Nat)} (small : ∀ x ∈ res, x.1 < 256 ∧ x.2 < 256) (k : Nat) :
    (marginResult res k).toNat = (res.getD k (0, 0)).1 + (res.getD k (0, 0)).2 * 256 := by
  have both : (res.getD k (0, 0)).1 < 256 ∧ (res.getD k (0, 0)).2 < 256 := by
    rw [List.getD_eq_getElem?_getD]
    cases at_ : res[k]? with
    | none => exact ⟨by decide, by decide⟩
    | some x => exact small x (List.mem_of_getElem? at_)
  rw [marginResult, BitVec.toNat_ofNat]
  omega

/-! ## The statement -/

/-- Settles O13: each command by its lemma, SCRUB by its pass over the words in error and the margin sweep by the write of its register. -/
theorem stackUpkeep : Obligations.StackUpkeep := by
  unfold Obligations.StackUpkeep
  refine ⟨fun n s => ⟨s.windowRestarted n, exec_regulatorWindow n s, State.drainHost_idle, ?_,
      fun m other => vget_vset_ne _ _ other, rfl⟩,
    fun n b s => ⟨_, exec_refresh n b false s, s.refresh_issued n _, rfl, rfl⟩,
    fun n b s => ⟨_, exec_refresh n b true s, rfl, rfl, s.refresh_postponed n _⟩,
    fun n d s => ⟨_, exec_calibration n d s, State.sqSet_bit s Fld.HBM_STACKn_STATUS_CAL_PREEMPT n.val 0 (by decide) (by decide), s.sqSet_mem _ _ _ _ _,
      KeepsRegs.wr s _ _ _ _ rfl⟩,
    fun n hits late s few => ?_,
    fun r v s who ready start => ⟨_, exec_hbmMarginStart s v who, s.marginWrite_starts v ready start⟩,
    fun r v s who ready => ⟨_, exec_hbmMarginStart s v who, s.marginWrite_clamped v ready⟩,
    fun q v s other => exec_hbmMarginStart_other s v other,
    fun res s busy small => ⟨_, exec_hbmMarginSweepEnd res busy, ?_, ?_, fun k lt => ?_⟩⟩
  · rw [State.windowRestarted, State.setStack_stack]
  · have done := Touched.scrubDone n s few
    cases late with
    | false => exact ⟨_, exec_scrub_inTime n hits s, by simp, done.cell, KeepsRegs.touched done, fun all w => s.scrubDone_clean n all⟩
    | true =>
      have last := done.trans (Touched.scrubLate n (s.scrubDone n hits))
      exact ⟨_, exec_scrub_late n hits s, fun _ => State.scrubLate_flag n _, last.cell, KeepsRegs.touched last,
        fun all w hbm stack => (congrArg (fun m => Sparse.find m.errs w) (State.scrubLate_mem n _)).trans (s.scrubDone_clean n all hbm stack)⟩
  · rw [State.fget, State.marginResults, foldl_reg _ _ .HBM_MARGIN_RESk (fun s k r i a ne => s.rd_wr_reg _ _ _ _ _ ne) _ _ _ _ (by decide)]
    exact State.fget_fset_same _ _ _ _ _ (by decide) (by decide)
  · exact (foldl_keep _ _ State.mem (fun s k => s.wr_mem _ _ _ _) _).trans (s.fset_mem _ _ _ _)
  · rw [State.marginResults, State.rd_foldl_wr _ _ _ (by decide) lt, marginResult_toNat small]

end Sys2Proof.Machine
end

section
/-! SUPPORT. A tile that commits (R185, R186, R192, R196): its piece is free and it is counted, its results are in the accumulation buffer, and the last
tile of an output tile drains it. -/

namespace Sys2Proof.Machine

open Sys2Proof.Safety

/-! ## The count of committed tiles (R196) -/

/-- The tiles that an array has committed, as its registers count them. -/
def State.tilesOf (s : State) (n : Nat) : Nat := s.rd64 .ARR_An_TILES_LO .ARR_An_TILES_HI n

section
variable (s : State) (n use : Nat)

@[simp] theorem State.countTile_queues : (s.countTile n use).queues = s.queues := by simp [State.countTile]
@[simp] theorem State.countTile_mem : (s.countTile n use).mem = s.mem := by simp [State.countTile]
@[simp] theorem State.countTile_boot : (s.countTile n use).boot = s.boot := by simp [State.countTile]
@[simp] theorem State.countTile_jobs : (s.countTile n use).arr.jobs = s.arr.jobs := by simp [State.countTile]
@[simp] theorem State.countTile_tiles : (s.countTile n use).arr.tiles = s.arr.tiles := by simp [State.countTile]

theorem State.tilesOf_congr {s t : State} {n : Nat} (lo : t.rd .ARR_An_TILES_LO n = s.rd .ARR_An_TILES_LO n)
    (hi : t.rd .ARR_An_TILES_HI n = s.rd .ARR_An_TILES_HI n) : t.tilesOf n = s.tilesOf n := by
  rw [State.tilesOf, State.rd64, lo, hi, State.tilesOf, State.rd64]

/-- Beside the useful handshakes, a count is one write of the pair. -/
theorem State.countTile_tilesOf (m : Nat) :
    (s.countTile n use).tilesOf m = (s.wr64 .ARR_An_TILES_LO .ARR_An_TILES_HI (s.tilesOf n + 1) n).tilesOf m := by
  unfold State.countTile
  dsimp only
  rw [State.tilesOf, State.rd64_wr64_ne _ _ _ _ _ _ (by decide) (by decide) (by decide) (by decide)]
  rfl

theorem State.countTile_same : (s.countTile n use).tilesOf n = (s.tilesOf n + 1) % 2 ^ 64 := by
  rw [State.countTile_tilesOf, State.tilesOf, State.rd64_wr64_mod _ _ _ _ (by decide)]

theorem State.countTile_ne {m : Nat} (h : m % 8192 ≠ n % 8192) : (s.countTile n use).tilesOf m = s.tilesOf m := by
  rw [State.countTile_tilesOf]
  exact State.tilesOf_congr
    (s.rd_wr64_ne _ (regKey_ne_inst _ _ _ h) (regKey_ne_reg (by decide) _ _ _ _))
    (s.rd_wr64_ne _ (regKey_ne_reg (by decide) _ _ _ _) (regKey_ne_inst _ _ _ h))

end

/-! ## The piece is free and the tile counted (R185, R196) -/

section
variable (s : State) (u : Tile) (p : Plan)

/-- The piece of a tile holds neither it nor its panels any longer. -/
def State.pieceFreed : State :=
  s.setArr { s.arr with
    tiles := s.arr.tiles.filter (fun v => !(v.array == u.array && v.piece == u.piece))
    panels := s.arr.panels.filter (fun v => !(v.array == u.array && v.piece == u.piece)) }

/-- A tile counted on its array, and under PAIRED on both of its pair. -/
def State.tileCounted : State :=
  let cut := (s.arrImg u.array).cut
  let y := s.countTile u.array (tileUse p u.instr 0 (if cut = 5 then 512 else 1024))
  if cut = 5 then y.countTile (y.arrImg u.array).pair (tileUse p u.instr 512 1024) else y

theorem State.pieceFreed_free {v : Tile} (h : v ∈ (s.pieceFreed u).arr.tiles) : v.array ≠ u.array ∨ v.piece ≠ u.piece := by
  have kept := (List.mem_filter.mp h).2
  by_contra same
  obtain ⟨array, piece⟩ := not_or.mp same
  simp [not_not.mp array, not_not.mp piece] at kept

theorem State.pieceFreed_tilesOf (n : Nat) : (s.pieceFreed u).tilesOf n = s.tilesOf n :=
  State.tilesOf_congr (State.setArr_rd _ _ _ _ _) (State.setArr_rd _ _ _ _ _)

theorem State.arrImg_congr {s t : State} (h : t.boot.img = s.boot.img) (n : Nat) : t.arrImg n = s.arrImg n := by simp only [State.arrImg, h]

/-- What is so of a state and kept by a count is so of a state in which a tile is counted. -/
theorem State.tileCounted_of {P : State → Prop} (keeps : ∀ t n use, P t → P (t.countTile n use)) (h : P s) : P (s.tileCounted u p) := by
  unfold State.tileCounted
  dsimp only
  split
  · exact keeps _ _ _ (keeps _ _ _ h)
  · exact keeps _ _ _ h

@[simp] theorem State.tileCounted_queues : (s.tileCounted u p).queues = s.queues :=
  s.tileCounted_of u p (P := fun t => t.queues = s.queues) (fun t n use h => (t.countTile_queues n use).trans h) rfl
@[simp] theorem State.tileCounted_mem : (s.tileCounted u p).mem = s.mem :=
  s.tileCounted_of u p (P := fun t => t.mem = s.mem) (fun t n use h => (t.countTile_mem n use).trans h) rfl
@[simp] theorem State.tileCounted_boot : (s.tileCounted u p).boot = s.boot :=
  s.tileCounted_of u p (P := fun t => t.boot = s.boot) (fun t n use h => (t.countTile_boot n use).trans h) rfl
@[simp] theorem State.tileCounted_jobs : (s.tileCounted u p).arr.jobs = s.arr.jobs :=
  s.tileCounted_of u p (P := fun t => t.arr.jobs = s.arr.jobs) (fun t n use h => (t.countTile_jobs n use).trans h) rfl
@[simp] theorem State.tileCounted_tiles : (s.tileCounted u p).arr.tiles = s.arr.tiles :=
  s.tileCounted_of u p (P := fun t => t.arr.tiles = s.arr.tiles) (fun t n use h => (t.countTile_tiles n use).trans h) rfl

/-- The arrays of a pair have different numbers. -/
def State.PairApart (s : State) (n : Nat) : Prop :=
  (s.arrImg n).cut = 5 → n < 8 ∧ (s.arrImg n).pair < 8 ∧ (s.arrImg n).pair ≠ n

variable {s u} (apart : s.PairApart u.array)
include apart

theorem State.tileCounted_tilesOf : (s.tileCounted u p).tilesOf u.array = (s.tilesOf u.array + 1) % 2 ^ 64 := by
  unfold State.tileCounted
  dsimp only
  split
  · next paired =>
    obtain ⟨low, lowPair, ne⟩ := apart paired
    rw [State.arrImg_congr (congrArg _ (State.countTile_boot _ _ _)), State.countTile_ne _ _ _ (by omega), State.countTile_same]
  · exact State.countTile_same _ _ _

theorem State.tileCounted_pair (paired : (s.arrImg u.array).cut = 5) :
    (s.tileCounted u p).tilesOf (s.arrImg u.array).pair = (s.tilesOf (s.arrImg u.array).pair + 1) % 2 ^ 64 := by
  obtain ⟨low, lowPair, ne⟩ := apart paired
  unfold State.tileCounted
  dsimp only
  rw [if_pos paired, State.arrImg_congr (congrArg _ (State.countTile_boot _ _ _)), State.countTile_same, State.countTile_ne _ _ _ (by omega)]

end

/-! ## The accumulation buffer (R173, R192) -/

/-- What writing results to the accumulation buffer leaves alone. -/
structure Accumulated (s t : State) : Prop where
  queues : t.queues = s.queues
  img : t.boot.img = s.boot.img
  jobs : t.arr.jobs = s.arr.jobs
  tiles : t.arr.tiles = s.arr.tiles
  rd : ∀ r i a, hbmLoud r = false → t.rd r i a = s.rd r i a

namespace Accumulated

theorem refl (s : State) : Accumulated s s := ⟨rfl, rfl, rfl, rfl, fun _ _ _ _ => rfl⟩

theorem trans {s t u : State} (h : Accumulated s t) (k : Accumulated t u) : Accumulated s u :=
  ⟨k.queues.trans h.queues, k.img.trans h.img, k.jobs.trans h.jobs, k.tiles.trans h.tiles, fun r i a l => (k.rd r i a l).trans (h.rd r i a l)⟩

theorem written {s t : State} (h : Written s t) : Accumulated s t :=
  ⟨h.queues, h.img, congrArg _ h.arr, congrArg _ h.arr, h.rd⟩

end Accumulated

theorem leBytes_length (n v : Nat) : (leBytes n v).length = n := by
  induction n generalizing v with
  | zero => rfl
  | succ n ih => rw [leBytes, List.length_cons, ih]

theorem State.accBase_congr {s t : State} (h : t.boot.img = s.boot.img) (g : Grp) (k : Nat) : t.accBase g k = s.accBase g k := by
  simp only [State.accBase, State.arrImg_congr h]

section
variable (s : State) (g : Grp) (int : Bool) (res : List (FVal × Bool))

/-- One result written: `putAcc` is these in turn. -/
def State.putOne (s : State) (k : Nat) : State :=
  let (v, sat) := res.getD k (.nan, false)
  let a := s.accBase g k
  let w := if int then BitVec.ofNat 32 (encodeElem 0x0F true v) else f32Of v
  let s := (s.writePhys a (leBytes 4 w.toNat)).1
  s.setArr { s.arr with satd := if sat then NSet.insert s.arr.satd a else NSet.erase s.arr.satd a }

theorem State.putAcc_eq : s.putAcc g int res = (List.range res.length).foldl (State.putOne g int res) s := rfl

theorem Accumulated.putOne (k : Nat) : Accumulated s (State.putOne g int res s k) :=
  (Accumulated.written (Written.writePhys s _ _)).trans ⟨rfl, rfl, rfl, rfl, fun _ _ _ _ => rfl⟩

theorem Accumulated.putAcc : Accumulated s (s.putAcc g int res) :=
  foldl_holds (P := Accumulated s) (fun t k h => h.trans (Accumulated.putOne t g int res k)) _ (Accumulated.refl s)

/-- One result changes no byte but those of its word. -/
theorem State.cell_putOne {k y : Nat} (out : y < s.accBase g k ∨ s.accBase g k + 4 ≤ y) : (State.putOne g int res s k).cell y = s.cell y := by
  unfold State.putOne
  show ((s.writePhys (s.accBase g k) (leBytes 4 _)).1).cell y = s.cell y
  rw [State.cell_writePhys, leBytes_length, if_neg (by omega)]

/-- Results change no byte but those of their words. -/
theorem State.cell_putAcc {y : Nat} (out : ∀ k < res.length, y < s.accBase g k ∨ s.accBase g k + 4 ≤ y) :
    (s.putAcc g int res).cell y = s.cell y := by
  rw [State.putAcc_eq]
  refine (List.foldlRecOn (motive := fun t => Accumulated s t ∧ t.cell y = s.cell y) _ _ ⟨Accumulated.refl s, rfl⟩
    fun t ⟨kept, same⟩ k mem => ⟨kept.trans (Accumulated.putOne t g int res k), ?_⟩).2
  rw [State.cell_putOne _ _ _ _ (by rw [State.accBase_congr kept.img]; exact out k (List.mem_range.mp mem)), same]

end

/-! ## The results in place (R185, R192) -/

/-- A group after one of its tiles commits. -/
def Job.groupAfter (j : Job) (u : Tile) : Grp := { (Sparse.find j.grps u.grp).getD default with done := u.idx + 1, busy := false }

/-- Its job then. -/
def Job.tileDone (j : Job) (u : Tile) : Job := { j with grps := Sparse.insert j.grps u.grp (j.groupAfter u) }

/-- The state in which a tile is counted, its piece free, and its results in the accumulation buffer; those of an element-wise tile do not go there. -/
def State.resultsIn (s : State) (u : Tile) (j : Job) (c : Cmd) (p : Plan) : State :=
  let y := (s.pieceFreed u).tileCounted u p
  if p.flow = 3 then y else y.putAcc (j.groupAfter u) (intProduct c) u.results

section
variable (s : State) (u : Tile) (j : Job) (c : Cmd) (p : Plan)

theorem Accumulated.resultsIn : Accumulated ((s.pieceFreed u).tileCounted u p) (s.resultsIn u j c p) := by
  unfold State.resultsIn
  dsimp only
  split
  · exact Accumulated.refl _
  · exact Accumulated.putAcc _ _ _ _

theorem State.resultsIn_queues : (s.resultsIn u j c p).queues = s.queues := by
  rw [(Accumulated.resultsIn s u j c p).queues, State.tileCounted_queues]
  rfl

theorem State.resultsIn_job (r : CmdRef) : (s.resultsIn u j c p).job r = s.job r := by
  rw [State.job, (Accumulated.resultsIn s u j c p).jobs, State.tileCounted_jobs]
  rfl

/-- Only words of the group in the accumulation buffer are written. -/
theorem State.resultsIn_cell {y : Nat} (out : ∀ k < u.results.length, y < s.accBase (j.groupAfter u) k ∨ s.accBase (j.groupAfter u) k + 4 ≤ y) :
    (s.resultsIn u j c p).cell y = s.cell y := by
  have img : ((s.pieceFreed u).tileCounted u p).boot.img = s.boot.img := congrArg _ (State.tileCounted_boot _ u p)
  have before : ((s.pieceFreed u).tileCounted u p).cell y = s.cell y :=
    KeepsMem.of_mem ((State.tileCounted_mem _ u p).trans (State.setArr_mem _ _)) y
  unfold State.resultsIn
  dsimp only
  split
  · exact before
  · rw [State.cell_putAcc _ _ _ _ (fun k lt => by rw [State.accBase_congr img]; exact out k lt), before]

/-- What a commit shows of its tile: the piece is free, and the counts of its array, or of both of a pair, have risen. -/
structure Counted (s t : State) (u : Tile) : Prop where
  free : ∀ v ∈ t.arr.tiles, v.array ≠ u.array ∨ v.piece ≠ u.piece
  count : t.tilesOf u.array = (s.tilesOf u.array + 1) % 2 ^ 64
  pair : (s.arrImg u.array).cut = 5 → t.tilesOf (s.arrImg u.array).pair = (s.tilesOf (s.arrImg u.array).pair + 1) % 2 ^ 64

variable {s u}

/-- It lasts while no tile is issued and the counts stay. -/
theorem Counted.keep {x t : State} (h : Counted s x u) (tiles : t.arr.tiles ⊆ x.arr.tiles) (counts : ∀ n, t.tilesOf n = x.tilesOf n) :
    Counted s t u :=
  ⟨fun v m => h.free v (tiles m), (counts _).trans h.count, fun paired => (counts _).trans (h.pair paired)⟩

theorem Counted.resultsIn (apart : s.PairApart u.array) : Counted s (s.resultsIn u j c p) u := by
  have counted : Counted s ((s.pieceFreed u).tileCounted u p) u := by
    refine ⟨fun v m => s.pieceFreed_free u (by rwa [State.tileCounted_tiles] at m), ?_, fun paired => ?_⟩
    · rw [State.tileCounted_tilesOf (s := s.pieceFreed u) p apart, State.pieceFreed_tilesOf]
    · rw [← State.pieceFreed_tilesOf s u]
      exact State.tileCounted_pair (s := s.pieceFreed u) p apart paired
  have kept := Accumulated.resultsIn s u j c p
  exact counted.keep (fun v m => kept.tiles ▸ m) fun n => State.tilesOf_congr (kept.rd _ _ _ rfl) (kept.rd _ _ _ rfl)

end

/-! ## The output tile drains (R176, R186) -/

theorem Touched.seedRead (s : State) (q n : Nat) (c : Cmd) (p : Plan) (grp : Nat) : Touched s (s.seedRead q n c p grp).1 := by
  unfold State.seedRead
  split
  · dsimp only
    exact foldlFst_rel Touched.refl Touched.trans (fun a x => Touched.readAs a.1 q x.1 x.2 n) _ (s, false)
  · exact Touched.refl s

theorem State.writeRuns_arr (s : State) (q : Nat) (rs : List (Nat × List Byte)) : (s.writeRuns q rs).1.arr = s.arr :=
  foldlFst_rel (R := fun s t => t.arr = s.arr) (fun _ => rfl) (fun h k => k.trans h) (f := State.runWritten q)
    (fun a r => (Written.writeAs a.1 q r.1 r.2).arr) rs (s, 0)

/-- Writing a tensor changes nothing of the arrays' state. -/
theorem State.writeTensor_arr (s : State) (q : Nat) (d : TDesc) (deq : Nat) (sat : Bool) (xs : List (Ix × FVal)) :
    (s.writeTensor q d deq sat xs).1.arr = s.arr := by
  unfold State.writeTensor
  split
  · exact (foldl_keep _ _ State.arr (fun s _ => s.sqSet_arr _ _ _ _ _) _).trans (s.writeRuns_arr q _)
  · exact s.writeRuns_arr q _

/-- The end of a drained output tile: a status fails the command, the last output tile ends it, and any other leaves it its job. -/
def State.drainEnd (x : State) (r : CmdRef) (j : Job) (c : Cmd) (out st : Nat) : State :=
  if st ≠ 0 then (x.dropJob r).failRun r c st
  else if j.drained = out then (x.dropJob r).finish r c
  else (x.setJob j).setCmd r.part.val r.queue.val c

section
variable (x : State) (r : CmdRef) (j : Job) (c : Cmd) (out st : Nat)

theorem State.drainEnd_rd (q : RegName) (i a : Nat) : (x.drainEnd r j c out st).rd q i a = x.rd q i a := by
  unfold State.drainEnd
  split_ifs <;> exact State.setCmd_rd _ _ _ _ _ _ _

theorem State.drainEnd_tiles : (x.drainEnd r j c out st).arr.tiles ⊆ x.arr.tiles := by
  unfold State.drainEnd
  split_ifs
  · exact List.filter_subset_self _
  · exact List.filter_subset_self _
  · exact List.Subset.refl _

variable {x r j c out st}

/-- The command ends with its last output tile or with the status of a failed write, or its job goes on. -/
theorem State.drainEnd_ends {d : Cmd} {k : Job} (cmd : x.cmdAt r.part.val r.queue.val r.slot = some d) (slot : c.slot = r.slot)
    (job : x.job r = some k) (ref : j.ref = r) :
    (∃ n, CmdEnded (x.drainEnd r j c out st) r n ∧ (x.drainEnd r j c out st).job r = none ∧ (n = 0 → j.drained = out)) ∨
    (x.drainEnd r j c out st).job r = some j := by
  have dropped (y : Cmd) : ((x.dropJob r).setCmd r.part.val r.queue.val y).job r = none :=
    (State.job_congr (State.setCmd_arr _ _ _ _) r).trans (x.dropJob_job r)
  unfold State.drainEnd
  split_ifs with failed last
  · exact .inl ⟨st, CmdEnded.failRun cmd slot st, dropped _, fun zero => absurd zero failed⟩
  · exact .inl ⟨c.fail, ⟨_, State.cmdAt_setCmd_same cmd _ slot, rfl, rfl⟩, dropped _, fun _ => last⟩
  · exact .inr ((State.job_congr (State.setCmd_arr _ _ _ _) r).trans (State.job_setJob_same job j ref))

end

/-- The output tile of a group drains: its seeds are read, its values written to the output, its groups give up their regions (R176, R184, R186). -/
def State.drain (s : State) (u : Tile) (j : Job) (c : Cmd) (p : Plan) : State :=
  let out := u.grp / p.split
  let read := s.seedRead u.ref.part.val u.array c p u.grp
  let vals := if p.flow = 3 then ewVals c p u.grp u.results else read.1.drainVals c p j out
  let wrote := read.1.writeTensor u.ref.part.val (c.desc 2) (c.sw 2) (satOf c.arith) vals
  let free := (List.range p.split).foldl (fun gs k =>
    match Sparse.find gs (out * p.split + k) with
    | some x => Sparse.insert gs (out * p.split + k) { x with units := 0 }
    | none => gs) j.grps
  wrote.1.drainEnd u.ref { j with grps := free, drained := j.drained + 1 } (c.record (c.desc 2) wrote.2.2) p.outTiles
    (if read.2 then 0x0701 else wrote.2.1)

/-- What draining does to the state, and how it ends. -/
theorem State.drain_ends (s : State) (u : Tile) (j : Job) (c : Cmd) (p : Plan) : ∃ x k d st,
    Produced s x ∧ x.arr = s.arr ∧ k.ref = j.ref ∧ k.drained = j.drained + 1 ∧ d.slot = c.slot ∧
    s.drain u j c p = x.drainEnd u.ref k d p.outTiles st := by
  have seeds := Touched.seedRead s u.ref.part.val u.array c p u.grp
  refine ⟨_, _, _, _, ?_, ?_, ?_, ?_, ?_, rfl⟩
  · exact (Produced.touched seeds).trans (Produced.writeTensor _ _ _ _ _ _)
  · rw [State.writeTensor_arr, seeds.arr]
  · rfl
  · rfl
  · exact Cmd.record_slot _ _ _

/-! ## TILE_COMMIT -/

/-- The tile in flight on a piece. -/
def State.tileOn (s : State) (a : Quad) (piece : Nat) : Option Tile :=
  s.arr.tiles.find? (fun v => v.array == s.leadOf a.val && v.piece == piece)

/-- The schedule under which a tile commits. -/
def State.tilePlan (s : State) (u : Tile) (c : Cmd) : Plan := planOf c (s.arrImg u.array).cut

/-- Whether a tile is the last of its output tile: FINAL of its bytes (R185). -/
def Tile.final (u : Tile) : Bool := bitOf (fieldAt u.instr 0 1) 3

/-- A commit in two steps: the results are in, then the output tile drains or the group goes on. -/
theorem State.tileCommit_eq (s : State) (u : Tile) (j : Job) (c : Cmd) :
    s.tileCommit u j c =
      if u.final then (s.resultsIn u j c (s.tilePlan u c)).drain u (j.tileDone u) c (s.tilePlan u c)
      else (s.resultsIn u j c (s.tilePlan u c)).setJob (j.tileDone u) := rfl

section
variable {s : State} {a : Quad} {piece : Nat}

theorem exec_tileCommit {u : Tile} {j : Job} {c : Cmd} (found : s.tileOn a piece = some u) (job : s.job u.ref = some j)
    (cmd : s.cmdAt u.ref.part.val u.ref.queue.val u.ref.slot = some c) :
    exec (.tileCommit a piece) s = .next (s.tileCommit u j c) := by
  unfold State.tileOn at found
  show execTileCommit a piece s = _
  simp only [execTileCommit, found, job, cmd]

/-- Without a tile in flight there whose command and job stand, nothing commits. -/
theorem exec_tileCommit_none (h : ∀ u, s.tileOn a piece = some u →
      s.job u.ref = none ∨ s.cmdAt u.ref.part.val u.ref.queue.val u.ref.slot = none) :
    exec (.tileCommit a piece) s = .next s := by
  unfold State.tileOn at h
  show execTileCommit a piece s = _
  cases found : s.arr.tiles.find? (fun v => v.array == s.leadOf a.val && v.piece == piece) with
  | none => simp only [execTileCommit, found]
  | some u =>
    rcases h u found with job | cmd
    · simp only [execTileCommit, found, job]
    · cases job : s.job u.ref <;> simp only [execTileCommit, found, job, cmd]

end

section
variable {s : State} {u : Tile} {j : Job} {c : Cmd}

/-- On either way its piece is free and it is counted (R185, R196). -/
theorem Counted.tileCommit (apart : s.PairApart u.array) : Counted s (s.tileCommit u j c) u := by
  have counted := Counted.resultsIn j c (s.tilePlan u c) apart
  rw [State.tileCommit_eq]
  split
  · obtain ⟨x, k, d, st, made, arr, -, -, -, drains⟩ :=
      State.drain_ends (s.resultsIn u j c (s.tilePlan u c)) u (j.tileDone u) c (s.tilePlan u c)
    rw [drains]
    refine counted.keep (fun v m => arr ▸ State.drainEnd_tiles _ _ _ _ _ _ m) fun n => State.tilesOf_congr ?_ ?_
    · rw [State.drainEnd_rd, made.rd _ _ _ rfl (by decide)]
    · rw [State.drainEnd_rd, made.rd _ _ _ rfl (by decide)]
  · exact counted.keep (List.Subset.refl _) fun n => rfl

variable (job : s.job u.ref = some j)
include job

/-- A tile that is not the last of its output tile: its words are written and its group goes on (R185). -/
theorem State.tileCommit_goesOn (h : u.final = false) :
    (s.tileCommit u j c).queues = s.queues ∧ (s.tileCommit u j c).job u.ref = some (j.tileDone u) ∧
    ∀ y, (∀ k < u.results.length, y < s.accBase (j.groupAfter u) k ∨ s.accBase (j.groupAfter u) k + 4 ≤ y) →
      (s.tileCommit u j c).cell y = s.cell y := by
  rw [State.tileCommit_eq, if_neg (by simp [h])]
  have ref : (j.tileDone u).ref = u.ref := (State.job_ref job : j.ref = u.ref)
  exact ⟨s.resultsIn_queues u j c _, State.job_setJob_same ((s.resultsIn_job u j c _ _).trans job) _ ref,
    fun y out => s.resultsIn_cell u j c _ out⟩

/-- The last one: its command ends or its job has drained one output tile more (R185, R186). -/
theorem State.tileCommit_drains (cmd : s.cmdAt u.ref.part.val u.ref.queue.val u.ref.slot = some c) (h : u.final = true) :
    (∃ n, CmdEnded (s.tileCommit u j c) u.ref n ∧ (s.tileCommit u j c).job u.ref = none ∧
      (n = 0 → j.drained + 1 = (s.tilePlan u c).outTiles)) ∨
    (∃ k, (s.tileCommit u j c).job u.ref = some k ∧ k.drained = j.drained + 1) := by
  rw [State.tileCommit_eq, if_pos h]
  obtain ⟨x, k, d, st, made, arr, ref, one, slot, drains⟩ :=
    State.drain_ends (s.resultsIn u j c (s.tilePlan u c)) u (j.tileDone u) c (s.tilePlan u c)
  have there : x.cmdAt u.ref.part.val u.ref.queue.val u.ref.slot = some c :=
    (State.cmdAt_congr (made.queues.trans (s.resultsIn_queues u j c _)) _ _ _).trans cmd
  have held : x.job u.ref = some j := (State.job_congr arr _).trans ((s.resultsIn_job u j c _ _).trans job)
  rw [drains]
  rcases State.drainEnd_ends (out := (s.tilePlan u c).outTiles) (st := st) there (slot.trans (State.cmdAt_slot cmd)) held
    (ref.trans (State.job_ref job : j.ref = u.ref)) with ⟨n, ended, gone, last⟩ | goes
  · exact .inl ⟨n, ended, gone, fun zero => one ▸ last zero⟩
  · exact .inr ⟨k, goes, one⟩

end

end Sys2Proof.Machine
end

section
/-! SUPPORT. A fault in the tile in flight (R191 to R193): its bytes are kept; the first reissues it, the second marks its facet suspect and fails its
command; O49 from this and from commits. -/

namespace Sys2Proof.Machine

open Sys2Proof.Safety

/-! ## The bytes of the tile -/

/-- Instances of a register written one after another from `b` on read as they were written. -/
theorem State.rd_foldl_wr_from (s : State) (r : RegName) (b : Nat) (v : Nat → Word) {m : Nat} (few : b + m ≤ 8192) {k : Nat} (h : k < m) :
    ((List.range m).foldl (fun s k => s.wr r (b + k) 0 (v k)) s).rd r (b + k) = v k := by
  induction m with
  | zero => omega
  | succ m ih =>
    rw [List.range_succ, List.foldl_append, List.foldl_cons, List.foldl_nil]
    by_cases e : k = m
    · rw [e, State.rd_wr_same]
    · rw [State.rd_wr_ne _ _ (regKey_ne_inst r _ _ (by omega)), ih (by omega) (by omega)]

/-- The 16 bytes of a tile kept as those of the last fault of an array (R192). -/
def State.faultKept (s : State) (n : Nat) (u : Tile) : State :=
  (List.range 4).foldl (fun s w => s.wr .ARR_An_LASTFAULTw (n * 4 + w) 0 (BitVec.ofNat 32 (fieldAt u.instr (4 * w) 4))) s

section
variable (s : State) (n : Nat) (u : Tile)

@[simp] theorem State.faultKept_arr : (s.faultKept n u).arr = s.arr := foldl_keep _ _ State.arr (fun s _ => s.wr_arr _ _ _ _) s
@[simp] theorem State.faultKept_mem : (s.faultKept n u).mem = s.mem := foldl_keep _ _ State.mem (fun s _ => s.wr_mem _ _ _ _) s
@[simp] theorem State.faultKept_queues : (s.faultKept n u).queues = s.queues := foldl_queues (fun s _ => s.wr_queues _ _ _ _) _ s

theorem State.faultKept_rd {r : RegName} (h : r ≠ .ARR_An_LASTFAULTw) (i a : Nat) : (s.faultKept n u).rd r i a = s.rd r i a :=
  foldl_reg _ _ .ARR_An_LASTFAULTw (fun s _ _ _ _ ne => s.rd_wr_reg _ _ _ _ _ ne) s r i a h

/-- The array shows the bytes of the tile. -/
def State.ShowsTile (s : State) (n : Nat) (u : Tile) : Prop :=
  ∀ w < 4, (s.rd .ARR_An_LASTFAULTw (n * 4 + w)).toNat = fieldAt u.instr (4 * w) 4

variable {n} in
theorem State.faultKept_shows (h : n < 8) : (s.faultKept n u).ShowsTile n u := fun w lt => by
  rw [State.faultKept, State.rd_foldl_wr_from s _ _ _ (by omega) lt, BitVec.toNat_ofNat]
  exact Nat.mod_eq_of_lt (fieldAt_lt u.instr (4 * w) 4)

variable {s n u} in
theorem State.ShowsTile.keep {t : State} (h : s.ShowsTile n u) (k : ∀ i, t.rd .ARR_An_LASTFAULTw i = s.rd .ARR_An_LASTFAULTw i) : t.ShowsTile n u :=
  fun w lt => (congrArg BitVec.toNat (k _)).trans (h w lt)

end

/-! ## What a fault does (R192, R193) -/

/-- A tile reissued, with its results as they were. -/
def State.reissued (s : State) (n : Nat) (u : Tile) : State :=
  (s.setArr { s.arr with tiles := s.arr.tiles.map (fun v => if v = u then { v with retried := true } else v) }).sqSet
    .ARR_An_STATUS n 0 [Fld.ARR_An_STATUS_REISSUE] [Fld.ARR_An_STATUS_REISSUE_CNT]

/-- A facet marked suspect. -/
def State.suspected (s : State) (n facet : Nat) : State :=
  (s.fset Fld.ARR_An_SUSPECT_FACETS (s.fget Fld.ARR_An_SUSPECT_FACETS n ||| 2 ^ facet) n).sqSet
    .ARR_An_STATUS n 0 [Fld.ARR_An_STATUS_SUSPECT] []

/-- The command of a tile that has failed, with its job dropped and its output undefined. -/
def State.tileFailed (s : State) (r : CmdRef) : State :=
  match s.cmdAt r.part.val r.queue.val r.slot with
  | some c => ((s.dropJob r).scrambleTensor (c.desc 2)).failRun r { c with stop := 0 } 0x0301
  | none => s.dropJob r

section
variable {s : State} {a : Quad} {piece facet cause : Nat} {u : Tile}

theorem State.tileFault_none (h : s.tileOn a piece = none) : s.tileFault a piece facet cause = s := by
  unfold State.tileOn at h
  simp only [State.tileFault, h]

variable (found : s.tileOn a piece = some u)
include found

/-- The first fault of a tile. -/
theorem State.tileFault_first (h : u.retried = false) :
    ∃ e : Ev, e.sev = 1 ∧ s.tileFault a piece facet cause = ((s.faultKept a.val u).reissued a.val u).event e := by
  unfold State.tileOn at found
  unfold State.tileFault
  dsimp only
  rw [found]
  simp only [h, Bool.not_false, if_true]
  exact ⟨_, rfl, rfl⟩

/-- The second. -/
theorem State.tileFault_second (h : u.retried = true) :
    ∃ e : Ev, e.sev = 2 ∧ s.tileFault a piece facet cause = (((s.faultKept a.val u).suspected a.val (facet % 16)).event e).tileFailed u.ref := by
  unfold State.tileOn at found
  unfold State.tileFault
  dsimp only
  rw [found]
  simp only [h, Bool.not_true, Bool.false_eq_true, if_false]
  exact ⟨_, rfl, rfl⟩

end

/-! ## A tile reissued -/

section
variable (s : State) (n : Nat) (u : Tile)

theorem State.reissued_flag : (s.reissued n u).fget Fld.ARR_An_STATUS_REISSUE n = 1 :=
  State.sqSet_bit_cnt _ Fld.ARR_An_STATUS_REISSUE Fld.ARR_An_STATUS_REISSUE_CNT n 0 rfl (by decide) (by decide) (by decide) (by decide)

@[simp] theorem State.reissued_tiles :
    (s.reissued n u).arr.tiles = s.arr.tiles.map (fun v => if v = u then { v with retried := true } else v) := by simp [State.reissued]
@[simp] theorem State.reissued_mem : (s.reissued n u).mem = s.mem := by simp [State.reissued]
@[simp] theorem State.reissued_queues : (s.reissued n u).queues = s.queues := by simp [State.reissued]

theorem State.reissued_rd {r : RegName} (h : r ≠ .ARR_An_STATUS) (i a : Nat) : (s.reissued n u).rd r i a = s.rd r i a :=
  (State.rd_wr_reg _ _ _ _ _ _ h).trans (State.setArr_rd _ _ _ _ _)

end

/-! ## A suspect facet -/

section
variable (s : State) (n facet : Nat)

theorem bitOf_eq_testBit (x k : Nat) : bitOf x k = x.testBit k := by
  rw [bitOf, Nat.testBit_eq_decide_div_mod_eq, beq_eq_decide]

variable {facet} in
theorem State.suspected_facet (h : facet < 16) : bitOf ((s.suspected n facet).fget Fld.ARR_An_SUSPECT_FACETS n) facet = true := by
  have same : (s.suspected n facet).fget Fld.ARR_An_SUSPECT_FACETS n = (s.fget Fld.ARR_An_SUSPECT_FACETS n ||| 2 ^ facet) % 2 ^ 16 := by
    rw [State.fget, State.suspected, State.sqSet, State.rd_wr_reg _ _ _ _ _ _ (by decide)]
    exact State.fget_fset_same _ _ _ _ _ (by decide) (by decide)
  rw [same, bitOf_eq_testBit, Nat.testBit_mod_two_pow, Nat.testBit_or, Nat.testBit_two_pow_self]
  simp [h]

theorem State.suspected_flag : (s.suspected n facet).fget Fld.ARR_An_STATUS_SUSPECT n = 1 :=
  State.sqSet_bit _ Fld.ARR_An_STATUS_SUSPECT n 0 rfl (by decide)

@[simp] theorem State.suspected_queues : (s.suspected n facet).queues = s.queues := by simp [State.suspected]

theorem State.suspected_rd {r : RegName} (h : r ≠ .ARR_An_STATUS) (k : r ≠ .ARR_An_SUSPECT) (i a : Nat) :
    (s.suspected n facet).rd r i a = s.rd r i a :=
  (State.rd_wr_reg _ _ _ _ _ _ h).trans (State.rd_fset_reg _ _ _ _ _ _ k)

end

/-! ## A command failed by its tile -/

theorem Written.scramble (s : State) (a n : Nat) : Written s (s.scramble a n) :=
  Written.trans (t := (s.drawBytes n).2) ⟨rfl, rfl, rfl, rfl, rfl, rfl, rfl, rfl, rfl, rfl, rfl, rfl, rfl, rfl, fun _ _ _ _ => rfl⟩
    (Written.writeMem (s.drawBytes n).2 a (s.drawBytes n).1)

theorem Written.scrambleTensor (s : State) (d : TDesc) : Written s (s.scrambleTensor d) :=
  foldl_holds (P := Written s) (fun t r h => h.trans (Written.scramble t r.1 r.2)) _ (Written.refl s)

section
variable (s : State) (r : CmdRef)

theorem State.tileFailed_job : (s.tileFailed r).job r = none := by
  unfold State.tileFailed
  split
  · rw [State.failRun_job, State.job_congr (Written.scrambleTensor _ _).arr, State.dropJob_job]
  · exact s.dropJob_job r

theorem State.tileFailed_rd {q : RegName} (h : hbmLoud q = false) (i a : Nat) : (s.tileFailed r).rd q i a = s.rd q i a := by
  unfold State.tileFailed
  split
  · exact (State.setCmd_rd _ _ _ _ _ _ _).trans ((Written.scrambleTensor _ _).rd q i a h)
  · rfl

variable {s r}

theorem State.tileFailed_fget (f : Fld) (h : hbmLoud f.reg = false) (i : Nat) : (s.tileFailed r).fget f i = s.fget f i := by
  rw [State.fget, s.tileFailed_rd r h, State.fget]

theorem CmdEnded.tileFailed {d : Cmd} (cmd : s.cmdAt r.part.val r.queue.val r.slot = some d) : CmdEnded (s.tileFailed r) r 0x0301 := by
  unfold State.tileFailed
  rw [cmd]
  have there : ((s.dropJob r).scrambleTensor (d.desc 2)).cmdAt r.part.val r.queue.val r.slot = some d := by
    rw [State.cmdAt_congr (Written.scrambleTensor _ _).queues]
    exact cmd
  exact CmdEnded.failRun (c := { d with stop := 0 }) there (show d.slot = r.slot from State.cmdAt_slot cmd) 0x0301

end

/-! ## The statement -/

/-- Settles O49: a commit is `tileCommit` of the tile in flight, a fault its `reissued` or its `suspected` with `tileFailed`. -/
theorem tilesCommitOrFault : Obligations.TilesCommitOrFault := by
  unfold Obligations.TilesCommitOrFault
  refine ⟨?_, fun a piece s h => exec_tileCommit_none h, ?_, ?_,
    fun a piece facet cause s idle => congrArg Host.Outcome.next (State.tileFault_none idle), fun a piece facet s => rfl⟩
  · intro a piece u j d s found job cmd pair apart g
    have counted : Counted s (s.tileCommit u j d) u := Counted.tileCommit apart
    exact ⟨_, exec_tileCommit found job cmd, counted.free, counted.count, counted.pair, State.tileCommit_goesOn job,
      State.tileCommit_drains job cmd⟩
  · intro a piece facet cause u s found first
    obtain ⟨e, warn, faults⟩ := State.tileFault_first (facet := facet) (cause := cause) found first
    have quiet := Quiet.event ((s.faultKept a.val u).reissued a.val u) e (by omega)
    refine ⟨_, congrArg Host.Outcome.next faults, by simp [quiet.arr], ?_, by simp, by simp, ?_, fun r i p named l => ?_⟩
    · rw [quiet.fget _ _ _ rfl, State.reissued_flag]
    · exact (s.faultKept_shows u a.isLt).keep fun i => by rw [quiet.rd _ _ _ rfl, State.reissued_rd _ _ _ (by decide)]
    · obtain ⟨status, fault⟩ : r ≠ .ARR_An_STATUS ∧ r ≠ .ARR_An_LASTFAULTw := by simpa using named
      rw [quiet.rd _ _ _ l, State.reissued_rd _ _ _ status, State.faultKept_rd _ _ _ fault]
  · intro a piece facet cause u s found second
    obtain ⟨e, err, faults⟩ := State.tileFault_second (facet := facet) (cause := cause) found second
    have quiet := Quiet.event ((s.faultKept a.val u).suspected a.val (facet % 16)) e (by omega)
    refine ⟨_, congrArg Host.Outcome.next faults, ?_, ?_, State.tileFailed_job _ _, ?_, fun d cmd => CmdEnded.tileFailed (d := d) ?_⟩
    · rw [State.tileFailed_fget _ rfl, quiet.fget _ _ _ rfl, State.suspected_facet _ _ (Nat.mod_lt _ (by decide))]
    · rw [State.tileFailed_fget _ rfl, quiet.fget _ _ _ rfl, State.suspected_flag]
    · exact (s.faultKept_shows u a.isLt).keep fun i => by
        rw [State.tileFailed_rd _ _ rfl, quiet.rd _ _ _ rfl, State.suspected_rd _ _ _ (by decide) (by decide)]
    · rw [State.cmdAt_congr (s := s) (by simp), cmd]

end Sys2Proof.Machine
end

section
/-! SUPPORT. How a command's operation ends after the work done for it (R64, R70): ends depend on the queues alone, and one end does not undo another. -/

namespace Sys2Proof.Machine

open Sys2Proof.Safety

/-- What has ended in a state has ended in one with its queues. -/
theorem CmdEnded.of_queues {s t : State} {r : CmdRef} {st : Nat} (h : CmdEnded s r st) (same : t.queues = s.queues) : CmdEnded t r st := by
  obtain ⟨d, at_, rest⟩ := h
  exact ⟨d, (State.cmdAt_congr same _ _ _).trans at_, rest⟩

theorem State.endRun_eq (s : State) (r : CmdRef) (c : Cmd) (st : Nat) :
    s.endRun r c st = s.finish r { c with fail := if st = 0 then c.fail else st } := by
  unfold State.endRun
  split
  · rfl
  · rfl

theorem OnlyQueues.endRun (s : State) (r : CmdRef) (c : Cmd) (st : Nat) : OnlyQueues s (s.endRun r c st) := by
  rw [State.endRun_eq]
  exact OnlyQueues.setCmd s _ _ _

/-- A command whose operation goes on ends with the status it is ended with. -/
theorem CmdEnded.endCmd_at {s : State} {r : CmdRef} {c : Cmd} (at_ : s.cmdAt r.part.val r.queue.val r.slot = some c) (live : c.phase = .running)
    (unfin : c.finished = false) (ok : c.fail = 0) (st : Nat) : CmdEnded (s.endCmd r st) r st := by
  have ends : s.endCmd r st = s.endRun r { c with stop := 0 } st := by
    unfold State.endCmd
    rw [at_]
    exact if_pos ⟨live, unfin⟩
  rw [ends]
  exact CmdEnded.endRun (c := { c with stop := 0 }) at_ (show c.slot = r.slot from State.cmdAt_slot at_) ok st

section

variable {s t : State} {r : CmdRef} {c : Cmd} {op : Nat} (run : s.running r op = some c) (same : t.queues = s.queues)
include run same

/-- Work that leaves the queues alone leaves a running command at its slot. -/
theorem State.cmdAt_running : t.cmdAt r.part.val r.queue.val r.slot = some c := by
  obtain ⟨at_, -, -⟩ := State.running_some run
  exact (State.cmdAt_congr same _ _ _).trans at_

theorem CmdEnded.failRun_after (st : Nat) : CmdEnded (t.failRun r c st) r st := by
  obtain ⟨at_, -, -⟩ := State.running_some run
  exact CmdEnded.failRun (State.cmdAt_running run same) (State.cmdAt_slot at_) st

theorem CmdEnded.finish_after : CmdEnded (t.finish r c) r 0 := by
  obtain ⟨at_, -, ok⟩ := State.running_some run
  exact CmdEnded.finish (State.cmdAt_running run same) (State.cmdAt_slot at_) ok

/-- It ends with the status it is ended with, also where its outputs are recorded in it. -/
theorem CmdEnded.endRun_after {e : Cmd} (slot : e.slot = c.slot) (ok : e.fail = c.fail) (st : Nat) : CmdEnded (t.endRun r e st) r st := by
  obtain ⟨at_, -, fine⟩ := State.running_some run
  exact CmdEnded.endRun (State.cmdAt_running run same) (slot.trans (State.cmdAt_slot at_)) (ok.trans fine) st

theorem CmdEnded.endCmd_after (st : Nat) : CmdEnded (t.endCmd r st) r st := by
  obtain ⟨-, live, -, unfin, ok, -⟩ := State.running_iff.mp run
  exact CmdEnded.endCmd_at (State.cmdAt_running run same) live unfin ok st

end

theorem OnlyQueues.endCmd (s : State) (r : CmdRef) (st : Nat) : OnlyQueues s (s.endCmd r st) := by
  unfold State.endCmd
  split
  · exact OnlyQueues.ite (OnlyQueues.endRun s r _ st) (OnlyQueues.refl s)
  · exact OnlyQueues.refl s

/-- A command that has ended stays so where one is ended, itself or another. -/
theorem CmdEnded.endCmd {s : State} {k : CmdRef} {st : Nat} (h : CmdEnded s k st) (r : CmdRef) (e : Nat) : CmdEnded (s.endCmd r e) k st := by
  unfold State.endCmd
  split
  next c found =>
    split
    next live =>
      obtain ⟨d, at_, fin, fail⟩ := h
      have ne : k ≠ r := by
        rintro rfl
        rw [at_] at found
        cases found
        rw [live.2] at fin
        cases fin
      rw [State.endRun_eq]
      refine ⟨d, (State.cmdAt_finish_ne ?_ ne).trans at_, fin, fail⟩
      exact (show c.slot = r.slot from State.cmdAt_slot found)
    next => exact h
  next => exact h

/-! ## Folds, and tensors that are read -/

/-- A fold keeps a relation that each of its steps keeps. -/
theorem foldl_of_steps {β : Type} {R : State → State → Prop} (refl : ∀ s, R s s) (trans : ∀ {s t u}, R s t → R t u → R s u)
    {f : State → β → State} (h : ∀ s x, R s (f s x)) (l : List β) (s : State) : R s (l.foldl f s) :=
  foldl_holds (P := R s) (fun t x k => trans k (h t x)) l (refl s)

theorem Touched.fetchTensor (s : State) (c : Nat) (d : TDesc) (u : Nat) : Touched s (s.fetchTensor c d u).1 :=
  foldlFst_rel Touched.refl Touched.trans (fun x r => Touched.readAs x.1 c r.1 r.2 u) _ (s, 0)

theorem Touched.fetchTensors (s : State) (c : Nat) (ds : List TDesc) (u : Nat) : Touched s (s.fetchTensors c ds u).1 :=
  foldlFst_rel (f := fun a d => ((a.1.fetchTensor c d u).1, if a.2 = 0 then (a.1.fetchTensor c d u).2 else a.2)) Touched.refl Touched.trans
    (fun x d => Touched.fetchTensor x.1 c d u) ds (s, 0)

theorem Touched.keepsMem {s t : State} (h : Touched s t) : KeepsMem s t := fun a => h.cell a

end Sys2Proof.Machine
end

section
/-! SUPPORT. The ledger (R228 to R238): what the monitor's work on entries, descriptors and scale words leaves alone. -/

namespace Sys2Proof.Machine

/-- The registers that the monitor's work on the ledger may change, beside USED. -/
def monReg (r : RegName) : Bool := hbmLoud r || r == .NUM_LEDGER_STATUS || r == .NUM_ARITH_STATUS || r == .NUM_COMMITTED_STEP

theorem monReg_false {r : RegName} (h : monReg r = false) :
    hbmLoud r = false ∧ r ≠ .NUM_LEDGER_STATUS ∧ r ≠ .NUM_ARITH_STATUS ∧ r ≠ .NUM_COMMITTED_STEP := by
  simpa [monReg, and_assoc] using h

/-- What the monitor's work on the ledger leaves alone. -/
structure Worked (s t : State) : Prop where
  queues : t.queues = s.queues
  rcv : t.rcv = s.rcv
  col : t.col = s.col
  eut : t.eut = s.eut
  tier : t.tier = s.tier
  chk : t.chk = s.chk
  rd : ∀ r i a, monReg r = false → t.rd r i a = s.rd r i a

namespace Worked

theorem refl (s : State) : Worked s s := ⟨rfl, rfl, rfl, rfl, rfl, rfl, fun _ _ _ _ => rfl⟩

theorem trans {s t u : State} (h : Worked s t) (k : Worked t u) : Worked s u :=
  ⟨k.queues.trans h.queues, k.rcv.trans h.rcv, k.col.trans h.col, k.eut.trans h.eut, k.tier.trans h.tier, k.chk.trans h.chk,
   fun r i a n => (k.rd r i a n).trans (h.rd r i a n)⟩

theorem foldl {β : Type} {f : State → β → State} (h : ∀ s x, Worked s (f s x)) (l : List β) (s : State) : Worked s (l.foldl f s) :=
  foldl_of_steps refl trans h l s

theorem seqSt {s : State} {x : State × Nat} {f : State → State × Nat} (h : Worked s x.1) (k : ∀ t, Worked t (f t).1) :
    Worked s (seqSt x f).1 := h.trans (k x.1)

theorem foldSt {β : Type} {f : State → β → State × Nat} (h : ∀ s x, Worked s (f s x).1) (l : List β) (s : State) :
    Worked s (foldSt l f s).1 :=
  foldlFst_rel (f := fun x a => Machine.seqSt x (fun s => f s a)) refl trans (fun x a => h x.1 a) l (s, 0)

theorem written {s t : State} (h : Written s t) : Worked s t :=
  ⟨h.queues, h.rcv, h.col, h.eut, h.tier, h.chk, fun r i a n => h.rd r i a (monReg_false n).1⟩

theorem touched {s t : State} (h : Touched s t) : Worked s t := written h.written
theorem quiet {s t : State} (h : Quiet s t) : Worked s t := touched h.touched

theorem wr (s : State) (r : RegName) (i a : Nat) (v : Word) (h : monReg r = true) : Worked s (s.wr r i a v) := by
  refine ⟨by simp, by simp, by simp, by simp, by simp, by simp, fun q j b n => s.rd_wr_reg _ _ _ _ _ ?_⟩
  rintro rfl
  rw [h] at n
  cases n

theorem fget {s t : State} (h : Worked s t) (f : Fld) (i a : Nat) (n : monReg f.reg = false) : t.fget f i a = s.fget f i a := by
  rw [State.fget, h.rd _ _ _ n, State.fget]

theorem ledStatus (s : State) (p : Nat) (b c : List Fld) : Worked s (s.ledStatus p b c) := wr s _ _ _ _ rfl
theorem numEvent (s : State) (p code sev a b : Nat) (h : sev ≠ 3) : Worked s (s.numEvent p code sev a b) := quiet (Quiet.event s _ h)

theorem scaleClamp (s : State) (p tid : Nat) (e : Int) : Worked s (s.scaleClamp p tid e) :=
  (wr s .NUM_ARITH_STATUS 0 p _ rfl).trans (quiet (Quiet.event _ _ (show 1 ≠ 3 by decide)))

theorem readAs (s : State) (c a n u : Nat) : Worked s (s.readAs c a n u).2 := touched (Touched.readAs s c a n u)
theorem writeAs (s : State) (c a : Nat) (b : List Byte) : Worked s (s.writeAs c a b).1 := written (Written.writeAs s c a b)
theorem putEnt (s : State) (p i : Nat) (b : List Byte) : Worked s (s.putEnt p i b).1 := writeAs s _ _ _
theorem putWhole (s : State) (p i : Nat) (b : List Byte) : Worked s (s.putWhole p i b).1 := writeAs s _ _ _

/-! ## Formats and histories (R233, R236) -/

theorem rewriteDesc (s : State) (p a d c : Nat) (x : Option Nat) : Worked s (s.rewriteDesc p a d c x).1 := by
  unfold State.rewriteDesc
  dsimp only
  split
  · exact refl s
  · split
    · exact readAs s _ _ _ _
    · exact (readAs s _ _ _ _).trans (writeAs _ _ _ _)

theorem setFormat (s : State) (p : Nat) (b : List Byte) (l : Nat) : Worked s (s.setFormat p b l).1 := by
  unfold State.setFormat
  split <;> exact seqSt (rewriteDesc s _ _ _ _ _) (fun t => rewriteDesc t _ _ _ _ _)

theorem loseHistory (s : State) (p i c : Nat) : Worked s (s.loseHistory p i c).1 := by
  unfold State.loseHistory
  dsimp only
  refine (seqSt (putEnt s _ _ _) (fun t => ?_)).trans ((ledStatus _ _ _ _).trans (numEvent _ _ _ _ _ _ (by decide)))
  split
  · exact setFormat t _ _ _
  · exact refl t

theorem checkEnt (s : State) (p i : Nat) : Worked s (s.checkEnt p i).1 := by
  have read : Worked s ((s.grant p (s.entAddr p i) 256).touch (s.entAddr p i) 256) :=
    touched ((Touched.grant s _ _ _).trans (Touched.touch _ _ _))
  unfold State.checkEnt
  dsimp only
  split
  · exact read.trans (loseHistory _ _ _ _)
  · exact read

/-! ## The commit (R205, R206, R232 to R235) -/

theorem rewriteDeq (s : State) (p n : Nat) (b : List Byte) : Worked s (s.rewriteDeq p n b).1 := by
  unfold State.rewriteDeq
  extract_lets a
  split
  · exact refl s
  · have read := readAs s p (eSW b) 16 8
    split
    next w bad t e =>
      rw [e] at read
      split
      · exact read
      · split
        · exact read
        · extract_lets e1 e2 u
          have clamped : Worked t u := by
            unfold u
            split
            · exact scaleClamp t _ _ _
            · exact refl t
          exact (read.trans clamped).trans (writeAs u _ _ _)

theorem changeLevel (s : State) (p n : Nat) (b : List Byte) (l code : Nat) : Worked s (s.changeLevel p n b l code).1 :=
  (setFormat s p b l).trans ((ledStatus _ _ _ _).trans (numEvent _ p code 0 _ _ (by decide)))

theorem zeroRun (s : State) (p n : Nat) (b : List Byte) : Worked s (s.zeroRun p n b).1.1 := by
  unfold State.zeroRun
  extract_lets b' told
  have tell : Worked s told := by
    unfold told
    split
    · exact (ledStatus s _ _ _).trans (numEvent _ _ _ _ _ _ (by decide))
    · exact refl s
  split
  · exact refl s
  · split
    · exact tell.trans (changeLevel _ _ _ _ _ _)
    · exact tell

theorem demote (s : State) (p n : Nat) (b : List Byte) : Worked s (s.demote p n b).1.1 := by
  unfold State.demote
  split
  · exact refl s
  · extract_lets clean m l warm r b'
    have changed : Worked s r.1 := changeLevel s p n b l 0x0403
    split
    · split
      · exact seqSt changed (fun t => setFormat t _ _ _)
      · exact changed
    · exact refl s

theorem commitEnt (s : State) (p n i : Nat) : Worked s (s.commitEnt p n i).1 := by
  unfold State.commitEnt
  refine seqSt (checkEnt s p i) (fun t => ?_)
  split
  next b warm _ =>
    extract_lets r0
    have warmed : Worked t r0.1 := by
      unfold r0
      split
      · exact setFormat t _ _ _
      · exact refl t
    have run := zeroRun r0.1 p n b
    split
    next r1 b1 e1 =>
      rw [e1] at run
      have demoted := demote r1.1 p n b1
      split
      next r2 b2 e2 =>
        rw [e2] at demoted
        extract_lets r3 r4
        have scaled : Worked r2.1 r3.1 := by
          unfold r3
          split
          · exact rewriteDeq r2.1 _ _ _
          · exact refl r2.1
        exact (((warmed.trans run).trans demoted).trans scaled).trans (putEnt r3.1 _ _ _)

theorem ledgerCommit (s : State) (p n : Nat) : Worked s (s.ledgerCommit p n).1 := by
  unfold State.ledgerCommit
  extract_lets is committed bad r
  have all : Worked s committed.1 := foldSt (fun s i => commitEnt s p n i) is s
  have entries : Worked s r.1 := by
    unfold r
    split
    · generalize bad = l
      cases l with
      | nil => exact all
      | cons i l => exact all.trans ((ledStatus _ _ _ _).trans (numEvent _ p 0x0405 1 _ _ (by decide)))
    · exact refl s
  exact entries.trans (wr _ _ _ _ _ rfl)

/-! ## Whole tables -/

theorem readLedger (s : State) (p : Nat) : Worked s (s.readLedger p).1 := by
  refine foldSt (fun s i => seqSt (checkEnt s p i) (fun t => ?_)) _ s
  dsimp only
  split
  · exact readAs t _ _ _ _
  · exact refl t

theorem dropPending (s : State) (p : Nat) : Worked s (s.dropPending p) := by
  unfold State.dropPending
  split
  · refine foldl (fun s i => ?_) _ s
    split
    · exact (checkEnt s p i).trans (putEnt _ _ _ _)
    · exact refl s
  · exact refl s

theorem scanEnt (s : State) (p i : Nat) : Worked s (s.scanEnt p i) := by
  unfold State.scanEnt
  dsimp only
  split
  · exact refl s
  · exact putEnt s _ _ _

theorem applyRecord (s : State) (p : Nat) (b : List Byte) : Worked s (s.applyRecord p b).1 := by
  unfold State.applyRecord
  split
  · exact seqSt (checkEnt s _ _) (fun t => putWhole t _ _ _)
  · split
    · exact refl s
    · refine seqSt (putWhole s _ _ _) (fun t => ?_)
      split
      · exact setFormat t _ _ _
      · split
        · exact setFormat t _ _ _
        · exact refl t

theorem ledgerMark (s : State) (p tid mode level : Nat) : Worked s (s.ledgerMark p tid mode level).1 := by
  unfold State.ledgerMark
  split
  · exact refl s
  · refine seqSt (checkEnt s _ _) (fun t => ?_)
    split
    · exact putEnt t _ _ _
    · refine seqSt (putEnt t _ _ _) (fun u => ?_)
      split
      · exact setFormat u _ _ _
      · exact refl u
    · exact loseHistory t _ _ _

end Worked

@[simp] theorem State.setUsed_queues (s : State) (p : Nat) : (s.setUsed p).queues = s.queues := State.fset_queues _ _ _ _ _

theorem State.ledgerRegister_queues (s : State) (p : Nat) (recs : List (List Byte)) : (s.ledgerRegister p recs).1.queues = s.queues := by
  unfold State.ledgerRegister
  dsimp only
  split
  · rfl
  · split
    · rfl
    · exact (State.setUsed_queues _ p).trans (Worked.foldSt (fun s b => Worked.applyRecord s p b) recs s).queues

end Sys2Proof.Machine
end

section
/-! SUPPORT. Memory and the stacks' error state alone decide what a write does to them and what status it has (R157 to R163, R472). -/

namespace Sys2Proof.Machine

/-- Two states hold the same memory and the same error state of the stacks. -/
structure SameStore (s t : State) : Prop where
  mem : t.mem = s.mem
  hbm : t.hbm = s.hbm

namespace SameStore

theorem refl (s : State) : SameStore s s := ⟨rfl, rfl⟩
theorem symm {s t : State} (h : SameStore s t) : SameStore t s := ⟨h.mem.symm, h.hbm.symm⟩
theorem trans {s t u : State} (h : SameStore s t) (k : SameStore t u) : SameStore s u := ⟨k.mem.trans h.mem, k.hbm.trans h.hbm⟩
theorem quiet {s t : State} (h : Quiet s t) : SameStore s t := ⟨h.mem, h.hbm⟩
theorem hbmEvent (s : State) (n : Quad) (c v p q : Nat) (h : v ≠ 3) : SameStore s (s.hbmEvent n c v p q) := quiet (Quiet.hbmEvent s n c v p q h)
theorem sqSet (s : State) (r : RegName) (i a : Nat) (b c : List Fld) : SameStore s (s.sqSet r i a b c) := ⟨by simp, by simp⟩
theorem fset (s : State) (f : Fld) (v i a : Nat) : SameStore s (s.fset f v i a) := ⟨by simp, by simp⟩
theorem addRepair (s : State) (e : RepairEnt) : SameStore s (s.addRepair e) := ⟨by simp, by simp⟩

theorem setBoot (s : State) (b : BootSt) : SameStore s { s with boot := b } := ⟨rfl, rfl⟩

/-- Two states that agree still do after changes of other parts. -/
theorem beside {s t s' t' : State} (h : SameStore s t) (a : SameStore s s') (b : SameStore t t') : SameStore s' t' := (a.symm.trans h).trans b

variable {s t : State} (h : SameStore s t)
include h

theorem setStack (n : Quad) (x : StackSt) : SameStore (s.setStack n x) (t.setStack n x) := ⟨h.mem, congrArg (vset · n x) h.hbm⟩
theorem setMem (m : MemSt) : SameStore { s with mem := m } { t with mem := m } := ⟨rfl, h.hbm⟩

theorem foldl {β : Type} {f : State → β → State} (k : ∀ {s t : State}, SameStore s t → ∀ x, SameStore (f s x) (f t x)) (l : List β) :
    SameStore (l.foldl f s) (l.foldl f t) := by
  induction l generalizing s t with
  | nil => exact h
  | cons x l ih => exact ih (k h x)

theorem retiredIn (a n : Nat) : t.retiredIn a n = s.retiredIn a n := by simp only [State.retiredIn, State.retiredAt, h.hbm]
theorem retiredAt (a : Nat) : t.retiredAt a = s.retiredAt a := by simp only [State.retiredAt, h.hbm]

/-! ## Pages, banks and rows (R162 to R164) -/

theorem markBank (n : Quad) (x : RowHit) : SameStore (s.markBank n x) (t.markBank n x) := by
  have tell (u : State) (m a b : Nat) : SameStore u ((((u.addRepair { kind := 2, unit := n.val, hit := x }).fset Fld.HBM_STACKn_RETIRED_BANKS m
      n.val).sqSet .HBM_STACKn_STATUS n.val 0 [Fld.HBM_STACKn_STATUS_RETIRE] []).hbmEvent n 0x0705 2 a b) :=
    (((addRepair u _).trans (fset _ _ _ _ _)).trans (sqSet _ _ _ _ _ _)).trans (hbmEvent _ _ _ _ _ _ (by decide))
  unfold State.markBank
  rw [h.hbm]
  extract_lets v before s1 s2 s3 s4 before' t1 t2 t3 t4
  split
  · exact h
  · exact (h.setStack n _).beside (tell _ _ _ _) (tell _ _ _ _)

theorem retirePage (n : Quad) (x : RowHit) : SameStore (s.retirePage n x) (t.retirePage n x) := by
  unfold State.retirePage
  rw [h.hbm]
  extract_lets v page x' s1 s2 s3 s4 s5 s6 t1 t2 t3 t4 t5 t6
  split
  · exact h
  · split
    · exact h.markBank n x
    · have tell (u : State) (m w a b : Nat) : SameStore u ((((u.fset Fld.HBM_STACKn_RETIRED_PAGES m n.val).fset Fld.HBM_STACKn_RETIRED_WEAK w n.val).sqSet
          .HBM_STACKn_STATUS n.val 0 [Fld.HBM_STACKn_STATUS_RETIRE] []).hbmEvent n 0x0704 2 a b) :=
        (((fset u _ _ _ _).trans (fset _ _ _ _ _)).trans (sqSet _ _ _ _ _ _)).trans (hbmEvent _ _ _ _ _ _ (by decide))
      have same : SameStore s6 t6 :=
        (h.setStack n _).beside ((addRepair _ _).trans (tell _ _ _ _ _)) ((addRepair _ _).trans (tell _ _ _ _ _))
      rw [same.hbm]
      split
      · exact same.markBank n _
      · exact same

theorem weakPage (n : Quad) (x : RowHit) : SameStore (s.weakPage n x) (t.weakPage n x) := by
  unfold State.weakPage
  rw [h.hbm]
  extract_lets v page listed s1 s2 t1 t2
  have same : SameStore s1 t1 := by
    unfold s1 t1
    split
    · exact h
    · exact (h.setStack n _).beside (addRepair _ _) (addRepair _ _)
  have tell (u : State) (m a b : Nat) : SameStore u ((u.fset Fld.HBM_STACKn_RETIRED_WEAK m n.val).hbmEvent n 0x0703 1 a b) :=
    (fset u _ _ _ _).trans (hbmEvent _ _ _ _ _ _ (by decide))
  exact same.beside (tell s1 _ _ _) (tell t1 _ _ _)

theorem wordCe (w : Nat) : SameStore (s.wordCe w) (t.wordCe w) := by
  unfold State.wordCe
  rw [h.mem]
  exact (h.setMem _).beside (sqSet _ _ _ _ _ _) (sqSet _ _ _ _ _ _)

theorem poisonWord (w : Nat) : SameStore (s.poisonWord w) (t.poisonWord w) := by
  have tell (u : State) (n : Quad) (b : BootSt) (p q : Nat) : SameStore u ({ u.sqSet .HBM_STACKn_STATUS n.val 0 [Fld.HBM_STACKn_STATUS_UE] [] with
      boot := b }.hbmEvent n 0x0701 2 p q) :=
    ((sqSet u .HBM_STACKn_STATUS n.val 0 _ _).trans (setBoot _ b)).trans (hbmEvent _ n 0x0701 2 p q (by decide))
  unfold State.poisonWord
  rw [h.mem]
  exact (h.setMem _).beside (tell _ _ _ _ _) (tell _ _ _ _ _)

theorem repairRead (x : RowHit) : SameStore (s.repairRead x) (t.repairRead x) := by
  unfold State.repairRead
  rw [h.mem]
  refine h.foldl (fun k e => ?_) _
  split
  · exact k.wordCe _
  · exact k.poisonWord _

theorem rowCandidate (n : Quad) (x : RowHit) (ue : Bool) : SameStore (s.rowCandidate n x ue) (t.rowCandidate n x ue) := by
  unfold State.rowCandidate
  rw [h.hbm]
  extract_lets v used s1 s2 s3 t1 t2 t3
  split
  · split
    · exact h.retirePage n x
    · exact h.weakPage n x
  · have tell (u : State) : SameStore u (((u.addRepair { kind := 0, unit := n.val, hit := x }).sqSet .HBM_STACKn_STATUS n.val 0
        [Fld.HBM_STACKn_STATUS_REPAIR] []).hbmEvent n 0x0702 1 (hitParam n x) x.row) :=
      ((addRepair u _).trans (sqSet _ _ _ _ _ _)).trans (hbmEvent _ _ _ _ _ _ (by decide))
    exact ((h.setStack n _).repairRead x).beside (tell _) (tell _)

/-! ## Reads and writes -/

theorem wordUe (w : Nat) : SameStore (s.wordUe w) (t.wordUe w) := by
  unfold State.wordUe
  rw [h.mem]
  split
  · exact h.setMem _
  · exact (h.poisonWord w).rowCandidate _ _ _

theorem readErr (w : Nat) : SameStore (s.readErr w) (t.readErr w) := by
  unfold State.readErr
  rw [h.mem]
  split
  · exact h
  · split
    · exact h.wordCe w
    · exact h.wordUe w

theorem touch (a n : Nat) : SameStore (s.touch a n) (t.touch a n) := by
  unfold State.touch
  rw [h.mem]
  exact h.foldl (fun k w => k.readErr w) _

theorem readParts (a n : Nat) : SameStore (s.readParts a n) (t.readParts a n) := h.foldl (fun k w => k.touch (w * 64) 64) _

theorem grant (c a n : Nat) : SameStore (s.grant c a n) (t.grant c a n) := by
  unfold State.grant
  rw [h.hbm]
  split
  · exact h.setStack _ _
  · exact h

/-- A write at one place does the same to both, with the same status. -/
theorem writePhys (a : Nat) (data : List Byte) : SameStore (s.writePhys a data).1 (t.writePhys a data).1 ∧ (t.writePhys a data).2 = (s.writePhys a data).2 := by
  have parts := h.readParts a data.length
  unfold State.readParts at parts
  unfold State.writePhys
  dsimp only
  simp only [parts.mem, parts.retiredAt, parts.retiredIn]
  exact ⟨⟨rfl, parts.hbm⟩, trivial⟩

end SameStore

/-- An access resolves by the objects of the partitions in unified mode alone. -/
theorem State.liveObjs_congr {s t : State} (tier : t.tier = s.tier) (mode : ∀ p, t.fget Fld.TIER_CFG_MODE 0 p = s.fget Fld.TIER_CFG_MODE 0 p) :
    t.liveObjs = s.liveObjs := by simp only [State.liveObjs, tier, mode]

theorem State.liveObjs_written {s t : State} (h : Written s t) : t.liveObjs = s.liveObjs :=
  State.liveObjs_congr h.tier fun _ => h.fget _ _ _ rfl

/-- A write through objects does the same to both, with the same status, where both have the same objects. -/
theorem SameStore.writeAs {s t : State} (h : SameStore s t) (objs : t.liveObjs = s.liveObjs) (c a : Nat) (data : List Byte) :
    SameStore (s.writeAs c a data).1 (t.writeAs c a data).1 ∧ (t.writeAs c a data).2 = (s.writeAs c a data).2 := by
  let f : State × Nat → Nat × Nat → State × Nat := fun acc r =>
    let x := acc.1.writePhys (acc.1.resolve r.1 8 true) ((data.drop (r.1 - a)).take r.2)
    (x.1, if acc.2 = 0 then x.2 else acc.2)
  have all (l : List (Nat × Nat)) : ∀ {x y : State × Nat}, SameStore x.1 y.1 → y.1.liveObjs = x.1.liveObjs → y.2 = x.2 →
      SameStore (l.foldl f x).1 (l.foldl f y).1 ∧ (l.foldl f y).2 = (l.foldl f x).2 := by
    induction l with
    | nil => exact fun h _ e => ⟨h, e⟩
    | cons r l ih =>
      intro x y h o e
      have place : y.1.resolve r.1 8 true = x.1.resolve r.1 8 true := by rw [State.resolve, o, State.resolve]
      obtain ⟨store, status⟩ := h.writePhys (x.1.resolve r.1 8 true) ((data.drop (r.1 - a)).take r.2)
      rw [List.foldl_cons, List.foldl_cons]
      refine ih ?_ ?_ ?_
      · show SameStore (x.1.writePhys _ _).1 (y.1.writePhys (y.1.resolve r.1 8 true) _).1
        rw [place]
        exact store
      · exact (State.liveObjs_written (Written.writePhys _ _ _)).trans (o.trans (State.liveObjs_written (Written.writePhys _ _ _)).symm)
      · show (if y.2 = 0 then (y.1.writePhys (y.1.resolve r.1 8 true) _).2 else y.2) = if x.2 = 0 then (x.1.writePhys _ _).2 else x.2
        rw [place, e, status]
  have place : t.resolve a 8 true = s.resolve a 8 true := by rw [State.resolve, objs, State.resolve]
  have granted (u : State) : (u.grant c (s.resolve a 8 true) data.length).liveObjs = u.liveObjs :=
    State.liveObjs_written (Touched.grant u c _ _).written
  have pieces : (t.grant c (s.resolve a 8 true) data.length).pieces a data.length = (s.grant c (s.resolve a 8 true) data.length).pieces a data.length := by
    rw [State.pieces, granted, objs, ← granted s, State.pieces]
  unfold State.writeAs State.writeMem
  rw [place, pieces]
  exact all _ (h.grant c _ _) (by rw [granted, granted, objs]) rfl

end Sys2Proof.Machine
end

section
/-! SUPPORT. What sending requests and messages, and going on with transfers, leaves alone; which snapshot requests are out (R295, R300, R370). -/

namespace Sys2Proof.Machine

/-! ## How messages and requests are sent -/

/-- A message whose every class is blocked is counted and recorded (R318, R321). -/
theorem State.sendRouted_unrouted {s : State} {group : Nat} (mtype : Nat) {dst : Coord} (body : List Byte) (h : s.route group dst = none) :
    s.sendRouted group mtype dst body =
      ((s.sqSet .PER_STATUS 0 0 [Fld.PER_STATUS_UNREACH] [Fld.PER_STATUS_UNREACH_CNT]).perEvent 0x0941 1 (coordNum dst) (mtype + group * 256), false) := by
  unfold State.sendRouted
  rw [h]

/-- A snapshot request waits for a tag, or is listed with its tag and sent. -/
theorem State.sendSnap_cases (s : State) (h : HeldSnap) :
    s.sendSnap h = { s with eut := { s.eut with held := s.eut.held ++ [h] } } ∨
    ∃ (x : EutSt) (p : PortId) (v : Nat) (b : List Byte) (o : Output), s.sendSnap h = ({ s with eut := x }.sendMsg p v b).emit o ∧
      (∃ t, x.outst = s.eut.outst ++ [{ h.out with tag := t }]) ∧ x.held = s.eut.held := by
  unfold State.sendSnap
  dsimp only
  split
  · refine .inr ⟨{ (s.newTag h.out.port).2.eut with outst := s.eut.outst ++ [{ h.out with tag := (s.newTag h.out.port).1 }] }, ?_⟩
    split
    · exact ⟨_, _, _, _, rfl, ⟨_, rfl⟩, rfl⟩
    · exact ⟨_, _, _, _, rfl, ⟨_, rfl⟩, rfl⟩
  · exact .inl rfl

/-! ## How transfers go on (R140, R147, R148)

Going on with a transfer takes tags, asks adapters and peers, and keeps the transfer: a relation that holds of each of these holds of it. -/

section

variable {R : State → State → Prop} (refl : ∀ s, R s s) (trans : ∀ {s t u}, R s t → R t u → R s u) (tag : ∀ s k, R s (State.newTag s k).2)
  (ask : ∀ s k t o n, R s (State.sendT2Rd s k t o n)) (peer : ∀ s g m d b, R s (State.sendRouted s g m d b).1)
  (keep : ∀ s p l, R s (State.setFetches s p l))

include refl trans tag ask in
theorem State.askT2_rel (s : State) (f : Fetch) (a off m : Nat) : R s (s.askT2 f a off m).1 := by
  unfold State.askT2
  dsimp only
  split
  · exact trans (tag s _) (ask _ _ _ _ _)
  · exact refl s

include refl trans tag ask peer in
theorem State.askSource_rel (s : State) (p : Part) (f : Fetch) (fuel : Nat) : R s (s.askSource p f fuel).1 := by
  induction fuel generalizing s f with
  | zero => exact refl s
  | succ fuel ih =>
    unfold State.askSource
    split
    · extract_lets rel
      split
      · split
        · exact State.askT2_rel refl trans tag ask s _ _ _ _
        · exact ih s _
      · split
        · split
          · exact refl s
          · dsimp only
            split
            · exact trans (tag s 4) (peer _ _ _ _ _)
            · exact trans (trans (tag s 4) (peer _ _ _ _ _)) (ih _ _)
        · exact ih s _
      · split
        · exact State.askT2_rel refl trans tag ask s _ _ _ _
        · exact refl s
      · exact refl s
    · exact refl s

include refl trans tag ask peer in
theorem State.pumpFetch_rel (s : State) (p : Part) (f : Fetch) : R s (s.pumpFetch p f).1 := by
  unfold State.pumpFetch
  dsimp only
  split
  · exact refl s
  · split
    · exact State.askSource_rel refl trans tag ask peer s p f 4
    · split
      · exact refl s
      · split
        · split
          · exact refl s
          · exact State.askSource_rel refl trans tag ask peer s p _ 4
        · exact State.askT2_rel refl trans tag ask s f _ _ _

include refl trans tag ask peer keep in
theorem State.pumpTier_rel (s : State) (p : Part) : R s (s.pumpTier p) := by
  refine foldl_of_steps refl trans (fun s i => ?_) _ s
  split
  · exact refl s
  · dsimp only
    split
    · exact refl s
    · exact trans (State.pumpFetch_rel refl trans tag ask peer s p _) (keep _ p _)

end

/-! ## What sending leaves alone -/

/-- What sending leaves alone, registers of the given names and the engines' own lists of requests apart. -/
structure Posted (n : RegName → Bool) (s t : State) : Prop where
  mem : t.mem = s.mem
  queues : t.queues = s.queues
  rcv : t.rcv = s.rcv
  regs : KeepsRegs s t n
  grows : Grows s t

namespace Posted

variable {n : RegName → Bool}

theorem refl (s : State) : Posted n s s := ⟨rfl, rfl, rfl, KeepsRegs.refl s n, Grows.refl s⟩

theorem trans {s t u : State} (h : Posted n s t) (k : Posted n t u) : Posted n s u :=
  ⟨k.mem.trans h.mem, k.queues.trans h.queues, k.rcv.trans h.rcv, h.regs.trans k.regs, h.grows.trans k.grows⟩

theorem foldl {β : Type} {f : State → β → State} (h : ∀ s x, Posted n s (f s x)) (l : List β) (s : State) : Posted n s (l.foldl f s) :=
  foldl_of_steps refl trans h l s

theorem quiet {s t : State} (h : Quiet s t) (g : Grows s t) : Posted n s t := ⟨h.mem, h.queues, h.rcv, KeepsRegs.quiet h n, g⟩

theorem setEut (s : State) (x : EutSt) : Posted n s { s with eut := x } := ⟨rfl, rfl, rfl, KeepsRegs.of_rf rfl n, Grows.of_eq rfl⟩
theorem setFetches (s : State) (p : Part) (l : List Fetch) : Posted n s (s.setFetches p l) :=
  ⟨rfl, rfl, rfl, KeepsRegs.of_rf rfl n, Grows.of_eq rfl⟩
theorem newTag (s : State) (k : Nat) : Posted n s (s.newTag k).2 := setEut s _
theorem dropOut (s : State) (r : CmdRef) : Posted n s (s.dropOut r) := setEut s _
theorem draw (s : State) (w : Nat) : Posted n s (s.draw w).2 := quiet (Quiet.draw s w) (Grows.of_eq rfl)

theorem sendMsg (s : State) (p : PortId) (v : Nat) (b : List Byte) (o : Output) : Posted n s ((s.sendMsg p v b).emit o) :=
  quiet ((Quiet.sendMsg s p v b).trans (Quiet.emit _ o)) (Grows.of_eq (by rw [State.emit_evr, State.sendMsg_evr]))

theorem event (s : State) (e : Ev) (h : e.sev ≠ 3) : Posted n s (s.event e) := quiet (Quiet.event s e h) (Grows.event s e)

/-! ## Messages of the torus (R318, R321) -/

/-- A message that has a route changes no register. -/
theorem sendRouted_routed (s : State) {group : Nat} (mtype : Nat) {dst : Coord} (body : List Byte) (h : s.route group dst ≠ none) :
    Posted n s (s.sendRouted group mtype dst body).1 ∧ (s.sendRouted group mtype dst body).2 = true := by
  unfold State.sendRouted
  split
  next none => exact absurd none h
  next =>
    dsimp only
    split
    · exact ⟨refl s, rfl⟩
    · exact ⟨sendMsg s _ _ _ _, rfl⟩

section

variable (per : n .PER_STATUS = true)
include per

theorem sendRouted (s : State) (group mtype : Nat) (dst : Coord) (body : List Byte) : Posted n s (s.sendRouted group mtype dst body).1 := by
  by_cases h : s.route group dst = none
  · rw [State.sendRouted_unrouted mtype body h]
    have counted : Posted n s (s.sqSet .PER_STATUS 0 0 [Fld.PER_STATUS_UNREACH] [Fld.PER_STATUS_UNREACH_CNT]) :=
      ⟨by simp, by simp, by simp, KeepsRegs.wr s _ _ _ _ per, Grows.of_eq (by simp)⟩
    exact counted.trans (quiet (Quiet.perEvent _ 0x0941 1 _ _ (by decide)) (Grows.event _ _))
  · exact (sendRouted_routed s mtype body h).1

theorem sendRec (s : State) (mtype : Nat) (dst : Coord) (r : RecHdr) (body : List Byte) : Posted n s (s.sendRec mtype dst r body).1 :=
  sendRouted per s _ _ _ _

theorem sendProtect (s : State) (p : Part) (g step : Nat) (img : List Byte) : Posted n s (s.sendProtect p g step img) :=
  foldl (fun s _ => sendRec per s _ _ _ _) _ s

theorem sendFetches (s : State) (p : Part) (x : RestRun) (srcs : List Nat) (ps : List (Nat × Nat)) : Posted n s (s.sendFetches p x srcs ps).1 :=
  foldlFst_rel (f := fun a i =>
    ((a.1.sendFetch p x (srcs.getD (i % max 1 srcs.length) 0) (ps.getD i (0, 0)).1 (ps.getD i (0, 0)).2).1,
     a.2 && (a.1.sendFetch p x (srcs.getD (i % max 1 srcs.length) 0) (ps.getD i (0, 0)).1 (ps.getD i (0, 0)).2).2))
    refl trans (fun a _ => sendRec per a.1 _ _ _ _) _ (s, true)

end

/-! ## Requests to adapters (R295, R299, R300) -/

theorem sendSnap (s : State) (h : HeldSnap) : Posted n s (s.sendSnap h) := by
  obtain waits | ⟨x, p, v, b, o, sent, -⟩ := s.sendSnap_cases h
  · rw [waits]
    exact setEut s _
  · rw [sent]
    exact (setEut s _).trans (sendMsg _ p v b o)

theorem pumpSnap (s : State) : Posted n s s.pumpSnap := (setEut s _).trans (foldl (fun s h => sendSnap s h) _ _)

theorem snapReads (s : State) (r : CmdRef) (c : Cmd) (ps : List (Nat × Nat)) : Posted n s (s.snapReads r c ps) :=
  foldl (fun s _ => foldl (fun s _ => sendSnap s _) _ s) ps s

/-- Going on with transfers (R140) takes at most PER_STATUS. -/
theorem pumpTier (per : n .PER_STATUS = true) (s : State) (p : Part) : Posted n s (s.pumpTier p) :=
  State.pumpTier_rel refl trans newTag (fun s _ _ _ _ => sendMsg s _ _ _ _) (sendRouted per) setFetches s p

end Posted

/-! ## The requests of a command that are out (R300) -/

/-- Sending a request touches no list of requests but its own entry. -/
theorem State.sendSnap_lists (s : State) (h : HeldSnap) :
    ((s.sendSnap h).eut.outst = s.eut.outst ∧ (s.sendSnap h).eut.held = s.eut.held ++ [h]) ∨
    ((∃ t, (s.sendSnap h).eut.outst = s.eut.outst ++ [{ h.out with tag := t }]) ∧ (s.sendSnap h).eut.held = s.eut.held) := by
  obtain waits | ⟨x, p, v, b, o, sent, outst, held⟩ := s.sendSnap_cases h
  · rw [waits]
    exact .inl ⟨rfl, rfl⟩
  · have listed : (s.sendSnap h).eut = x := by
      rw [sent]
      exact ((Quiet.sendMsg { s with eut := x } p v b).trans (Quiet.emit _ o)).eut
    rw [listed]
    exact .inr ⟨outst, held⟩

theorem State.snapOut_nil (s : State) (r : CmdRef) :
    s.snapOut r = [] ↔ (∀ o ∈ s.eut.outst, o.ref ≠ r) ∧ ∀ h ∈ s.eut.held, h.out.ref ≠ r := by
  simp [State.snapOut, List.filter_eq_nil_iff]

theorem State.snapOut_sendSnap (s : State) (h : HeldSnap) (r : CmdRef) :
    (s.sendSnap h).snapOut r = [] ↔ s.snapOut r = [] ∧ h.out.ref ≠ r := by
  rw [State.snapOut_nil, State.snapOut_nil]
  obtain ⟨out, held⟩ | ⟨⟨t, out⟩, held⟩ := s.sendSnap_lists h
  · rw [out, held]
    simp only [List.forall_mem_append, List.forall_mem_singleton, and_assoc]
  · rw [out, held]
    simp only [List.forall_mem_append, List.forall_mem_singleton]
    tauto

theorem State.snapOut_sendSnaps {β : Type} (f : β → HeldSnap) (l : List β) (s : State) (r : CmdRef) :
    (l.foldl (fun s x => s.sendSnap (f x)) s).snapOut r = [] ↔ s.snapOut r = [] ∧ ∀ x ∈ l, (f x).out.ref ≠ r := by
  induction l generalizing s with
  | nil => simp
  | cons x l ih => rw [List.foldl_cons, ih, State.snapOut_sendSnap, List.forall_mem_cons, and_assoc]

/-- Requests that waited for a tag are still those that are out. -/
theorem State.snapOut_pumpSnap (s : State) (r : CmdRef) : s.pumpSnap.snapOut r = [] ↔ s.snapOut r = [] := by
  unfold State.pumpSnap
  rw [State.snapOut_sendSnaps (fun h => h), State.snapOut_nil, State.snapOut_nil]
  simp

theorem State.snapOut_dropOut (s : State) (r : CmdRef) : (s.dropOut r).snapOut r = [] := by
  rw [State.snapOut_nil]
  simp [State.dropOut]

theorem State.snapOut_congr {s t : State} (out : t.eut.outst = s.eut.outst) (held : t.eut.held = s.eut.held) (r : CmdRef) :
    t.snapOut r = s.snapOut r := by rw [State.snapOut, out, held, State.snapOut]

/-- Going on with transfers leaves the snapshot requests alone. -/
theorem State.pumpTier_lists (s : State) (p : Part) : (s.pumpTier p).eut.outst = s.eut.outst ∧ (s.pumpTier p).eut.held = s.eut.held := by
  have sent {s t : State} (h : t.eut = s.eut) : t.eut.outst = s.eut.outst ∧ t.eut.held = s.eut.held := by simp [h]
  refine State.pumpTier_rel (R := fun s t => t.eut.outst = s.eut.outst ∧ t.eut.held = s.eut.held) (fun _ => ⟨rfl, rfl⟩)
    (fun h k => ⟨k.1.trans h.1, k.2.trans h.2⟩) (fun _ _ => ⟨rfl, rfl⟩) (fun s _ _ _ _ => sent ((Quiet.sendMsg s _ _ _).trans (Quiet.emit _ _)).eut)
    (fun s g m d b => sent ?_) (fun _ _ _ => ⟨rfl, rfl⟩) s p
  unfold State.sendRouted
  split
  · exact (Quiet.perEvent _ 0x0941 1 _ _ (by decide)).eut.trans (s.sqSet_eut _ _ _ _ _)
  · dsimp only
    split
    · rfl
    · exact ((Quiet.sendMsg s _ _ _).trans (Quiet.emit _ _)).eut

theorem State.snapOut_pumpTier (s : State) (p : Part) (r : CmdRef) : (s.pumpTier p).snapOut r = s.snapOut r :=
  State.snapOut_congr (s.pumpTier_lists p).1 (s.pumpTier_lists p).2 r

/-! ## Pieces of a range (R297) -/

theorem pieces64_ne_nil (fuel a : Nat) {len : Nat} (h : 0 < len) : pieces64 (fuel + 1) a len ≠ [] := by
  rw [pieces64, if_neg (by omega)]
  exact List.cons_ne_nil _ _

end Sys2Proof.Machine
end

section
/-! SUPPORT. SNAPSHOT (R358 to R366): how it starts, the local copy, and what completing a PARTNER snapshot shows. -/

namespace Sys2Proof.Machine

open Sys2Proof.Safety

/-! ## Where the part stands in the torus and its groups (R311 to R314, R323) -/

/-- The registers that say so. -/
def torusReg : RegName → Bool
  | .PER_COORD | .PER_TOPO | .PER_LTOPO | .PER_REMAPi_L | .PER_REMAPi_P | .PER_DEADi | .PER_GRPg_X | .PER_GRPg_Y | .PER_GRPg_Z => true
  | _ => false

theorem torusReg_grpReg (d : Nat) : torusReg (grpReg d) = true := by
  unfold grpReg
  split <;> rfl

theorem monReg_torusReg {r : RegName} (h : torusReg r = true) : monReg r = false := by
  have table : (!torusReg r || !monReg r) = true := by cases r <;> rfl
  simpa [h] using table

section

variable {s t : State} (rd : ∀ r i a, torusReg r = true → t.rd r i a = s.rd r i a)
include rd

theorem State.fget_torus (f : Fld) (i a : Nat) (h : torusReg f.reg = true) : t.fget f i a = s.fget f i a := by
  rw [State.fget, rd _ _ _ h, State.fget]

theorem State.grpDim_torus (g : Nat) : t.grpDim g = s.grpDim g := by
  funext d
  rw [State.grpDim, rd _ _ _ (torusReg_grpReg d), State.grpDim]

theorem State.remaps_torus : t.remaps = s.remaps := by
  have valid : t.remapValid = s.remapValid := by
    funext i
    rw [State.remapValid, State.fbit, State.fget_torus rd _ _ _ rfl, State.remapValid, State.fbit]
  rw [State.remaps, valid, State.remaps]

theorem State.remapLog_torus (i : Nat) : t.remapLog i = s.remapLog i := State.fget_torus rd _ _ _ rfl
theorem State.remapPhys_torus (i : Nat) : t.remapPhys i = s.remapPhys i := State.fget_torus rd _ _ _ rfl

theorem State.toPhys_torus (c : Coord) : t.toPhys c = s.toPhys c := by
  simp only [State.toPhys, State.remaps_torus rd, State.remapLog_torus rd, State.remapPhys_torus rd]

theorem State.isDead_torus (c : Coord) : t.isDead c = s.isDead c := by
  simp only [State.isDead, State.deads, State.fbit, State.fget_torus rd Fld.PER_DEADi_VALID _ _ rfl, State.fget_torus rd Fld.PER_DEADi_COORD _ _ rfl]

theorem State.extL_torus : t.extL = s.extL := by
  simp only [State.extL, State.fget_torus rd Fld.PER_LTOPO_DXLX _ _ rfl, State.fget_torus rd Fld.PER_LTOPO_DYLY _ _ rfl,
    State.fget_torus rd Fld.PER_LTOPO_DZLZ _ _ rfl]

theorem State.ownL_torus : t.ownL = s.ownL := by
  have log : t.remapLog = s.remapLog := funext (State.remapLog_torus rd)
  have phys : t.remapPhys = s.remapPhys := funext (State.remapPhys_torus rd)
  unfold State.ownL State.toLog State.ownP
  rw [rd .PER_COORD _ _ rfl, State.remaps_torus rd, log, phys, State.extL_torus rd]

theorem State.ownRank_torus (g : Nat) : t.ownRank g = s.ownRank g := by
  have rank : t.rankOf g = s.rankOf g := by
    funext l
    simp only [State.rankOf, State.grpIndex, State.grpCount, State.grpDim_torus rd, State.extL_torus rd]
  rw [State.ownRank, State.ownL_torus rd, rank, State.ownRank]

theorem State.digestRanks_torus (g : Nat) : t.digestRanks g = s.digestRanks g := by
  have size : t.grpSize g = s.grpSize g := by simp only [State.grpSize, State.grpCount, State.grpDim_torus rd]
  unfold State.digestRanks
  rw [size, State.ownRank_torus rd]

theorem State.partnerLive_torus (pair : ∀ i a, t.rd .RCV_PARTNER i a = s.rd .RCV_PARTNER i a) (p : Part) : t.partnerLive p = s.partnerLive p := by
  have coord : t.fget Fld.RCV_PARTNER_COORD 0 p.val = s.fget Fld.RCV_PARTNER_COORD 0 p.val := by
    rw [State.fget, show Fld.RCV_PARTNER_COORD.reg = .RCV_PARTNER from rfl, pair]
    rfl
  rw [State.partnerLive, State.pairAccepted, pair, coord, State.toPhys_torus rd, State.isDead_torus rd, State.partnerLive, State.pairAccepted]

end

/-! ## How SNAPSHOT starts (R360 to R362) -/

section

variable (s : State) (r : CmdRef) (c : Cmd)

/-- The tensors that a SNAPSHOT protects are read. -/
def State.snapFetched : State × Nat := s.fetchTensors r.part.val (c.listed ++ (if snDigest c then [c.desc 1] else []))

/-- So is the ledger. -/
def State.snapRead : State × Nat := (s.snapFetched r c).1.readLedger r.part.val

/-- The digest of another member that the command names, as a number. -/
def State.snapDig : Option Nat := if snDigest c then some (leNat ((s.words (c.desc 1)).flatMap (leBytes 4))) else none

/-- A snapshot to flash or the store sends its writes. -/
def State.snapWrites (img : List Byte) : State :=
  (pieces64 (img.length + 1) (snAddr c) img.length).foldl
    (fun s e => s.sendSnapWr (snPort c) r e.1 (e.1 - snAddr c) ((img.drop (e.1 - snAddr c)).take e.2))
    (s.modRcv r.part (fun y => { y with snaps := y.snaps ++
      [({ ref := r, layer := snLayer c, group := cGroup c, step := cStep c, digest := none, acked := true, safe := true } : SnapRun)] }))

/-- What becomes of an image that fits. -/
def State.snapImaged (img : List Byte) : State :=
  if snLayer c = 0 then s.snapLocal r c img (s.snapDig c)
  else if s.flashAbsent (snPort c) (snAddr c) then s.snapStatus.2.failRun r c s.snapStatus.1
  else s.snapWrites r c img

variable {s r c}

theorem State.snapshot_waits (h : ((vget s.rcv r.part).snaps.any (fun x => x.ref == r) ||
    (vget s.rcv r.part).due.any (fun e => e.2.2 == (cGroup c, cStep c))) = true) : s.snapshot r c = s := if_pos h

section

variable (go : ((vget s.rcv r.part).snaps.any (fun x => x.ref == r) ||
  (vget s.rcv r.part).due.any (fun e => e.2.2 == (cGroup c, cStep c))) = false)
include go

theorem State.snapshot_held (held : s.snapHeld r.part c = true) : s.snapshot r c = s.failRun r c 0x0B01 :=
  (if_neg (by simp [go])).trans (if_pos held)

theorem State.snapshot_reads (free : s.snapHeld r.part c = false) : s.snapshot r c =
    if (s.snapFetched r c).2 ≠ 0 then (s.snapFetched r c).1.failRun r c (s.snapFetched r c).2
    else if (s.snapRead r c).2 ≠ 0 then (s.snapRead r c).1.failRun r c (s.snapRead r c).2
    else if snSpace c < ((s.snapRead r c).1.imageOf r.part c).length then (s.snapRead r c).1.failRun r c 0x0B02
    else (s.snapRead r c).1.snapImaged r c ((s.snapRead r c).1.imageOf r.part c) :=
  (if_neg (by simp [go])).trans (if_neg (by simp [free]))

end

end

end Sys2Proof.Machine
end

section
/-! SUPPORT. The local copy of a PARTNER snapshot (R363), and what completing one shows (R358, R365). -/

namespace Sys2Proof.Machine

open Sys2Proof.Safety

/-! ## What the recovery engine's own notes leave alone -/

/-- What notes of the recovery engine leave alone: memory, the tier engines, the groups, and the counters of steps. -/
structure Noted (s t : State) : Prop where
  mem : t.mem = s.mem
  tier : t.tier = s.tier
  col : t.col = s.col
  regs : KeepsRegs s t (· == .RCV_STATUS)

namespace Noted

theorem refl (s : State) : Noted s s := ⟨rfl, rfl, rfl, KeepsRegs.refl s _⟩

theorem trans {s t u : State} (h : Noted s t) (k : Noted t u) : Noted s u :=
  ⟨k.mem.trans h.mem, k.tier.trans h.tier, k.col.trans h.col, h.regs.trans k.regs⟩

theorem quiet {s t : State} (h : Quiet s t) : Noted s t := ⟨h.mem, h.tier, h.col, KeepsRegs.quiet h _⟩
theorem modRcv (s : State) (p : Part) (f : RcvSt → RcvSt) : Noted s (s.modRcv p f) := ⟨by simp, by simp, by simp, KeepsRegs.of_rf (by simp) _⟩

theorem rcvStatus (s : State) (p : Nat) (b c : List Fld) : Noted s (s.rcvStatus p b c) :=
  ⟨s.sqSet_mem _ _ _ _ _, s.sqSet_tier _ _ _ _ _, s.sqSet_col _ _ _ _ _, KeepsRegs.wr s _ _ _ _ rfl⟩

theorem rcvEvent (s : State) (p code sev a b : Nat) (h : sev ≠ 3) : Noted s (s.rcvEvent p code sev a b) := quiet (Quiet.event s _ h)

theorem endCmd (s : State) (r : CmdRef) (st : Nat) : Noted s (s.endCmd r st) := by
  have h := OnlyQueues.endCmd s r st
  exact ⟨h.mem, h.tier, by rw [h], KeepsRegs.of_rf h.rf _⟩

theorem rd_step {s t : State} (h : Noted s t) {r : RegName} (n : r ≠ .RCV_STATUS) (l : loud r = false) (i a : Nat) : t.rd r i a = s.rd r i a :=
  h.regs r i a (by simpa using n) l

end Noted

/-! ## The end of a PARTNER snapshot -/

section

variable (s : State) (p : Part) (x : SnapRun)

/-- PROTECTED_STEP, and after a comparison of digests WSTEP, name the step. -/
def State.stepsNoted : State :=
  if x.digest.isSome then (s.setStep .RCV_GRPg_PROT p x.group x.step).setStep .RCV_GRPg_W p x.group x.step else s.setStep .RCV_GRPg_PROT p x.group x.step

/-- The local copy of the step is complete. -/
def State.copiesWhole : State := s.modRcv p (fun r => { r with copies := r.copies.map (fun c =>
  if c.group = x.group ∧ c.step = x.step then { c with whole := true } else c) })

/-- A snapshot without a live partner is reported once for its step. -/
def State.unprotNoted : State :=
  if x.safe || (vget s.rcv p).unprot.contains (x.group, x.step) then s
  else ((s.modRcv p (fun r => { r with unprot := (x.group, x.step) :: r.unprot })).rcvStatus p.val [Fld.RCV_STATUS_UNPROTECTED] []).rcvEvent
    p.val 0x0B0A 1 x.group x.step

theorem State.snapPartner_eq : s.snapPartner p x =
    ((((s.stepsNoted p x).copiesWhole p x).unprotNoted p x).snapEnd p x 0).colForward x.group := rfl

theorem State.stepsNoted_rd_prot : (s.stepsNoted p x).rd .RCV_GRPg_PROT x.group p.val = BitVec.ofNat 32 x.step := by
  unfold State.stepsNoted
  split
  · exact (State.rd_wr_reg _ _ _ _ _ _ (by decide)).trans (State.rd_wr_same _ _ _ _ _)
  · exact State.rd_wr_same _ _ _ _ _

theorem State.stepsNoted_rd_w (h : x.digest.isSome = true) : (s.stepsNoted p x).rd .RCV_GRPg_W x.group p.val = BitVec.ofNat 32 x.step := by
  rw [State.stepsNoted, if_pos h]
  exact State.rd_wr_same _ _ _ _ _

theorem CmdKept.stepsNoted : CmdKept s (s.stepsNoted p x) := by
  unfold State.stepsNoted
  split
  · exact (CmdKept.wr s _ _ _ _ rfl).trans (CmdKept.wr _ _ _ _ _ rfl)
  · exact CmdKept.wr s _ _ _ _ rfl

theorem State.stepsNoted_kept : (s.stepsNoted p x).mem = s.mem ∧ (s.stepsNoted p x).rcv = s.rcv ∧ (s.stepsNoted p x).col = s.col := by
  unfold State.stepsNoted State.setStep
  split
  · simp
  · simp

theorem Noted.unprotNoted : Noted s (s.unprotNoted p x) := by
  unfold State.unprotNoted
  split
  · exact refl s
  · exact ((modRcv s p _).trans (rcvStatus _ _ _ _)).trans (rcvEvent _ p.val 0x0B0A 1 _ _ (by decide))

theorem CmdKept.unprotNoted : CmdKept s (s.unprotNoted p x) := by
  unfold State.unprotNoted
  split
  · exact refl s
  · exact ((modRcv s p _).trans (sqSet _ _ _ _ _ _ rfl)).trans (event _ _)

theorem State.unprotNoted_copies : (vget (s.unprotNoted p x).rcv p).copies = (vget s.rcv p).copies := by
  unfold State.unprotNoted
  split
  · rfl
  · rw [State.rcvEvent, (Quiet.event _ _ (show 1 ≠ 3 by decide)).rcv, State.rcvStatus, State.sqSet_rcv, State.modRcv_rcv_same]

theorem Noted.snapEnd (st : Nat) : Noted s (s.snapEnd p x st) := (modRcv s p _).trans (endCmd _ _ _)

theorem State.snapEnd_copies (st : Nat) : (vget (s.snapEnd p x st).rcv p).copies = (vget s.rcv p).copies := by
  unfold State.snapEnd
  dsimp only
  rw [OnlyQueues.endCmd, State.modRcv_rcv_same]

variable {s p x}

theorem CmdEnded.snapEnd {u : State} {op : Nat} {c : Cmd} (run : u.running x.ref op = some c) (same : s.queues = u.queues) (st : Nat) :
    CmdEnded (s.snapEnd p x st) x.ref st := CmdEnded.endCmd_after run ((State.modRcv_queues s p _).trans same) st

/-- A first lap does not start where no COMMIT waits. -/
theorem State.colForward_idle {g : Nat} (h : (s.colSt g).commit = none) : s.colForward g = s := by
  unfold State.colForward
  rw [h]

/-- What a PARTNER snapshot that completes shows. -/
structure SnapProtected (s : State) (p : Part) (x : SnapRun) (t : State) : Prop where
  ended : CmdEnded t x.ref 0
  mem : t.mem = s.mem
  prot : t.rd .RCV_GRPg_PROT x.group p.val = BitVec.ofNat 32 x.step
  w : x.digest.isSome = true → t.rd .RCV_GRPg_W x.group p.val = BitVec.ofNat 32 x.step
  copies : ∀ k ∈ (vget s.rcv p).copies, k.group = x.group → k.step = x.step → { k with whole := true } ∈ (vget t.rcv p).copies

theorem State.snapPartner_protects {u : State} {op : Nat} {c : Cmd} (run : u.running x.ref op = some c) (same : s.queues = u.queues)
    (idle : (s.colSt x.group).commit = none) : SnapProtected s p x (s.snapPartner p x) := by
  obtain ⟨mem, rcv, col⟩ := s.stepsNoted_kept p x
  have marked : Noted ((s.stepsNoted p x).copiesWhole p x) ((((s.stepsNoted p x).copiesWhole p x).unprotNoted p x).snapEnd p x 0) :=
    (Noted.unprotNoted _ p x).trans (Noted.snapEnd _ p x 0)
  have whole : Noted (s.stepsNoted p x) ((s.stepsNoted p x).copiesWhole p x) := Noted.modRcv _ p _
  have all := whole.trans marked
  have queues : (((s.stepsNoted p x).copiesWhole p x).unprotNoted p x).queues = u.queues :=
    (((CmdKept.stepsNoted s p x).trans (CmdKept.modRcv _ p _)).trans (CmdKept.unprotNoted _ p x)).queues.trans same
  have commit : (((((s.stepsNoted p x).copiesWhole p x).unprotNoted p x).snapEnd p x 0).colSt x.group).commit = none := by
    rw [State.colSt, all.col, col, ← State.colSt, idle]
  rw [State.snapPartner_eq, State.colForward_idle commit]
  refine ⟨CmdEnded.snapEnd run queues 0, all.mem.trans mem, ?_, fun digest => ?_, fun k held group step => ?_⟩
  · rw [all.rd_step (by decide) rfl, State.stepsNoted_rd_prot]
  · rw [all.rd_step (by decide) rfl, State.stepsNoted_rd_w _ _ _ digest]
  · rw [State.snapEnd_copies, State.unprotNoted_copies, State.copiesWhole, State.modRcv_rcv_same, rcv]
    exact List.mem_map.mpr ⟨k, held, if_pos ⟨group, step⟩⟩

/-- A PARTNER snapshot without digests to wait for completes once its partner has answered. -/
theorem State.snapTry_alone (layer : x.layer = 0) (acked : x.acked = true) (alone : x.digest = none ∨ s.digestRanks x.group = []) :
    s.snapTry p x = s.snapPartner p x := by
  unfold State.snapTry
  rw [if_neg (by simp [layer, acked])]
  cases dig : x.digest with
  | none => rfl
  | some mine =>
    have none : s.digestAlive x.group = [] := by
      rw [State.digestAlive, alone.resolve_left (by simp [dig])]
      rfl
    dsimp only
    rw [none]
    simp

end

/-! ## The local copy -/

section

variable (s : State) (r : CmdRef) (c : Cmd) (img : List Byte) (dig : Option Nat)

/-- Where the image goes: the slot of its step (R363). -/
def copyAddr (c : Cmd) : Nat := snAddr c + cStep c % 2 * snSpace c

/-- The copy is noted, not yet complete. -/
def State.copyNoted : State := s.modRcv r.part (fun x => x.setCopy { group := cGroup c, step := cStep c, coord := s.selfNum, addr := copyAddr c,
                                                                     bytes := img.length, whole := false })

/-- And written. -/
def State.copyWritten : State × Nat := (s.copyNoted r c img).writeAs r.part.val (copyAddr c) img

/-- The snapshot that waits for its partner. -/
def State.localRun : SnapRun :=
  { ref := r, layer := 0, group := cGroup c, step := cStep c, digest := dig, acked := !s.partnerLive r.part, safe := false }

/-- It is listed, and the copy and its digest are sent. -/
def State.snapListed : State := s.modRcv r.part (fun y => { y with snaps := y.snaps ++ [s.localRun r c dig] })

def State.snapSent : State :=
  let u := if s.partnerLive r.part then (s.snapListed r c dig).sendProtect r.part (cGroup c) (cStep c) img else s.snapListed r c dig
  match dig with
  | none => u
  | some v => (u.digestRanks (cGroup c)).foldl (fun s k => (s.sendRec 0x12 (s.memberAt (cGroup c) k) (s.recHdr 0 (cStep c) (cGroup c)) (leBytes 8 v)).1) u

theorem State.snapLocal_eq : s.snapLocal r c img dig =
    if (s.copyWritten r c img).2 ≠ 0 then (s.copyWritten r c img).1.failRun r c (s.copyWritten r c img).2
    else ((s.copyWritten r c img).1.snapSent r c img dig).snapTry r.part ((s.copyWritten r c img).1.localRun r c dig) := rfl

/-- Noting the copy does not decide how its write ends. -/
theorem State.copyWritten_status : (s.copyWritten r c img).2 = (s.writeAs r.part.val (copyAddr c) img).2 :=
  (SameStore.writeAs (s := s) (t := s.copyNoted r c img) ⟨by simp [State.copyNoted], by simp [State.copyNoted]⟩ rfl _ _ _).2

theorem Posted.snapSent {n : RegName → Bool} (per : n .PER_STATUS = true) : Posted n (s.snapListed r c dig) (s.snapSent r c img dig) := by
  unfold State.snapSent
  extract_lets u
  have first : Posted n (s.snapListed r c dig) u := by
    unfold u
    split
    · exact sendProtect per _ _ _ _ _
    · exact refl _
  cases dig with
  | none => exact first
  | some v => exact first.trans (foldl (fun s _ => sendRec per s _ _ _ _) _ u)

variable {s r c img dig}

/-- Without a live partner and without digests to send, nothing is sent. -/
theorem State.snapSent_alone (gone : s.partnerLive r.part = false) (alone : dig = none ∨ s.digestRanks (cGroup c) = []) :
    s.snapSent r c img dig = s.snapListed r c dig := by
  unfold State.snapSent
  rw [if_neg (by simp [gone])]
  cases dig with
  | none => rfl
  | some v =>
    have none : (s.snapListed r c (some v)).digestRanks (cGroup c) = [] := alone.resolve_left (by simp)
    dsimp only
    rw [none]
    rfl

end

end Sys2Proof.Machine
end

section
/-! SUPPORT. SNAPSHOT, case by case (R361 to R366). -/

namespace Sys2Proof.Machine

open Sys2Proof.Safety

theorem exec_snapshot {s : State} {r : CmdRef} {c : Cmd} (run : s.running r 0x60 = some c) : exec (.snapshot r) s = .next (s.snapshot r c) := by
  show execSnapshot r s = _
  rw [execSnapshot, run]

theorem exec_snapshot_none {s : State} {r : CmdRef} (idle : s.running r 0x60 = none) : exec (.snapshot r) s = .next s := by
  show execSnapshot r s = _
  rw [execSnapshot, idle]

/-! ## An image is not empty (R362) -/

theorem padTo_length_le (n : Nat) (b : List Byte) : n ≤ (padTo n b).length := by
  simp only [padTo, List.length_append, List.length_replicate]
  omega

theorem State.imageOf_pos (s : State) (p : Part) (c : Cmd) : 0 < (s.imageOf p c).length := by
  have header (b body : List Byte) : 0 < (padTo 4096 b ++ body).length := by
    have := padTo_length_le 4096 b
    rw [List.length_append]
    omega
  exact header _ _

/-- The status of a write that cannot be made is none of success (log 53). -/
theorem State.snapStatus_pos (s : State) : s.snapStatus.1 ≠ 0 := by
  have form : ∃ a b, s.snapStatus.1 = a + 1 + b := ⟨_, _, rfl⟩
  obtain ⟨a, b, form⟩ := form
  omega

/-! ## One that starts -/

section

variable {s : State} {r : CmdRef} {c : Cmd}

theorem Worked.snapFetched (s : State) (r : CmdRef) (c : Cmd) : Worked s (s.snapFetched r c).1 := touched (Touched.fetchTensors s _ _ _)
theorem Worked.snapRead (s : State) (r : CmdRef) (c : Cmd) : Worked s (s.snapRead r c).1 := (snapFetched s r c).trans (readLedger _ _)

theorem Worked.copyWritten {s t : State} (h : Worked s t) (r : CmdRef) (c : Cmd) (img : List Byte) :
    (t.copyWritten r c img).1.queues = s.queues ∧ (t.copyWritten r c img).1.col = s.col ∧
    ∀ q i a, monReg q = false → (t.copyWritten r c img).1.rd q i a = s.rd q i a := by
  have w : Written (t.copyNoted r c img) (t.copyWritten r c img).1 := Written.writeAs _ _ _ _
  refine ⟨(w.queues.trans (t.modRcv_queues _ _)).trans h.queues, (w.col.trans (t.modRcv_col _ _)).trans h.col, fun q i a n => ?_⟩
  rw [w.rd q i a (monReg_false n).1, State.copyNoted, State.modRcv_rd, h.rd q i a n]

variable (go : ((vget s.rcv r.part).snaps.any (fun x => x.ref == r) ||
  (vget s.rcv r.part).due.any (fun e => e.2.2 == (cGroup c, cStep c))) = false) (free : s.snapHeld r.part c = false)
include go free

theorem State.snapshot_unread (bad : (s.snapFetched r c).2 ≠ 0) : s.snapshot r c = (s.snapFetched r c).1.failRun r c (s.snapFetched r c).2 := by
  rw [State.snapshot_reads go free, if_pos bad]

variable (read : (s.snapFetched r c).2 = 0)
include read

theorem State.snapshot_ledgerless (bad : (s.snapRead r c).2 ≠ 0) : s.snapshot r c = (s.snapRead r c).1.failRun r c (s.snapRead r c).2 := by
  rw [State.snapshot_reads go free, if_neg (by simp [read]), if_pos bad]

variable (led : (s.snapRead r c).2 = 0)
include led

theorem State.snapshot_long (long : snSpace c < ((s.snapRead r c).1.imageOf r.part c).length) :
    s.snapshot r c = (s.snapRead r c).1.failRun r c 0x0B02 := by
  rw [State.snapshot_reads go free, if_neg (by simp [read]), if_neg (by simp [led]), if_pos long]

theorem State.snapshot_fits (fits : ((s.snapRead r c).1.imageOf r.part c).length ≤ snSpace c) :
    s.snapshot r c = (s.snapRead r c).1.snapImaged r c ((s.snapRead r c).1.imageOf r.part c) := by
  rw [State.snapshot_reads go free, if_neg (by simp [read]), if_neg (by simp [led]), if_neg (by omega)]

end

/-! ## The local copy, as the command sees it -/

section

variable {s y : State} {r : CmdRef} {c : Cmd} {img : List Byte} (run : s.running r 0x60 = some c) (work : Worked s y)
include run work

theorem CmdEnded.snapLocal_unwritten {dig : Option Nat} (bad : (y.writeAs r.part.val (copyAddr c) img).2 ≠ 0) :
    CmdEnded (y.snapLocal r c img dig) r (y.writeAs r.part.val (copyAddr c) img).2 := by
  rw [← y.copyWritten_status r c img] at bad ⊢
  rw [State.snapLocal_eq, if_pos bad]
  exact CmdEnded.failRun_after run (work.copyWritten r c img).1 _

omit run in
theorem State.partnerLive_copyWritten : (y.copyWritten r c img).1.partnerLive r.part = s.partnerLive r.part := by
  obtain ⟨-, -, rd⟩ := work.copyWritten r c img
  exact State.partnerLive_torus (fun q i a h => rd q i a (monReg_torusReg h)) (fun i a => rd _ i a rfl) _

variable (ok : (y.writeAs r.part.val (copyAddr c) img).2 = 0)
include ok

omit run work in
theorem State.snapLocal_written (dig : Option Nat) : y.snapLocal r c img dig =
    ((y.copyWritten r c img).1.snapSent r c img dig).snapTry r.part ((y.copyWritten r c img).1.localRun r c dig) := by
  rw [State.snapLocal_eq, if_neg (by rw [State.copyWritten_status]; simp [ok])]

omit run in
/-- With a live partner the snapshot goes on until that answers. -/
theorem State.snapLocal_live (dig : Option Nat) (live : s.partnerLive r.part = true) : (y.snapLocal r c img dig).queues = s.queues ∧
    ∃ z ∈ (vget (y.snapLocal r c img dig).rcv r.part).snaps, z.ref = r ∧ z.layer = 0 ∧ z.group = cGroup c ∧ z.step = cStep c ∧ z.acked = false := by
  have acked : ((y.copyWritten r c img).1.localRun r c dig).acked = false := by
    rw [State.localRun, State.partnerLive_copyWritten work, live]
    rfl
  have sent := Posted.snapSent (n := fun _ => true) (y.copyWritten r c img).1 r c img dig rfl
  rw [State.snapLocal_written ok, State.snapTry, if_pos (.inr acked)]
  refine ⟨?_, (y.copyWritten r c img).1.localRun r c dig, ?_, rfl, rfl, rfl, rfl, acked⟩
  · rw [sent.queues, State.snapListed, State.modRcv_queues, (work.copyWritten r c img).1]
  · rw [sent.rcv, State.snapListed, State.modRcv_rcv_same]
    exact List.mem_append_right _ (List.mem_singleton_self _)

/-- Without one, and without digests, it is complete with its local copy. -/
theorem State.snapLocal_alone {dig : Option Nat} (gone : s.partnerLive r.part = false) (alone : dig = none ∨ s.digestRanks (cGroup c) = [])
    (idle : (s.colSt (cGroup c)).commit = none) :
    SnapProtected ((y.copyWritten r c img).1.snapListed r c dig) r.part ((y.copyWritten r c img).1.localRun r c dig) (y.snapLocal r c img dig) := by
  obtain ⟨queues, col, rd⟩ := work.copyWritten r c img
  have live : (y.copyWritten r c img).1.partnerLive r.part = false := (State.partnerLive_copyWritten work).trans gone
  have ranks : dig = none ∨ (y.copyWritten r c img).1.digestRanks (cGroup c) = [] :=
    alone.imp_right fun h => (State.digestRanks_torus (fun q i a k => rd q i a (monReg_torusReg k)) _).trans h
  have acked : ((y.copyWritten r c img).1.localRun r c dig).acked = true := by
    rw [State.localRun, live]
    rfl
  have commit : (((y.copyWritten r c img).1.snapListed r c dig).colSt (cGroup c)).commit = none := by
    rw [State.colSt, State.snapListed, State.modRcv_col, col, ← State.colSt, idle]
  rw [State.snapLocal_written ok, State.snapSent_alone live ranks, State.snapTry_alone (s := (y.copyWritten r c img).1.snapListed r c dig) rfl acked ranks]
  exact State.snapPartner_protects (x := (y.copyWritten r c img).1.localRun r c dig) run (((y.copyWritten r c img).1.modRcv_queues _ _).trans queues) commit

end

/-! ## What the local copy holds -/

section

variable (y : State) (r : CmdRef) (c : Cmd) (img : List Byte) (dig : Option Nat)

/-- It is listed with its address and length. -/
theorem State.copyWritten_lists :
    { group := cGroup c, step := cStep c, coord := y.selfNum, addr := copyAddr c, bytes := img.length, whole := false } ∈
      (vget ((y.copyWritten r c img).1.snapListed r c dig).rcv r.part).copies := by
  have w : Written (y.copyNoted r c img) (y.copyWritten r c img).1 := Written.writeAs _ _ _ _
  rw [State.snapListed, State.modRcv_rcv_same, w.rcv, State.copyNoted, State.modRcv_rcv_same]
  exact List.mem_append_right _ (List.mem_singleton_self _)

variable {y r c img dig} {t : State} (mem : t.mem = ((y.copyWritten r c img).1.snapListed r c dig).mem) (tier : y.tier = State.reset.tier)
include mem tier

theorem State.copyWritten_in (ok : (y.writeAs r.part.val (copyAddr c) img).2 = 0) (fits : copyAddr c + img.length ≤ t2Base) {i : Nat}
    (lt : i < img.length) : t.cell (copyAddr c + i) = img.getD i 0 := by
  rw [← y.copyWritten_status] at ok
  rw [KeepsMem.of_mem (mem.trans (State.modRcv_mem _ _ _))]
  exact State.cell_writeAs_in ((State.modRcv_tier y _ _).trans tier) _ ok lt (by omega)

theorem State.copyWritten_out {b : Nat} (out : b < copyAddr c ∨ copyAddr c + img.length ≤ b) : t.cell b = y.cell b := by
  rw [KeepsMem.of_mem (mem.trans (State.modRcv_mem _ _ _))]
  exact (State.cell_writeAs_out ((State.modRcv_tier y _ _).trans tier) _ out).trans (KeepsMem.of_mem (State.modRcv_mem _ _ _) b)

end

/-! ## Flash and the store (R300) -/

theorem Worked.flashAbsent {s t : State} (h : Worked s t) (k a : Nat) : t.flashAbsent k a = s.flashAbsent k a := by
  rw [State.flashAbsent, State.fbit, h.fget _ _ _ rfl, State.flashAbsent, State.fbit]

section

variable {s y : State} {r : CmdRef} {c : Cmd} {img : List Byte} (run : s.running r 0x60 = some c) (work : Worked s y) (layer : snLayer c ≠ 0)
include run work layer

theorem CmdEnded.snapImaged_absent (gone : s.flashAbsent (snPort c) (snAddr c) = true) : CmdEnded (y.snapImaged r c img) r y.snapStatus.1 := by
  rw [State.snapImaged, if_neg layer, if_pos ((work.flashAbsent _ _).trans gone)]
  exact CmdEnded.failRun_after run ((Quiet.draw y 16).queues.trans work.queues) _

omit run in
theorem State.snapImaged_sends (there : s.flashAbsent (snPort c) (snAddr c) = false) (some : 0 < img.length) :
    (y.snapImaged r c img).queues = s.queues ∧ (y.snapImaged r c img).snapOut r ≠ [] ∧
    ∃ z ∈ (vget (y.snapImaged r c img).rcv r.part).snaps, z.ref = r ∧ z.layer = snLayer c ∧ z.group = cGroup c ∧ z.step = cStep c := by
  let z : SnapRun := { ref := r, layer := snLayer c, group := cGroup c, step := cStep c, digest := none, acked := true, safe := true }
  have sent : Posted (fun _ => false) (y.modRcv r.part (fun x => { x with snaps := x.snaps ++ [z] })) (y.snapWrites r c img) :=
    Posted.foldl (fun s _ => Posted.sendSnap s _) _ _
  rw [State.snapImaged, if_neg layer, if_neg (by rw [work.flashAbsent]; simp [there])]
  refine ⟨?_, fun none => ?_, z, ?_, rfl, rfl, rfl, rfl⟩
  · rw [sent.queues, State.modRcv_queues, work.queues]
  · obtain ⟨-, other⟩ := (State.snapOut_sendSnaps _ _ _ r).mp none
    obtain ⟨e, mem⟩ := List.exists_mem_of_ne_nil _ (pieces64_ne_nil img.length (snAddr c) some)
    exact other e mem rfl
  · rw [sent.rcv, State.modRcv_rcv_same]
    exact List.mem_append_right _ (List.mem_singleton_self _)

end

end Sys2Proof.Machine
end

section
/-! SUPPORT. A restore that finds no source (R373, R376), and completions of snapshot requests (R300, R366). -/

namespace Sys2Proof.Machine

open Sys2Proof.Safety

/-! ## A restore without a source -/

section

variable (s : State) (p : Part) (r : CmdRef)

theorem CmdKept.abandon (bit : Nat) : CmdKept s (s.abandon p bit) := by
  unfold State.abandon State.rcvStatus State.rcvEvent
  exact ((((modRcv s p _).trans (wr _ .RCV_STATE _ _ _ rfl)).trans (wr _ .RCV_RSTEP _ _ _ rfl)).trans (sqSet _ .RCV_STATUS _ _ _ _ rfl)).trans (event _ _)

theorem State.abandon_mem (bit : Nat) : (s.abandon p bit).mem = s.mem := by
  simp [State.abandon, State.rcvEvent, State.rcvStatus]

theorem KeepsRegs.abandon (bit : Nat) : KeepsRegs s (s.abandon p bit) (fun q => q == .RCV_STATE || q == .RCV_RSTEP || q == .RCV_STATUS) := by
  unfold State.abandon State.rcvStatus State.rcvEvent
  exact ((((of_rf (State.modRcv_rf s p _) _).trans (wr _ .RCV_STATE _ _ _ rfl)).trans (wr _ .RCV_RSTEP _ _ _ rfl)).trans (wr _ .RCV_STATUS _ _ _ rfl)).trans
    (quiet (Quiet.event _ _ (show 1 ≠ 3 by decide)) _)

theorem State.abandon_rests (bit : Nat) (q : Part) : (vget (s.abandon p bit).rcv q).rests = (vget s.rcv q).rests := by
  unfold State.abandon
  dsimp only
  rw [State.rcvEvent, (Quiet.event _ _ (show 1 ≠ 3 by decide)).rcv, State.rcvStatus, State.sqSet_rcv, State.wr_rcv, State.wr_rcv]
  by_cases h : q = p
  · subst h
    rw [State.modRcv_rcv_same]
  · rw [State.modRcv, vget_vset_ne _ _ h]

/-- A local copy that failed counts as absent. -/
def State.copyDropped : State :=
  if cOparg (s.cmdOf r) % 8 = 0 then
    s.modRcv p (fun x => { x with copies := x.copies.filter (fun d => !(d.group == cGroup (s.cmdOf r) && d.step == cStep (s.cmdOf r))) })
  else s

theorem State.copyDropped_kept : (s.copyDropped p r).queues = s.queues ∧ (s.copyDropped p r).mem = s.mem ∧ (s.copyDropped p r).rf = s.rf ∧
    (vget (s.copyDropped p r).rcv p).rests = (vget s.rcv p).rests := by
  unfold State.copyDropped
  split
  · exact ⟨State.modRcv_queues _ _ _, State.modRcv_mem _ _ _, State.modRcv_rf _ _ _, by rw [State.modRcv_rcv_same]⟩
  · exact ⟨rfl, rfl, rfl, rfl⟩

theorem State.restNoSource_eq : s.restNoSource p r = if (((s.copyDropped p r).restEnd p r 0x0B07).recovering p) = true then
    ((s.copyDropped p r).restEnd p r 0x0B07).abandon p 1 else (s.copyDropped p r).restEnd p r 0x0B07 := rfl

/-- A restore is listed no more, nor what it has asked for. -/
def State.restDropped : State := (s.modRcv p (fun x => { x with rests := x.rests.filter (fun y => y.ref != r) })).dropOut r

theorem State.restEnd_eq (st : Nat) : s.restEnd p r st = (s.restDropped p r).endCmd r st := rfl

/-- Ending a restore changes nothing but its list, its requests and its command. -/
theorem State.restEnd_kept (st : Nat) : (s.restEnd p r st).mem = s.mem ∧ (s.restEnd p r st).rf = s.rf ∧
    (vget (s.restEnd p r st).rcv p).rests = (vget s.rcv p).rests.filter (fun y => y.ref != r) := by
  have h : OnlyQueues (s.restDropped p r) (s.restEnd p r st) := OnlyQueues.endCmd _ r st
  have mem : (s.restDropped p r).mem = s.mem := rfl
  have rf : (s.restDropped p r).rf = s.rf := rfl
  have rcv : (s.restEnd p r st).rcv = (s.restDropped p r).rcv := by rw [h]
  have rests : (vget (s.restDropped p r).rcv p).rests = (vget s.rcv p).rests.filter (fun y => y.ref != r) := by
    have kept : (s.restDropped p r).rcv = (s.modRcv p (fun x => { x with rests := x.rests.filter (fun y => y.ref != r) })).rcv := rfl
    rw [kept, State.modRcv_rcv_same]
  exact ⟨h.mem.trans mem, h.rf.trans rf, by rw [rcv, rests]⟩

variable {s p r}

theorem CmdEnded.restEnd {u : State} {op : Nat} {c : Cmd} (run : u.running r op = some c) (same : s.queues = u.queues) (st : Nat) :
    CmdEnded (s.restEnd p r st) r st := by
  have queues : (s.restDropped p r).queues = s.queues := rfl
  rw [State.restEnd_eq]
  exact CmdEnded.endCmd_after run (queues.trans same) st

theorem CmdEnded.restNoSource {u : State} {op : Nat} {c : Cmd} (run : u.running r op = some c) (same : s.queues = u.queues) :
    CmdEnded (s.restNoSource p r) r 0x0B07 := by
  obtain ⟨queues, -⟩ := s.copyDropped_kept p r
  have ended : CmdEnded ((s.copyDropped p r).restEnd p r 0x0B07) r 0x0B07 := CmdEnded.restEnd run (queues.trans same) _
  rw [State.restNoSource_eq]
  split
  · exact CmdEnded.of_queues ended (CmdKept.abandon _ p 1).queues
  · exact ended

theorem State.restNoSource_mem : (s.restNoSource p r).mem = s.mem := by
  obtain ⟨-, mem, -⟩ := s.copyDropped_kept p r
  obtain ⟨ended, -⟩ := (s.copyDropped p r).restEnd_kept p r 0x0B07
  rw [State.restNoSource_eq]
  split
  · rw [State.abandon_mem, ended, mem]
  · rw [ended, mem]

theorem State.restNoSource_rests : (vget (s.restNoSource p r).rcv p).rests = (vget s.rcv p).rests.filter (fun y => y.ref != r) := by
  obtain ⟨-, -, -, rests⟩ := s.copyDropped_kept p r
  obtain ⟨-, -, ended⟩ := (s.copyDropped p r).restEnd_kept p r 0x0B07
  rw [State.restNoSource_eq]
  split
  · rw [State.abandon_rests, ended, rests]
  · rw [ended, rests]

theorem KeepsRegs.restNoSource : KeepsRegs s (s.restNoSource p r) (fun q => q == .RCV_STATE || q == .RCV_RSTEP || q == .RCV_STATUS) := by
  obtain ⟨-, -, dropped, -⟩ := s.copyDropped_kept p r
  obtain ⟨-, ended, -⟩ := (s.copyDropped p r).restEnd_kept p r 0x0B07
  rw [State.restNoSource_eq]
  split
  · exact (KeepsRegs.of_rf (ended.trans dropped) _).trans (KeepsRegs.abandon _ p 1)
  · exact KeepsRegs.of_rf (ended.trans dropped) _

/-- Outside a recovery no register changes. -/
theorem State.restNoSource_rf (calm : s.recovering p = false) : (s.restNoSource p r).rf = s.rf := by
  obtain ⟨-, -, dropped, -⟩ := s.copyDropped_kept p r
  obtain ⟨-, ended, -⟩ := (s.copyDropped p r).restEnd_kept p r 0x0B07
  have rf := ended.trans dropped
  have still : ((s.copyDropped p r).restEnd p r 0x0B07).recovering p = false := by
    rw [State.recovering, State.rcvState, State.fget, State.rd, rf]
    exact calm
  rw [State.restNoSource_eq, if_neg (by simp [still]), rf]

end

/-! ## A completion, and what goes on after it (R295, R300) -/

/-- The request that has completed is out no more. -/
def State.completed (s : State) (o : Outst) : State := { s with eut := { s.eut with outst := s.eut.outst.filter (· != o) } }

/-- Requests and transfers that waited for a tag go on. -/
def State.wentOn (s : State) : State := (List.finRange 4).foldl (fun s p => s.pumpTier p) s.pumpSnap

theorem exec_snapCpl_none {k : EPort} {tag st : Nat} {data : List Byte} {s : State}
    (none : s.eut.outst.find? (fun o => o.port == k.val && o.tag == tag % 4096) = none) : exec (.snapCpl k tag st data) s = .next s := by
  show execSnapCpl k tag st data s = _
  rw [execSnapCpl, none]

theorem exec_snapCpl {k : EPort} {tag st : Nat} {data : List Byte} {s : State} {o : Outst}
    (found : s.eut.outst.find? (fun o => o.port == k.val && o.tag == tag % 4096) = some o) :
    exec (.snapCpl k tag st data) s = .next ((s.completed o).snapServe o st data).wentOn := by
  show execSnapCpl k tag st data s = _
  rw [execSnapCpl, found]
  rfl

theorem Posted.wentOn {n : RegName → Bool} (per : n .PER_STATUS = true) (s : State) : Posted n s s.wentOn :=
  (pumpSnap s).trans (foldl (fun s p => pumpTier per s p) _ _)

theorem State.snapOut_wentOn (s : State) (r : CmdRef) : s.wentOn.snapOut r = [] ↔ s.snapOut r = [] := by
  have all : s.wentOn.snapOut r = s.pumpSnap.snapOut r :=
    foldl_keep _ _ (fun s => s.snapOut r) (fun s p => State.snapOut_pumpTier s p r) s.pumpSnap
  rw [all, State.snapOut_pumpSnap]

theorem State.snapOut_completed (s : State) (o : Outst) (r : CmdRef) :
    ((s.completed o).snapOut r).isEmpty = !((s.eut.outst.filter (· != o)).any (fun z => z.ref == r) || s.eut.held.any (fun z => z.out.ref == r)) := by
  rw [Bool.eq_iff_iff, List.isEmpty_iff, State.snapOut_nil, Bool.not_eq_true', Bool.or_eq_false_iff, List.any_eq_false, List.any_eq_false]
  simp only [beq_iff_eq]
  rfl

/-! ## What a completion does for its command -/

section

variable {s : State} {o : Outst} {c : Cmd} (st : Nat) (data : List Byte)

theorem State.snapServe_snapshot (at_ : s.cmdAt o.ref.part.val o.ref.queue.val o.ref.slot = some c) (code : cOpcode c = 0x60) {x : SnapRun}
    (found : (vget s.rcv o.ref.part).snaps.find? (fun y => y.ref == o.ref) = some x) : s.snapServe o st data =
      if st ≠ 0 then (s.snapStatus.2.dropOut o.ref).snapEnd o.ref.part x s.snapStatus.1
      else if (s.snapOut o.ref).isEmpty then s.snapDurable o.ref.part x else s := by
  simp only [State.snapServe, at_, code, found]

theorem State.snapServe_restore (at_ : s.cmdAt o.ref.part.val o.ref.queue.val o.ref.slot = some c) (code : cOpcode c = 0x61) {x : RestRun}
    (found : (vget s.rcv o.ref.part).rests.find? (fun y => y.ref == o.ref) = some x) (bad : st ≠ 0) :
    s.snapServe o st data = s.restNoSource o.ref.part o.ref := by
  simp only [State.snapServe, at_, code, found]
  exact if_pos bad

theorem State.snapServe_export (at_ : s.cmdAt o.ref.part.val o.ref.queue.val o.ref.slot = some c) (code : cOpcode c = 0x70)
    (unfin : c.finished = false) : s.snapServe o st data =
      if st ≠ 0 then (s.snapStatus.2.dropOut o.ref).failRun o.ref c s.snapStatus.1
      else if (s.snapOut o.ref).isEmpty then s.exportDone o.ref c c.pieces else s := by
  simp only [State.snapServe, at_, code, unfin]
  rfl

end

end Sys2Proof.Machine
end

section
/-! SUPPORT. Completions of snapshot requests, case by case (R237, R300, R366, R373). -/

namespace Sys2Proof.Machine

open Sys2Proof.Safety

section

variable (s : State) (p : Part) (x : SnapRun) (st : Nat)

/-- Ending a snapshot changes nothing but its list and its command. -/
theorem State.snapEnd_kept : (s.snapEnd p x st).mem = s.mem ∧ (s.snapEnd p x st).rf = s.rf ∧ (s.snapEnd p x st).eut = s.eut := by
  unfold State.snapEnd
  dsimp only
  have h := OnlyQueues.endCmd (s.modRcv p (fun r => { r with snaps := r.snaps.filter (fun y => y.ref != x.ref),
                                                             digs := r.digs.filter (fun d => !(d.group == x.group && d.step == x.step)) })) x.ref st
  exact ⟨h.mem.trans (State.modRcv_mem _ _ _), h.rf.trans (State.modRcv_rf _ _ _), h.eut.trans (State.modRcv_eut _ _ _)⟩

/-- The counter of steps that a durable snapshot moves (R366). -/
def SnapRun.layerReg (x : SnapRun) : RegName := if x.layer = 1 then .RCV_GRPg_FLASH else .RCV_GRPg_STORE

def State.durableNoted : State :=
  (s.setStep x.layerReg p x.group x.step).modRcv p (fun y => { y with late := y.late.filter (· ≠ (x.group, x.layer)) })

theorem State.snapDurable_eq : s.snapDurable p x = (s.durableNoted p x).snapEnd p x 0 := rfl

theorem SnapRun.layerReg_cases : x.layerReg = .RCV_GRPg_FLASH ∨ x.layerReg = .RCV_GRPg_STORE := by
  unfold SnapRun.layerReg
  split
  · exact .inl rfl
  · exact .inr rfl

theorem SnapRun.layerReg_spec : (x.layerReg == .RCV_GRPg_FLASH || x.layerReg == .RCV_GRPg_STORE || x.layerReg == .PER_STATUS) = true ∧
    (x.layerReg == .PER_STATUS) = false ∧ loud x.layerReg = false := by
  obtain h | h := x.layerReg_cases <;> rw [h] <;> exact ⟨rfl, rfl, rfl⟩

theorem State.durableNoted_kept : (s.durableNoted p x).mem = s.mem ∧ (s.durableNoted p x).queues = s.queues :=
  ⟨(State.modRcv_mem _ _ _).trans (State.wr_mem _ _ _ _ _), (State.modRcv_queues _ _ _).trans (State.wr_queues _ _ _ _ _)⟩

theorem State.durableNoted_rd : (s.durableNoted p x).rd x.layerReg x.group p.val = BitVec.ofNat 32 x.step :=
  (State.modRcv_rd _ _ _ _ _ _).trans (State.rd_wr_same _ _ _ _ _)

theorem KeepsRegs.durableNoted {n : RegName → Bool} (h : n x.layerReg = true) : KeepsRegs s (s.durableNoted p x) n :=
  (KeepsRegs.wr s _ _ _ _ h).trans (KeepsRegs.of_rf (State.modRcv_rf _ _ _) n)

end

theorem State.running_unfinished {s : State} {r : CmdRef} {op : Nat} {c : Cmd} (run : s.running r op = some c) : c.finished = false := by
  obtain ⟨-, -, -, unfin, -⟩ := State.running_iff.mp run
  exact unfin

/-! ## SNAPSHOT to flash or the store -/

section

variable {s : State} {o : Outst} {d : Cmd} (data : List Byte)

/-- What goes on after a completion leaves the command's own state alone. -/
theorem Posted.completed (s : State) (o : Outst) : Posted (· == .PER_STATUS) s (s.completed o).wentOn := (setEut s _).trans (wentOn rfl _)

section

variable {x : SnapRun} (run : s.running o.ref 0x60 = some d) (found : (vget s.rcv o.ref.part).snaps.find? (fun y => y.ref == o.ref) = some x)
include run found

theorem State.snapServe_last (none : ((s.completed o).snapOut o.ref).isEmpty = true) :
    (s.completed o).snapServe o 0 data = ((s.completed o).durableNoted o.ref.part x).snapEnd o.ref.part x 0 := by
  obtain ⟨at_, code, -⟩ := State.running_some run
  rw [State.snapServe_snapshot (s := s.completed o) 0 data at_ code found, if_neg (by simp), if_pos none, State.snapDurable_eq]

/-- The last write makes the snapshot durable. -/
theorem State.snapCpl_durable (none : ((s.completed o).snapOut o.ref).isEmpty = true) (t : State)
    (next : t = ((s.completed o).snapServe o 0 data).wentOn) : CmdEnded t o.ref 0 ∧ t.mem = s.mem ∧
      t.rd x.layerReg x.group o.ref.part.val = BitVec.ofNat 32 x.step ∧
      KeepsRegs s t (fun r => r == .RCV_GRPg_FLASH || r == .RCV_GRPg_STORE || r == .PER_STATUS) := by
  have ref : x.ref = o.ref := by simpa using List.find?_some found
  obtain ⟨listed, per, quiet⟩ := x.layerReg_spec
  obtain ⟨noted, queues⟩ := (s.completed o).durableNoted_kept o.ref.part x
  obtain ⟨mem, rf, -⟩ := ((s.completed o).durableNoted o.ref.part x).snapEnd_kept o.ref.part x 0
  have ended : CmdEnded (((s.completed o).durableNoted o.ref.part x).snapEnd o.ref.part x 0) x.ref 0 :=
    CmdEnded.snapEnd (u := s) (op := 0x60) (c := d) (by rw [ref]; exact run) queues 0
  have on : Posted (· == .PER_STATUS) (((s.completed o).durableNoted o.ref.part x).snapEnd o.ref.part x 0) t := by
    rw [next, State.snapServe_last data run found none]
    exact Posted.wentOn rfl _
  refine ⟨?_, (on.mem.trans mem).trans noted, ?_, ?_⟩
  · rw [← ref]
    exact CmdEnded.of_queues ended on.queues
  · rw [on.regs _ _ _ per quiet, State.rd, rf, ← State.rd, State.durableNoted_rd]
  · have before : KeepsRegs s (((s.completed o).durableNoted o.ref.part x).snapEnd o.ref.part x 0)
        (fun r => r == .RCV_GRPg_FLASH || r == .RCV_GRPg_STORE || r == .PER_STATUS) :=
      (KeepsRegs.durableNoted (s.completed o) o.ref.part x listed).trans (KeepsRegs.of_rf rf _)
    exact before.trans (on.regs.mono fun r h => by simp [h])

/-- While others are out, it goes on. -/
theorem State.snapServe_goesOn (more : ((s.completed o).snapOut o.ref).isEmpty = false) : (s.completed o).snapServe o 0 data = s.completed o := by
  obtain ⟨at_, code, -⟩ := State.running_some run
  rw [State.snapServe_snapshot (s := s.completed o) 0 data at_ code found, if_neg (by simp), if_neg (by simp [more])]

/-- A failed write ends it, and what it has out is dropped. -/
theorem State.snapCpl_fails {st : Nat} (bad : st ≠ 0) (t : State) (next : t = ((s.completed o).snapServe o st data).wentOn) :
    CmdEnded t o.ref (s.completed o).snapStatus.1 ∧ t.snapOut o.ref = [] ∧ t.mem = s.mem ∧ KeepsRegs s t (· == .PER_STATUS) := by
  obtain ⟨at_, code, -⟩ := State.running_some run
  have ref : x.ref = o.ref := by simpa using List.find?_some found
  let u := (s.completed o).snapStatus.2.dropOut o.ref
  have first : Posted (· == .PER_STATUS) s u := ((Posted.setEut s _).trans (Posted.draw _ 16)).trans (Posted.dropOut _ _)
  have served : (s.completed o).snapServe o st data = u.snapEnd o.ref.part x (s.completed o).snapStatus.1 := by
    rw [State.snapServe_snapshot (s := s.completed o) st data at_ code found, if_pos bad]
  obtain ⟨mem, rf, eut⟩ := u.snapEnd_kept o.ref.part x (s.completed o).snapStatus.1
  have ended : CmdEnded (u.snapEnd o.ref.part x (s.completed o).snapStatus.1) x.ref (s.completed o).snapStatus.1 :=
    CmdEnded.snapEnd (u := s) (op := 0x60) (c := d) (by rw [ref]; exact run) first.queues _
  have on : Posted (· == .PER_STATUS) (u.snapEnd o.ref.part x (s.completed o).snapStatus.1) t := by
    rw [next, served]
    exact Posted.wentOn rfl _
  refine ⟨?_, ?_, (on.mem.trans mem).trans first.mem, (first.regs.trans (KeepsRegs.of_rf rf _)).trans on.regs⟩
  · rw [← ref]
    exact CmdEnded.of_queues (ref ▸ ended) on.queues
  · have out : (u.snapEnd o.ref.part x (s.completed o).snapStatus.1).snapOut o.ref = u.snapOut o.ref :=
      State.snapOut_congr (by rw [eut]) (by rw [eut]) _
    rw [next, served, State.snapOut_wentOn, out]
    exact State.snapOut_dropOut _ _

end

/-! ## EXPORT and RESTORE -/

section

variable (run : s.running o.ref 0x70 = some d)
include run

theorem State.snapServe_exported : (s.completed o).snapServe o 0 data =
    if ((s.completed o).snapOut o.ref).isEmpty then (s.completed o).exportDone o.ref d d.pieces else s.completed o := by
  obtain ⟨at_, code, -⟩ := State.running_some run
  rw [State.snapServe_export (s := s.completed o) 0 data at_ code (State.running_unfinished run), if_neg (by simp)]

/-- The last write of an EXPORT records and ends it. -/
theorem State.exportCpl_done (none : ((s.completed o).snapOut o.ref).isEmpty = true) (t : State)
    (next : t = ((s.completed o).snapServe o 0 data).wentOn) : CmdEnded t o.ref 0 ∧ t.mem = s.mem ∧
      (evRoom s.evr.buf.length 0 = true → ∃ r ∈ t.evr.buf, r.code = 0x0407) := by
  let e : Ev := { code := 0x0407, cls := 0x00, inst := 0, sev := 0, part := o.ref.part.val, p1 := leNat d.aux, p2 := d.pieces }
  have told : Posted (· == .PER_STATUS) s ((s.completed o).event e) := (Posted.setEut s _).trans (Posted.event _ e (show (0 : Nat) ≠ 3 by decide))
  have done : OnlyQueues ((s.completed o).event e) (((s.completed o).event e).finish o.ref d) := OnlyQueues.setCmd _ _ _ _
  have served : (s.completed o).snapServe o 0 data = ((s.completed o).event e).finish o.ref d := by
    rw [State.snapServe_exported data run, if_pos none]
    rfl
  have on : Posted (· == .PER_STATUS) (((s.completed o).event e).finish o.ref d) t := by
    rw [next, served]
    exact Posted.wentOn rfl _
  refine ⟨CmdEnded.of_queues (CmdEnded.finish_after run told.queues) on.queues, (on.mem.trans done.mem).trans told.mem, fun room => ?_⟩
  have evr : (((s.completed o).event e).finish o.ref d).evr = ((s.completed o).event e).evr := by rw [done]
  obtain ⟨r, mem, code, -⟩ := ((Recorded.event (s.completed o) e room).grows (Grows.of_eq evr)).grows on.grows
  exact ⟨r, mem, code⟩

theorem State.exportCpl_fails {st : Nat} (bad : st ≠ 0) (t : State) (next : t = ((s.completed o).snapServe o st data).wentOn) :
    CmdEnded t o.ref (s.completed o).snapStatus.1 ∧ t.mem = s.mem := by
  obtain ⟨at_, code, -⟩ := State.running_some run
  let u := (s.completed o).snapStatus.2.dropOut o.ref
  have first : Posted (· == .PER_STATUS) s u := ((Posted.setEut s _).trans (Posted.draw _ 16)).trans (Posted.dropOut _ _)
  have served : (s.completed o).snapServe o st data = u.failRun o.ref d (s.completed o).snapStatus.1 := by
    rw [State.snapServe_export (s := s.completed o) st data at_ code (State.running_unfinished run), if_pos bad]
  have on : Posted (· == .PER_STATUS) (u.failRun o.ref d (s.completed o).snapStatus.1) t := by
    rw [next, served]
    exact Posted.wentOn rfl _
  exact ⟨CmdEnded.of_queues (CmdEnded.failRun_after run first.queues _) on.queues, (on.mem.trans rfl).trans first.mem⟩

end

theorem State.restoreCpl_fails {x : RestRun} (run : s.running o.ref 0x61 = some d)
    (found : (vget s.rcv o.ref.part).rests.find? (fun y => y.ref == o.ref) = some x) {st : Nat} (bad : st ≠ 0) (t : State)
    (next : t = ((s.completed o).snapServe o st data).wentOn) : CmdEnded t o.ref 0x0B07 ∧ t.mem = s.mem := by
  obtain ⟨at_, code, -⟩ := State.running_some run
  have on : Posted (· == .PER_STATUS) ((s.completed o).restNoSource o.ref.part o.ref) t := by
    rw [next, State.snapServe_restore (s := s.completed o) st data at_ code found bad]
    exact Posted.wentOn rfl _
  exact ⟨CmdEnded.of_queues (CmdEnded.restNoSource (s := s.completed o) run rfl) on.queues, on.mem.trans State.restNoSource_mem⟩

end

end Sys2Proof.Machine
end

section
/-! SUPPORT. RESTORE from the partner, the replicas, flash or the store: what it asks for, and where it cannot (R370, R371, R373). -/

namespace Sys2Proof.Machine

open Sys2Proof.Safety

theorem exec_restore {s : State} {r : CmdRef} {c : Cmd} (run : s.running r 0x61 = some c) : exec (.restore r) s = .next (s.restore r c) := by
  show execRestore r s = _
  rw [execRestore, run]

/-- A RESTORE under way, or a command that does not run, changes nothing. -/
theorem exec_restore_idle {s : State} {r : CmdRef} (h : s.running r 0x61 = none ∨ (vget s.rcv r.part).rests.any (fun x => x.ref == r) = true) :
    exec (.restore r) s = .next s := by
  cases run : s.running r 0x61 with
  | none =>
    show execRestore r s = _
    rw [execRestore, run]
  | some c =>
    rw [exec_restore run]
    exact congrArg Host.Outcome.next (if_pos (h.resolve_left (by simp [run])))

/-! ## How RESTORE goes on from each source -/

section

variable (s : State) (r : CmdRef) (c : Cmd)

/-- A RESTORE that has begun. -/
def restBegun (n : Nat) : RestRun :=
  { ref := r, source := n, group := cGroup c, step := cStep c, total := 0, got := [], left := [], asked := [] }

def State.addRest (x : RestRun) : State := s.modRcv x.ref.part (fun y => { y with rests := y.rests ++ [x] })

/-- Pieces are asked for from parts, where all of them can be reached. -/
def State.restAsks (x : RestRun) : State :=
  if ((s.addRest x).sendFetches x.ref.part x x.asked x.left).2 then ((s.addRest x).sendFetches x.ref.part x x.asked x.left).1
  else ((s.addRest x).sendFetches x.ref.part x x.asked x.left).1.restNoSource x.ref.part x.ref

def State.fromPartner : RestRun := { restBegun r c 1 with asked := [coordNum (s.copyHolder r.part)], left := [(0, 65536)] }
def State.fromReplicas : RestRun := { restBegun r c 2 with asked := s.replicas r.part (cGroup c), left := replicaPieces c.listed }
def fromLayer : RestRun := { restBegun r c (rsSource c) with left := pieces64 65537 0 (min 65536 (snSpace c)) }

/-- The local copy is read: its header, and then all of it. -/
def State.localHead : (List Byte × Bool) × State := s.readAs r.part.val (copyAddr c) 64
def localTotal (b : List Byte) : Nat := imgTotal (cGroup c) (cStep c) b
def State.localImage : (List Byte × Bool) × State := (s.localHead r c).2.readAs r.part.val (copyAddr c) (localTotal c (s.localHead r c).1.1)

def State.fromLocal : State :=
  if (s.localHead r c).1.2 ∨ localTotal c (s.localHead r c).1.1 = 0 ∨ snSpace c < localTotal c (s.localHead r c).1.1 then
    (s.localHead r c).2.restNoSource r.part r
  else if (s.localImage r c).1.2 then (s.localImage r c).2.restNoSource r.part r
  else ((s.localImage r c).2.addRest (restBegun r c 0)).restApply (restBegun r c 0) c (s.localImage r c).1.1

variable {s r c} (fresh : (vget s.rcv r.part).rests.any (fun x => x.ref == r) = false)
include fresh

theorem State.restore_local (src : rsSource c = 0) : s.restore r c = s.fromLocal r c := by
  unfold State.restore
  rw [if_neg (by simp [fresh]), src]
  rfl

theorem State.restore_partner (src : rsSource c = 1) : s.restore r c = s.restAsks (s.fromPartner r c) := by
  unfold State.restore
  rw [if_neg (by simp [fresh]), src]
  rfl

theorem State.restore_replicas (src : rsSource c = 2) : s.restore r c =
    if (s.replicas r.part (cGroup c)).isEmpty then s.restNoSource r.part r else s.restAsks (s.fromReplicas r c) := by
  unfold State.restore
  rw [if_neg (by simp [fresh]), src]
  rfl

theorem State.restore_layer (src : 3 ≤ rsSource c) : s.restore r c = (s.addRest (fromLayer r c)).snapReads r c (fromLayer r c).left := by
  obtain ⟨n, e⟩ : ∃ n, rsSource c = n + 3 := ⟨rsSource c - 3, by omega⟩
  unfold State.restore fromLayer
  rw [if_neg (by simp [fresh]), e]
  rfl

/-- Its own entry apart, the list of restores is as it was. -/
theorem rests_kept : (vget s.rcv r.part).rests.filter (fun y => y.ref != r) = (vget s.rcv r.part).rests := by
  refine List.filter_eq_self.mpr fun y mem => ?_
  have other := List.any_eq_false.mp fresh y mem
  simpa using other

end

/-! ## What asking shows -/

theorem State.sendFetches_one (s : State) (p : Part) (x : RestRun) (n : Nat) (e : Nat × Nat) :
    s.sendFetches p x [n] [e] = s.sendFetch p x n e.1 e.2 := by
  have one : s.sendFetches p x [n] [e] = ((s.sendFetch p x n e.1 e.2).1, true && (s.sendFetch p x n e.1 e.2).2) := rfl
  rw [one, Bool.true_and]

/-- A RESTORE that asks for pieces from a source. -/
structure RestAsks (s : State) (r : CmdRef) (c : Cmd) (n : Nat) (t : State) : Prop where
  mem : t.mem = s.mem
  queues : t.queues = s.queues
  listed : ∃ x, (vget t.rcv r.part).rests = (vget s.rcv r.part).rests ++ [x] ∧ x.ref = r ∧ x.source = n ∧ x.group = cGroup c ∧ x.step = cStep c

section

variable {s t : State} {r : CmdRef} {c : Cmd}

theorem RestAsks.posted {n : RegName → Bool} {x : RestRun} (h : Posted n (s.addRest x) t) (ref : x.ref = r) (group : x.group = cGroup c)
    (step : x.step = cStep c) : RestAsks s r c x.source t := by
  subst ref
  refine ⟨h.mem.trans (State.modRcv_mem _ _ _), h.queues.trans (State.modRcv_queues _ _ _), x, ?_, rfl, rfl, group, step⟩
  rw [h.rcv, State.addRest, State.modRcv_rcv_same]

theorem KeepsRegs.asked {n : RegName → Bool} {x : RestRun} (h : Posted n (s.addRest x) t) : KeepsRegs s t n :=
  (KeepsRegs.of_rf (State.modRcv_rf _ _ _) n).trans h.regs

/-- The FETCH to the partner is one message. -/
theorem State.restAsks_partner (s : State) (r : CmdRef) (c : Cmd) : ∃ body : List Byte, s.restAsks (s.fromPartner r c) =
    let y := (s.addRest (s.fromPartner r c)).sendRouted 0xFF 0x16 (s.toPhys (coordOf (coordNum (s.copyHolder r.part)))) body
    if y.2 then y.1 else y.1.restNoSource r.part r := by
  unfold State.restAsks
  have one : (s.addRest (s.fromPartner r c)).sendFetches r.part (s.fromPartner r c) (s.fromPartner r c).asked (s.fromPartner r c).left =
      (s.addRest (s.fromPartner r c)).sendFetch r.part (s.fromPartner r c) (coordNum (s.copyHolder r.part)) 0 65536 := State.sendFetches_one _ _ _ _ _
  rw [show (s.fromPartner r c).ref = r from rfl, one]
  exact ⟨_, rfl⟩

/-- Where the partner can be reached, RESTORE waits for its answer. -/
theorem State.restAsks_routed (there : s.route 0xFF (s.toPhys (coordOf (coordNum (s.copyHolder r.part)))) ≠ none) :
    RestAsks s r c 1 (s.restAsks (s.fromPartner r c)) ∧ KeepsRegs s (s.restAsks (s.fromPartner r c)) (fun _ => false) := by
  obtain ⟨body, asks⟩ := s.restAsks_partner r c
  obtain ⟨sent, ok⟩ := Posted.sendRouted_routed (n := fun _ => false) (s.addRest (s.fromPartner r c)) 0x16 body there
  rw [asks]
  dsimp only
  rw [if_pos ok]
  exact ⟨RestAsks.posted (x := s.fromPartner r c) sent rfl rfl rfl, KeepsRegs.asked sent⟩

/-- Where it cannot, RESTORE ends. -/
theorem State.restAsks_unrouted (run : s.running r 0x61 = some c) (fresh : (vget s.rcv r.part).rests.any (fun x => x.ref == r) = false)
    (none : s.route 0xFF (s.toPhys (coordOf (coordNum (s.copyHolder r.part)))) = none) (t : State) (next : t = s.restAsks (s.fromPartner r c)) :
    CmdEnded t r 0x0B07 ∧ t.fget Fld.PER_STATUS_UNREACH = 1 ∧ (vget t.rcv r.part).rests = (vget s.rcv r.part).rests ∧ t.mem = s.mem ∧
      (s.recovering r.part = false → KeepsRegs s t (· == .PER_STATUS)) := by
  obtain ⟨body, asks⟩ := s.restAsks_partner r c
  let y := (s.addRest (s.fromPartner r c)).sendRouted 0xFF 0x16 (s.toPhys (coordOf (coordNum (s.copyHolder r.part)))) body
  have sent : Posted (· == .PER_STATUS) (s.addRest (s.fromPartner r c)) y.1 := Posted.sendRouted rfl _ _ _ _ _
  have lost : y = _ := State.sendRouted_unrouted 0x16 body none
  have failed : t = y.1.restNoSource r.part r := by
    rw [next, asks]
    exact if_neg (by show ¬ y.2 = true; rw [lost]; simp)
  have regs : KeepsRegs s y.1 (· == .PER_STATUS) := KeepsRegs.asked sent
  have unreach : y.1.fget Fld.PER_STATUS_UNREACH = 1 := by
    rw [lost, (Quiet.perEvent _ 0x0941 1 _ _ (by decide)).fget _ _ _ rfl]
    exact State.sqSet_bit_cnt _ Fld.PER_STATUS_UNREACH Fld.PER_STATUS_UNREACH_CNT _ _ rfl (by decide) (by decide) (by decide) (by decide)
  rw [failed]
  refine ⟨CmdEnded.restNoSource run (sent.queues.trans (State.modRcv_queues _ _ _)), ?_, ?_, ?_, fun calm => ?_⟩
  · rw [KeepsRegs.restNoSource.fget _ _ _ rfl rfl, unreach]
  · rw [State.restNoSource_rests, sent.rcv, State.addRest, show (s.fromPartner r c).ref = r from rfl, State.modRcv_rcv_same, List.filter_append,
      rests_kept fresh]
    simp [State.fromPartner, restBegun]
  · rw [State.restNoSource_mem, sent.mem, State.addRest, State.modRcv_mem]
  · refine regs.trans (KeepsRegs.of_rf (State.restNoSource_rf ?_) _)
    rw [State.recovering, State.rcvState, regs.fget _ _ _ rfl rfl]
    exact calm

/-- From replicas, all pieces are asked for, or RESTORE ends. -/
theorem State.restAsks_replicas (run : s.running r 0x61 = some c) : RestAsks s r c 2 (s.restAsks (s.fromReplicas r c)) ∨
    CmdEnded (s.restAsks (s.fromReplicas r c)) r 0x0B07 := by
  have sent : Posted (fun _ => true) (s.addRest (s.fromReplicas r c)) _ :=
    Posted.sendFetches rfl _ r.part (s.fromReplicas r c) (s.fromReplicas r c).asked (s.fromReplicas r c).left
  unfold State.restAsks
  split
  · exact .inl (RestAsks.posted (x := s.fromReplicas r c) sent rfl rfl rfl)
  · exact .inr (CmdEnded.restNoSource run (sent.queues.trans (State.modRcv_queues _ _ _)))

/-- Reads of pieces that are not empty are out. -/
theorem State.snapOut_snapReads (s : State) {ps : List (Nat × Nat)} {e : Nat × Nat} (mem : e ∈ ps) (some : 0 < e.2) : (s.snapReads r c ps).snapOut r ≠ [] := by
  intro none
  have flat : s.snapReads r c ps = (ps.flatMap (fun e => pieces64 (e.2 + 1) (snAddr c + e.1) e.2)).foldl
      (fun s f => s.sendSnapRd (snPort c) r f.1 (f.1 - snAddr c) f.2) s := List.foldl_flatMap.symm
  rw [flat] at none
  obtain ⟨-, other⟩ := (State.snapOut_sendSnaps _ _ _ r).mp none
  obtain ⟨f, piece⟩ := List.exists_mem_of_ne_nil _ (pieces64_ne_nil e.2 (snAddr c + e.1) some)
  exact other f (List.mem_flatMap.mpr ⟨e, mem, piece⟩) rfl

theorem State.restore_layer_asks (t : State) (next : t = (s.addRest (fromLayer r c)).snapReads r c (fromLayer r c).left) :
    RestAsks s r c (rsSource c) t ∧ (0 < snSpace c → t.snapOut r ≠ []) ∧ KeepsRegs s t (fun _ => false) := by
  have sent : Posted (fun _ => false) (s.addRest (fromLayer r c)) t := by
    rw [next]
    exact Posted.snapReads _ _ _ _
  refine ⟨RestAsks.posted (x := fromLayer r c) sent rfl rfl rfl, fun room => ?_, KeepsRegs.asked sent⟩
  rw [next]
  refine State.snapOut_snapReads _ (e := (0, min (min 65536 (snSpace c)) 65536)) ?_ (by simp; omega)
  have first : (fromLayer r c).left = pieces64 65537 0 (min 65536 (snSpace c)) := rfl
  rw [first, pieces64, if_neg (by omega)]
  exact List.mem_cons_self

end

end Sys2Proof.Machine
end

section
/-! SUPPORT. Restoring an image (R362, R373): the queues and the recovery engine's registers while its sections are written. -/

namespace Sys2Proof.Machine

open Sys2Proof.Safety

/-- The registers of the recovery engine that show where a restore stands. -/
def restReg (r : RegName) : Bool := r == .RCV_STATE || r == .RCV_GRPg_UPD

/-- The queues and one register of the recovery engine stay as they are. -/
structure Steady (q : RegName) (s t : State) : Prop where
  queues : t.queues = s.queues
  rd : ∀ i a, t.rd q i a = s.rd q i a

namespace Steady

variable {q : RegName}

theorem refl (s : State) : Steady q s s := ⟨rfl, fun _ _ => rfl⟩
theorem trans {s t u : State} (h : Steady q s t) (k : Steady q t u) : Steady q s u := ⟨k.queues.trans h.queues, fun i a => (k.rd i a).trans (h.rd i a)⟩

theorem foldl {β : Type} {f : State → β → State} (h : ∀ s x, Steady q s (f s x)) (l : List β) (s : State) : Steady q s (l.foldl f s) :=
  foldl_of_steps refl trans h l s

theorem of_rf {s t : State} (rf : t.rf = s.rf) (h : t.queues = s.queues) : Steady q s t := ⟨h, fun i a => by rw [State.rd, rf, State.rd]⟩
theorem modRcv (s : State) (p : Part) (f : RcvSt → RcvSt) : Steady q s (s.modRcv p f) := of_rf (State.modRcv_rf _ _ _) (State.modRcv_queues _ _ _)

theorem wr (s : State) (r : RegName) (i a : Nat) (v : Word) (h : q ≠ r) : Steady q s (s.wr r i a v) :=
  ⟨State.wr_queues _ _ _ _ _, fun _ _ => s.rd_wr_reg _ _ _ _ _ h⟩

theorem fset (s : State) (f : Fld) (v i a : Nat) (h : q ≠ f.reg) : Steady q s (s.fset f v i a) := wr s _ _ _ _ h
theorem sqSet (s : State) (r : RegName) (i a : Nat) (b c : List Fld) (h : q ≠ r) : Steady q s (s.sqSet r i a b c) := wr s _ _ _ _ h

/-- Registers that take their values from an image. -/
theorem wrList {β : Type} {f : State → RegName × β → State} (h : ∀ s e, q ≠ e.1 → Steady q s (f s e)) (l : List (RegName × β))
    (other : ∀ e ∈ l, q ≠ e.1) (s : State) : Steady q s (l.foldl f s) := by
  induction l generalizing s with
  | nil => exact refl s
  | cons e l ih =>
    obtain ⟨first, rest⟩ := List.forall_mem_cons.mp other
    exact (h s e first).trans (ih rest _)

section

variable (rest : restReg q = true)
include rest

theorem ne {r : RegName} (h : restReg r = false) : q ≠ r := by
  rintro rfl
  rw [rest] at h
  cases h

theorem worked {s t : State} (h : Worked s t) : Steady q s t := by
  have table : (!restReg q || !monReg q) = true := by cases q <;> rfl
  exact ⟨h.queues, fun i a => h.rd q i a (by simpa [rest] using table)⟩

theorem written {s t : State} (h : Written s t) : Steady q s t := worked rest (Worked.written h)
theorem quiet {s t : State} (h : Quiet s t) : Steady q s t := worked rest (Worked.quiet h)

theorem posted {s t : State} (h : Posted (· == .PER_STATUS) s t) : Steady q s t := by
  have table : (!restReg q || (!(q == .PER_STATUS) && !loud q)) = true := by cases q <;> rfl
  obtain ⟨per, loud⟩ : (q == .PER_STATUS) = false ∧ loud q = false := by simpa [rest] using table
  exact ⟨h.queues, fun i a => h.regs q i a per loud⟩

theorem modCol (s : State) (g : Nat) (f : ColSt → ColSt) : Steady q s (s.modCol g f) := by
  have set : Steady q s { s with col := Sparse.set colIdle s.col g (f (s.colSt g)) } := of_rf rfl rfl
  exact set.trans (fset _ Fld.COL_GRPg_STATE_HELD _ _ _ (ne rest rfl))

theorem setEpoch (s : State) (g e : Nat) : Steady q s (s.setEpoch g e) := (fset s _ _ _ _ (ne rest rfl)).trans (modCol rest _ _ _)

/-! ## The sections of an image -/

theorem writeRuns (s : State) (c : Nat) (rs : List (Nat × List Byte)) : Steady q s (s.writeRuns c rs).1 :=
  foldlFst_rel (f := State.runWritten c) refl trans (fun a r => written rest (Written.writeAs a.1 c r.1 r.2)) rs (s, 0)

theorem restTensor (s : State) (p : Part) (img sec : List Byte) (n : Nat) (d : TDesc) : Steady q s (s.restTensor p img sec n d).1 := by
  unfold State.restTensor
  extract_lets r el sc w bits bytes
  refine (writeRuns rest s p.val (runsOf bytes)).trans ?_
  have scales (u : State) : Steady q u (if takesScaleWord d.dtype then u.writeAs p.val d.scale ((r.drop 64).take 16)
      else if isMx d.dtype then u.writeAs p.val d.scale sc else (u, 0)).1 := by
    split
    · exact written rest (Written.writeAs _ _ _ _)
    · split
      · exact written rest (Written.writeAs _ _ _ _)
      · exact refl u
  exact scales _

theorem setUsed (s : State) (p : Nat) : Steady q s (s.setUsed p) := fset s _ _ _ _ (ne rest rfl)

theorem restLedger (s : State) (p : Nat) (sec : List Byte) : Steady q s (s.restLedger p sec).1 := by
  unfold State.restLedger
  extract_lets recs tids put all
  have written : Worked s put.1 := by
    refine Worked.foldSt (fun s r => ?_) recs s
    dsimp only
    split
    · refine Worked.seqSt (Worked.putWhole s _ _ _) (fun t => ?_)
      split
      · exact Worked.writeAs t _ _ _
      · exact Worked.refl t
    · exact Worked.refl s
  have lost : Worked s all.1 := by
    refine written.seqSt (fun t => Worked.foldSt (fun s i => ?_) _ t)
    split
    · exact Worked.loseHistory s _ _ _
    · exact Worked.refl s
  refine (worked rest lost).trans ?_
  split
  · exact setUsed rest _ _
  · exact refl _

theorem restNumerics (s : State) (p : Nat) (sec : List Byte) : Steady q s (s.restNumerics p sec) := by
  refine wrList (fun s e h => wr s e.1 0 p _ h) _ ?_ s
  simp only [List.forall_mem_cons]
  exact ⟨ne rest rfl, ne rest rfl, ne rest rfl, ne rest rfl, ne rest rfl, ne rest rfl, ne rest rfl, by simp⟩

theorem restGroups (s : State) (sec : List Byte) : Steady q s (s.restGroups sec) := by
  refine foldl (fun s r => ?_) _ s
  extract_lets g w placed counted raised shown
  split
  · exact refl s
  · have place : Steady q s placed :=
      ((wr s .PER_GRPg_X _ _ _ (ne rest rfl)).trans (wr _ .PER_GRPg_Y _ _ _ (ne rest rfl))).trans (wr _ .PER_GRPg_Z _ _ _ (ne rest rfl))
    have count : Steady q placed counted := (wr placed .PER_GRPg_CTRL _ _ _ (ne rest rfl)).trans (wr _ .COL_GRPg_CSTEP _ _ _ (ne rest rfl))
    have epoch : Steady q counted raised := by
      unfold raised
      split
      · exact setEpoch rest _ _ _
      · exact refl _
    have mode : Steady q raised shown := (fset raised _ _ _ _ (ne rest rfl)).trans (fset _ _ _ _ _ (ne rest rfl))
    exact (((place.trans count).trans epoch).trans mode).trans (fset shown _ _ _ _ (ne rest rfl))

theorem restRoute (s : State) (sec : List Byte) : Steady q s (s.restRoute sec) := by
  refine foldl (fun s i => ?_) _ s
  extract_lets mapped d
  have remap : Steady q s mapped := by
    unfold mapped
    split
    · exact refl s
    · exact (wr s .PER_REMAPi_L _ _ _ (ne rest rfl)).trans (wr _ .PER_REMAPi_P _ _ _ (ne rest rfl))
  refine remap.trans ?_
  split
  · exact refl mapped
  · exact wr mapped .PER_DEADi _ _ _ (ne rest rfl)

end

/-- The counters of the group take the image's values. -/
theorem restSteps (s : State) (p : Part) (g : Nat) (sec : List Byte) : Steady .RCV_STATE s (s.restSteps p g sec) := by
  refine wrList (fun s e h => wr s e.1 g p.val _ h) _ ?_ s
  simp

end Steady

/-! ## After the sections (R373, R374) -/

theorem Steady.restCommon (s : State) (p : Part) (g step : Nat) : Steady .RCV_STATE s (s.restCommon p g step) :=
  (((wr s .RCV_GRPg_UPD _ _ _ (by decide)).trans (wr _ .COL_GRPg_CSTEP _ _ _ (by decide))).trans (wr _ .NUM_COMMITTED_STEP _ _ _ (by decide))).trans
    (worked rfl (Worked.dropPending _ _))

/-- UPDATED_STEP is the step of the restore. -/
theorem State.restCommon_upd (s : State) (p : Part) (g step : Nat) : (s.restCommon p g step).rd .RCV_GRPg_UPD g p.val = BitVec.ofNat 32 step := by
  unfold State.restCommon
  rw [(Worked.dropPending _ _).rd _ _ _ rfl, State.rd_wr_reg _ _ _ _ _ _ (by decide), State.rd_wr_reg _ _ _ _ _ _ (by decide), State.rd_wr_same]

/-! ### The command that restores -/

section

variable {s : State} {r : CmdRef} {c : Cmd}

/-- Its record of what it has written leaves its place and its end alone. -/
theorem recorded_kept {f : Cmd → TDesc → Cmd} (h : ∀ c d, (f c d).slot = c.slot ∧ (f c d).phase = c.phase ∧ (f c d).finished = c.finished ∧ (f c d).fail = c.fail)
    (l : List TDesc) (c : Cmd) : (l.foldl f c).slot = c.slot ∧ (l.foldl f c).phase = c.phase ∧ (l.foldl f c).finished = c.finished ∧
      (l.foldl f c).fail = c.fail := by
  induction l generalizing c with
  | nil => exact ⟨rfl, rfl, rfl, rfl⟩
  | cons d l ih =>
    obtain ⟨slot, phase, fin, fail⟩ := ih (f c d)
    obtain ⟨slot', phase', fin', fail'⟩ := h c d
    exact ⟨slot.trans slot', phase.trans phase', fin.trans fin', fail.trans fail'⟩

theorem Cmd.record_state (c : Cmd) (d : TDesc) (l : LedRec) : (c.record d l).slot = c.slot ∧ (c.record d l).phase = c.phase ∧
    (c.record d l).finished = c.finished ∧ (c.record d l).fail = c.fail := by
  unfold Cmd.record
  split
  · split
    · exact ⟨rfl, rfl, rfl, rfl⟩
    · exact ⟨rfl, rfl, rfl, rfl⟩
  · exact ⟨rfl, rfl, rfl, rfl⟩

/-- It ends with the status it is ended with. -/
theorem CmdEnded.restored {p : Part} (at_ : s.cmdAt r.part.val r.queue.val r.slot = some c) (live : c.phase = .running) (unfin : c.finished = false)
    (ok : c.fail = 0) (st : Nat) : CmdEnded ((s.recordRestored r).restEnd p r st) r st := by
  have cmd : s.cmdOf r = c := by rw [State.cmdOf, at_, Option.getD_some]
  obtain ⟨slot, phase, fin, fail⟩ := recorded_kept (fun c d => Cmd.record_state c d (s.rawCounts d
    (if takesScaleWord d.dtype then leNat (s.bytes d.scale 16) else 0) d.tid)) c.listed c
  have there : (s.recordRestored r).cmdAt r.part.val r.queue.val r.slot = some (c.listed.foldl (fun c d =>
      c.record d (s.rawCounts d (if takesScaleWord d.dtype then leNat (s.bytes d.scale 16) else 0) d.tid)) c) := by
    unfold State.recordRestored
    rw [cmd]
    exact State.cmdAt_setCmd_same at_ _ (slot.trans (State.cmdAt_slot at_))
  have dropped : ((s.recordRestored r).restDropped p r).queues = (s.recordRestored r).queues := rfl
  rw [State.restEnd_eq]
  exact CmdEnded.endCmd_at ((State.cmdAt_congr dropped _ _ _).trans there) (phase.trans live) (fin.trans unfin) (fail.trans ok) st

theorem State.recordRestored_rf (s : State) (r : CmdRef) : (s.recordRestored r).rf = s.rf := State.setCmd_rf _ _ _ _

end

end Sys2Proof.Machine
end

section
/-! SUPPORT. How a RESTORE from the local copy ends (R362, R373, R374). -/

namespace Sys2Proof.Machine

open Sys2Proof.Safety

/-! ## The recovery's end (R374) -/

/-- After RESUME the engine is in no recovery. -/
theorem State.resume_state (s : State) (p : Part) : (s.resume p).rcvState p = 0 := by
  obtain ⟨u, a, b, same⟩ : ∃ u a b, s.resume p = (((State.wr u .RCV_STATE 0 p.val 0).wr .RCV_RSTEP 0 p.val 0xFFFFFFFF).rcvStatus p.val []
      [Fld.RCV_STATUS_RECOVERY_CNT]).rcvEvent p.val 0x0B03 0 a b := ⟨_, _, _, rfl⟩
  have word : (s.resume p).rd .RCV_STATE 0 p.val = 0 := by
    rw [same, State.rcvEvent, (Quiet.event _ _ (show 0 ≠ 3 by decide)).rd _ _ _ rfl, State.rcvStatus, State.sqSet, State.rd_wr_reg _ _ _ _ _ _ (by decide),
      State.rd_wr_reg _ _ _ _ _ _ (by decide), State.rd_wr_same]
  rw [State.rcvState, State.fget, show Fld.RCV_STATE_STATE.reg = .RCV_STATE from rfl, word]
  rfl

theorem Steady.sendPlan {q : RegName} (rest : restReg q = true) (s : State) (p : Part) (m d : Nat) (b : List Byte) : Steady q s (s.sendPlan p m d b) :=
  posted rest (Posted.sendRec rfl s _ _ _ _)

theorem State.rcvState_steady {s t : State} (h : Steady .RCV_STATE s t) (p : Part) : t.rcvState p = s.rcvState p := by
  rw [State.rcvState, State.fget, show Fld.RCV_STATE_STATE.reg = .RCV_STATE from rfl, h.rd]
  rfl

/-- RESUME comes in a restore alone. -/
theorem State.resumeTry_cases (s : State) (p : Part) : s.resumeTry p = s ∨ (s.rcvState p = 3 ∧ (s.resumeTry p).rcvState p = 0) := by
  unfold State.resumeTry
  extract_lets ms body told
  split
  next go => exact .inr ⟨go.1, State.resume_state _ _⟩
  next => exact .inl rfl

/-- A report of DONE leaves queues and counters alone, or ends the recovery. -/
theorem State.doneTry_cases (s : State) (p : Part) : (∀ q, restReg q = true → Steady q s (s.doneTry p)) ∨
    (s.rcvState p = 3 ∧ (s.doneTry p).rcvState p = 0) := by
  unfold State.doneTry
  extract_lets reported prot
  split
  · split
    · obtain stays | resumed := State.resumeTry_cases (reported.modRcv p (fun x => { x with done := x.done ++ [reported.selfNum] })) p
      · rw [stays]
        exact .inl fun q _ => (Steady.modRcv s p _).trans (Steady.modRcv reported p _)
      · exact .inr resumed
    · exact .inl fun q rest => (Steady.modRcv s p _).trans (Steady.sendPlan rest _ _ _ _ _)
  · exact .inl fun q _ => Steady.refl s

/-! ## The first lap that a PARTNER copy lets pass (R352, R365) -/

theorem Steady.colModeRule {q : RegName} (rest : restReg q = true) (s : State) (g step : Nat) : Steady q s (s.colModeRule g step) := by
  have switch (m : Nat) : Steady q s ((((s.fset Fld.COL_GRPg_STATE_MODE_EFF m g).fset Fld.COL_GRPg_STATE_CLEAN 0 g).sqSet .COL_GRPg_STATUS g 0
      [Fld.COL_GRPg_STATUS_MODE_SWITCH] []).colEvent g 0x0A05 0 (m * 2 ^ 8) step) :=
    (((fset s Fld.COL_GRPg_STATE_MODE_EFF _ _ _ (ne rest rfl)).trans (fset _ Fld.COL_GRPg_STATE_CLEAN _ _ _ (ne rest rfl))).trans
      (sqSet _ .COL_GRPg_STATUS _ _ _ _ (ne rest rfl))).trans (quiet rest (Quiet.event _ _ (show 0 ≠ 3 by decide)))
  have clean (n : Nat) : Steady q s (s.fset Fld.COL_GRPg_STATE_CLEAN n g) := fset s Fld.COL_GRPg_STATE_CLEAN _ _ _ (ne rest rfl)
  unfold State.colModeRule
  extract_lets x cur sw n
  split
  · exact refl s
  · split
    · split
      · exact clean 0
      · exact switch 2
    · split
      · split
        · exact switch 1
        · exact clean n
      · exact refl s

theorem Steady.colCommitSteps {q : RegName} (rest : restReg q = true) (s : State) (g step : Nat) : Steady q s (s.colCommitSteps g step).1 := by
  have led := worked rest (Worked.ledgerCommit s (s.groupOwner g) step)
  unfold State.colCommitSteps
  split
  next u st e =>
    rw [e] at led
    have counted := led.trans (wr u .COL_GRPg_CSTEP g 0 (BitVec.ofNat 32 step) (ne rest rfl))
    dsimp only
    exact (counted.trans (colModeRule rest _ g step)).trans (modCol rest _ g _)

theorem Steady.sendToken {q : RegName} (rest : restReg q = true) (s : State) (g ctype step a : Nat) : Steady q s (s.sendToken g ctype step a) := by
  unfold State.sendToken State.sendToward
  extract_lets r dst lost
  split
  · exact quiet rest ((Quiet.sendMsg s _ _ _).trans (Quiet.emit _ _))
  · exact refl s
  · exact (sqSet s .PER_STATUS _ _ _ _ (ne rest rfl)).trans (quiet rest (Quiet.perEvent _ 0x0941 1 _ _ (by decide)))

/-- A member's commit ends at most one command. -/
theorem State.colCommit_cases (s : State) (g step a : Nat) : ∃ u, (∀ q, restReg q = true → Steady q s u) ∧
    (s.colCommit g step a = u ∨ ∃ r st, s.colCommit g step a = u.endCmd r st) := by
  have steps (q : RegName) (rest : restReg q = true) := Steady.colCommitSteps rest s g step
  unfold State.colCommit
  dsimp only
  split
  next k _ =>
    split
    · exact ⟨_, fun q rest => ((steps q rest).trans (Steady.modCol rest _ _ _)).trans (Steady.fset _ Fld.COL_GRPg_STATE_PHASE _ _ _ (Steady.ne rest rfl)),
        .inr ⟨_, _, rfl⟩⟩
    · exact ⟨_, steps, .inl rfl⟩
  next => exact ⟨_, steps, .inl rfl⟩

theorem State.colForward_cases (s : State) (g : Nat) : ∃ u, (∀ q, restReg q = true → Steady q s u) ∧
    (s.colForward g = u ∨ ∃ r st, s.colForward g = u.endCmd r st) := by
  have stays : ∃ u, (∀ q, restReg q = true → Steady q s u) ∧ (s = u ∨ ∃ r st, s = u.endCmd r st) := ⟨s, fun q _ => Steady.refl s, .inl rfl⟩
  unfold State.colForward
  split
  · exact stays
  next k _ =>
    extract_lets r moved phased
    split
    · exact stays
    · have first (q : RegName) (rest : restReg q = true) : Steady q s phased :=
        (Steady.modCol rest s g _).trans (Steady.fset moved Fld.COL_GRPg_STATE_PHASE _ _ _ (Steady.ne rest rfl))
      split
      · obtain ⟨u, after, ends⟩ := phased.colCommit_cases g k.step k.attempt
        exact ⟨u, fun q rest => (first q rest).trans (after q rest), ends⟩
      · exact ⟨_, fun q rest => (first q rest).trans (Steady.sendToken rest _ _ _ _ _), .inl rfl⟩

theorem State.colForward_rd (s : State) (g : Nat) {q : RegName} (rest : restReg q = true) (i a : Nat) : (s.colForward g).rd q i a = s.rd q i a := by
  obtain ⟨u, steady, same | ⟨r, st, same⟩⟩ := s.colForward_cases g
  · rw [same, (steady q rest).rd]
  · rw [same, State.rd, (OnlyQueues.endCmd u r st).rf, ← State.rd, (steady q rest).rd]

theorem CmdEnded.colForward {s : State} {k : CmdRef} {st : Nat} (h : CmdEnded s k st) (g : Nat) : CmdEnded (s.colForward g) k st := by
  obtain ⟨u, steady, same | ⟨r, e, same⟩⟩ := s.colForward_cases g
  · rw [same]
    exact CmdEnded.of_queues h (steady .RCV_STATE rfl).queues
  · rw [same]
    exact CmdEnded.endCmd (CmdEnded.of_queues h (steady .RCV_STATE rfl).queues) r e

/-! ## The end of a restore -/

/-- A restore ends, UPDATED_STEP with the step where it ends well, or the recovery ends with it. -/
def RestEnds (s : State) (r : CmdRef) (g step : Nat) (t : State) : Prop :=
  (∃ st, CmdEnded t r st ∧ (st = 0 → t.rd .RCV_GRPg_UPD g r.part.val = BitVec.ofNat 32 step)) ∨ (s.rcvState r.part = 3 ∧ t.rcvState r.part = 0)

theorem RestEnds.failed {s t : State} {r : CmdRef} {g step st : Nat} (h : CmdEnded t r st) (bad : st ≠ 0) : RestEnds s r g step t :=
  .inl ⟨st, h, fun ok => absurd ok bad⟩

/-- DONE and the first lap come after a restore's end. -/
theorem RestEnds.after {s w : State} {r : CmdRef} {g step st : Nat} (state : w.rcvState r.part = s.rcvState r.part)
    (upd : w.rd .RCV_GRPg_UPD g r.part.val = BitVec.ofNat 32 step) (ended : CmdEnded w r st) :
    RestEnds s r g step ((w.doneTry r.part).colForward g) := by
  obtain steady | ⟨before, now⟩ := w.doneTry_cases r.part
  · refine .inl ⟨st, CmdEnded.colForward (CmdEnded.of_queues ended (steady .RCV_STATE rfl).queues) g, fun _ => ?_⟩
    rw [State.colForward_rd _ _ rfl, (steady .RCV_GRPg_UPD rfl).rd, upd]
  · refine .inr ⟨state ▸ before, ?_⟩
    rw [State.rcvState, State.fget, State.colForward_rd _ _ rfl]
    exact now

section

variable (s : State) (x : RestRun) (c : Cmd) (img : List Byte)

/-- The tensors of an image are written. -/
def State.tensorsRestored (tens : List Byte) : State × Nat :=
  (List.range c.listed.length).foldl (fun a n =>
    ((a.1.restTensor x.ref.part img tens n (c.listed.getD n default)).1,
     if a.2 = 0 then (a.1.restTensor x.ref.part img tens n (c.listed.getD n default)).2 else a.2)) (s, 0)

/-- Its other sections take effect. -/
def State.sectionsRestored (led num rcd grp route steps : List Byte) : State :=
  ((((((s.restLedger x.ref.part.val led).1.restNumerics x.ref.part.val num).restGroups grp).restRoute route).restSteps x.ref.part x.group steps).modRcv
    x.ref.part (fun y => y.keepRecord (parseRecord x.group x.step rcd))).restCommon x.ref.part x.group x.step

/-- A restore from the partner keeps the image as the local copy. -/
def State.imageKept : State × Nat :=
  if x.source = 1 then
    (s.modRcv x.ref.part (fun y => y.setCopy { group := x.group, step := x.step, coord := s.selfNum, addr := snAddr c + x.step % 2 * snSpace c,
                                               bytes := img.length, whole := true })).writeAs x.ref.part.val (snAddr c + x.step % 2 * snSpace c) img
  else (s, 0)

/-- The restore is noted and ends, and what waits for it goes on. -/
def State.restConcluded (st : Nat) : State :=
  ((((s.modRcv x.ref.part (fun y => { y with restored := true })).recordRestored x.ref).restEnd x.ref.part x.ref st).doneTry x.ref.part).colForward x.group

/-- An image is applied whole, or not at all. -/
theorem State.restApply_cases : s.restApply x c img = s.restNoSource x.ref.part x.ref ∨ ∃ tens led num rcd grp route steps, s.restApply x c img =
    let a := s.tensorsRestored x c img tens
    if a.2 ≠ 0 then a.1.restEnd x.ref.part x.ref a.2
    else
      let b := (a.1.sectionsRestored x led num rcd grp route steps).imageKept x c img
      b.1.restConcluded x (if (a.1.restLedger x.ref.part.val led).2 ≠ 0 then (a.1.restLedger x.ref.part.val led).2 else b.2) := by
  unfold State.restApply
  dsimp only
  split
  next tens led num rcd grp route steps _ =>
    split
    · exact .inl rfl
    · exact .inr ⟨tens, led, num, rcd, grp, route, steps, rfl⟩
  next => exact .inl rfl

variable {s x c img}

theorem Steady.tensorsRestored {q : RegName} (rest : restReg q = true) (tens : List Byte) : Steady q s (s.tensorsRestored x c img tens).1 :=
  foldlFst_rel (f := fun a n => ((a.1.restTensor x.ref.part img tens n (c.listed.getD n default)).1,
      if a.2 = 0 then (a.1.restTensor x.ref.part img tens n (c.listed.getD n default)).2 else a.2))
    refl trans (fun a n => restTensor rest a.1 x.ref.part img tens n (c.listed.getD n default)) _ (s, 0)

theorem Steady.sectionsRestored (led num rcd grp route steps : List Byte) : Steady .RCV_STATE s (s.sectionsRestored x led num rcd grp route steps) :=
  ((((((restLedger rfl s x.ref.part.val led).trans (restNumerics rfl _ _ _)).trans (restGroups rfl _ _)).trans (restRoute rfl _ _)).trans
    (restSteps _ _ _ _)).trans (modRcv _ _ _)).trans (restCommon _ _ _ _)

theorem Steady.imageKept {q : RegName} (rest : restReg q = true) : Steady q s (s.imageKept x c img).1 := by
  unfold State.imageKept
  split
  · exact (modRcv s _ _).trans (written rest (Written.writeAs _ _ _ _))
  · exact refl s

/-- A restore that concludes ends. -/
theorem RestEnds.restConcluded {u : State} {op : Nat} (run : u.running x.ref op = some c) (steady : Steady .RCV_STATE u s)
    (upd : s.rd .RCV_GRPg_UPD x.group x.ref.part.val = BitVec.ofNat 32 x.step) (st : Nat) : RestEnds u x.ref x.group x.step (s.restConcluded x st) := by
  obtain ⟨-, live, -, unfin, ok, -⟩ := State.running_iff.mp run
  let v := s.modRcv x.ref.part (fun y => { y with restored := true })
  have there : v.cmdAt x.ref.part.val x.ref.queue.val x.ref.slot = some c :=
    State.cmdAt_running run ((State.modRcv_queues _ _ _).trans steady.queues)
  have rf : ((v.recordRestored x.ref).restEnd x.ref.part x.ref st).rf = s.rf :=
    (State.restEnd_kept _ _ _ _).2.1.trans ((State.recordRestored_rf _ _).trans (State.modRcv_rf _ _ _))
  refine RestEnds.after ?_ ?_ (CmdEnded.restored there live unfin ok st)
  · rw [State.rcvState, State.fget, State.rd, rf]
    exact State.rcvState_steady steady _
  · rw [State.rd, rf]
    exact upd

/-- So does one whose image is applied. -/
theorem RestEnds.restApply {u : State} {op : Nat} (run : u.running x.ref op = some c) (steady : Steady .RCV_STATE u s) :
    RestEnds u x.ref x.group x.step (s.restApply x c img) := by
  obtain none | ⟨tens, led, num, rcd, grp, route, steps, applied⟩ := s.restApply_cases x c img
  · rw [none]
    exact .failed (CmdEnded.restNoSource run steady.queues) (by decide)
  · rw [applied]
    extract_lets a b
    have written : Steady .RCV_STATE u a.1 := steady.trans (Steady.tensorsRestored rfl tens)
    split
    next bad => exact .failed (CmdEnded.restEnd run written.queues _) bad
    next =>
      have sections : Steady .RCV_STATE u b.1 := (written.trans (Steady.sectionsRestored led num rcd grp route steps)).trans (Steady.imageKept rfl)
      refine RestEnds.restConcluded run sections ?_ _
      exact ((Steady.imageKept rfl).rd _ _).trans (State.restCommon_upd _ _ _ _)

/-- RESTORE from the local copy ends, or with it the recovery. -/
theorem RestEnds.fromLocal {r : CmdRef} (run : s.running r 0x61 = some c) : RestEnds s r (cGroup c) (cStep c) (s.fromLocal r c) := by
  have head : Steady .RCV_STATE s (s.localHead r c).2 := Steady.written rfl (Touched.readAs s _ _ _ _).written
  have image : Steady .RCV_STATE s (s.localImage r c).2 := head.trans (Steady.written rfl (Touched.readAs _ _ _ _ _).written)
  unfold State.fromLocal
  split
  · exact .failed (CmdEnded.restNoSource run head.queues) (by decide)
  · split
    · exact .failed (CmdEnded.restNoSource run image.queues) (by decide)
    · exact RestEnds.restApply (x := restBegun r c 0) run (image.trans (Steady.modRcv _ _ _))

end

end Sys2Proof.Machine
end

section
/-! SUPPORT. LEDGER and EXPORT, case by case (R231, R237). -/

namespace Sys2Proof.Machine

open Sys2Proof.Safety

theorem exec_ledger {s : State} {r : CmdRef} {c : Cmd} (run : s.running r 0x70 = some c) : exec (.ledger r) s = .next (s.ledgerRun r c) := by
  show execLedger r s = _
  rw [execLedger, run]

theorem exec_ledger_none {s : State} {r : CmdRef} (idle : s.running r 0x70 = none) : exec (.ledger r) s = .next s := by
  show execLedger r s = _
  rw [execLedger, idle]

section

variable {s : State} {r : CmdRef} {c : Cmd}

/-! ## REGISTER, READ and MARK (R231) -/

/-- The tensor that REGISTER and MARK read. -/
def State.ledgerFetched (s : State) (r : CmdRef) (c : Cmd) : State × Nat := s.fetchTensor r.part.val (c.desc 0)

def State.ledgerRegistered (s : State) (r : CmdRef) (c : Cmd) : State × Nat :=
  (s.ledgerFetched r c).1.ledgerRegister r.part.val ((s.ledgerFetched r c).1.columns (c.desc 0))

def State.ledgerMarked (s : State) (r : CmdRef) (c : Cmd) : State × Nat :=
  foldSt ((s.ledgerFetched r c).1.words (c.desc 0)) (fun s t => s.ledgerMark r.part.val t (bitsOf (cOparg c) 5 4) (bitsOf (cOparg c) 7 6))
    (s.ledgerFetched r c).1

/-- What the ledger counts of the entries that READ writes. -/
def State.readCounts (s : State) (d : TDesc) : LedRec :=
  (s.words d).foldl (fun (l : LedRec) w => l.count (ofInt (BitVec.ofNat 32 w).toInt 0) (w == 0) 0) { (default : LedRec) with tid := d.tid }

theorem State.ledgerRun_register (op : cOparg c % 16 = 0) : s.ledgerRun r c =
    if (s.ledgerFetched r c).2 ≠ 0 then (s.ledgerFetched r c).1.failRun r c (s.ledgerFetched r c).2
    else (s.ledgerRegistered r c).1.endRun r c (s.ledgerRegistered r c).2 := by
  unfold State.ledgerRun
  rw [op]
  rfl

theorem State.ledgerRun_read (op : cOparg c % 16 = 1) : s.ledgerRun r c =
    (s.ledgerReadAll r.part.val c).1.endRun r (c.record (c.desc 1) ((s.ledgerReadAll r.part.val c).1.readCounts (c.desc 1)))
      (s.ledgerReadAll r.part.val c).2 := by
  unfold State.ledgerRun
  rw [op]
  rfl

theorem State.ledgerRun_mark (op : cOparg c % 16 = 2) : s.ledgerRun r c =
    if (s.ledgerFetched r c).2 ≠ 0 then (s.ledgerFetched r c).1.failRun r c (s.ledgerFetched r c).2
    else (s.ledgerMarked r c).1.endRun r c (s.ledgerMarked r c).2 := by
  unfold State.ledgerRun
  rw [op]
  rfl

theorem State.ledgerRun_export (op : 3 ≤ cOparg c % 16) : s.ledgerRun r c = s.exportRun r c := by
  obtain ⟨n, e⟩ : ∃ n, cOparg c % 16 = n + 3 := ⟨cOparg c % 16 - 3, by omega⟩
  unfold State.ledgerRun
  rw [e]
  dsimp only
  rw [if_neg (show ¬(n + 3 = 0 ∨ n + 3 = 2) by omega)]
  rfl

theorem Touched.ledgerFetched (s : State) (r : CmdRef) (c : Cmd) : Touched s (s.ledgerFetched r c).1 := fetchTensor s _ _ _

theorem State.ledgerReadAll_queues (s : State) (p : Nat) (c : Cmd) : (s.ledgerReadAll p c).1.queues = s.queues :=
  (Worked.foldSt (fun s _ => Worked.writeAs s _ _ _) _ s).queues

/-- READ of one entry writes what was read of it at step 4. -/
theorem State.ledgerReadAll_one (s : State) (p : Nat) {c : Cmd} (one : (c.desc 1).dim 1 = 1) :
    s.ledgerReadAll p c = s.writeAs p ((c.desc 1).base + (c.desc 1).bitPos (0, 0, 0, 0) / 8) (c.aux.take 256) := by
  unfold State.ledgerReadAll
  dsimp only
  rw [one]
  rfl

section

variable (run : s.running r 0x70 = some c)
include run

theorem CmdEnded.ledgerRun_fetch {y : State × Nat} (same : y.1.queues = s.queues) {t : State} (next : t =
    if (s.ledgerFetched r c).2 ≠ 0 then (s.ledgerFetched r c).1.failRun r c (s.ledgerFetched r c).2 else y.1.endRun r c y.2) :
    ∃ st, CmdEnded t r st := by
  rw [next]
  split
  · exact ⟨_, CmdEnded.failRun_after run (Touched.ledgerFetched s r c).queues _⟩
  · exact ⟨_, CmdEnded.endRun_after run same rfl rfl _⟩

theorem CmdEnded.ledgerRun_register (op : cOparg c % 16 = 0) : ∃ st, CmdEnded (s.ledgerRun r c) r st :=
  CmdEnded.ledgerRun_fetch run (y := s.ledgerRegistered r c) ((State.ledgerRegister_queues _ _ _).trans (Touched.ledgerFetched s r c).queues)
    (State.ledgerRun_register op)

theorem CmdEnded.ledgerRun_mark (op : cOparg c % 16 = 2) : ∃ st, CmdEnded (s.ledgerRun r c) r st :=
  CmdEnded.ledgerRun_fetch run (y := s.ledgerMarked r c)
    ((Worked.foldSt (fun s t => Worked.ledgerMark s _ t _ _) _ _).queues.trans (Touched.ledgerFetched s r c).queues) (State.ledgerRun_mark op)

theorem CmdEnded.ledgerRun_read (op : cOparg c % 16 = 1) : CmdEnded (s.ledgerRun r c) r (s.ledgerReadAll r.part.val c).2 := by
  rw [State.ledgerRun_read op]
  exact CmdEnded.endRun_after run (State.ledgerReadAll_queues s _ c) (Cmd.record_slot _ _ _) (Cmd.record_fail _ _ _) _

omit run in
theorem State.ledgerRun_read_cell (op : cOparg c % 16 = 1) (ok : (s.ledgerReadAll r.part.val c).2 = 0) (one : (c.desc 1).dim 1 = 1)
    (tier : s.tier = State.reset.tier) (fits : (c.desc 1).base + (c.desc 1).bitPos (0, 0, 0, 0) / 8 + 256 ≤ t2Base) {i : Nat}
    (lt : i < min 256 c.aux.length) : (s.ledgerRun r c).cell ((c.desc 1).base + (c.desc 1).bitPos (0, 0, 0, 0) / 8 + i) = c.aux.getD i 0 := by
  have len : (c.aux.take 256).length = min 256 c.aux.length := List.length_take
  rw [s.ledgerReadAll_one _ one] at ok
  rw [State.ledgerRun_read op, KeepsMem.of_mem (OnlyQueues.endRun _ _ _ _).mem, s.ledgerReadAll_one _ one,
    State.cell_writeAs_in tier _ ok (by rw [len]; exact lt) (by omega)]
  simp only [List.getD_eq_getElem?_getD]
  rw [List.getElem?_take_of_lt (by omega)]

/-- REGISTER with a record that fails its checks changes no byte. -/
theorem State.ledgerRun_refused (op : cOparg c % 16 = 0) (read : (s.ledgerFetched r c).2 = 0)
    (bad : ((s.ledgerFetched r c).1.columns (c.desc 0)).all ((s.ledgerFetched r c).1.recordOk r.part.val) = false) :
    CmdEnded (s.ledgerRun r c) r 0x0403 ∧ KeepsMem s (s.ledgerRun r c) ∧
      ∀ q i a, hbmLoud q = false → (s.ledgerRun r c).rd q i a = s.rd q i a := by
  have touched := Touched.ledgerFetched s r c
  have refused : s.ledgerRegistered r c = ((s.ledgerFetched r c).1, 0x0403) := by
    unfold State.ledgerRegistered State.ledgerRegister
    exact if_pos (by rw [bad]; simp)
  rw [State.ledgerRun_register op, if_neg (by simp [read]), refused]
  have only := OnlyQueues.endRun (s.ledgerFetched r c).1 r c 0x0403
  refine ⟨CmdEnded.endRun_after run touched.queues rfl rfl _, fun a => (KeepsMem.of_mem only.mem a).trans (touched.cell a), fun q i a quiet => ?_⟩
  rw [State.rd, only.rf, ← State.rd, touched.rd q i a quiet]

end

/-! ## EXPORT (R237) -/

section

variable (s : State) (r : CmdRef) (c : Cmd)

def State.exportFetched : State × Nat := s.fetchTensors r.part.val c.listed
def State.exportImaged : List (Nat × List Byte) × Nat := (s.exportFetched r c).1.exportImage (leNat c.aux) c.listedSw

/-- The image goes to HBM. -/
def State.exportWritten : State × Nat :=
  (s.exportFetched r c).1.writeRuns r.part.val [(exAddr c, denseRuns 0 (s.exportImaged r c).1)]

/-- Or it is sent to the host. -/
def State.exportSent : State :=
  let img := denseRuns 0 (s.exportImaged r c).1
  (pieces64 (img.length + 1) (exAddr c) img.length).foldl (fun (s : State) e =>
    s.sendSnapWr (exPort c) r e.1 (e.1 - exAddr c) ((img.drop (e.1 - exAddr c)).take e.2))
    ((s.exportFetched r c).1.setCmd r.part.val r.queue.val { c with pieces := (s.exportImaged r c).2 })

variable {s r c}

theorem State.exportRun_started (new : c.pieces = 0) : s.exportRun r c =
    if (s.exportFetched r c).2 ≠ 0 then (s.exportFetched r c).1.failRun r c (s.exportFetched r c).2
    else if exDest c = 0 then
      if (s.exportWritten r c).2 ≠ 0 then (s.exportWritten r c).1.failRun r c (s.exportWritten r c).2
      else (s.exportWritten r c).1.exportDone r c (s.exportImaged r c).2
    else if (s.exportFetched r c).1.flashAbsent (exPort c) (exAddr c) then
      (s.exportFetched r c).1.snapStatus.2.failRun r c (s.exportFetched r c).1.snapStatus.1
    else s.exportSent r c := if_neg (by simp [new])

theorem Touched.exportFetched (s : State) (r : CmdRef) (c : Cmd) : Touched s (s.exportFetched r c).1 := fetchTensors s _ _ _

theorem State.exportWritten_queues (s : State) (r : CmdRef) (c : Cmd) : (s.exportWritten r c).1.queues = s.queues :=
  (State.writeRuns_queues _ _ _).trans (Touched.exportFetched s r c).queues

variable (run : s.running r 0x70 = some c) (new : c.pieces = 0)
include run new

theorem State.exportRun_unread (bad : (s.exportFetched r c).2 ≠ 0) : CmdEnded (s.exportRun r c) r (s.exportFetched r c).2 ∧ KeepsMem s (s.exportRun r c) := by
  rw [State.exportRun_started new, if_pos bad]
  exact ⟨CmdEnded.failRun_after run (Touched.exportFetched s r c).queues _, (Touched.exportFetched s r c).keepsMem⟩

variable (read : (s.exportFetched r c).2 = 0)
include read

/-- To HBM it ends with the status of its writes. -/
theorem CmdEnded.exportRun_hbm (hbm : exDest c = 0) : CmdEnded (s.exportRun r c) r (s.exportWritten r c).2 := by
  have queues := s.exportWritten_queues r c
  rw [State.exportRun_started new, if_neg (by simp [read]), if_pos hbm]
  split
  next => exact CmdEnded.failRun_after run queues _
  next ok =>
    have ok : (s.exportWritten r c).2 = 0 := by simpa using ok
    rw [ok]
    exact CmdEnded.finish_after run ((CmdKept.numEvent _ _ _ _ _ _).queues.trans queues)

theorem CmdEnded.exportRun_absent (host : exDest c ≠ 0) (gone : s.flashAbsent (exPort c) (exAddr c) = true) :
    CmdEnded (s.exportRun r c) r (s.exportFetched r c).1.snapStatus.1 := by
  have touched := Touched.exportFetched s r c
  rw [State.exportRun_started new, if_neg (by simp [read]), if_neg host, if_pos (((Worked.touched touched).flashAbsent _ _).trans gone)]
  exact CmdEnded.failRun_after run ((Quiet.draw _ 16).queues.trans touched.queues) _

/-- To the host it notes its bytes and goes on. -/
theorem State.exportRun_sends (host : exDest c ≠ 0) (there : s.flashAbsent (exPort c) (exAddr c) = false) :
    (s.exportRun r c).cmdAt r.part.val r.queue.val r.slot = some { c with pieces := (s.exportImaged r c).2 } ∧ KeepsMem s (s.exportRun r c) := by
  have touched := Touched.exportFetched s r c
  have sent : Posted (fun _ => false) ((s.exportFetched r c).1.setCmd r.part.val r.queue.val { c with pieces := (s.exportImaged r c).2 })
      (s.exportSent r c) := Posted.foldl (fun s _ => Posted.sendSnap s _) _ _
  have at_ := State.cmdAt_running run touched.queues
  rw [State.exportRun_started new, if_neg (by simp [read]), if_neg host, if_neg (by rw [(Worked.touched touched).flashAbsent]; simp [there])]
  refine ⟨(State.cmdAt_congr sent.queues _ _ _).trans (State.cmdAt_setCmd_same at_ _ (show c.slot = r.slot from State.cmdAt_slot at_)), fun a => ?_⟩
  rw [KeepsMem.of_mem (sent.mem.trans (State.setCmd_mem _ _ _ _)), touched.cell]

end

end

end Sys2Proof.Machine
end

section
/-! SUPPORT. LEDGER_ENABLE (R471): the word stored, its clamps, and the scan. -/

namespace Sys2Proof.Machine

open Sys2Proof.Safety

/-! ## The word asked for -/

theorem wGet_or_enable (w : Word) : wGet (w ||| 0x10) 4 4 = 1 := by
  have e : wGet (w ||| 0x10) 4 4 = (w.toNat / 2 ^ 4 ||| 1) % 2 ^ 1 := by
    rw [wGet, bitsOf, BitVec.toNat_or, Nat.or_div_two_pow]
    rfl
  rw [e, Nat.or_mod_two_pow]
  obtain z | o : w.toNat / 2 ^ 4 % 2 ^ 1 = 0 ∨ w.toNat / 2 ^ 4 % 2 ^ 1 = 1 := by omega
  · rw [z]
    rfl
  · rw [o]
    rfl

theorem wGet_or_log2 (w : Word) : wGet (w ||| 0x10) 3 0 = wGet w 3 0 := by
  have e : wGet (w ||| 0x10) 3 0 = (w.toNat ||| 16) % 2 ^ 4 := by
    rw [wGet, bitsOf, BitVec.toNat_or, Nat.pow_zero, Nat.div_one]
    rfl
  rw [e, Nat.or_mod_two_pow, wGet, bitsOf, Nat.pow_zero, Nat.div_one]
  exact Nat.or_zero _

section

variable (s : State) (p : Nat)

/-- Whether the ledger's table lies in its partition's HBM. -/
def State.ledgerFits : Bool :=
  covers (s.ownedT1 p) ((s.ownedT1 p).length + 1) (s.entAddr p 0) (s.entAddr p 0 + 256 * s.ledgerSize p)

/-- NUM_LEDGER_CTRL with ENABLE asked for, each field in its range. -/
def State.ledgerAsked : Word := rangeWord .NUM_LEDGER_CTRL (s.rd .NUM_LEDGER_CTRL 0 p) (s.rd .NUM_LEDGER_CTRL 0 p ||| 0x10)

/-- LOG2_ENTRIES keeps its value in the word that the cross-field rule sees. -/
def State.ledgerKept : Word :=
  if s.ledgerOn p then wSet (s.ledgerAsked p) 3 0 (s.fget Fld.NUM_LEDGER_CTRL_LOG2_ENTRIES 0 p) else s.ledgerAsked p

/-- The write of the register. -/
def State.ledgerStored : State :=
  s.fieldWrite p .NUM_LEDGER_CTRL 0 p (s.rd .NUM_LEDGER_CTRL 0 p ||| 0x10) (s.ledgerCross p)

theorem State.ledgerAsked_enable : wGet (s.ledgerAsked p) 4 4 = 1 :=
  (wGet_rangeWord .NUM_LEDGER_CTRL _ _ (f := ⟨4, 4, .rw, 0x0, .full⟩) (by decide) rfl).trans (wGet_or_enable _)

theorem State.ledgerKept_enable : wGet (s.ledgerKept p) 4 4 = 1 := by
  unfold State.ledgerKept
  split
  · rw [wGet_wSet_ne _ _ (by decide) (by decide) (by decide) (by decide), s.ledgerAsked_enable]
  · exact s.ledgerAsked_enable p

variable {s p}

theorem State.ledgerAsked_log2 (low : 6 ≤ s.fget Fld.NUM_LEDGER_CTRL_LOG2_ENTRIES 0 p) (high : s.fget Fld.NUM_LEDGER_CTRL_LOG2_ENTRIES 0 p ≤ 14) :
    wGet (s.ledgerAsked p) 3 0 = s.fget Fld.NUM_LEDGER_CTRL_LOG2_ENTRIES 0 p := by
  refine (wGet_rangeWord .NUM_LEDGER_CTRL _ _ (f := ⟨3, 0, .rw, 0x6, .num 6 14 1⟩) (by decide) rfl).trans ?_
  dsimp only
  rw [wGet_or_log2]
  show rangeFix _ (s.fget Fld.NUM_LEDGER_CTRL_LOG2_ENTRIES 0 p) = _
  simp only [rangeFix, Nat.le_refl, if_true]
  rw [if_neg (by omega), if_neg (by omega)]

section

variable (low : 6 ≤ s.fget Fld.NUM_LEDGER_CTRL_LOG2_ENTRIES 0 p) (high : s.fget Fld.NUM_LEDGER_CTRL_LOG2_ENTRIES 0 p ≤ 14)
include low high

theorem State.ledgerKept_log2 : wGet (s.ledgerKept p) 3 0 = s.fget Fld.NUM_LEDGER_CTRL_LOG2_ENTRIES 0 p := by
  unfold State.ledgerKept
  split
  · rw [wGet_wSet_same _ _ (by decide) (by decide)]
    exact Nat.mod_eq_of_lt (by omega)
  · exact State.ledgerAsked_log2 low high

/-- ENABLE stands where the table fits, and is cleared where it does not. -/
theorem State.ledgerCross_asked : s.ledgerCross p (s.ledgerAsked p) =
    if s.ledgerFits p = false then wSet (s.ledgerKept p) 4 4 0 else s.ledgerKept p := by
  show (if wGet (s.ledgerKept p) 4 4 = 1 ∧ covers (s.ownedT1 p) ((s.ownedT1 p).length + 1) (s.entAddr p 0)
    (s.entAddr p 0 + 256 * 2 ^ wGet (s.ledgerKept p) 3 0) = false then wSet (s.ledgerKept p) 4 4 0 else s.ledgerKept p) = _
  simp only [s.ledgerKept_enable p, State.ledgerKept_log2 low high, true_and]
  rfl

end

/-! ## The write -/

theorem Clamped.ledgerStored (s : State) (p : Nat) :
    Clamped (s.wr .NUM_LEDGER_CTRL 0 p (s.ledgerCross p (s.ledgerAsked p))) (s.ledgerStored p) :=
  Clamped.recordClamps _ _ _ _ _ _

theorem State.ledgerStored_queues (s : State) (p : Nat) : (s.ledgerStored p).queues = s.queues :=
  (State.recordClamps_queues _ _ _ _ _ _).trans (State.wr_queues _ _ _ _ _)

theorem State.ledgerStored_mem (s : State) (p : Nat) : (s.ledgerStored p).mem = s.mem :=
  (Clamped.ledgerStored s p).mem.trans (State.wr_mem _ _ _ _ _)

theorem State.ledgerStored_fget (s : State) (p : Nat) {f : Fld} (reg : f.reg = .NUM_LEDGER_CTRL) :
    (s.ledgerStored p).fget f 0 p = wGet (s.ledgerCross p (s.ledgerAsked p)) f.hi f.lo := by
  rw [State.fget, reg, (Clamped.ledgerStored s p).regs _ _ _ rfl rfl, State.rd_wr_same]

section

variable (low : 6 ≤ s.fget Fld.NUM_LEDGER_CTRL_LOG2_ENTRIES 0 p) (high : s.fget Fld.NUM_LEDGER_CTRL_LOG2_ENTRIES 0 p ≤ 14)
include low high

theorem State.ledgerStored_on : (s.ledgerStored p).ledgerOn p = s.ledgerFits p := by
  show ((s.ledgerStored p).fget Fld.NUM_LEDGER_CTRL_ENABLE 0 p == 1) = _
  rw [s.ledgerStored_fget p rfl, State.ledgerCross_asked low high]
  split
  next out =>
    have off : wGet (wSet (s.ledgerKept p) 4 4 0) Fld.NUM_LEDGER_CTRL_ENABLE.hi Fld.NUM_LEDGER_CTRL_ENABLE.lo = 0 :=
      wGet_wSet_same _ _ (by decide) (by decide)
    rw [off, out]
    rfl
  next fits =>
    have on : wGet (s.ledgerKept p) Fld.NUM_LEDGER_CTRL_ENABLE.hi Fld.NUM_LEDGER_CTRL_ENABLE.lo = 1 := s.ledgerKept_enable p
    rw [on, Bool.eq_true_of_not_eq_false fits]
    rfl

theorem State.ledgerStored_log2 (fits : s.ledgerFits p = true) :
    (s.ledgerStored p).fget Fld.NUM_LEDGER_CTRL_LOG2_ENTRIES 0 p = s.fget Fld.NUM_LEDGER_CTRL_LOG2_ENTRIES 0 p := by
  rw [s.ledgerStored_fget p rfl, State.ledgerCross_asked low high, if_neg (by simp [fits])]
  exact State.ledgerKept_log2 low high

end

theorem exec_ledgerEnable (p : Part) (s : State) : exec (.ledgerEnable p) s =
    .next (if (s.ledgerStored p.val).ledgerOn p.val && !s.ledgerOn p.val then (s.ledgerStored p.val).ledgerScan p.val else s.ledgerStored p.val) := rfl

/-! ## The scan -/

/-- What the scan counts: the entries after the monitor has read each and cleared what is stale. -/
def State.ledgerScanned (s : State) (p : Nat) : State :=
  let n := s.ledgerSize p
  (List.range n).foldl (fun s i => s.scanEnt p i) ((List.range n).foldl (fun s i => (s.checkEnt p i).1) s)

theorem State.ledgerScan_eq (s : State) (p : Nat) : s.ledgerScan p = (s.ledgerScanned p).setUsed p := rfl

theorem Worked.ledgerScanned (s : State) (p : Nat) : Worked s (s.ledgerScanned p) :=
  (Worked.foldl (fun s i => Worked.checkEnt s p i) _ s).trans (Worked.foldl (fun s i => Worked.scanEnt s p i) _ _)

/-- Whether an entry is in force depends on memory, the objects and where the table starts. -/
theorem State.entInForce_congr {s t : State} (store : SameStore s t) (objs : t.liveObjs = s.liveObjs)
    (base : ∀ i, t.entAddr p i = s.entAddr p i) (i : Nat) : t.entInForce p i = s.entInForce p i := by
  have cell (a : Nat) : t.cell a = s.cell a := KeepsMem.of_mem store.mem a
  have byte (a : Nat) : t.byte a = s.byte a := by rw [State.byte, State.resolve, objs, cell, State.byte, State.resolve]
  have ent : t.ent p i = s.ent p i := by simp only [State.ent, State.bytes, base, byte]
  have bad : t.poisoned (s.entAddr p i) 64 = s.poisoned (s.entAddr p i) 64 := by
    rw [State.poisoned, store.mem, store.retiredIn, State.poisoned]
  unfold State.entInForce
  rw [ent, base, bad]

theorem State.setUsed_fget (s : State) (p : Nat) {f : Fld} (reg : f.reg = .NUM_LEDGER_CTRL) (ord : f.lo ≤ f.hi) (low : f.hi < 16) :
    (s.setUsed p).fget f 0 p = s.fget f 0 p :=
  State.fget_fset_ne _ (f := Fld.NUM_LEDGER_CTRL_USED) _ _ _ reg (by decide) (by decide) ord (.inl low)

theorem State.setUsed_ledgerSize (s : State) (p : Nat) : (s.setUsed p).ledgerSize p = s.ledgerSize p :=
  congrArg (2 ^ ·) (s.setUsed_fget p rfl (by decide) (by decide))

theorem State.setUsed_entInForce (s : State) (p i : Nat) : (s.setUsed p).entInForce p i = s.entInForce p i := by
  have other {r : RegName} (a b : Nat) (n : r ≠ .NUM_LEDGER_CTRL) : (s.setUsed p).rd r a b = s.rd r a b := State.rd_fset_reg _ _ _ _ _ _ n
  refine State.entInForce_congr (SameStore.fset s _ _ _ _) (State.liveObjs_congr (State.fset_tier _ _ _ _ _) fun q => ?_) (fun i => ?_) i
  · exact State.fget_fset_reg _ _ _ _ _ _ (by decide)
  · show (s.setUsed p).entAddr p i = s.entAddr p i
    simp only [State.entAddr, State.rd64, other (r := .NUM_LEDGER_BASE_LO) _ _ (by decide), other (r := .NUM_LEDGER_BASE_HI) _ _ (by decide)]

/-- USED is the number of entries in force, in a table of a size that the register may hold. -/
theorem State.setUsed_used (s : State) (p : Nat) (high : s.fget Fld.NUM_LEDGER_CTRL_LOG2_ENTRIES 0 p ≤ 14) :
    (s.setUsed p).fget Fld.NUM_LEDGER_CTRL_USED 0 p =
      ((List.range ((s.setUsed p).ledgerSize p)).filter ((s.setUsed p).entInForce p)).length := by
  have few : ((List.range (s.ledgerSize p)).filter (s.entInForce p)).length < 2 ^ 16 := calc
    _ ≤ (List.range (s.ledgerSize p)).length := List.length_filter_le _ _
    _ = 2 ^ s.fget Fld.NUM_LEDGER_CTRL_LOG2_ENTRIES 0 p := List.length_range
    _ ≤ 2 ^ 14 := Nat.pow_le_pow_right (by decide) high
    _ < 2 ^ 16 := by decide
  have same : (s.setUsed p).entInForce p = s.entInForce p := funext (s.setUsed_entInForce p)
  rw [s.setUsed_ledgerSize, same]
  exact (State.fget_fset_same _ _ _ _ _ (by decide) (by decide)).trans (Nat.mod_eq_of_lt few)

/-- A table switched on where it fits: it is on, its size is kept and USED counts its entries. -/
theorem State.ledgerScan_on (s : State) (p : Nat) (high : s.fget Fld.NUM_LEDGER_CTRL_LOG2_ENTRIES 0 p ≤ 14) :
    (s.ledgerScan p).ledgerOn p = s.ledgerOn p ∧ (s.ledgerScan p).ledgerSize p = s.ledgerSize p ∧
    (s.ledgerScan p).fget Fld.NUM_LEDGER_CTRL_USED 0 p =
      ((List.range ((s.ledgerScan p).ledgerSize p)).filter ((s.ledgerScan p).entInForce p)).length ∧
    (s.ledgerScan p).queues = s.queues := by
  have work := Worked.ledgerScanned s p
  have kept {f : Fld} (reg : f.reg = .NUM_LEDGER_CTRL) (ord : f.lo ≤ f.hi) (low : f.hi < 16) :
      ((s.ledgerScanned p).setUsed p).fget f 0 p = s.fget f 0 p :=
    (State.setUsed_fget _ p reg ord low).trans (work.fget _ _ _ (by rw [reg]; rfl))
  rw [State.ledgerScan_eq]
  refine ⟨congrArg (· == 1) (kept (f := Fld.NUM_LEDGER_CTRL_ENABLE) rfl (by decide) (by decide)),
    congrArg (2 ^ ·) (kept (f := Fld.NUM_LEDGER_CTRL_LOG2_ENTRIES) rfl (by decide) (by decide)), State.setUsed_used _ p ?_,
    (State.setUsed_queues _ p).trans work.queues⟩
  rw [work.fget _ _ _ rfl]
  exact high

end

end Sys2Proof.Machine
end

section
/-! SUPPORT. DIGEST (R446): the units it holds, the value it writes, and its branches. -/

namespace Sys2Proof.Machine

open Sys2Proof.Safety

/-! ## Holding units (R445) -/

/-- A unit is held by a DIGEST. -/
def State.heldBy (s : State) (r : CmdRef) (u : Fin 4) : Prop := (vget s.chk u).owner = some r ∧ s.fbit Fld.CHK_Uu_CTRL_OWNED u.val = true

/-- One unit held, with its range's check value. -/
def State.holdUnit (s : State) (r : CmdRef) (u : Fin 4) (crc : Nat) : State :=
  let t := (s.fset Fld.CHK_Uu_CTRL_OWNED 1 u.val).wr64 .CHK_Uu_RUN_LO .CHK_Uu_RUN_HI crc u.val
  t.setChk u { vget t.chk u with owner := some r }

/-- The unit of a number in the list held, where there is one. -/
def State.holdNth (r : CmdRef) (us : List (Fin 4)) (data : List Byte) (s : State) (i : Nat) : State :=
  match us[i]? with
  | none => s
  | some u =>
    let e := (digestRanges data.length us.length).getD i (0, 0)
    s.holdUnit r u (crc64 ((data.drop e.1).take (e.2 - e.1)))

theorem State.holdUnits_eq (s : State) (r : CmdRef) (us : List (Fin 4)) (data : List Byte) :
    s.holdUnits r us data = (List.range us.length).foldl (State.holdNth r us data) s := rfl

theorem State.holdNth_of_some {us : List (Fin 4)} {i : Nat} {u : Fin 4} (at_ : us[i]? = some u) (r : CmdRef) (data : List Byte) (s : State) :
    ∃ crc, State.holdNth r us data s i = s.holdUnit r u crc := by
  unfold State.holdNth
  rw [at_]
  exact ⟨_, rfl⟩

/-- Each step of the fold holds a unit or does nothing. -/
theorem State.holdNth_cases {P : State → Prop} {s : State} (r : CmdRef) (us : List (Fin 4)) (data : List Byte) (i : Nat) (stays : P s)
    (holds : ∀ u crc, P (s.holdUnit r u crc)) : P (State.holdNth r us data s i) := by
  unfold State.holdNth
  split
  · exact stays
  · exact holds _ _

theorem State.holdUnit_owned (s : State) (r : CmdRef) (u : Fin 4) (crc : Nat) (v : Fin 4) :
    (s.holdUnit r u crc).fbit Fld.CHK_Uu_CTRL_OWNED v.val = (decide (v = u) || s.fbit Fld.CHK_Uu_CTRL_OWNED v.val) := by
  have ctrl : (s.holdUnit r u crc).fbit Fld.CHK_Uu_CTRL_OWNED v.val = (s.fset Fld.CHK_Uu_CTRL_OWNED 1 u.val).fbit Fld.CHK_Uu_CTRL_OWNED v.val := by
    rw [State.holdUnit, State.fbit, State.fget, State.rd, State.setChk_rf, ← State.rd, State.wr64, State.rd_wr_reg _ _ _ _ _ _ (by decide),
      State.rd_wr_reg _ _ _ _ _ _ (by decide), ← State.fget, ← State.fbit]
  rw [ctrl, State.fbit]
  by_cases e : v = u
  · subst e
    rw [State.fget_fset_same _ _ _ _ _ (by decide) (by decide), decide_eq_true rfl]
    rfl
  · rw [State.fget_fset_inst _ _ _ _ (inst_ne (by decide) e), decide_eq_false e, Bool.false_or, State.fbit]

theorem State.holdUnit_same (s : State) (r : CmdRef) (u : Fin 4) (crc : Nat) : (s.holdUnit r u crc).heldBy r u := by
  refine ⟨?_, by rw [State.holdUnit_owned, decide_eq_true rfl, Bool.true_or]⟩
  show ChkSt.owner (vget (vset _ u _) u) = some r
  rw [vget_vset_same]

/-- A unit that the command holds stays held where it takes another. -/
theorem State.heldBy_holdUnit {s : State} {r : CmdRef} {v : Fin 4} (h : s.heldBy r v) (u : Fin 4) (crc : Nat) : (s.holdUnit r u crc).heldBy r v := by
  by_cases e : v = u
  · subst e
    exact s.holdUnit_same r v crc
  · refine ⟨?_, by rw [State.holdUnit_owned, h.2, Bool.or_true]⟩
    show ChkSt.owner (vget (vset _ u _) v) = some r
    rw [vget_vset_ne _ _ e, State.wr64_chk, State.fset_chk]
    exact h.1

/-- Of a list of units the first is held in the end. -/
theorem State.holdUnits_held (s : State) (r : CmdRef) (u : Fin 4) (us : List (Fin 4)) (data : List Byte) : (s.holdUnits r (u :: us) data).heldBy r u := by
  rw [State.holdUnits_eq]
  refine foldl_sets (P := fun t => t.heldBy r u) (List.mem_range.mpr (Nat.zero_lt_succ us.length)) (fun t => ?_) (fun t i h => ?_) s
  · obtain ⟨crc, e⟩ := State.holdNth_of_some (us := u :: us) (i := 0) rfl r data t
    exact e ▸ t.holdUnit_same r u crc
  · exact State.holdNth_cases (P := fun t => t.heldBy r u) r _ data i h (State.heldBy_holdUnit h)

theorem State.holdUnits_queues (s : State) (r : CmdRef) (us : List (Fin 4)) (data : List Byte) : (s.holdUnits r us data).queues = s.queues :=
  foldl_holds (P := fun t => t.queues = s.queues) (fun t i h => State.holdNth_cases (P := fun t => t.queues = s.queues) r us data i h fun u crc => by
    rw [State.holdUnit, State.setChk_queues, State.wr64_queues, State.fset_queues, h]) _ rfl

theorem State.holdUnits_tier (s : State) (r : CmdRef) (us : List (Fin 4)) (data : List Byte) : (s.holdUnits r us data).tier = s.tier :=
  foldl_holds (P := fun t => t.tier = s.tier) (fun t i h => State.holdNth_cases (P := fun t => t.tier = s.tier) r us data i h fun u crc => by
    rw [State.holdUnit, State.setChk_tier, State.wr64_tier, State.fset_tier, h]) _ rfl

theorem SameStore.holdUnits (s : State) (r : CmdRef) (us : List (Fin 4)) (data : List Byte) : SameStore s (s.holdUnits r us data) := by
  refine foldl_of_steps SameStore.refl SameStore.trans (fun t i => ?_) _ s
  exact State.holdNth_cases (P := SameStore t) r us data i (SameStore.refl t) fun u crc => ⟨by simp [State.holdUnit], by simp [State.holdUnit]⟩

theorem Written.heldBy {s t : State} (h : Written s t) {r : CmdRef} {u : Fin 4} (held : s.heldBy r u) : t.heldBy r u :=
  ⟨by rw [h.chk]; exact held.1, by rw [State.fbit, h.fget _ _ _ rfl]; exact held.2⟩

theorem OnlyQueues.heldBy {s t : State} (h : OnlyQueues s t) {r : CmdRef} {u : Fin 4} (held : s.heldBy r u) : t.heldBy r u := by
  refine ⟨(congrArg (fun t => (vget t.chk u).owner) h).trans held.1, ?_⟩
  rw [State.fbit, State.fget, State.rd, h.rf, ← State.rd, ← State.fget, ← State.fbit]
  exact held.2

/-- Reading changes no unit. -/
theorem Touched.freeUnits {s t : State} (h : Touched s t) : t.freeUnits = s.freeUnits := by
  have held (u : Fin 4) : t.chkHeld u.val = s.chkHeld u.val := State.chkHeld_congr (h.rd _ _ _ rfl)
  simp only [State.freeUnits, held]

/-- With nothing brought for any command, dropping changes nothing. -/
theorem State.t2Drop_nil {s : State} {r : CmdRef} (none : (vget s.tier r.part).fetches = []) : s.t2Drop r = s := by
  have same : { vget s.tier r.part with fetches := [] } = vget s.tier r.part := by rw [← none]
  have back : vset s.tier r.part (vget s.tier r.part) = s.tier := by simp [vset, vget, Vector.get_eq_getElem]
  rw [State.t2Drop, none]
  show ({ s with tier := vset s.tier r.part { vget s.tier r.part with fetches := [] } } : State) = s
  rw [same, back]

/-! ## The command -/

theorem exec_digest {s : State} {r : CmdRef} {c : Cmd} (run : s.running r 0x80 = some c) : exec (.digest r) s = .next (s.digest r c) := by
  show execDigest r s = _
  rw [execDigest, run]

theorem exec_digest_none {s : State} {r : CmdRef} (idle : s.running r 0x80 = none) : exec (.digest r) s = .next s := by
  show execDigest r s = _
  rw [execDigest, idle]

section

variable (s : State) (r : CmdRef) (c : Cmd)

/-- What a digest reads. -/
def Cmd.digestReads (c : Cmd) : List (Nat × Nat) :=
  c.listed.flatMap (fun e => [(e.base, e.extent)] ++ (if isMx e.dtype then [(e.scale, e.scaleCount)] else []))

def State.digestFetched : State × Nat := s.fetchTensors r.part.val c.listed
def State.digestData : List Byte := (s.digestFetched r c).1.digestStream c.listed
def State.digestUnits : List (Fin 4) := (s.digestFetched r c).1.freeUnits.take (max 1 (ceilDiv (s.digestData r c).length 65536))

/-- Its units are held. -/
def State.digestHeld : State := ((s.digestFetched r c).1.t2Drop r).holdUnits r (s.digestUnits r c) (s.digestData r c)

/-- Its value is written. -/
def State.digestWritten : State × Nat := (s.digestHeld r c).writeAs r.part.val (c.desc 1).base (leBytes 8 (crc64 (s.digestData r c)))

/-- What the ledger counts of the value. -/
def State.digestCounts : LedRec :=
  let v := crc64 (s.digestData r c)
  (List.range 2).foldl (fun (l : LedRec) i =>
    l.count (ofInt (BitVec.ofNat 32 (v / 2 ^ (32 * i))).toInt 0) (bitsOf v (32 * i + 31) (32 * i) == 0) 0) { (default : LedRec) with tid := (c.desc 1).tid }

variable {s r c}

/-- What it does once its bytes are there and a unit is free. -/
def State.digestNow (s : State) (r : CmdRef) (c : Cmd) : State :=
  if (s.digestFetched r c).2 ≠ 0 then ((s.digestFetched r c).1.t2Drop r).failRun r c (s.digestFetched r c).2
  else (s.digestWritten r c).1.endRun r (c.record (c.desc 1) (s.digestCounts r c)) (s.digestWritten r c).2

theorem State.writeRuns_one (s : State) (p a : Nat) (b : List Byte) : s.writeRuns p [(a, b)] = s.writeAs p a b := by
  rw [State.writeRuns_eq, List.foldl_cons, List.foldl_nil, State.runWritten, if_pos rfl]

theorem State.digest_eq (s : State) (r : CmdRef) (c : Cmd) : s.digest r c =
    if (!(s.t2Stage r c.digestReads).2 || (s.t2Stage r c.digestReads).1.freeUnits.isEmpty) = true then (s.t2Stage r c.digestReads).1
    else (s.t2Stage r c.digestReads).1.digestNow r c := by
  unfold State.digest
  extract_lets p ds
  have reads : ds.flatMap (fun d => [(d.base, d.extent)] ++ (if isMx d.dtype then [(d.scale, d.scaleCount)] else [])) = c.digestReads := rfl
  rw [reads]
  generalize s.t2Stage r c.digestReads = x
  obtain ⟨t, ready⟩ := x
  unfold State.digestNow State.digestWritten State.digestHeld State.digestUnits State.digestCounts State.digestData State.digestFetched
  simp only [← State.writeRuns_one]
  show (if (!ready || t.freeUnits.isEmpty) = true then t else _) = _
  generalize t.fetchTensors r.part.val c.listed = y
  obtain ⟨u, st⟩ := y
  rfl

theorem State.digest_waits (waits : (s.t2Stage r c.digestReads).2 = false ∨ (s.t2Stage r c.digestReads).1.freeUnits = []) :
    s.digest r c = (s.t2Stage r c.digestReads).1 := by
  rw [State.digest_eq]
  obtain waits | waits := waits
  · rw [waits]
    rfl
  · rw [waits, List.isEmpty_nil, Bool.or_true, if_pos rfl]

section

variable (ready : (s.t2Stage r c.digestReads).2 = true) (free : s.freeUnits ≠ [])
include ready free

theorem State.digest_starts : s.digest r c = s.digestNow r c := by
  rw [State.digest_eq, ready, State.t2Stage_ready ready, if_neg (by simpa using free)]

theorem State.digest_fails (bad : (s.digestFetched r c).2 ≠ 0) :
    s.digest r c = ((s.digestFetched r c).1.t2Drop r).failRun r c (s.digestFetched r c).2 := by
  rw [State.digest_starts ready free, State.digestNow, if_pos bad]

theorem State.digest_writes (read : (s.digestFetched r c).2 = 0) :
    s.digest r c = (s.digestWritten r c).1.endRun r (c.record (c.desc 1) (s.digestCounts r c)) (s.digestWritten r c).2 := by
  rw [State.digest_starts ready free, State.digestNow, if_neg (by simp [read])]

end

theorem Touched.digestFetched (s : State) (r : CmdRef) (c : Cmd) : Touched s (s.digestFetched r c).1 := fetchTensors s _ _ _

theorem State.digestDropped_queues (s : State) (r : CmdRef) (c : Cmd) : ((s.digestFetched r c).1.t2Drop r).queues = s.queues :=
  (CmdKept.t2Drop _ r).queues.trans (Touched.digestFetched s r c).queues

theorem State.digestWritten_queues (s : State) (r : CmdRef) (c : Cmd) : (s.digestWritten r c).1.queues = s.queues :=
  (Written.writeAs _ _ _ _).queues.trans ((State.holdUnits_queues _ r _ _).trans (s.digestDropped_queues r c))

theorem State.digestUnits_cons (free : s.freeUnits ≠ []) : ∃ u us, s.digestUnits r c = u :: us := by
  have some : s.digestUnits r c ≠ [] := by
    rw [State.digestUnits, (Touched.digestFetched s r c).freeUnits]
    simp [List.take_eq_nil_iff, free]
  exact List.exists_cons_of_ne_nil some

/-- It holds a unit. -/
theorem State.digestWritten_held (free : s.freeUnits ≠ []) : ∃ u, (s.digestWritten r c).1.heldBy r u := by
  obtain ⟨u, us, units⟩ := State.digestUnits_cons (r := r) (c := c) free
  refine ⟨u, (Written.writeAs _ _ _ _).heldBy ?_⟩
  rw [State.digestHeld, units]
  exact State.holdUnits_held _ r u us _

/-! ## The value in memory -/

section

variable (tier : s.tier = State.reset.tier)
include tier

theorem State.digestFetched_tier : (s.digestFetched r c).1.tier = State.reset.tier := (Touched.digestFetched s r c).tier.trans tier

theorem State.digestHeld_eq : s.digestHeld r c = (s.digestFetched r c).1.holdUnits r (s.digestUnits r c) (s.digestData r c) := by
  rw [State.digestHeld, State.t2Drop_nil (State.fetches_nil (State.digestFetched_tier tier) r.part)]

theorem State.digestHeld_tier : (s.digestHeld r c).tier = State.reset.tier := by
  rw [State.digestHeld_eq tier, State.holdUnits_tier, State.digestFetched_tier tier]

theorem State.digestHeld_store : SameStore (s.digestFetched r c).1 (s.digestHeld r c) := by
  rw [State.digestHeld_eq tier]
  exact SameStore.holdUnits _ _ _ _

/-- The write has the status that it would have before the units are held. -/
theorem State.digestWritten_status : (s.digestWritten r c).2 =
    ((s.digestFetched r c).1.writeAs r.part.val (c.desc 1).base (leBytes 8 (crc64 (s.digestData r c)))).2 :=
  ((State.digestHeld_store tier).writeAs
    ((State.liveObjs_nil (State.digestHeld_tier tier)).trans (State.liveObjs_nil (State.digestFetched_tier tier)).symm) _ _ _).2

theorem State.digestWritten_in (ok : (s.digestWritten r c).2 = 0) (fits : (c.desc 1).base + 8 ≤ t2Base) {i : Nat} (lt : i < 8) :
    (s.digestWritten r c).1.cell ((c.desc 1).base + i) = (leBytes 8 (crc64 (s.digestData r c))).getD i 0 :=
  State.cell_writeAs_in (State.digestHeld_tier tier) _ ok (by rwa [leBytes_length]) (by omega)

theorem State.digestWritten_out {a : Nat} (out : a < (c.desc 1).base ∨ (c.desc 1).base + 8 ≤ a) : (s.digestWritten r c).1.cell a = s.cell a := by
  rw [State.digestWritten, State.cell_writeAs_out (State.digestHeld_tier tier) _ (by rwa [leBytes_length]),
    KeepsMem.of_mem (State.digestHeld_store tier).mem, (Touched.digestFetched s r c).cell]

end

end

end Sys2Proof.Machine
end

section
/-! SUPPORT. Snapshots, restores, the ledger and digests: the statement. -/

namespace Sys2Proof.Machine

open Sys2Proof.Safety

/-- Settles O58: each command has its branches, and each branch is the case lemma of that command; ends rest on the queues alone, bytes on the memory and the
stacks alone. -/
theorem snapshotsAndDigests : Obligations.SnapshotsAndDigests := by
  unfold Obligations.SnapshotsAndDigests
  refine ⟨?_, fun c s idle => exec_snapshot_none idle, fun k tag st data s none => exec_snapCpl_none none, ?_, ?_, ?_, ?_, ?_, ?_, ?_, ?_⟩
  · intro c d s run p g waits x y img a
    have work : Worked s y.1 := Worked.snapRead s c d
    refine ⟨fun wait => ?_, fun go held => ?_, fun go free bad => ?_, fun go free read bad => ?_, fun go free read led long => ?_,
      fun go free read led fits => ?_⟩
    · rw [exec_snapshot run, State.snapshot_waits wait]
    · exact ⟨_, (exec_snapshot run).trans (congrArg _ (State.snapshot_held go held)), CmdEnded.failRun_running run _⟩
    · exact ⟨_, (exec_snapshot run).trans (congrArg _ (State.snapshot_unread go free bad)), CmdEnded.failRun_after run (Worked.snapFetched s c d).queues _,
        (Touched.fetchTensors s _ _ _).keepsMem⟩
    · exact ⟨_, (exec_snapshot run).trans (congrArg _ (State.snapshot_ledgerless go free read bad)), CmdEnded.failRun_after run work.queues _⟩
    · exact ⟨_, (exec_snapshot run).trans (congrArg _ (State.snapshot_long go free read led long)), CmdEnded.failRun_after run work.queues _⟩
    · rw [exec_snapshot run, State.snapshot_fits go free read led fits]
      refine ⟨fun layer bad => ?_, fun layer ok gone alone idle => ?_, fun layer ok live => ?_, fun layer absent => ?_, fun layer there => ?_⟩
      · exact ⟨_, congrArg Host.Outcome.next (if_pos layer), CmdEnded.snapLocal_unwritten run work bad⟩
      · have dig : y.1.snapDig d = none ∨ s.digestRanks g = [] := alone.imp_left fun no => if_neg (by simp [no])
        obtain ⟨ended, mem, prot, w, copies⟩ := State.snapLocal_alone run work ok gone dig idle
        refine ⟨_, congrArg Host.Outcome.next (if_pos layer), ended, prot, fun digest => w ?_, ⟨_, copies _ (y.1.copyWritten_lists c d img _) rfl rfl, rfl, rfl, rfl, rfl, rfl⟩,
          fun tier fit => ⟨fun i lt => ?_, fun b out => ?_⟩⟩
        · show (y.1.snapDig d).isSome = true
          rw [State.snapDig, if_pos digest]
          rfl
        · exact State.copyWritten_in mem (work.tier.trans tier) ok fit lt
        · exact State.copyWritten_out mem (work.tier.trans tier) out
      · exact ⟨_, congrArg Host.Outcome.next (if_pos layer), State.snapLocal_live work ok _ live⟩
      · exact ⟨_, _, rfl, CmdEnded.snapImaged_absent run work layer absent, State.snapStatus_pos _⟩
      · exact ⟨_, rfl, State.snapImaged_sends work layer there (State.imageOf_pos _ _ _)⟩
  · intro k o d tag st data s found more
    have out : ((s.completed o).snapOut o.ref).isEmpty = !more := s.snapOut_completed o o.ref
    rw [exec_snapCpl found]
    refine ⟨fun x run listed => ⟨fun ok last => ?_, fun ok goes => ?_, fun bad => ?_⟩, fun run => ⟨fun ok last => ?_, fun ok goes => ?_, fun bad => ?_⟩,
      fun x run listed bad => ?_⟩
    · subst ok
      exact ⟨_, rfl, State.snapCpl_durable data run listed (by simp [out, last]) _ rfl⟩
    · subst ok
      have on := Posted.completed s o
      rw [State.snapServe_goesOn data run listed (by simp [out, goes])]
      exact ⟨_, rfl, on.queues, on.mem, on.rcv, on.regs⟩
    · exact ⟨_, _, rfl, State.snapStatus_pos _, State.snapCpl_fails data run listed bad _ rfl⟩
    · subst ok
      exact ⟨_, rfl, State.exportCpl_done data run (by simp [out, last]) _ rfl⟩
    · subst ok
      have on := Posted.completed s o
      rw [State.snapServe_exported data run, if_neg (by simp [out, goes])]
      exact ⟨_, rfl, on.queues, on.mem⟩
    · exact ⟨_, _, rfl, State.snapStatus_pos _, State.exportCpl_fails data run bad _ rfl⟩
    · exact ⟨_, rfl, State.restoreCpl_fails data run listed bad _ rfl⟩
  · intro c d s run new p asks dst
    rw [exec_restore run]
    refine ⟨fun src => ?_, fun src there => ?_, fun src none => ?_, fun src none => ?_, fun src some => ?_, fun src => ?_⟩
    · exact ⟨_, rfl, State.restore_local new src ▸ RestEnds.fromLocal run⟩
    · obtain ⟨⟨mem, queues, listed⟩, regs⟩ := State.restAsks_routed (c := d) there
      rw [State.restore_partner new src]
      exact ⟨_, rfl, ⟨mem, queues, listed⟩, regs⟩
    · exact ⟨_, rfl, State.restAsks_unrouted run new none _ (State.restore_partner new src)⟩
    · rw [State.restore_replicas new src, if_pos (List.isEmpty_iff.mpr none)]
      exact ⟨_, rfl, CmdEnded.restNoSource run rfl, State.restNoSource_mem⟩
    · rw [State.restore_replicas new src, if_neg (by simpa using some)]
      exact ⟨_, rfl, (State.restAsks_replicas run).imp_left fun ⟨mem, queues, listed⟩ => ⟨mem, queues, listed⟩⟩
    · obtain ⟨⟨mem, queues, listed⟩, out, regs⟩ := State.restore_layer_asks _ (State.restore_layer new src)
      exact ⟨_, rfl, ⟨mem, queues, listed⟩, out, regs⟩
  · exact fun c s idle => exec_restore_idle idle
  · intro c d s run
    rw [exec_ledger run]
    refine ⟨fun op => ?_, fun op read bad => ⟨_, rfl, State.ledgerRun_refused run op read bad⟩, fun op => ?_⟩
    · have ended : ∃ st, CmdEnded (s.ledgerRun c d) c st ∧ (cOparg d % 16 = 1 → st = (s.ledgerReadAll c.part.val d).2) := by
        obtain zero | one | two : cOparg d % 16 = 0 ∨ cOparg d % 16 = 1 ∨ cOparg d % 16 = 2 := by omega
        · exact (CmdEnded.ledgerRun_register run zero).imp fun st h => ⟨h, by omega⟩
        · exact ⟨_, CmdEnded.ledgerRun_read run one, fun _ => rfl⟩
        · exact (CmdEnded.ledgerRun_mark run two).imp fun st h => ⟨h, by omega⟩
      obtain ⟨st, ended, status⟩ := ended
      exact ⟨_, st, rfl, ended, fun one ok col tier fits i lt => State.ledgerRun_read_cell one ((status one).symm.trans ok) col tier fits lt⟩
    · rw [State.ledgerRun_export op]
      refine ⟨fun old => congrArg _ (if_pos old), fun new bad => ⟨_, rfl, State.exportRun_unread run new bad⟩,
        fun new read hbm => ⟨_, _, rfl, CmdEnded.exportRun_hbm run new read hbm, rfl⟩,
        fun new read host gone => ⟨_, _, rfl, CmdEnded.exportRun_absent run new read host gone, State.snapStatus_pos _⟩,
        fun new read host there => ⟨_, rfl, State.exportRun_sends run new read host there⟩⟩
  · exact fun c s idle => exec_ledger_none idle
  · intro p s low high fits
    have stored : (s.ledgerStored p.val).ledgerOn p.val = fits := State.ledgerStored_on low high
    rw [exec_ledgerEnable]
    refine ⟨fun off fit => ?_, fun on fit => ?_, fun out => ?_⟩
    · have log2 := State.ledgerStored_log2 low high fit
      obtain ⟨on, size, used, queues⟩ := State.ledgerScan_on (s.ledgerStored p.val) p.val (log2.trans_le high)
      rw [stored, fit, off]
      exact ⟨_, rfl, on.trans (stored.trans fit), size.trans (congrArg (2 ^ ·) log2), used, queues.trans (s.ledgerStored_queues p.val)⟩
    · rw [on, Bool.not_true, Bool.and_false]
      exact ⟨_, rfl, stored.trans fit, congrArg (2 ^ ·) (State.ledgerStored_log2 low high fit), s.ledgerStored_mem p.val, s.ledgerStored_queues p.val⟩
    · rw [stored, out, Bool.false_and]
      exact ⟨_, rfl, stored.trans out, s.ledgerStored_mem p.val, s.ledgerStored_queues p.val⟩
  · intro c d s run x y v
    rw [exec_digest run]
    refine ⟨fun waits => congrArg _ (State.digest_waits waits), fun ready free => ?_, fun ready free => ?_⟩
    all_goals
      have same : x.1 = s := State.t2Stage_ready ready
      rw [same] at free
      have fetched : y = s.digestFetched c d := congrArg (fun t : State => t.fetchTensors c.part.val d.listed) same
      have value : v = leBytes 8 (crc64 (s.digestData c d)) := congrArg (fun z : State × Nat => leBytes 8 (crc64 (z.1.digestStream d.listed))) fetched
      rw [fetched]
    · exact fun bad => ⟨_, congrArg _ (State.digest_fails ready free bad), CmdEnded.failRun_after run (s.digestDropped_queues c d) _⟩
    · intro read
      obtain ⟨u, held⟩ := State.digestWritten_held (r := c) (c := d) free
      have only := OnlyQueues.endRun (s.digestWritten c d).1 c (d.record (d.desc 1) (s.digestCounts c d)) (s.digestWritten c d).2
      have cells := KeepsMem.of_mem only.mem
      obtain ⟨owner, owned⟩ := only.heldBy held
      refine ⟨_, _, u, congrArg _ (State.digest_writes ready free read),
        CmdEnded.endRun_after run (s.digestWritten_queues c d) (Cmd.record_slot _ _ _) (Cmd.record_fail _ _ _) _, owner, owned, fun tier => ?_⟩
      rw [value]
      exact ⟨State.digestWritten_status tier, fun ok fits => ⟨fun i lt => (cells _).trans (State.digestWritten_in tier ok fits lt),
        fun a out => (cells a).trans (State.digestWritten_out tier out)⟩⟩
  · exact fun c s idle => exec_digest_none idle

end Sys2Proof.Machine
end
